-- ==== Sys2Proof/Word.lean ====
section
/-! DEFINITION. The word types of the TN40 and their plainest arithmetic. -/

namespace Sys2Proof

/-- The 32 bits of one register in one lane (R3, R112). -/
abbrev Word := BitVec 32

/-- A 64-bit value: a register pair, an address, a memory double word. -/
abbrev DWord := BitVec 64

/-- One byte of memory. -/
abbrev Byte := BitVec 8

/-- A lane mask: bit l stands for lane l. -/
abbrev Mask := BitVec 32

/-- The number of a register, v0 to v127. -/
abbrev RegNo := BitVec 7

/-- The lanes of a group, in ascending order (R3). -/
def lanesOf : List Nat := [0, 1, 2, 3, 4, 5, 6, 7, 8, 9, 10, 11, 12, 13, 14, 15,
  16, 17, 18, 19, 20, 21, 22, 23, 24, 25, 26, 27, 28, 29, 30, 31]

/-- A mask holds lane `l`. -/
def Mask.has (m : Mask) (l : Nat) : Bool := m.getLsbD l

/-- The lanes of a mask, ascending. -/
def Mask.lanes (m : Mask) : List Nat := lanesOf.filter (fun l => m.getLsbD l)

/-- The mask of the lanes that satisfy `p`. -/
def maskOf (p : Nat → Bool) : Mask :=
  lanesOf.foldl (fun m l => if p l then m ||| (1#32 <<< l) else m) 0#32

/-- The lowest lane of a mask, 0 for an empty mask. -/
def Mask.lowest (m : Mask) : Nat := (Mask.lanes m).headD 0

/-- Bits [lo+n-1 : lo] of a natural number. -/
def bits (w lo n : Nat) : Nat := w / 2 ^ lo % 2 ^ n

/-- The leading lane of lane `l`'s quarter, Lead(l) of R106. -/
def lead (l : Nat) : Nat := 8 * (l / 8)

/-- Two registers as one 64-bit value, Reg64 of R106. -/
def pair64 (lo hi : Word) : DWord := BitVec.ofNat 64 (hi.toNat * 4294967296 + lo.toNat)

/-- The low word of a 64-bit value. -/
def lo32 (x : DWord) : Word := BitVec.ofNat 32 x.toNat

/-- The high word of a 64-bit value. -/
def hi32 (x : DWord) : Word := BitVec.ofNat 32 (x.toNat / 4294967296)

/-- A small natural number, a boolean as a word. -/
def boolWord (b : Bool) : Word := if b then 1#32 else 0#32

/-- A value below a limit, else the limit: counters that saturate. -/
def satTo (limit n : Nat) : Nat := if n ≤ limit then n else limit

/-- The little-endian bytes of a number, `n` of them (R5). -/
def leBytes : Nat → Nat → List Byte
  | 0, _ => []
  | n + 1, v => BitVec.ofNat 8 v :: leBytes n (v / 256)

/-- The number that little-endian bytes stand for (R5). -/
def leNat : List Byte → Nat
  | [] => 0
  | b :: bs => b.toNat + 256 * leNat bs

/-- The big-endian bytes of a number, `n` of them. -/
def beBytes (n v : Nat) : List Byte := (leBytes n v).reverse

/-- The number that big-endian bytes stand for. -/
def beNat (bs : List Byte) : Nat := leNat bs.reverse

end Sys2Proof
end

