-- ==== Sys2Proof/Config.lean ====
section
/-! DEFINITION. What the TN40 fixes as constants (R1), and the values the manual leaves open, as constants with no body. -/

namespace Sys2Proof.Config

/-- Compute dies of a package (R1). -/
def dies : Nat := 4
/-- Halls of a package (R1). -/
def halls : Nat := 384
/-- Halls of a die (R1). -/
def hallsPerDie : Nat := 96
/-- Halls of a gallery (R1). -/
def hallsPerGallery : Nat := 4
/-- Slots of a hall (R66). -/
def slotsPerHall : Nat := 32
/-- Scratchpad tiles of a hall (R1). -/
def tilesPerHall : Nat := 512
/-- Bytes of a scratchpad tile (R1). -/
def tileBytes : Nat := 1024
/-- Accumulator tiles of a hall (R1). -/
def accPerHall : Nat := 256
/-- TLB entries of a hall (R1). -/
def tlbEntries : Nat := 2048
/-- Sets of an L2 slice: 4 MiB of 128-byte lines in 16 ways (R1). -/
def l2Sets : Nat := 2048
/-- Ways of an L2 set (R1). -/
def l2Ways : Nat := 16
/-- The most packages of a domain (R1). -/
def maxPackages : Nat := 512
/-- Flodric ports of a package (R21). -/
def linkPorts : Nat := 16
/-- Range scoreboard entries of a hall (R210). -/
def rangeEntries : Nat := 32
/-- Outstanding memory requests of a hall (R1, R216). -/
def maxRequests : Nat := 1024
/-- Outstanding words of a group per counter (R216). -/
def maxCounter : Nat := 255
/-- Queues (R10). -/
def queues : Nat := 4096
/-- Contexts (R10). -/
def contexts : Nat := 256
/-- Pending-launch entries of a die (R58). -/
def storeEntries : Nat := 4096
/-- Block-phaser entries of a hall (R280). -/
def phaserEntries : Nat := 64
/-- Cycles of the newel's deadlock sampling: 100 us at 2.4 GHz (R62, R1). -/
def deadlockPeriod : Nat := 240000
/-- Cycles of score decay (R335). -/
def decayPeriod : Nat := 1048576
/-- Cycles of a lockstep interval (R341). -/
def lockstepInterval : Nat := 4096

/-- The package serial number (R14): the manual gives no value. A free value, log entry 6. -/
opaque serial : DWord
/-- What fixes the private identity key, which never leaves the security block (R14): the key is 1 more than this modulo n − 1. A
free value, log entry 6. -/
opaque privateKey : Nat
/-- The package power in units of 0.5 W that a sensor read returns (R18). A free value, one for each read. Log entry 7. -/
opaque powerReading : Nat → BitVec 32
/-- The junction temperatures that a sensor read returns (R18). A free value, one for each read. Log entry 7. -/
opaque temperatureReading : Nat → Nat → Byte
/-- The packages of the load-store domain (R35), up to 512 (R1): one more than this, which the installation sets. A free value, log
entry 6. -/
opaque domainOthers : Fin 512
/-- The packages of the load-store domain (R1, R35). -/
def domainPackages : Nat := domainOthers.val + 1
/-- The number of the package in its domain (R152): set by the installation, not by the manual. Log entry 6. -/
opaque pkgId : BitVec 9
/-- The L2 slice of a physical line within its die, a hash the manual does not give (R208). Log entry 8. -/
opaque sliceHash : Nat → Fin 16
/-- The set of a physical line within its slice; the manual gives no index (R83). Log entry 8. -/
opaque l2Set : Nat → Fin 2048
/-- Whether a physical address is host memory; the manual gives no physical address map (R208). Log entry 8. -/
opaque isHostMemory : Nat → Bool
/-- The die whose stacked DRAM holds a physical address; no map is given (R208). Log entry 8. -/
opaque dieOf : Nat → Fin 4
/-- Whether a physical address is homed on another package (R286); no map is given. Log entry 8. -/
opaque isRemote : Nat → Bool
/-- Bytes whose value the manual leaves open (destinations of a running or failed collective, R303, R304). Log entry 9. -/
opaque freeByte : Nat → Byte
/-- Which array in service performs an operation again (R237, R244). Log entry 12. -/
opaque arrayPick : Nat → Nat
/-- The bytes of a core dump before its notes, and of each note; the manual gives what a note holds but not every width (R372,
R373). Log entry 10. -/
opaque dumpHeader : Nat
opaque noteBytes : Nat → Nat
/-- The bytes of each field of a group record, which the manual does not give (R373). Log entry 10. -/
opaque recordWidths : Nat → Nat

end Sys2Proof.Config
end

