-- ==== Sys2Proof/Syntax.lean ====
section
/-! DEFINITION. The instruction set: one constructor per row of spec/opcode_table.json. The first 165 are the instruction
words of R132 in the table's order, their fields those of R95 (the chain bit C stands beside the instruction, in
`ChainWord`). The other 110 are the device's other steps, those of the host, the newel firmware, the engines and the
links; their operands say which step it is and hold what the acting party chooses; those that the device itself brings about stand first. -/

namespace Sys2Proof

/-- What the driver gives when it creates a context (R71, R73, R92, R124, R212, R325). -/
structure CtxParams where
  /-- physical address of the page-table root (R73) -/
  root : Nat
  /-- the checking scoreboard is on (R92) -/
  checking : Bool
  /-- the context holds bounded-mode resources (R37, R124) -/
  bounded : Bool
  /-- lockstep die mask, 0 for none (R71) -/
  lockMask : BitVec 4
  /-- virtual address of the publish table, 0 for none (R212) -/
  pubTable : DWord
  deriving DecidableEq, Repr

/-- A bind record with the hall and slot it is written to (R66). -/
structure BindWrite where
  /-- the context that the newel firmware binds for; the record itself names only the task's TCB -/
  ctx : Nat
  hall : Nat
  slot : Nat
  w0 : DWord
  w1 : DWord
  w2 : DWord
  w3 : DWord
  deriving DecidableEq, Repr

/-- A placement decision of the newel for a lockstep context, as the bridge carries it (R71). -/
inductive Decision where
  /-- a bind record -/
  | bind (r : BindWrite)
  /-- a page begins to move -/
  | move (ctx : Nat) (va : DWord)
  deriving DecidableEq, Repr

/-- Where an uncorrectable error strikes (R337). -/
inductive ErrPlace where
  /-- the 32-byte granule of DRAM, L2 or a stash at a physical address -/
  | granule (pa : Nat)
  /-- a byte of a block's scratchpad -/
  | scratch (ctx seq blk off : Nat)
  /-- a register of a lane of the group in a slot -/
  | reg (hall slot lane : Nat) (n : RegNo)
  /-- an element of an accumulator tile -/
  | tile (hall slot k row col : Nat)
  deriving DecidableEq, Repr

/-- An edit made through the group view (R374). -/
inductive ViewEdit where
  | reg (lane : Nat) (n : RegNo) (v : Word)
  | tag (lane : Nat) (n : RegNo) (code : BitVec 4)
  | lpc (lane : Nat) (v : Word)
  | laneState (lane : Nat) (code : BitVec 2)
  | scratch (off : Nat) (v : Byte)
  deriving DecidableEq, Repr

/-- One entry of the live link table (R297): a package's port, its peer, and the state 0 down, 1 training, 2 up. -/
structure LinkEntry where
  pkg : Nat
  port : Nat
  peer : Nat
  peerPort : Nat
  state : Nat
  deriving DecidableEq, Repr

/-- What a partial value says of its collective (R302): the members of its set in rank order, OP, RED, DT, LEN, ROOT. -/
structure CollHead where
  members : List Nat
  op : Nat
  red : Nat
  dt : Nat
  len : Nat
  root : Nat
  deriving DecidableEq, Repr, Inhabited

/-- A package's place in a tree of a tree set (R298): its parent, the parent's port, and its own port to the parent. The root
has no parent. -/
structure TreeNode where
  pkg : Nat
  parent : Option Nat
  parentPort : Nat
  port : Nat
  deriving DecidableEq, Repr

/-- A new key interval for a task in a relabelling (R347). -/
structure KeyInterval where
  seq : Nat
  lo : DWord
  hi : DWord
  nextKey : DWord
  deriving DecidableEq, Repr

/-- The instruction set and the device's other steps. -/
inductive Instr where
  /-- NOP (R103): No operation beyond the lpc advance of the chain. -/
  | nop
  /-- IADD (R136): 32-bit integer add, wrapping modulo 2^32. -/
  | iadd (u : Bool) (d : BitVec 7) (a : BitVec 7) (b : BitVec 7)
  /-- ISUB (R136): 32-bit integer subtract, wrapping modulo 2^32. -/
  | isub (u : Bool) (d : BitVec 7) (a : BitVec 7) (b : BitVec 7)
  /-- IMUL (R136): Low 32 bits of an integer product. -/
  | imul (u : Bool) (d : BitVec 7) (a : BitVec 7) (b : BitVec 7)
  /-- IMULH_S (R136): High 32 bits of a signed product. -/
  | imulhS (u : Bool) (d : BitVec 7) (a : BitVec 7) (b : BitVec 7)
  /-- IMULH_Z (R136): High 32 bits of an unsigned product. -/
  | imulhZ (u : Bool) (d : BitVec 7) (a : BitVec 7) (b : BitVec 7)
  /-- IMAD (R136): Multiply two sources and add vd, modulo 2^32. -/
  | imad (u : Bool) (d : BitVec 7) (a : BitVec 7) (b : BitVec 7)
  /-- IMIN (R136): Signed or unsigned integer minimum. -/
  | imin (u : Bool) (z : Bool) (d : BitVec 7) (a : BitVec 7) (b : BitVec 7)
  /-- IMAX (R136): Signed or unsigned integer maximum. -/
  | imax (u : Bool) (z : Bool) (d : BitVec 7) (a : BitVec 7) (b : BitVec 7)
  /-- IABS (R136): Integer absolute value. -/
  | iabs (d : BitVec 7) (a : BitVec 7)
  /-- AND (R137): Bitwise AND. -/
  | and (u : Bool) (d : BitVec 7) (a : BitVec 7) (b : BitVec 7)
  /-- OR (R137): Bitwise OR. -/
  | or (u : Bool) (d : BitVec 7) (a : BitVec 7) (b : BitVec 7)
  /-- XOR (R137): Bitwise exclusive OR. -/
  | xor (u : Bool) (d : BitVec 7) (a : BitVec 7) (b : BitVec 7)
  /-- ANDN (R137): Bitwise AND with the complement of the second source. -/
  | andn (u : Bool) (d : BitVec 7) (a : BitVec 7) (b : BitVec 7)
  /-- SHL (R137): Logical shift left by y[4:0]. -/
  | shl (u : Bool) (d : BitVec 7) (a : BitVec 7) (b : BitVec 7)
  /-- SHR (R137): Logical shift right by y[4:0]. -/
  | shr (u : Bool) (d : BitVec 7) (a : BitVec 7) (b : BitVec 7)
  /-- SHA (R137): Arithmetic shift right by y[4:0]. -/
  | sha (u : Bool) (d : BitVec 7) (a : BitVec 7) (b : BitVec 7)
  /-- POPC (R137): Count of one bits. -/
  | popc (d : BitVec 7) (a : BitVec 7)
  /-- CLZ (R137): Count of leading zero bits. -/
  | clz (d : BitVec 7) (a : BitVec 7)
  /-- BREV (R137): Bit reversal. -/
  | brev (d : BitVec 7) (a : BitVec 7)
  /-- BFX (R138): Bit-field extract, zero- or sign-extended. -/
  | bfx (u : Bool) (z : Bool) (d : BitVec 7) (a : BitVec 7) (b : BitVec 7)
  /-- BFI (R138): Bit-field insert into vd. -/
  | bfi (u : Bool) (d : BitVec 7) (a : BitVec 7) (b : BitVec 7)
  /-- ICMP (R141): Integer compare writing 1 or 0. -/
  | icmp (rel : BitVec 3) (d : BitVec 7) (a : BitVec 7) (b : BitVec 7)
  /-- SEL (R142): Select va or vb by the condition held in vd. -/
  | sel (u : Bool) (d : BitVec 7) (a : BitVec 7) (b : BitVec 7)
  /-- A64 (R143): 64-bit address add of two pairs. -/
  | a64 (u : Bool) (d : BitVec 7) (a : BitVec 7) (b : BitVec 7)
  /-- A64S (R143): 64-bit address plus a scaled sign-extended index. -/
  | a64s (u : Bool) (sc : BitVec 2) (d : BitVec 7) (a : BitVec 7) (b : BitVec 7)
  /-- SHFL (R144): Read another lane's va by an index pattern. -/
  | shfl (u : Bool) (pat : BitVec 2) (d : BitVec 7) (a : BitVec 7) (b : BitVec 7)
  /-- VANY (R145): Vote: 1 if any active lane has va different from vb. -/
  | vany (u : Bool) (d : BitVec 7) (a : BitVec 7) (b : BitVec 7)
  /-- VALL (R145): Vote: 1 if every active lane has va different from vb. -/
  | vall (u : Bool) (d : BitVec 7) (a : BitVec 7) (b : BitVec 7)
  /-- VBAL (R145): Ballot mask of active lanes where va differs from vb. -/
  | vbal (u : Bool) (d : BitVec 7) (a : BitVec 7) (b : BitVec 7)
  /-- RADD (R146): Sum of va over active lanes, plus vb per lane. -/
  | radd (u : Bool) (d : BitVec 7) (a : BitVec 7) (b : BitVec 7)
  /-- RMIN (R146): Signed minimum of va over active lanes. -/
  | rmin (d : BitVec 7) (a : BitVec 7)
  /-- RMAX (R146): Signed maximum of va over active lanes. -/
  | rmax (d : BitVec 7) (a : BitVec 7)
  /-- IDP4 (R190): Four-element 8-bit integer dot product accumulated into vd. -/
  | idp4 (u : Bool) (z : Bool) (d : BitVec 7) (a : BitVec 7) (b : BitVec 7)
  /-- IADDI (R139): Add a sign-extended 10-bit immediate. -/
  | iaddi (d : BitVec 7) (a : BitVec 7) (imm : BitVec 10)
  /-- ANDI (R139): AND with a zero-extended immediate. -/
  | andi (d : BitVec 7) (a : BitVec 7) (imm : BitVec 10)
  /-- ORI (R139): OR with a zero-extended immediate. -/
  | ori (d : BitVec 7) (a : BitVec 7) (imm : BitVec 10)
  /-- XORI (R139): XOR with a zero-extended immediate. -/
  | xori (d : BitVec 7) (a : BitVec 7) (imm : BitVec 10)
  /-- SHLI (R139): Logical shift left by an immediate. -/
  | shli (d : BitVec 7) (a : BitVec 7) (imm : BitVec 5)
  /-- SHRI (R139): Logical shift right by an immediate. -/
  | shri (d : BitVec 7) (a : BitVec 7) (imm : BitVec 5)
  /-- SHAI (R139): Arithmetic shift right by an immediate. -/
  | shai (d : BitVec 7) (a : BitVec 7) (imm : BitVec 5)
  /-- ICMPI (R141): Integer compare against a 7-bit immediate. -/
  | icmpi (d : BitVec 7) (a : BitVec 7) (rel : BitVec 3) (imm : BitVec 7)
  /-- A64I (R143): 64-bit address plus a sign-extended immediate. -/
  | a64i (d : BitVec 7) (a : BitVec 7) (imm : BitVec 10)
  /-- LI (R140): Load a sign-extended 17-bit immediate. -/
  | li (d : BitVec 7) (imm : BitVec 17)
  /-- LIH (R140): Load the immediate into bits [31:15] and keep the low 15 bits. -/
  | lih (d : BitVec 7) (imm : BitVec 17)
  /-- CBSEL (R195): Select the group's codebook slot CBS. -/
  | cbsel (imm : BitVec 3)
  /-- FADD (R185): FP32 add, rounded once. -/
  | fadd (u : Bool) (rm : BitVec 2) (d : BitVec 7) (a : BitVec 7) (b : BitVec 7)
  /-- FSUB (R185): FP32 subtract, rounded once. -/
  | fsub (u : Bool) (rm : BitVec 2) (d : BitVec 7) (a : BitVec 7) (b : BitVec 7)
  /-- FMUL (R185): FP32 multiply, rounded once. -/
  | fmul (u : Bool) (rm : BitVec 2) (d : BitVec 7) (a : BitVec 7) (b : BitVec 7)
  /-- FFMA (R185): Fused FP32 multiply-add with one rounding. -/
  | ffma (u : Bool) (rm : BitVec 2) (d : BitVec 7) (a : BitVec 7) (b : BitVec 7)
  /-- FFMS (R185): Fused FP32 multiply-subtract with one rounding. -/
  | ffms (u : Bool) (rm : BitVec 2) (d : BitVec 7) (a : BitVec 7) (b : BitVec 7)
  /-- FMIN (R186): FP32 minimum. -/
  | fmin (u : Bool) (d : BitVec 7) (a : BitVec 7) (b : BitVec 7)
  /-- FMAX (R186): FP32 maximum. -/
  | fmax (u : Bool) (d : BitVec 7) (a : BitVec 7) (b : BitVec 7)
  /-- FNEG (R186): Invert the sign of an FP32 value. -/
  | fneg (d : BitVec 7) (a : BitVec 7)
  /-- FABS (R186): Clear the sign of an FP32 value. -/
  | fabs (d : BitVec 7) (a : BitVec 7)
  /-- FCPSGN (R186): Copy the sign of vb onto va. -/
  | fcpsgn (u : Bool) (d : BitVec 7) (a : BitVec 7) (b : BitVec 7)
  /-- FCMP (R187): FP32 compare writing 1 or 0. -/
  | fcmp (rel : BitVec 3) (d : BitVec 7) (a : BitVec 7) (b : BitVec 7)
  /-- FSQRT (R188): Correctly rounded square root. -/
  | fsqrt (rm : BitVec 2) (d : BitVec 7) (a : BitVec 7)
  /-- FRCP (R188): Correctly rounded reciprocal. -/
  | frcp (d : BitVec 7) (a : BitVec 7)
  /-- FRSQ (R188): Correctly rounded reciprocal square root. -/
  | frsq (d : BitVec 7) (a : BitVec 7)
  /-- FEXP2 (R188): Correctly rounded power of two. -/
  | fexp2 (d : BitVec 7) (a : BitVec 7)
  /-- FLOG2 (R188): Correctly rounded base-2 logarithm. -/
  | flog2 (d : BitVec 7) (a : BitVec 7)
  /-- FTANH (R188): Correctly rounded hyperbolic tangent. -/
  | ftanh (d : BitVec 7) (a : BitVec 7)
  /-- HADD2 (R189): Packed 16-bit floating add. -/
  | hadd2 (u : Bool) (rm : BitVec 2) (d : BitVec 7) (a : BitVec 7) (b : BitVec 7)
  /-- HMUL2 (R189): Packed 16-bit floating multiply. -/
  | hmul2 (u : Bool) (rm : BitVec 2) (d : BitVec 7) (a : BitVec 7) (b : BitVec 7)
  /-- HFMA2 (R189): Packed 16-bit fused multiply-add. -/
  | hfma2 (u : Bool) (rm : BitVec 2) (d : BitVec 7) (a : BitVec 7) (b : BitVec 7)
  /-- HMAX2 (R189): Packed 16-bit floating maximum. -/
  | hmax2 (u : Bool) (d : BitVec 7) (a : BitVec 7) (b : BitVec 7)
  /-- CVTF (R191): Convert between floating formats of equal element count. -/
  | cvtf (rm : BitVec 2) (d : BitVec 7) (a : BitVec 7) (tgt : BitVec 4)
  /-- CVTI (R191): Convert signed integers to floating point. -/
  | cvti (rm : BitVec 2) (d : BitVec 7) (a : BitVec 7) (tgt : BitVec 4)
  /-- CVTFI (R191): Convert floating point to signed integers. -/
  | cvtfi (rm : BitVec 2) (d : BitVec 7) (a : BitVec 7) (tgt : BitVec 4)
  /-- PK2 (R192): Pack two elements from a register pair. -/
  | pk2 (rm : BitVec 2) (d : BitVec 7) (a : BitVec 7) (tgt : BitVec 4)
  /-- PK4 (R192): Pack four elements from a run of four registers. -/
  | pk4 (rm : BitVec 2) (d : BitVec 7) (a : BitVec 7) (tgt : BitVec 4)
  /-- UNPK2 (R193): Unpack two 16-bit elements into a pair. -/
  | unpk2 (d : BitVec 7) (a : BitVec 7) (tgt : BitVec 4)
  /-- UNPK4 (R193): Unpack four 8-bit elements into four registers. -/
  | unpk4 (d : BitVec 7) (a : BitVec 7) (tgt : BitVec 4)
  /-- DQCB (R196): Decode eight CB4 indices through the selected codebook slot. -/
  | dqcb (rm : BitVec 2) (d : BitVec 7) (a : BitVec 7) (tgt : BitVec 4)
  /-- DQE2 (R198): Decode eight scaled E2M1 elements. -/
  | dqe2 (rm : BitVec 2) (d : BitVec 7) (a : BitVec 7) (tgt : BitVec 4)
  /-- QCB (R197): Quantise eight elements into CB4 indices. -/
  | qcb (rm : BitVec 2) (d : BitVec 7) (a : BitVec 7)
  /-- QE2 (R199): Quantise eight elements into E2M1 codes with a given scale. -/
  | qe2 (rm : BitVec 2) (d : BitVec 7) (a : BitVec 7)
  /-- TAGRD (R200): Read a register's format tag code. -/
  | tagrd (d : BitVec 7) (a : BitVec 7)
  /-- TAGSET (R201): Copy a register and give it a new format tag. -/
  | tagset (d : BitVec 7) (a : BitVec 7) (tgt : BitVec 4)
  /-- LD (R222): Plain global load at .sys scope. -/
  | ld (sz : BitVec 3) (t : BitVec 7) (a : BitVec 7) (off : BitVec 7)
  /-- ST (R222): Plain global store at .sys scope, buffered in the region. -/
  | st (sz : BitVec 3) (t : BitVec 7) (a : BitVec 7) (off : BitVec 7)
  /-- LDO (R222): Global load with scope, order and .last hint. -/
  | ldo (sz : BitVec 3) (t : BitVec 7) (a : BitVec 7) (scope : BitVec 3) (ord : BitVec 2) (last : Bool)
  /-- STO (R222): Global store with scope and order. -/
  | sto (sz : BitVec 3) (t : BitVec 7) (a : BitVec 7) (scope : BitVec 3) (ord : BitVec 2)
  /-- LDL (R224): Scratchpad load. -/
  | ldl (sz : BitVec 3) (t : BitVec 7) (a : BitVec 7) (off : BitVec 7)
  /-- STL (R224): Scratchpad store, buffered in the region. -/
  | stl (sz : BitVec 3) (t : BitVec 7) (a : BitVec 7) (off : BitVec 7)
  /-- LDCB (R194): Load a 32-byte codebook image into a codebook slot. -/
  | ldcb (t : BitVec 7) (a : BitVec 7) (off : BitVec 7)
  /-- MODW (R348): Write a modifiable location and mark its traced readers stale. -/
  | modw (sz : BitVec 3) (t : BitVec 7) (a : BitVec 7) (scope : BitVec 3) (ord : BitVec 2)
  /-- AADD (R276): Atomic integer add. -/
  | aadd (sz : BitVec 3) (t : BitVec 7) (a : BitVec 7) (scope : BitVec 3) (ord : BitVec 2)
  /-- AMIN (R276): Atomic signed or unsigned minimum. -/
  | amin (sz : BitVec 3) (t : BitVec 7) (a : BitVec 7) (scope : BitVec 3) (ord : BitVec 2) (z : Bool)
  /-- AMAX (R276): Atomic signed or unsigned maximum. -/
  | amax (sz : BitVec 3) (t : BitVec 7) (a : BitVec 7) (scope : BitVec 3) (ord : BitVec 2) (z : Bool)
  /-- AAND (R276): Atomic bitwise AND. -/
  | aand (sz : BitVec 3) (t : BitVec 7) (a : BitVec 7) (scope : BitVec 3) (ord : BitVec 2)
  /-- AOR (R276): Atomic bitwise OR. -/
  | aor (sz : BitVec 3) (t : BitVec 7) (a : BitVec 7) (scope : BitVec 3) (ord : BitVec 2)
  /-- AXOR (R276): Atomic bitwise XOR. -/
  | axor (sz : BitVec 3) (t : BitVec 7) (a : BitVec 7) (scope : BitVec 3) (ord : BitVec 2)
  /-- AXCH (R276): Atomic exchange. -/
  | axch (sz : BitVec 3) (t : BitVec 7) (a : BitVec 7) (scope : BitVec 3) (ord : BitVec 2)
  /-- ACAS (R276): Atomic compare-and-swap of a word or doubleword. -/
  | acas (sz : Bool) (t : BitVec 7) (a : BitVec 7) (scope : BitVec 3) (ord : BitVec 2)
  /-- ACAS_Q (R276): Atomic 128-bit compare-and-swap. -/
  | acasQ (t : BitVec 7) (a : BitVec 7) (scope : BitVec 3) (ord : BitVec 2)
  /-- AFADD (R276): Atomic FP32 add rounded RNE. -/
  | afadd (t : BitVec 7) (a : BitVec 7) (scope : BitVec 3) (ord : BitVec 2)
  /-- TKT (R158): Claim a ticket by gang round with a fetch-and-add. -/
  | tkt (d : BitVec 7) (a : BitVec 7) (b : BitVec 7) (ua : Bool) (ub : Bool)
  /-- DEPADD (R157): Atomically adjust predecessor counts and test readiness. -/
  | depadd (d : BitVec 7) (a : BitVec 7) (b : BitVec 7) (ua : Bool) (ub : Bool)
  /-- CPY (R229): Copy-engine linear copy between places. -/
  | cpy (d : BitVec 7) (a : BitVec 7) (b : BitVec 7) (ua : Bool) (ub : Bool)
  /-- CPYT (R230): Copy-engine copy of a box of up to three dimensions. -/
  | cpyt (d : BitVec 7) (a : BitVec 7) (b : BitVec 7) (ua : Bool) (ub : Bool)
  /-- CPYG (R231): Copy-engine gather of rows by an index list. -/
  | cpyg (d : BitVec 7) (a : BitVec 7) (b : BitVec 7) (ua : Bool) (ub : Bool)
  /-- CPYW (R229): Copy into the back set of a publish buffer. -/
  | cpyw (d : BitVec 7) (a : BitVec 7) (b : BitVec 7) (ua : Bool) (ub : Bool)
  /-- PUB (R233): Publish a buffer by swapping its front and back sets. -/
  | pub (a : BitVec 7) (ua : Bool)
  /-- DISC (R232): Discard a range so that it reads zero. -/
  | disc (a : BitVec 7) (b : BitVec 7) (ua : Bool) (ub : Bool)
  /-- PREF (R232): Prefetch a range into L2. -/
  | pref (a : BitVec 7) (b : BitVec 7) (ua : Bool) (ub : Bool)
  /-- SMAP (R226): Map stash tiles to a global range. -/
  | smap (a : BitVec 7) (b : BitVec 7) (ua : Bool) (ub : Bool)
  /-- SFLUSH (R227): Write back dirty stash lines in a range. -/
  | sflush (a : BitVec 7) (b : BitVec 7) (ua : Bool) (ub : Bool)
  /-- SDROP (R227): Remove a stash mapping without write-back. -/
  | sdrop (a : BitVec 7) (ua : Bool)
  /-- TILEV (R225): Set V and clear C on named scratchpad tiles. -/
  | tilev (a : BitVec 7) (b : BitVec 7) (ua : Bool) (ub : Bool)
  /-- TILEC (R225): Set C on named scratchpad tiles. -/
  | tilec (a : BitVec 7) (b : BitVec 7) (ua : Bool) (ub : Bool)
  /-- TILECLR (R225): Track named tiles and clear their V and C. -/
  | tileclr (a : BitVec 7) (b : BitVec 7) (ua : Bool) (ub : Bool)
  /-- COLL (R307): Start a collective on the collective engine. -/
  | coll (d : BitVec 7) (a : BitVec 7) (b : BitVec 7) (ua : Bool) (ub : Bool)
  /-- BR (R147): Branch where the condition register is nonzero. -/
  | br (p : BitVec 7) (off : BitVec 15) (slot : BitVec 2)
  /-- BRZ (R147): Branch where the tested register is zero. -/
  | brz (p : BitVec 7) (off : BitVec 15) (slot : BitVec 2)
  /-- JMP (R147): Unconditional branch. -/
  | jmp (off : BitVec 15) (slot : BitVec 2)
  /-- CALL (R148): Branch and write the link. -/
  | call (p : BitVec 7) (off : BitVec 15) (slot : BitVec 2)
  /-- RBEG (R285): Open an atomic region with a fallback label. -/
  | rbeg (p : BitVec 7) (off : BitVec 15) (slot : BitVec 2)
  /-- JR (R149): Indirect jump to per-lane targets. -/
  | jr (a : BitVec 7) (ua : Bool)
  /-- RET (R149): Indirect jump recorded as a return. -/
  | ret (a : BitVec 7) (ua : Bool)
  /-- EXIT (R150): Mark active lanes exited. -/
  | exit
  /-- YIELD (R151): Make the group youngest on its flight. -/
  | yield
  /-- IDEM (R322): End the idempotent region and start the next. -/
  | idem
  /-- TRET (R318): Return from a trap handler. -/
  | tret
  /-- TABN (R318): Leave the handler, discard held stores and restart the region. -/
  | tabn
  /-- TKILL (R318): End the task in failure from the handler. -/
  | tkill
  /-- RCMT (R291): Commit atomic regions with validation and repair. -/
  | rcmt
  /-- RABT (R294): Abort atomic regions with EXPLICIT. -/
  | rabt
  /-- RDS (R153): Read a state register. -/
  | rds (d : BitVec 7) (imm : BitVec 10)
  /-- WRS (R154): Write a state register. -/
  | wrs (a : BitVec 7) (imm : BitVec 10)
  /-- REGCLM (R155): Claim register blocks from the flight pool. -/
  | regclm (n : BitVec 4)
  /-- REGREL (R155): Release register blocks to the flight pool. -/
  | regrel (n : BitVec 4)
  /-- SPAWN (R156): Spawn a task, returning FULL when no entry is free. -/
  | spawn (d : BitVec 7) (a : BitVec 7) (ua : Bool)
  /-- SPAWNW (R156): Spawn a task, parking while no entry is free. -/
  | spawnw (d : BitVec 7) (a : BitVec 7) (ua : Bool)
  /-- WAITC (R234): Wait until a counter is at most n. -/
  | waitc (ctr : BitVec 2) (n : BitVec 8)
  /-- PHREG (R282): Register with a phaser. -/
  | phreg (d : BitVec 7) (a : BitVec 7) (b : BitVec 7)
  /-- PHMODE (R282): Set a pending phaser mode. -/
  | phmode (d : BitVec 7) (a : BitVec 7) (b : BitVec 7)
  /-- PHDROP (R282): Drop a phaser registration. -/
  | phdrop (d : BitVec 7) (a : BitVec 7)
  /-- PHSIG (R282): Signal the current phase. -/
  | phsig (d : BitVec 7) (a : BitVec 7)
  /-- PHWAIT (R282): Wait for the awaited phase to complete. -/
  | phwait (d : BitVec 7) (a : BitVec 7)
  /-- PHNEXT (R282): Signal then wait by the registration mode. -/
  | phnext (d : BitVec 7) (a : BitVec 7)
  /-- RNGI (R251): Initialise a stage ring. -/
  | rngi (a : BitVec 7) (b : BitVec 7)
  /-- RNGW (R252): Wait for a ring landing's phase. -/
  | rngw (a : BitVec 7) (b : BitVec 7)
  /-- RNGS (R253): Hand a ring landing over by inverting its phase. -/
  | rngs (a : BitVec 7) (b : BitVec 7)
  /-- RSTAT (R295): Read each lane's atomic-region status word. -/
  | rstat (d : BitVec 7)
  /-- CSTAT (R310): Query the local engine about a collective. -/
  | cstat (d : BitVec 7) (a : BitVec 7) (b : BitVec 7) (ua : Bool) (ub : Bool)
  /-- TRAP (R323): Take TRAPI after the chain's effect. -/
  | trap (imm : BitVec 10)
  /-- BRK (R323): Take BREAK after the chain's effect. -/
  | brk (imm : BitVec 10)
  /-- PROP (R352): Start propagation of a trace. -/
  | prop (d : BitVec 7) (a : BitVec 7)
  /-- TRCTL (R357): Enable, free or report a trace arena. -/
  | trctl (d : BitVec 7) (a : BitVec 7) (b : BitVec 7)
  /-- TKEY (R358): Read the task's next key and KEYHI. -/
  | tkey (d : BitVec 7)
  /-- MMQ_BF16 (R247): BF16 quarter matrix multiply-accumulate. -/
  | mmqBf16 (tile : BitVec 4) (a : BitVec 7) (b : BitVec 7) (sb : Bool)
  /-- MMQ_F16 (R247): FP16 quarter matrix multiply-accumulate. -/
  | mmqF16 (tile : BitVec 4) (a : BitVec 7) (b : BitVec 7) (sb : Bool)
  /-- MMQ_E4M3 (R247): E4M3 quarter matrix multiply-accumulate. -/
  | mmqE4m3 (tile : BitVec 4) (a : BitVec 7) (b : BitVec 7) (sb : Bool)
  /-- MMQ_E5M2 (R247): E5M2 quarter matrix multiply-accumulate. -/
  | mmqE5m2 (tile : BitVec 4) (a : BitVec 7) (b : BitVec 7) (sb : Bool)
  /-- MMQ_I8 (R247): Signed INT8 quarter matrix multiply-accumulate into I32. -/
  | mmqI8 (tile : BitVec 4) (a : BitVec 7) (b : BitVec 7) (sb : Bool)
  /-- MMQ_CB4 (R247): CB4 by CB4 quarter matrix multiply-accumulate. -/
  | mmqCb4 (tile : BitVec 4) (a : BitVec 7) (b : BitVec 7) (sb : Bool)
  /-- MMQ_CBBF (R247): CB4 by BF16 quarter matrix multiply-accumulate. -/
  | mmqCbbf (tile : BitVec 4) (a : BitVec 7) (b : BitVec 7) (sb : Bool)
  /-- MMQ_E2M1 (R247): Scaled E2M1 quarter matrix multiply-accumulate, optionally with outliers. -/
  | mmqE2m1 (tile : BitVec 4) (a : BitVec 7) (b : BitVec 7) (sb : Bool) (ol : Bool)
  /-- MMZ (R248): Zero the active quarters' rows of a tile. -/
  | mmz (tile : BitVec 4)
  /-- MMRD (R248): Read tile rows into registers. -/
  | mmrd (tile : BitVec 4) (a : BitVec 7)
  /-- MMWR (R248): Write registers into tile rows. -/
  | mmwr (tile : BitVec 4) (a : BitVec 7)
  /-- MMST (R249): Store tile rows to scratchpad. -/
  | mmst (tile : BitVec 4) (a : BitVec 7)
  /-- MMLD (R249): Load tile rows from scratchpad. -/
  | mmld (tile : BitVec 4) (a : BitVec 7)
  /-- LOAD_RETURN (R216): Parts of a load are performed, `k` at most (0: all that can be); with the last its value is written and lcnt falls. -/
  | loadReturn (hall : Nat) (slot : Nat) (n : Nat) (k : Nat)
  /-- STORE_PERFORMED (R260): Parts of a store, `k` at most (0: all that can be), are performed at their coherence points; with the last scnt falls. -/
  | storePerformed (hall : Nat) (slot : Nat) (n : Nat) (k : Nat)
  /-- ATOMIC_PERFORMED (R276): Lanes of an atomic, `k` at most (0: all that can be), are performed at their units; with the last the old values return. -/
  | atomicPerformed (hall : Nat) (slot : Nat) (n : Nat) (k : Nat)
  /-- CSTAT_ANSWER (R310): The local engine's answer to CSTAT returns to the pending register pair. -/
  | cstatAnswer (hall : Nat) (slot : Nat) (n : Nat)
  /-- PROP_ANSWER (R352): PROP's answer is given after its store wait, possibly starting propagation and raising ecnt. -/
  | propAnswer (hall : Nat) (slot : Nat)
  /-- COLL_ACCEPT (R306): The collective engine accepts a COLL, writes its CID into vd and clears vd's pending mark. -/
  | collAccept (hall : Nat) (slot : Nat)
  /-- MMQ_RETIRE (R243): A quarter operation retires into its tile. -/
  | mmqRetire (hall : Nat) (slot : Nat) (mismatch : Bool)
  /-- REGION_RESTART (R320): The group restarts its idempotent region after the waits. -/
  | regionRestart (hall : Nat) (slot : Nat)
  /-- COMMIT_OUTCOME (R291): Each lane's outcome of a region commit is known after locking and validation, its stores are written, `k` granules at most (0: all), and the REGION stall ends. -/
  | commitOutcome (hall : Nat) (slot : Nat) (k : Nat)
  /-- COMMIT_TIMEOUT (R292): A commit waiting 2,048 cycles on locks aborts with TIMEOUT. -/
  | commitTimeout (hall : Nat) (slot : Nat) (lane : Nat)
  /-- CPYG_ROW_GATHER (R231): The engine classifies and copies one gathered row. -/
  | cpygRowGather (hall : Nat) (n : Nat)
  /-- COPY_COMMAND_RETIRE (R209): A copy-engine command reads `r` and writes `w` more bytes (both 0: all that is left), and once complete retires and frees its scoreboard entries. -/
  | copyCommandRetire (hall : Nat) (n : Nat) (r : Nat) (w : Nat)
  /-- PUB_INSTANT (R214): At instant T SEL inverts and GEN increments. -/
  | pubInstant (ctx : Nat) (entry : Nat)
  /-- PUB_RETIRE (R214): PUB retires after earlier accesses to the buffer are performed. -/
  | pubRetire (ctx : Nat) (entry : Nat)
  /-- STASH_COMMAND_DONE (R227): An SMAP, SFLUSH or SDROP is done, ecnt falls and waiting global accesses of the block proceed. -/
  | stashCommandDone (hall : Nat) (n : Nat)
  /-- BLOCK_RETIRE (R70): All groups exited and stores performed; block slots released. -/
  | blockRetire (ctx : Nat) (seq : Nat) (blk : Nat)
  /-- TASK_RETIRE (R342): Retirement finishes traces, writes records and walks successors. -/
  | taskRetire (ctx : Nat) (seq : Nat)
  /-- REPLAY_RELEASE (R370): A group held by a replay edge is released. -/
  | replayRelease (hall : Nat) (slot : Nat)
  /-- POST (R48): A 64-bit host write to a queue's post register posts a TCB. -/
  | post (q : Nat) (width : Nat) (v : DWord)
  /-- HOST_ACCESS (R272): A host access arrives over Gocen Link, enters coherence order, and is held during migration. -/
  | hostAccess (ctx : Nat) (va : DWord) (write : Bool) (len : Nat) (data : List Byte)
  /-- SCORE_DECAY (R335): Every 2^20 cycles each unit's SCORE falls by 1. -/
  | scoreDecay
  /-- QUEUE_DEADLOCK_SAMPLE (R62): Every 100 µs the newel samples for queue deadlock. -/
  | queueDeadlockSample (q : Nat)
  /-- SAMPLE_FIRE (R366): Every N cycles a hall samples one occupied slot. -/
  | sampleFire (hall : Nat) (ctx : Nat)
  /-- GANG_KILL (R338): Consumed poison kills the gang, which relaunches or fails the task. -/
  | gangKill (ctx : Nat) (seq : Nat) (gang : Nat)
  /-- TAG_VERDICT (R79): A granule tag verdict returns from the DRAM sideband, ending the XLATE wait or trapping TAGCHK. -/
  | tagVerdict (line : Nat)
  /-- PACKET_FETCH_FILL (R86): An instruction-cache miss fills from L2. -/
  | packetFetchFill (hall : Nat) (ctx : Nat) (va : DWord)
  /-- TLB_WALK_COMPLETE (R78): The hall's walker fills a TLB entry. -/
  | tlbWalkComplete (hall : Nat) (ctx : Nat) (va : DWord)
  /-- CORE_DUMP (R371): Newel halts the context, writes the ELF core image and sets DUMPLEN. -/
  | coreDump (ctx : Nat)
  /-- PREEMPTION_COMPLETE (R326): Victim images are written and their slots released. -/
  | preemptionComplete (ctx : Nat) (seq : Nat) (gang : Nat)
  /-- PROPAGATION_COMPLETE (R352): Propagation ends: STATE IDLE, NPROP increments and ecnt falls. -/
  | propagationComplete (ctx : Nat) (arena : DWord)
  /-- STALE_TASK_RESTART (R353): A stale task starts re-execution under propagation. -/
  | staleTaskRestart (ctx : Nat) (seq : Nat)
  /-- COLLECTIVE_COMPLETE (R307): A collective completes: record written, then ecnt falls. -/
  | collectiveComplete (ctx : Nat) (set : Nat) (cid : Nat)
  /-- COLLECTIVE_FAIL (R303): A collective ends FAILED with a cause. -/
  | collectiveFail (ctx : Nat) (set : Nat) (cid : Nat) (cause : BitVec 8)
  /-- ATTESTATION_REPORT_READY (R15): The security block finishes a signed report and clears GO. -/
  | attestationReportReady
  /-- POWER_STATE_EXIT_COMPLETE (R19): Exit from P1 or P2 to P0 completes and waiting posts proceed. -/
  | powerStateExitComplete
  /-- PAGE_RESIDENT (R80): Newel makes the page resident and the group is queued at the region start. -/
  | pageResident (ctx : Nat) (va : DWord) (leaf : DWord)
  /-- MIGRATION_START (R84): Newel sets G and begins moving a page. -/
  | migrationStart (ctx : Nat) (va : DWord)
  /-- MIGRATION_COMPLETE (R84): New FRAME written, G cleared and held accesses released. -/
  | migrationComplete (ctx : Nat) (va : DWord) (frame : Nat)
  /-- SHOOTDOWN_COMPLETE (R77): No hall holds the old translation any more. -/
  | shootdownComplete (ctx : Nat) (va : DWord)
  /-- SLICE_REHOMING_DONE (R336): A fenced L2 slice's addresses finish rehoming, and accesses waiting on XLATE proceed. -/
  | sliceRehomingDone (unit : Nat)
  /-- QUEUE_VISIT (R52): Newel visits a queue, updates its deficit and may dispatch. -/
  | queueVisit (q : Nat)
  /-- BIND_RECORD_WRITE (R67): Newel writes a bind record, which the slot table accepts or refuses. -/
  | bindRecordWrite (r : BindWrite)
  /-- RESTORE (R328): A saved gang is bound, reloaded and its waits re-tested. -/
  | restore (ctx : Nat) (seq : Nat) (gang : Nat) (binds : List BindWrite) (bad : BitVec 2)
  /-- CHUNK_ACK (R301): A member acknowledges a chunk's destination writes to the root. -/
  | chunkAck (ctx : Nat) (set : Nat) (cid : Nat) (chunk : Nat) (tsid : Nat) (rank : Nat)
  /-- PARTIAL_VALUE_RECEIVE (R300): A node combines a chunk partial value from a child. -/
  | partialValueReceive (ctx : Nat) (set : Nat) (cid : Nat) (chunk : Nat) (tsid : Nat) (child : Nat) (data : List Byte) (flags : BitVec 5) (head : CollHead)
  /-- CHUNK_BROADCAST_RECEIVE (R301): A member receives a chunk's result down its tree, writes its destination bytes and acknowledges to the root. -/
  | chunkBroadcastReceive (ctx : Nat) (set : Nat) (cid : Nat) (chunk : Nat) (tsid : Nat) (data : List Byte) (flags : BitVec 5)
  /-- CONTEXT_KILL (R330): A context is killed and its unfinished tasks fail. -/
  | contextKill (ctx : Nat)
  /-- ENTER_P1 (R19): Newel firmware enters P1 when no context is resident. -/
  | enterP1
  /-- THERMAL_SET (R20): A junction reaches 100 °C: THERMAL set and matrix issue halved. -/
  | thermalSet
  /-- THERMAL_CLEAR (R20): Junctions fall below 92 °C and THERMAL clears. -/
  | thermalClear
  /-- THERMAL_SHUTDOWN (R20): A junction reaches 110 °C and the package enters OFF. -/
  | thermalShutdown
  /-- QCFG_WRITE (R47): Privileged write of a queue's configuration register. -/
  | qcfgWrite (q : Nat) (sup : Bool) (v : DWord)
  /-- QOVFBASE_WRITE (R47): Privileged write of a queue's overflow area base. -/
  | qovfbaseWrite (q : Nat) (sup : Bool) (v : DWord)
  /-- QOVFSZ_WRITE (R47): Privileged write of a queue's overflow MAX and CAP. -/
  | qovfszWrite (q : Nat) (sup : Bool) (v : DWord)
  /-- QRBASE_WRITE (R47): Privileged write of a queue's completion ring base and size. -/
  | qrbaseWrite (q : Nat) (sup : Bool) (v : DWord)
  /-- REGISTER_WRITE (R8): Write to a register field with no behaviour of its own, or to an unassigned offset. -/
  | registerWrite (off : Nat) (width : Nat) (sup : Bool) (v : DWord)
  /-- ATTESTATION_GO (R15): Write of GO requests an attestation report. -/
  | attestationGo (v : DWord)
  /-- READ_HEALTH_SUMMARY (R18): I3C command 0x10 returns the first 16 bytes of the health record. -/
  | readHealthSummary
  /-- READ_POWER (R18): I3C command 0x11 returns package power. -/
  | readPower
  /-- READ_TEMPERATURE (R18): I3C command 0x12 returns hottest junction temperatures. -/
  | readTemperature
  /-- REQUEST_REPORT (R16): I3C command 0x20 requests a report into the I3C buffer. -/
  | requestReport (nonce : List Byte) (ctx : Byte)
  /-- READ_REPORT (R18): I3C command 0x21 returns the report once ready. -/
  | readReport
  /-- SET_POWER_STATE_P0 (R19): Set-power-state 0x00 returns the package to P0. -/
  | setPowerStateP0
  /-- SET_POWER_STATE_P1 (R19): Set-power-state 0x01 enters P1 when no context is resident. -/
  | setPowerStateP1
  /-- SET_POWER_STATE_P2 (R19): Set-power-state 0x02 enters P2 when no context exists. -/
  | setPowerStateP2
  /-- SET_POWER_STATE_OFF (R19): Set-power-state 0x03 enters OFF when no context exists. -/
  | setPowerStateOff
  /-- SETDASA (R18): I3C assignment of a dynamic address in place of the static one. -/
  | setdasa (addr : BitVec 7)
  /-- PACKAGE_RESET (R12): Power-on or package reset clears measurements and starts the boot ROM. -/
  | packageReset
  /-- BOOT_LOAD_FIRST_STAGE (R13): Boot ROM loads and measures the first-stage firmware. -/
  | bootLoadFirstStage (loaded : Bool) (image : List Byte)
  /-- BOOT_LOAD_NEWEL_FIRMWARE (R13): First-stage firmware loads and measures the newel firmware. -/
  | bootLoadNewelFirmware (loaded : Bool) (image : List Byte)
  /-- BOOT_LOAD_COLLECTIVE_MICROCODE (R13): First-stage firmware loads and measures the collective microcode. -/
  | bootLoadCollectiveMicrocode (loaded : Bool) (image : List Byte)
  /-- BOOT_RELEASE (R13): Set chain complete, train links and release the newel cores. -/
  | bootRelease (links : List LinkEntry)
  /-- FIRMWARE_RELOAD (R13): Later load of newel firmware or microcode, extending MEAS3. -/
  | firmwareReload (image : List Byte)
  /-- CONTEXT_CREATE (R73): Driver creates a context and installs its page-table root. -/
  | contextCreate (ctx : Nat) (p : CtxParams)
  /-- SET_TRAP_BASE (R316): Driver sets a context's trap base. -/
  | setTrapBase (ctx : Nat) (tbase : DWord)
  /-- SET_WAY_QUOTA (R83): Driver sets a context's L2 way quotas. -/
  | setWayQuota (ctx : Nat) (w : Nat) (a : Nat) (k : Nat) (o : Nat)
  /-- DEFINE_COLLECTIVE_SET (R296): Driver defines or redefines a collective set. -/
  | defineCollectiveSet (ctx : Nat) (set : Nat) (pkgs : List Nat)
  /-- SET_GRANULE_TAGS (R82): Driver sets memory tags of granules. -/
  | setGranuleTags (ctx : Nat) (va : DWord) (n : Nat) (tag : BitVec 4)
  /-- SHOOTDOWN_REQUEST (R77): Driver requests a shootdown to change a resident leaf. -/
  | shootdownRequest (ctx : Nat) (va : DWord) (leaf : DWord)
  /-- RELABEL (R347): Newel relabels a traced launch's key intervals. -/
  | relabel (ctx : Nat) (arena : DWord) (keys : List KeyInterval)
  /-- LINK_DOWN_DECLARE (R297): A link with no flit for 20 µs or too many errors is declared down. -/
  | linkDownDeclare (pkg : Nat) (port : Nat)
  /-- LINK_TABLE_UPDATE (R297): An engine applies a live link table update. -/
  | linkTableUpdate (entry : LinkEntry)
  /-- TREE_SET_RECOMPUTE (R302): Engines adopt a new tree set and restart unfinished chunks. -/
  | treeSetRecompute (trees : List (List TreeNode))
  /-- LOCKSTEP_INTERVAL_COMPARE (R341): Interval digests are compared over the bridge and traffic released or halted. -/
  | lockstepIntervalCompare (ctx : Nat) (digest : DWord)
  /-- LOCKSTEP_DECISION_APPLY (R71, R85): The second package applies a placement or migration decision from the bridge. -/
  | lockstepDecisionApply (d : Decision)
  /-- ERROR_CORRECTED (R335): A corrected error or check charges suspicion to a unit. -/
  | errorCorrected (unit : Nat) (kind : BitVec 2)
  /-- UNIT_TEST_COMPLETE (R336): A targeted test passes or retires the unit. -/
  | unitTestComplete (unit : Nat) (pass : Bool)
  /-- UNCORRECTABLE_ERROR (R337): An uncorrectable error marks data with poison. -/
  | uncorrectableError (place : ErrPlace)
  /-- LOCKSTEP_DIVERGE_CLEAR (R334): W1C write clears LOCKSTEP_DIVERGE in the health record. -/
  | lockstepDivergeClear (v : Word)
  /-- DEBUG_RIGHT_WRITE (R364): Supervisor write grants or revokes the debug right. -/
  | debugRightWrite (ctx : Nat) (sup : Bool) (v : DWord)
  /-- HALT_GROUP (R365): DBGCMD operation 1 halts one group. -/
  | haltGroup (ctx : Nat) (v : DWord)
  /-- RESUME_GROUP (R365): DBGCMD operation 2 releases one group's halt. -/
  | resumeGroup (ctx : Nat) (v : DWord)
  /-- STEP_GROUP (R365): DBGCMD operation 3 issues one chain of a halted group. -/
  | stepGroup (ctx : Nat) (v : DWord)
  /-- HALT_CONTEXT (R365): DBGCMD operation 4 halts every group and engine of the context. -/
  | haltContext (ctx : Nat) (v : DWord)
  /-- RESUME_CONTEXT (R365): DBGCMD operation 5 releases every halt of the context. -/
  | resumeContext (ctx : Nat) (v : DWord)
  /-- TRACE_GROUP_ON (R368): DBGCMD operation 6 enables instruction trace of a group. -/
  | traceGroupOn (ctx : Nat) (v : DWord)
  /-- TRACE_GROUP_OFF (R368): DBGCMD operation 7 disables instruction trace of a group. -/
  | traceGroupOff (ctx : Nat) (v : DWord)
  /-- SELECT_GROUP (R374): DBGCMD operation 8 selects a group for the group view. -/
  | selectGroup (ctx : Nat) (v : DWord)
  /-- TRACE_ALL_ON (R368): DBGCMD operation 9 enables trace of every group of the context. -/
  | traceAllOn (ctx : Nat) (v : DWord)
  /-- TRACE_ALL_OFF (R368): DBGCMD operation 10 disables trace of every group. -/
  | traceAllOff (ctx : Nat) (v : DWord)
  /-- DUMP (R371): DBGCMD operation 11 requests a core dump. -/
  | dump (ctx : Nat) (v : DWord)
  /-- GROUP_VIEW_EDIT (R374): A write through the group view edits a halted group. -/
  | groupViewEdit (ctx : Nat) (e : ViewEdit)
  /-- SMPCFG_WRITE (R366): Write of the sampling configuration enables or disables sampling. -/
  | smpcfgWrite (ctx : Nat) (v : DWord)
  /-- RPCTL_WRITE (R363): Write of the replay mode, accepted only with no block resident or saved. -/
  | rpctlWrite (ctx : Nat) (v : DWord)
  /-- UNLISTED_I3C_COMMAND (R18): An I3C command with an unlisted code is answered with a NACK and changes nothing. -/
  | unlistedI3cCommand (code : Byte)
  /-- SET_POWER_STATE_OTHER_BYTE (R19): A set-power-state command with a byte other than 0x00 to 0x03 is answered with a NACK and changes nothing. -/
  | setPowerStateOtherByte (b : Byte)
  /-- LINK_UP (R297): A Flodric link completes training and enters the live link table as up. -/
  | linkUp (entry : LinkEntry)
  /-- LOCKSTEP_BRIDGE_TRAINED (R22): The lockstep bridge trains, and both packages set lockstep paired. -/
  | lockstepBridgeTrained
  /-- LOCKSTEP_BRIDGE_LOST (R22): The lockstep bridge stops being trained, lockstep paired clears and no partition runs in lockstep. -/
  | lockstepBridgeLost
  /-- CONTEXT_DESTROY (R17): The driver destroys a context, which clears its debug-edited flag and context-exists status. -/
  | contextDestroy (ctx : Nat)
  deriving DecidableEq, Repr, Inhabited

end Sys2Proof
end

