-- ==== Sys2Proof/WellFormed.lean ====
section
/-! DEFINITION. When an instruction is well formed: the conditions on its fields whose breach traps ILLEGAL (R96 to R99,
R101, R102, R152, R239, R248, R306, R310, R358). Of the device's other steps, whether their operands name things that exist. -/

namespace Sys2Proof

/-- A register field that names a pair (R96). -/
def even (r : RegNo) : Bool := r.toNat % 2 == 0
/-- A register field that names a run of 4 (R96). -/
def mult4 (r : RegNo) : Bool := r.toNat % 4 == 0
/-- A register field that names a run of 8 (R230, R239, R306). -/
def mult8 (r : RegNo) : Bool := r.toNat % 8 == 0

/-- The transfer register fits the size: even for .d, a multiple of 4 for .q (R96). -/
def transferOk (sz : BitVec 3) (t : RegNo) : Bool :=
  if sz.toNat == 3 then even t else if sz.toNat == 4 then mult4 t else true

/-- A load's size code, 0 to 6 (R97). -/
def loadSize (sz : BitVec 3) (t : RegNo) : Bool := decide (sz.toNat ≤ 6) && transferOk sz t

/-- A store's size code, 0 to 4 (R97, R222, R224). -/
def storeSize (sz : BitVec 3) (t : RegNo) : Bool := decide (sz.toNat ≤ 4) && transferOk sz t

/-- The sizes .w and .d of atomics and MODW (R275, R348). -/
def atomicSize (sz : BitVec 3) (t : RegNo) : Bool :=
  (sz.toNat == 2 || sz.toNat == 3) && transferOk sz t

/-- A scope code, 0 to 6 (R98, R257). -/
def scopeOk (k : BitVec 3) : Bool := decide (k.toNat ≤ 6)

/-- A branch slot, 0 to 2 (R99). -/
def slotOk (w : BitVec 2) : Bool := decide (w.toNat ≤ 2)

/-- A target tag code that the entry lists (R101). -/
def target (g : BitVec 4) (l : List Nat) : Bool := l.contains g.toNat

/-- A state number of R152 whose state is a pair. -/
def pairState (n : Nat) : Bool := n == 0x005 || n == 0x010 || n == 0x015 || n == 0x021

/-- A state number that R152 assigns. -/
def assignedState (n : Nat) : Bool :=
  decide (n ≤ 0x006) || (decide (0x008 ≤ n) && decide (n ≤ 0x015)) || n == 0x018 || n == 0x019 ||
  (decide (0x020 ≤ n) && decide (n ≤ 0x023)) || (decide (0x030 ≤ n) && decide (n ≤ 0x040))

/-- RDS: an assigned state, and an even vd for a pair state (R152, R153). -/
def readableState (n : BitVec 10) (d : RegNo) : Bool :=
  assignedState n.toNat && (!pairState n.toNat || even d)

/-- WRS: a state that is not always RO (R152, R154); TRAPPC is checked against trap mode when the word runs. -/
def writableState (n : BitVec 10) : Bool :=
  n.toNat == 0x018 || n.toNat == 0x019 || n.toNat == 0x023 || n.toNat == 0x040

/-- The fields of an instruction are legal. -/
def wellFormed : Instr → Bool

  | .nop => true
  | .iadd _ _ _ _ => true
  | .isub _ _ _ _ => true
  | .imul _ _ _ _ => true
  | .imulhS _ _ _ _ => true
  | .imulhZ _ _ _ _ => true
  | .imad _ _ _ _ => true
  | .imin _ _ _ _ _ => true
  | .imax _ _ _ _ _ => true
  | .iabs _ _ => true
  | .and _ _ _ _ => true
  | .or _ _ _ _ => true
  | .xor _ _ _ _ => true
  | .andn _ _ _ _ => true
  | .shl _ _ _ _ => true
  | .shr _ _ _ _ => true
  | .sha _ _ _ _ => true
  | .popc _ _ => true
  | .clz _ _ => true
  | .brev _ _ => true
  | .bfx _ _ _ _ _ => true
  | .bfi _ _ _ _ => true
  | .icmp _ _ _ _ => true
  | .sel _ _ _ _ => true
  | .a64 _ d a b => even d && even a && even b
  | .a64s _ _ d a _ => even d && even a
  | .shfl _ _ _ _ _ => true
  | .vany _ _ _ _ => true
  | .vall _ _ _ _ => true
  | .vbal _ _ _ _ => true
  | .radd _ _ _ _ => true
  | .rmin _ _ => true
  | .rmax _ _ => true
  | .idp4 _ _ _ _ _ => true
  | .iaddi _ _ _ => true
  | .andi _ _ _ => true
  | .ori _ _ _ => true
  | .xori _ _ _ => true
  | .shli _ _ _ => true
  | .shri _ _ _ => true
  | .shai _ _ _ => true
  | .icmpi _ _ _ _ => true
  | .a64i d a _ => even d && even a
  | .li _ _ => true
  | .lih _ _ => true
  | .cbsel _ => true
  | .fadd _ _ _ _ _ => true
  | .fsub _ _ _ _ _ => true
  | .fmul _ _ _ _ _ => true
  | .ffma _ _ _ _ _ => true
  | .ffms _ _ _ _ _ => true
  | .fmin _ _ _ _ => true
  | .fmax _ _ _ _ => true
  | .fneg _ _ => true
  | .fabs _ _ => true
  | .fcpsgn _ _ _ _ => true
  | .fcmp _ _ _ _ => true
  | .fsqrt _ _ _ => true
  | .frcp _ _ => true
  | .frsq _ _ => true
  | .fexp2 _ _ => true
  | .flog2 _ _ => true
  | .ftanh _ _ => true
  | .hadd2 _ _ _ _ _ => true
  | .hmul2 _ _ _ _ _ => true
  | .hfma2 _ _ _ _ _ => true
  | .hmax2 _ _ _ _ => true
  | .cvtf _ _ _ tgt => target tgt [2, 3, 4, 5, 6]
  | .cvti _ _ _ tgt => target tgt [2, 3, 4]
  | .cvtfi _ _ _ tgt => target tgt [1, 10]
  | .pk2 _ _ a tgt => target tgt [3, 4, 10] && even a
  | .pk4 _ _ a tgt => target tgt [5, 6, 9] && mult4 a
  | .unpk2 d _ tgt => target tgt [1, 2] && even d
  | .unpk4 d _ tgt => target tgt [1, 2] && mult4 d
  | .dqcb _ d _ tgt => target tgt [3, 4] && mult4 d
  | .dqe2 _ d a tgt => target tgt [3, 4] && even a && mult4 d
  | .qcb _ _ a => mult4 a
  | .qe2 _ d a => mult4 a && even d
  | .tagrd _ _ => true
  | .tagset _ _ tgt => decide (tgt.toNat ≤ 12)
  | .ld sz t a _ => even a && loadSize sz t
  | .st sz t a _ => even a && storeSize sz t
  | .ldo sz t a scope ord _ => even a && loadSize sz t && scopeOk scope && decide (ord.toNat ≤ 1)
  | .sto sz t a scope ord => even a && storeSize sz t && scopeOk scope && decide (ord.toNat % 2 = 0)
  | .ldl sz t _ _ => loadSize sz t
  | .stl sz t _ _ => storeSize sz t
  | .ldcb t a _ => even a && decide (t.toNat < 8)
  | .modw sz t a scope ord => even a && atomicSize sz t && scopeOk scope && decide (ord.toNat % 2 = 0)
  | .aadd sz t a scope _ => even a && atomicSize sz t && scopeOk scope
  | .amin sz t a scope _ _ => even a && atomicSize sz t && scopeOk scope
  | .amax sz t a scope _ _ => even a && atomicSize sz t && scopeOk scope
  | .aand sz t a scope _ => even a && atomicSize sz t && scopeOk scope
  | .aor sz t a scope _ => even a && atomicSize sz t && scopeOk scope
  | .axor sz t a scope _ => even a && atomicSize sz t && scopeOk scope
  | .axch sz t a scope _ => even a && atomicSize sz t && scopeOk scope
  | .acas sz t a scope _ => even a && (if sz then mult4 t else even t) && scopeOk scope
  | .acasQ t a scope _ => even a && mult8 t && scopeOk scope
  | .afadd _ a scope _ => even a && scopeOk scope
  | .tkt _ a _ _ _ => even a
  | .depadd _ a _ _ _ => even a
  | .cpy d a _ _ _ => even d && even a
  | .cpyt d a b _ _ => even d && even a && mult8 b
  | .cpyg d a b _ _ => even d && even a && mult4 b
  | .cpyw d a _ _ _ => even d && even a
  | .pub _ _ => true
  | .disc a _ _ _ => even a
  | .pref a _ _ _ => even a
  | .smap a _ _ _ => even a
  | .sflush a _ _ _ => even a
  | .sdrop a _ => even a
  | .tilev _ _ _ _ => true
  | .tilec _ _ _ _ => true
  | .tileclr _ _ _ _ => true
  | .coll _ a b _ _ => even a && mult8 b
  | .br _ _ slot => slotOk slot
  | .brz _ _ slot => slotOk slot
  | .jmp _ slot => slotOk slot
  | .call _ _ slot => slotOk slot
  | .rbeg _ _ slot => slotOk slot
  | .jr _ _ => true
  | .ret _ _ => true
  | .exit => true
  | .yield => true
  | .idem => true
  | .tret => true
  | .tabn => true
  | .tkill => true
  | .rcmt => true
  | .rabt => true
  | .rds d imm => readableState imm d
  | .wrs _ imm => writableState imm
  | .regclm _ => true
  | .regrel _ => true
  | .spawn _ a _ => even a
  | .spawnw _ a _ => even a
  | .waitc _ _ => true
  | .phreg _ a _ => even a
  | .phmode _ a _ => even a
  | .phdrop _ a => even a
  | .phsig _ a => even a
  | .phwait _ a => even a
  | .phnext _ a => even a
  | .rngi _ _ => true
  | .rngw _ _ => true
  | .rngs _ _ => true
  | .rstat _ => true
  | .cstat d _ _ _ _ => even d
  | .trap _ => true
  | .brk _ => true
  | .prop _ a => even a
  | .trctl _ a _ => even a
  | .tkey d => mult4 d
  | .mmqBf16 _ a b _ => mult8 a && mult8 b
  | .mmqF16 _ a b _ => mult8 a && mult8 b
  | .mmqE4m3 _ a b _ => mult8 a && mult8 b
  | .mmqE5m2 _ a b _ => mult8 a && mult8 b
  | .mmqI8 _ a b _ => mult8 a && mult8 b
  | .mmqCb4 _ a b _ => mult8 a && mult8 b
  | .mmqCbbf _ a b _ => mult8 a && mult8 b
  | .mmqE2m1 _ a b _ _ => mult8 a && mult8 b
  | .mmz _ => true
  | .mmrd _ a => mult8 a
  | .mmwr _ a => mult8 a
  | .mmst _ _ => true
  | .mmld _ _ => true
  | .post q _ _ => decide (q < Config.queues)
  | .qcfgWrite q _ _ => decide (q < Config.queues)
  | .qovfbaseWrite q _ _ => decide (q < Config.queues)
  | .qovfszWrite q _ _ => decide (q < Config.queues)
  | .qrbaseWrite q _ _ => decide (q < Config.queues)
  | .registerWrite off _ _ _ => decide (off < 536870912)
  | .attestationGo _ => true
  | .attestationReportReady => true
  | .readHealthSummary => true
  | .readPower => true
  | .readTemperature => true
  | .requestReport nonce _ => decide (nonce.length = 32)
  | .readReport => true
  | .setPowerStateP0 => true
  | .setPowerStateP1 => true
  | .setPowerStateP2 => true
  | .setPowerStateOff => true
  | .setdasa _ => true
  | .powerStateExitComplete => true
  | .enterP1 => true
  | .packageReset => true
  | .bootLoadFirstStage _ _ => true
  | .bootLoadNewelFirmware _ _ => true
  | .bootLoadCollectiveMicrocode _ _ => true
  | .bootRelease _ => true
  | .firmwareReload _ => true
  | .thermalSet => true
  | .thermalClear => true
  | .thermalShutdown => true
  | .contextCreate ctx p => decide (ctx < Config.contexts) && decide (p.root % 16384 = 0)
  | .setTrapBase ctx tbase => decide (ctx < Config.contexts) && decide (tbase.toNat % 16 = 0)
  | .setWayQuota ctx w a k o => decide (ctx < Config.contexts) && decide (w + a + k + o ≤ 16)
  | .defineCollectiveSet ctx set pkgs => decide (ctx < Config.contexts) && decide (set < 16) && decide (1 ≤ pkgs.length ∧ pkgs.length ≤ 512) && pkgs.Nodup
  | .setGranuleTags ctx _ _ _ => decide (ctx < Config.contexts)
  | .shootdownRequest ctx _ _ => decide (ctx < Config.contexts)
  | .shootdownComplete ctx _ => decide (ctx < Config.contexts)
  | .contextKill ctx => decide (ctx < Config.contexts)
  | .queueVisit q => decide (q < Config.queues)
  | .bindRecordWrite r => decide (r.hall < Config.halls) && decide (r.slot < Config.slotsPerHall)
  | .preemptionComplete _ _ _ => true
  | .restore _ _ _ _ _ => true
  | .blockRetire _ _ _ => true
  | .taskRetire _ _ => true
  | .queueDeadlockSample q => decide (q < Config.queues)
  | .packetFetchFill _ _ _ => true
  | .tlbWalkComplete _ _ _ => true
  | .pageResident ctx _ _ => decide (ctx < Config.contexts)
  | .migrationStart ctx _ => decide (ctx < Config.contexts)
  | .migrationComplete ctx _ _ => decide (ctx < Config.contexts)
  | .loadReturn _ _ _ _ => true
  | .storePerformed _ _ _ _ => true
  | .atomicPerformed _ _ _ _ => true
  | .copyCommandRetire _ _ _ _ => true
  | .cpygRowGather _ _ => true
  | .pubInstant _ _ => true
  | .pubRetire _ _ => true
  | .mmqRetire _ _ _ => true
  | .regionRestart _ _ => true
  | .commitTimeout _ _ _ => true
  | .relabel _ _ _ => true
  | .staleTaskRestart _ _ => true
  | .propagationComplete _ _ => true
  | .partialValueReceive _ _ _ _ _ _ _ _ _ => true
  | .chunkAck _ _ _ _ _ _ => true
  | .collectiveComplete _ _ _ => true
  | .collectiveFail _ _ _ _ => true
  | .linkDownDeclare _ port => decide (port < 16)
  | .linkTableUpdate _ => true
  | .treeSetRecompute _ => true
  | .lockstepIntervalCompare _ _ => true
  | .lockstepDecisionApply d => match d with
    | .bind r => decide (r.hall < Config.halls) && decide (r.slot < Config.slotsPerHall)
    | .move ctx _ => decide (ctx < Config.contexts)
  | .errorCorrected _ _ => true
  | .scoreDecay => true
  | .unitTestComplete _ _ => true
  | .uncorrectableError _ => true
  | .gangKill _ _ _ => true
  | .lockstepDivergeClear _ => true
  | .debugRightWrite ctx _ _ => decide (ctx < Config.contexts)
  | .haltGroup ctx _ => decide (ctx < Config.contexts)
  | .resumeGroup ctx _ => decide (ctx < Config.contexts)
  | .stepGroup ctx _ => decide (ctx < Config.contexts)
  | .haltContext ctx _ => decide (ctx < Config.contexts)
  | .resumeContext ctx _ => decide (ctx < Config.contexts)
  | .traceGroupOn ctx _ => decide (ctx < Config.contexts)
  | .traceGroupOff ctx _ => decide (ctx < Config.contexts)
  | .selectGroup ctx _ => decide (ctx < Config.contexts)
  | .traceAllOn ctx _ => decide (ctx < Config.contexts)
  | .traceAllOff ctx _ => decide (ctx < Config.contexts)
  | .dump ctx _ => decide (ctx < Config.contexts)
  | .coreDump ctx => decide (ctx < Config.contexts)
  | .groupViewEdit ctx _ => decide (ctx < Config.contexts)
  | .smpcfgWrite ctx _ => decide (ctx < Config.contexts)
  | .sampleFire _ _ => true
  | .rpctlWrite ctx _ => decide (ctx < Config.contexts)
  | .replayRelease _ _ => true
  | .unlistedI3cCommand code => !([16, 17, 18, 32, 33, 48].contains code.toNat)
  | .setPowerStateOtherByte b => decide (4 ≤ b.toNat)
  | .linkUp _ => true
  | .lockstepBridgeTrained => true
  | .lockstepBridgeLost => true
  | .contextDestroy ctx => decide (ctx < Config.contexts)
  | .hostAccess _ _ _ _ _ => true
  | .tagVerdict _ => true
  | .collAccept _ _ => true
  | .cstatAnswer _ _ _ => true
  | .propAnswer _ _ => true
  | .commitOutcome _ _ _ => true
  | .stashCommandDone _ _ => true
  | .sliceRehomingDone _ => true
  | .chunkBroadcastReceive _ _ _ _ _ _ _ => true

end Sys2Proof
end

