-- ==== Sys2Proof/Machine/Names.lean ====
section
/-! DEFINITION. What the encoding of a word says about it: its major opcode and pipe (R94, R100), and the registers it names,
pairs and runs in full (R96, R221, R230, R231, R275). The device's other steps are no words: major 0, no register. -/

namespace Sys2Proof

/-- The registers of a run. -/
def regRun (n k : Nat) : List Nat := (List.range k).map (fun i => n + i)

/-- How many registers a size code moves (R96). -/
def runOfSize (sz : BitVec 3) : Nat := if sz.toNat == 3 then 2 else if sz.toNat == 4 then 4 else 1

/-- A pipe (R94). -/
inductive Pipe where
  | none | vec | mem | ctl | mma
  deriving DecidableEq, Repr, Inhabited

/-- The pipe of a major opcode (R94); the reserved majors 0x3C to 0x3F go to none (DEDUCED, log 14). -/
def pipeOf (major : Nat) : Pipe :=
  if major = 0 then .none else if major < 0x3C then .vec else if major < 0x40 then .none else if major < 0x60 then .mem else if major < 0x73 then .ctl
  else .mma

/-- The major opcode of a word (R100). -/
def Instr.major : Instr → Nat
  | .nop => 0x00
  | .iadd _ _ _ _ => 0x01
  | .isub _ _ _ _ => 0x02
  | .imul _ _ _ _ => 0x03
  | .imulhS _ _ _ _ => 0x03
  | .imulhZ _ _ _ _ => 0x03
  | .imad _ _ _ _ => 0x04
  | .imin _ _ _ _ _ => 0x05
  | .imax _ _ _ _ _ => 0x05
  | .iabs _ _ => 0x06
  | .and _ _ _ _ => 0x07
  | .or _ _ _ _ => 0x07
  | .xor _ _ _ _ => 0x07
  | .andn _ _ _ _ => 0x07
  | .shl _ _ _ _ => 0x08
  | .shr _ _ _ _ => 0x08
  | .sha _ _ _ _ => 0x08
  | .popc _ _ => 0x09
  | .clz _ _ => 0x09
  | .brev _ _ => 0x09
  | .bfx _ _ _ _ _ => 0x0A
  | .bfi _ _ _ _ => 0x0B
  | .icmp _ _ _ _ => 0x0C
  | .sel _ _ _ _ => 0x0D
  | .a64 _ _ _ _ => 0x0E
  | .a64s _ _ _ _ _ => 0x0F
  | .shfl _ _ _ _ _ => 0x10
  | .vany _ _ _ _ => 0x11
  | .vall _ _ _ _ => 0x11
  | .vbal _ _ _ _ => 0x11
  | .radd _ _ _ _ => 0x12
  | .rmin _ _ => 0x12
  | .rmax _ _ => 0x12
  | .idp4 _ _ _ _ _ => 0x13
  | .iaddi _ _ _ => 0x14
  | .andi _ _ _ => 0x15
  | .ori _ _ _ => 0x16
  | .xori _ _ _ => 0x17
  | .shli _ _ _ => 0x18
  | .shri _ _ _ => 0x19
  | .shai _ _ _ => 0x1A
  | .icmpi _ _ _ _ => 0x1B
  | .a64i _ _ _ => 0x1C
  | .li _ _ => 0x1D
  | .lih _ _ => 0x1E
  | .cbsel _ => 0x1F
  | .fadd _ _ _ _ _ => 0x20
  | .fsub _ _ _ _ _ => 0x21
  | .fmul _ _ _ _ _ => 0x22
  | .ffma _ _ _ _ _ => 0x23
  | .ffms _ _ _ _ _ => 0x24
  | .fmin _ _ _ _ => 0x25
  | .fmax _ _ _ _ => 0x25
  | .fneg _ _ => 0x26
  | .fabs _ _ => 0x26
  | .fcpsgn _ _ _ _ => 0x27
  | .fcmp _ _ _ _ => 0x28
  | .fsqrt _ _ _ => 0x29
  | .frcp _ _ => 0x2A
  | .frsq _ _ => 0x2A
  | .fexp2 _ _ => 0x2A
  | .flog2 _ _ => 0x2A
  | .ftanh _ _ => 0x2B
  | .hadd2 _ _ _ _ _ => 0x2C
  | .hmul2 _ _ _ _ _ => 0x2D
  | .hfma2 _ _ _ _ _ => 0x2E
  | .hmax2 _ _ _ _ => 0x2F
  | .cvtf _ _ _ _ => 0x30
  | .cvti _ _ _ _ => 0x31
  | .cvtfi _ _ _ _ => 0x32
  | .pk2 _ _ _ _ => 0x33
  | .pk4 _ _ _ _ => 0x34
  | .unpk2 _ _ _ => 0x35
  | .unpk4 _ _ _ => 0x35
  | .dqcb _ _ _ _ => 0x36
  | .dqe2 _ _ _ _ => 0x37
  | .qcb _ _ _ => 0x38
  | .qe2 _ _ _ => 0x39
  | .tagrd _ _ => 0x3A
  | .tagset _ _ _ => 0x3B
  | .ld _ _ _ _ => 0x40
  | .st _ _ _ _ => 0x41
  | .ldo _ _ _ _ _ _ => 0x42
  | .sto _ _ _ _ _ => 0x43
  | .ldl _ _ _ _ => 0x44
  | .stl _ _ _ _ => 0x45
  | .ldcb _ _ _ => 0x46
  | .modw _ _ _ _ _ => 0x47
  | .aadd _ _ _ _ _ => 0x48
  | .amin _ _ _ _ _ _ => 0x49
  | .amax _ _ _ _ _ _ => 0x49
  | .aand _ _ _ _ _ => 0x4A
  | .aor _ _ _ _ _ => 0x4B
  | .axor _ _ _ _ _ => 0x4C
  | .axch _ _ _ _ _ => 0x4D
  | .acas _ _ _ _ _ => 0x4E
  | .acasQ _ _ _ _ => 0x4E
  | .afadd _ _ _ _ => 0x4F
  | .tkt _ _ _ _ _ => 0x50
  | .depadd _ _ _ _ _ => 0x51
  | .cpy _ _ _ _ _ => 0x52
  | .cpyt _ _ _ _ _ => 0x53
  | .cpyg _ _ _ _ _ => 0x54
  | .cpyw _ _ _ _ _ => 0x55
  | .pub _ _ => 0x56
  | .disc _ _ _ _ => 0x57
  | .pref _ _ _ _ => 0x58
  | .smap _ _ _ _ => 0x59
  | .sflush _ _ _ _ => 0x5A
  | .sdrop _ _ => 0x5B
  | .tilev _ _ _ _ => 0x5C
  | .tilec _ _ _ _ => 0x5D
  | .tileclr _ _ _ _ => 0x5E
  | .coll _ _ _ _ _ => 0x5F
  | .br _ _ _ => 0x60
  | .brz _ _ _ => 0x61
  | .jmp _ _ => 0x62
  | .call _ _ _ => 0x63
  | .rbeg _ _ _ => 0x64
  | .jr _ _ => 0x65
  | .ret _ _ => 0x65
  | .exit => 0x66
  | .yield => 0x66
  | .idem => 0x66
  | .tret => 0x66
  | .tabn => 0x66
  | .tkill => 0x66
  | .rcmt => 0x66
  | .rabt => 0x66
  | .rds _ _ => 0x67
  | .wrs _ _ => 0x68
  | .regclm _ => 0x69
  | .regrel _ => 0x69
  | .spawn _ _ _ => 0x6A
  | .spawnw _ _ _ => 0x6A
  | .waitc _ _ => 0x6B
  | .phreg _ _ _ => 0x6C
  | .phmode _ _ _ => 0x6C
  | .phdrop _ _ => 0x6C
  | .phsig _ _ => 0x6C
  | .phwait _ _ => 0x6C
  | .phnext _ _ => 0x6C
  | .rngi _ _ => 0x6D
  | .rngw _ _ => 0x6D
  | .rngs _ _ => 0x6D
  | .rstat _ => 0x6E
  | .cstat _ _ _ _ _ => 0x6F
  | .trap _ => 0x70
  | .brk _ => 0x71
  | .prop _ _ => 0x72
  | .trctl _ _ _ => 0x72
  | .tkey _ => 0x72
  | .mmqBf16 _ _ _ _ => 0x73
  | .mmqF16 _ _ _ _ => 0x74
  | .mmqE4m3 _ _ _ _ => 0x75
  | .mmqE5m2 _ _ _ _ => 0x76
  | .mmqI8 _ _ _ _ => 0x77
  | .mmqCb4 _ _ _ _ => 0x78
  | .mmqCbbf _ _ _ _ => 0x79
  | .mmqE2m1 _ _ _ _ _ => 0x7A
  | .mmz _ => 0x7B
  | .mmrd _ _ => 0x7C
  | .mmwr _ _ => 0x7D
  | .mmst _ _ => 0x7E
  | .mmld _ _ => 0x7F
  | _ => 0

/-- Every register a word names (R96). -/
def Instr.regs : Instr → List Nat
  | .nop => []
  | .iadd _ d a b => [d.toNat] ++ [a.toNat] ++ [b.toNat]
  | .isub _ d a b => [d.toNat] ++ [a.toNat] ++ [b.toNat]
  | .imul _ d a b => [d.toNat] ++ [a.toNat] ++ [b.toNat]
  | .imulhS _ d a b => [d.toNat] ++ [a.toNat] ++ [b.toNat]
  | .imulhZ _ d a b => [d.toNat] ++ [a.toNat] ++ [b.toNat]
  | .imad _ d a b => [d.toNat] ++ [a.toNat] ++ [b.toNat]
  | .imin _ _ d a b => [d.toNat] ++ [a.toNat] ++ [b.toNat]
  | .imax _ _ d a b => [d.toNat] ++ [a.toNat] ++ [b.toNat]
  | .iabs d a => [d.toNat] ++ [a.toNat]
  | .and _ d a b => [d.toNat] ++ [a.toNat] ++ [b.toNat]
  | .or _ d a b => [d.toNat] ++ [a.toNat] ++ [b.toNat]
  | .xor _ d a b => [d.toNat] ++ [a.toNat] ++ [b.toNat]
  | .andn _ d a b => [d.toNat] ++ [a.toNat] ++ [b.toNat]
  | .shl _ d a b => [d.toNat] ++ [a.toNat] ++ [b.toNat]
  | .shr _ d a b => [d.toNat] ++ [a.toNat] ++ [b.toNat]
  | .sha _ d a b => [d.toNat] ++ [a.toNat] ++ [b.toNat]
  | .popc d a => [d.toNat] ++ [a.toNat]
  | .clz d a => [d.toNat] ++ [a.toNat]
  | .brev d a => [d.toNat] ++ [a.toNat]
  | .bfx _ _ d a b => [d.toNat] ++ [a.toNat] ++ [b.toNat]
  | .bfi _ d a b => [d.toNat] ++ [a.toNat] ++ [b.toNat]
  | .icmp _ d a b => [d.toNat] ++ [a.toNat] ++ [b.toNat]
  | .sel _ d a b => [d.toNat] ++ [a.toNat] ++ [b.toNat]
  | .a64 _ d a b => regRun d.toNat 2 ++ regRun a.toNat 2 ++ regRun b.toNat 2
  | .a64s _ _ d a b => regRun d.toNat 2 ++ regRun a.toNat 2 ++ [b.toNat]
  | .shfl _ _ d a b => [d.toNat] ++ [a.toNat] ++ [b.toNat]
  | .vany _ d a b => [d.toNat] ++ [a.toNat] ++ [b.toNat]
  | .vall _ d a b => [d.toNat] ++ [a.toNat] ++ [b.toNat]
  | .vbal _ d a b => [d.toNat] ++ [a.toNat] ++ [b.toNat]
  | .radd _ d a b => [d.toNat] ++ [a.toNat] ++ [b.toNat]
  | .rmin d a => [d.toNat] ++ [a.toNat]
  | .rmax d a => [d.toNat] ++ [a.toNat]
  | .idp4 _ _ d a b => [d.toNat] ++ [a.toNat] ++ [b.toNat]
  | .iaddi d a _ => [d.toNat] ++ [a.toNat]
  | .andi d a _ => [d.toNat] ++ [a.toNat]
  | .ori d a _ => [d.toNat] ++ [a.toNat]
  | .xori d a _ => [d.toNat] ++ [a.toNat]
  | .shli d a _ => [d.toNat] ++ [a.toNat]
  | .shri d a _ => [d.toNat] ++ [a.toNat]
  | .shai d a _ => [d.toNat] ++ [a.toNat]
  | .icmpi d a _ _ => [d.toNat] ++ [a.toNat]
  | .a64i d a _ => regRun d.toNat 2 ++ regRun a.toNat 2
  | .li d _ => [d.toNat]
  | .lih d _ => [d.toNat]
  | .cbsel _ => []
  | .fadd _ _ d a b => [d.toNat] ++ [a.toNat] ++ [b.toNat]
  | .fsub _ _ d a b => [d.toNat] ++ [a.toNat] ++ [b.toNat]
  | .fmul _ _ d a b => [d.toNat] ++ [a.toNat] ++ [b.toNat]
  | .ffma _ _ d a b => [d.toNat] ++ [a.toNat] ++ [b.toNat]
  | .ffms _ _ d a b => [d.toNat] ++ [a.toNat] ++ [b.toNat]
  | .fmin _ d a b => [d.toNat] ++ [a.toNat] ++ [b.toNat]
  | .fmax _ d a b => [d.toNat] ++ [a.toNat] ++ [b.toNat]
  | .fneg d a => [d.toNat] ++ [a.toNat]
  | .fabs d a => [d.toNat] ++ [a.toNat]
  | .fcpsgn _ d a b => [d.toNat] ++ [a.toNat] ++ [b.toNat]
  | .fcmp _ d a b => [d.toNat] ++ [a.toNat] ++ [b.toNat]
  | .fsqrt _ d a => [d.toNat] ++ [a.toNat]
  | .frcp d a => [d.toNat] ++ [a.toNat]
  | .frsq d a => [d.toNat] ++ [a.toNat]
  | .fexp2 d a => [d.toNat] ++ [a.toNat]
  | .flog2 d a => [d.toNat] ++ [a.toNat]
  | .ftanh d a => [d.toNat] ++ [a.toNat]
  | .hadd2 _ _ d a b => [d.toNat] ++ [a.toNat] ++ [b.toNat]
  | .hmul2 _ _ d a b => [d.toNat] ++ [a.toNat] ++ [b.toNat]
  | .hfma2 _ _ d a b => [d.toNat] ++ [a.toNat] ++ [b.toNat]
  | .hmax2 _ d a b => [d.toNat] ++ [a.toNat] ++ [b.toNat]
  | .cvtf _ d a _ => [d.toNat] ++ [a.toNat]
  | .cvti _ d a _ => [d.toNat] ++ [a.toNat]
  | .cvtfi _ d a _ => [d.toNat] ++ [a.toNat]
  | .pk2 _ d a _ => [d.toNat] ++ regRun a.toNat 2
  | .pk4 _ d a _ => [d.toNat] ++ regRun a.toNat 4
  | .unpk2 d a _ => regRun d.toNat 2 ++ [a.toNat]
  | .unpk4 d a _ => regRun d.toNat 4 ++ [a.toNat]
  | .dqcb _ d a _ => regRun d.toNat 4 ++ [a.toNat]
  | .dqe2 _ d a _ => regRun d.toNat 4 ++ regRun a.toNat 2
  | .qcb _ d a => [d.toNat] ++ regRun a.toNat 4
  | .qe2 _ d a => regRun d.toNat 2 ++ regRun a.toNat 4
  | .tagrd d a => [d.toNat] ++ [a.toNat]
  | .tagset d a _ => [d.toNat] ++ [a.toNat]
  | .ld sz t a _ => regRun t.toNat (runOfSize sz) ++ regRun a.toNat 2
  | .st sz t a _ => regRun t.toNat (runOfSize sz) ++ regRun a.toNat 2
  | .ldo sz t a _ _ _ => regRun t.toNat (runOfSize sz) ++ regRun a.toNat 2
  | .sto sz t a _ _ => regRun t.toNat (runOfSize sz) ++ regRun a.toNat 2
  | .ldl sz t a _ => regRun t.toNat (runOfSize sz) ++ [a.toNat]
  | .stl sz t a _ => regRun t.toNat (runOfSize sz) ++ [a.toNat]
  | .ldcb _ a _ => regRun a.toNat 2
  | .modw sz t a _ _ => regRun t.toNat (runOfSize sz) ++ regRun a.toNat 2
  | .aadd sz t a _ _ => regRun t.toNat (runOfSize sz) ++ regRun a.toNat 2
  | .amin sz t a _ _ _ => regRun t.toNat (runOfSize sz) ++ regRun a.toNat 2
  | .amax sz t a _ _ _ => regRun t.toNat (runOfSize sz) ++ regRun a.toNat 2
  | .aand sz t a _ _ => regRun t.toNat (runOfSize sz) ++ regRun a.toNat 2
  | .aor sz t a _ _ => regRun t.toNat (runOfSize sz) ++ regRun a.toNat 2
  | .axor sz t a _ _ => regRun t.toNat (runOfSize sz) ++ regRun a.toNat 2
  | .axch sz t a _ _ => regRun t.toNat (runOfSize sz) ++ regRun a.toNat 2
  | .acas sz t a _ _ => regRun t.toNat (if sz then 4 else 2) ++ regRun a.toNat 2
  | .acasQ t a _ _ => regRun t.toNat 8 ++ regRun a.toNat 2
  | .afadd t a _ _ => [t.toNat] ++ regRun a.toNat 2
  | .tkt d a b _ _ => [d.toNat] ++ regRun a.toNat 2 ++ [b.toNat]
  | .depadd d a b _ _ => [d.toNat] ++ regRun a.toNat 2 ++ [b.toNat]
  | .cpy d a b _ _ => regRun d.toNat 2 ++ regRun a.toNat 2 ++ [b.toNat]
  | .cpyt d a b _ _ => regRun d.toNat 2 ++ regRun a.toNat 2 ++ regRun b.toNat 8
  | .cpyg d a b _ _ => regRun d.toNat 2 ++ regRun a.toNat 2 ++ regRun b.toNat 4
  | .cpyw d a b _ _ => regRun d.toNat 2 ++ regRun a.toNat 2 ++ [b.toNat]
  | .pub a _ => [a.toNat]
  | .disc a b _ _ => regRun a.toNat 2 ++ [b.toNat]
  | .pref a b _ _ => regRun a.toNat 2 ++ [b.toNat]
  | .smap a b _ _ => regRun a.toNat 2 ++ [b.toNat]
  | .sflush a b _ _ => regRun a.toNat 2 ++ [b.toNat]
  | .sdrop a _ => regRun a.toNat 2
  | .tilev a b _ _ => [a.toNat] ++ [b.toNat]
  | .tilec a b _ _ => [a.toNat] ++ [b.toNat]
  | .tileclr a b _ _ => [a.toNat] ++ [b.toNat]
  | .coll d a b _ _ => [d.toNat] ++ regRun a.toNat 2 ++ regRun b.toNat 8
  | .br p _ _ => [p.toNat]
  | .brz p _ _ => [p.toNat]
  | .jmp _ _ => []
  | .call p _ _ => [p.toNat]
  | .rbeg p _ _ => [p.toNat]
  | .jr a _ => [a.toNat]
  | .ret a _ => [a.toNat]
  | .exit => []
  | .yield => []
  | .idem => []
  | .tret => []
  | .tabn => []
  | .tkill => []
  | .rcmt => []
  | .rabt => []
  | .rds d imm => regRun d.toNat (if pairState imm.toNat then 2 else 1)
  | .wrs a _ => [a.toNat]
  | .regclm _ => []
  | .regrel _ => []
  | .spawn d a _ => [d.toNat] ++ regRun a.toNat 2
  | .spawnw d a _ => [d.toNat] ++ regRun a.toNat 2
  | .waitc _ _ => []
  | .phreg d a b => [d.toNat] ++ regRun a.toNat 2 ++ [b.toNat]
  | .phmode d a b => [d.toNat] ++ regRun a.toNat 2 ++ [b.toNat]
  | .phdrop d a => [d.toNat] ++ regRun a.toNat 2
  | .phsig d a => [d.toNat] ++ regRun a.toNat 2
  | .phwait d a => [d.toNat] ++ regRun a.toNat 2
  | .phnext d a => [d.toNat] ++ regRun a.toNat 2
  | .rngi a b => [a.toNat] ++ [b.toNat]
  | .rngw a b => [a.toNat] ++ [b.toNat]
  | .rngs a b => [a.toNat] ++ [b.toNat]
  | .rstat d => [d.toNat]
  | .cstat d a b _ _ => regRun d.toNat 2 ++ [a.toNat] ++ [b.toNat]
  | .trap _ => []
  | .brk _ => []
  | .prop d a => [d.toNat] ++ regRun a.toNat 2
  | .trctl d a b => [d.toNat] ++ regRun a.toNat 2 ++ [b.toNat]
  | .tkey d => regRun d.toNat 4
  | .mmqBf16 _ a b _ => regRun a.toNat 8 ++ regRun b.toNat 8
  | .mmqF16 _ a b _ => regRun a.toNat 8 ++ regRun b.toNat 8
  | .mmqE4m3 _ a b _ => regRun a.toNat 8 ++ regRun b.toNat 8
  | .mmqE5m2 _ a b _ => regRun a.toNat 8 ++ regRun b.toNat 8
  | .mmqI8 _ a b _ => regRun a.toNat 8 ++ regRun b.toNat 8
  | .mmqCb4 _ a b _ => regRun a.toNat 8 ++ regRun b.toNat 8
  | .mmqCbbf _ a b _ => regRun a.toNat 8 ++ regRun b.toNat 8
  | .mmqE2m1 _ a b _ ol => regRun a.toNat (if ol then 10 else 9) ++ regRun b.toNat 8
  | .mmz _ => []
  | .mmrd _ a => regRun a.toNat 8
  | .mmwr _ a => regRun a.toNat 8
  | .mmst _ a => [a.toNat]
  | .mmld _ a => [a.toNat]
  | _ => []

/-- The tile an MQ word names (R241). -/
def Instr.tileOf : Instr → Option Nat
  | .mmqBf16 t _ _ _ => some t.toNat
  | .mmqF16 t _ _ _ => some t.toNat
  | .mmqE4m3 t _ _ _ => some t.toNat
  | .mmqE5m2 t _ _ _ => some t.toNat
  | .mmqI8 t _ _ _ => some t.toNat
  | .mmqCb4 t _ _ _ => some t.toNat
  | .mmqCbbf t _ _ _ => some t.toNat
  | .mmqE2m1 t _ _ _ _ => some t.toNat
  | .mmz t => some t.toNat
  | .mmrd t _ => some t.toNat
  | .mmwr t _ => some t.toNat
  | .mmst t _ => some t.toNat
  | .mmld t _ => some t.toNat
  | _ => none

end Sys2Proof
end

