-- ==== Sys2Proof/Machine/State.lean ====
section
/-! DEFINITION. The state of one Tarore TN40 package as plain data, the reasons a step can stop, and the state after reset.
INVENTORY.md lists every piece with the rule that names it and its reset value. -/

namespace Sys2Proof.Machine

/-! ## Names -/

/-- The format tags of R116. -/
inductive Tag where
  | raw | i32 | f32 | bf16x2 | f16x2 | e4m3x4 | e5m2x4 | e2m1x8 | cb4x8 | i8x4 | i16x2 | e8m0x4 | addr | poison
  deriving DecidableEq, Repr, Inhabited

/-- The roles of R115. -/
inductive Role where
  | general | copy | matrix | vector
  deriving DecidableEq, Repr, Inhabited

/-- The lane states of R108. -/
inductive LaneMode where
  | live | parked | exited
  deriving DecidableEq, Repr, Inhabited

/-- The stall reasons of R122. -/
inductive Reason where
  | notsel | stallcnt | regdep | cntwait | acclock | mmbusy | engq | range | tiletag | ring | phaser | region | xlate
  | ifetch | pipebusy | halt
  deriving DecidableEq, Repr, Inhabited

/-- The trap causes of R314. -/
inductive Cause where
  | illegal | chain | packet | format | role | align | tagchk | prot | unmapped | bounds | stall | trapi | brk | watch
  | step | poison | residue | shadow | keyexh | outlier | regalloc | qdead | nested | quarter
  deriving DecidableEq, Repr, Inhabited

/-- What the word that ran last did at the issue port: the model's own note, which the choice of group and the joining of a
chain's words read (R88, R104, R122). -/
inductive Status where
  | done
  /-- nothing happened: the word waits before it issues, for this reason -/
  | stalled (r : Reason)
  | parked (r : Reason)
  | trapped (c : Cause)
  /-- a page fault, a failed check or a TABN restarts the idempotent region -/
  | restarted
  /-- poison was consumed -/
  | killed
  deriving DecidableEq, Repr, Inhabited

/-! ## Memory -/

/-- Bytes by address, strictly rising, no listed byte 0 (an unlisted byte reads 0, log entry 3). -/
abbrev Memory := List Host.Cell

/-! ## A group -/

/-- A register of one lane: contents, format tag (R116), residue (R118), symbolic tag (R288). -/
structure RegCell where
  val : Word
  tag : Tag
  res : BitVec 2
  sym : BitVec 4
  deriving DecidableEq, Repr, Inhabited

/-- The issue in progress: the active mask, the chain's first word address, the word's own address (R88, R104, R109). `fresh`
says that a word of this chain ended the idempotent region, so that the next one starts at the following chain (R30). -/
structure Cur where
  mask : Mask
  chainPc : Word
  wordPc : Word
  status : Status
  fresh : Bool
  /-- a further word of the chain in issue: the checks are made -/
  follow : Bool
  /-- for a word that waited, or waits with one that did: registers as they stood at the chain's issue, which it reads (R90) -/
  srcs : List (Nat × List RegCell)
  deriving DecidableEq, Repr, Inhabited

/-- A register write that lands later (R90): the cycle it lands, the register, each lane's new cell. `pend` marks the result
of a variable-latency word, whose register is pending until then (R91, R248) and which a restart discards (R320). -/
structure Landing where
  at_ : Nat
  reg : Nat
  cells : List (Option RegCell)
  pend : Bool
  /-- the idempotent regions the group had ended at its issue -/
  region : Nat
  deriving DecidableEq, Repr, Inhabited

/-- Flags that land later (R183): the cycle they land, the cycle of the chain that raised them, the bits of R181. -/
structure FlagLanding where
  at_ : Nat
  since : Nat
  bits : Word
  deriving DecidableEq, Repr, Inhabited

/-- One piece of a store within one page: lane, address (a pointer, or a scratchpad address), the leaf it was translated with
(R77; 0 for scratchpad), its bytes. -/
structure StorePart where
  lane : Nat
  addr : DWord
  leaf : DWord
  data : List Byte
  deriving DecidableEq, Repr, Inhabited

/-- A store word (R216, R222, R224, R249, R348); `no` is its place in the group's issue order (R259), `parts` what of it is not
performed. -/
structure StoreWord where
  no : Nat
  lc : Nat
  scratch : Bool
  modw : Bool
  scope : BitVec 3
  ord : BitVec 2
  parts : List StorePart
  /-- an MMST, which no counter counts (R249) -/
  tile : Bool := false
  deriving DecidableEq, Repr, Inhabited

/-- One lane's part of a load or an atomic within one page, or one byte of an access that is not naturally aligned (R220): its
address and length, the leaf it was translated with (R77; 0 for scratchpad), and an atomic's operands. `own` are the bytes that
the lane's region gives it, by address (R287); `got` is what it read once it is performed: the bytes, whether they were marked
with poison, an atomic's flags. -/
structure LanePart where
  lane : Nat
  addr : DWord
  len : Nat
  leaf : DWord
  x : List Word
  /-- the lane had an open atomic region at the issue (R287) -/
  priv : Bool
  own : List (Nat × Byte) := []
  got : Option (List Byte × Bool × Word) := none
  deriving DecidableEq, Repr, Inhabited

/-- The operations of R276. -/
inductive AtomicOp where
  | add | minS | minZ | maxS | maxZ | and | or | xor | xch | cas | fadd
  deriving DecidableEq, Repr, Inhabited

/-- What is outstanding for a group from issue until it is performed (R216), in issue order. -/
inductive OutOp where
  /-- LD, LDO (global), LDL (scratch) -/
  | load (scratch : Bool) (size : Nat) (dst : Nat) (scope : BitVec 3) (ord : BitVec 2) (last : Bool)
  /-- LDCB -/
  | ldcb (slot : Nat)
  /-- MMLD into a tile (R249) -/
  | mmld (tile : Nat)
  /-- a store that has left the buffer -/
  | store (w : StoreWord)
  | atomic (op : AtomicOp) (bytes : Nat) (dst : Nat) (scope : BitVec 3) (ord : BitVec 2)
  /-- TKT: the round claimed -/
  | tkt (round : Nat) (opener : Bool) (incr : DWord) (dst : Nat)
  | depadd (dst : Nat)
  /-- CSTAT: the tag of its answer -/
  | cstat (set cid : Nat) (dst : Nat) (tag : Tag)
  | prop (dst : Nat)
  /-- COLL waiting for the engine: its number among the group's engine commands, its descriptor words, the tag of its CID -/
  | coll (dst : Nat) (num : Nat) (desc : List Word) (tag : Tag)
  deriving DecidableEq, Repr, Inhabited

/-- An outstanding operation: its place in the group's issue order (R259), the number of idempotent regions the group had
ended at its issue (R320), the logical clock (R370). -/
structure Outst where
  no : Nat
  op : OutOp
  mask : Mask
  parts : List LanePart
  region : Nat
  lc : Nat
  /-- its traffic is held at the partition's edge, at this place of the interval's (R341) -/
  sent : Option Nat
  deriving DecidableEq, Repr, Inhabited

/-- One lane's word of a region read as an input (R288): its virtual address, the value once it has been read, whether it is
exact. -/
structure RInput where
  addr : Nat
  val : Option Word
  exact : Bool
  deriving DecidableEq, Repr, Inhabited

/-- A region store (R287, R288): its place in issue order, virtual address and leaf, its bytes; a symbolic store of one word
is input `k` plus `c`, a concrete store has `k` 0. -/
structure RStore where
  no : Nat
  addr : Nat
  leaf : DWord
  data : List Byte
  k : Nat
  c : Word
  deriving DecidableEq, Repr, Inhabited

/-- A recorded constraint: input, relation code of R101, constant, concrete operand, side of the input, outcome (R289). -/
structure RCons where
  k : Nat
  rel : BitVec 3
  c : Word
  other : Word
  symLeft : Bool
  outcome : Bool
  deriving DecidableEq, Repr, Inhabited

/-- A lane's atomic region (R285 to R293); `since` is the place of its RBEG in issue order, `reads` the granules of the read
set, `exact` the exact bytes with the values read. -/
structure LaneRegion where
  isOpen : Bool
  since : Nat
  status : Word
  /-- the status word before the RBEG, which a discard brings back (R294) -/
  prev : Word
  /-- a commit since the last abort: the next abort counts from 1 (R293) -/
  committed : Bool
  fallback : Word
  vp : RegNo
  reads : List Nat
  exact : List (Nat × Byte)
  inputs : List RInput
  stores : List RStore
  cons : List RCons
  packets : Nat
  lastPacket : Word
  scope : Nat
  /-- granules that its commit has locked, and the cycles it has waited for others' locks (R292) -/
  locks : List Nat
  lockWait : Nat
  /-- its commit is in its write phase: what is still to be written, granule by granule -/
  writing : Bool
  writes : List (List StorePart)
  /-- its writes leave a lockstep partition: 1 while they wait for the interval's comparison, 2 after it (R341) -/
  hold : Nat
  deriving DecidableEq, Repr, Inhabited

/-- A lane: lpc (R107), state (R108), atomic region. -/
structure Lane where
  lpc : Word
  mode : LaneMode
  region : LaneRegion
  deriving DecidableEq, Repr, Inhabited

/-- A phaser registration record (R281). -/
structure PhReg where
  handle : DWord
  mode : BitVec 2
  pending : BitVec 2
  sp : Word
  wp : Word
  deriving DecidableEq, Repr, Inhabited

/-- A parked word: what it is, where it stands, how far it has come (R108, R327). `sat` is a wait record saved satisfied;
`fresh` says that it has ended the region; `rest` are the chain's other words that may park, `goto` where the chain's
control-flow word sends the lanes (empty: NextWord). `srcs` are its registers as they stood at its issue, when it read them
(R90); `plain` are the chain's words that take effect only with it, because it can still trap (R104). -/
structure WaitRec where
  instr : Instr
  mask : Mask
  chainPc : Word
  wordPc : Word
  phase : Nat
  aux : DWord
  reason : Reason
  sat : Bool
  fresh : Bool
  rest : List (Word × Instr)
  goto : List Word
  srcs : List (Nat × List RegCell)
  plain : List (Word × Instr)
  deriving DecidableEq, Repr, Inhabited

/-- What trap entry keeps for the return (R316). -/
structure TrapRec where
  lanes : List (Word × LaneMode)
  resume : Mask
  bank : List (List RegCell)
  entryPc : Word
  restarts : Nat
  deriving DecidableEq, Repr, Inhabited

/-- A trap taken whose entry waits for loads and atomics (R316), or a restart of the idempotent region that waits for earlier
results and, after a page fault, for pages to become resident (R80, R320). -/
inductive Pending where
  | trap (c : Cause) (mask : Mask) (addr : DWord) (pc : Word) (resume : Mask)
  | restart (pages : List Nat)
  deriving DecidableEq, Repr, Inhabited

/-- The exact value of a sum of products before it is rounded (R173): NaN, infinities, or m times 2 to the e. -/
structure ExactSum where
  nan : Bool
  pinf : Bool
  ninf : Bool
  m : Int
  e : Int
  negZero : Bool
  deriving DecidableEq, Repr, Inhabited

/-- A quarter operation that has its operands and has not retired (R235, R242). -/
structure MmaOp where
  tile : Nat
  quarter : Nat
  int : Bool
  sums : List ExactSum
  poison : List Bool
  tries : Nat
  /-- the cycle it retires in -/
  due : Nat
  deriving DecidableEq, Repr, Inhabited

/-- An accumulator tile (R241): 32 x 8 elements by rows, INT of each quarter, poison of each element. -/
structure Tile where
  elems : List Word
  ints : BitVec 4
  poison : BitVec 256
  deriving DecidableEq, Repr, Inhabited

/-- A deferred error of CPYG (R231) or a deferred SHADOW of a tile (R244). -/
inductive Deferred where
  /-- `ord` is the command's place among the group's copy-engine commands (R262) -/
  | gather (c : Cause) (addr : DWord) (ord : Nat)
  | shadow (tile : Nat)
  deriving DecidableEq, Repr, Inhabited

/-- A launch record's copy (R32, R38). -/
structure LaunchRec where
  text : DWord
  entry : Word
  regs : Nat
  scratch : Nat
  stash : Nat
  roleMode : Nat
  nvec : Nat
  nmat : Nat
  ncopy : Nat
  cb : Nat
  acc : Nat
  nlev : Nat
  bounded : Bool
  relaunch : Bool
  traced : Bool
  sptab : DWord
  spcount : Nat
  lmcount : Nat
  lmtab : DWord
  reserved : Bool
  levels : List DWord
  deriving DecidableEq, Repr, Inhabited

/-- A resident group: its bind record, its architectural state, and what is under way for it. -/
structure Group where
  /-- a group stands here -/
  valid : Bool
  hall : Nat
  slot : Nat
  ctx : Nat
  seq : Nat
  tcb : DWord
  blk : Nat
  grp : Nat
  role : Role
  lrec : DWord
  lr : LaunchRec
  /-- 128 registers of 32 lanes -/
  regs : List (List RegCell)
  regn : Nat
  blockMap : List Nat
  accBase : Nat
  accN : Nat
  lanes : List Lane
  landings : List Landing
  /-- the earliest cycle of the next chain (R89) -/
  readyAt : Nat
  /-- the end of the issue cycles of its latest chain (R120) -/
  busyUntil : Nat
  /-- flags that have not landed (R183) -/
  flags : List FlagLanding
  /-- bound and first allowed to issue (R68) -/
  started : Bool
  age : Nat
  lastIssue : Option Nat
  /-- the address of the latest chain (R376) -/
  lastPc : Word
  /-- the stall reason that the cycle which is ending counts (R122) -/
  counting : Option Reason
  eligibleSince : Option Nat
  fpflags : Word
  cbs : BitVec 3
  codebooks : List (List (BitVec 16))
  trapc : Word
  trapa : DWord
  trapm : Mask
  trappc : Word
  trapMode : Bool
  trapRec : Option TrapRec
  lcnt : Nat
  scnt : Nat
  acnt : Nat
  ecnt : Nat
  /-- the next place in issue order -/
  nextNo : Nat
  outst : List Outst
  sbuf : List StoreWord
  held : List StoreWord
  /-- the bytes that a handler's performed writes put over held stores: scratchpad or not, rank, address, length (R259, R317) -/
  overtaken : List (Bool × Nat × Nat × Nat)
  regionStart : List (Word × LaneMode)
  handlerStart : List (Word × LaneMode)
  regions : Nat
  restarts : Nat
  wait : Option WaitRec
  pending : Option Pending
  /-- the final EXIT waits for the counters (R150) -/
  exiting : Bool
  hasExited : Bool
  stalls : List Word
  chains : Nat
  extra : Nat
  phregs : List PhReg
  tickets : Nat
  deferred : List Deferred
  tiles : List Tile
  mma : List MmaOp
  halted : Bool
  /-- a halt that lands once the trap being taken is entered, with its cause (R365) -/
  haltOwed : Option Nat
  stepping : Bool
  skipBreak : Bool
  /-- halted by replay until an edge is released (R370) -/
  replayHold : Bool
  watchHit : Option DWord
  traceOn : Bool
  syncOwed : Option Nat
  fullOwed : Bool
  sinceSync : Nat
  lc : Nat
  groupNo : Nat
  commands : Nat
  /-- copy-engine commands issued (R262) -/
  copies : Nat
  /-- pre-emption has been requested (R324) -/
  draining : Bool
  deriving DecidableEq, Repr, Inhabited

/-! ## Blocks, gangs, halls -/

/-- A stage ring (R250, R251). -/
structure Ring where
  tb : Nat
  n : Nat
  t : Nat
  deriving DecidableEq, Repr, Inhabited

/-- A phaser's fields (R280). -/
structure Phaser where
  ph : Word
  nsig : Word
  arr : Word
  nnext : Word
  npart : Word
  deriving DecidableEq, Repr, Inhabited

/-- A stash mapping (R206). -/
structure StashMap where
  tile0 : Nat
  tiles : Nat
  base : DWord
  deriving DecidableEq, Repr, Inhabited

/-- A line held in a stash: its physical address, its bytes, dirty or clean (R207). -/
structure StashLine where
  pa : Nat
  dirty : Bool
  data : List Byte
  deriving DecidableEq, Repr, Inhabited

/-- An SMAP, SFLUSH or SDROP that is not done (R227), with the group that issued it. -/
structure StashCmd where
  kind : Nat
  hall : Nat
  slot : Nat
  map : StashMap
  /-- bytes of an SFLUSH -/
  len : Nat
  num : Nat
  deriving DecidableEq, Repr, Inhabited

/-- A resident block. -/
structure Block where
  ctx : Nat
  seq : Nat
  blk : Nat
  hall : Nat
  scrBase : Nat
  stashBase : Nat
  scr : Memory
  scrPoison : List Nat
  /-- tile tags TRK H P C V of each tile that has one set (R204) -/
  tags : List (Nat × BitVec 5)
  rings : List (Nat × Ring)
  phasers : List (Nat × Phaser)
  stashMaps : List StashMap
  stashLines : List StashLine
  stashCmds : List StashCmd
  /-- the register pool of each flight: physical register blocks (R114) -/
  pools : List (Nat × List Nat)
  bindClk : Nat
  charge : Nat
  deriving DecidableEq, Repr, Inhabited

/-- An open ticket round (R63, R64). -/
structure Round where
  n : Nat
  addr : DWord
  incr : DWord
  value : Option DWord
  /-- the counter was marked with poison when it was read -/
  bad : Bool
  takers : List (Nat × Nat)
  deriving DecidableEq, Repr, Inhabited

/-- A dispatched gang: how many of its groups are bound, its rounds, its relaunches. -/
structure Gang where
  ctx : Nat
  seq : Nat
  idx : Nat
  groups : Nat
  bound : Nat
  boundAt : Nat
  rounds : List Round
  relaunches : Nat
  /-- killed or failing: no group of it issues again -/
  stopping : Bool
  draining : Bool
  /-- a fence pre-empts it since this cycle, which is not charged (R336) -/
  fenceAt : Option Nat
  deriving DecidableEq, Repr, Inhabited

/-- A place of an engine operand: a pointer or a scratchpad address (R228). -/
structure Place where
  scratch : Bool
  addr : DWord
  deriving DecidableEq, Repr, Inhabited

/-- What a copy-engine command does (R229 to R232). -/
inductive CmdKind where
  | copy (src dst : Place) (len : Nat) (shadow : Bool)
  | box (src dst : Place) (desc : List Word)
  | gather (table : DWord) (idx dst : Place) (count rowb : Nat)
  | disc (addr : DWord) (len : Nat)
  deriving DecidableEq, Repr, Inhabited

/-- A copy-engine command accepted and not retired. -/
structure Cmd where
  kind : CmdKind
  hall : Nat
  slot : Nat
  ctx : Nat
  seq : Nat
  blk : Nat
  grp : Nat
  /-- rows gathered so far (R231) -/
  rows : Nat
  /-- of another command: the bytes read and not yet written, with their poison, and how many are written (R209, R228) -/
  got : List (Byte × Bool)
  put : Nat
  /-- its place among the group's copy-engine commands -/
  ord : Nat
  deferred : Option Deferred
  mask : Mask
  /-- a CPYW held at the engine: how many PUBs of its buffer, accepted before it, have not retired (R214) -/
  behind : Nat
  /-- the engine has begun it (R205, R209) -/
  started : Bool
  num : Nat
  lc : Nat
  /-- issued before this place of the group's issue order: an earlier .acq access comes first (R265) -/
  after : Nat
  /-- its writes leave a lockstep partition: 1 while they wait for the interval's comparison, 2 after it (R341) -/
  hold : Nat
  deriving DecidableEq, Repr, Inhabited

/-- A range scoreboard entry (R210): a global byte range of a context, or a scratchpad range of a block, and its command. -/
structure RangeEntry where
  ctx : Nat
  scratch : Bool
  seq : Nat
  blk : Nat
  lo : Nat
  hi : Nat
  slot : Nat
  num : Nat
  deriving DecidableEq, Repr, Inhabited

/-- A TLB entry (R78): context, page number in units of 64 KiB, its leaf, the entry that the walk used. -/
structure TlbEntry where
  ctx : Nat
  page : Nat
  leaf : DWord
  pte : Nat
  deriving DecidableEq, Repr, Inhabited

/-- A cached instruction packet (R86): context, virtual address, four words. -/
structure PacketLine where
  ctx : Nat
  va : Nat
  words : List Nat
  deriving DecidableEq, Repr, Inhabited

/-- A hall: flight ports, array reservations, refusals, copy engine, range scoreboard, TLB, instruction cache. -/
structure Hall where
  ports : List Nat
  refusals : List Nat
  /-- array uses reserved: (cycle, arrays) (R237) -/
  arrays : List (Nat × Nat)
  cmds : List Cmd
  ranges : List RangeEntry
  tlb : List TlbEntry
  icache : List PacketLine
  /-- sampling: context, pointer, firings (R366, R367) -/
  samples : List (Nat × Nat × Nat)
  /-- fenced for test: nothing is bound (R336) -/
  fenced : Bool
  deriving DecidableEq, Repr, Inhabited

/-! ## Tasks, queues, contexts -/

/-- The codes of STATUS (R40). -/
inductive TStatus where
  | written | waiting | ready | running | retired | failed | rejected | retracted
  deriving DecidableEq, Repr, Inhabited

/-- Where an accepted task's entry is: a die's store, or entry k of its queue's overflow area (R58, R59). -/
inductive Entry where
  | store (die : Nat)
  | overflow (k : Nat) (die : Nat)
  | none
  deriving DecidableEq, Repr, Inhabited

/-- An accepted task. -/
structure Task where
  ctx : Nat
  seq : Nat
  tcb : DWord
  queue : Nat
  status : TStatus
  lrec : DWord
  lr : LaunchRec
  argp : DWord
  arglen : Nat
  arghash : DWord
  succp : DWord
  blkrec : DWord
  keylo : DWord
  keyhi : DWord
  nextKey : DWord
  spord : Nat
  parent : Nat
  parentTcb : DWord
  spawns : Nat
  entry : Entry
  /-- acceptance order for overflow entries and ready order (R50, R59) -/
  acceptAt : Nat
  readyAt : Nat
  /-- blocks dispatched and blocks released after retiring -/
  dispatched : Nat
  done : Nat
  /-- the dies of instances of a level whose DOMAIN is die, of which some block has retired (R34) -/
  homes : List (Nat × Nat)
  chainsSum : List (Nat × List Nat)
  /-- a re-execution under PROP (R353) -/
  rerun : Bool
  /-- the arena of its launch, 0 for an untraced launch (R343) -/
  arena : DWord
  stopping : Bool
  deriving DecidableEq, Repr, Inhabited

/-- A queue page (R46) and what the newel keeps for the queue. -/
structure Queue where
  /-- QCFG as written; PRIO, QUANTUM and PRE act from the next visit on (R47) -/
  cfg : DWord
  posterr : Word
  deficit : Int
  ctx : Nat
  quantum : Nat
  pre : Bool
  en : Bool
  prio : Nat
  ovfBase : DWord
  ovfMax : Nat
  ovfCap : Nat
  qrBase : DWord
  qrLog2 : Nat
  qrHead : Word
  qrTail : Word
  qrDrop : Word
  depErr : Word
  deadSamples : Nat
  deriving DecidableEq, Repr, Inhabited

/-- A PUB accepted and not retired (R214, R233). -/
structure PubCmd where
  entry : Nat
  /-- the group that issued it -/
  seq : Nat
  blk : Nat
  grp : Nat
  num : Nat
  passed : Bool
  /-- issued at this place of the group's issue order (R265) -/
  after : Nat
  /-- what was accepted before its instant and is not performed: loads (seq, block, group, place) and engine commands (seq,
  block, group, number) -/
  loads : List (Nat × Nat × Nat × Nat)
  cmds : List (Nat × Nat × Nat × Nat)
  deriving DecidableEq, Repr, Inhabited

/-- A recorded task of a trace (R345): its place in its parent's spawn list, launch record, capsule hash and flags. -/
structure TraceTask where
  seq : Nat
  tcb : DWord
  parent : Nat
  ord : Nat
  lrec : DWord
  hash : DWord
  stale : Bool
  volatileFlag : Bool
  untraced : Bool
  /-- it wrote a granule of an M page with no record (R351) -/
  lost : Bool
  /-- the offset of its cell in the arena -/
  cell : Nat
  deriving DecidableEq, Repr, Inhabited

/-- A recorded write: the task, the granule, the undo value, and whether the present run wrote it (R346, R353). -/
structure TraceWrite where
  seq : Nat
  granule : Nat
  cell : Nat
  undo : List Byte
  fresh : Bool
  deriving DecidableEq, Repr, Inhabited

/-- A read edge: the task and the granule (R346). -/
structure TraceEdge where
  seq : Nat
  granule : Nat
  cell : Nat
  deriving DecidableEq, Repr, Inhabited

/-- An enabled trace (R343 to R356). `st` is STATE: 0 enabled, 1 recording, 2 idle, 3 propagating. -/
structure Trace where
  arena : DWord
  size : Nat
  rootTcb : DWord
  log2b : Nat
  st : Nat
  rootSeq : Nat
  full : Bool
  broken : Bool
  undoLost : Bool
  failed : Bool
  tasks : List TraceTask
  edges : List TraceEdge
  writes : List TraceWrite
  free : Nat
  /-- offsets of freed cells -/
  freed : List Nat
  rerun : Nat
  splice : Nat
  retract : Nat
  nprop : Nat
  /-- the groups whose PROP waits for completion: (seq, block, group) -/
  props : List (Nat × Nat × Nat)
  deriving DecidableEq, Repr, Inhabited

/-- A breakpoint comparator and its filter (R363). -/
structure Bp where
  hsp : Bool
  en : Bool
  offset : Word
  lrec : DWord
  deriving DecidableEq, Repr, Inhabited

/-- A watchpoint (R363). -/
structure Wp where
  addr : DWord
  en : Bool
  kind : BitVec 2
  scratch : Bool
  len : Nat
  deriving DecidableEq, Repr, Inhabited

/-- A stop record (R365). -/
structure Stop where
  cause : Nat
  kind : Nat
  hall : Nat
  slot : Nat
  queue : Nat
  seq : Nat
  addr : Word
  mask : Word
  clk : Nat
  deriving DecidableEq, Repr, Inhabited

/-- A note of a core dump (R372). -/
structure DumpNote where
  type : Nat
  group : Option Group
  block : Option Block
  task : Option Task
  info : List Nat
  deriving DecidableEq, Repr, Inhabited

/-- The debug mailbox of a context (R363). -/
structure Debug where
  right : Bool
  edited : Bool
  stopHead : Word
  stops : List (Nat × Stop)
  view : Option (Nat × Nat)
  viewTile : Nat
  scrWin : Nat
  bps : List (Nat × Bp)
  wps : List (Nat × Wp)
  smpEn : Bool
  smpN : Nat
  smpSince : Nat
  smpBase : DWord
  smpLog2 : Nat
  smpHead : Word
  smpTail : Word
  /-- SMPTAIL at the start of the cycle (R377) -/
  smpSeen : Word
  smpDrop : Word
  trBase : DWord
  trLog2 : Nat
  trHead : DWord
  trTail : DWord
  trDrop : Word
  traceAll : Bool
  rpMode : Nat
  rpFull : Bool
  rpBase : DWord
  rpSize : DWord
  rpHead : DWord
  rpGroups : Nat
  /-- last accessor of a line: line, group number, logical clock (R370) -/
  rpLast : List (Nat × Nat × Nat)
  /-- logged edges: reader, reader clock, writer, writer clock -/
  rpEdges : List (Nat × Nat × Nat × Nat)
  dumpBase : DWord
  dumpSize : DWord
  dumpLen : DWord
  dump : List DumpNote
  /-- a dump that the newel firmware is to write (R371) -/
  dumpDue : Bool
  haltAll : Bool
  deriving DecidableEq, Repr, Inhabited

/-- A context. -/
structure Ctx where
  root : Nat
  tbase : DWord
  checking : Bool
  bounded : Bool
  lockMask : BitVec 4
  pubTable : DWord
  quotas : List Nat
  sets : List (Nat × List Nat)
  setCounts : List (Nat × Nat)
  nextSeq : Nat
  pubs : List PubCmd
  traces : List Trace
  dbg : Debug
  /-- shootdowns requested and not complete: page numbers (R77) -/
  shoot : List Nat
  lockHalted : Bool
  deriving DecidableEq, Repr, Inhabited

/-- The save image of a gang (R325). -/
structure Image where
  gang : Gang
  groups : List Group
  blocks : List Block
  cmds : List Cmd
  ranges : List RangeEntry
  /-- the newel has chosen it to be restored (R50, R52) -/
  go : Bool
  deriving DecidableEq, Repr, Inhabited

/-! ## Collectives, package -/

/-- A chunk of a collective at this package (R299 to R302): its progress mark, whether it runs under the current tree set, the
value formed here from the children and the own input, whether its destination bytes have been written, the
acknowledgements its root has. -/
structure Chunk where
  st : Nat
  tree : Nat
  tsid : Nat
  on : Bool
  acc : Option (List Byte)
  wrote : Bool
  acks : List Nat
  deriving DecidableEq, Repr, Inhabited

/-- A partial value received from a child and not yet combined (R300, R302). -/
structure Partial where
  ctx : Nat
  set : Nat
  cid : Nat
  chunk : Nat
  tsid : Nat
  child : Nat
  data : List Byte
  flags : BitVec 5
  head : CollHead
  deriving DecidableEq, Repr, Inhabited

/-- A chunk of a collective that this package only passes on (R297, R300, R301): the value it has formed from its children, the
result it has passed down, the flags raised, and at the root the acknowledgements and whether the chunk is broadcast-done. -/
structure Relay where
  ctx : Nat
  set : Nat
  cid : Nat
  chunk : Nat
  tsid : Nat
  head : CollHead
  up : Option (List Byte)
  down : Option (List Byte)
  flags : BitVec 5
  acks : List Nat
  done : Bool
  deriving DecidableEq, Repr, Inhabited

/-- A collective accepted at this package (R306 to R308): the group that issued it, the members of its set in rank order, its
descriptor, STATE, CAUSE and FLAGS, its chunks, and what its destination held at the acceptance. -/
structure Collective where
  ctx : Nat
  set : Nat
  cid : Nat
  seq : Nat
  blk : Nat
  grp : Nat
  num : Nat
  members : List Nat
  status : DWord
  op : Nat
  red : Nat
  dt : Nat
  len : Nat
  root : Nat
  pub : Bool
  /-- a .pub write: PUBs of its buffer accepted before it that have not retired (R233) -/
  behind : Nat
  src : DWord
  dst : DWord
  /-- STATE: 0 RUNNING, 1 DONE, 2 FAILED -/
  st : Nat
  cause : Nat
  flags : BitVec 5
  tsFirst : Nat
  tsLast : Nat
  recomp : Nat
  chunks : List Chunk
  old : List Byte
  deriving DecidableEq, Repr, Inhabited

/-- The power states of R19. -/
inductive Power where
  | p0 | p1 | p2 | off
  deriving DecidableEq, Repr, Inhabited

/-- An attestation request (R15, R16). -/
structure AttReq where
  i3c : Bool
  nonce : List Byte
  ctx : Nat
  /-- the cycle it arrived in -/
  at_ : Nat
  deriving DecidableEq, Repr, Inhabited

/-- A unit's word and its last passed test (R335, R340): st 0 in service, 1 fenced, 2 retired. -/
structure UnitSt where
  st : Nat
  score : Nat
  passedAt : Nat
  fencedAt : Nat
  rehoming : Bool
  deriving DecidableEq, Repr, Inhabited

/-- A suspect record (R340). -/
structure Suspect where
  unit : Nat
  clkFrom : Nat
  clkTo : Nat
  nseq : Nat
  ncid : Nat
  list : DWord
  trunc : Bool
  deriving DecidableEq, Repr, Inhabited

/-- When a task had a block bound to a hall, for the suspect lists of R340. -/
structure Span where
  hall : Nat
  ctx : Nat
  seq : Nat
  since : Nat
  until_ : Nat
  deriving DecidableEq, Repr, Inhabited

/-- When a chunk of a collective started on a tree, for the suspect lists of R340. -/
structure ChunkSpan where
  ctx : Nat
  set : Nat
  cid : Nat
  ports : List Nat
  clk : Nat
  deriving DecidableEq, Repr, Inhabited

/-- A completion record that waits for its ring's page to become resident (R49, R379). -/
structure Owed where
  queue : Nat
  tcb : DWord
  seq : Nat
  code : Nat
  cause : Nat
  deriving DecidableEq, Repr, Inhabited

/-- A step on a TCB whose page is not resident: bytes written, or a change of PREDCNT (R56, R379). -/
structure Late where
  ctx : Nat
  /-- the pointer to what is written, or to the TCB -/
  at_ : DWord
  data : List Byte
  pred : Option Int
  deriving DecidableEq, Repr, Inhabited

/-- The package: power, boot, attestation, I3C, health record, units, links, lockstep. -/
structure Pkg where
  power : Power
  /-- an exit to P0 is under way (R19) -/
  exiting : Bool
  /-- steps of the host and the newel that have arrived and wait: posts in P1 and P2 or for a page, host accesses to a page that
  is being moved (R19, R84, R379) -/
  waiting : List Instr
  owed : List Owed
  /-- steps on TCBs that wait for a page (R379) -/
  late : List Late
  /-- pending-launch entries freed: the die and the cycle, in which no later post or spawn sees them free (R58) -/
  freedAt : List (Nat × Nat)
  meas : List (List Byte)
  /-- boot steps completed, and the step at which boot halted (R13) -/
  bootDone : Nat
  bootHalt : Nat
  chainComplete : Bool
  bootCount : Word
  attNonce : List Byte
  attCtx : Nat
  attStat : Nat
  attBuf : List Byte
  i3cBuf : List Byte
  i3cReady : Bool
  attQueue : List AttReq
  /-- the bytes of the host's last read -/
  hostRead : List Byte
  /-- the address it answers at: 0x2A, or what SETDASA assigned (R18) -/
  i3cAddr : BitVec 7
  /-- the bytes of the last I3C reply, and whether the last command was answered with a NACK -/
  i3cReply : List Byte
  i3cNack : Bool
  hot : Bool
  diverged : Bool
  thermal : Bool
  replaceAsk : Bool
  fwFault : Word
  /-- the newel's bind status reads BADBIND (R67) -/
  badBind : Bool
  suspHead : Word
  dielvl : Bool
  hallpm : Nat
  divint : Word
  suspArea : DWord
  suspLen : Nat
  suspNext : Nat
  units : List (Nat × UnitSt)
  suspects : List (Nat × Suspect)
  /-- the entries of the suspect list area by their index (R340); the spec names no context whose memory the area would be in -/
  suspList : List (Nat × DWord)
  spans : List Span
  chunkSpans : List ChunkSpan
  links : List LinkEntry
  tsid : Nat
  trees : List (List TreeNode)
  treeLog : List (Nat × List (List TreeNode))
  collectives : List Collective
  partials : List Partial
  /-- chunks of the current tree set that pass through this package, which is no member (R297) -/
  relayed : List Relay
  paired : Bool
  /-- the lockstep interval in progress and the traffic held in it (R341) -/
  interval : Nat
  traffic : List Byte
  deriving DecidableEq, Repr, Inhabited

/-! ## The machine -/

/-- Why a step stops with a fault: never. No event or instruction of the TN40 stops the machine; what goes wrong is a trap, a
restart, a kill or a record. -/
inductive Fault where
  deriving DecidableEq, Repr

/-- Why a step has no meaning. -/
inductive Refusal where
  /-- the instruction has no meaning yet; only Dispatch's refused arms raise it; safe -/
  | notModelled (mnemonic : String)
  deriving DecidableEq, Repr, Inhabited

/-- An exact value: NaN, an infinity, or m times 2 to the e with a sign. -/
inductive Num where
  | nan
  | inf (neg : Bool)
  | fin (neg : Bool) (m : Nat) (e : Int)
  deriving DecidableEq, Repr, Inhabited

/-- A line that the L2 holds (R83): its line number, the context and the class of the page it was filled for. -/
structure L2Line where
  line : Nat
  ctx : Nat
  cls : Nat
  deriving DecidableEq, Repr, Inhabited

/-- A disturbance of a function unit, which the outside world brings about: what the residues (R118) and the shadow (R178) check
for. It meets the next word that computes in its lane. -/
inductive Strike where
  /-- these bits of the first result differ from what the operands give, while its predicted residue does not -/
  | result (lane : Nat) (flip : Word)
  /-- the shadow's result for an element of the lane -/
  | shadow (lane elem : Nat) (h : Num)
  deriving DecidableEq, Repr, Inhabited

/-- One TN40 package. -/
structure State where
  /-- the group at the issue port -/
  g : Group
  /-- every other resident group -/
  groups : List Group
  cur : Cur
  /-- the steps of other agents that happen next, in this order -/
  events : List Instr
  clk : Nat
  /-- the number of free values used: the model's own counter -/
  free : Nat
  mem : Memory
  /-- memory tags of granules whose tag is not 0 (R82) -/
  gtags : List (Nat × BitVec 4)
  /-- granules marked with poison (R337) -/
  gpoison : List Nat
  /-- lines whose granule tags are cached beside L2 (R79) -/
  sideband : List Nat
  ctxs : List (Nat × Ctx)
  queues : List (Nat × Queue)
  tasks : List Task
  blocks : List Block
  gangs : List Gang
  halls : List (Nat × Hall)
  saved : List Image
  /-- round pointers of the priority levels (R52) -/
  pointers : List (Nat × Nat)
  /-- binds so far: the age order of flights (R121) -/
  ageNext : Nat
  /-- the cycle is over but for its samples: nothing issues in it any more (R366) -/
  closed : Bool
  /-- a disturbance that the next word meets -/
  strike : Option Strike
  /-- the L2 sets that hold lines, by slice and set, the most recently used line first (R83) -/
  l2 : List (Nat × List L2Line)
  /-- the access counters of pages, one for each die and one for Gocen Link (R84) -/
  pageCounts : List (Nat × List Nat)
  pkg : Pkg
  deriving DecidableEq, Repr, Inhabited

/-! ## Reset -/

/-- A register that reads 0 with tag RAW and a valid residue (R44, R114). -/
def RegCell.zero : RegCell := { val := 0, tag := .raw, res := 0, sym := 0 }

/-- No region, status NONE (R293). -/
def LaneRegion.fresh : LaneRegion :=
  { isOpen := false, since := 0, status := 0, prev := 0, committed := false, fallback := 0, vp := 0, reads := [], exact := [], inputs := [],
    stores := [], cons := [], packets := 0, lastPacket := 0, scope := 0,
    locks := [], lockWait := 0, writing := false, writes := [], hold := 0 }

/-- A launch record of zeros. -/
def LaunchRec.zero : LaunchRec :=
  { text := 0, entry := 0, regs := 0, scratch := 0, stash := 0, roleMode := 0, nvec := 0, nmat := 0, ncopy := 0,
    cb := 0, acc := 0, nlev := 0, bounded := false, relaunch := false, traced := false, sptab := 0, spcount := 0,
    lmcount := 0, lmtab := 0, reserved := false, levels := [] }

/-- A tile at bind (R241). -/
def Tile.zero : Tile := { elems := List.replicate 256 0, ints := 0, poison := 0 }

/-- An empty slot: every register 0, every lane live at 0, every counter 0. -/
def Group.empty : Group :=
  { valid := false, hall := 0, slot := 0, ctx := 0, seq := 0, tcb := 0, blk := 0, grp := 0, role := .general,
    lrec := 0, lr := LaunchRec.zero, regs := List.replicate 128 (List.replicate 32 RegCell.zero), regn := 0,
    blockMap := [], accBase := 0, accN := 0,
    lanes := List.replicate 32 { lpc := 0, mode := .live, region := LaneRegion.fresh },
    landings := [], readyAt := 0, busyUntil := 0, flags := [], started := false, age := 0, lastIssue := .none, lastPc := 0, counting := .none,
    eligibleSince := .none, fpflags := 0, cbs := 0, codebooks := List.replicate 8 (List.replicate 16 0),
    trapc := 0, trapa := 0, trapm := 0, trappc := 0, trapMode := false, trapRec := .none,
    lcnt := 0, scnt := 0, acnt := 0, ecnt := 0, nextNo := 0, outst := [], sbuf := [], held := [], overtaken := [],
    regionStart := List.replicate 32 (0, .live), handlerStart := [], regions := 0, restarts := 0, wait := .none,
    pending := .none, exiting := false, hasExited := false, stalls := List.replicate 16 0, chains := 0, extra := 0,
    phregs := [], tickets := 0, deferred := [], tiles := [], mma := [], halted := false, haltOwed := .none, stepping := false,
    skipBreak := false, replayHold := false, watchHit := .none, traceOn := false, syncOwed := .none,
    fullOwed := false, sinceSync := 0, lc := 0, groupNo := 0, commands := 0, copies := 0, draining := false }

/-- A hall with nothing bound. -/
def Hall.empty : Hall :=
  { ports := [0, 0, 0, 0], refusals := [0, 0, 0, 0], arrays := [], cmds := [], ranges := [], tlb := [], icache := [],
    samples := [], fenced := false }

/-- A queue page at reset (R46). -/
def Queue.zero : Queue :=
  { cfg := 0, posterr := 0, deficit := 0, ctx := 0, quantum := 0, pre := false, en := false, prio := 0, ovfBase := 0,
    ovfMax := 0, ovfCap := 0, qrBase := 0, qrLog2 := 0, qrHead := 0, qrTail := 0, qrDrop := 0, depErr := 0,
    deadSamples := 0 }

/-- A debug mailbox at reset (R363). -/
def Debug.zero : Debug :=
  { right := false, edited := false, stopHead := 0, stops := [], view := .none, viewTile := 0, scrWin := 0, bps := [],
    wps := [], smpEn := false, smpN := 0, smpSince := 0, smpBase := 0, smpLog2 := 0, smpHead := 0, smpTail := 0, smpSeen := 0,
    smpDrop := 0, trBase := 0, trLog2 := 0, trHead := 0, trTail := 0, trDrop := 0, traceAll := false, rpMode := 0,
    rpFull := false, rpBase := 0, rpSize := 0, rpHead := 0, rpGroups := 0, rpLast := [], rpEdges := [], dumpBase := 0,
    dumpSize := 0, dumpLen := 0, dump := [], dumpDue := false, haltAll := false }

/-- A unit in service (R335). -/
def UnitSt.zero : UnitSt := { st := 0, score := 0, passedAt := 0, fencedAt := 0, rehoming := false }

/-- The package right after a reset, before the boot ROM has loaded anything (R12, R13, R15, R19, R334). -/
def Pkg.reset : Pkg :=
  { power := .p0, exiting := false, waiting := [], owed := [], late := [], freedAt := [], meas := List.replicate 4 (List.replicate 48 0), bootDone := 0, bootHalt := 0,
    chainComplete := false, bootCount := 0, attNonce := List.replicate 32 0, attCtx := 0, attStat := 0,
    attBuf := List.replicate 448 0, i3cBuf := List.replicate 448 0, i3cReady := false, attQueue := [],
    hostRead := [], i3cAddr := 0x2A, i3cReply := [], i3cNack := false, hot := false, diverged := false, thermal := false,
    replaceAsk := false, fwFault := 0, badBind := false, suspHead := 0, dielvl := true, hallpm := 40, divint := 0, suspArea := 0,
    suspLen := 0, suspNext := 0, units := [], suspects := [], suspList := [], spans := [], chunkSpans := [], links := [], tsid := 0,
    trees := [], treeLog := [], collectives := [], partials := [], relayed := [], paired := false, interval := 0, traffic := [] }

/-- The machine right after reset: CLK 0 (R152), no context, no queue enabled, nothing bound, memory with nothing
listed. -/
def State.reset : State :=
  { g := Group.empty, groups := [], cur := { mask := 0, chainPc := 0, wordPc := 0, status := .done, fresh := false, follow := false, srcs := [] }, events := [],
    clk := 0, free := 0, mem := [], gtags := [], gpoison := [], sideband := [], ctxs := [], queues := [], tasks := [],
    blocks := [], gangs := [], halls := [], saved := [], pointers := [], ageNext := 0, closed := false, strike := none, l2 := [], pageCounts := [], pkg := Pkg.reset }

end Sys2Proof.Machine
end

