-- ==== Sys2Proof/Machine/Memory.lean ====
section
/-! DEFINITION. Memory: bytes, the page table and its leaves, translation and the classification of pages, the stash, published
buffers, and the physical accesses that every agent makes through one place (R72 to R85, R202, R207, R208, R212, R213, R258). -/

namespace Sys2Proof.Machine

/-! ## Tables keyed by a number -/

/-- The entry of a table at a key. -/
def lookup {α : Type} (t : List (Nat × α)) (k : Nat) : Option α :=
  match t with
  | [] => none
  | (k', v) :: r => if k' = k then some v else lookup r k

/-- A table without the entry at a key. -/
def remove {α : Type} (t : List (Nat × α)) (k : Nat) : List (Nat × α) := t.filter (fun p => p.1 != k)

/-- A table with an entry put in ascending place. -/
def insert {α : Type} (t : List (Nat × α)) (k : Nat) (v : α) : List (Nat × α) :=
  match t with
  | [] => [(k, v)]
  | (k', v') :: r =>
    if k < k' then (k, v) :: (k', v') :: r
    else if k = k' then (k, v) :: r
    else (k', v') :: insert r k v

/-- The nth element replaced. -/
def setNth {α : Type} (l : List α) (n : Nat) (v : α) : List α := l.set n v

/-- Every element that satisfies `p` changed by `f`. -/
def mapIf {α : Type} (l : List α) (p : α → Bool) (f : α → α) : List α := l.map (fun x => if p x then f x else x)

/-- An element put in its place in a list that `le` orders, after its equals. -/
def placeBy {α : Type} (le : α → α → Bool) (x : α) : List α → List α
  | [] => [x]
  | y :: r => if le y x then y :: placeBy le x r else x :: y :: r

/-- A list in the order of `le`, equals in their order. -/
def sortBy {α : Type} (le : α → α → Bool) (l : List α) : List α := l.foldl (fun r x => placeBy le x r) []

/-- A list without the elements whose place is in another list. -/
def dropPlaces {α : Type} (l : List α) (places : List Nat) : List α :=
  ((List.range l.length).zip l).filterMap (fun p => if places.contains p.1 then none else some p.2)

/-! ## Bytes -/

/-- The canonical form: addresses strictly rising, no listed byte 0. -/
def Memory.wf (m : Memory) : Bool :=
  match m with
  | [] => true
  | [(_, b)] => b != 0
  | (a, b) :: (a', b') :: r => b != 0 && decide (a < a') && Memory.wf ((a', b') :: r)

/-- The byte at an address; an unlisted byte reads 0 (DESIGN CHOICE, log entry 3). -/
def Memory.read (m : Memory) (a : Nat) : Byte :=
  match m with
  | [] => 0
  | (a', b) :: r => if a' = a then b else Memory.read r a

/-- The memory with a byte written; a byte 0 is not listed. -/
def Memory.write (m : Memory) (a : Nat) (b : Byte) : Memory :=
  match m with
  | [] => if b = 0 then [] else [(a, b)]
  | (a', b') :: r =>
    if a < a' then (if b = 0 then (a', b') :: r else (a, b) :: (a', b') :: r)
    else if a = a' then (if b = 0 then r else (a, b) :: r)
    else (a', b') :: Memory.write r a b

/-- Bytes from an address up. -/
def Memory.readN (m : Memory) (a n : Nat) : List Byte := (List.range n).map (fun i => Memory.read m (a + i))

/-- Bytes written from an address up. -/
def Memory.writeN (m : Memory) (a : Nat) (bs : List Byte) : Memory :=
  match bs with
  | [] => m
  | b :: r => Memory.writeN (Memory.write m a b) (a + 1) r

/-- A little-endian number of `n` bytes (R5). -/
def Memory.num (m : Memory) (a n : Nat) : Nat := leNat (Memory.readN m a n)

/-! ## Leaves of the page table -/

namespace Leaf
/-- resident (R74) -/
def v (l : DWord) : Bool := l.getLsbD 0
def r (l : DWord) : Bool := l.getLsbD 1
def w (l : DWord) : Bool := l.getLsbD 2
def x (l : DWord) : Bool := l.getLsbD 3
/-- the cache class: 0 O, 1 W, 2 A, 3 K (R74, R83) -/
def cls (l : DWord) : Nat := bits l.toNat 6 2
/-- 0 RC, 1 SO, 2 UN (R74) -/
def kind (l : DWord) : Nat := bits l.toNat 4 2
/-- memory tagging on -/
def t (l : DWord) : Bool := l.getLsbD 8
/-- modifiable: reads are traced -/
def m (l : DWord) : Bool := l.getLsbD 9
/-- shadow-published -/
def s (l : DWord) : Bool := l.getLsbD 10
/-- migrating -/
def g (l : DWord) : Bool := l.getLsbD 11
def d (l : DWord) : Bool := l.getLsbD 12
def a (l : DWord) : Bool := l.getLsbD 13
/-- 0 64 KiB, 1 2 MiB, 2 1 GiB -/
def size (l : DWord) : Nat := bits l.toNat 14 2
/-- the physical base of the page -/
def frame (l : DWord) : Nat := bits l.toNat 16 40 * 65536
/-- bits of the offset within a page -/
def offBits (l : DWord) : Nat := if size l == 0 then 16 else if size l == 1 then 21 else 30
/-- An entry is a leaf when R, W or X is set (R74). -/
def isLeaf (l : DWord) : Bool := r l || w l || x l
/-- A leaf that R75 calls malformed, at a level. -/
def malformed (level : Nat) (l : DWord) : Bool :=
  decide (level ≥ 2) || (level == 1 && size l != 2) || (level == 0 && size l == 2) || size l == 3 ||
  kind l == 3 || frame l % 2 ^ offBits l != 0 || (s l && size l != 0) || bits l.toNat 56 8 != 0
/-- The leaf with a bit set. -/
def set (l : DWord) (b : Nat) : DWord := l ||| (1#64 <<< b)
/-- The leaf with a bit cleared. -/
def clear (l : DWord) (b : Nat) : DWord := l &&& ~~~(1#64 <<< b)
/-- The physical address of a virtual address. -/
def phys (l : DWord) (va : Nat) : Nat := frame l + va % 2 ^ offBits l
/-- The leaf with another frame. -/
def withFrame (l : DWord) (f : Nat) : DWord :=
  BitVec.ofNat 64 (bits l.toNat 0 16 + bits (f / 65536) 0 40 * 65536)
end Leaf

/-- What a translation finds: nothing (absent or malformed), or a leaf and the place of its entry. -/
inductive Walk where
  | absent
  | leaf (l : DWord) (pte : Nat)
  deriving DecidableEq, Repr, Inhabited

/-- The virtual address of a pointer (R72). -/
def vaOf (p : DWord) : Nat := bits p.toNat 0 57

/-- The page of a virtual address, in units of 64 KiB. -/
def pageOf (va : Nat) : Nat := va / 65536

/-- A virtual address lies in the hall window (R274). -/
def inWindow (va : Nat) : Bool := bits va 32 25 == 0x1FFFFFF

/-- A pointer lies in the hall window (R274). -/
def windowPointer (p : DWord) : Bool := bits p.toNat 32 32 == 0x01FFFFFF

/-- The index of a level (R73). -/
def levelIndex (level va : Nat) : Nat := if level == 3 then bits va 46 11 else bits va (16 + 10 * level) 10

/-- The four-level walk (R73, R75): one entry a level, from the root down. -/
def walkFrom (mem : Memory) (level table va : Nat) : Walk :=
  let pte := table + 8 * levelIndex level va
  let e : DWord := BitVec.ofNat 64 (Memory.num mem pte 8)
  if Leaf.isLeaf e then (if Leaf.malformed level e then .absent else .leaf e pte)
  else if Leaf.v e && bits e.toNat 1 12 == 0 && bits e.toNat 56 8 == 0 then
    match level with
    | 0 => .absent
    | n + 1 => walkFrom mem n (bits e.toNat 13 43 * 8192) va
  else .absent

/-- The places of the entries that a walk reads (R73). -/
def walkPath (mem : Memory) (level table va : Nat) : List Nat :=
  let pte := table + 8 * levelIndex level va
  let e : DWord := BitVec.ofNat 64 (Memory.num mem pte 8)
  if !Leaf.isLeaf e && Leaf.v e && bits e.toNat 1 12 == 0 && bits e.toNat 56 8 == 0 then
    match level with
    | 0 => [pte]
    | n + 1 => pte :: walkPath mem n (bits e.toNat 13 43 * 8192) va
  else [pte]

/-- The walk of a context's table (R73, R274). -/
def walk (mem : Memory) (root va : Nat) : Walk :=
  if inWindow va then .absent else walkFrom mem 3 root va

/-! ## Parts of the state -/

/-- A context. -/
def State.ctx? (s : State) (c : Nat) : Option Ctx := lookup s.ctxs c

/-- A context changed. -/
def State.updCtx (s : State) (c : Nat) (f : Ctx → Ctx) : State :=
  match lookup s.ctxs c with
  | some x => { s with ctxs := insert s.ctxs c (f x) }
  | none => s

/-- A hall; a hall not listed has nothing in it. -/
def State.hall (s : State) (h : Nat) : Hall := (lookup s.halls h).getD Hall.empty

/-- A hall changed. -/
def State.updHall (s : State) (h : Nat) (f : Hall → Hall) : State :=
  { s with halls := insert s.halls h (f (State.hall s h)) }

/-- A queue page; a queue not listed is at reset. -/
def State.queue (s : State) (q : Nat) : Queue := (lookup s.queues q).getD Queue.zero

/-- A queue page changed. -/
def State.updQueue (s : State) (q : Nat) (f : Queue → Queue) : State :=
  { s with queues := insert s.queues q (f (State.queue s q)) }

/-- The block of a context, task and index. -/
def Block.is (b : Block) (c seq blk : Nat) : Bool := b.ctx == c && b.seq == seq && b.blk == blk

/-- A resident block. -/
def State.block? (s : State) (c seq blk : Nat) : Option Block := s.blocks.find? (fun b => Block.is b c seq blk)

/-- A resident block changed. -/
def State.updBlock (s : State) (c seq blk : Nat) (f : Block → Block) : State :=
  { s with blocks := mapIf s.blocks (fun b => Block.is b c seq blk) f }

/-- An accepted task. -/
def State.task? (s : State) (c seq : Nat) : Option Task := s.tasks.find? (fun t => t.ctx == c && t.seq == seq)

/-- An accepted task changed. -/
def State.updTask (s : State) (c seq : Nat) (f : Task → Task) : State :=
  { s with tasks := mapIf s.tasks (fun t => t.ctx == c && t.seq == seq) f }

/-- A gang. -/
def State.gang? (s : State) (c seq i : Nat) : Option Gang :=
  s.gangs.find? (fun g => g.ctx == c && g.seq == seq && g.idx == i)

/-- A gang changed. -/
def State.updGang (s : State) (c seq i : Nat) (f : Gang → Gang) : State :=
  { s with gangs := mapIf s.gangs (fun g => g.ctx == c && g.seq == seq && g.idx == i) f }

/-- The issuing group changed. -/
def State.updG (s : State) (f : Group → Group) : State := { s with g := f s.g }

/-- Every resident group, the one at the issue port first. -/
def State.allGroups (s : State) : List Group := if s.g.valid then s.g :: s.groups else s.groups

/-- Every resident group changed. -/
def State.mapGroups (s : State) (p : Group → Bool) (f : Group → Group) : State :=
  { s with g := if s.g.valid && p s.g then f s.g else s.g, groups := mapIf s.groups p f }

/-- The group in a slot. -/
def Group.at_ (g : Group) (hall slot : Nat) : Bool := g.valid && g.hall == hall && g.slot == slot

/-- The group in a slot of a hall. -/
def State.groupAt? (s : State) (hall slot : Nat) : Option Group :=
  (State.allGroups s).find? (fun g => Group.at_ g hall slot)

/-- The group in a slot changed. -/
def State.updGroup (s : State) (hall slot : Nat) (f : Group → Group) : State :=
  State.mapGroups s (fun g => Group.at_ g hall slot) f

/-- A group by its place in its launch. -/
def Group.isMember (g : Group) (c seq blk grp : Nat) : Bool := g.valid && g.ctx == c && g.seq == seq && g.blk == blk && g.grp == grp

/-- The resident group of a place in a launch. -/
def State.member? (s : State) (c seq blk grp : Nat) : Option Group :=
  (State.allGroups s).find? (fun g => Group.isMember g c seq blk grp)

/-- A group of a place in a launch changed, resident or saved. -/
def State.updMember (s : State) (c seq blk grp : Nat) (f : Group → Group) : State :=
  let s := State.mapGroups s (fun g => Group.isMember g c seq blk grp) f
  { s with saved := s.saved.map (fun i => { i with groups := mapIf i.groups (fun g => Group.isMember g c seq blk grp) f }) }

/-- The group of a slot comes to the issue port. -/
def State.toPort (s : State) (hall slot : Nat) : State :=
  if Group.at_ s.g hall slot then s
  else match s.groups.find? (fun g => Group.at_ g hall slot) with
    | some x =>
      { s with g := x, groups := (if s.g.valid then [s.g] else []) ++ s.groups.filter (fun g => !Group.at_ g hall slot) }
    | none => s

/-- The partition of a lockstep context does not run: its packages diverged, or the bridge is not trained (R22, R341). -/
def State.lockStopped (s : State) (x : Ctx) : Bool := x.lockHalted || (x.lockMask != 0 && !s.pkg.paired)

/-- A debug mailbox changed. -/
def State.updDebug (s : State) (c : Nat) (f : Debug → Debug) : State :=
  State.updCtx s c (fun x => { x with dbg := f x.dbg })

/-- The package changed. -/
def State.updPkg (s : State) (f : Pkg → Pkg) : State := { s with pkg := f s.pkg }

/-- The next free value's number is used up (log entries 7 to 10). -/
def State.useFree (s : State) : State := { s with free := s.free + 1 }

/-! ## The shape of a launch -/

/-- COUNT of a level word (R33). -/
def levelCount (w : DWord) : Nat := bits w.toNat 0 32
/-- DOMAIN of a level word (R33). -/
def levelDomain (w : DWord) : Nat := bits w.toNat 32 4
/-- SCOPE of a level word (R33). -/
def levelScope (w : DWord) : Nat := bits w.toNat 36 3
/-- CORES of a level word (R33). -/
def levelCores (w : DWord) : Bool := w.getLsbD 39

/-- The levels that count, LEVEL0 to LEVEL(NLEV−1). -/
def LaunchRec.used (r : LaunchRec) : List DWord := r.levels.take r.nlev

/-- The product of COUNT over the levels of a domain. -/
def LaunchRec.product (r : LaunchRec) (p : Nat → Bool) : Nat :=
  (LaunchRec.used r).foldl (fun n w => if p (levelDomain w) then n * levelCount w else n) 1

/-- Groups per block, G (R34). -/
def LaunchRec.groupsPerBlock (r : LaunchRec) : Nat := LaunchRec.product r (fun d => d == 1)
/-- Blocks per gang, B (R34). -/
def LaunchRec.blocksPerGang (r : LaunchRec) : Nat := LaunchRec.product r (fun d => d == 2)
/-- Blocks of the launch: every level above block (R34). -/
def LaunchRec.blocks (r : LaunchRec) : Nat := LaunchRec.product r (fun d => decide (d ≥ 2))
/-- Gangs of the launch. -/
def LaunchRec.gangs (r : LaunchRec) : Nat := LaunchRec.blocks r / LaunchRec.blocksPerGang r

/-- The index of the gang of a block (R152 GANGID). -/
def LaunchRec.gangOf (r : LaunchRec) (blk : Nat) : Nat := blk / LaunchRec.blocksPerGang r

/-- The gang of a group. -/
def Group.gang (g : Group) : Nat := LaunchRec.gangOf g.lr g.blk

/-! ## The stash (R206, R207) -/

/-- The 128-byte lines of a physical run. -/
def linesOf (pa len : Nat) : List Nat :=
  (List.range ((pa % 128 + len + 127) / 128)).map (fun i => pa / 128 + i)

/-- A mapping covers a virtual address. -/
def StashMap.covers (m : StashMap) (va : Nat) : Bool :=
  decide (vaOf m.base ≤ va) && decide (va < vaOf m.base + m.tiles * 1024)

/-- Write a stash line's bytes back to its home (R207). -/
def writeLine (mem : Memory) (l : StashLine) : Memory := if l.dirty then Memory.writeN mem (l.pa * 128) l.data else mem

/-- The lines of a block that satisfy `p` are written back if dirty, and kept clean or dropped. -/
def State.flushBlock (s : State) (c seq blk : Nat) (p : StashLine → Bool) (keep : Bool) : State :=
  match State.block? s c seq blk with
  | none => s
  | some b =>
    let hit := b.stashLines.filter p
    if hit.isEmpty then s
    else
      let s := { s with mem := hit.foldl writeLine s.mem }
      State.updBlock s c seq blk (fun b =>
        { b with stashLines :=
            if keep then mapIf b.stashLines p (fun l => { l with dirty := false })
            else b.stashLines.filter (fun l => !p l) })

/-- An access to lines from outside every block but one: a read makes an owner write the line back, a write also invalidates
the owner's copy (R207). -/
def State.recall (s : State) (except : Option (Nat × Nat × Nat)) (pa len : Nat) (write : Bool) : State :=
  if s.blocks.all (fun b => b.stashLines.isEmpty) then s
  else
    let ls := linesOf pa len
    s.blocks.foldl (fun s b =>
      if except == some (b.ctx, b.seq, b.blk) then s
      else State.flushBlock s b.ctx b.seq b.blk (fun l => ls.contains l.pa) (!write)) s

/-- The stash of a block serves a virtual address. -/
def Block.serves (b : Block) (va : Nat) : Bool := b.stashMaps.any (fun m => StashMap.covers m va)

/-- Memory as an access from outside every block reads it, a dirty line of a stash being written back first (R207). -/
def State.sysMem (s : State) : Memory := s.blocks.foldl (fun m b => b.stashLines.foldl writeLine m) s.mem

/-! ## Translation -/

/-- A leaf's page covers a virtual address. -/
def TlbEntry.covers (e : TlbEntry) (c va : Nat) : Bool :=
  e.ctx == c && e.page * 65536 / 2 ^ Leaf.offBits e.leaf == va / 2 ^ Leaf.offBits e.leaf

/-- Translation for an access from a hall: the TLB, and on a miss the walk (R78). -/
def State.translate (s : State) (h c va : Nat) : Walk :=
  match s.ctx? c with
  | none => .absent
  | some x =>
    if inWindow va then .absent
    else match (s.hall h).tlb.find? (fun e => TlbEntry.covers e c va) with
      | some e => .leaf e.leaf e.pte
      | none => walk (State.sysMem s) x.root va

/-- Translation for the newel, the host and the I/O die: the table itself. -/
def State.walk (s : State) (c va : Nat) : Walk :=
  match s.ctx? c with
  | none => .absent
  | some x => Sys2Proof.Machine.walk (State.sysMem s) x.root va

/-- The walker's reads, at .sys scope: a stash that holds an entry's line dirty writes it back (R73, R207). -/
def State.recallWalk (s : State) (c va : Nat) : State :=
  match s.ctx? c with
  | none => s
  | some x =>
    if inWindow va || s.blocks.all (fun b => b.stashLines.isEmpty) then s
    else (walkPath (State.sysMem s) 3 x.root va).foldl (fun s p => State.recall s none p 8 false) s

/-- Write an entry of the page table at its home (R76, R207). -/
def State.writePte (s : State) (pte : Nat) (l : DWord) : State :=
  let s := State.recall s none pte 8 true
  { s with mem := Memory.writeN s.mem pte (leBytes 8 l.toNat) }

/-- A TLB fill of a resident leaf, with A set in the entry the walk used (R76, R78). A leaf whose page is being moved is not kept:
its access waits for the new one (R79, R84). -/
def State.fillTlb (s : State) (h c va : Nat) : State :=
  if (s.hall h).tlb.any (fun e => TlbEntry.covers e c va) then s
  else match s.walk c va with
    | .absent => s
    | .leaf l pte =>
      if !Leaf.v l || Leaf.g l then s
      else
        let l' := Leaf.set l 13
        let s := State.recallWalk s c va
        let s := if Leaf.a l then s else State.writePte s pte l'
        State.updHall s h (fun x =>
          { x with tlb := ({ ctx := c, page := pageOf va, leaf := l', pte := pte } :: x.tlb).take Config.tlbEntries })

/-- The first write through a TLB entry whose D bit is clear sets D (R76). -/
def State.setDirty (s : State) (h c va : Nat) : State :=
  match (s.hall h).tlb.find? (fun e => TlbEntry.covers e c va) with
  | none => s
  | some e =>
    if Leaf.d e.leaf then s
    else
      let cur : DWord := BitVec.ofNat 64 (Memory.num (State.sysMem s) e.pte 8)
      let s := State.writePte s e.pte (Leaf.set cur 12)
      State.updHall s h (fun x =>
        { x with tlb := mapIf x.tlb (fun e => TlbEntry.covers e c va) (fun e => { e with leaf := Leaf.set e.leaf 12 }) })

/-! ## Published buffers (R212) -/

/-- Read `n` bytes of a context's virtual memory without any check but translation. -/
def State.virtNum (s : State) (c va n : Nat) : Option Nat :=
  match s.walk c va with
  | .leaf l _ => if Leaf.v l then some (Memory.num (State.sysMem s) (Leaf.phys l va) n) else none
  | .absent => none

/-- An entry of the publish table: its virtual address is `pubTable + 64 i`. -/
structure PubEntry where
  index : Nat
  base : Nat
  npages : Nat
  frameA : Nat
  frameB : Nat
  gen : Nat
  sel : Bool
  deriving DecidableEq, Repr, Inhabited

/-- Entry `i` of a context's publish table (R212). -/
def State.pubEntry (s : State) (c i : Nat) : Option PubEntry :=
  match s.ctx? c with
  | none => none
  | some x =>
    if x.pubTable = 0 then none
    else
      let a := vaOf x.pubTable + 64 * i
      match State.virtNum s c a 8, State.virtNum s c (a + 8) 4, State.virtNum s c (a + 16) 8,
            State.virtNum s c (a + 24) 8, State.virtNum s c (a + 32) 8, State.virtNum s c (a + 40) 1 with
      | some b, some n, some fa, some fb, some gen, some sel =>
        some { index := i, base := bits b 16 41 * 65536, npages := n, frameA := fa, frameB := fb, gen := gen,
               sel := sel % 2 == 1 }
      | _, _, _, _, _, _ => none

/-- A used entry of the publish table holds a virtual address. -/
def PubEntry.holds (e : PubEntry) (va : Nat) : Bool :=
  e.npages != 0 && decide (e.base ≤ va) && decide (va < e.base + e.npages * 65536)

/-- The publish buffer of a virtual address among the n entries from entry k on: the first that holds it (R212). -/
def State.bufferFrom (s : State) (c va : Nat) : Nat → Nat → Option PubEntry
  | _, 0 => none
  | k, n + 1 =>
    match State.pubEntry s c k with
    | some e => if PubEntry.holds e va then some e else State.bufferFrom s c va (k + 1) n
    | none => State.bufferFrom s c va (k + 1) n

/-- The publish buffer of a virtual address. -/
def State.buffer (s : State) (c va : Nat) : Option PubEntry := State.bufferFrom s c va 0 4096

/-- The physical address of a virtual address in a buffer's front or back set (R212, R213). -/
def PubEntry.phys (mem : Memory) (e : PubEntry) (front : Bool) (va : Nat) : Nat :=
  let list := if e.sel == front then e.frameB else e.frameA
  bits (Memory.num mem (list + 8 * ((va - e.base) / 65536)) 8) 16 40 * 65536 + va % 65536

/-- The physical address of an access: a leaf's frame, or for an S page its front or back set (R213). -/
def State.physOf (s : State) (c : Nat) (l : DWord) (front : Bool) (va : Nat) : Nat :=
  if Leaf.s l then
    match State.buffer s c va with
    | some e => PubEntry.phys (State.sysMem s) e front va
    | none => Leaf.phys l va
  else Leaf.phys l va

/-! ## Classification of pages (R79) -/

/-- What an access needs of its pages. -/
inductive Need where
  | load | store | atomic
  deriving DecidableEq, Repr, Inhabited

/-- One lane's access. -/
structure Access where
  lane : Nat
  addr : DWord
  len : Nat
  deriving DecidableEq, Repr, Inhabited

/-- A piece of an access within one page. -/
structure Piece where
  lane : Nat
  addr : DWord
  len : Nat
  leaf : DWord
  deriving DecidableEq, Repr, Inhabited

/-- The pieces of a run of bytes, one for each 64 KiB page it touches. -/
def cutPages (addr : DWord) (len : Nat) : Nat → List (DWord × Nat)
  | 0 => []
  | fuel + 1 =>
    if len = 0 then []
    else
      let room := 65536 - addr.toNat % 65536
      if len ≤ room then [(addr, len)]
      else (addr, room) :: cutPages (addr + BitVec.ofNat 64 room) (len - room) fuel

/-- A run of bytes cut at every 64 KiB. -/
def splitPages (addr : DWord) (len : Nat) : List (DWord × Nat) := cutPages addr len (len / 65536 + 2)

/-- The pieces of an access. -/
def Access.pieces (a : Access) : List (DWord × Nat) := splitPages a.addr a.len

/-- The outcome of classifying the pages of an instruction. -/
inductive Class where
  /-- every page may be accessed: the pieces with their leaves -/
  | ok (ps : List Piece)
  | trap (c : Cause) (mask : Mask) (addr : DWord)
  | fault (pages : List Nat)
  /-- G is set somewhere -/
  | migrating
  /-- granule tags must come from the sideband first: these lines -/
  | verdict (lines : List Nat)
  deriving DecidableEq, Repr, Inhabited

/-- What one piece meets, by the priorities of R79: 1 unmapped, 2 protection, 3 non-resident, 4 migrating, 5 tag, 0 none. -/
inductive Verdict where
  | unmapped | prot | nonresident | migrating | tagwait (lines : List Nat) | tagchk | fine (l : DWord)
  deriving DecidableEq, Repr, Inhabited

/-- The leaf allows the access (R79). -/
def Need.allowed (n : Need) (l : DWord) : Bool :=
  match n with
  | .load => Leaf.r l
  | .store => Leaf.w l
  | .atomic => Leaf.r l && Leaf.w l

/-- The 32-byte granules of a physical run. -/
def granulesOf (pa len : Nat) : List Nat :=
  (List.range ((pa % 32 + len + 31) / 32)).map (fun i => pa / 32 + i)

/-- The memory tag of a granule (R82). -/
def State.granuleTag (s : State) (gr : Nat) : BitVec 4 := (lookup s.gtags gr).getD 0

/-- The unit of an L2 slice, in the numbering of R333 (R334). -/
def sliceUnit (d x : Nat) : Nat := 9216 + 16 * d + x

/-- The home slice of a line (R208). -/
def homeSlice (line : Nat) : Nat :=
  sliceUnit (if Config.isHostMemory (128 * line) then line % 4 else (Config.dieOf (128 * line)).val) (Config.sliceHash (128 * line)).val

/-- Some line of a run is homed on a fenced slice whose addresses are being rehomed (R336). -/
def State.rehoming (s : State) (pa len : Nat) : Bool :=
  let us := s.pkg.units.filter (fun u => u.2.rehoming)
  !us.isEmpty && (linesOf pa len).any (fun n => us.any (fun u => u.1 == homeSlice n))

/-- What one piece meets (R72, R79, R336). -/
def State.judge (s : State) (h c : Nat) (need : Need) (tags : Bool) (addr : DWord) (len : Nat) : Verdict :=
  if bits addr.toNat 60 4 != 0 then .unmapped
  else match State.translate s h c (vaOf addr) with
    | .absent => .unmapped
    | .leaf l _ =>
      if Leaf.s l && (State.buffer s c (vaOf addr)).isNone then .unmapped
      else if !Need.allowed need l then .prot
      else if !Leaf.v l then .nonresident
      else if Leaf.g l || State.rehoming s (State.physOf s c l true (vaOf addr)) len then .migrating
      else if tags && Leaf.t l then
        let pa := State.physOf s c l true (vaOf addr)
        let missing := (linesOf pa len).filter (fun x => !s.sideband.contains x)
        if !missing.isEmpty then .tagwait missing
        else if (granulesOf pa len).all (fun gr => State.granuleTag s gr == BitVec.ofNat 4 (bits addr.toNat 56 4)) then
          .fine l
        else .tagchk
      else .fine l

/-- The lanes whose accesses have a piece that meets a condition, and the address of the lowest (R79, R219). -/
def lanesMeeting (js : List (Access × DWord × Nat × Verdict)) (p : Verdict → Bool) : Option (Mask × DWord) :=
  let hit := js.filter (fun j => p j.2.2.2)
  match hit with
  | [] => none
  | j :: r =>
    let low := r.foldl (fun (x : Access × DWord × Nat × Verdict) y => if y.1.lane < x.1.lane then y else x) j
    some (maskOf (fun l => hit.any (fun j => j.1.lane == l)), low.1.addr)

/-- Classify every page of an instruction before any lane's access is performed (R79). -/
def State.classifyAll (s : State) (h c : Nat) (accs : List (Need × Access)) : Class :=
  let js := accs.flatMap (fun a => (Access.pieces a.2).map (fun p => (a.2, p.1, p.2, State.judge s h c a.1 true p.1 p.2)))
  match lanesMeeting js (fun v => v == .unmapped) with
  | some (m, a) => .trap .unmapped m a
  | none =>
    match lanesMeeting js (fun v => v == .prot) with
    | some (m, a) => .trap .prot m a
    | none =>
      match (js.filter (fun j => j.2.2.2 == .nonresident)).map (fun j => pageOf (vaOf j.2.1)) with
      | p :: r => .fault (p :: r).eraseDups
      | [] =>
        if js.any (fun j => j.2.2.2 == .migrating) then .migrating
        else
          match js.flatMap (fun j => match j.2.2.2 with | .tagwait ls => ls | _ => []) with
          | l :: r => .verdict (l :: r).eraseDups
          | [] =>
            match lanesMeeting js (fun v => v == .tagchk) with
            | some (m, a) => .trap .tagchk m a
            | none =>
              .ok (js.filterMap (fun j => match j.2.2.2 with
                | .fine l => some { lane := j.1.lane, addr := j.2.1, len := j.2.2.1, leaf := l }
                | _ => none))

/-- The same where every lane needs one thing. -/
def State.classify (s : State) (h c : Nat) (need : Need) (accs : List Access) : Class :=
  State.classifyAll s h c (accs.map (fun a => (need, a)))

/-- The pages of an instruction are looked up: what misses in the TLB is filled, whatever the instruction then meets (R78, R79). -/
def State.lookUp (s : State) (h c : Nat) (accs : List (Need × Access)) : State :=
  (accs.flatMap (fun a => Access.pieces a.2)).foldl (fun s p =>
    if bits p.1.toNat 60 4 != 0 then s else State.fillTlb s h c (vaOf p.1)) s

/-- The fills that an instruction which waits leaves to be made: those that its pages miss in the TLB (R78). -/
def State.fills (s : State) (h c : Nat) (accs : List (Need × Access)) : List Instr :=
  ((accs.flatMap (fun a => Access.pieces a.2)).filterMap (fun p =>
    if bits p.1.toNat 60 4 != 0 || (s.hall h).tlb.any (fun e => TlbEntry.covers e c (vaOf p.1)) then none
    else match s.walk c (vaOf p.1) with
      | .leaf l _ =>
        if Leaf.v l && !Leaf.g l then some (.tlbWalkComplete h c (BitVec.ofNat 64 (pageOf (vaOf p.1) * 65536))) else none
      | .absent => none)).eraseDups

/-- The TLB fills, and the D bits of writes, that a classified instruction makes (R76, R78). -/
def State.touch (s : State) (h c : Nat) (write : Bool) (ps : List Piece) : State :=
  ps.foldl (fun s p =>
    let s := State.fillTlb s h c (vaOf p.addr)
    if write then State.setDirty s h c (vaOf p.addr) else s) s

/-! ## Accesses on the TN40's own behalf (R379) -/

/-- A page of a run: it fails the test, or it passes it and must be waited for (not resident, being moved, its home rehomed), or
it can be accessed now. Memory tags are not checked (R72, R84, R336, R379). -/
inductive Own where
  | fails | waits | ready
  deriving DecidableEq, Repr, Inhabited

/-- The page of a pointer for such an access. -/
def State.ownPage (s : State) (c : Nat) (write : Bool) (p : DWord) (len : Nat) : Own :=
  if bits p.toNat 60 4 != 0 then .fails
  else match State.walk s c (vaOf p) with
    | .absent => .fails
    | .leaf l _ =>
      if !Leaf.r l || (write && !Leaf.w l) || (Leaf.s l && (State.buffer s c (vaOf p)).isNone) then .fails
      else if !Leaf.v l || Leaf.g l || State.rehoming s (State.physOf s c l true (vaOf p)) len then .waits
      else .ready

/-- Every page of a run can be read, or read and written, now. -/
def State.canAccess (s : State) (c : Nat) (write : Bool) (p len : Nat) : Bool :=
  (splitPages (BitVec.ofNat 64 p) len).all (fun q => State.ownPage s c write q.1 q.2 == .ready)

/-- Every page of a run passes the test, and some page must be waited for: the newel makes it resident first. -/
def State.missing (s : State) (c : Nat) (write : Bool) (p len : Nat) : Bool :=
  let ps := (splitPages (BitVec.ofNat 64 p) len).map (fun q => State.ownPage s c write q.1 q.2)
  ps.all (fun x => x != .fails) && ps.contains .waits

/-! ## Poison of granules (R337) -/

/-- Some granule of a run is marked. -/
def State.poisoned (s : State) (pa len : Nat) : Bool := (granulesOf pa len).any (fun g => s.gpoison.contains g)

/-- A run is written: granules written whole are clean again; granules written with poison are marked. -/
def State.markWritten (s : State) (pa len : Nat) (bad : Bool) : State :=
  if bad then { s with gpoison := (s.gpoison ++ granulesOf pa len).eraseDups }
  else
    { s with gpoison := s.gpoison.filter (fun g => !(decide (pa ≤ g * 32) && decide (g * 32 + 32 ≤ pa + len))) }

/-! ## The L2 and the access counters (R83, R84) -/

/-- The die of a hall (R333). -/
def dieOfHall (h : Nat) : Nat := h / Config.hallsPerDie

/-- The L2 set of a line, by its home slice (R83, R208). -/
def l2Key (line : Nat) : Nat := homeSlice line * Config.l2Sets + (Config.l2Set (128 * line)).val

/-- The way quota of a class of a context: 4 without a setting (R83). -/
def State.quota (s : State) (c cls : Nat) : Nat := match s.ctx? c with | some x => x.quotas.getD cls 4 | none => 4

/-- The lines of a context and class in a set. -/
def linesFor (ls : List L2Line) (c cls : Nat) : List L2Line := ls.filter (fun y => y.ctx == c && y.cls == cls)

/-- The line that a fill of class `cls` for context `c` replaces in a full set, the most recently used standing first: none where
no way qualifies (R83 steps 2 to 4). -/
def State.victim (s : State) (ls : List L2Line) (c cls : Nat) : Option L2Line :=
  let mine := linesFor ls c cls
  if decide (mine.length ≥ State.quota s c cls) then mine.getLast?
  else match (ls.filter (fun y => decide ((linesFor ls y.ctx y.cls).length > State.quota s y.ctx y.cls))).getLast? with
    | some y => some y
    | none => mine.getLast?

/-- One line of a page of a class is accessed at the L2: a hit moves it to the front, a miss fills a way by R83, or allocates
nothing. The granule tags cached beside a line go with it (R79). -/
def State.cacheLine (s : State) (c cls line : Nat) : State :=
  let k := l2Key line
  let ls := (lookup s.l2 k).getD []
  let me : L2Line := { line := line, ctx := c, cls := cls }
  match ls.find? (fun y => y.line == line) with
  | some y => { s with l2 := insert s.l2 k (y :: ls.filter (fun z => z.line != line)) }
  | none =>
    if State.quota s c cls = 0 then { s with sideband := s.sideband.filter (fun n => n != line) }
    else if ls.length < Config.l2Ways then { s with l2 := insert s.l2 k (me :: ls) }
    else match State.victim s ls c cls with
      | some v =>
        { s with l2 := insert s.l2 k (me :: ls.filter (fun z => z.line != v.line)),
                 sideband := s.sideband.filter (fun n => n != v.line) }
      | none => { s with sideband := s.sideband.filter (fun n => n != line) }

/-- The access counter of a page goes up: of a die, or (4) of Gocen Link (R84). -/
def State.countPage (s : State) (agent page : Nat) : State :=
  let ns := (lookup s.pageCounts page).getD [0, 0, 0, 0, 0]
  { s with pageCounts := insert s.pageCounts page (ns.set agent (ns.getD agent 0 + 1)) }

/-- An access to a run of a page reaches the memory system from a die, or from Gocen Link (R83, R84). -/
def State.reach (s : State) (agent c : Nat) (leaf : DWord) (pa len : Nat) : State :=
  State.countPage ((linesOf pa len).foldl (fun s n => State.cacheLine s c (Leaf.cls leaf) n) s) agent
    ((pa - pa % 2 ^ Leaf.offBits leaf) / 65536)

/-- The lines of a page leave the L2 (R84). -/
def State.uncache (s : State) (pa len : Nat) : State :=
  let out := fun (n : Nat) => decide (pa / 128 ≤ n) && decide (n < (pa + len) / 128)
  { s with l2 := (s.l2.map (fun p => (p.1, p.2.filter (fun y => !out y.line)))).filter (fun p => !p.2.isEmpty),
           sideband := s.sideband.filter (fun n => !out n) }

/-! ## One place for physical accesses -/

/-- Who makes a physical access: a block's group (with its stash), or any other agent. -/
abbrev Viewer := Option (Nat × Nat × Nat)

/-- The stash line that serves a viewer's virtual address, if a mapping of its block covers it. -/
def State.stashOf (s : State) (who : Viewer) (va : Nat) : Option Block :=
  match who with
  | none => none
  | some (c, seq, blk) =>
    match State.block? s c seq blk with
    | some b => if Block.serves b va then some b else none
    | none => none

/-- Read a run of bytes that lies in one 64 KiB page, byte by byte through the stash where a mapping covers it. -/
def State.readRun (s : State) (who : Viewer) (va pa len : Nat) : List Byte × State :=
  match State.stashOf s who va with
  | none =>
    let s := State.recall s none pa len false
    (Memory.readN s.mem pa len, s)
  | some b =>
    let s := State.recall s (some (b.ctx, b.seq, b.blk)) pa len false
    let have_ := fun (n : Nat) => b.stashLines.find? (fun l => l.pa == n)
    let new := (linesOf pa len).filter (fun n => (have_ n).isNone)
    let fresh := new.map (fun n => ({ pa := n, dirty := false, data := Memory.readN s.mem (n * 128) 128 } : StashLine))
    let lines := b.stashLines ++ fresh
    let byteAt := fun (a : Nat) =>
      match lines.find? (fun l => l.pa == a / 128) with
      | some l => l.data.getD (a % 128) 0
      | none => 0
    ((List.range len).map (fun i => byteAt (pa + i)),
      State.updBlock s b.ctx b.seq b.blk (fun b => { b with stashLines := lines }))

/-- Bytes put into a line's data. -/
def putBytes (data : List Byte) (off : Nat) (bs : List Byte) : List Byte :=
  data.take off ++ bs ++ data.drop (off + bs.length)

/-- Write a run of bytes that lies in one 64 KiB page: into the stash where a mapping covers it, else at the home. -/
def State.writeRun (s : State) (who : Viewer) (va pa : Nat) (bs : List Byte) (bad : Bool) : State :=
  let s := State.markWritten s pa bs.length bad
  match State.stashOf s who va with
  | none =>
    let s := State.recall s none pa bs.length true
    { s with mem := Memory.writeN s.mem pa bs }
  | some _ =>
    let (_, s) := State.readRun s who va pa bs.length
    let s := State.recall s who pa bs.length true
    match who with
    | none => s
    | some (c, seq, blk) =>
      State.updBlock s c seq blk (fun b =>
        { b with stashLines := b.stashLines.map (fun l =>
            let lo := l.pa * 128
            if decide (lo < pa + bs.length) && decide (pa < lo + 128) then
              let from_ := max lo pa
              let to_ := min (lo + 128) (pa + bs.length)
              { l with dirty := true,
                       data := putBytes l.data (from_ - lo) ((bs.drop (from_ - pa)).take (to_ - from_)) }
            else l) })

/-- Read a run of a context's virtual memory on the TN40's own behalf (R379), page by page. Where the rule that makes the access has
not tested the page, bytes of an absent page read 0 and those of a non-resident leaf come from its frame (DESIGN CHOICE, log entry
17). -/
def State.readVirt (s : State) (c va len : Nat) : List Byte × State :=
  (splitPages (BitVec.ofNat 64 va) len).foldl (fun (r : List Byte × State) p =>
    match State.walk r.2 c (vaOf p.1) with
    | .absent => (r.1 ++ List.replicate p.2 0, r.2)
    | .leaf l _ =>
      let t := State.recallWalk r.2 c (vaOf p.1)
      let x := State.readRun t none (vaOf p.1) (State.physOf t c l true (vaOf p.1)) p.2
      (r.1 ++ x.1, x.2)) ([], s)

/-- A number of `n` bytes of a context's virtual memory. -/
def State.numVirt (s : State) (c va n : Nat) : Nat := leNat (State.readVirt s c va n).1

/-- Write a run of a context's virtual memory on the TN40's own behalf (R379); on a page of a published buffer, in its front set
(DESIGN CHOICE, log entry 16). -/
def State.writeVirt (s : State) (c va : Nat) (bs : List Byte) : State :=
  ((splitPages (BitVec.ofNat 64 va) bs.length).foldl (fun (r : Nat × State) p =>
    (r.1 + p.2,
      match State.walk r.2 c (vaOf p.1) with
      | .absent => r.2
      | .leaf l _ =>
        let t := State.recallWalk r.2 c (vaOf p.1)
        State.writeRun t none (vaOf p.1) (State.physOf t c l true (vaOf p.1)) ((bs.drop r.1).take p.2) false))
    (0, s)).2

/-! ## Scratchpad (R202, R203) -/

/-- A scratchpad address read by R202: the window distance and the offset; none if bits [31:21] are set. -/
def scratchFields (a : Word) : Option (Nat × Nat) :=
  if bits a.toNat 21 11 != 0 then none else some (bits a.toNat 19 2, bits a.toNat 0 19)

/-- The block index a scratchpad access of a group reaches, if the address is legal for `len` bytes (R202). -/
def scratchTarget (r : LaunchRec) (blk : Nat) (a : Word) (len : Nat) : Option (Nat × Nat) :=
  match scratchFields a with
  | none => none
  | some (d, off) =>
    let b := LaunchRec.blocksPerGang r
    if d ≥ b ∨ off + len > r.scratch then none
    else some (blk / b * b + (blk % b + d) % b, off)

/-- Bytes of a block's scratchpad. -/
def State.readScratch (s : State) (c seq blk off len : Nat) : List Byte :=
  match State.block? s c seq blk with
  | some b => Memory.readN b.scr off len
  | none => List.replicate len 0

/-- Bytes of a block's scratchpad written; bytes written are clean, or marked. -/
def State.writeScratch (s : State) (c seq blk off : Nat) (bs : List Byte) (bad : Bool) : State :=
  State.updBlock s c seq blk (fun b =>
    { b with scr := Memory.writeN b.scr off bs,
             scrPoison :=
               let rest := b.scrPoison.filter (fun o => !(decide (off ≤ o) && decide (o < off + bs.length)))
               if bad then rest ++ (List.range bs.length).map (fun i => off + i) else rest })

/-- Some byte of a run of scratchpad is marked. -/
def State.scratchPoisoned (s : State) (c seq blk off len : Nat) : Bool :=
  match State.block? s c seq blk with
  | some b => b.scrPoison.any (fun o => decide (off ≤ o) && decide (o < off + len))
  | none => false

/-- The tags TRK H P C V of a tile of a block (R204). -/
def Block.tag (b : Block) (tile : Nat) : BitVec 5 := (lookup b.tags tile).getD 0

/-- A tile's tags changed; tags all clear are not listed. -/
def Block.setTag (b : Block) (tile : Nat) (f : BitVec 5 → BitVec 5) : Block :=
  let v := f (Block.tag b tile)
  { b with tags := if v = 0 then remove b.tags tile else insert b.tags tile v }

namespace TileTag
def trk (t : BitVec 5) : Bool := t.getLsbD 4
def h (t : BitVec 5) : Bool := t.getLsbD 3
def p (t : BitVec 5) : Bool := t.getLsbD 2
def c (t : BitVec 5) : Bool := t.getLsbD 1
def v (t : BitVec 5) : Bool := t.getLsbD 0
def set (t : BitVec 5) (b : Nat) : BitVec 5 := t ||| (1#5 <<< b)
def clear (t : BitVec 5) (b : Nat) : BitVec 5 := t &&& ~~~(1#5 <<< b)
end TileTag

/-- The tiles a run of scratchpad touches. -/
def tilesOf (off len : Nat) : List Nat :=
  (List.range ((off % 1024 + len + 1023) / 1024)).map (fun i => off / 1024 + i)

end Sys2Proof.Machine
end

