-- ==== Sys2Proof/Machine/Traces.lean ====
section
/-! DEFINITION. What is recorded of accesses: dependence traces and their arena (R343 to R351), the replay log (R370), and the
watchpoints (R365). -/

namespace Sys2Proof.Machine

/-! ## The arena (R344, R345) -/

/-- Offset of the stale area (R344). -/
def Trace.staleOff (t : Trace) : Nat := 0x100 + 8 * 2 ^ t.log2b
/-- Offset of cell space (R344). -/
def Trace.cellOff (t : Trace) : Nat := 0x100 + 16 * 2 ^ t.log2b
/-- Where the spawn reserve starts (R344). -/
def Trace.reserveOff (t : Trace) : Nat := t.size - t.size / 8
/-- The bucket of a granule (R344). -/
def Trace.bucket (t : Trace) (granule : Nat) : Nat := granule % 2 ^ t.log2b
/-- The virtual address of a cell. -/
def Trace.cellVa (t : Trace) (off : Nat) : Nat := vaOf t.arena + off

/-- Take a 32-byte cell below a limit: a freed cell before FREE advances (R345; which freed cell is a DESIGN CHOICE, log
entry 11). -/
def Trace.take32 (t : Trace) (limit : Nat) : Option (Nat × Trace) :=
  match t.freed.find? (fun c => decide (c + 32 ≤ limit)) with
  | some c => some (c, { t with freed := t.freed.erase c })
  | none => if t.free + 32 ≤ limit then some (t.free, { t with free := t.free + 32 }) else none

/-- Take two adjacent cells, the first 64-byte aligned (R345). -/
def Trace.take64 (t : Trace) (limit : Nat) : Option (Nat × Trace) :=
  match t.freed.find? (fun c => c % 64 == 0 && t.freed.contains (c + 32) && decide (c + 64 ≤ limit)) with
  | some c => some (c, { t with freed := t.freed.filter (fun x => x != c && x != c + 32) })
  | none =>
    if t.free % 64 = 0 then
      (if t.free + 64 ≤ limit then some (t.free, { t with free := t.free + 64 }) else none)
    else if t.free + 96 ≤ limit then
      some (t.free + 32, { t with free := t.free + 96, freed := t.freed ++ [t.free] })
    else none

/-- Write words of 8 bytes into a context's memory. -/
def State.putWords (s : State) (c va : Nat) (ws : List Nat) : State :=
  State.writeVirt s c va (ws.flatMap (fun w => leBytes 8 w))

/-- The flags of a task cell (R345). -/
def TraceTask.flags (t : TraceTask) : Nat :=
  (if t.stale then 1 else 0) + (if t.volatileFlag then 2 else 0) + (if t.untraced then 4 else 0)

/-- The cell address that follows each element of a list, 0 after the last. -/
def nextOf (l : List Nat) (i : Nat) : Nat := l.getD (i + 1) 0

/-- Clear what the arena holds of a record before it changes: bucket heads and freed kinds. -/
def State.unrender (s : State) (c : Nat) (t : Trace) : State :=
  let s := t.edges.foldl (fun s e => State.putWords s c (Trace.cellVa t (0x100 + 8 * Trace.bucket t e.granule)) [0]) s
  t.freed.foldl (fun s o => State.putWords s c (Trace.cellVa t o) [0]) s

/-- The header of an arena (R344). -/
def State.renderHeader (s : State) (c : Nat) (t : Trace) : State :=
  let flags := (if t.full then 256 else 0) + (if t.broken then 512 else 0) + (if t.undoLost then 1024 else 0) +
    (if t.failed then 2048 else 0)
  State.writeVirt s c (Trace.cellVa t 0x18)
    (leBytes 8 t.free ++ leBytes 4 (flags + t.st) ++ leBytes 4 t.tasks.length ++ leBytes 4 t.rerun ++
      leBytes 4 t.splice ++ leBytes 4 t.retract ++ leBytes 4 t.nprop ++ leBytes 4 t.edges.length)

/-- Write a record's cells into its arena, and the heads of its tasks' lists into their TCBs (R344, R345). A task with cell 0 has
none (R346, R351). -/
def State.render (s : State) (c : Nat) (t : Trace) : State :=
  let s := State.renderHeader s c t
  let va := fun (o : Nat) => if o = 0 then 0 else Trace.cellVa t o
  let s := t.tasks.foldl (fun s x =>
    let cells := fun (y : TraceTask) => y.cell != 0 && y.seq != t.rootSeq
    let sib := (t.tasks.filter (fun y => y.parent == x.parent && y.ord == x.ord + 1 && cells y)).head?
    let next := match sib with | some y => va y.cell | none => 0
    let next := if x.seq = t.rootSeq then 0 else next
    let s := if x.cell = 0 then s
      else State.putWords s c (Trace.cellVa t x.cell)
        [next + 2, bits x.tcb.toNat 7 50 * 128 + TraceTask.flags x, x.lrec.toNat, x.hash.toNat]
    let es := t.edges.filter (fun e => e.seq == x.seq)
    let ws := t.writes.filter (fun w => w.seq == x.seq)
    let kids := t.tasks.filter (fun y => y.parent == x.seq && cells y)
    let first := (kids.filter (fun y => y.ord == 1)).head?
    State.putWords s c (vaOf x.tcb + 0x48)
      [va (match es with | e :: _ => e.cell | [] => 0), va (match first with | some y => y.cell | none => 0),
       va (match ws with | w :: _ => w.cell | [] => 0)]) s
  let s := ((List.range t.edges.length).zip t.edges).foldl (fun s (p : Nat × TraceEdge) =>
    let later := t.edges.drop (p.1 + 1)
    let next := match later.find? (fun e => e.seq == p.2.seq) with | some e => va e.cell | none => 0
    let chain := match later.find? (fun e => Trace.bucket t e.granule == Trace.bucket t p.2.granule) with
      | some e => va e.cell | none => 0
    let owner := match t.tasks.find? (fun x => x.seq == p.2.seq) with | some x => va x.cell | none => 0
    let isHead := !(t.edges.take p.1).any (fun e => Trace.bucket t e.granule == Trace.bucket t p.2.granule)
    let s := State.putWords s c (Trace.cellVa t p.2.cell) [next + 1, p.2.granule * 32, owner, chain]
    if isHead then
      State.putWords s c (Trace.cellVa t (0x100 + 8 * Trace.bucket t p.2.granule)) [va p.2.cell]
    else s) s
  ((List.range t.writes.length).zip t.writes).foldl (fun s (p : Nat × TraceWrite) =>
    let next := match (t.writes.drop (p.1 + 1)).find? (fun w => w.seq == p.2.seq) with
      | some w => va w.cell | none => 0
    let s := State.putWords s c (Trace.cellVa t p.2.cell) [next + 3, p.2.granule * 32, 0, 0]
    State.writeVirt s c (Trace.cellVa t (p.2.cell + 32)) p.2.undo) s

/-- The trace of a context at an arena address. -/
def State.trace? (s : State) (c : Nat) (arena : DWord) : Option Trace :=
  match s.ctx? c with
  | some x => x.traces.find? (fun t => t.arena == arena)
  | none => none

/-- A trace changed, and its arena with it. -/
def State.updTrace (s : State) (c : Nat) (arena : DWord) (f : Trace → Trace) : State :=
  match State.trace? s c arena with
  | none => s
  | some t =>
    let t' := f t
    let s := State.unrender s c t
    let s := State.updCtx s c (fun x => { x with traces := mapIf x.traces (fun t => t.arena == arena) (fun _ => t') })
    State.render s c t'

/-- Cells given back to an arena. -/
def Trace.giveBack (t : Trace) (cells : List Nat) : Trace := { t with freed := t.freed ++ cells }

/-! ## Read edges, write records, marks (R346, R348, R349) -/

/-- A task of a traced launch, with its trace: its arena is registered and its task cell is there. -/
def State.tracedTask (s : State) (c seq : Nat) : Option (Trace × TraceTask) :=
  match State.task? s c seq with
  | none => none
  | some k =>
    if k.arena = 0 then none
    else match State.trace? s c k.arena with
      | none => none
      | some t => (t.tasks.find? (fun x => x.seq == seq)).map (fun x => (t, x))

/-- The task belongs to a traced launch (R343). -/
def State.inTracedLaunch (s : State) (c seq : Nat) : Bool :=
  match State.task? s c seq with
  | none => false
  | some k => k.arena != 0

/-- FULL is set and the task is marked UNTRACED (R351). -/
def Trace.overflow (t : Trace) (seq : Nat) : Trace :=
  { t with full := true, tasks := mapIf t.tasks (fun x => x.seq == seq) (fun x => { x with untraced := true }) }

/-- One read edge for a task and a granule (R346, R351). -/
def Trace.addEdge (t : Trace) (seq granule : Nat) : Trace :=
  if t.edges.any (fun e => e.seq == seq && e.granule == granule) then t
  else match Trace.take32 t (Trace.reserveOff t) with
    | some (c, t) => { t with edges := { seq := seq, granule := granule, cell := c } :: t.edges }
    | none => Trace.overflow t seq

/-- A write record for the first write of a granule by a task (R346, R351, R353). -/
def Trace.addWrite (t : Trace) (seq granule : Nat) (undo : List Byte) : Trace :=
  if t.writes.any (fun w => w.seq == seq && w.granule == granule) then
    { t with
      writes := mapIf t.writes (fun w => w.seq == seq && w.granule == granule) (fun w => { w with fresh := true }) }
  else match Trace.take64 t (Trace.reserveOff t) with
    | some (c, t) =>
      { t with writes := { seq := seq, granule := granule, cell := c, undo := undo, fresh := true } :: t.writes }
    | none => Trace.overflow t seq

/-- Every task but one that holds a read edge to a granule is marked stale. -/
def Trace.markReaders (t : Trace) (granule : Nat) (except : Option Nat) : Trace :=
  { t with
    tasks := mapIf t.tasks
      (fun x => except != some x.seq && t.edges.any (fun e => e.seq == x.seq && e.granule == granule))
      (fun x => { x with stale := true }) }

/-- The 32-byte granules of a virtual run. -/
def virtGranules (va len : Nat) : List Nat := granulesOf va len

/-- A read of a run of an M page by a task (R346). -/
def State.noteRead (s : State) (c seq va len : Nat) (leaf : DWord) : State :=
  if !Leaf.m leaf then s
  else match State.tracedTask s c seq with
    | none => s
    | some (t, x) =>
      if x.untraced then s
      else State.updTrace s c t.arena (fun t => (virtGranules va len).foldl (fun t g =>
        if (t.tasks.find? (fun x => x.seq == seq)).any (fun x => x.untraced) then t else Trace.addEdge t seq g) t)

/-- Who writes: a task, MODW from outside the trace, or another agent. -/
inductive Writer where
  | task (seq : Nat)
  | modw
  | other
  deriving DecidableEq, Repr, Inhabited

/-- A write is about to be performed on a run of an M page: records and marks (R346, R348, R349). `old` is the granule's
contents just before. -/
def State.noteWrite (s : State) (c : Nat) (who : Writer) (va : Nat) (bs old : List Byte) (granule : Nat → List Byte)
    (leaf : DWord) : State :=
  if !Leaf.m leaf then s
  else
    let changed := (List.range bs.length).filter (fun i => bs.getD i 0 != old.getD i 0)
    let changedGr := (changed.map (fun i => (va + i) / 32)).eraseDups
    match who with
    | .other => s
    | .modw =>
      match s.ctx? c with
      | none => s
      | some x =>
        if changedGr.isEmpty then s
        else x.traces.foldl (fun s t =>
          if changedGr.any (fun g => t.edges.any (fun e => e.granule == g)) then
            State.updTrace s c t.arena (fun t => changedGr.foldl (fun t g => Trace.markReaders t g none) t)
          else s) s
    | .task seq =>
      match State.task? s c seq with
      | none => s
      | some k =>
        if k.arena = 0 then s
        else
          let s := match State.tracedTask s c seq with
            | none => s
            | some (t, _) =>
              State.updTrace s c t.arena (fun t => (virtGranules va bs.length).foldl (fun t g =>
                if (t.tasks.find? (fun x => x.seq == seq)).any (fun x => x.untraced) then
                  { t with tasks := mapIf t.tasks (fun x => x.seq == seq) (fun x => { x with lost := true }) }
                else Trace.addWrite t seq g (granule g)) t)
          State.updTrace s c k.arena (fun t => changedGr.foldl (fun t g => Trace.markReaders t g (some seq)) t)

/-- A task's run issues an atomic, TKT, DEPADD, RBEG or COLL (R350). -/
def State.markVolatile (s : State) (c seq : Nat) : State :=
  match State.tracedTask s c seq with
  | none => s
  | some (t, x) =>
    if x.volatileFlag then s
    else State.updTrace s c t.arena (fun t =>
      { t with tasks := mapIf t.tasks (fun y => y.seq == seq) (fun y => { y with volatileFlag := true }) })

/-! ## The replay log (R370) -/

/-- The line of global memory, or the 128-byte piece of scratchpad, as one number. -/
def globalLine (pa : Nat) : Nat := pa / 128
def scratchPiece (seq blk off : Nat) : Nat := 2 ^ 57 + ((seq * 2 ^ 32 + blk) * 4096 + off / 128)

/-- One entry of the log, if it fits (R370). -/
def State.logEntry (s : State) (c : Nat) (ws : List Nat) : State :=
  match s.ctx? c with
  | none => s
  | some x =>
    if x.dbg.rpHead.toNat + 16 > x.dbg.rpSize.toNat || x.dbg.rpFull then
      State.updDebug s c (fun d => { d with rpFull := true })
    else
      let s := State.writeVirt s c (vaOf x.dbg.rpBase + x.dbg.rpHead.toNat) (ws.flatMap (fun w => leBytes 4 w))
      State.updDebug s c (fun d => { d with rpHead := d.rpHead + 16 })

/-- A group accesses a line at a clock (R370). -/
def State.noteAccess (s : State) (c groupNo clock line : Nat) : State :=
  match s.ctx? c with
  | none => s
  | some x =>
    if x.dbg.rpMode != 1 then s
    else
      let s := match (x.dbg.rpLast.find? (fun p => p.1 == line)) with
        | none => s
        | some (_, w, wc) =>
          if w = groupNo then s
          else if x.dbg.rpEdges.any (fun e => e.1 == groupNo && e.2.2.1 == w && decide (e.2.2.2 ≥ wc)) then s
          else
            let s := State.logEntry s c [2 + 16 * (w % 2 ^ 24), wc, groupNo % 2 ^ 24, clock]
            State.updDebug s c (fun d => { d with rpEdges := (groupNo, clock, w, wc) :: d.rpEdges })
      State.updDebug s c (fun d =>
        { d with rpLast := (line, groupNo, clock) :: d.rpLast.filter (fun p => p.1 != line) })

/-- A group accesses a run of global memory, or of a block's scratchpad. -/
def State.noteLines (s : State) (c groupNo clock pa len : Nat) : State :=
  (linesOf pa len).foldl (fun s l => State.noteAccess s c groupNo clock l) s
def State.noteScratch (s : State) (c groupNo clock seq blk off len : Nat) : State :=
  (linesOf off len).foldl (fun s l => State.noteAccess s c groupNo clock (scratchPiece seq blk (128 * l))) s

/-! ## Watchpoints (R363, R365) -/

/-- A watchpoint matches an access: kind 1 a write, 2 a read, 3 both. -/
def Wp.matches (w : Wp) (scratch : Bool) (addr len : Nat) (read write : Bool) : Bool :=
  w.en && w.scratch == scratch && ((read && w.kind.getLsbD 1) || (write && w.kind.getLsbD 0)) &&
  (let base := if scratch then bits w.addr.toNat 0 19 else vaOf w.addr
   decide (base < addr + len) && decide (addr < base + w.len))

/-- A watched access makes its group halt at its next chain boundary. -/
def State.watch (s : State) (c hall slot : Nat) (scratch : Bool) (addr len : Nat) (read write : Bool) : State :=
  match s.ctx? c with
  | none => s
  | some x =>
    if !x.dbg.right then s
    else if x.dbg.wps.any (fun p => Wp.matches p.2 scratch addr len read write) then
      State.updGroup s hall slot (fun g =>
        { g with watchHit := match g.watchHit with | some a => some a | none => some (BitVec.ofNat 64 addr) })
    else s

end Sys2Proof.Machine
end

