-- ==== Sys2Proof/Machine/Perform.lean ====
section
/-! DEFINITION. A group's registers, and the accesses it has outstanding: which may be performed next (R261), how a store and a
load are performed (R216, R220, R221, R259, R260, R287, R288). -/

namespace Sys2Proof.Machine

/-! ## Registers -/

/-- A register of a lane as it stands; v0 reads zero with tag RAW (R106, R112). -/
def Group.cell (g : Group) (lane n : Nat) : RegCell :=
  if n = 0 then RegCell.zero else (g.regs.getD n []).getD lane RegCell.zero

/-- The 32 bits of a register of a lane, Reg(l, n) of R106. -/
def Group.reg (g : Group) (lane n : Nat) : Word := (Group.cell g lane n).val

/-- Reg64(l, n) of R106. -/
def Group.reg64 (g : Group) (lane n : Nat) : DWord := pair64 (Group.reg g lane n) (Group.reg g lane (n + 1))

/-- A register of a lane set; a write of v0 is discarded (R106). -/
def Group.setCell (g : Group) (lane n : Nat) (c : RegCell) : Group :=
  if n = 0 then g else { g with regs := g.regs.set n ((g.regs.getD n []).set lane c) }

/-- The residue of contents (R118). -/
def residueOf (x : Word) : BitVec 2 := BitVec.ofNat 2 (x.toNat % 3)

/-- A cell with a value, a tag and a fresh residue, concrete (R106). -/
def RegCell.of (x : Word) (t : Tag) : RegCell := { val := x, tag := t, res := residueOf x, sym := 0 }

/-- A lane. -/
def Group.lane (g : Group) (l : Nat) : Lane := g.lanes.getD l { lpc := 0, mode := .exited, region := LaneRegion.fresh }

/-- A lane changed. -/
def Group.updLane (g : Group) (l : Nat) (f : Lane → Lane) : Group := { g with lanes := g.lanes.set l (f (Group.lane g l)) }

/-- A lane's region changed. -/
def Group.updRegion (g : Group) (l : Nat) (f : LaneRegion → LaneRegion) : Group :=
  Group.updLane g l (fun x => { x with region := f x.region })

/-! ## The issue address (R109) -/

/-- A lane is live. -/
def Lane.live (l : Lane) : Bool := l.mode == .live

/-- The issue address: the minimum lpc over live lanes (R109). -/
def Group.issueAddr (g : Group) : Option Word :=
  (g.lanes.filter Lane.live).foldl (fun m l => match m with
    | none => some l.lpc
    | some x => if l.lpc.toNat < x.toNat then some l.lpc else some x) none

/-- The active mask: the live lanes at the issue address (R109). -/
def Group.activeMask (g : Group) : Mask :=
  match Group.issueAddr g with
  | none => 0
  | some a => maskOf (fun l => Lane.live (Group.lane g l) && (Group.lane g l).lpc == a)

/-- While a lane is parked, what records report: the parked lanes at their lowest address (R109). -/
def Group.parkedAt (g : Group) : Option (Word × Mask) :=
  let ps := g.lanes.filter (fun l => l.mode == .parked)
  let m := ps.foldl (fun (m : Option Word) l => match m with
    | none => some l.lpc
    | some x => if l.lpc.toNat < x.toNat then some l.lpc else some x) none
  m.map (fun a => (a, maskOf (fun l => (Group.lane g l).mode == .parked && (Group.lane g l).lpc == a)))

/-- The address and mask that samples, stop records and SYNC records report (R109). -/
def Group.reported (g : Group) : Word × Mask :=
  match Group.parkedAt g with
  | some p => p
  | none => ((Group.issueAddr g).getD 0, Group.activeMask g)

/-- Every lane has exited. -/
def Group.allExited (g : Group) : Bool := g.lanes.all (fun l => l.mode == .exited)

/-- A group's own view of memory. -/
def Group.viewer (g : Group) : Viewer := some (g.ctx, g.seq, g.blk)

/-! ## What outstanding operations are -/

/-- The bytes of a size code (R97). -/
def sizeBytes (sz : Nat) : Nat := if sz == 0 || sz == 5 then 1 else if sz == 1 || sz == 6 then 2 else if sz == 2 then 4
  else if sz == 3 then 8 else 16

/-- Registers that a size moves (R96, R221). -/
def sizeRegs (sz : Nat) : Nat := if sz == 3 then 2 else if sz == 4 then 4 else 1

/-- The registers an outstanding operation will write: they are pending (R91). -/
def OutOp.dests (o : OutOp) : List Nat :=
  (match o with
    | .load _ sz d _ _ _ => regRun d (sizeRegs sz)
    | .ldcb _ => []
    | .mmld _ => []
    | .store _ => []
    | .atomic _ n d _ _ => regRun d (n / 4)
    | .tkt _ _ _ d => [d]
    | .depadd d => [d]
    | .cstat _ _ d _ => [d, d + 1]
    | .prop d => [d]
    | .coll d _ _ _ => [d]).filter (fun n => n != 0)

/-- The registers of a group that are pending (R91). -/
def Group.pendingRegs (g : Group) : List Nat :=
  g.outst.flatMap (fun o => OutOp.dests o.op) ++ (g.landings.filter (fun x => x.pend)).map (fun x => x.reg)

/-- The order field of an operation (R98). -/
def OutOp.order (o : OutOp) : BitVec 2 :=
  match o with
  | .load _ _ _ _ ord _ => ord
  | .store w => w.ord
  | .atomic _ _ _ _ ord => ord
  | _ => 0

/-- A store. -/
def OutOp.isStore (o : OutOp) : Bool := match o with | .store _ => true | _ => false

/-- A store or an atomic. -/
def OutOp.isWrite (o : OutOp) : Bool :=
  match o with | .store _ => true | .atomic _ _ _ _ _ => true | .tkt _ _ _ _ => true | .depadd _ => true | _ => false

/-- A place that a part of an operation touches: scratchpad or not, address, length, leaf. -/
abbrev Spot := Bool × DWord × Nat × DWord

/-- The place of one part of a load or an atomic. -/
def OutOp.spot (o : OutOp) (p : LanePart) : Spot :=
  (match o with
    | .load sc _ _ _ _ _ => sc
    | .mmld _ => true
    | .atomic _ _ _ _ _ => windowPointer p.addr
    | _ => false, p.addr, p.len, p.leaf)

/-- The place of one part of a store. -/
def StoreWord.spot (w : StoreWord) (p : StorePart) : Spot := (w.scratch, p.addr, p.data.length, p.leaf)

/-- The parts of an operation that are not performed, with their places, in lane order (R220). -/
def Outst.units (o : Outst) : List (Nat × Spot) :=
  match o.op with
  | .store w => (List.range w.parts.length).zip (w.parts.map (StoreWord.spot w))
  | _ => ((List.range o.parts.length).zip o.parts).filterMap (fun p =>
      if p.2.got.isNone then some (p.1, OutOp.spot o.op p.2) else none)

/-- The places an operation has still to touch. -/
def Outst.places (o : Outst) : List Spot := (Outst.units o).map (fun u => u.2)

/-- Two byte ranges overlap. -/
def overlaps (a n b m : Nat) : Bool := decide (a < b + m) && decide (b < a + n)

/-- A scratchpad place's block rank distance (R202). -/
def placeRank (a : DWord) : Nat := bits a.toNat 19 2

/-- Two places hold a common byte: the same space, and the same scratchpad offset and block or the same physical byte. -/
def placesOverlap (p q : Spot) : Bool :=
  p.1 == q.1 &&
  (if p.1 then placeRank p.2.1 == placeRank q.2.1 &&
      overlaps (bits p.2.1.toNat 0 19) p.2.2.1 (bits q.2.1.toNat 0 19) q.2.2.1
   else overlaps (Leaf.phys p.2.2.2 (vaOf p.2.1)) p.2.2.1 (Leaf.phys q.2.2.2 (vaOf q.2.1)) q.2.2.1)

/-- A place is on a page of RC or SO kind, or in scratchpad, where the order field acts (R261, R264). -/
def Spot.ordered (p : Spot) : Bool := p.1 || Leaf.kind p.2.2.2 != 2

/-- A place is on an SO page. -/
def Spot.strong (p : Spot) : Bool := !p.1 && Leaf.kind p.2.2.2 == 1

/-- Two places are in the scratchpad of one hall. -/
def sameBank (p q : Spot) : Bool := p.1 && q.1 && placeRank p.2.1 == placeRank q.2.1

/-- A part of A at p is ordered before a part of a later B of the same group at q (R203, R259, R261): each part by the kind of its
own page; two writes to one byte in issue order, and the loads of open regions too. -/
def spotBefore (a : Outst) (p : Spot) (b : Outst) (q : Spot) : Bool :=
  (Spot.strong p && Spot.strong q) ||
  ((OutOp.order a.op).getLsbD 0 && Spot.ordered p) ||
  ((OutOp.order b.op).getLsbD 1 && Spot.ordered q) ||
  (OutOp.isStore a.op && OutOp.isStore b.op && Spot.strong q && a.region == b.region) ||
  sameBank p q ||
  (OutOp.isWrite a.op && OutOp.isWrite b.op && placesOverlap p q)

/-- Both read through the open region of a lane: its loads return in issue order (R287). -/
def bothPrivate (a b : Outst) : Bool := a.parts.any (fun p => p.priv) && b.parts.any (fun p => p.priv)

/-- Some part of A that is not performed is ordered before a part of B at q. -/
def orderedBefore (a b : Outst) (q : Spot) : Bool :=
  (Outst.places a).any (fun p => spotBefore a p b q) || bothPrivate a b

/-- The granules of global memory that a place touches. -/
def Spot.granules (p : Spot) : List Nat := if p.1 then [] else granulesOf (Leaf.phys p.2.2.2 (vaOf p.2.1)) p.2.2.1

/-- Two parts of one word: lanes that touch one granule go in ascending order, and so do parts on SO pages and in one bank (R220,
R261). -/
def unitBefore (p q : Spot) : Bool :=
  (Spot.strong p && Spot.strong q) || sameBank p q || (Spot.granules p).any (fun n => (Spot.granules q).contains n)

/-- A .last load of which some read has been accepted: it completes, with its discard (R324). -/
def Outst.begunLast (o : Outst) : Bool :=
  match o.op with
  | .load _ _ _ _ _ last => last && o.parts.any (fun p => p.got.isSome)
  | _ => false

/-- Whether an operation goes on once a pre-emption is requested: stores that left the buffer, atomics, TKT, DEPADD and tile
operations complete, and a .last load that has begun; what else is outstanding goes into the image (R243, R324). -/
def Outst.goesOn (o : Outst) : Bool :=
  match o.op with
  | .store _ | .atomic _ _ _ _ _ | .tkt _ _ _ _ | .depadd _ | .mmld _ => true
  | .load _ _ _ _ _ _ => Outst.begunLast o
  | .ldcb _ | .cstat _ _ _ _ | .prop _ | .coll _ _ _ _ => false

/-- The parts of the nth outstanding operation that may be performed next: nothing ordered before them is outstanding, and no
pre-emption stops it. -/
def Group.free (g : Group) (n : Nat) : List (Nat × Spot) :=
  match g.outst[n]? with
  | none => []
  | some b =>
    if g.draining && !Outst.goesOn b then []
    else (Outst.units b).filter (fun u =>
      (g.outst.take n).all (fun a => !orderedBefore a b u.2))

/-- The nth outstanding operation may be performed whole: every part of it may. -/
def Group.mayPerform (g : Group) (n : Nat) : Bool :=
  match g.outst[n]? with
  | none => false
  | some b => !(g.draining && !Outst.goesOn b) && (Group.free g n).length == (Outst.units b).length &&
      (g.outst.take n).all (fun a => !((OutOp.order a.op).getLsbD 0 && (Outst.places a).any Spot.ordered))

/-- An earlier .acq access of the group is outstanding (R265). -/
def Group.acqBefore (g : Group) (no : Nat) : Bool :=
  g.outst.any (fun a => decide (a.no < no) && (OutOp.order a.op).getLsbD 0 && (Outst.places a).any Spot.ordered)

/-- The page of a place is being moved, or its home slice rehomed: the access is held (R84, R336). -/
def State.spotHeld (s : State) (g : Group) (p : Spot) : Bool :=
  !p.1 &&
    (State.rehoming s (State.physOf s g.ctx p.2.2.2 true (vaOf p.2.1)) p.2.2.1 ||
    match State.walk s g.ctx (vaOf p.2.1) with
    | .leaf l _ => Leaf.g l
    | .absent => false)

/-- A commit has locked a granule of a physical run (R292). -/
def State.locked (s : State) (pa len : Nat) : Bool :=
  (State.allGroups s).any (fun g => g.lanes.any (fun l =>
    !l.region.locks.isEmpty && (granulesOf pa len).any (fun n => l.region.locks.contains n)))

/-- A write waits for a commit's lock (R292). -/
def State.spotLocked (s : State) (g : Group) (p : Spot) : Bool :=
  !p.1 && State.locked s (State.physOf s g.ctx p.2.2.2 true (vaOf p.2.1)) p.2.2.1

/-- An operation cannot reach a place yet: its page is being moved, its home slice rehomed, or a write finds it locked. -/
def State.opHeld (s : State) (g : Group) (o : Outst) (p : Spot) : Bool :=
  State.spotHeld s g p || (OutOp.isWrite o.op && State.spotLocked s g p)

/-- Some place of an operation cannot be reached yet. -/
def State.heldByMigration (s : State) (g : Group) (o : Outst) : Bool := (Outst.places o).any (State.opHeld s g o)

/-- A place on a page of a published buffer. -/
def Spot.published (p : Spot) : Bool := !p.1 && Leaf.s p.2.2.2

/-- The parts of an operation that can be performed now, of those that nothing comes before; `k` of them are taken, all when k is
0, or when a part is on a page of a published buffer: one word reads one of its versions (R214). A part stands behind an earlier one
of its word that cannot go yet (R220). -/
def State.nextUnits (s : State) (g : Group) (n k : Nat) : List Nat :=
  let us := Group.free g n
  let held := match g.outst[n]? with | some o => State.opHeld s g o | none => State.spotHeld s g
  let able := us.foldl (fun (r : List (Nat × Spot) × List Spot) u =>
    if held u.2 || r.2.any (fun p => unitBefore p u.2) then (r.1, r.2 ++ [u.2]) else (r.1 ++ [u], r.2)) ([], [])
  let go := able.1.map (fun u => u.1)
  let all := match g.outst[n]? with | some o => Outst.places o | none => []
  if all.any Spot.published then (if go.length = all.length then go else [])
  else if k = 0 then go else go.take k

/-- PROPs whose answer is outstanding: each may still raise ecnt (R352). -/
def Group.openProps (g : Group) : Nat := (g.outst.filter (fun o => match o.op with | .prop _ => true | _ => false)).length

/-- What ecnt counts, with the PROPs that may still raise it (R216, R352). -/
def Group.engines (g : Group) : Nat := g.ecnt + Group.openProps g

/-- Some tile operation of the group is an outstanding access: an MMST or an MMLD (R249). -/
def Group.tileMoves (g : Group) : Bool :=
  g.outst.any (fun o => match o.op with | .mmld _ => true | .store w => w.tile | _ => false)

/-- An MMST is not performed: the group issues nothing meanwhile (R249). -/
def Group.storing (g : Group) : Bool := g.outst.any (fun o => match o.op with | .store w => w.tile | _ => false)

/-! ## Stores -/

/-- The blocks a scratchpad place reaches, with its offset. -/
def Group.scratchAt (g : Group) (a : DWord) : Nat × Nat :=
  (scratchTarget g.lr g.blk (lo32 a) 0).getD (g.blk, 0)

/-- A handler's write is performed over bytes that held stores were to write (R317). -/
def Group.overtake (p : Bool × Nat × Nat × Nat) (g : Group) : Group :=
  if g.trapMode && !g.held.isEmpty then { g with overtaken := g.overtaken ++ [p] } else g

/-- Perform one piece of a store at its coherence point (R260). -/
def State.storePart (s : State) (g : Group) (w : StoreWord) (p : StorePart) : State :=
  if w.scratch then
    let (blk, off) := Group.scratchAt g p.addr
    let s := State.writeScratch s g.ctx g.seq blk off p.data false
    let s := State.updGroup s g.hall g.slot (Group.overtake (true, placeRank p.addr, off, p.data.length))
    let s := State.noteScratch s g.ctx g.groupNo w.lc g.seq blk off p.data.length
    State.watch s g.ctx g.hall g.slot true off p.data.length false true
  else
    let va := vaOf p.addr
    let pa := Leaf.phys p.leaf va
    let s := State.reach s (dieOfHall g.hall) g.ctx p.leaf pa p.data.length
    let s := State.updGroup s g.hall g.slot (Group.overtake (false, 0, pa, p.data.length))
    let (old, s) := State.readRun s (Group.viewer g) va pa p.data.length
    let gran := fun (n : Nat) => (State.readRun s (Group.viewer g) (n * 32) (Leaf.phys p.leaf (n * 32)) 32).1
    let s := State.noteWrite s g.ctx (if w.modw then .modw else .task g.seq) va p.data old gran p.leaf
    let s := State.writeRun s (Group.viewer g) va pa p.data false
    let s := State.noteLines s g.ctx g.groupNo w.lc pa p.data.length
    State.watch s g.ctx g.hall g.slot false va p.data.length false true

/-- Perform a store word: its pieces in ascending lane order (R220). -/
def State.storeWord (s : State) (g : Group) (w : StoreWord) : State :=
  w.parts.foldl (fun s p => State.storePart s g w p) s

/-- What the commits of a group in their write phase still have to write is written (R294). -/
def State.finishWrites (s : State) (g : Group) : State :=
  g.lanes.foldl (fun s l => l.region.writes.foldl (fun s ps =>
    ps.foldl (fun s p => State.storePart s g
      { no := 0, lc := g.lc, scratch := false, modw := false, scope := 0, ord := 0, parts := [] } p) s) s) s

/-- Perform every store of a group that has left the buffer, in issue order, and what its commits have begun to write. -/
def State.drainStores (s : State) (g : Group) : State :=
  let s := State.finishWrites s g
  g.outst.foldl (fun s o => match o.op with | .store w => State.storeWord s g w | _ => s) s

/-- A counter decreases by 1. -/
def dec (n : Nat) : Nat := n - 1

/-! ## Loads -/

/-- The stores of a group that are not performed, oldest first: those held during a trap apart (R317). -/
def Group.ownStores (g : Group) : List (Bool × StoreWord) :=
  g.held.map (fun w => (true, w)) ++
  g.outst.filterMap (fun o => match o.op with | .store w => some (false, w) | _ => none) ++ g.sbuf.map (fun w => (false, w))

/-- The byte that one store piece puts at a place, if it does. -/
def StorePart.byteAt (p : StorePart) (scratch : Bool) (rank a : Nat) : Option Byte :=
  if scratch then
    if placeRank p.addr == rank && decide (bits p.addr.toNat 0 19 ≤ a) then p.data[a - bits p.addr.toNat 0 19]? else none
  else
    let b := Leaf.phys p.leaf (vaOf p.addr)
    if b ≤ a then p.data[a - b]? else none

/-- A write of the handler has been performed over the byte since it was held. -/
def Group.isOvertaken (g : Group) (scratch : Bool) (rank a : Nat) : Bool :=
  g.overtaken.any (fun x => x.1 == scratch && x.2.1 == rank && decide (x.2.2.1 ≤ a) && decide (a < x.2.2.1 + x.2.2.2))

/-- The last own store to a byte before a place in issue order, if it is not performed (R259): a held store gives way to a
handler's write that has been performed. -/
def Group.ownByte (g : Group) (no : Nat) (scratch : Bool) (rank a : Nat) : Option Byte :=
  ((Group.ownStores g).foldl (fun (r : Option (Nat × Byte)) w =>
    if w.2.no < no && w.2.scratch == scratch && !(w.1 && Group.isOvertaken g scratch rank a) then
      w.2.parts.foldl (fun r p =>
        match StorePart.byteAt p scratch rank a with
        | none => r
        | some b => match r with
          | none => some (w.2.no, b)
          | some (n, _) => if n ≤ w.2.no then some (w.2.no, b) else r) r
    else r) none).map (fun p => p.2)

/-- The bytes one lane's piece of a load sees, and whether memory marks them with poison (R259, R337). -/
def State.loadPart (s : State) (g : Group) (o : Outst) (scratch : Bool) (p : LanePart) : List Byte × Bool × State :=
  if scratch then
    let (blk, off) := Group.scratchAt g p.addr
    let mem := State.readScratch s g.ctx g.seq blk off p.len
    let bad := State.scratchPoisoned s g.ctx g.seq blk off p.len
    let bs := (List.range p.len).map (fun i =>
      (Group.ownByte g o.no true (placeRank p.addr) (off + i)).getD (mem.getD i 0))
    let s := State.noteScratch s g.ctx g.groupNo o.lc g.seq blk off p.len
    (bs, bad, State.watch s g.ctx g.hall g.slot true off p.len true false)
  else
    let va := vaOf p.addr
    let pa := State.physOf s g.ctx p.leaf true va
    let s := State.reach s (dieOfHall g.hall) g.ctx p.leaf pa p.len
    let (mem, s) := State.readRun s (Group.viewer g) va pa p.len
    let bad := State.poisoned s pa p.len
    let bs := (List.range p.len).map (fun i => (Group.ownByte g o.no false 0 (pa + i)).getD (mem.getD i 0))
    let s := State.noteRead s g.ctx g.seq va p.len p.leaf
    let s := State.noteLines s g.ctx g.groupNo o.lc pa p.len
    (bs, bad, State.watch s g.ctx g.hall g.slot false va p.len true false)

/-! ### Loads inside an atomic region (R287, R288) -/

/-- The byte of the lane's own region stores before a place in issue order. -/
def LaneRegion.ownByte (r : LaneRegion) (no va : Nat) : Option (RStore × Byte) :=
  r.stores.foldl (fun x w =>
    if w.no < no && decide (w.addr ≤ va) then
      match w.data[va - w.addr]? with
      | some b => some (w, b)
      | none => x
    else x) none

/-- The number of an input word, 1 to 8, 0 if there is none. -/
def LaneRegion.inputAt (r : LaneRegion) (va : Nat) : Nat :=
  match r.inputs.findIdx? (fun i => i.addr == va) with
  | some i => i + 1
  | none => 0

/-- Input k becomes exact. -/
def LaneRegion.makeExact (r : LaneRegion) (k : Nat) : LaneRegion :=
  { r with
    inputs := match r.inputs[k - 1]? with
      | some i => if k = 0 then r.inputs else r.inputs.set (k - 1) { i with exact := true }
      | none => r.inputs }

/-- The byte a region has already read at a place: an exact byte, or a byte of an input with its number. -/
def LaneRegion.readByte (r : LaneRegion) (va : Nat) : Option (Byte × Nat) :=
  let k := LaneRegion.inputAt r (va / 4 * 4)
  match r.inputs[k - 1]? with
  | some i => if k = 0 then (lookup r.exact va).map (fun b => (b, 0)) else
      i.val.map (fun v => (BitVec.ofNat 8 (v.toNat / 256 ^ (va % 4)), k))
  | none => (lookup r.exact va).map (fun b => (b, 0))

/-- The region load of some bytes, one by one: those of the lane's own stores, those read before, those of memory, which become
exact as every input among them does. Its register takes tag 0 when every byte comes from a concrete store of the lane, else it is
opaque (R287, R288). -/
def LaneRegion.mixed (r : LaneRegion) (no va : Nat) (mem : List Byte) : List Byte × BitVec 4 × LaneRegion :=
  (List.range mem.length).foldl (fun (x : List Byte × BitVec 4 × LaneRegion) i =>
    match LaneRegion.ownByte x.2.2 no (va + i) with
    | some (w, b) => (x.1 ++ [b], if w.k = 0 then x.2.1 else 15, LaneRegion.makeExact x.2.2 w.k)
    | none =>
      match LaneRegion.readByte x.2.2 (va + i) with
      | some (b, k) => (x.1 ++ [b], 15, LaneRegion.makeExact x.2.2 k)
      | none =>
        let b := mem.getD i 0
        (x.1 ++ [b], 15, { x.2.2 with exact := insert x.2.2.exact (va + i) b })) ([], 0, r)

/-- A 4-byte word of a naturally aligned region load of .w, .d or .q: its value, its symbolic tag, the region (R287, R288). `mem`
is what memory holds. A word of one own store takes the store's tag, a word read before its input's. -/
def LaneRegion.loadWord (r : LaneRegion) (no va : Nat) (mem : List Byte) : Word × BitVec 4 × LaneRegion :=
  let own := (List.range 4).map (fun i => LaneRegion.ownByte r no (va + i))
  let memWord : Word := BitVec.ofNat 32 (leNat mem)
  let rest :=
    let (bs, k, r) := LaneRegion.mixed r no va mem
    ((BitVec.ofNat 32 (leNat bs) : Word), k, r)
  match own.getD 0 none with
  | some (w, _) =>
    if own.all (fun o => match o with | some (w', _) => w' == w | none => false) && w.addr == va && w.data.length == 4 then
      (BitVec.ofNat 32 (leNat w.data), BitVec.ofNat 4 w.k, r)
    else rest
  | none =>
    if own.any (fun o => o.isSome) then rest
    else
      let k := LaneRegion.inputAt r va
      match r.inputs[k - 1]? with
      | some i =>
        if k = 0 then rest
        else match i.val with
          | some v => (v, BitVec.ofNat 4 k, r)
          | none => (memWord, BitVec.ofNat 4 k, { r with inputs := r.inputs.set (k - 1) { i with val := some memWord } })
      | none => rest

/-- The bytes that a lane's region gives a load at its issue: its own stores', and those it has read (R287). -/
def LaneRegion.given (r : LaneRegion) (no va len : Nat) : List (Nat × Byte) :=
  ((List.range len).map (fun i => va + i)).filterMap (fun a =>
    match LaneRegion.ownByte r no a with
    | some (_, b) => some (a, b)
    | none => (LaneRegion.readByte r a).map (fun p => (a, p.1)))

/-! ### Results -/

/-- The tag of a load's result (R221). -/
def loadTag (sz : Nat) : Tag := if sz == 0 || sz == 1 || sz == 5 || sz == 6 then .i32 else .raw

/-- The words a load of a size writes, from its bytes (R221). -/
def loadWords (sz : Nat) (bs : List Byte) : List Word :=
  let v := leNat bs
  if sz == 5 then [BitVec.signExtend 32 (BitVec.ofNat 8 v)]
  else if sz == 6 then [BitVec.signExtend 32 (BitVec.ofNat 16 v)]
  else (List.range (sizeRegs sz)).map (fun i => BitVec.ofNat 32 (v / 4294967296 ^ i))

/-- The registers of one lane written with words. -/
def Group.putWords (g : Group) (lane d : Nat) (ws : List (Word × BitVec 4)) (t : Tag) : Group :=
  ((List.range ws.length).zip ws).foldl (fun g p =>
    Group.setCell g lane (d + p.1) { RegCell.of p.2.1 t with sym := p.2.2 }) g

/-- One lane's result of a load: ordinary, or through its open region. -/
def Group.finishLane (g : Group) (o : Outst) (lane sz d : Nat) (bs : List Byte) (bad : Bool) (priv : Bool) (va : Nat) :
    Group :=
  let t := if bad then Tag.poison else loadTag sz
  let r := (Group.lane g lane).region
  if priv && r.isOpen && decide (r.since ≤ o.no) then
    if (sz == 2 || sz == 3 || sz == 4) && va % sizeBytes sz == 0 then
      let (ws, r) := (List.range (sizeRegs sz)).foldl (fun (x : List (Word × BitVec 4) × LaneRegion) i =>
        let (w, k, r) := LaneRegion.loadWord x.2 o.no (va + 4 * i) ((bs.drop (4 * i)).take 4)
        (x.1 ++ [(w, k)], r)) ([], r)
      Group.putWords (Group.updRegion g lane (fun _ => r)) lane d ws t
    else
      let (bs', k, r) := LaneRegion.mixed r o.no va bs
      Group.putWords (Group.updRegion g lane (fun _ => r)) lane d ((loadWords sz bs').map (fun w => (w, k))) t
  else Group.putWords g lane d ((loadWords sz bs).map (fun w => (w, 0))) t

/-- The lanes of an operation, ascending. -/
def Outst.lanes (o : Outst) : List Nat := lanesOf.filter (fun l => o.parts.any (fun p => p.lane == l))

/-- A part of a load is performed: what it reads is kept, with the bytes that the lane's region gave it (R220, R287). -/
def State.takePart (s : State) (g : Group) (o : Outst) (scratch : Bool) (p : LanePart) : LanePart × State :=
  let (bs, bad, s) := State.loadPart s g o scratch p
  let va := vaOf p.addr
  let seen := (List.range p.len).map (fun i => ((p.own.find? (fun x => x.1 == va + i)).map (fun x => x.2)).getD (bs.getD i 0))
  ({ p with got := some (seen, bad, 0) }, s)

/-- Some parts of a load are performed, in lane order. -/
def State.takeParts (s : State) (g : Group) (o : Outst) (scratch : Bool) (ks : List Nat) : Outst × State :=
  ks.foldl (fun (x : Outst × State) k =>
    match x.1.parts[k]? with
    | some p =>
      let (q, s) := State.takePart x.2 g o scratch p
      ({ x.1 with parts := x.1.parts.set k q }, s)
    | none => x) (o, s)

/-- Every part of an operation is performed. -/
def Outst.whole (o : Outst) : Bool := o.parts.all (fun p => p.got.isSome)

/-- What a performed part has read. -/
def LanePart.seen (p : LanePart) : List Byte × Bool × Word := p.got.getD ([], false, 0)

/-- The bytes of one lane of a load whose parts are performed, and whether some were marked with poison. -/
def Outst.lane (o : Outst) (lane : Nat) : List Byte × Bool :=
  (o.parts.filter (fun p => p.lane == lane)).foldl (fun (x : List Byte × Bool) p =>
    (x.1 ++ (LanePart.seen p).1, x.2 || (LanePart.seen p).2.1)) ([], false)

/-- The values of a load whose parts are performed are written (R216, R221). -/
def Group.takeLoad (g : Group) (o : Outst) (sz d : Nat) : Group :=
  (Outst.lanes o).foldl (fun g lane =>
    let (bs, bad) := Outst.lane o lane
    let first := o.parts.find? (fun p => p.lane == lane)
    let va := match first with | some p => vaOf p.addr | none => 0
    let priv := match first with | some p => p.priv | none => false
    Group.finishLane g o lane sz d bs bad priv va) g

end Sys2Proof.Machine
end

