-- ==== Sys2Proof/Machine/Tasks.lean ====
section
/-! DEFINITION. Tasks as the newel and the retirement hardware handle them: entries of the pending-launch store (R58, R59),
completion records (R49), phaser units (R280 to R283), the end of groups, blocks, gangs and tasks (R53, R70, R319, R330, R338),
core dumps (R371). -/

namespace Sys2Proof.Machine

/-! ## The pending-launch store -/

/-- The die on which a queue's posts take their entries (R48). -/
def dieOfQueue (q : Nat) : Nat := q % Config.dies

/-- Entries of a die's store in use (R58). -/
def State.storeUsed (s : State) (die : Nat) : Nat :=
  (s.tasks.filter (fun t => t.entry == .store die)).length

/-- A group parked on SPAWNW for want of an entry (R61): its die, its queue and the cycle it parked. -/
def Group.parkedSpawn (g : Group) : Option (Nat × Nat × Nat) :=
  match g.wait with
  | some w =>
    match w.instr with
    | .spawnw _ _ _ => if w.phase = 2 then some (dieOfHall g.hall, w.aux.toNat % 4096, w.aux.toNat / 4096) else none
    | _ => none
  | none => none

/-- Overflow entries that wait for a die, oldest first (R59). -/
def State.overflowFor (s : State) (die : Nat) : List Task :=
  let ts := s.tasks.filter (fun t => match t.entry with | .overflow _ d => d == die | _ => false)
  sortBy (fun a b => decide (a.acceptAt ≤ b.acceptAt)) ts

/-- Groups parked on SPAWNW on a die. -/
def State.parkedOn (s : State) (die : Nat) : Nat :=
  ((State.allGroups s).filter (fun g => match Group.parkedSpawn g with | some (d, _, _) => d == die | none => false)).length

/-- Freed store entries beyond those that the die's parked SPAWNWs are granted go to overflow entries (R58, R59). -/
def State.settleStore (s : State) (die : Nat) : State :=
  let room := Config.storeEntries - State.storeUsed s die - State.parkedOn s die
  ((State.overflowFor s die).take room).foldl (fun s t =>
    State.updTask s t.ctx t.seq (fun t => { t with entry := .store die })) s

/-- Every die's store is settled. -/
def State.settleStores (s : State) : State := [0, 1, 2, 3].foldl State.settleStore s

/-- Entries of a die's store that a post or a spawn sees in use: those freed in this cycle too (R58). -/
def State.storeSeen (s : State) (die : Nat) : Nat :=
  State.storeUsed s die + (s.pkg.freedAt.filter (fun p => p.1 == die && p.2 == s.clk)).length

/-- A task's entry is freed (R58). -/
def State.freeEntry (s : State) (c seq : Nat) : State :=
  match State.task? s c seq with
  | none => s
  | some t =>
    let s := State.updTask s c seq (fun t => { t with entry := .none })
    match t.entry with
    | .store d =>
      State.settleStore (State.updPkg s (fun p =>
        { p with freedAt := p.freedAt.filter (fun x => x.2 == s.clk) ++ [(d, s.clk)] })) d
    | _ => s

/-! ## TCB fields and completion records -/

/-- The code of a status (R40). -/
def TStatus.code : TStatus → Nat
  | .written => 0 | .waiting => 1 | .ready => 2 | .running => 3 | .retired => 4 | .failed => 5 | .rejected => 6 | .retracted => 7

/-- Write `n` bytes of a field of a TCB (R39); where its page is not resident, or an earlier step on the TCB waits, the write waits
(R379). -/
def State.putTcb (s : State) (c : Nat) (tcb : DWord) (off n v : Nat) : State :=
  let p := tcb + BitVec.ofNat 64 off
  if State.missing s c true p.toNat n || s.pkg.late.any (fun x => x.ctx == c && vaOf x.at_ / 128 == vaOf p / 128) then
    State.updPkg s (fun k => { k with late := k.late ++ [{ ctx := c, at_ := p, data := leBytes n v, pred := none }] })
  else State.writeVirt s c (vaOf p) (leBytes n v)

/-- A task's STATUS, in the task and in its TCB (R40). -/
def State.setStatus (s : State) (c seq : Nat) (st : TStatus) : State :=
  match State.task? s c seq with
  | none => s
  | some t =>
    let s := State.updTask s c seq (fun t => { t with status := st, readyAt := if st == .ready then s.clk else t.readyAt })
    State.putTcb s c t.tcb 0x3E 1 (TStatus.code st)

/-- A counter of 32 bits that saturates goes up by 1. -/
def satInc (w : Word) : Word := if w = 0xFFFFFFFF#32 then w else w + 1

/-- Write a completion record (R49); one whose page is not resident waits for it, with those after it (R379). -/
def State.putRecord (s : State) (o : Owed) : State :=
  let q := State.queue s o.queue
  if q.qrBase = 0 ∧ q.qrLog2 = 0 then s
  else
    let n := 2 ^ (q.qrLog2 + 4)
    let va := vaOf q.qrBase + 16 * (q.qrHead.toNat % n)
    if (q.qrHead - q.qrTail).toNat = n then State.updQueue s o.queue (fun q => { q with qrDrop := satInc q.qrDrop })
    else if State.missing s q.ctx true va 16 || s.pkg.owed.any (fun p => p.queue == o.queue) then
      State.updPkg s (fun p => { p with owed := p.owed ++ [o] })
    else if State.canAccess s q.ctx true va 16 = false then
      State.updQueue s o.queue (fun q => { q with qrDrop := satInc q.qrDrop })
    else
      let s := State.writeVirt s q.ctx va
        (leBytes 8 o.tcb.toNat ++ leBytes 6 o.seq ++ leBytes 1 o.code ++ leBytes 1 o.cause)
      State.updQueue s o.queue (fun q => { q with qrHead := q.qrHead + 1 })

/-- The completion records that wait are tried again, in their order. -/
def State.settleOwed (s : State) : State :=
  s.pkg.owed.foldl State.putRecord (State.updPkg s (fun p => { p with owed := [] }))

/-- Write the completion record of a task (R49). -/
def State.completion (s : State) (c seq : Nat) (st : TStatus) (cause : Nat) : State :=
  match State.task? s c seq with
  | none => s
  | some t => State.putRecord s { queue := t.queue, tcb := t.tcb, seq := seq, code := TStatus.code st, cause := cause }

/-- A launch is finished when no task of it is waiting, ready or running: its arena becomes IDLE (R343). -/
def State.settleTrace (s : State) (c : Nat) (arena : DWord) : State :=
  if arena = 0 then s
  else if s.tasks.any (fun t => t.ctx == c && t.arena == arena &&
      (t.status == .waiting || t.status == .ready || t.status == .running)) then s
  else match State.trace? s c arena with
    | some t => if t.st = 1 then State.updTrace s c arena (fun t => { t with st := 2 }) else s
    | none => s

/-- A task ends: STATUS and CAUSE in its TCB, its completion record, its entry freed (R49, R58). -/
def State.endTask (s : State) (c seq : Nat) (st : TStatus) (cause : Nat) : State :=
  match State.task? s c seq with
  | none => s
  | some t =>
    let s := State.setStatus s c seq st
    let s := if st == .retired then s else State.putTcb s c t.tcb 0x3F 1 cause
    let s := State.completion s c seq st cause
    let s := State.freeEntry s c seq
    State.settleTrace s c t.arena

/-! ## Phaser units (R280 to R284) -/

/-- The block phaser a handle names, or none for a descriptor (R280). -/
def blockPhaser (h : DWord) : Option Nat := if windowPointer h then some (lo32 h).toNat else none

/-- The phaser a handle names as it stands; a block phaser no one has registered is zero. -/
def State.phaser (s : State) (g : Group) (h : DWord) : Phaser :=
  match blockPhaser h with
  | some n =>
    match State.block? s g.ctx g.seq g.blk with
    | some b => (lookup b.phasers n).getD { ph := 0, nsig := 0, arr := 0, nnext := 0, npart := 0 }
    | none => { ph := 0, nsig := 0, arr := 0, nnext := 0, npart := 0 }
  | none =>
    let w := fun (o : Nat) => (BitVec.ofNat 32 (State.numVirt s g.ctx (vaOf h + o) 4) : Word)
    { ph := w 0, nsig := w 4, arr := w 8, nnext := w 12, npart := w 0x18 }

/-- Write a phaser back to its unit; a block-phaser entry is freed when its last participant drops. -/
def State.putPhaser (s : State) (g : Group) (h : DWord) (p : Phaser) : State :=
  match blockPhaser h with
  | some n =>
    State.updBlock s g.ctx g.seq g.blk (fun b =>
      { b with phasers := if p.npart = 0 then remove b.phasers n else insert b.phasers n p })
  | none =>
    let s := State.writeVirt s g.ctx (vaOf h)
      (leBytes 4 p.ph.toNat ++ leBytes 4 p.nsig.toNat ++ leBytes 4 p.arr.toNat ++ leBytes 4 p.nnext.toNat)
    State.writeVirt s g.ctx (vaOf h + 0x18) (leBytes 4 p.npart.toNat)

/-- Two groups' handles name one phaser. -/
def samePhaser (g g' : Group) (h h' : DWord) : Bool :=
  g.ctx == g'.ctx && h == h' && (!windowPointer h || (g.seq == g'.seq && g.blk == g'.blk))

/-- A record's pending mode takes effect at a completion (R283). -/
def PhReg.settle (r : PhReg) (ph : Word) : PhReg :=
  if r.pending = 0 then r
  else
    { r with mode := r.pending, pending := 0,
             sp := if r.pending.getLsbD 0 && !r.mode.getLsbD 0 then ph else r.sp,
             wp := if r.pending.getLsbD 1 && !r.mode.getLsbD 1 then ph else r.wp }

/-- What a record's pending mode adds to NNEXT. -/
def PhReg.gain (r : PhReg) : Int :=
  if r.pending = 0 then 0
  else (if r.pending.getLsbD 0 then 1 else 0) - (if r.mode.getLsbD 0 then 1 else 0)

/-- Phase PH completes (R283). -/
def State.completePhase (s : State) (g : Group) (h : DWord) : State :=
  let p := State.phaser s g h
  let every := State.allGroups s ++ s.saved.flatMap (fun i => i.groups)
  let gain := (every.flatMap (fun x => (x.phregs.filter (fun r => samePhaser g x h r.handle)).map PhReg.gain)).foldl
    (fun a b => a + b) (0 : Int)
  let nnext : Word := BitVec.ofInt 32 (p.nnext.toInt + gain)
  let ph := p.ph + 1
  let fix := fun (x : Group) =>
    { x with phregs := mapIf x.phregs (fun r => samePhaser g x h r.handle) (fun r => PhReg.settle r ph) }
  let s := State.putPhaser s g h { p with ph := ph, arr := 0, nnext := nnext, nsig := nnext }
  let s := State.mapGroups s (fun _ => true) fix
  { s with saved := s.saved.map (fun i => { i with groups := i.groups.map fix }) }

/-- After a signal, a drop or a registration: the phase completes when ARR ≥ NSIG and NSIG > 0 (R283). -/
def State.testPhase (s : State) (g : Group) (h : DWord) : State :=
  let p := State.phaser s g h
  if p.nsig.toNat > 0 ∧ p.arr.toNat ≥ p.nsig.toNat then State.completePhase s g h else s

/-- A record's participant drops (R282 PHDROP, R284). -/
def State.dropPhaser (s : State) (g : Group) (r : PhReg) : State :=
  let p := State.phaser s g r.handle
  let sig := r.mode.getLsbD 0
  let p' := { p with arr := if sig && r.sp == p.ph then p.arr + 1 else p.arr,
                     nnext := if sig then p.nnext - 1 else p.nnext, npart := p.npart - 1 }
  let s := State.putPhaser s g r.handle p'
  let s := State.updMember s g.ctx g.seq g.blk g.grp (fun x => { x with phregs := x.phregs.filter (fun q => q.handle != r.handle) })
  State.testPhase s g r.handle

/-- Every participant of a group drops, each record as it then stands (R284). -/
def State.dropRecords (s : State) (g : Group) : State :=
  g.phregs.foldl (fun s r =>
    let me := (State.allGroups s ++ s.saved.flatMap (fun i => i.groups)).find? (fun x => Group.isMember x g.ctx g.seq g.blk g.grp)
    match me.bind (fun x => x.phregs.find? (fun q => q.handle == r.handle)) with
    | some q => State.dropPhaser s g q
    | none => s) s

/-! ## The end of groups and blocks -/

/-- A group leaves its slot. -/
def State.dropGroups (s : State) (p : Group → Bool) : State :=
  { s with g := if s.g.valid && p s.g then Group.empty else s.g, groups := s.groups.filter (fun g => !p g) }

/-- PUBs that are gone: the CPYWs and collective writes they held or counted have fewer before them (R214). -/
def State.dropPubs (s : State) (p : Nat → PubCmd → Bool) : State :=
  s.ctxs.foldl (fun s c =>
    (c.2.pubs.filter (p c.1)).foldl (fun s q =>
      match s.ctx? c.1 with
      | none => s
      | some x =>
        let k := (x.pubs.takeWhile (fun z => z != q)).filter (fun z => z.entry == q.entry) |>.length
        let fewer := fun (n : Nat) => if n > k then n - 1 else n
        let into := fun (a : DWord) => match State.buffer s c.1 (vaOf a) with | some e => e.index == q.entry | none => false
        let s := State.updCtx s c.1 (fun x => { x with pubs := x.pubs.erase q })
        let fix := fun (y : Cmd) =>
          match y.kind with
          | .copy _ dst _ true => if y.ctx == c.1 && into dst.addr then { y with behind := fewer y.behind } else y
          | _ => y
        let s := { s with halls := s.halls.map (fun h => (h.1, { h.2 with cmds := h.2.cmds.map fix })),
                          saved := s.saved.map (fun i => { i with cmds := i.cmds.map fix }) }
        let fixc := fun (y : Collective) =>
          if y.ctx == c.1 && y.pub && into y.dst then { y with behind := fewer y.behind } else y
        State.updPkg s (fun g => { g with collectives := g.collectives.map fixc })) s) s

/-- What the engines and the traces keep for groups that are gone no longer reaches them: their PUBs are dropped, their
collectives and their PROPs go on with no counter to lower. -/
def State.dropIssued (s : State) (gs : List Group) : State :=
  let gone := fun (c seq blk grp : Nat) => gs.any (fun g => Group.isMember g c seq blk grp)
  let s := State.dropPubs s (fun c q => gone c q.seq q.blk q.grp)
  let s := State.updPkg s (fun p => { p with collectives := mapIf p.collectives (fun x => gone x.ctx x.seq x.blk x.grp)
                                               (fun x => { x with grp := 65536 }) })
  { s with ctxs := s.ctxs.map (fun c => (c.1, { c.2 with traces := c.2.traces.map (fun t =>
      { t with props := t.props.filter (fun p => !gone c.1 p.1 p.2.1 p.2.2) }) })) }

/-- What a killed group leaves: the stores that had left its buffer are performed, its phaser records dropped if asked; the
buffered and held stores, open regions and outstanding loads go with it (R318, R330, R338). -/
def State.killGroups (s : State) (p : Group → Bool) (drop : Bool) : State :=
  let gs := (State.allGroups s).filter p
  let s := gs.foldl State.drainStores s
  let s := State.dropIssued s gs
  let s := if drop then gs.foldl State.dropRecords s else s
  State.dropGroups s p

/-- The charge of a block so far (R53). -/
def Block.chargeNow (b : Block) (clk : Nat) : Nat := b.charge + (clk - b.bindClk)

/-- The queue's deficit pays for blocks (R53). -/
def State.payCharge (s : State) (c seq cycles : Nat) : State :=
  match State.task? s c seq with
  | some t => State.updQueue s t.queue (fun q => { q with deficit := q.deficit - (cycles : Int) })
  | none => s

/-- Blocks leave their halls: stash lines written back, scoreboard entries and commands of theirs gone (R70, R207, R330). -/
def State.dropBlocks (s : State) (p : Block → Bool) : State :=
  let bs := s.blocks.filter p
  let s := bs.foldl (fun s b => State.flushBlock s b.ctx b.seq b.blk (fun _ => true) false) s
  let mine := fun (c seq blk : Nat) => bs.any (fun b => Block.is b c seq blk)
  { s with
    blocks := s.blocks.filter (fun b => !p b),
    halls := s.halls.map (fun h =>
      (h.1, { h.2 with cmds := h.2.cmds.filter (fun c => !mine c.ctx c.seq c.blk),
                       ranges := h.2.ranges.filter (fun r =>
                         !(h.2.cmds.any (fun c => mine c.ctx c.seq c.blk && c.num == r.num && c.slot == r.slot))) })) }

/-! ## Stops (R365) -/

/-- A stop record, at STOPHEAD mod 64. -/
def Debug.putStop (d : Debug) (r : Stop) : Debug :=
  { d with stops := insert d.stops (d.stopHead.toNat % 64) r, stopHead := d.stopHead + 1 }

/-- The queue of a task. -/
def State.queueOf (s : State) (c seq : Nat) : Nat := match State.task? s c seq with | some t => t.queue | none => Config.queues

/-- The stop record of a group. -/
def State.stopRecord (s : State) (g : Group) (cause : Nat) : State :=
  let (a, m) := Group.reported g
  let gone := Group.allExited g
  State.updDebug s g.ctx (fun d => Debug.putStop d
    { cause := cause, kind := 0, hall := g.hall, slot := g.slot, queue := State.queueOf s g.ctx g.seq % 4096, seq := g.seq,
      addr := if gone then 0 else a, mask := if gone then 0 else m, clk := s.clk })

/-- A group halts with its stop record; one with every lane exited is not halted; while a trap is being taken the halt waits for
its entry. -/
def State.haltGroup (s : State) (g : Group) (cause : Nat) : State :=
  match g.pending with
  | some (.trap _ _ _ _ _) => State.updGroup s g.hall g.slot (fun x => { x with haltOwed := some cause, stepping := false })
  | _ => State.updGroup (State.stopRecord s g cause) g.hall g.slot (fun x =>
      { x with halted := !Group.allExited x, haltOwed := none, stepping := false, skipBreak := true })

/-- The group at the issue port halts. -/
def State.haltHere (s : State) (cause : Nat) : State := State.haltGroup s s.g cause

/-- The engine commands of a context that are not done: engine, issuing group's slot, task, number. -/
def State.engineWork (s : State) (c : Nat) : List (Nat × Nat × Nat × Nat × Nat) :=
  let place := fun (seq blk grp : Nat) => match State.member? s c seq blk grp with | some g => (g.hall, g.slot) | none => (0, 0)
  (s.halls.flatMap (fun h => (h.2.cmds.filter (fun x => x.ctx == c)).map (fun x => (1, x.hall, x.slot, x.seq, x.num)))) ++
  ((s.blocks.filter (fun b => b.ctx == c)).flatMap (fun b => b.stashCmds.map (fun x => (1, x.hall, x.slot, b.seq, x.num)))) ++
  (match s.ctx? c with
    | some x => x.pubs.map (fun p => (1, (place p.seq p.blk p.grp).1, (place p.seq p.blk p.grp).2, p.seq, p.num))
    | none => []) ++
  ((s.pkg.collectives.filter (fun x => x.ctx == c && x.st == 0)).map (fun x =>
    (2, (place x.seq x.blk x.grp).1, (place x.seq x.blk x.grp).2, x.seq, x.num)))

/-- Every engine command of a context stops, with its stop record. -/
def State.stopEngines (s : State) (c : Nat) : State :=
  (State.engineWork s c).foldl (fun s e => State.updDebug s c (fun d => Debug.putStop d
    { cause := 0, kind := e.1, hall := e.2.1, slot := e.2.2.1, queue := State.queueOf s c e.2.2.2.1 % 4096, seq := e.2.2.2.1,
      addr := 0, mask := BitVec.ofNat 32 e.2.2.2.2, clk := s.clk })) s

/-- The groups of a context, resident and saved. -/
def State.ctxGroups (s : State) (c : Nat) : List Group :=
  (State.allGroups s ++ s.saved.flatMap (fun i => i.groups)).filter (fun g => g.ctx == c)

/-- The records of a halt of the whole context: every group that is not halted, and its engines (R365 OP 4). -/
def State.stopContext (s : State) (c : Nat) : State :=
  let s := ((State.ctxGroups s c).filter (fun g => !g.halted)).foldl (fun s g => State.stopRecord s g 0) s
  match s.ctx? c with
  | some x => if x.dbg.haltAll then s else State.stopEngines s c
  | none => s

/-! ## Core dumps (R371 to R373) -/

/-- The notes of a context as it stands. -/
def State.dumpNotes (s : State) (c : Nat) (cause seq flags : Nat) : List DumpNote :=
  let gs := State.ctxGroups s c
  let bs := (s.blocks ++ s.saved.flatMap (fun i => i.blocks)).filter (fun b => b.ctx == c)
  let ts := s.tasks.filter (fun t => t.ctx == c)
  { type := 1, group := none, block := none, task := none, info := [c, cause, seq, s.clk, flags] } ::
    (gs.flatMap (fun g => [2, 3, 4, 5].map (fun k =>
      { type := k, group := some g, block := none, task := none, info := [] })) ++
     bs.flatMap (fun b => [6, 7].map (fun k =>
      { type := k, group := none, block := some b, task := none, info := [] })) ++
     ts.map (fun t => { type := 8, group := none, block := none, task := some t, info := [] }))

/-- The notes that fit in an area, and the bytes that they take with the header; `n` numbers their free sizes. -/
def fitNotes (room n : Nat) (notes : List DumpNote) : List DumpNote × Nat :=
  ((List.range notes.length).zip notes).foldl (fun (r : List DumpNote × Nat) p =>
    let k := Config.noteBytes (n + p.1)
    if r.2 + k ≤ room then (r.1 ++ [p.2], r.2 + k) else r) ([], Config.dumpHeader)

/-- Free bytes, from a count of free values used on. -/
def freeBytes (from_ n : Nat) : List Byte := (List.range n).map (fun j => Config.freeByte (from_ + j))

/-- A core dump of a context, when a dump area is set: the context is halted as OP 4 does, the image is written, and the halts are
released (R371). The image's bytes and length are free values (log entry 10). -/
def State.writeDump (s : State) (c cause seq : Nat) (lockstep : Bool) : State :=
  match s.ctx? c with
  | none => s
  | some x =>
    if x.dbg.dumpBase = 0 then s
    else
      let s := State.stopContext s c
      let flags := (if x.dbg.edited then 1 else 0) + (if lockstep then 4 else 0)
      let all := State.dumpNotes s c cause seq flags
      let fit := fitNotes x.dbg.dumpSize.toNat s.free all
      let notes := if fit.1.length = all.length then fit.1 else fit.1.map (fun y =>
        if y.type = 1 then { y with info := [c, cause, seq, s.clk, flags + 2] } else y)
      let n := min fit.2 x.dbg.dumpSize.toNat
      let s := State.writeVirt s c (vaOf x.dbg.dumpBase) (freeBytes s.free n)
      let s := { s with free := s.free + all.length + n }
      State.updDebug s c (fun d => { d with dump := notes, dumpLen := BitVec.ofNat 64 n })

/-! ## The end of gangs and tasks -/

/-- A group of a task. -/
def Group.of (g : Group) (c seq : Nat) : Bool := g.valid && g.ctx == c && g.seq == seq

/-- Everything of a task that stands in halls or in images goes (R318, R330). -/
def State.clearTask (s : State) (c seq : Nat) (drop : Bool) : State :=
  let s := State.killGroups s (fun g => Group.of g c seq) drop
  let bs := s.blocks.filter (fun b => b.ctx == c && b.seq == seq)
  let mine := fun (i : Image) => i.gang.ctx == c && i.gang.seq == seq
  let kept := (s.saved.filter mine).flatMap (fun i => i.blocks.map (fun b => b.charge))
  let paid := (bs.map (fun b => Block.chargeNow b s.clk) ++ kept).foldl (fun a b => a + b) 0
  let s := State.payCharge s c seq paid
  let s := State.dropBlocks s (fun b => b.ctx == c && b.seq == seq)
  let away := (s.saved.filter mine).flatMap (fun i => i.groups)
  let s := if drop then away.foldl State.dropRecords s else s
  let s := State.dropIssued s away
  { s with gangs := s.gangs.filter (fun g => !(g.ctx == c && g.seq == seq)), saved := s.saved.filter (fun i => !mine i) }

/-- A task ends FAILED with a cause (R318, R319, R338): a dump where one is due, every group of every block stops, no
successor is released. -/
def State.failTask (s : State) (c seq cause : Nat) : State :=
  match State.task? s c seq with
  | none => s
  | some t =>
    let s := if 1 ≤ cause ∧ cause ≤ 0x61 then State.writeDump s c cause seq false else s
    let s := State.clearTask s c seq true
    let s := match State.trace? s c t.arena with
      | some tr => if tr.st = 3 then
          State.updTrace s c t.arena (fun tr =>
            { tr with failed := true, tasks := mapIf tr.tasks (fun x => x.seq == seq) (fun x => { x with stale := true }) })
        else s
      | none => s
    State.endTask s c seq .failed cause

/-- The gang that consumed poison stops at once; GANG_KILL does the rest (R338). -/
def State.consumePoison (s : State) : State :=
  let g := s.g
  let s := State.updGang s g.ctx g.seq (Group.gang g) (fun x => { x with stopping := true })
  let s := State.updG s (fun g => { g with trapc := 0x10 })
  { s with events := s.events ++ [.gangKill g.ctx g.seq (Group.gang g)], cur := { s.cur with status := .killed } }

end Sys2Proof.Machine
end

