-- ==== Sys2Proof/Machine/Ops.lean ====
section
/-! DEFINITION. The shared operations of a group's words: lane program counters (R106 to R109), the idempotent region (R30,
R320), aborting an atomic region (R293), taking a trap and returning from one (R316 to R318), and the one place where a word's
effect becomes the outcome of its step (R104, R105). -/

namespace Sys2Proof.Machine

/-! ## Codes -/

/-- The code of a trap cause (R314). -/
def Cause.code : Cause → Nat
  | .illegal => 0x01 | .chain => 0x02 | .packet => 0x03 | .format => 0x04 | .role => 0x05 | .align => 0x06
  | .tagchk => 0x07 | .prot => 0x08 | .unmapped => 0x09 | .bounds => 0x0A | .stall => 0x0B | .trapi => 0x0C
  | .brk => 0x0D | .watch => 0x0E | .step => 0x0F | .poison => 0x10 | .residue => 0x11 | .shadow => 0x12
  | .keyexh => 0x13 | .outlier => 0x14 | .regalloc => 0x15 | .qdead => 0x16 | .nested => 0x17 | .quarter => 0x18

/-- The code of a stall reason (R122). -/
def Reason.code : Reason → Nat
  | .notsel => 0 | .stallcnt => 1 | .regdep => 2 | .cntwait => 3 | .acclock => 4 | .mmbusy => 5 | .engq => 6 | .range => 7
  | .tiletag => 8 | .ring => 9 | .phaser => 10 | .region => 11 | .xlate => 12 | .ifetch => 13 | .pipebusy => 14 | .halt => 15

/-- The place of a stall reason in the order of R122: the first that holds counts. -/
def Reason.rank : Reason → Nat
  | .halt => 1 | .ifetch => 2 | .xlate => 3 | .region => 4 | .phaser => 5 | .ring => 6 | .tiletag => 7 | .range => 8
  | .engq => 9 | .acclock => 10 | .cntwait => 11 | .regdep => 12 | .stallcnt => 13 | .mmbusy => 14 | .pipebusy => 15
  | .notsel => 16

/-- The code of a role (R115). -/
def Role.code : Role → Nat
  | .general => 0 | .copy => 1 | .matrix => 2 | .vector => 3

/-! ## Lane program counters -/

/-- PacketBase(x) of R106. -/
def packetBase (x : Word) : Word := x &&& 0xFFFFFFF0#32

/-- NextWord(x) of R106. -/
def nextWord (x : Word) : Word := if bits x.toNat 2 2 == 2 then packetBase x + 16 else x + 4

/-- BranchTarget(x, f, s) of R106. -/
def branchTarget (x : Word) (off : BitVec 15) (slot : BitVec 2) : Word :=
  packetBase x + BitVec.signExtend 32 off * 16 + BitVec.ofNat 32 (slot.toNat * 4)

/-- An lpc value is valid (R107). -/
def validLpc (x : Word) : Bool := x.toNat % 4 == 0 && bits x.toNat 2 2 != 3

/-- Change every lane of a mask. -/
def Group.mapLanes (g : Group) (m : Mask) (f : Nat → Lane → Lane) : Group :=
  { g with lanes := ((List.range g.lanes.length).zip g.lanes).map (fun p => if m.getLsbD p.1 then f p.1 p.2 else p.2) }

/-- The lanes of a mask go to an address. -/
def Group.setLpc (g : Group) (m : Mask) (a : Word) : Group := Group.mapLanes g m (fun _ l => { l with lpc := a })

/-! ## The idempotent region -/

/-- An operation takes its place among those outstanding, in issue order. -/
def Group.outstand (g : Group) (o : Outst) : Group :=
  { g with outst := placeBy (fun a b => decide (a.no ≤ b.no)) o g.outst }

/-- The group's buffered stores leave the buffer: they can no longer be discarded and count in scnt until performed; they stand in
their places in issue order (R203, R216, R322). -/
def Group.release (g : Group) : Group :=
  { g.sbuf.foldl (fun h w => Group.outstand h
      { no := w.no, op := .store w, mask := 0, parts := [], region := g.regions, lc := w.lc, sent := none }) g with sbuf := [] }

/-- The idempotent region ends; the next one starts at the following chain, with a restart count of 0 (R30, R320). -/
def State.endRegion (s : State) : State :=
  { s with
    g := { Group.release s.g with regions := s.g.regions + 1, restarts := 0 },
    cur := { s.cur with fresh := true } }

/-- lpc and state of every lane. -/
def Group.laneRecord (g : Group) : List (Word × LaneMode) := g.lanes.map (fun l => (l.lpc, l.mode))

/-- The group stands at the start of its idempotent region, of which nothing is under way. -/
def Group.atStart (g : Group) : Bool :=
  (if g.trapMode then g.handlerStart else g.regionStart) == Group.laneRecord g && g.sbuf.isEmpty && g.restarts == 0 &&
  g.outst.all (fun o => o.region != g.regions) && g.landings.all (fun x => x.region != g.regions)

/-- The region start record is written (R320); in trap mode, the handler's own (R317). -/
def Group.recordStart (g : Group) : Group :=
  if g.trapMode then { g with handlerStart := Group.laneRecord g } else { g with regionStart := Group.laneRecord g }

/-- The region's start record is written when a word of this chain ended the region: at the following chain (R30). -/
def State.settleStart (s : State) : State :=
  if s.cur.fresh then { s with g := Group.recordStart s.g } else s

/-- Lanes set from a record. -/
def Group.setLanes (g : Group) (r : List (Word × LaneMode)) : Group :=
  { g with lanes := (g.lanes.zip r).map (fun p => { p.1 with lpc := p.2.1, mode := p.2.2 }) }

/-! ## Landings (R90) -/

/-- One landing takes effect. -/
def Group.land (g : Group) (x : Landing) : Group :=
  { g with regs := g.regs.set x.reg (((g.regs.getD x.reg []).zip x.cells).map (fun p => p.2.getD p.1)) }

/-- The flags due by a cycle are ORed into FPFLAGS (R183). -/
def Group.landFlags (g : Group) (clk : Nat) : Group :=
  { g with
    fpflags := (g.flags.filter (fun x => decide (x.at_ ≤ clk))).foldl (fun v x => v ||| x.bits) g.fpflags,
    flags := g.flags.filter (fun x => !decide (x.at_ ≤ clk)) }

/-- The landings due by a cycle take effect, earlier issued first. -/
def Group.landDue (g : Group) (clk : Nat) : Group :=
  let g := Group.landFlags g clk
  let due := g.landings.filter (fun x => decide (x.at_ ≤ clk))
  due.foldl Group.land { g with landings := g.landings.filter (fun x => !decide (x.at_ ≤ clk)) }

/-- The landings of some registers take effect at once, in the order of their landing times, earlier issued first (R90). -/
def Group.landRegs (g : Group) (p : Nat → Bool) : Group :=
  (sortBy (fun (x y : Landing) => decide (x.at_ ≤ y.at_)) (g.landings.filter (fun x => p x.reg))).foldl Group.land
    { g with landings := g.landings.filter (fun x => !p x.reg) }

/-! ## Atomic regions (R293, R294) -/

/-- The status word of R293. -/
def statusWord (retries detail status : Nat) : Word := BitVec.ofNat 32 (retries * 65536 + detail % 256 * 256 + status)

/-- RETRIES of a status word. -/
def retriesOf (w : Word) : Nat := bits w.toNat 16 16

/-- Symbolic tags of a lane are cleared (R288). -/
def Group.clearSym (g : Group) (l : Nat) : Group :=
  { g with
    regs := g.regs.map (fun r => r.set l { r.getD l RegCell.zero with sym := 0 }),
    landings := g.landings.map (fun x =>
      { x with cells := x.cells.set l ((x.cells.getD l none).map (fun c => { c with sym := 0 })) }) }

/-- A region's private parts are dropped. -/
def LaneRegion.close (r : LaneRegion) : LaneRegion :=
  { r with isOpen := false, reads := [], exact := [], inputs := [], stores := [], cons := [], packets := 0, scope := 0,
           locks := [], lockWait := 0, writing := false, writes := [], hold := 0 }

/-- An abort of a lane: its stores are dropped, the status word goes to vp, lpc goes to the fallback label (R293). -/
def Group.abortLane (g : Group) (l status detail : Nat) : Group :=
  let r := (Group.lane g l).region
  let n := if r.committed then 1 else satTo 65535 (retriesOf r.status + 1)
  let w := statusWord n detail status
  let g := Group.clearSym g l
  let g := Group.setCell g l r.vp.toNat (RegCell.of w .i32)
  let g := if r.vp = 0 then g else { g with landings := g.landings.map (fun x =>
    if x.reg = r.vp.toNat then { x with cells := x.cells.set l none } else x) }
  Group.updLane g l (fun x =>
    { x with lpc := r.fallback, region := { LaneRegion.close r with status := w, committed := false } })

/-- The lanes with an open region. -/
def Group.openLanes (g : Group) : List Nat := lanesOf.filter (fun l => (Group.lane g l).region.isOpen)

/-- Every open region of the group aborts. -/
def Group.abortAll (g : Group) (status detail : Nat) : Group :=
  (Group.openLanes g).foldl (fun g l => Group.abortLane g l status detail) g

/-- Open regions are discarded with the idempotent region, with no abort (R294). -/
def Group.discardRegions (g : Group) : Group :=
  (Group.openLanes g).foldl (fun g l =>
    Group.updRegion (Group.clearSym g l) l (fun r => { LaneRegion.close r with status := r.prev })) g

/-! ## Units (R333, R335, R336) -/

/-- A lane's commit is in its write phase. -/
def Group.writing (g : Group) : Bool := g.lanes.any (fun l => l.region.writing)

/-- A group's pre-emption is requested (R324): open regions abort with PREEMPTED, but for commits in their write phase, which
complete (R294). -/
def Group.beginDrain (g : Group) : Group :=
  if g.draining then g
  else
    let h := { ((Group.openLanes g).filter (fun l => !(Group.lane g l).region.writing)).foldl (fun g l => Group.abortLane g l 9 0) g with
               draining := true }
    match g.wait with
    | some w =>
      if w.instr = .rcmt ∧ Group.writing h = false then
        let h := { h with wait := none,
                          lanes := ((List.range h.lanes.length).zip h.lanes).map (fun p =>
                            if w.mask.getLsbD p.1 && p.2.mode == .parked then { p.2 with mode := .live } else p.2) }
        if w.fresh then Group.recordStart h else h
      else h
    | none => h

/-- Some gangs are to be pre-empted: every group of them stops before its next chain (R324). -/
def State.drainGangs (s : State) (p : Gang → Bool) : State :=
  let s := { s with gangs := mapIf s.gangs p (fun g => { g with draining := true }) }
  State.mapGroups s (fun x => s.gangs.any (fun g => g.draining && g.ctx == x.ctx && g.seq == x.seq && g.idx == Group.gang x))
    Group.beginDrain

/-- A gang has a block in a hall. -/
def State.gangInHall (s : State) (h : Nat) (g : Gang) : Bool :=
  (State.allGroups s).any (fun x => x.hall == h && x.ctx == g.ctx && x.seq == g.seq && Group.gang x == g.idx)

/-- Nothing more is bound to a fenced hall, and its gangs are pre-empted; a pre-emption under way there completes first, and
this fence's pre-emption is charged to no one (R336). -/
def State.drainHall (s : State) (h : Nat) : State :=
  let s := State.updHall s h (fun x => { x with fenced := true })
  if s.gangs.any (fun g => g.draining && State.gangInHall s h g) then s
  else
    let s := { s with gangs := mapIf s.gangs (State.gangInHall s h) (fun g => { g with fenceAt := some s.clk }) }
    State.drainGangs s (State.gangInHall s h)

/-- A unit's word. -/
def State.unit (s : State) (u : Nat) : UnitSt := (lookup s.pkg.units u).getD UnitSt.zero

/-- A unit's word changed. -/
def State.updUnit (s : State) (u : Nat) (f : UnitSt → UnitSt) : State :=
  State.updPkg s (fun p => { p with units := insert p.units u (f ((lookup p.units u).getD UnitSt.zero)) })

/-- Unit numbers in the order of R333 (R334). -/
def flightUnit (h f : Nat) : Nat := 4 * h + f
def arrayUnit (h a : Nat) : Nat := 1536 + 4 * h + a
def bankUnit (h b : Nat) : Nat := 3072 + 16 * h + b
def linkUnit (p : Nat) : Nat := 9280 + p

/-- Suspicion is charged to a unit in service; at 64 it is fenced (R335, R336). -/
def State.chargeUnit (s : State) (u n : Nat) : State :=
  let x := State.unit s u
  if x.st ≠ 0 then s
  else if x.score + n < 64 then State.updUnit s u (fun x => { x with score := x.score + n })
  else
    let slice := decide (9216 ≤ u) && decide (u < 9280)
    let s := State.updUnit s u (fun x => { x with score := 64, st := 1, fencedAt := s.clk, rehoming := slice })
    if u < 1536 then State.drainHall s (u / 4)
    else if u < 3072 then s
    else if u < 9216 then State.drainHall s ((u - 3072) / 16)
    else if u < 9280 then s
    else State.updPkg s (fun p => { p with links := mapIf p.links (fun l => l.port == u - 9280) (fun l => { l with state := 0 }) })

/-! ## Taking a trap (R316) -/

/-- The trap base of the group's context. -/
def State.tbase (s : State) : DWord := match s.ctx? s.g.ctx with | some x => x.tbase | none => 0

/-- Trap entry once lcnt and acnt are zero (R316). -/
def Group.enterTrap (g : Group) (c : Cause) (mask : Mask) (addr : DWord) (pc : Word) (resume : Mask) : Group :=
  let g := Group.landRegs g (fun n => decide (1 ≤ n) && decide (n < 8))
  let bank := (List.range 7).map (fun i => g.regs.getD (i + 1) [])
  let rec_ : TrapRec :=
    { lanes := Group.laneRecord g, resume := resume, bank := bank, entryPc := pc, restarts := g.restarts }
  { g with
    held := g.sbuf, sbuf := [], overtaken := [], scnt := g.scnt - g.sbuf.length,
    trapRec := some rec_, trapc := BitVec.ofNat 32 (Cause.code c), trapa := addr, trapm := mask, trappc := pc,
    trapMode := true, pending := none, restarts := 0, regions := g.regions + 1, readyAt := g.busyUntil,
    regs := g.regs.take 1 ++ List.replicate 7 (List.replicate 32 RegCell.zero) ++ g.regs.drop 8,
    lanes := g.lanes.map (fun l => { l with lpc := 0, mode := .live }),
    handlerStart := List.replicate 32 (0, .live), syncOwed := some 3 }

/-- What a trap entry waits for: loads and atomics have returned, and the tile operations have retired (R243, R316). -/
def Group.landed (g : Group) : Bool := g.lcnt == 0 && g.acnt == 0 && g.mma.isEmpty && !Group.tileMoves g

/-- The parked lanes become live again at the word (R108). -/
def State.unpark (s : State) : State :=
  match s.g.wait with
  | none => s
  | some w =>
    let g := { Group.mapLanes s.g w.mask (fun _ l => { l with mode := .live }) with wait := none, syncOwed := some 8 }
    { s with g := if w.fresh then Group.recordStart g else g, cur := { s.cur with fresh := s.cur.fresh || w.fresh } }

/-- A trap is taken (R316): a double trap or a context with no handler acts as TKILL (R317, R318); else open regions abort and
the handler is entered, at once or when lcnt and acnt are zero. `pc` is the address TRAPPC gets. -/
def State.takeTrap (s : State) (c : Cause) (mask : Mask) (addr : DWord) (pc : Word) : State :=
  let s := State.settleStart (State.unpark s)
  let done := fun (s : State) => { s with cur := { s.cur with status := .trapped c } }
  if s.g.trapMode then
    done (State.failTask (State.updG s (fun g => { g with trapc := BitVec.ofNat 32 (Cause.code c) }))
      s.g.ctx s.g.seq (0x40 + Cause.code c))
  else if State.tbase s = 0 then
    done (State.failTask (State.updG s (fun g =>
      { g with trapc := BitVec.ofNat 32 (Cause.code c), trapa := addr, trapm := mask, trappc := pc }))
      s.g.ctx s.g.seq (Cause.code c))
  else
    let opened := Group.openLanes s.g
    let resume := s.cur.mask &&& ~~~(maskOf (fun l => opened.contains l))
    let g := Group.abortAll s.g 7 (Cause.code c)
    done { s with g := if Group.landed g then Group.enterTrap g c mask addr pc resume
                       else { g with pending := some (.trap c mask addr pc resume) } }

/-- A trap that waited is entered once lcnt and acnt are zero and the tile operations have retired (R243, R316). -/
def Group.settleTrap (g : Group) : Group :=
  match g.pending with
  | some (.trap c m a pc r) => if Group.landed g then Group.enterTrap g c m a pc r else g
  | _ => g

/-! ## Restarting the idempotent region (R80, R320, R321) -/

/-- An outstanding word whose result a restart of its region discards: loads, LDL, CSTAT (R320). -/
def Outst.discarded (o : Outst) (region : Nat) : Bool :=
  o.region == region &&
  match o.op with
  | .load _ _ _ _ _ last => !last
  | .cstat _ _ _ _ => true
  | _ => false

/-- An outstanding word that counts in lcnt. -/
def OutOp.countsLoad (o : OutOp) : Bool :=
  match o with
  | .load _ _ _ _ _ _ => true
  | .ldcb _ => true
  | _ => false

/-- The first steps of a restart: the region's buffered stores and the results of its words are discarded, open regions with
them; then the group waits (R320 steps 1 to 4). -/
def Group.beginRestart (g : Group) (pages : List Nat) : Group :=
  let gone := g.outst.filter (fun o => Outst.discarded o g.regions)
  Group.discardRegions
    { g with scnt := g.scnt - g.sbuf.length, sbuf := [],
             lcnt := g.lcnt - (gone.filter (fun o => OutOp.countsLoad o.op)).length,
             outst := g.outst.filter (fun o => !Outst.discarded o g.regions),
             landings := g.landings.filter (fun x => !(x.pend && x.region == g.regions)),
             wait := none, pending := some (.restart pages) }

/-- Every variable-latency result of a word issued before the region's start is written (R320 step 3). -/
def Group.mayRestart (g : Group) : Bool :=
  match g.pending with
  | some (.restart pages) =>
    pages.isEmpty && g.outst.all (fun o => (OutOp.dests o.op).isEmpty && !OutOp.countsLoad o.op) &&
    g.landings.all (fun x => !x.pend)
  | _ => false

/-- The binary search of R28 over a table of entries whose first word is an offset. -/
def lookupTable (offset : Nat → Nat) (x : Nat) : Nat → Nat → Nat → Option Nat
  | 0, _, _ => none
  | fuel + 1, lo, hi =>
    if lo < hi then
      let mid := (lo + hi) / 2
      if offset mid = x then some mid
      else if offset mid < x then lookupTable offset x fuel (mid + 1) hi
      else lookupTable offset x fuel lo mid
    else none

/-- The live-mask entry of an offset: FLAGS and MASK (R27). -/
def State.liveMask (s : State) (c : Nat) (r : LaunchRec) (off : Word) : Option (Nat × Nat) :=
  if r.lmtab = 0 then none
  else
    let at_ := fun (i o n : Nat) => State.numVirt s c (vaOf r.lmtab + 24 * i + o) n
    (lookupTable (fun i => at_ i 0 4) off.toNat 33 0 r.lmcount).map (fun i => (at_ i 4 4, at_ i 8 16))

/-- A safe point (R26): the packet's control word has SAFE and the offset is in the table. -/
def State.safePoint (s : State) (c : Nat) (r : LaunchRec) (off : Word) : Bool :=
  let ctl := State.numVirt s c (vaOf r.text + off.toNat + 12) 4
  off.toNat % 16 == 0 && ctl.testBit 19 && r.sptab != 0 &&
  (lookupTable (fun i => State.numVirt s c (vaOf r.sptab + 4 * i) 4) off.toNat 33 0 r.spcount).isSome

/-- The live-in registers of a region that starts at an offset (R30). -/
def State.liveIn (s : State) (g : Group) (off : Word) : List Nat :=
  match State.liveMask s g.ctx g.lr off with
  | some (flags, mask) =>
    if flags.testBit 1 then (List.range (8 * g.regn)).filter (fun n => mask.testBit n) else List.range (8 * g.regn)
  | none => List.range (8 * g.regn)

/-- A residue matches contents (R118). -/
def RegCell.sound (c : RegCell) : Bool := c.res == residueOf c.val

/-- The last steps of a restart: lanes from the record, then the live-in residues (R320 steps 5 to 7, R30). The group is the
one at the issue port. -/
def State.finishRestart (s : State) : State :=
  let g := Group.setLanes s.g (if s.g.trapMode then s.g.handlerStart else s.g.regionStart)
  let g := { g with pending := none, syncOwed := some 2, readyAt := g.busyUntil }
  let a := (Group.issueAddr g).getD 0
  let bad := (State.liveIn s g a).any (fun n => lanesOf.any (fun l => !RegCell.sound (Group.cell g l n)))
  let s := { s with g := g }
  if bad then
    let m := Group.activeMask g
    State.takeTrap { s with cur := { s.cur with mask := m, chainPc := a, wordPc := a } } .residue m 0 a
  else s

/-- A residue mismatch or a shadow divergence: charged, counted, and the region restarts, the fourth time a trap (R118, R178,
R321, R335). -/
def State.mismatch (s : State) (c : Cause) : State :=
  let s := State.chargeUnit { s with strike := none } (flightUnit s.g.hall (s.g.slot / 8)) 8
  let n := s.g.restarts + 1
  let s := State.updG s (fun g => { g with restarts := n })
  if n > 3 then State.takeTrap s c s.cur.mask 0 s.cur.chainPc
  else { s with g := Group.beginRestart s.g [], cur := { s.cur with status := .restarted } }

/-! ## From a word's effect to its outcome -/

/-- What a word does, before it becomes the outcome of the step. -/
inductive Eff where
  /-- its effects are placed, and the active lanes go on at NextWord (R88) -/
  | ok (s : State)
  /-- its effects are placed, lpc included -/
  | jump (s : State)
  /-- it has issued and waits (R108) -/
  | park (s : State) (r : Reason)
  /-- a trap taken before the chain; the state holds what stands in spite of it (R76, R104) -/
  | trap (s : State) (c : Cause) (mask : Mask) (addr : DWord)
  /-- its effects are placed, and a trap is taken after the chain (R314, R323) -/
  | after (s : State) (c : Cause) (addr : DWord)
  /-- a page fault (R80) -/
  | fault (s : State) (pages : List Nat)
  /-- it waits before it issues; `want` are the steps of other agents that end the wait -/
  | stall (r : Reason) (want : List Instr)
  /-- it waits before it issues, and what it has done by then stands: it has ended the region, which restarts at it (R307) -/
  | hold (s : State) (r : Reason)
  /-- it consumes poison (R117) -/
  | poison
  /-- a source's residue does not match, or the shadow diverges (R118, R178) -/
  | bad (c : Cause)
  deriving Inhabited

/-- The outcome of a step. -/
abbrev Out := Host.Outcome State Fault Refusal

/-- The active lanes go on at NextWord of the word (R88). -/
def State.advance (s : State) : State := State.updG s (fun g => Group.setLpc g s.cur.mask (nextWord s.cur.wordPc))

/-- What the word did is noted. -/
def State.note (s : State) (r : Status) : State := { s with cur := { s.cur with status := r } }

/-- The lanes of a wait stand at the chain again: the word that waited traps before the chain (R104, R156). -/
def Group.toChain (g : Group) : Group :=
  match g.wait with
  | some w => Group.setLpc g w.mask w.chainPc
  | none => g

/-- The one place where a word's effect becomes the state after it (R104, R105, R316, R320). `s` is the state before. -/
def State.finish (s : State) : Eff → State
  | .ok t => State.note (State.settleStart (State.advance t)) .done
  | .jump t => State.note (State.settleStart t) .done
  | .park t r => State.note t (.parked r)
  | .trap t c m a => State.takeTrap (State.updG t Group.toChain) c m a t.cur.chainPc
  | .after t c a =>
    let t := State.settleStart (State.advance t)
    State.takeTrap t c t.cur.mask a (nextWord t.cur.wordPc)
  | .fault t pages => State.note { t with g := Group.beginRestart t.g pages } .restarted
  | .hold t r => State.note { t with g := Group.recordStart t.g, cur := s.cur } (.stalled r)
  | .stall r want => { State.note s (.stalled r) with events := s.events ++ want }
  | .poison => State.consumePoison s
  | .bad c => State.mismatch s c

/-! ## Parking (R108) -/

/-- A word's registers as they stand. -/
def Group.snapshot (g : Group) (i : Instr) : List (Nat × List RegCell) := (Instr.regs i).map (fun n => (n, g.regs.getD n []))

/-- The lanes of the active mask park at the word, which is kept with how far it has come. -/
def State.park (s : State) (i : Instr) (phase : Nat) (aux : DWord) (r : Reason) : State :=
  State.updG s (fun g =>
    let g := Group.mapLanes g s.cur.mask (fun _ l => { l with mode := .parked, lpc := s.cur.wordPc })
    let old := g.wait.getD default
    { g with wait := some { instr := i, mask := s.cur.mask, chainPc := s.cur.chainPc, wordPc := s.cur.wordPc,
                            phase := phase, aux := aux, reason := r, sat := false, fresh := s.cur.fresh || old.fresh,
                            rest := old.rest, goto := old.goto, plain := old.plain,
                            srcs := if s.cur.srcs.isEmpty then Group.snapshot g i else s.cur.srcs },
             syncOwed := if g.wait.isNone then some 8 else g.syncOwed })

/-- The phase of the word that waits, 0 when it is only now issued. -/
def State.phase (s : State) (i : Instr) : Nat :=
  match s.g.wait with
  | some w => if w.instr = i then w.phase else 0
  | none => 0

/-! ## Leaving the handler (R318) -/

/-- The group's own v1 to v7 come back; what the handler's words still had to write to the bank is gone. -/
def Group.unbank (g : Group) (r : TrapRec) : Group :=
  { g with
    landings := g.landings.filter (fun x => !(decide (1 ≤ x.reg) && decide (x.reg < 8))),
    regs := g.regs.take 1 ++ r.bank ++ g.regs.drop 8 }

/-- TRET once the counters are zero: lane states, v1 to v7 and lpc from the record, TRAPPC for the resumed lanes that stood at
the pc of entry; the held stores return to the buffer and count in scnt again (R318). -/
def Group.returnTrap (g : Group) (r : TrapRec) : Group :=
  let g := Group.setLanes (Group.unbank g r) r.lanes
  let g := Group.mapLanes g r.resume (fun _ l => if l.lpc = r.entryPc then { l with lpc := g.trappc } else l)
  { g with sbuf := g.held, scnt := g.scnt + g.held.length, held := [], overtaken := [], trapMode := false, trapRec := none,
           restarts := r.restarts, syncOwed := some 4 }

/-- TABN once the counters are zero: the held stores are discarded, lane states and v1 to v7 come back, and the region
restarts (R318, R320). -/
def Group.abandonTrap (g : Group) (r : TrapRec) : Group :=
  let g := Group.setLanes (Group.unbank g r) r.lanes
  Group.beginRestart { g with held := [], overtaken := [], trapMode := false, trapRec := none, restarts := r.restarts, syncOwed := some 4 } []

end Sys2Proof.Machine
end

