-- ==== Sys2Proof/Machine/Operands.lean ====
section
/-! DEFINITION. Operands: the checks every word passes before its entry (R91, R92, R96, R104, R115), sources with their tags,
poison, residues and symbolic tags (R106, R116 to R118, R288), and results that land later (R90). -/

namespace Sys2Proof.Machine

/-! ## Sources -/

/-- How a word uses a source (R117, R218). -/
inductive Use where
  /-- a value of its lane: poison makes the lane's result POISON -/
  | value
  /-- a value whose own tag may become the result's (SEL, SHFL) -/
  | pass
  /-- a value of every active lane on which every result depends -/
  | spread
  /-- an address, a condition, or data that leaves the register file: poison is consumed -/
  | consume
  /-- read from the lowest active lane alone; poison is consumed -/
  | lowest
  /-- a value of the lowest active lane on which every result depends -/
  | peek
  deriving DecidableEq, Repr, Inhabited

/-- A source register, its uniform mark, the tags accepted (none listed: any), and its use. -/
structure Src where
  reg : Nat
  uni : Bool
  tags : List Tag
  use : Use
  deriving DecidableEq, Repr, Inhabited

/-- The lane whose register a lane reads: Src(l, n, u) of R106. -/
def srcLane (u : Bool) (l : Nat) : Nat := if u then lead l else l

/-- Src(l, n, u) of R106, as it stands. -/
def State.srcCell (s : State) (l n : Nat) (u : Bool) : RegCell := Group.cell s.g (srcLane u l) n

/-- The 32 bits of Src(l, n, u). -/
def State.src (s : State) (l n : Nat) (u : Bool) : Word := (State.srcCell s l n u).val

/-- Src over a pair, the low word in the even register. -/
def State.src64 (s : State) (l n : Nat) (u : Bool) : DWord := pair64 (State.src s l n u) (State.src s l (n + 1) u)

/-- The lanes that read a source, with the lane whose register each reads. -/
def Src.lanes (x : Src) (m : Mask) : List (Nat × Nat) :=
  (match x.use with
    | .lowest => (Mask.lanes m).take 1
    | .peek => (Mask.lanes m).take 1
    | _ => Mask.lanes m).map (fun l => (l, srcLane x.uni l))

/-- CheckTag of R106. -/
def tagOk (t : Tag) (set : List Tag) : Bool := set.isEmpty || t == .raw || t == .poison || set.contains t

/-- A cell of a source meets a condition in some lane that reads it. -/
def State.srcAny (s : State) (x : Src) (p : RegCell → Bool) : Bool :=
  (Src.lanes x s.cur.mask).any (fun l => p (Group.cell s.g l.2 x.reg))

/-- A source's use consumes poison. -/
def Use.consumes : Use → Bool
  | .consume => true
  | .lowest => true
  | _ => false

/-- Some source consumes poison (R117). -/
def State.srcPoison (s : State) (xs : List Src) : Bool :=
  xs.any (fun x => Use.consumes x.use && State.srcAny s x (fun c => c.tag == .poison))

/-- Some source has a tag its entry does not accept (R116). -/
def State.srcFormat (s : State) (xs : List Src) : Bool := xs.any (fun x => State.srcAny s x (fun c => !tagOk c.tag x.tags))

/-- Some source's residue does not match (R118). -/
def State.srcResidue (s : State) (xs : List Src) : Bool := xs.any (fun x => State.srcAny s x (fun c => !RegCell.sound c))

/-- A lane's result carries POISON (R117). -/
def State.lanePoison (s : State) (xs : List Src) (l : Nat) : Bool :=
  xs.any (fun x => match x.use with
    | .value => (Group.cell s.g (srcLane x.uni l) x.reg).tag == .poison
    | .spread => State.srcAny s x (fun c => c.tag == .poison)
    | .peek => State.srcAny s x (fun c => c.tag == .poison)
    | _ => false)

/-- A pair as two sources. -/
def srcPair (n : Nat) (u : Bool) (tags : List Tag) (use : Use) : List Src :=
  [{ reg := n, uni := u, tags := tags, use := use }, { reg := n + 1, uni := u, tags := tags, use := use }]

/-- A run of sources. -/
def srcRun (n k : Nat) (u : Bool) (tags : List Tag) (use : Use) : List Src :=
  (regRun n k).map (fun r => { reg := r, uni := u, tags := tags, use := use })

/-- A single source. -/
def src1 (n : RegNo) (u : Bool) (tags : List Tag) : Src := { reg := n.toNat, uni := u, tags := tags, use := .value }

/-- The tags of an address pair (R218). -/
def addrTags : List Tag := [.addr, .i32]

/-- The first of some landings with a cell in a lane, its bits flipped, and whether the flip agrees with its predicted residue. -/
def flipFirst (lane : Nat) (flip : Word) : List Landing → Option (List Landing × Bool)
  | [] => none
  | x :: r =>
    match x.cells.getD lane none with
    | some c =>
      let v := c.val ^^^ flip
      some ({ x with cells := x.cells.set lane (some { c with val := v }) } :: r, residueOf v == c.res)
    | none => (flipFirst lane flip r).map (fun p => (x :: p.1, p.2))

/-- The write check of R118: a result that a disturbance has changed is held against the residue predicted from the operands; a
mismatch voids the word, and a change that keeps the residue goes unseen. -/
def State.written (s t : State) : Eff :=
  match s.strike with
  | some (.result lane flip) =>
    let old := s.g.landings.length
    match flipFirst lane flip (t.g.landings.drop old) with
    | some (new, fits) =>
      if fits then .ok { State.updG t (fun g => { g with landings := t.g.landings.take old ++ new }) with strike := none }
      else .bad .residue
    | none => .ok t
  | _ => .ok t

/-- The source checks around an entry: poison that is consumed, the tags, then the entry, and last the residues of the sources and
of the result (R118, R219, R315). -/
def State.withSources (s : State) (xs : List Src) (body : State → Eff) : Eff :=
  if State.srcPoison s xs then .poison
  else if State.srcFormat s xs then .trap s .format s.cur.mask 0
  else match body s with
    | .ok t => if State.srcResidue s xs then .bad .residue else State.written s t
    | .jump t => if State.srcResidue s xs then .bad .residue else .jump t
    | .park t r => if State.srcResidue s xs then .bad .residue else .park t r
    | e => e

/-! ## Symbolic tags (R288) -/

/-- A lane's region is open. -/
def State.inRegion (s : State) (l : Nat) : Bool := (Group.lane s.g l).region.isOpen

/-- Some lane of the active mask has an open region (R286). -/
def State.anyRegion (s : State) : Bool := (Mask.lanes s.cur.mask).any (fun l => State.inRegion s l)

/-- A tag is an input's number. -/
def isSymbolic (k : BitVec 4) : Bool := decide (1 ≤ k.toNat) && decide (k.toNat ≤ 8)

/-- The inputs that fed a symbolic source become exact, in the region of the lane whose register it is (R288). -/
def Group.exactAt (g : Group) (l n : Nat) : Group :=
  let k := (Group.cell g l n).sym
  if isSymbolic k then Group.updRegion g l (fun r => LaneRegion.makeExact r k.toNat) else g

/-- Every symbolic source of some lanes becomes exact. -/
def State.exactSources (s : State) (xs : List Src) (p : Nat → Bool) : State :=
  if (Group.openLanes s.g).isEmpty then s
  else State.updG s (fun g => xs.foldl (fun g x =>
    (Src.lanes x s.cur.mask).foldl (fun g l => if p l.1 then Group.exactAt g l.2 x.reg else g) g) g)

/-- The tag of a result in a lane when nothing better is known: 15 with a symbolic or opaque source, else 0 (R288). -/
def State.defaultSym (s : State) (xs : List Src) (l : Nat) : BitVec 4 :=
  if !State.inRegion s l then 0
  else if xs.any (fun x => match x.use with
      | .spread => State.srcAny s x (fun c => c.sym != 0)
      | .peek => State.srcAny s x (fun c => c.sym != 0)
      | _ => (Group.cell s.g (srcLane x.uni l) x.reg).sym != 0) then 15
  else 0

/-! ## Results (R90, R91, R106) -/

/-- A result for a register lands `lat` cycles later in the lanes that have a cell; v0 discards it. -/
def State.landing (s : State) (lat reg : Nat) (cells : List (Option RegCell)) (pend : Bool) : State :=
  if reg = 0 then s
  else State.updG s (fun g => { g with landings := g.landings ++
    [{ at_ := s.clk + lat, reg := reg, cells := cells, pend := pend, region := g.regions }] })

/-- The results of a lane-by-lane word: `f` gives each active lane the words and tags for d, d + 1, …; `sym` the symbolic tag
where the entry gives one, else the default. -/
def State.results (s : State) (xs : List Src) (lat d n : Nat) (f : Nat → List (Word × Tag))
    (sym : Nat → Option (BitVec 4)) : State :=
  let rows := lanesOf.map (fun l =>
    if s.cur.mask.getLsbD l then
      let bad := State.lanePoison s xs l
      let k := if State.inRegion s l then (sym l).getD (State.defaultSym s xs l) else 0
      some ((f l).map (fun p => { RegCell.of p.1 (if bad then .poison else p.2) with sym := k }))
    else none)
  let s := State.exactSources s xs (fun l => State.inRegion s l && (sym l).isNone)
  (List.range n).foldl (fun s j =>
    State.landing s lat (d + j) (rows.map (fun r => match r with | some cs => cs[j]? | none => none)) false) s

/-- A lane-by-lane word with a fixed latency (R90, R133). -/
def State.laneOp (s : State) (xs : List Src) (lat d n : Nat) (f : State → Nat → List (Word × Tag)) : Eff :=
  State.withSources s xs (fun s => .ok (State.results s xs lat d n (f s) (fun _ => none)))

/-- One value written to every active lane. -/
def State.allLanes (s : State) (xs : List Src) (lat d : Nat) (f : State → Word × Tag) : Eff :=
  State.withSources s xs (fun s => .ok (State.results s xs lat d 1 (fun _ => [f s]) (fun _ => none)))

/-! ## The checks before the entry -/

/-- The roles admit these majors (R115). -/
def Role.admits (r : Role) (m : Nat) : Bool :=
  match r with
  | .general => true
  | .copy => !(m == 0x13 || (decide (0x20 ≤ m) && decide (m ≤ 0x3B)) || decide (0x73 ≤ m))
  | .matrix =>
    !(m == 0x13 || (decide (0x20 ≤ m) && decide (m ≤ 0x3B)) || (decide (0x40 ≤ m) && decide (m ≤ 0x43)) ||
      (decide (0x52 ≤ m) && decide (m ≤ 0x58)))
  | .vector =>
    !((decide (0x52 ≤ m) && decide (m ≤ 0x54)) || m == 0x57 || m == 0x58 || decide (0x73 ≤ m))

/-- The checking scoreboard of the group's context is on (R92). -/
def State.checking (s : State) : Bool := match s.ctx? s.g.ctx with | some x => x.checking | none => false

/-- A word names a register whose fixed-latency write has not landed (R92). -/
def State.unlanded (s : State) (rs : List Nat) : Bool :=
  s.g.landings.any (fun x => !x.pend && decide (s.clk < x.at_) && rs.contains x.reg)

/-- The checks of R104 on one word, in their order: ILLEGAL, REGALLOC, ROLE, STALL. -/
def State.wordCheck (s : State) (i : Instr) : Option Cause :=
  if !wellFormed i then some .illegal
  else if (Instr.regs i).any (fun n => decide (n ≥ 8 * s.g.regn)) ||
      (Instr.tileOf i).any (fun k => decide (k ≥ s.g.accN)) then some .regalloc
  else if !s.g.trapMode && !Role.admits s.g.role (Instr.major i) then some .role
  else if State.checking s && State.unlanded s (Instr.regs i) then some .stall
  else none

/-- A pending register makes the word wait (R91). -/
def State.regWait (s : State) (i : Instr) : Bool :=
  (Instr.regs i).any (fun n => n != 0 && (Group.pendingRegs s.g).contains n)

/-! ## Packets of a region (R290) -/

/-- A lane issues a chain of another packet, or goes back: one more packet of its region; beyond 256 it aborts. -/
def Group.countPacket (g : Group) (l : Nat) (pc : Word) : Group × Bool :=
  let r := (Group.lane g l).region
  if !r.isOpen then (g, false)
  else if packetBase r.lastPacket = packetBase pc ∧ r.lastPacket.toNat < pc.toNat then
    (Group.updRegion g l (fun r => { r with lastPacket := pc }), false)
  else if r.packets < 256 then
    (Group.updRegion g l (fun r => { r with packets := r.packets + 1, lastPacket := pc }), false)
  else (Group.abortLane g l 5 4, true)

/-- The active lanes count the packet; those over the limit leave the active mask, aborted (R290). -/
def State.countPackets (s : State) : State :=
  if (Group.openLanes s.g).isEmpty || s.g.wait.isSome then s
  else
    let (g, out) := (Mask.lanes s.cur.mask).foldl (fun (x : Group × List Nat) l =>
      let (g, a) := Group.countPacket x.1 l s.cur.wordPc
      (g, if a then l :: x.2 else x.2)) (s.g, [])
    { s with g := g, cur := { s.cur with mask := s.cur.mask &&& ~~~(maskOf (fun l => out.contains l)) } }

/-- A lane aborts its region with CAPACITY before the word takes effect in it, and leaves the active mask (R290). -/
def State.capacity (s : State) (l detail : Nat) : State :=
  { s with g := Group.abortLane s.g l 5 detail, cur := { s.cur with mask := s.cur.mask &&& ~~~(1#32 <<< l) } }

/-! ## Issuing a word -/

/-- The registers of a word that has waited, as they stood at its issue (R90). -/
def State.asIssued (s : State) : State :=
  State.updG s (fun g => { g with regs := s.cur.srcs.foldl (fun r p => r.set p.1 p.2) g.regs })

/-- What such a word has not written stands as it does now, not as it did at the issue. -/
def State.landed (s t : State) : State :=
  State.updG t (fun g =>
    { g with regs := s.cur.srcs.foldl (fun r p => if r.getD p.1 [] == p.2 then r.set p.1 (s.g.regs.getD p.1 []) else r) g.regs })

/-- The state in an effect changed. -/
def Eff.map (f : State → State) : Eff → Eff
  | .ok t => .ok (f t)
  | .jump t => .jump (f t)
  | .park t r => .park (f t) r
  | .trap t c m a => .trap (f t) c m a
  | .after t c a => .after (f t) c a
  | .fault t ps => .fault (f t) ps
  | .hold t r => .hold (f t) r
  | .stall r w => .stall r w
  | .poison => .poison
  | .bad c => .bad c

/-- One word issued under the active mask: the wait for pending registers, the checks of R104, then the entry (R91, R104,
R133). A word that waits parked is only tested again, on what it read at its issue, and a further word of a chain has been checked
with it. With no group at the issue port nothing issues. -/
def issue (i : Instr) (body : State → Eff) (s : State) : Out :=
  if !s.g.valid then .next s
  else if s.g.wait.isSome || s.cur.follow then .next (State.finish s (Eff.map (State.landed s) (body (State.asIssued s))))
  else if State.regWait s i then .next (State.finish s (.stall .regdep []))
  else match State.wordCheck s i with
    | some c => .next (State.finish s (.trap s c s.cur.mask 0))
    | none =>
      let t := State.countPackets s
      if t.cur.mask = 0 then .next (State.finish s (.jump t)) else .next (State.finish s (body t))

/-- Inside an open atomic region the word traps ILLEGAL (R286). -/
def State.outside (s : State) (body : State → Eff) : Eff :=
  if State.anyRegion s then .trap s .illegal s.cur.mask 0 else body s

end Sys2Proof.Machine
end

