-- ==== Sys2Proof/Machine/Flags.lean ====
section
/-! DEFINITION. The floating-point flags of a group (R171, R181, R183). -/

namespace Sys2Proof.Machine

namespace FpFlag
/-- invalid operation -/
def nv : Word := 16
/-- division by zero -/
def dz : Word := 8
/-- overflow -/
def of_ : Word := 4
/-- underflow -/
def uf : Word := 2
/-- inexact -/
def nx : Word := 1
end FpFlag

/-- SetFlags(f) of R106: the flags land with the last quarter of a result of latency `lat`, and are ORed into FPFLAGS then
(R183). -/
def State.raise (s : State) (f : Word) (lat : Nat) : State :=
  if f = 0 then s
  else State.updG s (fun g => { g with flags := g.flags ++ [{ at_ := s.clk + lat + 3, since := s.clk, bits := f }] })

/-- The flags of some earlier chain have not landed: a result still under way, or an AFADD that has not returned (R183, R276). -/
def State.flagsPending (s : State) : Bool :=
  s.g.flags.any (fun x => decide (x.since < s.clk)) ||
  s.g.outst.any (fun o => match o.op with | .atomic .fadd _ _ _ _ => true | _ => false)

/-- An LDCB into a codebook slot has not returned (R194); the chain in issue has made the check before its own words run. -/
def State.slotPending (s : State) (n : Nat) : Bool :=
  !s.cur.follow && s.g.outst.any (fun o => match o.op with | .ldcb k => k == n | _ => false)

end Sys2Proof.Machine
end

