-- ==== Sys2Proof/Machine/Float.lean ====
section
/-! DEFINITION. Floating-point formats and exact values, rounding with its flags, and the arithmetic on them (R159 to R172, R176,
R184 to R188). -/

namespace Sys2Proof.Machine

/-! ## Formats and values -/

/-- A floating-point format (R159): exponent and fraction bits, bias, whether the top exponent codes infinity and NaN, the
largest finite value `maxM` times 2 to the `maxQ`, the canonical NaN (R172). -/
structure Fmt where
  eb : Nat
  fb : Nat
  bias : Nat
  ieee : Bool
  maxM : Nat
  maxQ : Int
  nan : Nat
  deriving DecidableEq, Repr

def Fmt.f32 : Fmt := { eb := 8, fb := 23, bias := 127, ieee := true, maxM := 2 ^ 24 - 1, maxQ := 104, nan := 0x7FC00000 }
def Fmt.f16 : Fmt := { eb := 5, fb := 10, bias := 15, ieee := true, maxM := 2047, maxQ := 5, nan := 0x7E00 }
def Fmt.bf16 : Fmt := { eb := 8, fb := 7, bias := 127, ieee := true, maxM := 255, maxQ := 120, nan := 0x7FC0 }
def Fmt.e5m2 : Fmt := { eb := 5, fb := 2, bias := 15, ieee := true, maxM := 7, maxQ := 13, nan := 0x7E }
def Fmt.e4m3 : Fmt := { eb := 4, fb := 3, bias := 7, ieee := false, maxM := 14, maxQ := 5, nan := 0x7F }
/-- E2M1 has no NaN: its `nan` is the +0 of R169. -/
def Fmt.e2m1 : Fmt := { eb := 2, fb := 1, bias := 1, ieee := false, maxM := 3, maxQ := 1, nan := 0 }

/-- The exponent of the smallest normal. -/
def Fmt.emin (f : Fmt) : Int := 1 - f.bias

/-- The bit of the sign. -/
def Fmt.signBit (f : Fmt) : Nat := 2 ^ (f.eb + f.fb)

/-- The value of a code (R159). -/
def Fmt.decode (f : Fmt) (x : Nat) : Num :=
  let s := bits x (f.eb + f.fb) 1 == 1
  let e := bits x f.fb f.eb
  let m := bits x 0 f.fb
  let top := 2 ^ f.eb - 1
  if f.ieee && e == top then (if m == 0 then .inf s else .nan)
  else if f == Fmt.e4m3 && e == top && m == 7 then .nan
  else if e = 0 then .fin s m (f.emin - f.fb)
  else .fin s (2 ^ f.fb + m) (e - f.bias - f.fb)

/-- The sign of a value. -/
def Num.neg : Num → Bool
  | .nan => false
  | .inf s => s
  | .fin s _ _ => s

/-- A value with its sign changed. -/
def Num.negate : Num → Num
  | .nan => .nan
  | .inf s => .inf (!s)
  | .fin s m e => .fin (!s) m e

def Num.isNan : Num → Bool
  | .nan => true
  | _ => false

def Num.isZero : Num → Bool
  | .fin _ m _ => m == 0
  | _ => false

/-! ## Rounding (R168 to R172) -/

/-- The rounding modes of R101 and R168: 0 RNE, 1 RZ, 2 RU, 3 RD. -/
abbrev Mode := BitVec 2

/-- The magnitude m·2^e, and a little more when `sticky`, in units of 2^q: the multiple that rounding takes, and whether it
differs from the exact magnitude. -/
def roundMag (mode : Mode) (neg : Bool) (m : Nat) (e q : Int) (sticky : Bool) : Nat × Bool :=
  if q ≤ e then (m * 2 ^ (e - q).toNat, sticky)
  else
    let k := (q - e).toNat
    let small := decide (Nat.log2 m + 2 < k)
    let n := if small then 0 else m / 2 ^ k
    let r := if small then m else m % 2 ^ k
    let half := 2 ^ (min k (Nat.log2 m + 3) - 1)
    let inexact := sticky || r != 0
    let up :=
      match mode.toNat with
      | 0 => decide (r > half) || (r == half && (sticky || n % 2 == 1))
      | 1 => false
      | 2 => inexact && !neg
      | _ => inexact && neg
    (if up then n + 1 else n, inexact)

/-- The result of an overflow (R169). -/
def Fmt.overflow (f : Fmt) (mode : Mode) (neg : Bool) : Nat :=
  let sign := if neg then f.signBit else 0
  let max := (f.maxQ + f.fb + f.bias).toNat * 2 ^ f.fb + (f.maxM - 2 ^ f.fb)
  let inf := (2 ^ f.eb - 1) * 2 ^ f.fb
  if !f.ieee then sign + max
  else match mode.toNat with
    | 0 => sign + inf
    | 1 => sign + max
    | 2 => if neg then sign + max else inf
    | _ => if neg then sign + inf else max

/-- Round a finite magnitude into a format: the code and the flags (R168 to R170). -/
def Fmt.roundFin (f : Fmt) (mode : Mode) (neg : Bool) (m : Nat) (e : Int) (sticky : Bool) : Nat × Word :=
  let sign := if neg then f.signBit else 0
  if m = 0 && !sticky then (sign, 0)
  else
    let top : Int := e + Nat.log2 m
    let qn : Int := top - f.fb
    let q : Int := max qn (f.emin - f.fb)
    let (n, inexact) := roundMag mode neg m e q sticky
    let (n, q) := if n = 2 ^ (f.fb + 1) then (2 ^ f.fb, q + 1) else (n, q)
    if q > f.maxQ || (q == f.maxQ && decide (n > f.maxM)) then (f.overflow mode neg, FpFlag.of_ ||| FpFlag.nx)
    else
      let unbounded := (roundMag mode neg m e qn sticky).1
      let tiny := decide (qn + Nat.log2 unbounded < f.emin)
      let flags := if inexact then (if tiny then FpFlag.uf ||| FpFlag.nx else FpFlag.nx) else 0
      if n < 2 ^ f.fb then (sign + n, flags)
      else (sign + (q + f.fb + f.bias).toNat * 2 ^ f.fb + (n - 2 ^ f.fb), flags)

/-- Round(x, fmt, mode) of R106 with its flags: R168 to R172. -/
def Fmt.round (f : Fmt) (mode : Mode) (x : Num) : Nat × Word :=
  match x with
  | .nan => (f.nan, if f == Fmt.e2m1 then FpFlag.nv else 0)
  | .inf s =>
    if f.ieee then ((if s then f.signBit else 0) + (2 ^ f.eb - 1) * 2 ^ f.fb, 0)
    else (f.overflow 0 s, FpFlag.nv)
  | .fin s m e => f.roundFin mode s m e false

/-- An integer in two's complement of `w` bits, held to its limits; NV when it was beyond them (R169). -/
def clampInt (w : Nat) (x : Int) : Nat × Word :=
  let hi : Int := 2 ^ (w - 1) - 1
  let lo : Int := -(2 ^ (w - 1))
  if x > hi then (hi.toNat, FpFlag.nv)
  else if x < lo then (2 ^ (w - 1), FpFlag.nv)
  else ((x % 2 ^ w).toNat, 0)

/-- Round to a signed integer of `w` bits (R168, R169). -/
def roundToInt (w : Nat) (mode : Mode) (x : Num) : Nat × Word :=
  match x with
  | .nan => (0, FpFlag.nv)
  | .inf s => clampInt w (if s then -(2 ^ w) else 2 ^ w)
  | .fin s m e =>
    let (n, inexact) := roundMag mode s m e 0 false
    let (r, f) := clampInt w (if s then -(n : Int) else n)
    (r, if f != 0 then f else if inexact then FpFlag.nx else 0)

/-- A signed integer as an exact value. -/
def Num.ofInt (x : Int) : Num := .fin (decide (x < 0)) x.natAbs 0

/-! ## Exact sums and products (R168, R171, R185) -/

/-- A signed magnitude at a lower exponent. -/
def alignTo (s : Bool) (m : Nat) (e q : Int) : Int :=
  let x : Int := m * 2 ^ (e - q).toNat
  if s then -x else x

/-- x + y, exact; ∞ − ∞ is NaN and raises NV; an exact zero takes its sign by R168. -/
def Num.add (mode : Mode) (x y : Num) : Num × Word :=
  match x, y with
  | .nan, _ => (.nan, 0)
  | _, .nan => (.nan, 0)
  | .inf a, .inf b => if a == b then (.inf a, 0) else (.nan, FpFlag.nv)
  | .inf a, _ => (.inf a, 0)
  | _, .inf b => (.inf b, 0)
  | .fin a m e, .fin b n k =>
    let q := min e k
    let z := alignTo a m e q + alignTo b n k q
    if z = 0 then (.fin (if a == b then a else mode == 3) 0 q, 0) else (.fin (decide (z < 0)) z.natAbs q, 0)

/-- x × y, exact; 0 × ∞ is NaN and raises NV. -/
def Num.mul (x y : Num) : Num × Word :=
  match x, y with
  | .nan, _ => (.nan, 0)
  | _, .nan => (.nan, 0)
  | .inf a, .inf b => (.inf (a != b), 0)
  | .inf a, .fin b n _ => if n = 0 then (.nan, FpFlag.nv) else (.inf (a != b), 0)
  | .fin a m _, .inf b => if m = 0 then (.nan, FpFlag.nv) else (.inf (a != b), 0)
  | .fin a m e, .fin b n k => (.fin (a != b) (m * n) (e + k), 0)

/-- A rounded result whose value already carries flags. -/
def Fmt.finish (f : Fmt) (mode : Mode) (x : Num × Word) : Nat × Word :=
  let (r, g) := f.round mode x.1
  (r, x.2 ||| g)

/-- FADD of R185 in a format. -/
def Fmt.add (f : Fmt) (mode : Mode) (x y : Nat) : Nat × Word := f.finish mode (Num.add mode (f.decode x) (f.decode y))
/-- FSUB. -/
def Fmt.sub (f : Fmt) (mode : Mode) (x y : Nat) : Nat × Word :=
  f.finish mode (Num.add mode (f.decode x) (Num.negate (f.decode y)))
/-- FMUL. -/
def Fmt.mul (f : Fmt) (mode : Mode) (x y : Nat) : Nat × Word := f.finish mode (Num.mul (f.decode x) (f.decode y))
/-- x × y + z with one rounding (R176); 0 × ∞ raises NV even when z is NaN (R185). -/
def Fmt.fma (f : Fmt) (mode : Mode) (x y : Nat) (z : Num) : Nat × Word :=
  let (p, g) := Num.mul (f.decode x) (f.decode y)
  let (t, h) := Num.add mode p z
  f.finish mode (t, g ||| h)

/-! ## The shadow check (R178, R179) -/

/-- ⌊log₂ |x|⌋ of a finite non-zero value. -/
def Num.exponent : Num → Int
  | .fin _ m e => e + Nat.log2 m
  | _ => 0

/-- A divergence of a unit's rounded result r and the shadow's h (R178). -/
def diverges (r h : Num) : Bool :=
  match r, h with
  | .nan, .nan => false
  | .inf a, .inf b => a != b
  | .fin a m e, .fin b n k =>
    if m = 0 && n = 0 then a != b
    else if m = 0 || n = 0 || a != b then true
    else
      let unit := Num.exponent h - 4
      let q := min (min e k) unit
      decide ((alignTo a m e q - alignTo b n k q).natAbs > 2 ^ (unit - q).toNat)
  | _, _ => true

/-- The check is suppressed: the result's exponent is more than 4 below that of its largest addend, or it is zero and some
addend is not (R179). -/
def suppressed (r : Num) (addends : List Num) : Bool :=
  let big := addends.filter (fun x => match x with | .fin _ m _ => m != 0 | _ => false)
  match r with
  | .fin _ m _ =>
    if m = 0 then addends.any (fun x => !Num.isZero x)
    else big.any (fun x => decide (Num.exponent r + 4 < Num.exponent x))
  | _ => false

/-! ## Comparison (R186, R187) -/

/-- x < y, neither NaN; −0 equals +0. -/
def Num.lt (x y : Num) : Bool :=
  match x, y with
  | .inf a, .inf b => a && !b
  | .inf a, .fin _ _ _ => a
  | .fin _ _ _, .inf b => !b
  | .fin a m e, .fin b n k => let q := min e k; decide (alignTo a m e q < alignTo b n k q)
  | _, _ => false

/-- x = y, neither NaN. -/
def Num.eq (x y : Num) : Bool := !x.isNan && !y.isNan && !Num.lt x y && !Num.lt y x

/-- FMIN and FMAX of R186 in a format. -/
def Fmt.pick (f : Fmt) (wantMax : Bool) (x y : Nat) : Nat :=
  let a := f.decode x
  let b := f.decode y
  if a.isNan && b.isNan then f.nan
  else if a.isNan then y
  else if b.isNan then x
  else
    let less := Num.lt a b || (Num.eq a b && a.neg && !b.neg)
    if less == wantMax then y else x

/-- FCMP: the outcome and NV for a signalling relation of an unordered pair (R187). -/
def fcmpHolds (rel : BitVec 3) (x y : Nat) : Bool × Word :=
  let a := Fmt.f32.decode x
  let b := Fmt.f32.decode y
  let un := a.isNan || b.isNan
  match rel.toNat with
  | 0 => (Num.eq a b, 0)
  | 1 => (!Num.eq a b, 0)
  | 2 => (!un && Num.lt a b, if un then FpFlag.nv else 0)
  | 3 => (!un && !Num.lt a b, if un then FpFlag.nv else 0)
  | 4 => (!un && !Num.lt b a, if un then FpFlag.nv else 0)
  | 5 => (!un && Num.lt b a, if un then FpFlag.nv else 0)
  | 6 => (un, 0)
  | _ => (!un, 0)

/-! ## Functions (R188)

An irrational result is given by a magnitude from below with more bits than any rounding boundary of FP32 lies away from it,
and the `sticky` mark. -/

/-- The integer square root, one bit of the result at a time. -/
def isqrtFrom (x : Nat) : Nat → Nat → Nat
  | 0, r => r
  | i + 1, r => isqrtFrom x i (if (r + 2 ^ i) * (r + 2 ^ i) ≤ x then r + 2 ^ i else r)

/-- The integer square root. -/
def isqrt (x : Nat) : Nat := isqrtFrom x (Nat.log2 x / 2 + 1) 0

/-- √(m·2^e), m > 0, as a magnitude, its exponent and whether more follows. -/
def sqrtMag (m : Nat) (e : Int) : Nat × Int × Bool :=
  let s : Nat := if e % 2 = 0 then 64 else 65
  let x := m * 2 ^ s
  let r := isqrt x
  (r, (e - s) / 2, r * r != x)

/-- 1/(m·2^e), m > 0. -/
def rcpMag (m : Nat) (e : Int) : Nat × Int × Bool :=
  let k := Nat.log2 m + 64
  (2 ^ k / m, -(k : Int) - e, 2 ^ k % m != 0)

/-- 1/√(m·2^e), m > 0. -/
def rsqMag (m : Nat) (e : Int) : Nat × Int × Bool :=
  let k0 := Nat.log2 m + 128
  let k := if ((k0 : Int) + e) % 2 = 0 then k0 else k0 + 1
  let r := isqrt (2 ^ k / m)
  (r, -(((k : Int) + e) / 2), r * r * m != 2 ^ k)

/-- Bits of fixed-point fractions. -/
def fixBits : Nat := 320

/-- A fixed-point one. -/
def fixOne : Nat := 2 ^ fixBits

/-- ln 2 in fixed point, from below: the sum of 1 / (k·2^k). -/
def ln2Fix : Nat := (List.range 340).foldl (fun s i => s + fixOne / ((i + 1) * 2 ^ (i + 1))) 0

/-- The terms of the exponential series from the kth on. -/
def expTerms (t : Nat) : Nat → Nat → Nat → Nat → Nat
  | 0, _, _, s => s
  | n + 1, k, term, s =>
    let term := term * t / (k * fixOne)
    expTerms t n (k + 1) term (s + term)

/-- 2^u for a fixed-point u in [0, 1), from below. -/
def exp2Fix (u : Nat) : Nat := expTerms (u * ln2Fix / fixOne) 90 1 fixOne fixOne

/-- The terms of the series of the inverse hyperbolic tangent: z^(2k+1) / (2k+1). -/
def atanhTerms (z2 : Nat) : Nat → Nat → Nat → Nat → Nat
  | 0, _, _, s => s
  | n + 1, k, pow, s => atanhTerms z2 n (k + 2) (pow * z2 / fixOne) (s + pow / k)

/-- log₂ of a fixed-point x in [1, 2), to within 2^16 units. -/
def log2Fix (x : Nat) : Nat :=
  let z := (x - fixOne) * fixOne / (x + fixOne)
  2 * atanhTerms (z * z / fixOne) 110 1 z 0 * fixOne / ln2Fix

/-- More than the error of the fixed-point functions. -/
def fixSlack : Nat := 2 ^ 24

/-- A magnitude with the sticky mark, rounded into FP32. -/
def roundMore (neg : Bool) (r : Nat × Int × Bool) (mode : Mode) : Nat × Word := Fmt.f32.roundFin mode neg r.1 r.2.1 r.2.2

/-- 2^x for a finite x (R188): an integer x gives an exact power. -/
def exp2Fin (s : Bool) (m : Nat) (e : Int) : Nat × Word :=
  if m = 0 then Fmt.f32.roundFin 0 false 1 0 false
  else
    let den := 2 ^ (-e).toNat
    let num := m * 2 ^ e.toNat
    let n0 : Int := if s then -((num + den - 1) / den : Nat) else (num / den : Nat)
    let frac := if s then (den - num % den) % den else num % den
    if frac = 0 then Fmt.f32.roundFin 0 false 1 n0 false
    else Fmt.f32.roundFin 0 false (exp2Fix (frac * fixOne / den)) (n0 - fixBits) true

/-- log₂ of a positive finite x (R188): a power of two gives an exact integer. -/
def log2Fin (m : Nat) (e : Int) : Nat × Word :=
  let top : Int := e + Nat.log2 m
  let x := m * fixOne / 2 ^ Nat.log2 m
  if x = fixOne then Fmt.f32.round 0 (Num.ofInt top)
  else if top ≥ 0 then Fmt.f32.roundFin 0 false (top.toNat * fixOne + log2Fix x - fixSlack) (-(fixBits : Int)) true
  else Fmt.f32.roundFin 0 true ((-top).toNat * fixOne - log2Fix x - fixSlack) (-(fixBits : Int)) true

/-- tanh of a finite x ≠ 0 (R188): below 2^-30 it is x less a relative x²/3; from 64 up it is 1 less almost nothing; between,
(1 − y) / (1 + y) with y = e^(−2x). -/
def tanhFin (s : Bool) (m : Nat) (e : Int) : Nat × Word :=
  let top : Int := e + Nat.log2 m
  if top < -30 then Fmt.f32.roundFin 0 s (m * 2 ^ 40 - 1) (e - 40) true
  else if top ≥ 6 then Fmt.f32.roundFin 0 s (fixOne - 1) (-(fixBits : Int)) true
  else
    let t := if e ≥ 0 then m * 2 ^ e.toNat * fixOne else m * fixOne / 2 ^ (-e).toNat
    let u := 2 * t * fixOne / ln2Fix
    let n := u / fixOne + 1
    let y := exp2Fix (n * fixOne - u) / 2 ^ n
    Fmt.f32.roundFin 0 s ((fixOne - y) * fixOne / (fixOne + y) - fixSlack) (-(fixBits : Int)) true

/-- The canonical NaN of FP32 with NV. -/
def invalid : Nat × Word := (Fmt.f32.nan, FpFlag.nv)

/-- FSQRT (R188). -/
def fsqrt (mode : Mode) (x : Nat) : Nat × Word :=
  match Fmt.f32.decode x with
  | .nan => (Fmt.f32.nan, 0)
  | .inf s => if s then invalid else (x, 0)
  | .fin s m e => if m = 0 then (x, 0) else if s then invalid else roundMore false (sqrtMag m e) mode

/-- FRCP (R188). -/
def frcp (x : Nat) : Nat × Word :=
  match Fmt.f32.decode x with
  | .nan => (Fmt.f32.nan, 0)
  | .inf s => Fmt.f32.round 0 (.fin s 0 0)
  | .fin s m e => if m = 0 then ((Fmt.f32.round 0 (.inf s)).1, FpFlag.dz) else roundMore s (rcpMag m e) 0

/-- FRSQ (R188). -/
def frsq (x : Nat) : Nat × Word :=
  match Fmt.f32.decode x with
  | .nan => (Fmt.f32.nan, 0)
  | .inf s => if s then invalid else (0, 0)
  | .fin s m e =>
    if m = 0 then ((Fmt.f32.round 0 (.inf s)).1, FpFlag.dz) else if s then invalid else roundMore false (rsqMag m e) 0

/-- FEXP2 (R188). -/
def fexp2 (x : Nat) : Nat × Word :=
  match Fmt.f32.decode x with
  | .nan => (Fmt.f32.nan, 0)
  | .inf s => if s then (0, 0) else (x, 0)
  | .fin s m e => exp2Fin s m e

/-- FLOG2 (R188). -/
def flog2 (x : Nat) : Nat × Word :=
  match Fmt.f32.decode x with
  | .nan => (Fmt.f32.nan, 0)
  | .inf s => if s then invalid else (x, 0)
  | .fin s m e =>
    if m = 0 then ((Fmt.f32.round 0 (.inf true)).1, FpFlag.dz) else if s then invalid else log2Fin m e

/-- FTANH (R188). -/
def ftanh (x : Nat) : Nat × Word :=
  match Fmt.f32.decode x with
  | .nan => (Fmt.f32.nan, 0)
  | .inf s => Fmt.f32.round 0 (.fin s 1 0)
  | .fin s m e => if m = 0 then (x, 0) else tanhFin s m e

end Sys2Proof.Machine
end

