-- ==== Sys2Proof/Machine/Arith.lean ====
section
/-! DEFINITION. The words on floating point, packed elements, conversions, codebooks and format tags (R180 to R201). -/

namespace Sys2Proof.Machine

/-! ## Source formats (R180) -/

/-- A tag that names a format. -/
def Tag.real (t : Tag) : Bool := t != .raw && t != .poison

/-- The source format of a lane: the tag its format registers share, or the RAW reading. -/
def State.format (s : State) (xs : List Src) (rawTag : Tag) (l : Nat) : Tag :=
  ((xs.map (fun x => (Group.cell s.g (srcLane x.uni l) x.reg).tag)).find? Tag.real).getD rawTag

/-- Two format registers of a lane carry different formats. -/
def State.mixedFormats (s : State) (xs : List Src) : Bool :=
  (Mask.lanes s.cur.mask).any (fun l =>
    xs.any (fun x => let t := (Group.cell s.g (srcLane x.uni l) x.reg).tag; t.real && t != State.format s xs .raw l))

/-- The elements of a register of a format: how many, and their width (R160). -/
def Tag.elements (t : Tag) : Nat × Nat :=
  match t with
  | .bf16x2 => (2, 16) | .f16x2 => (2, 16) | .i16x2 => (2, 16)
  | .e4m3x4 => (4, 8) | .e5m2x4 => (4, 8) | .i8x4 => (4, 8) | .e8m0x4 => (4, 8)
  | .e2m1x8 => (8, 4) | .cb4x8 => (8, 4)
  | _ => (1, 32)

/-- The floating-point format of a tag's elements. -/
def Tag.fmt (t : Tag) : Fmt :=
  match t with
  | .bf16x2 => .bf16 | .f16x2 => .f16 | .e4m3x4 => .e4m3 | .e5m2x4 => .e5m2 | .e2m1x8 => .e2m1
  | _ => .f32

/-- Element `i` of a word with elements of `w` bits (R160). -/
def element (x : Word) (i w : Nat) : Nat := bits x.toNat (i * w) w

/-- A word from its elements (R160). -/
def pack (w : Nat) (es : List Nat) : Word := BitVec.ofNat 32 (es.foldr (fun e r => e + 2 ^ w * r) 0)

/-- The tag of a code (R116). -/
def tagOf (n : Nat) : Tag :=
  match n with
  | 1 => .i32 | 2 => .f32 | 3 => .bf16x2 | 4 => .f16x2 | 5 => .e4m3x4 | 6 => .e5m2x4 | 7 => .e2m1x8 | 8 => .cb4x8
  | 9 => .i8x4 | 10 => .i16x2 | 11 => .e8m0x4 | 12 => .addr | 13 => .poison
  | _ => .raw

/-- The code of a tag (R116). -/
def Tag.code : Tag → Nat
  | .raw => 0 | .i32 => 1 | .f32 => 2 | .bf16x2 => 3 | .f16x2 => 4 | .e4m3x4 => 5 | .e5m2x4 => 6 | .e2m1x8 => 7
  | .cb4x8 => 8 | .i8x4 => 9 | .i16x2 => 10 | .e8m0x4 => 11 | .addr => 12 | .poison => 13

/-- A lane-by-lane word with a source format: `xs` are the registers whose format it reads, `ys` its other sources. In each
active lane `f` gives the result registers, their tag and the flags, which are ORed into FPFLAGS (R180, R181, R183). -/
def State.fpOp (s : State) (xs ys : List Src) (rawTag : Tag) (lat d n : Nat)
    (f : State → Tag → Nat → List Word × Tag × Word) : Eff :=
  State.withSources s (xs ++ ys) (fun s =>
    if State.mixedFormats s xs then .trap s .format s.cur.mask 0
    else
      let r := fun l => f s (State.format s xs rawTag l) l
      let flags := (Mask.lanes s.cur.mask).foldl (fun v l => v ||| (r l).2.2) 0
      .ok (State.raise (State.results s (xs ++ ys) lat d n (fun l => (r l).1.map (fun w => (w, (r l).2.1))) (fun _ => none))
        flags lat))

/-! ## Scalar floating point (R185 to R188) -/

/-- A binary FP32 word; `z` adds vd as a source. -/
def State.f32op (s : State) (u z : Bool) (d a b : RegNo) (lat : Nat) (f : Nat → Nat → Nat → Nat × Word) : Eff :=
  State.fpOp s ([src1 a false [.f32], src1 b u [.f32]] ++ (if z then [src1 d false [.f32]] else [])) [] .f32 lat d.toNat 1
    (fun s _ l =>
      let (r, g) := f (State.src s l a.toNat false).toNat (State.src s l b.toNat u).toNat (State.src s l d.toNat false).toNat
      ([BitVec.ofNat 32 r], .f32, g))

/-- A unary FP32 word. -/
def State.f32un (s : State) (d a : RegNo) (lat : Nat) (f : Nat → Nat × Word) : Eff :=
  State.fpOp s [src1 a false [.f32]] [] .f32 lat d.toNat 1 (fun s _ l =>
    let (r, g) := f (State.src s l a.toNat false).toNat
    ([BitVec.ofNat 32 r], .f32, g))

/-- A word whose elements the shadow checks (R178, R179): `check` gives an element's result and its exact addends. A divergence
voids the word; the shadow's disturbance is over with the word that meets it. -/
def State.shadowed (s : State) (n : Nat) (check : Nat → Nat → Num × List Num) (e : Eff) : Eff :=
  match s.strike, e with
  | some (.shadow l i h), .ok t =>
    if s.cur.mask.getLsbD l && decide (i < n) then
      let (r, adds) := check l i
      if diverges r h && !suppressed r adds then .bad .shadow else .ok { t with strike := none }
    else .ok t
  | _, e => e

/-- An FP32 word of R185, which the shadow checks; `adds` are its addends. -/
def State.f32checked (s : State) (u z : Bool) (d a b : RegNo) (f : Nat → Nat → Nat → Nat × Word)
    (adds : Num → Num → Num → List Num) : Eff :=
  State.shadowed s 1 (fun l _ =>
    let x := (State.src s l a.toNat false).toNat
    let y := (State.src s l b.toNat u).toNat
    let w := (State.src s l d.toNat false).toNat
    (Fmt.f32.decode (f x y w).1, adds (Fmt.f32.decode x) (Fmt.f32.decode y) (Fmt.f32.decode w)))
    (State.f32op s u z d a b 6 f)

/-- FADD -/
def execFadd (u : Bool) (rm : BitVec 2) (d a b : RegNo) (s : State) : Out :=
  issue (.fadd u rm d a b) (fun s =>
    State.f32checked s u false d a b (fun x y _ => Fmt.f32.add rm x y) (fun x y _ => [x, y])) s

/-- FSUB -/
def execFsub (u : Bool) (rm : BitVec 2) (d a b : RegNo) (s : State) : Out :=
  issue (.fsub u rm d a b) (fun s =>
    State.f32checked s u false d a b (fun x y _ => Fmt.f32.sub rm x y) (fun x y _ => [x, y])) s

/-- FMUL -/
def execFmul (u : Bool) (rm : BitVec 2) (d a b : RegNo) (s : State) : Out :=
  issue (.fmul u rm d a b) (fun s =>
    State.f32checked s u false d a b (fun x y _ => Fmt.f32.mul rm x y) (fun _ _ _ => [])) s

/-- FFMA -/
def execFfma (u : Bool) (rm : BitVec 2) (d a b : RegNo) (s : State) : Out :=
  issue (.ffma u rm d a b) (fun s =>
    State.f32checked s u true d a b (fun x y z => Fmt.f32.fma rm x y (Fmt.f32.decode z))
      (fun x y z => [(Num.mul x y).1, z])) s

/-- FFMS -/
def execFfms (u : Bool) (rm : BitVec 2) (d a b : RegNo) (s : State) : Out :=
  issue (.ffms u rm d a b) (fun s =>
    State.f32checked s u true d a b (fun x y z => Fmt.f32.fma rm x y (Num.negate (Fmt.f32.decode z)))
      (fun x y z => [(Num.mul x y).1, z])) s

/-- FMIN -/
def execFmin (u : Bool) (d a b : RegNo) (s : State) : Out :=
  issue (.fmin u d a b) (fun s => State.f32op s u false d a b 4 (fun x y _ => (Fmt.f32.pick false x y, 0))) s

/-- FMAX -/
def execFmax (u : Bool) (d a b : RegNo) (s : State) : Out :=
  issue (.fmax u d a b) (fun s => State.f32op s u false d a b 4 (fun x y _ => (Fmt.f32.pick true x y, 0))) s

/-- A change of sign that gives the canonical NaN for a NaN (R186). -/
def signOp (f : Nat → Nat) (x : Nat) : Nat × Word := (if (Fmt.f32.decode x).isNan then Fmt.f32.nan else f x, 0)

/-- FNEG -/
def execFneg (d a : RegNo) (s : State) : Out :=
  issue (.fneg d a) (fun s => State.f32un s d a 4 (signOp (fun x => x ^^^ 0x80000000))) s

/-- FABS -/
def execFabs (d a : RegNo) (s : State) : Out :=
  issue (.fabs d a) (fun s => State.f32un s d a 4 (signOp (fun x => x % 0x80000000))) s

/-- FCPSGN: a NaN y gives its sign as 0 (R186). -/
def copySign (x y : Nat) : Nat × Word :=
  signOp (fun x => x % 0x80000000 + (if (Fmt.f32.decode y).neg then 0x80000000 else 0)) x

/-- FCPSGN -/
def execFcpsgn (u : Bool) (d a b : RegNo) (s : State) : Out :=
  issue (.fcpsgn u d a b) (fun s => State.f32op s u false d a b 4 (fun x y _ => copySign x y)) s

/-- FCMP -/
def execFcmp (rel : BitVec 3) (d a b : RegNo) (s : State) : Out :=
  issue (.fcmp rel d a b) (fun s =>
    State.fpOp s [src1 a false [.f32], src1 b false [.f32]] [] .f32 4 d.toNat 1 (fun s _ l =>
      let (r, g) := fcmpHolds rel (State.src s l a.toNat false).toNat (State.src s l b.toNat false).toNat
      ([boolWord r], .i32, g))) s

/-- FSQRT -/
def execFsqrt (rm : BitVec 2) (d a : RegNo) (s : State) : Out :=
  issue (.fsqrt rm d a) (fun s => State.f32un s d a 16 (fsqrt rm)) s

/-- FRCP -/
def execFrcp (d a : RegNo) (s : State) : Out := issue (.frcp d a) (fun s => State.f32un s d a 16 frcp) s

/-- FRSQ -/
def execFrsq (d a : RegNo) (s : State) : Out := issue (.frsq d a) (fun s => State.f32un s d a 16 frsq) s

/-- FEXP2 -/
def execFexp2 (d a : RegNo) (s : State) : Out := issue (.fexp2 d a) (fun s => State.f32un s d a 18 fexp2) s

/-- FLOG2 -/
def execFlog2 (d a : RegNo) (s : State) : Out := issue (.flog2 d a) (fun s => State.f32un s d a 18 flog2) s

/-- FTANH -/
def execFtanh (d a : RegNo) (s : State) : Out := issue (.ftanh d a) (fun s => State.f32un s d a 18 ftanh) s

/-! ## Packed pairs (R189) -/

/-- The tags of packed pairs. -/
def halfTags : List Tag := [.bf16x2, .f16x2]

/-- A packed-pair word: `f` on each element in the source format. -/
def State.halfOp (s : State) (u z : Bool) (d a b : RegNo) (lat : Nat) (f : Fmt → Nat → Nat → Nat → Nat × Word) : Eff :=
  State.fpOp s ([src1 a false halfTags, src1 b u halfTags] ++ (if z then [src1 d false halfTags] else [])) [] .bf16x2 lat
    d.toNat 1 (fun s t l =>
      let x := State.src s l a.toNat false
      let y := State.src s l b.toNat u
      let w := State.src s l d.toNat false
      let rs := [0, 1].map (fun i => f t.fmt (element x i 16) (element y i 16) (element w i 16))
      ([pack 16 (rs.map (fun r => r.1))], t, rs.foldl (fun g r => g ||| r.2) 0))

/-- A packed-pair word that the shadow checks element by element (R178). R179 does not name HADD2's addends: they are its
operands, as FADD's are (DEDUCED, log entry 15). -/
def State.halfChecked (s : State) (u z : Bool) (d a b : RegNo) (f : Fmt → Nat → Nat → Nat → Nat × Word)
    (adds : Num → Num → Num → List Num) : Eff :=
  let xs := [src1 a false halfTags, src1 b u halfTags] ++ (if z then [src1 d false halfTags] else [])
  State.shadowed s 2 (fun l i =>
    let m := (State.format s xs .bf16x2 l).fmt
    let x := element (State.src s l a.toNat false) i 16
    let y := element (State.src s l b.toNat u) i 16
    let w := element (State.src s l d.toNat false) i 16
    (m.decode (f m x y w).1, adds (m.decode x) (m.decode y) (m.decode w)))
    (State.halfOp s u z d a b 6 f)

/-- HADD2 -/
def execHadd2 (u : Bool) (rm : BitVec 2) (d a b : RegNo) (s : State) : Out :=
  issue (.hadd2 u rm d a b) (fun s =>
    State.halfChecked s u false d a b (fun m x y _ => m.add rm x y) (fun x y _ => [x, y])) s

/-- HMUL2 -/
def execHmul2 (u : Bool) (rm : BitVec 2) (d a b : RegNo) (s : State) : Out :=
  issue (.hmul2 u rm d a b) (fun s =>
    State.halfChecked s u false d a b (fun m x y _ => m.mul rm x y) (fun _ _ _ => [])) s

/-- HFMA2 -/
def execHfma2 (u : Bool) (rm : BitVec 2) (d a b : RegNo) (s : State) : Out :=
  issue (.hfma2 u rm d a b) (fun s =>
    State.halfChecked s u true d a b (fun m x y z => m.fma rm x y (m.decode z)) (fun x y z => [(Num.mul x y).1, z])) s

/-- HMAX2 -/
def execHmax2 (u : Bool) (d a b : RegNo) (s : State) : Out :=
  issue (.hmax2 u d a b) (fun s => State.halfOp s u false d a b 4 (fun m x y _ => (m.pick true x y, 0))) s

/-! ## Integer dot product (R190) -/

/-- An 8-bit element as an integer, unsigned when `z`. -/
def byteInt (z : Bool) (n : Nat) : Int := if z then (n : Int) else (BitVec.ofNat 8 n).toInt

/-- The sum of the four products. -/
def dot4 (z : Bool) (x y : Word) : Int :=
  ([0, 1, 2, 3].map (fun i => byteInt z (element x i 8) * byteInt z (element y i 8))).foldl (fun p q => p + q) 0

/-- IDP4, signed or (z) unsigned -/
def execIdp4 (u z : Bool) (d a b : RegNo) (s : State) : Out :=
  issue (.idp4 u z d a b) (fun s =>
    State.laneOp s [src1 a false [.i8x4], src1 b u [.i8x4], src1 d false [.i32]] 6 d.toNat 1 (fun s l =>
      [(State.src s l d.toNat false + BitVec.ofInt 32 (dot4 z (State.src s l a.toNat false) (State.src s l b.toNat u)), .i32)])) s

/-! ## Conversions (R191 to R193) -/

/-- The value of an element of a register of a format: floating point, or a signed integer. -/
def Tag.value (t : Tag) (e : Nat) : Num :=
  match t with
  | .i32 => Num.ofInt (BitVec.ofNat 32 e).toInt
  | .i16x2 => Num.ofInt (BitVec.ofNat 16 e).toInt
  | .i8x4 => Num.ofInt (BitVec.ofNat 8 e).toInt
  | t => t.fmt.decode e

/-- A value rounded into an element of a format (R168 to R172). -/
def Tag.round (t : Tag) (mode : Mode) (x : Num) : Nat × Word :=
  match t with
  | .i32 => roundToInt 32 mode x
  | .i16x2 => roundToInt 16 mode x
  | .i8x4 => roundToInt 8 mode x
  | t => t.fmt.round mode x

/-- Elements rounded one by one, with their flags. -/
def roundAll (t : Tag) (mode : Mode) (xs : List Num) : List Nat × Word :=
  let rs := xs.map (Tag.round t mode)
  (rs.map (fun r => r.1), rs.foldl (fun g r => g ||| r.2) 0)

/-- A conversion between formats with the same number of elements (R191). -/
def State.convert (s : State) (rm : BitVec 2) (d a : RegNo) (t : Tag) (accept : List Tag) (rawTag : Tag) : Eff :=
  State.fpOp s [src1 a false accept] [] rawTag 5 d.toNat 1 (fun s f l =>
    let x := State.src s l a.toNat false
    let (n, w) := f.elements
    let (es, g) := roundAll t rm ((List.range n).map (fun i => f.value (element x i w)))
    ([pack w es], t, g))

/-- CVTF -/
def execCvtf (rm : BitVec 2) (d a : RegNo) (tgt : BitVec 4) (s : State) : Out :=
  issue (.cvtf rm d a tgt) (fun s =>
    match tagOf tgt.toNat with
    | .f32 => State.f32un s d a 5 (signOp (fun x => x))
    | .bf16x2 => State.convert s rm d a .bf16x2 [.f16x2] .f16x2
    | .f16x2 => State.convert s rm d a .f16x2 [.bf16x2] .bf16x2
    | .e4m3x4 => State.convert s rm d a .e4m3x4 [.e5m2x4] .e5m2x4
    | t => State.convert s rm d a t [.e4m3x4] .e4m3x4) s

/-- CVTI -/
def execCvti (rm : BitVec 2) (d a : RegNo) (tgt : BitVec 4) (s : State) : Out :=
  issue (.cvti rm d a tgt) (fun s =>
    match tagOf tgt.toNat with
    | .f32 => State.convert s rm d a .f32 [.i32] .i32
    | t => State.convert s rm d a t [.i16x2] .i16x2) s

/-- CVTFI -/
def execCvtfi (rm : BitVec 2) (d a : RegNo) (tgt : BitVec 4) (s : State) : Out :=
  issue (.cvtfi rm d a tgt) (fun s =>
    match tagOf tgt.toNat with
    | .i32 => State.convert s rm d a .i32 [.f32] .f32
    | t => State.convert s rm d a t halfTags .bf16x2) s

/-- PK2 and PK4: element k of vd from register va + k (R192). -/
def State.packRun (s : State) (rm : BitVec 2) (d a : RegNo) (n : Nat) (t : Tag) : Eff :=
  let f : Tag := if t == .i16x2 || t == .i8x4 then .i32 else .f32
  State.fpOp s (srcRun a.toNat n false [f] .value) [] f 5 d.toNat 1 (fun s _ l =>
    let (es, g) := roundAll t rm ((List.range n).map (fun k => f.value (State.src s l (a.toNat + k) false).toNat))
    ([pack (32 / n) es], t, g))

/-- PK2 -/
def execPk2 (rm : BitVec 2) (d a : RegNo) (tgt : BitVec 4) (s : State) : Out :=
  issue (.pk2 rm d a tgt) (fun s => State.packRun s rm d a 2 (tagOf tgt.toNat)) s

/-- PK4 -/
def execPk4 (rm : BitVec 2) (d a : RegNo) (tgt : BitVec 4) (s : State) : Out :=
  issue (.pk4 rm d a tgt) (fun s => State.packRun s rm d a 4 (tagOf tgt.toNat)) s

/-- UNPK2 and UNPK4: element k of va into register vd + k, exactly (R193). -/
def State.unpackRun (s : State) (d a : RegNo) (n : Nat) (t : Tag) (accept : List Tag) (rawTag : Tag) : Eff :=
  State.fpOp s [src1 a false accept] [] rawTag 5 d.toNat n (fun s f l =>
    let x := State.src s l a.toNat false
    ((List.range n).map (fun k => BitVec.ofNat 32 (Tag.round t 0 (f.value (element x k (32 / n)))).1), t, 0))

/-- UNPK2 -/
def execUnpk2 (d a : RegNo) (tgt : BitVec 4) (s : State) : Out :=
  issue (.unpk2 d a tgt) (fun s =>
    match tagOf tgt.toNat with
    | .f32 => State.unpackRun s d a 2 .f32 halfTags .bf16x2
    | t => State.unpackRun s d a 2 t [.i16x2] .i16x2) s

/-- UNPK4 -/
def execUnpk4 (d a : RegNo) (tgt : BitVec 4) (s : State) : Out :=
  issue (.unpk4 d a tgt) (fun s =>
    match tagOf tgt.toNat with
    | .f32 => State.unpackRun s d a 4 .f32 [.e4m3x4, .e5m2x4] .e4m3x4
    | t => State.unpackRun s d a 4 t [.i8x4] .i8x4) s

/-! ## Codebooks and 4-bit elements (R166, R195 to R199) -/

/-- Entry `i` of a codebook slot, a BF16 code. -/
def Group.codebook (g : Group) (slot i : Nat) : Nat := ((g.codebooks.getD slot []).getD i 0).toNat

/-- A word that decodes through slot CBS: REGDEP while the slot is pending, ILLEGAL at or above CB after the format checks
(R166, R194). -/
def State.decodeOp (s : State) (xs : List Src) (rawTag : Tag) (lat d n : Nat)
    (f : State → Tag → Nat → List Word × Tag × Word) : Eff :=
  if State.slotPending s s.g.cbs.toNat then .stall .regdep []
  else match State.fpOp s xs [] rawTag lat d n f with
    | .ok t => if s.g.cbs.toNat ≥ s.g.lr.cb then .trap s .illegal s.cur.mask 0 else .ok t
    | .bad c => if s.g.cbs.toNat ≥ s.g.lr.cb then .trap s .illegal s.cur.mask 0 else .bad c
    | e => e

/-- Sixteen-bit elements as a run of words. -/
def packHalves : List Nat → List Word
  | x :: y :: r => pack 16 [x, y] :: packHalves r
  | [x] => [pack 16 [x]]
  | [] => []

/-- CBSEL: CBS := k for the group once (R195) -/
def execCbsel (imm : BitVec 3) (s : State) : Out :=
  issue (.cbsel imm) (fun s => .ok (State.updG s (fun g => { g with cbs := imm }))) s

/-- DQCB -/
def execDqcb (rm : BitVec 2) (d a : RegNo) (tgt : BitVec 4) (s : State) : Out :=
  issue (.dqcb rm d a tgt) (fun s =>
    let t := tagOf tgt.toNat
    State.decodeOp s [src1 a false [.cb4x8]] .cb4x8 5 d.toNat 4 (fun s _ l =>
      let x := State.src s l a.toNat false
      let (es, g) := roundAll t rm ((List.range 8).map (fun k =>
        Fmt.bf16.decode (Group.codebook s.g s.g.cbs.toNat (element x k 4))))
      (packHalves es, t, g))) s

/-- The distance of two values that are not NaN, in units of 2^-200, none when it is infinite (R197). -/
def distance (x y : Num) : Option Nat :=
  match x, y with
  | .fin a m e, .fin b n k => some (alignTo a m e (-200) - alignTo b n k (-200)).natAbs
  | .inf a, .inf b => if a == b then some 0 else none
  | _, _ => none

/-- Two distances, an infinite one the greatest. -/
def nearer (x y : Option Nat) : Bool :=
  match x, y with
  | some a, some b => decide (a < b)
  | some _, none => true
  | none, _ => false

/-- The lowest index of a list whose entry is best: `better x y` says x beats y. -/
def bestIndex {α : Type} (better : α → α → Bool) (l : List (Nat × α)) : Option Nat :=
  (l.foldl (fun (r : Option (Nat × α)) p =>
    match r with
    | none => some p
    | some q => if better p.2 q.2 then some p else some q) none).map (fun p => p.1)

/-- |x| ≤ |y|. -/
def magLe (x y : Num) : Bool :=
  let pos := fun (v : Num) => match v with | .fin _ m e => Num.fin false m e | .inf _ => .inf false | .nan => .nan
  !Num.lt (pos y) (pos x)

/-- The entries a rounding mode of QCB admits (R197). -/
def qcbAdmits (mode : Mode) (v e : Num) : Bool :=
  match mode.toNat with
  | 0 => true
  | 1 => magLe e v && (e.isZero || e.neg == v.neg)
  | 2 => !Num.lt e v
  | _ => !Num.lt v e

/-- The index QCB takes for an element, and its flags (R197). -/
def quantise (mode : Mode) (book : List Num) (v : Num) : Nat × Word :=
  let es := (List.range book.length).zip book
  let good := es.filter (fun p => !p.2.isNan)
  let same := fun (i : Nat) => let e := book.getD i .nan; (e.isNan && v.isNan) || Num.eq e v
  let (i, nv) : Nat × Word :=
    if v.isNan then
      match es.find? (fun p => p.2.isNan) with
      | some p => (p.1, 0)
      | none => (0, FpFlag.nv)
    else if good.isEmpty then (0, FpFlag.nv)
    else
      let isInf := match v with | .inf _ => true | _ => false
      if isInf && !good.any (fun p => Num.eq p.2 v) then
        ((bestIndex (fun x y => if v.neg then Num.lt x y else Num.lt y x) good).getD 0, FpFlag.nv)
      else
        let c := good.filter (fun p => qcbAdmits mode v p.2)
        let c := if c.isEmpty then good else c
        ((bestIndex nearer (c.map (fun p => (p.1, distance p.2 v)))).getD 0, 0)
  (i, if same i then nv else nv ||| FpFlag.nx)

/-- The eight 16-bit elements of a run of 4 registers. -/
def State.run8 (s : State) (a l : Nat) : List Nat :=
  (List.range 8).map (fun k => element (State.src s l (a + k / 2) false) (k % 2) 16)

/-- QCB -/
def execQcb (rm : BitVec 2) (d a : RegNo) (s : State) : Out :=
  issue (.qcb rm d a) (fun s =>
    State.decodeOp s (srcRun a.toNat 4 false halfTags .value) .bf16x2 8 d.toNat 1 (fun s t l =>
      let book := (List.range 16).map (fun i => Fmt.bf16.decode (Group.codebook s.g s.g.cbs.toNat i))
      let rs := (State.run8 s a.toNat l).map (fun e => quantise rm book (t.fmt.decode e))
      ([pack 4 (rs.map (fun r => r.1))], .cb4x8, rs.foldl (fun g r => g ||| r.2) 0))) s

/-- A value times 2 to the k. -/
def Num.scale (x : Num) (k : Int) : Num :=
  match x with
  | .fin s m e => .fin s m (e + k)
  | x => x

/-- DQE2: the scale byte of va + 1 is 2^(s − 127), 0xFF makes every element NaN and raises NV (R198) -/
def execDqe2 (rm : BitVec 2) (d a : RegNo) (tgt : BitVec 4) (s : State) : Out :=
  issue (.dqe2 rm d a tgt) (fun s =>
    let t := tagOf tgt.toNat
    State.fpOp s [src1 a false [.e2m1x8]] [{ reg := a.toNat + 1, uni := false, tags := [.e8m0x4], use := .value }] .e2m1x8 5
      d.toNat 4 (fun s _ l =>
        let x := State.src s l a.toNat false
        let k := bits (State.src s l (a.toNat + 1) false).toNat 0 8
        if k = 255 then (packHalves (List.replicate 8 t.fmt.nan), t, FpFlag.nv)
        else
          let (es, g) := roundAll t rm ((List.range 8).map (fun i =>
            Num.scale (Fmt.e2m1.decode (element x i 4)) ((k : Int) - 127)))
          (packHalves es, t, g))) s

/-- QE2: the scale byte of vd + 1; a zero of either sign gives code 0 (R199) -/
def execQe2 (rm : BitVec 2) (d a : RegNo) (s : State) : Out :=
  issue (.qe2 rm d a) (fun s =>
    State.fpOp s (srcRun a.toNat 4 false halfTags .value)
      [{ reg := d.toNat + 1, uni := false, tags := [.e8m0x4], use := .value }] .bf16x2 5 d.toNat 1 (fun s t l =>
        let k := bits (State.src s l (d.toNat + 1) false).toNat 0 8
        if k = 255 then ([0], .e2m1x8, FpFlag.nv)
        else
          let rs := (State.run8 s a.toNat l).map (fun e =>
            let (c, g) := Fmt.e2m1.round rm (Num.scale (t.fmt.decode e) (127 - (k : Int)))
            (if c = 8 then 0 else c, g))
          ([pack 4 (rs.map (fun r => r.1))], .e2m1x8, rs.foldl (fun g r => g ||| r.2) 0))) s

/-! ## Format tags (R200, R201) -/

/-- TAGRD: the tag code; neither contents nor poison are read -/
def execTagrd (d a : RegNo) (s : State) : Out :=
  issue (.tagrd d a) (fun s => State.laneOp s [] 4 d.toNat 1 (fun s l =>
    [(BitVec.ofNat 32 (Tag.code (State.srcCell s l a.toNat false).tag), .i32)])) s

/-- TAGSET: the same bits under another tag; POISON stays POISON -/
def execTagset (d a : RegNo) (tgt : BitVec 4) (s : State) : Out :=
  issue (.tagset d a tgt) (fun s => State.laneOp s [src1 a false []] 4 d.toNat 1 (fun s l =>
    [(State.src s l a.toNat false, tagOf tgt.toNat)])) s

end Sys2Proof.Machine
end

