-- ==== Sys2Proof/Machine/MemWords.lean ====
section
/-! DEFINITION. Loads, stores and LDCB (R194, R218 to R224), MODW (R348), and the same words inside an atomic region (R286 to
R290). -/

namespace Sys2Proof.Machine

/-! ## Checks shared by memory words (R211, R216, R219) -/

/-- The byte offset of an MO word (R97). -/
def moOffset (off : BitVec 7) (bytes : Nat) : DWord := BitVec.signExtend 64 off * BitVec.ofNat 64 bytes

/-- The address of every active lane (R218). -/
def State.accesses (s : State) (a : RegNo) (off : DWord) (len : Nat) : List Access :=
  (Mask.lanes s.cur.mask).map (fun l => { lane := l, addr := Group.reg64 s.g l a.toNat + off, len := len })

/-- The lanes of some accesses that meet a condition, and the address of the lowest. -/
def lanesWhere (accs : List Access) (p : Access → Bool) : Option (Mask × DWord) :=
  match accs.filter p with
  | [] => none
  | x :: r => some (maskOf (fun l => (x :: r).any (fun y => y.lane == l)), x.addr)

/-- ALIGN for the lanes whose address is no multiple of `n`. -/
def State.aligned (s : State) (accs : List Access) (n : Nat) (k : Eff) : Eff :=
  match lanesWhere accs (fun x => x.addr.toNat % n != 0) with
  | some (m, a) => .trap s .align m a
  | none => k

/-- A word that waits leaves these steps of other agents to be made too. -/
def Eff.wanting (want : List Instr) : Eff → Eff
  | .stall r w => .stall r (w ++ want)
  | e => e

/-- Step 4 of R219: the classification of R79 over every page of every access, which are looked up first (R78); what the lookups
fill stands whatever the word then meets. -/
def State.classifiedAll (s : State) (accs : List (Need × Access)) (k : State → List Piece → Eff) : Eff :=
  let t := State.lookUp s s.g.hall s.g.ctx accs
  match State.classifyAll t s.g.hall s.g.ctx accs with
  | .ok ps => Eff.wanting (State.fills s s.g.hall s.g.ctx accs) (k t ps)
  | .trap c m a => .trap t c m a
  | .fault pages => .fault t pages
  | .migrating => .stall .xlate (State.fills s s.g.hall s.g.ctx accs)
  | .verdict ls => .stall .xlate (State.fills s s.g.hall s.g.ctx accs ++ ls.map .tagVerdict)

/-- The same where every lane needs one thing. -/
def State.classified (s : State) (need : Need) (accs : List Access) (k : State → List Piece → Eff) : Eff :=
  State.classifiedAll s (accs.map (fun a => (need, a))) k

/-- The pieces of some accesses as their pages are translated now. -/
def State.pieces (s : State) (accs : List Access) : List Piece :=
  accs.flatMap (fun a => (Access.pieces a).map (fun p =>
    { lane := a.lane, addr := p.1, len := p.2,
      leaf := match State.translate s s.g.hall s.g.ctx (vaOf p.1) with | .leaf l _ => l | .absent => 0 }))

/-- The classification of a word that may wait parked: it is made at the issue, once. -/
def State.classifiedOnce (s : State) (need : Need) (accs : List Access) (k : State → List Piece → Eff) : Eff :=
  if s.g.wait.isSome then k s (State.pieces s accs) else State.classified s need accs k

/-- Step 5 of R219: PROT for the lanes whose page has a property beyond R79. -/
def State.leafProt (s : State) (ps : List Piece) (bad : DWord → Bool) (k : Eff) : Eff :=
  match ps.filter (fun p => bad p.leaf) with
  | [] => k
  | p :: r =>
    let low := r.foldl (fun x y => if y.lane < x.lane then y else x) p
    .trap s .prot (maskOf (fun l => (p :: r).any (fun y => y.lane == l))) low.addr

/-- A range scoreboard entry overlaps a virtual run, in 32-byte granules (R210, R211). -/
def RangeEntry.hitsGlobal (r : RangeEntry) (c va len : Nat) : Bool :=
  !r.scratch && r.ctx == c && decide (va / 32 * 32 < r.hi) && decide (r.lo < (va + len + 31) / 32 * 32)

/-- A range scoreboard entry overlaps a run of a block's scratchpad. -/
def RangeEntry.hitsScratch (r : RangeEntry) (c seq blk off len : Nat) : Bool :=
  r.scratch && r.ctx == c && r.seq == seq && r.blk == blk && decide (off < r.hi) && decide (r.lo < off + len)

/-- A global run of the group overlaps a recorded range of its hall (R211). -/
def State.rangeHit (s : State) (accs : List Access) : Bool :=
  accs.any (fun a => (State.hall s s.g.hall).ranges.any (fun r => RangeEntry.hitsGlobal r s.g.ctx (vaOf a.addr) a.len))

/-- Memory requests outstanding in a hall (R216). -/
def State.requests (s : State) (h : Nat) : Nat :=
  ((State.allGroups s).filter (fun g => g.hall == h)).foldl (fun n g => n + g.lcnt + g.scnt + g.acnt + g.held.length) 0

/-- A word that would raise a counter above 255, or finds the hall's requests full, waits (R216). -/
def State.busyPipe (s : State) (counter : Nat) : Bool :=
  decide (counter ≥ Config.maxCounter) || decide (State.requests s s.g.hall ≥ Config.maxRequests)

/-- An SMAP or SDROP of the block is not done: its global accesses wait (R227). -/
def State.stashWait (s : State) : Bool :=
  match State.block? s s.g.ctx s.g.seq s.g.blk with
  | some b => b.stashCmds.any (fun c => c.kind != 1)
  | none => false

/-- What remains before a global access of the group is accepted: the range scoreboard and the counters. -/
def State.accepted (s : State) (accs : List Access) (counter : Nat) (k : Eff) : Eff :=
  if State.rangeHit s accs then .stall .range []
  else if State.busyPipe s counter then .stall .pipebusy []
  else k

/-- An operation is outstanding from now on. -/
def Group.issueOp (g : Group) (op : OutOp) (mask : Mask) (parts : List LanePart) : Group :=
  { g with
    outst := g.outst ++ [{ no := g.nextNo, op := op, mask := mask, parts := parts, region := g.regions, lc := g.lc, sent := none }],
    nextNo := g.nextNo + 1 }

/-- A store word is buffered until its region ends (R216). -/
def Group.bufferStore (g : Group) (scratch modw : Bool) (scope : BitVec 3) (ord : BitVec 2) (parts : List StorePart) : Group :=
  { g with
    sbuf := g.sbuf ++ [{ no := g.nextNo, lc := g.lc, scratch := scratch, modw := modw, scope := scope, ord := ord, parts := parts }],
    scnt := g.scnt + 1, nextNo := g.nextNo + 1 }

/-! ## Region accesses (R287, R288, R290) -/

/-- The 32-byte granules a lane's region has in a list and would have with a run added. -/
def withGranules (have_ : List Nat) (bytes : List Nat) : List Nat := (have_ ++ bytes.map (fun a => a / 32)).eraseDups

/-- The bytes of a run that a region load reads from memory: no store of the lane covers them and they have not been read. -/
def LaneRegion.freshBytes (r : LaneRegion) (no va len : Nat) : List Nat :=
  ((List.range len).map (fun i => va + i)).filter (fun a =>
    (LaneRegion.ownByte r no a).isNone && LaneRegion.inputAt r (a / 4 * 4) == 0 && (lookup r.exact a).isNone)

/-- The words of a run that become new inputs: naturally aligned .w or .d, no byte stored or read before, while fewer than 8
inputs exist (R288). -/
def LaneRegion.addInputs (r : LaneRegion) (no va sz : Nat) : LaneRegion :=
  if (sz == 2 || sz == 3) && va % sizeBytes sz == 0 then
    ((List.range (sizeRegs sz)).map (fun i => va + 4 * i)).foldl (fun r w =>
      if r.inputs.length < 8 && (LaneRegion.freshBytes r no w 4).length == 4 then
        { r with inputs := r.inputs ++ [{ addr := w, val := none, exact := false }] }
      else r) r
  else r

/-- Where a piece of a load lies. -/
def State.pieceAt (s : State) (p : Piece) : Nat := State.physOf s s.g.ctx p.leaf true (vaOf p.addr)

/-- A lane's region notes a load; a limit aborts the lane first (R290). -/
def State.regionLoad (s : State) (sz : Nat) (scope : BitVec 3) (ps : List Piece) (acc : Access) : State :=
  let l := acc.lane
  if !State.inRegion s l then s
  else
    let r := (Group.lane s.g l).region
    let va := vaOf acc.addr
    if ps.any (fun p => p.lane == l && Config.isRemote (State.pieceAt s p)) then State.capacity s l 5
    else
      let reads := withGranules r.reads (LaneRegion.freshBytes r s.g.nextNo va acc.len)
      if reads.length > 8 then State.capacity s l 1
      else State.updG s (fun g => Group.updRegion g l (fun r =>
        { LaneRegion.addInputs r s.g.nextNo va sz with reads := reads, scope := max r.scope scope.toNat }))

/-- The region stores that one lane's store records (R288): word by word when it is aligned and at least a word, else as it
stands, a piece for each page. -/
def Group.regionStores (g : Group) (l t sz : Nat) (r : LaneRegion) (acc : Access) (data : List Byte) (ps : List Piece) :
    List RStore :=
  let leaf := fun (a : Nat) => match ps.find? (fun p => decide (vaOf p.addr ≤ a) && decide (a < vaOf p.addr + p.len)) with
    | some p => p.leaf
    | none => 0
  let va := vaOf acc.addr
  if sz ≥ 2 ∧ va % acc.len = 0 then
    (List.range (acc.len / 4)).map (fun j =>
      let c := Group.cell g l (t + j)
      let k := if isSymbolic c.sym then c.sym.toNat else 0
      { no := g.nextNo, addr := va + 4 * j, leaf := leaf va, data := leBytes 4 c.val.toNat, k := k,
        c := if k = 0 then 0 else c.val - (match r.inputs[k - 1]? with | some i => i.val.getD 0 | none => 0) })
  else
    (ps.foldl (fun (x : List RStore × List Byte) p =>
      (x.1 ++ [{ no := g.nextNo, addr := vaOf p.addr, leaf := p.leaf, data := x.2.take p.len, k := 0, c := 0 }],
        x.2.drop p.len)) ([], data)).1

/-- A lane's region records a store; a limit aborts the lane first (R287, R288, R290). -/
def State.regionStore (s : State) (t sz : Nat) (scope : BitVec 3) (ps : List Piece) (acc : Access) (data : List Byte) : State :=
  let l := acc.lane
  if !State.inRegion s l then s
  else
    let r := (Group.lane s.g l).region
    let mine := ps.filter (fun p => p.lane == l)
    if mine.any (fun p => Config.isRemote (Leaf.phys p.leaf (vaOf p.addr))) then State.capacity s l 5
    else
      let old := r.stores.flatMap (fun w => (List.range w.data.length).map (fun i => w.addr + i))
      if (withGranules [] (old ++ (List.range acc.len).map (fun i => vaOf acc.addr + i))).length > 8 then State.capacity s l 2
      else
        let whole := decide (sz ≥ 2) && vaOf acc.addr % acc.len == 0
        State.updG s (fun g =>
          let g := if whole then g else (regRun t (sizeRegs sz)).foldl (fun g n => Group.exactAt g l n) g
          Group.updRegion g l (fun r =>
            { r with stores := r.stores ++ Group.regionStores g l t sz r acc data mine, scope := max r.scope scope.toNat }))

/-! ## Global loads (R222, R223) -/

/-- A piece as one access for each byte. -/
def Piece.bytes (p : Piece) : List Piece :=
  (List.range p.len).map (fun i => { p with addr := p.addr + BitVec.ofNat 64 i, len := 1 })

/-- The pieces of some lanes' accesses of `n` bytes as they are performed: whole where the address is a multiple of `n`, else byte
by byte (R220). -/
def splitUnaligned (accs : List Access) (n : Nat) (ps : List Piece) : List Piece :=
  accs.flatMap (fun x =>
    let mine := ps.filter (fun p => p.lane == x.lane)
    if x.addr.toNat % n = 0 then mine else mine.flatMap Piece.bytes)

/-- The part of a load that a piece is, with what the lane's open region gives it (R287). -/
def State.loadPiece (s : State) (p : Piece) : LanePart :=
  { lane := p.lane, addr := p.addr, len := p.len, leaf := p.leaf, x := [], priv := State.inRegion s p.lane,
    own := if State.inRegion s p.lane then
      LaneRegion.given (Group.lane s.g p.lane).region s.g.nextNo (vaOf p.addr) p.len else [] }

/-- The leaf forbids the discard of LDO.last and DISC (R223, R232). -/
def noDiscard (l : DWord) : Bool := !Leaf.w l || Leaf.s l || Leaf.m l

/-- LD and LDO (R222): checks by R219, then the load is outstanding. -/
def State.globalLoad (s : State) (sz : BitVec 3) (t a : RegNo) (off : DWord) (scope : BitVec 3) (ord : BitVec 2)
    (last : Bool) : Eff :=
  if last && State.anyRegion s then .trap s .illegal s.cur.mask 0
  else
    let xs := srcPair a.toNat false addrTags .consume
    State.withSources s xs (fun s =>
      let n := sizeBytes sz.toNat
      let accs := State.accesses s a off n
      State.aligned s (if ord = 0 then [] else accs) n
        (if State.stashWait s then .stall .engq []
        else State.classified s .load accs (fun s ps =>
          State.leafProt s (if last then ps else []) noDiscard
            (State.accepted s accs s.g.lcnt
              (let t0 := State.exactSources (State.touch s s.g.hall s.g.ctx false ps) xs (State.inRegion s)
              let s1 := accs.foldl (fun s x => State.regionLoad s sz.toNat scope ps x) t0
              if s1.cur.mask = 0 then .jump s1
              else
                let mine := accs.filter (fun x => s1.cur.mask.getLsbD x.lane)
                let parts := (splitUnaligned mine n ps).map (State.loadPiece s1)
                let plain := parts.any (fun p => !p.priv)
                let op := OutOp.load false sz.toNat t.toNat scope (if plain then ord else 0) last
                let s2 := State.updG s1 (fun g => { Group.issueOp g op s1.cur.mask parts with lcnt := g.lcnt + 1 })
                .ok (if last then State.endRegion s2 else s2))))))

/-- LD -/
def execLd (sz : BitVec 3) (t a : RegNo) (off : BitVec 7) (s : State) : Out :=
  issue (.ld sz t a off) (fun s => State.globalLoad s sz t a (moOffset off (sizeBytes sz.toNat)) 6 0 false) s

/-- LDO -/
def execLdo (sz : BitVec 3) (t a : RegNo) (scope : BitVec 3) (ord : BitVec 2) (last : Bool) (s : State) : Out :=
  issue (.ldo sz t a scope ord last) (fun s => State.globalLoad s sz t a 0 scope ord last) s

/-! ## Global stores (R222, R348) -/

/-- The data a lane stores (R221). -/
def Group.storeData (g : Group) (l t sz : Nat) : List Byte :=
  if sz = 0 then leBytes 1 (Group.reg g l t).toNat
  else if sz = 1 then leBytes 2 (Group.reg g l t).toNat
  else (regRun t (sizeRegs sz)).flatMap (fun n => leBytes 4 (Group.reg g l n).toNat)

/-- The pieces of a store word: each lane's data cut at its pieces. -/
def Group.storeParts (g : Group) (t sz : Nat) (ps : List Piece) (m : Mask) : List StorePart :=
  (Mask.lanes m).flatMap (fun l =>
    ((ps.filter (fun p => p.lane == l)).foldl (fun (x : List StorePart × List Byte) p =>
      (x.1 ++ [{ lane := l, addr := p.addr, leaf := p.leaf, data := x.2.take p.len }], x.2.drop p.len))
      ([], Group.storeData g l t sz)).1)

/-- ST, STO and MODW (R222, R348): private stores of the lanes with an open region, a buffered store of the others; a store to
an SO page ends the region. -/
def State.globalStore (s : State) (sz : BitVec 3) (t a : RegNo) (off : DWord) (scope : BitVec 3) (ord : BitVec 2)
    (modw : Bool) : Eff :=
  let xs := srcPair a.toNat false addrTags .consume ++ srcRun t.toNat (sizeRegs sz.toNat) false [] .consume
  State.withSources s xs (fun s =>
    let n := sizeBytes sz.toNat
    let accs := State.accesses s a off n
    State.aligned s (if ord = 0 && !modw then [] else accs) n
      (if State.stashWait s then .stall .engq []
      else State.classified s .store accs (fun s ps =>
        State.leafProt s ps (fun l => Leaf.s l || (modw && !Leaf.m l))
          (State.accepted s accs s.g.scnt
            (let addrs := srcPair a.toNat false addrTags .consume
            let t0 := State.exactSources (State.touch s s.g.hall s.g.ctx true ps) addrs (State.inRegion s)
            let s1 := accs.foldl (fun s x =>
              State.regionStore s t.toNat sz.toNat scope ps x (Group.storeData s.g x.lane t.toNat sz.toNat)) t0
            let out := maskOf (fun l => s1.cur.mask.getLsbD l && !State.inRegion s1 l)
            if out = 0 then
              (if s1.cur.mask = 0 then .jump s1 else .ok (State.updG s1 (fun g => { g with nextNo := g.nextNo + 1 })))
            else
              let s2 := State.updG s1 (fun g =>
                Group.bufferStore g false modw scope ord (Group.storeParts g t.toNat sz.toNat (splitUnaligned accs n ps) out))
              let strong := ps.any (fun p => out.getLsbD p.lane && Leaf.kind p.leaf == 1)
              .ok (if strong then State.endRegion s2 else s2))))))

/-- ST -/
def execSt (sz : BitVec 3) (t a : RegNo) (off : BitVec 7) (s : State) : Out :=
  issue (.st sz t a off) (fun s => State.globalStore s sz t a (moOffset off (sizeBytes sz.toNat)) 6 0 false) s

/-- STO -/
def execSto (sz : BitVec 3) (t a : RegNo) (scope : BitVec 3) (ord : BitVec 2) (s : State) : Out :=
  issue (.sto sz t a scope ord) (fun s => State.globalStore s sz t a 0 scope ord false) s

/-- MODW: ILLEGAL in a region or in a task of a traced launch -/
def execModw (sz : BitVec 3) (t a : RegNo) (scope : BitVec 3) (ord : BitVec 2) (s : State) : Out :=
  issue (.modw sz t a scope ord) (fun s => State.outside s (fun s =>
    if State.inTracedLaunch s s.g.ctx s.g.seq then .trap s .illegal s.cur.mask 0
    else State.globalStore s sz t a 0 scope ord true)) s

/-! ## Scratchpad loads and stores (R203, R205, R224) -/

/-- The scratchpad address of every active lane (R218). -/
def State.scratchAccesses (s : State) (a : RegNo) (off : Word) (len : Nat) : List Access :=
  (Mask.lanes s.cur.mask).map (fun l => { lane := l, addr := BitVec.zeroExtend 64 (Group.reg s.g l a.toNat + off), len := len })

/-- The block and offset of a scratchpad access (R202). -/
def State.scratchPlace (s : State) (x : Access) : Option (Nat × Nat) := scratchTarget s.g.lr s.g.blk (lo32 x.addr) x.len

/-- BOUNDS for the lanes whose scratchpad address is illegal (R202). -/
def State.inScratch (s : State) (accs : List Access) (k : Eff) : Eff :=
  match lanesWhere accs (fun x => (State.scratchPlace s x).isNone) with
  | some (m, a) => .trap s .bounds m a
  | none => k

/-- A run of some block's scratchpad touches a tile whose tags meet a condition. -/
def State.tileAny (s : State) (accs : List Access) (p : BitVec 5 → Bool) : Bool :=
  accs.any (fun x => match State.scratchPlace s x with
    | some (blk, off) => match State.block? s s.g.ctx s.g.seq blk with
      | some b => (tilesOf off x.len).any (fun t => p (Block.tag b t))
      | none => false
    | none => false)

/-- A scratchpad run overlaps a recorded range of the group's hall (R211). -/
def State.scratchRangeHit (s : State) (accs : List Access) : Bool :=
  accs.any (fun x => match State.scratchPlace s x with
    | some (blk, off) => (State.hall s s.g.hall).ranges.any (fun r =>
        RangeEntry.hitsScratch r s.g.ctx s.g.seq blk off x.len)
    | none => false)

/-- The checks of LDL and STL (R205, R211, R224): ALIGN, BOUNDS, TILETAG, RANGE, then the counters. -/
def State.scratchChecks (s : State) (accs : List Access) (n : Nat) (wait : BitVec 5 → Bool) (counter : Nat) (k : Eff) : Eff :=
  State.aligned s accs n (State.inScratch s accs
    (if State.tileAny s accs wait then .stall .tiletag []
    else if State.scratchRangeHit s accs then .stall .range []
    else if State.busyPipe s counter then .stall .pipebusy []
    else k))

/-- The offset of LDL and STL. -/
def scratchOffset (off : BitVec 7) (bytes : Nat) : Word := BitVec.signExtend 32 off * BitVec.ofNat 32 bytes

/-- The scope of a scratchpad word: .hall, or .gal where a lane reaches another hall (R203). -/
def scratchScope (accs : List Access) : BitVec 3 := if accs.any (fun x => placeRank x.addr != 0) then 2 else 1

/-- LDL -/
def execLdl (sz : BitVec 3) (t a : RegNo) (off : BitVec 7) (s : State) : Out :=
  issue (.ldl sz t a off) (fun s => State.outside s (fun s =>
    State.withSources s [{ src1 a false [.i32] with use := .consume }] (fun s =>
      let n := sizeBytes sz.toNat
      let accs := State.scratchAccesses s a (scratchOffset off n) n
      State.scratchChecks s accs n (fun t => TileTag.trk t && !TileTag.v t) s.g.lcnt
        (let parts := accs.map (fun x =>
          ({ lane := x.lane, addr := x.addr, len := n, leaf := 0, x := [], priv := false } : LanePart))
        .ok (State.updG s (fun g =>
          { Group.issueOp g (.load true sz.toNat t.toNat (scratchScope accs) 0 false) s.cur.mask parts with lcnt := g.lcnt + 1 })))))) s

/-- STL -/
def execStl (sz : BitVec 3) (t a : RegNo) (off : BitVec 7) (s : State) : Out :=
  issue (.stl sz t a off) (fun s => State.outside s (fun s =>
    State.withSources s ({ src1 a false [.i32] with use := .consume } :: srcRun t.toNat (sizeRegs sz.toNat) false [] .consume)
      (fun s =>
        let n := sizeBytes sz.toNat
        let accs := State.scratchAccesses s a (scratchOffset off n) n
        State.scratchChecks s accs n (fun t => TileTag.trk t && TileTag.h t) s.g.scnt
          (let parts := accs.map (fun x =>
            ({ lane := x.lane, addr := x.addr, leaf := 0, data := Group.storeData s.g x.lane t.toNat sz.toNat } : StorePart))
          .ok (State.updG s (fun g => Group.bufferStore g true false (scratchScope accs) 0 parts)))))) s

/-! ## LDCB (R194) -/

/-- The access of a word that makes one request for the group, from its lowest active lane (R218). -/
def State.oneAccess (s : State) (a : RegNo) (ua : Bool) (off : DWord) (len : Nat) : Access :=
  let l := Mask.lowest s.cur.mask
  { lane := l, addr := State.src64 s l a.toNat ua + off, len := len }

/-- LDCB: the slot is pending until the image arrives; the region ends -/
def execLdcb (t a : RegNo) (off : BitVec 7) (s : State) : Out :=
  issue (.ldcb t a off) (fun s =>
    if State.slotPending s t.toNat then .stall .regdep []
    else if t.toNat ≥ s.g.lr.cb then .trap s .illegal s.cur.mask 0
    else State.outside s (fun s =>
      State.withSources s (srcPair a.toNat false addrTags .lowest) (fun s =>
        let acc := State.oneAccess s a false (moOffset off 32) 32
        State.aligned s [acc] 32
          (if State.stashWait s then .stall .engq []
          else State.classified s .load [acc] (fun s ps =>
            if State.busyPipe s s.g.lcnt then .stall .pipebusy []
            else
              let parts := ps.map (fun p =>
                ({ lane := p.lane, addr := p.addr, len := p.len, leaf := p.leaf, x := [], priv := false } : LanePart))
              let s := State.touch s s.g.hall s.g.ctx false ps
              let s := State.endRegion s
              .ok (State.updG s (fun g =>
                { Group.issueOp g (.ldcb t.toNat) s.cur.mask parts with lcnt := g.lcnt + 1 }))))))) s

end Sys2Proof.Machine
end

