-- ==== Sys2Proof/Machine/Atomics.lean ====
section
/-! DEFINITION. Atomics (R273 to R279), tickets (R63, R64, R158), DEPADD (R157), and the opening, abort and status of atomic
regions (R285, R294, R295). -/

namespace Sys2Proof.Machine

/-! ## What an atomic does (R276) -/

/-- A number of `n` bytes as a signed integer. -/
def signedOf (n v : Nat) : Int := if v < 2 ^ (8 * n - 1) then (v : Int) else (v : Int) - 2 ^ (8 * n)

/-- The number that words stand for, the first lowest. -/
def wordsNat (ws : List Word) : Nat := ws.foldr (fun w n => w.toNat + 4294967296 * n) 0

/-- Words of a number, the lowest first. -/
def natWords (k v : Nat) : List Word := (List.range k).map (fun i => BitVec.ofNat 32 (v / 4294967296 ^ i))

/-- Op(old, operands) on `n` bytes, with AFADD's flags (R276). -/
def AtomicOp.apply (op : AtomicOp) (n old : Nat) (ws : List Word) : Nat × Word :=
  let x := wordsNat (ws.take (n / 4))
  match op with
  | .add => ((old + x) % 2 ^ (8 * n), 0)
  | .minS => (if signedOf n x < signedOf n old then x else old, 0)
  | .minZ => (min old x, 0)
  | .maxS => (if signedOf n x > signedOf n old then x else old, 0)
  | .maxZ => (max old x, 0)
  | .and => (old &&& x, 0)
  | .or => (old ||| x, 0)
  | .xor => (old ^^^ x, 0)
  | .xch => (x, 0)
  | .cas => (if old = x then wordsNat (ws.drop (n / 4)) else old, 0)
  | .fadd => Fmt.f32.add 0 old x

/-- The tag of the returned registers (R278). -/
def AtomicOp.tag : AtomicOp → Tag
  | .xch => .raw
  | .cas => .raw
  | .fadd => .f32
  | _ => .i32

/-- The tags an atomic's operands may have (R278). -/
def AtomicOp.accepts : AtomicOp → List Tag
  | .add => [.i32]
  | .minS => [.i32]
  | .minZ => [.i32]
  | .maxS => [.i32]
  | .maxZ => [.i32]
  | .fadd => [.f32]
  | _ => []

/-! ## The atomic words (R274, R275, R277, R279) -/

/-- The lanes that address the hall window, as scratchpad accesses. -/
def windowAccs (accs : List Access) : List Access := accs.filter (fun x => windowPointer x.addr)
/-- The lanes that address other pointers. -/
def otherAccs (accs : List Access) : List Access := accs.filter (fun x => !windowPointer x.addr)

/-- The parts of an atomic in ascending lane order, each with its operands. -/
def State.atomicParts (s : State) (accs : List Access) (ps : List Piece) (t k : Nat) : List LanePart :=
  accs.map (fun x =>
    { lane := x.lane, addr := x.addr, len := x.len,
      leaf := (match ps.find? (fun p => p.lane == x.lane) with | some p => p.leaf | none => 0),
      x := (regRun t k).map (fun n => Group.reg s.g x.lane n), priv := false })

/-- An atomic word on `n` bytes with `k` operand registers: ILLEGAL in a region, then R219 with R202 for the hall window, PROT
for an S page, the range scoreboard; it ends the idempotent region and counts once in acnt. -/
def State.atomicWord (s : State) (op : AtomicOp) (n : Nat) (t a : RegNo) (k : Nat) (scope : BitVec 3) (ord : BitVec 2) : Eff :=
  State.outside s (fun s =>
    State.withSources s (srcPair a.toNat false addrTags .consume ++ srcRun t.toNat k false (AtomicOp.accepts op) .consume)
      (fun s =>
        let accs := State.accesses s a 0 n
        State.aligned s accs n
          (State.inScratch s (windowAccs accs)
            (if State.stashWait s && !(otherAccs accs).isEmpty then .stall .engq []
            else State.classified s .atomic (otherAccs accs) (fun s ps =>
              State.leafProt s ps Leaf.s
                (if State.scratchRangeHit s (windowAccs accs) then .stall .range []
                else State.accepted s (otherAccs accs) s.g.acnt
                  (let s := State.markVolatile (State.touch s s.g.hall s.g.ctx true ps) s.g.ctx s.g.seq
                  let parts := State.atomicParts s accs ps t.toNat k
                  let s := State.endRegion s
                  .ok (State.updG s (fun g =>
                    { Group.issueOp g (.atomic op n t.toNat scope ord) s.cur.mask parts with acnt := g.acnt + 1 })))))))))

/-- The bytes of an atomic's size code: .w or .d. -/
def atomicBytes (sz : BitVec 3) : Nat := sizeBytes sz.toNat

/-- An atomic whose operand registers are those it returns into (R275). -/
def State.atomicSame (s : State) (op : AtomicOp) (sz : BitVec 3) (t a : RegNo) (scope : BitVec 3) (ord : BitVec 2) : Eff :=
  State.atomicWord s op (atomicBytes sz) t a (sizeRegs sz.toNat) scope ord

/-- AADD -/
def execAadd (sz : BitVec 3) (t a : RegNo) (scope : BitVec 3) (ord : BitVec 2) (s : State) : Out :=
  issue (.aadd sz t a scope ord) (fun s => State.atomicSame s .add sz t a scope ord) s

/-- AMIN, signed or (z) unsigned -/
def execAmin (sz : BitVec 3) (t a : RegNo) (scope : BitVec 3) (ord : BitVec 2) (z : Bool) (s : State) : Out :=
  issue (.amin sz t a scope ord z) (fun s => State.atomicSame s (if z then .minZ else .minS) sz t a scope ord) s

/-- AMAX, signed or (z) unsigned -/
def execAmax (sz : BitVec 3) (t a : RegNo) (scope : BitVec 3) (ord : BitVec 2) (z : Bool) (s : State) : Out :=
  issue (.amax sz t a scope ord z) (fun s => State.atomicSame s (if z then .maxZ else .maxS) sz t a scope ord) s

/-- AAND -/
def execAand (sz : BitVec 3) (t a : RegNo) (scope : BitVec 3) (ord : BitVec 2) (s : State) : Out :=
  issue (.aand sz t a scope ord) (fun s => State.atomicSame s .and sz t a scope ord) s

/-- AOR -/
def execAor (sz : BitVec 3) (t a : RegNo) (scope : BitVec 3) (ord : BitVec 2) (s : State) : Out :=
  issue (.aor sz t a scope ord) (fun s => State.atomicSame s .or sz t a scope ord) s

/-- AXOR -/
def execAxor (sz : BitVec 3) (t a : RegNo) (scope : BitVec 3) (ord : BitVec 2) (s : State) : Out :=
  issue (.axor sz t a scope ord) (fun s => State.atomicSame s .xor sz t a scope ord) s

/-- AXCH -/
def execAxch (sz : BitVec 3) (t a : RegNo) (scope : BitVec 3) (ord : BitVec 2) (s : State) : Out :=
  issue (.axch sz t a scope ord) (fun s => State.atomicSame s .xch sz t a scope ord) s

/-- ACAS, .w or (sz) .d -/
def execAcas (sz : Bool) (t a : RegNo) (scope : BitVec 3) (ord : BitVec 2) (s : State) : Out :=
  issue (.acas sz t a scope ord) (fun s =>
    State.atomicWord s .cas (if sz then 8 else 4) t a (if sz then 4 else 2) scope ord) s

/-- ACAS.Q -/
def execAcasQ (t a : RegNo) (scope : BitVec 3) (ord : BitVec 2) (s : State) : Out :=
  issue (.acasQ t a scope ord) (fun s => State.atomicWord s .cas 16 t a 8 scope ord) s

/-- AFADD -/
def execAfadd (t a : RegNo) (scope : BitVec 3) (ord : BitVec 2) (s : State) : Out :=
  issue (.afadd t a scope ord) (fun s => State.atomicWord s .fadd 4 t a 1 scope ord) s

/-! ## Tickets (R63, R64, R158) -/

/-- The gang of the group at the issue port changed. -/
def State.updMyGang (s : State) (f : Gang → Gang) : State := State.updGang s s.g.ctx s.g.seq (Group.gang s.g) f

/-- The rounds of the group's gang. -/
def State.rounds (s : State) : List Round :=
  match State.gang? s s.g.ctx s.g.seq (Group.gang s.g) with
  | some y => y.rounds
  | none => []

/-- Rounds that some group of the gang has not taken. -/
def State.openRounds (s : State) : Nat :=
  match State.gang? s s.g.ctx s.g.seq (Group.gang s.g) with
  | some y => (y.rounds.filter (fun r => decide (r.takers.length < y.groups))).length
  | none => 0

/-- A TKT takes its round: it ends the region, counts in acnt, and waits for the round's value. -/
def State.takeRound (s : State) (d : RegNo) (n : Nat) (opener : Bool) (addr incr : DWord) (ps : List Piece) : Eff :=
  let parts := (ps.take 1).map (fun p =>
    ({ lane := p.lane, addr := addr, len := 8, leaf := p.leaf, x := [], priv := false } : LanePart))
  let me := (s.g.blk, s.g.grp)
  let s := State.updMyGang s (fun y =>
    { y with rounds :=
        if opener then y.rounds ++ [{ n := n, addr := addr, incr := incr, value := none, bad := false, takers := [me] }]
        else mapIf y.rounds (fun r => r.n == n) (fun r => { r with takers := r.takers ++ [me] }) })
  let s := State.markVolatile s s.g.ctx s.g.seq
  let s := State.endRegion s
  .ok (State.updG s (fun g =>
    { Group.issueOp g (.tkt n opener incr d.toNat) s.cur.mask parts with acnt := g.acnt + 1, tickets := n }))

/-- TKT -/
def execTkt (d a b : RegNo) (ua ub : Bool) (s : State) : Out :=
  issue (.tkt d a b ua ub) (fun s => State.outside s (fun s =>
    let xs := srcPair a.toNat ua [.addr] .consume ++
      [({ reg := b.toNat, uni := ub, tags := [.i32], use := .consume } : Src)]
    State.withSources s xs (fun s =>
      let accs := (Mask.lanes s.cur.mask).map (fun l =>
        ({ lane := l, addr := State.src64 s l a.toNat ua, len := 8 } : Access))
      State.aligned s accs 8 (if State.stashWait s then .stall .engq [] else State.classified s .atomic accs (fun s ps =>
        State.leafProt s ps Leaf.s
          (let l0 := Mask.lowest s.cur.mask
          let addr := State.src64 s l0 a.toNat ua
          let incr : DWord := BitVec.zeroExtend 64 (State.src s l0 b.toNat ub)
          let differ := maskOf (fun l => s.cur.mask.getLsbD l &&
            (vaOf (State.src64 s l a.toNat ua) != vaOf addr || State.src s l b.toNat ub != State.src s l0 b.toNat ub))
          let n := s.g.tickets + 1
          if differ ≠ 0 then .trap s .illegal differ 0
          else if State.busyPipe s s.g.acnt then .stall .pipebusy []
          else
            let t := State.touch s s.g.hall s.g.ctx true ps
            match (State.rounds s).find? (fun r => r.n == n) with
            | some r =>
              if vaOf r.addr ≠ vaOf addr ∨ r.incr ≠ incr then .trap s .illegal s.cur.mask addr
              else State.takeRound t d n false addr incr ps
            | none =>
              if State.openRounds s ≥ 4 then .stall .engq [] else State.takeRound t d n true addr incr ps)))))) s

/-! ## DEPADD (R157) -/

/-- DEPADD: the classification, then the end of the region and the wait for every earlier store, from which on acnt counts it (R216);
then it is outstanding -/
def execDepadd (d a b : RegNo) (ua ub : Bool) (s : State) : Out :=
  issue (.depadd d a b ua ub) (fun s => State.outside s (fun s =>
    let xs := srcPair a.toNat ua [.addr] .consume ++
      [({ reg := b.toNat, uni := ub, tags := [.i32], use := .consume } : Src)]
    State.withSources s xs (fun s =>
      let accs := (Mask.lanes s.cur.mask).map (fun l =>
        ({ lane := l, addr := State.src64 s l a.toNat ua, len := 128 } : Access))
      State.aligned s accs 128 (if s.g.wait.isNone && State.stashWait s then .stall .engq []
      else State.classifiedOnce s .atomic accs (fun s ps =>
        State.leafProt s ps Leaf.s
          (if s.g.wait.isNone && State.busyPipe s s.g.acnt then .stall .pipebusy []
          else
            let t := State.touch s s.g.hall s.g.ctx true ps
            let t := if t.g.wait.isSome then t
              else State.updG (State.endRegion (State.markVolatile t t.g.ctx t.g.seq)) (fun g => { g with acnt := g.acnt + 1 })
            if t.g.scnt = 0 then
              let t := State.unpark t
              let parts := ps.map (fun p =>
                ({ lane := p.lane, addr := p.addr, len := 128, leaf := p.leaf, x := [State.src s p.lane b.toNat ub],
                   priv := false } : LanePart))
              .ok (State.updG t (fun g => Group.issueOp g (.depadd d.toNat) t.cur.mask parts))
            else .park (State.park t (.depadd d a b ua ub) 1 0 .cntwait) .cntwait)))))) s

/-! ## Atomic regions: RBEG, RABT, RSTAT (R285, R294, R295) -/

/-- A lane opens a region: symbolic tags 0, status OPEN with the RETRIES it had. -/
def Group.openRegion (g : Group) (l : Nat) (p : RegNo) (fallback pc : Word) : Group :=
  Group.updRegion (Group.clearSym g l) l (fun r =>
    { LaneRegion.fresh with
      isOpen := true, since := g.nextNo, status := statusWord (retriesOf r.status) 0 1, prev := r.status,
      committed := r.committed, fallback := fallback, vp := p, packets := 0, lastPacket := pc })

/-- RBEG: NESTED in lanes whose region is already open -/
def execRbeg (p : RegNo) (off : BitVec 15) (slot : BitVec 2) (s : State) : Out :=
  issue (.rbeg p off slot) (fun s =>
    let nested := maskOf (fun l => s.cur.mask.getLsbD l && State.inRegion s l)
    if nested ≠ 0 then .trap s .nested nested 0
    else
      let s := State.markVolatile s s.g.ctx s.g.seq
      .ok (State.updG s (fun g => (Mask.lanes s.cur.mask).foldl (fun g l =>
        Group.openRegion g l p (branchTarget s.cur.wordPc off slot) s.cur.wordPc) g))) s

/-- RABT: every active lane's region aborts with EXPLICIT -/
def execRabt (s : State) : Out :=
  issue .rabt (fun s =>
    if (Mask.lanes s.cur.mask).any (fun l => !State.inRegion s l) then .trap s .illegal s.cur.mask 0
    else .jump (State.updG s (fun g => (Mask.lanes s.cur.mask).foldl (fun g l => Group.abortLane g l 6 0) g))) s

/-- RSTAT -/
def execRstat (d : RegNo) (s : State) : Out :=
  issue (.rstat d) (fun s => State.laneOp s [] 6 d.toNat 1 (fun s l => [((Group.lane s.g l).region.status, .i32)])) s

end Sys2Proof.Machine
end

