-- ==== Sys2Proof/Machine/Digest.lean ====
section
/-! DEFINITION. The standards that the manual names and does not spell out (PRESUMED, log entry 13): SHA-384 (R12, R14) of FIPS
180-4, ECDSA on P-384 (R14) of FIPS 186-4 with the nonces of RFC 6979, and CRC-64/ECMA-182 (R341). -/

namespace Sys2Proof.Machine

/-! ## SHA-384 -/

/-- The round constants of SHA-384. -/
def shaK : List DWord :=
  [0x428A2F98D728AE22, 0x7137449123EF65CD, 0xB5C0FBCFEC4D3B2F, 0xE9B5DBA58189DBBC,
   0x3956C25BF348B538, 0x59F111F1B605D019, 0x923F82A4AF194F9B, 0xAB1C5ED5DA6D8118,
   0xD807AA98A3030242, 0x12835B0145706FBE, 0x243185BE4EE4B28C, 0x550C7DC3D5FFB4E2,
   0x72BE5D74F27B896F, 0x80DEB1FE3B1696B1, 0x9BDC06A725C71235, 0xC19BF174CF692694,
   0xE49B69C19EF14AD2, 0xEFBE4786384F25E3, 0x0FC19DC68B8CD5B5, 0x240CA1CC77AC9C65] ++
  [0x2DE92C6F592B0275, 0x4A7484AA6EA6E483, 0x5CB0A9DCBD41FBD4, 0x76F988DA831153B5,
   0x983E5152EE66DFAB, 0xA831C66D2DB43210, 0xB00327C898FB213F, 0xBF597FC7BEEF0EE4,
   0xC6E00BF33DA88FC2, 0xD5A79147930AA725, 0x06CA6351E003826F, 0x142929670A0E6E70,
   0x27B70A8546D22FFC, 0x2E1B21385C26C926, 0x4D2C6DFC5AC42AED, 0x53380D139D95B3DF,
   0x650A73548BAF63DE, 0x766A0ABB3C77B2A8, 0x81C2C92E47EDAEE6, 0x92722C851482353B] ++
  [0xA2BFE8A14CF10364, 0xA81A664BBC423001, 0xC24B8B70D0F89791, 0xC76C51A30654BE30,
   0xD192E819D6EF5218, 0xD69906245565A910, 0xF40E35855771202A, 0x106AA07032BBD1B8,
   0x19A4C116B8D2D0C8, 0x1E376C085141AB53, 0x2748774CDF8EEB99, 0x34B0BCB5E19B48A8,
   0x391C0CB3C5C95A63, 0x4ED8AA4AE3418ACB, 0x5B9CCA4F7763E373, 0x682E6FF3D6B2B8A3,
   0x748F82EE5DEFB2FC, 0x78A5636F43172F60, 0x84C87814A1F0AB72, 0x8CC702081A6439EC] ++
  [0x90BEFFFA23631E28, 0xA4506CEBDE82BDE9, 0xBEF9A3F7B2C67915, 0xC67178F2E372532B,
   0xCA273ECEEA26619C, 0xD186B8C721C0C207, 0xEADA7DD6CDE0EB1E, 0xF57D4F7FEE6ED178,
   0x06F067AA72176FBA, 0x0A637DC5A2C898A6, 0x113F9804BEF90DAE, 0x1B710B35131C471B,
   0x28DB77F523047D84, 0x32CAAB7B40C72493, 0x3C9EBE0A15C9BEBC, 0x431D67C49C100D4C,
   0x4CC5D4BECB3E42B6, 0x597F299CFC657E2A, 0x5FCB6FAB3AD6FAEC, 0x6C44198C4A475817]

/-- The initial hash value of SHA-384. -/
def shaH: List DWord :=
  [0xCBBB9D5DC1059ED8, 0x629A292A367CD507, 0x9159015A3070DD17, 0x152FECD8F70E5939,
   0x67332667FFC00B31, 0x8EB44A8768581511, 0xDB0C2E0D64F98FA7, 0x47B5481DBEFA4FA4]

/-- A number of 64 bits rotated right. -/
def ror (x : DWord) (n : Nat) : DWord := (x >>> n) ||| (x <<< (64 - n))

/-- The message schedule, the latest word first: `n` more words. -/
def shaSchedule (w : List DWord) : Nat → List DWord
  | 0 => w
  | n + 1 =>
    let x := w.getD 14 0
    let y := w.getD 1 0
    let s0 := ror x 1 ^^^ ror x 8 ^^^ (x >>> 7)
    let s1 := ror y 19 ^^^ ror y 61 ^^^ (y >>> 6)
    shaSchedule ((w.getD 15 0 + s0 + w.getD 6 0 + s1) :: w) n

/-- One round over the eight working variables. -/
def shaRound (v : List DWord) (kw : DWord × DWord) : List DWord :=
  match v with
  | [a, b, c, d, e, f, g, h] =>
    let t1 := h + (ror e 14 ^^^ ror e 18 ^^^ ror e 41) + ((e &&& f) ^^^ (~~~e &&& g)) + kw.1 + kw.2
    let t2 := (ror a 28 ^^^ ror a 34 ^^^ ror a 39) + ((a &&& b) ^^^ (a &&& c) ^^^ (b &&& c))
    [t1 + t2, a, b, c, d + t1, e, f, g]
  | v => v

/-- One block of 128 bytes. -/
def shaBlock (h : List DWord) (bs : List Byte) : List DWord :=
  let w := (List.range 16).map (fun i => (BitVec.ofNat 64 (beNat ((bs.drop (8 * i)).take 8)) : DWord))
  let ws := (shaSchedule w.reverse 64).reverse
  (h.zip ((shaK.zip ws).foldl shaRound h)).map (fun p => p.1 + p.2)

/-- The blocks of a padded message. -/
def shaBlocks (h : List DWord) (bs : List Byte) : Nat → List DWord
  | 0 => h
  | n + 1 => shaBlocks (shaBlock h (bs.take 128)) (bs.drop 128) n

/-- SHA-384 of some bytes: 48 bytes. -/
def sha384 (bs : List Byte) : List Byte :=
  let pad := bs ++ [0x80] ++ List.replicate ((239 - bs.length % 128) % 128) 0 ++ beBytes 16 (8 * bs.length)
  ((shaBlocks shaH pad (pad.length / 128)).flatMap (fun x => beBytes 8 x.toNat)).take 48

/-! ## ECDSA on P-384 (R14) -/

/-- HMAC with SHA-384 (block of 128 bytes); the keys here are 48 bytes. -/
def hmac384 (key msg : List Byte) : List Byte :=
  let k := key ++ List.replicate (128 - key.length) 0
  sha384 (k.map (fun b => b ^^^ 0x5C) ++ sha384 (k.map (fun b => b ^^^ 0x36) ++ msg))

/-- The prime, the coefficient b, the base point and its order; a is −3. -/
def p384 : Nat := 2 ^ 384 - 2 ^ 128 - 2 ^ 96 + 2 ^ 32 - 1
def p384b : Nat := 0xB3312FA7E23EE7E4988E056BE3F82D19181D9C6EFE8141120314088F5013875AC656398D8A2ED19D2A85C8EDD3EC2AEF
def p384x : Nat := 0xAA87CA22BE8B05378EB1C71EF320AD746E1D3B628BA79B9859F741E082542A385502F25DBF55296C3A545E3872760AB7
def p384y : Nat := 0x3617DE4A96262C6F5D9E98BF9292DC29F8F41DBD289A147CE9DA3113B5F0B8C00A60B1CE1D7E819D7A431D7C90EA0E5F
def p384n : Nat := 0xFFFFFFFFFFFFFFFFFFFFFFFFFFFFFFFFFFFFFFFFFFFFFFFFC7634D81F4372DDF581A0DB248B0A77AECEC196ACCC52973

/-- A power modulo m, over the low `fuel` bits of the exponent. -/
def powMod (m b e : Nat) : Nat → Nat
  | 0 => 1 % m
  | fuel + 1 =>
    let r := powMod m (b * b % m) (e / 2) fuel
    if e % 2 = 1 then b * r % m else r

/-- The inverse modulo a prime of at most 384 bits. -/
def invMod (m x : Nat) : Nat := powMod m (x % m) (m - 2) 384

/-- The sum of two points of the curve; none is the point at infinity. -/
def pointAdd : Option (Nat × Nat) → Option (Nat × Nat) → Option (Nat × Nat)
  | none, q => q
  | p, none => p
  | some (x1, y1), some (x2, y2) =>
    if x1 = x2 ∧ (y1 + y2) % p384 = 0 then none
    else
      let l := if x1 = x2 then (3 * x1 * x1 + (p384 - 3)) * invMod p384 (2 * y1) % p384
        else (y2 + (p384 - y1)) * invMod p384 (x2 + (p384 - x1)) % p384
      let x := (l * l + (p384 - x1) + (p384 - x2)) % p384
      some (x, (l * (x1 + (p384 - x)) + (p384 - y1)) % p384)

/-- k times a point, over the low `fuel` bits of k. -/
def pointMul (k : Nat) (p : Option (Nat × Nat)) : Nat → Option (Nat × Nat)
  | 0 => none
  | fuel + 1 =>
    let r := pointMul (k / 2) (pointAdd p p) fuel
    if k % 2 = 1 then pointAdd p r else r

/-- k times the base point. -/
def basePoint (k : Nat) : Nat × Nat := (pointMul k (some (p384x, p384y)) 384).getD (0, 0)

/-- The private key: 1 to n − 1. -/
def signKey : Nat := 1 + Config.privateKey % (p384n - 1)

/-- The public key, x then y, big-endian (R14). -/
def publicKey : List Byte := let q := basePoint signKey; beBytes 48 q.1 ++ beBytes 48 q.2

/-- The candidates of RFC 6979 until one gives r and s that are not 0: the signature, r then s, big-endian. -/
def signFrom (z : Nat) (k v : List Byte) : Nat → List Byte
  | 0 => List.replicate 96 0
  | fuel + 1 =>
    let v := hmac384 k v
    let c := beNat v
    let r := (basePoint c).1 % p384n
    let sg := invMod p384n c * (z + r * signKey) % p384n
    if 0 < c ∧ c < p384n ∧ r ≠ 0 ∧ sg ≠ 0 then beBytes 48 r ++ beBytes 48 sg
    else
      let k := hmac384 k (v ++ [0])
      signFrom z k (hmac384 k v) fuel

/-- The signature over a SHA-384 digest, the nonce as in RFC 6979. -/
def sign384 (digest : List Byte) : List Byte :=
  let z := beNat digest
  let m := beBytes 48 signKey ++ beBytes 48 (z % p384n)
  let v := List.replicate 48 (1 : Byte)
  let k := hmac384 (List.replicate 48 0) (v ++ [0] ++ m)
  let v := hmac384 k v
  let k := hmac384 k (v ++ [1] ++ m)
  signFrom z k (hmac384 k v) 256

/-! ## CRC-64/ECMA-182 -/

/-- One bit of the division by the generator 0x42F0E1EBA9EA3693. -/
def crcBit (c : DWord) : DWord := if c.getLsbD 63 then (c <<< 1) ^^^ 0x42F0E1EBA9EA3693#64 else c <<< 1

/-- One byte, most significant bit first. -/
def crcByte (c : DWord) (b : Byte) : DWord :=
  let c := c ^^^ (BitVec.zeroExtend 64 b <<< 56)
  crcBit (crcBit (crcBit (crcBit (crcBit (crcBit (crcBit (crcBit c)))))))

/-- CRC-64/ECMA-182 of some bytes: initial value 0, nothing reflected. -/
def crc64 (bs : List Byte) : DWord := bs.foldl crcByte 0

end Sys2Proof.Machine
end

