-- ==== Sys2Proof/Decode.lean ====
section
/-! DEFINITION. The decoder, total on every 32-bit word and rejecting by name (R94 to R103), the chain bit (R88), the
control word (R87), and the encoder, from the same encoding tables. A word is read as a natural number, bit 0 the least
significant; `bits w lo n` is the field [lo+n-1:lo]. -/

namespace Sys2Proof

/-- Why a word is no instruction of the map (R103). Every one of these traps ILLEGAL. -/
inductive DecodeError where
  /-- major 0x00 with any other bit of [30:0] set -/
  | notNop
  /-- majors 0x3C to 0x3F -/
  | reservedMajor
  /-- a minor or sub-operation left unassigned, or a nonzero field that the form does not use -/
  | unassigned
  deriving DecidableEq, Repr

/-- A word of a packet: its chain bit C and its instruction (R88, R95). -/
structure ChainWord where
  chain : Bool
  instr : Instr
  deriving DecidableEq, Repr

/-- Majors 0x00 to 0x0F of the opcode map: the low four bits of the major select (R100). -/
def decodeRow0 (w : Nat) : Except DecodeError Instr :=
  match bits w 24 4 with
  | 0 =>
    if bits w 0 24 = 0 then .ok (.nop) else
    .error .notNop
  | 1 =>
    if bits w 21 2 = 0 then .ok (.iadd (bits w 23 1 == 1) (BitVec.ofNat 7 (bits w 14 7)) (BitVec.ofNat 7 (bits w 7 7)) (BitVec.ofNat 7 (bits w 0 7))) else
    .error .unassigned
  | 2 =>
    if bits w 21 2 = 0 then .ok (.isub (bits w 23 1 == 1) (BitVec.ofNat 7 (bits w 14 7)) (BitVec.ofNat 7 (bits w 7 7)) (BitVec.ofNat 7 (bits w 0 7))) else
    .error .unassigned
  | 3 =>
    if bits w 21 2 = 0 then .ok (.imul (bits w 23 1 == 1) (BitVec.ofNat 7 (bits w 14 7)) (BitVec.ofNat 7 (bits w 7 7)) (BitVec.ofNat 7 (bits w 0 7))) else
    if bits w 21 2 = 1 then .ok (.imulhS (bits w 23 1 == 1) (BitVec.ofNat 7 (bits w 14 7)) (BitVec.ofNat 7 (bits w 7 7)) (BitVec.ofNat 7 (bits w 0 7))) else
    if bits w 21 2 = 2 then .ok (.imulhZ (bits w 23 1 == 1) (BitVec.ofNat 7 (bits w 14 7)) (BitVec.ofNat 7 (bits w 7 7)) (BitVec.ofNat 7 (bits w 0 7))) else
    .error .unassigned
  | 4 =>
    if bits w 21 2 = 0 then .ok (.imad (bits w 23 1 == 1) (BitVec.ofNat 7 (bits w 14 7)) (BitVec.ofNat 7 (bits w 7 7)) (BitVec.ofNat 7 (bits w 0 7))) else
    .error .unassigned
  | 5 =>
    if bits w 21 1 = 0 then .ok (.imin (bits w 23 1 == 1) (bits w 22 1 == 1) (BitVec.ofNat 7 (bits w 14 7)) (BitVec.ofNat 7 (bits w 7 7)) (BitVec.ofNat 7 (bits w 0 7))) else
    if bits w 21 1 = 1 then .ok (.imax (bits w 23 1 == 1) (bits w 22 1 == 1) (BitVec.ofNat 7 (bits w 14 7)) (BitVec.ofNat 7 (bits w 7 7)) (BitVec.ofNat 7 (bits w 0 7))) else
    .error .unassigned
  | 6 =>
    if bits w 0 7 = 0 ∧ bits w 21 3 = 0 then .ok (.iabs (BitVec.ofNat 7 (bits w 14 7)) (BitVec.ofNat 7 (bits w 7 7))) else
    .error .unassigned
  | 7 =>
    if bits w 21 2 = 0 then .ok (.and (bits w 23 1 == 1) (BitVec.ofNat 7 (bits w 14 7)) (BitVec.ofNat 7 (bits w 7 7)) (BitVec.ofNat 7 (bits w 0 7))) else
    if bits w 21 2 = 1 then .ok (.or (bits w 23 1 == 1) (BitVec.ofNat 7 (bits w 14 7)) (BitVec.ofNat 7 (bits w 7 7)) (BitVec.ofNat 7 (bits w 0 7))) else
    if bits w 21 2 = 2 then .ok (.xor (bits w 23 1 == 1) (BitVec.ofNat 7 (bits w 14 7)) (BitVec.ofNat 7 (bits w 7 7)) (BitVec.ofNat 7 (bits w 0 7))) else
    if bits w 21 2 = 3 then .ok (.andn (bits w 23 1 == 1) (BitVec.ofNat 7 (bits w 14 7)) (BitVec.ofNat 7 (bits w 7 7)) (BitVec.ofNat 7 (bits w 0 7))) else
    .error .unassigned
  | 8 =>
    if bits w 21 2 = 0 then .ok (.shl (bits w 23 1 == 1) (BitVec.ofNat 7 (bits w 14 7)) (BitVec.ofNat 7 (bits w 7 7)) (BitVec.ofNat 7 (bits w 0 7))) else
    if bits w 21 2 = 1 then .ok (.shr (bits w 23 1 == 1) (BitVec.ofNat 7 (bits w 14 7)) (BitVec.ofNat 7 (bits w 7 7)) (BitVec.ofNat 7 (bits w 0 7))) else
    if bits w 21 2 = 2 then .ok (.sha (bits w 23 1 == 1) (BitVec.ofNat 7 (bits w 14 7)) (BitVec.ofNat 7 (bits w 7 7)) (BitVec.ofNat 7 (bits w 0 7))) else
    .error .unassigned
  | 9 =>
    if bits w 0 7 = 0 ∧ bits w 21 3 = 0 then .ok (.popc (BitVec.ofNat 7 (bits w 14 7)) (BitVec.ofNat 7 (bits w 7 7))) else
    if bits w 0 7 = 0 ∧ bits w 21 3 = 1 then .ok (.clz (BitVec.ofNat 7 (bits w 14 7)) (BitVec.ofNat 7 (bits w 7 7))) else
    if bits w 0 7 = 0 ∧ bits w 21 3 = 2 then .ok (.brev (BitVec.ofNat 7 (bits w 14 7)) (BitVec.ofNat 7 (bits w 7 7))) else
    .error .unassigned
  | 10 =>
    if bits w 22 1 = 0 then .ok (.bfx (bits w 23 1 == 1) (bits w 21 1 == 1) (BitVec.ofNat 7 (bits w 14 7)) (BitVec.ofNat 7 (bits w 7 7)) (BitVec.ofNat 7 (bits w 0 7))) else
    .error .unassigned
  | 11 =>
    if bits w 21 2 = 0 then .ok (.bfi (bits w 23 1 == 1) (BitVec.ofNat 7 (bits w 14 7)) (BitVec.ofNat 7 (bits w 7 7)) (BitVec.ofNat 7 (bits w 0 7))) else
    .error .unassigned
  | 12 =>
    .ok (.icmp (BitVec.ofNat 3 (bits w 21 3)) (BitVec.ofNat 7 (bits w 14 7)) (BitVec.ofNat 7 (bits w 7 7)) (BitVec.ofNat 7 (bits w 0 7)))
  | 13 =>
    if bits w 21 2 = 0 then .ok (.sel (bits w 23 1 == 1) (BitVec.ofNat 7 (bits w 14 7)) (BitVec.ofNat 7 (bits w 7 7)) (BitVec.ofNat 7 (bits w 0 7))) else
    .error .unassigned
  | 14 =>
    if bits w 21 2 = 0 then .ok (.a64 (bits w 23 1 == 1) (BitVec.ofNat 7 (bits w 14 7)) (BitVec.ofNat 7 (bits w 7 7)) (BitVec.ofNat 7 (bits w 0 7))) else
    .error .unassigned
  | 15 =>
    .ok (.a64s (bits w 23 1 == 1) (BitVec.ofNat 2 (bits w 21 2)) (BitVec.ofNat 7 (bits w 14 7)) (BitVec.ofNat 7 (bits w 7 7)) (BitVec.ofNat 7 (bits w 0 7)))
  | _ => .error .reservedMajor

/-- Majors 0x10 to 0x1F of the opcode map: the low four bits of the major select (R100). -/
def decodeRow1 (w : Nat) : Except DecodeError Instr :=
  match bits w 24 4 with
  | 0 =>
    .ok (.shfl (bits w 23 1 == 1) (BitVec.ofNat 2 (bits w 21 2)) (BitVec.ofNat 7 (bits w 14 7)) (BitVec.ofNat 7 (bits w 7 7)) (BitVec.ofNat 7 (bits w 0 7)))
  | 1 =>
    if bits w 21 2 = 0 then .ok (.vany (bits w 23 1 == 1) (BitVec.ofNat 7 (bits w 14 7)) (BitVec.ofNat 7 (bits w 7 7)) (BitVec.ofNat 7 (bits w 0 7))) else
    if bits w 21 2 = 1 then .ok (.vall (bits w 23 1 == 1) (BitVec.ofNat 7 (bits w 14 7)) (BitVec.ofNat 7 (bits w 7 7)) (BitVec.ofNat 7 (bits w 0 7))) else
    if bits w 21 2 = 2 then .ok (.vbal (bits w 23 1 == 1) (BitVec.ofNat 7 (bits w 14 7)) (BitVec.ofNat 7 (bits w 7 7)) (BitVec.ofNat 7 (bits w 0 7))) else
    .error .unassigned
  | 2 =>
    if bits w 21 2 = 0 then .ok (.radd (bits w 23 1 == 1) (BitVec.ofNat 7 (bits w 14 7)) (BitVec.ofNat 7 (bits w 7 7)) (BitVec.ofNat 7 (bits w 0 7))) else
    if bits w 0 7 = 0 ∧ bits w 21 3 = 1 then .ok (.rmin (BitVec.ofNat 7 (bits w 14 7)) (BitVec.ofNat 7 (bits w 7 7))) else
    if bits w 0 7 = 0 ∧ bits w 21 3 = 2 then .ok (.rmax (BitVec.ofNat 7 (bits w 14 7)) (BitVec.ofNat 7 (bits w 7 7))) else
    .error .unassigned
  | 3 =>
    if bits w 22 1 = 0 then .ok (.idp4 (bits w 23 1 == 1) (bits w 21 1 == 1) (BitVec.ofNat 7 (bits w 14 7)) (BitVec.ofNat 7 (bits w 7 7)) (BitVec.ofNat 7 (bits w 0 7))) else
    .error .unassigned
  | 4 =>
    .ok (.iaddi (BitVec.ofNat 7 (bits w 17 7)) (BitVec.ofNat 7 (bits w 10 7)) (BitVec.ofNat 10 (bits w 0 10)))
  | 5 =>
    .ok (.andi (BitVec.ofNat 7 (bits w 17 7)) (BitVec.ofNat 7 (bits w 10 7)) (BitVec.ofNat 10 (bits w 0 10)))
  | 6 =>
    .ok (.ori (BitVec.ofNat 7 (bits w 17 7)) (BitVec.ofNat 7 (bits w 10 7)) (BitVec.ofNat 10 (bits w 0 10)))
  | 7 =>
    .ok (.xori (BitVec.ofNat 7 (bits w 17 7)) (BitVec.ofNat 7 (bits w 10 7)) (BitVec.ofNat 10 (bits w 0 10)))
  | 8 =>
    if bits w 5 5 = 0 then .ok (.shli (BitVec.ofNat 7 (bits w 17 7)) (BitVec.ofNat 7 (bits w 10 7)) (BitVec.ofNat 5 (bits w 0 5))) else
    .error .unassigned
  | 9 =>
    if bits w 5 5 = 0 then .ok (.shri (BitVec.ofNat 7 (bits w 17 7)) (BitVec.ofNat 7 (bits w 10 7)) (BitVec.ofNat 5 (bits w 0 5))) else
    .error .unassigned
  | 10 =>
    if bits w 5 5 = 0 then .ok (.shai (BitVec.ofNat 7 (bits w 17 7)) (BitVec.ofNat 7 (bits w 10 7)) (BitVec.ofNat 5 (bits w 0 5))) else
    .error .unassigned
  | 11 =>
    .ok (.icmpi (BitVec.ofNat 7 (bits w 17 7)) (BitVec.ofNat 7 (bits w 10 7)) (BitVec.ofNat 3 (bits w 7 3)) (BitVec.ofNat 7 (bits w 0 7)))
  | 12 =>
    .ok (.a64i (BitVec.ofNat 7 (bits w 17 7)) (BitVec.ofNat 7 (bits w 10 7)) (BitVec.ofNat 10 (bits w 0 10)))
  | 13 =>
    .ok (.li (BitVec.ofNat 7 (bits w 17 7)) (BitVec.ofNat 17 (bits w 0 17)))
  | 14 =>
    .ok (.lih (BitVec.ofNat 7 (bits w 17 7)) (BitVec.ofNat 17 (bits w 0 17)))
  | 15 =>
    if bits w 3 21 = 0 then .ok (.cbsel (BitVec.ofNat 3 (bits w 0 3))) else
    .error .unassigned
  | _ => .error .reservedMajor

/-- Majors 0x20 to 0x2F of the opcode map: the low four bits of the major select (R100). -/
def decodeRow2 (w : Nat) : Except DecodeError Instr :=
  match bits w 24 4 with
  | 0 =>
    .ok (.fadd (bits w 23 1 == 1) (BitVec.ofNat 2 (bits w 21 2)) (BitVec.ofNat 7 (bits w 14 7)) (BitVec.ofNat 7 (bits w 7 7)) (BitVec.ofNat 7 (bits w 0 7)))
  | 1 =>
    .ok (.fsub (bits w 23 1 == 1) (BitVec.ofNat 2 (bits w 21 2)) (BitVec.ofNat 7 (bits w 14 7)) (BitVec.ofNat 7 (bits w 7 7)) (BitVec.ofNat 7 (bits w 0 7)))
  | 2 =>
    .ok (.fmul (bits w 23 1 == 1) (BitVec.ofNat 2 (bits w 21 2)) (BitVec.ofNat 7 (bits w 14 7)) (BitVec.ofNat 7 (bits w 7 7)) (BitVec.ofNat 7 (bits w 0 7)))
  | 3 =>
    .ok (.ffma (bits w 23 1 == 1) (BitVec.ofNat 2 (bits w 21 2)) (BitVec.ofNat 7 (bits w 14 7)) (BitVec.ofNat 7 (bits w 7 7)) (BitVec.ofNat 7 (bits w 0 7)))
  | 4 =>
    .ok (.ffms (bits w 23 1 == 1) (BitVec.ofNat 2 (bits w 21 2)) (BitVec.ofNat 7 (bits w 14 7)) (BitVec.ofNat 7 (bits w 7 7)) (BitVec.ofNat 7 (bits w 0 7)))
  | 5 =>
    if bits w 21 2 = 0 then .ok (.fmin (bits w 23 1 == 1) (BitVec.ofNat 7 (bits w 14 7)) (BitVec.ofNat 7 (bits w 7 7)) (BitVec.ofNat 7 (bits w 0 7))) else
    if bits w 21 2 = 1 then .ok (.fmax (bits w 23 1 == 1) (BitVec.ofNat 7 (bits w 14 7)) (BitVec.ofNat 7 (bits w 7 7)) (BitVec.ofNat 7 (bits w 0 7))) else
    .error .unassigned
  | 6 =>
    if bits w 0 7 = 0 ∧ bits w 21 3 = 0 then .ok (.fneg (BitVec.ofNat 7 (bits w 14 7)) (BitVec.ofNat 7 (bits w 7 7))) else
    if bits w 0 7 = 0 ∧ bits w 21 3 = 1 then .ok (.fabs (BitVec.ofNat 7 (bits w 14 7)) (BitVec.ofNat 7 (bits w 7 7))) else
    .error .unassigned
  | 7 =>
    if bits w 21 2 = 0 then .ok (.fcpsgn (bits w 23 1 == 1) (BitVec.ofNat 7 (bits w 14 7)) (BitVec.ofNat 7 (bits w 7 7)) (BitVec.ofNat 7 (bits w 0 7))) else
    .error .unassigned
  | 8 =>
    .ok (.fcmp (BitVec.ofNat 3 (bits w 21 3)) (BitVec.ofNat 7 (bits w 14 7)) (BitVec.ofNat 7 (bits w 7 7)) (BitVec.ofNat 7 (bits w 0 7)))
  | 9 =>
    if bits w 0 7 = 0 ∧ bits w 23 1 = 0 then .ok (.fsqrt (BitVec.ofNat 2 (bits w 21 2)) (BitVec.ofNat 7 (bits w 14 7)) (BitVec.ofNat 7 (bits w 7 7))) else
    .error .unassigned
  | 10 =>
    if bits w 0 7 = 0 ∧ bits w 21 3 = 0 then .ok (.frcp (BitVec.ofNat 7 (bits w 14 7)) (BitVec.ofNat 7 (bits w 7 7))) else
    if bits w 0 7 = 0 ∧ bits w 21 3 = 1 then .ok (.frsq (BitVec.ofNat 7 (bits w 14 7)) (BitVec.ofNat 7 (bits w 7 7))) else
    if bits w 0 7 = 0 ∧ bits w 21 3 = 2 then .ok (.fexp2 (BitVec.ofNat 7 (bits w 14 7)) (BitVec.ofNat 7 (bits w 7 7))) else
    if bits w 0 7 = 0 ∧ bits w 21 3 = 3 then .ok (.flog2 (BitVec.ofNat 7 (bits w 14 7)) (BitVec.ofNat 7 (bits w 7 7))) else
    .error .unassigned
  | 11 =>
    if bits w 0 7 = 0 ∧ bits w 21 3 = 0 then .ok (.ftanh (BitVec.ofNat 7 (bits w 14 7)) (BitVec.ofNat 7 (bits w 7 7))) else
    .error .unassigned
  | 12 =>
    .ok (.hadd2 (bits w 23 1 == 1) (BitVec.ofNat 2 (bits w 21 2)) (BitVec.ofNat 7 (bits w 14 7)) (BitVec.ofNat 7 (bits w 7 7)) (BitVec.ofNat 7 (bits w 0 7)))
  | 13 =>
    .ok (.hmul2 (bits w 23 1 == 1) (BitVec.ofNat 2 (bits w 21 2)) (BitVec.ofNat 7 (bits w 14 7)) (BitVec.ofNat 7 (bits w 7 7)) (BitVec.ofNat 7 (bits w 0 7)))
  | 14 =>
    .ok (.hfma2 (bits w 23 1 == 1) (BitVec.ofNat 2 (bits w 21 2)) (BitVec.ofNat 7 (bits w 14 7)) (BitVec.ofNat 7 (bits w 7 7)) (BitVec.ofNat 7 (bits w 0 7)))
  | 15 =>
    if bits w 21 2 = 0 then .ok (.hmax2 (bits w 23 1 == 1) (BitVec.ofNat 7 (bits w 14 7)) (BitVec.ofNat 7 (bits w 7 7)) (BitVec.ofNat 7 (bits w 0 7))) else
    .error .unassigned
  | _ => .error .reservedMajor

/-- Majors 0x30 to 0x3F of the opcode map: the low four bits of the major select (R100). -/
def decodeRow3 (w : Nat) : Except DecodeError Instr :=
  match bits w 24 4 with
  | 0 =>
    if bits w 4 3 = 0 ∧ bits w 23 1 = 0 then .ok (.cvtf (BitVec.ofNat 2 (bits w 21 2)) (BitVec.ofNat 7 (bits w 14 7)) (BitVec.ofNat 7 (bits w 7 7)) (BitVec.ofNat 4 (bits w 0 4))) else
    .error .unassigned
  | 1 =>
    if bits w 4 3 = 0 ∧ bits w 23 1 = 0 then .ok (.cvti (BitVec.ofNat 2 (bits w 21 2)) (BitVec.ofNat 7 (bits w 14 7)) (BitVec.ofNat 7 (bits w 7 7)) (BitVec.ofNat 4 (bits w 0 4))) else
    .error .unassigned
  | 2 =>
    if bits w 4 3 = 0 ∧ bits w 23 1 = 0 then .ok (.cvtfi (BitVec.ofNat 2 (bits w 21 2)) (BitVec.ofNat 7 (bits w 14 7)) (BitVec.ofNat 7 (bits w 7 7)) (BitVec.ofNat 4 (bits w 0 4))) else
    .error .unassigned
  | 3 =>
    if bits w 4 3 = 0 ∧ bits w 23 1 = 0 then .ok (.pk2 (BitVec.ofNat 2 (bits w 21 2)) (BitVec.ofNat 7 (bits w 14 7)) (BitVec.ofNat 7 (bits w 7 7)) (BitVec.ofNat 4 (bits w 0 4))) else
    .error .unassigned
  | 4 =>
    if bits w 4 3 = 0 ∧ bits w 23 1 = 0 then .ok (.pk4 (BitVec.ofNat 2 (bits w 21 2)) (BitVec.ofNat 7 (bits w 14 7)) (BitVec.ofNat 7 (bits w 7 7)) (BitVec.ofNat 4 (bits w 0 4))) else
    .error .unassigned
  | 5 =>
    if bits w 4 3 = 0 ∧ bits w 21 3 = 0 then .ok (.unpk2 (BitVec.ofNat 7 (bits w 14 7)) (BitVec.ofNat 7 (bits w 7 7)) (BitVec.ofNat 4 (bits w 0 4))) else
    if bits w 4 3 = 0 ∧ bits w 21 3 = 1 then .ok (.unpk4 (BitVec.ofNat 7 (bits w 14 7)) (BitVec.ofNat 7 (bits w 7 7)) (BitVec.ofNat 4 (bits w 0 4))) else
    .error .unassigned
  | 6 =>
    if bits w 4 3 = 0 ∧ bits w 23 1 = 0 then .ok (.dqcb (BitVec.ofNat 2 (bits w 21 2)) (BitVec.ofNat 7 (bits w 14 7)) (BitVec.ofNat 7 (bits w 7 7)) (BitVec.ofNat 4 (bits w 0 4))) else
    .error .unassigned
  | 7 =>
    if bits w 4 3 = 0 ∧ bits w 23 1 = 0 then .ok (.dqe2 (BitVec.ofNat 2 (bits w 21 2)) (BitVec.ofNat 7 (bits w 14 7)) (BitVec.ofNat 7 (bits w 7 7)) (BitVec.ofNat 4 (bits w 0 4))) else
    .error .unassigned
  | 8 =>
    if bits w 0 7 = 8 ∧ bits w 23 1 = 0 then .ok (.qcb (BitVec.ofNat 2 (bits w 21 2)) (BitVec.ofNat 7 (bits w 14 7)) (BitVec.ofNat 7 (bits w 7 7))) else
    .error .unassigned
  | 9 =>
    if bits w 0 7 = 7 ∧ bits w 23 1 = 0 then .ok (.qe2 (BitVec.ofNat 2 (bits w 21 2)) (BitVec.ofNat 7 (bits w 14 7)) (BitVec.ofNat 7 (bits w 7 7))) else
    .error .unassigned
  | 10 =>
    if bits w 0 7 = 0 ∧ bits w 21 3 = 0 then .ok (.tagrd (BitVec.ofNat 7 (bits w 14 7)) (BitVec.ofNat 7 (bits w 7 7))) else
    .error .unassigned
  | 11 =>
    if bits w 4 3 = 0 ∧ bits w 21 3 = 0 then .ok (.tagset (BitVec.ofNat 7 (bits w 14 7)) (BitVec.ofNat 7 (bits w 7 7)) (BitVec.ofNat 4 (bits w 0 4))) else
    .error .unassigned
  | _ => .error .reservedMajor

/-- Majors 0x40 to 0x4F of the opcode map: the low four bits of the major select (R100). -/
def decodeRow4 (w : Nat) : Except DecodeError Instr :=
  match bits w 24 4 with
  | 0 =>
    .ok (.ld (BitVec.ofNat 3 (bits w 21 3)) (BitVec.ofNat 7 (bits w 14 7)) (BitVec.ofNat 7 (bits w 7 7)) (BitVec.ofNat 7 (bits w 0 7)))
  | 1 =>
    .ok (.st (BitVec.ofNat 3 (bits w 21 3)) (BitVec.ofNat 7 (bits w 14 7)) (BitVec.ofNat 7 (bits w 7 7)) (BitVec.ofNat 7 (bits w 0 7)))
  | 2 =>
    if bits w 1 1 = 0 then .ok (.ldo (BitVec.ofNat 3 (bits w 21 3)) (BitVec.ofNat 7 (bits w 14 7)) (BitVec.ofNat 7 (bits w 7 7)) (BitVec.ofNat 3 (bits w 4 3)) (BitVec.ofNat 2 (bits w 2 2)) (bits w 0 1 == 1)) else
    .error .unassigned
  | 3 =>
    if bits w 0 2 = 0 then .ok (.sto (BitVec.ofNat 3 (bits w 21 3)) (BitVec.ofNat 7 (bits w 14 7)) (BitVec.ofNat 7 (bits w 7 7)) (BitVec.ofNat 3 (bits w 4 3)) (BitVec.ofNat 2 (bits w 2 2))) else
    .error .unassigned
  | 4 =>
    .ok (.ldl (BitVec.ofNat 3 (bits w 21 3)) (BitVec.ofNat 7 (bits w 14 7)) (BitVec.ofNat 7 (bits w 7 7)) (BitVec.ofNat 7 (bits w 0 7)))
  | 5 =>
    .ok (.stl (BitVec.ofNat 3 (bits w 21 3)) (BitVec.ofNat 7 (bits w 14 7)) (BitVec.ofNat 7 (bits w 7 7)) (BitVec.ofNat 7 (bits w 0 7)))
  | 6 =>
    if bits w 21 3 = 0 then .ok (.ldcb (BitVec.ofNat 7 (bits w 14 7)) (BitVec.ofNat 7 (bits w 7 7)) (BitVec.ofNat 7 (bits w 0 7))) else
    .error .unassigned
  | 7 =>
    if bits w 0 2 = 0 then .ok (.modw (BitVec.ofNat 3 (bits w 21 3)) (BitVec.ofNat 7 (bits w 14 7)) (BitVec.ofNat 7 (bits w 7 7)) (BitVec.ofNat 3 (bits w 4 3)) (BitVec.ofNat 2 (bits w 2 2))) else
    .error .unassigned
  | 8 =>
    if bits w 0 2 = 0 then .ok (.aadd (BitVec.ofNat 3 (bits w 21 3)) (BitVec.ofNat 7 (bits w 14 7)) (BitVec.ofNat 7 (bits w 7 7)) (BitVec.ofNat 3 (bits w 4 3)) (BitVec.ofNat 2 (bits w 2 2))) else
    .error .unassigned
  | 9 =>
    if bits w 1 1 = 0 then .ok (.amin (BitVec.ofNat 3 (bits w 21 3)) (BitVec.ofNat 7 (bits w 14 7)) (BitVec.ofNat 7 (bits w 7 7)) (BitVec.ofNat 3 (bits w 4 3)) (BitVec.ofNat 2 (bits w 2 2)) (bits w 0 1 == 1)) else
    if bits w 1 1 = 1 then .ok (.amax (BitVec.ofNat 3 (bits w 21 3)) (BitVec.ofNat 7 (bits w 14 7)) (BitVec.ofNat 7 (bits w 7 7)) (BitVec.ofNat 3 (bits w 4 3)) (BitVec.ofNat 2 (bits w 2 2)) (bits w 0 1 == 1)) else
    .error .unassigned
  | 10 =>
    if bits w 0 2 = 0 then .ok (.aand (BitVec.ofNat 3 (bits w 21 3)) (BitVec.ofNat 7 (bits w 14 7)) (BitVec.ofNat 7 (bits w 7 7)) (BitVec.ofNat 3 (bits w 4 3)) (BitVec.ofNat 2 (bits w 2 2))) else
    .error .unassigned
  | 11 =>
    if bits w 0 2 = 0 then .ok (.aor (BitVec.ofNat 3 (bits w 21 3)) (BitVec.ofNat 7 (bits w 14 7)) (BitVec.ofNat 7 (bits w 7 7)) (BitVec.ofNat 3 (bits w 4 3)) (BitVec.ofNat 2 (bits w 2 2))) else
    .error .unassigned
  | 12 =>
    if bits w 0 2 = 0 then .ok (.axor (BitVec.ofNat 3 (bits w 21 3)) (BitVec.ofNat 7 (bits w 14 7)) (BitVec.ofNat 7 (bits w 7 7)) (BitVec.ofNat 3 (bits w 4 3)) (BitVec.ofNat 2 (bits w 2 2))) else
    .error .unassigned
  | 13 =>
    if bits w 0 2 = 0 then .ok (.axch (BitVec.ofNat 3 (bits w 21 3)) (BitVec.ofNat 7 (bits w 14 7)) (BitVec.ofNat 7 (bits w 7 7)) (BitVec.ofNat 3 (bits w 4 3)) (BitVec.ofNat 2 (bits w 2 2))) else
    .error .unassigned
  | 14 =>
    if bits w 0 2 = 0 ∧ bits w 22 2 = 1 then .ok (.acas (bits w 21 1 == 1) (BitVec.ofNat 7 (bits w 14 7)) (BitVec.ofNat 7 (bits w 7 7)) (BitVec.ofNat 3 (bits w 4 3)) (BitVec.ofNat 2 (bits w 2 2))) else
    if bits w 0 2 = 0 ∧ bits w 21 3 = 4 then .ok (.acasQ (BitVec.ofNat 7 (bits w 14 7)) (BitVec.ofNat 7 (bits w 7 7)) (BitVec.ofNat 3 (bits w 4 3)) (BitVec.ofNat 2 (bits w 2 2))) else
    .error .unassigned
  | 15 =>
    if bits w 0 2 = 0 ∧ bits w 21 3 = 2 then .ok (.afadd (BitVec.ofNat 7 (bits w 14 7)) (BitVec.ofNat 7 (bits w 7 7)) (BitVec.ofNat 3 (bits w 4 3)) (BitVec.ofNat 2 (bits w 2 2))) else
    .error .unassigned
  | _ => .error .reservedMajor

/-- Majors 0x50 to 0x5F of the opcode map: the low four bits of the major select (R100). -/
def decodeRow5 (w : Nat) : Except DecodeError Instr :=
  match bits w 24 4 with
  | 0 =>
    if bits w 0 1 = 0 then .ok (.tkt (BitVec.ofNat 7 (bits w 17 7)) (BitVec.ofNat 7 (bits w 10 7)) (BitVec.ofNat 7 (bits w 3 7)) (bits w 2 1 == 1) (bits w 1 1 == 1)) else
    .error .unassigned
  | 1 =>
    if bits w 0 1 = 0 then .ok (.depadd (BitVec.ofNat 7 (bits w 17 7)) (BitVec.ofNat 7 (bits w 10 7)) (BitVec.ofNat 7 (bits w 3 7)) (bits w 2 1 == 1) (bits w 1 1 == 1)) else
    .error .unassigned
  | 2 =>
    if bits w 0 1 = 0 then .ok (.cpy (BitVec.ofNat 7 (bits w 17 7)) (BitVec.ofNat 7 (bits w 10 7)) (BitVec.ofNat 7 (bits w 3 7)) (bits w 2 1 == 1) (bits w 1 1 == 1)) else
    .error .unassigned
  | 3 =>
    if bits w 0 1 = 0 then .ok (.cpyt (BitVec.ofNat 7 (bits w 17 7)) (BitVec.ofNat 7 (bits w 10 7)) (BitVec.ofNat 7 (bits w 3 7)) (bits w 2 1 == 1) (bits w 1 1 == 1)) else
    .error .unassigned
  | 4 =>
    if bits w 0 1 = 0 then .ok (.cpyg (BitVec.ofNat 7 (bits w 17 7)) (BitVec.ofNat 7 (bits w 10 7)) (BitVec.ofNat 7 (bits w 3 7)) (bits w 2 1 == 1) (bits w 1 1 == 1)) else
    .error .unassigned
  | 5 =>
    if bits w 0 1 = 0 then .ok (.cpyw (BitVec.ofNat 7 (bits w 17 7)) (BitVec.ofNat 7 (bits w 10 7)) (BitVec.ofNat 7 (bits w 3 7)) (bits w 2 1 == 1) (bits w 1 1 == 1)) else
    .error .unassigned
  | 6 =>
    if bits w 0 2 = 0 ∧ bits w 3 7 = 0 ∧ bits w 17 7 = 0 then .ok (.pub (BitVec.ofNat 7 (bits w 10 7)) (bits w 2 1 == 1)) else
    .error .unassigned
  | 7 =>
    if bits w 0 1 = 0 ∧ bits w 17 7 = 0 then .ok (.disc (BitVec.ofNat 7 (bits w 10 7)) (BitVec.ofNat 7 (bits w 3 7)) (bits w 2 1 == 1) (bits w 1 1 == 1)) else
    .error .unassigned
  | 8 =>
    if bits w 0 1 = 0 ∧ bits w 17 7 = 0 then .ok (.pref (BitVec.ofNat 7 (bits w 10 7)) (BitVec.ofNat 7 (bits w 3 7)) (bits w 2 1 == 1) (bits w 1 1 == 1)) else
    .error .unassigned
  | 9 =>
    if bits w 0 1 = 0 ∧ bits w 17 7 = 0 then .ok (.smap (BitVec.ofNat 7 (bits w 10 7)) (BitVec.ofNat 7 (bits w 3 7)) (bits w 2 1 == 1) (bits w 1 1 == 1)) else
    .error .unassigned
  | 10 =>
    if bits w 0 1 = 0 ∧ bits w 17 7 = 0 then .ok (.sflush (BitVec.ofNat 7 (bits w 10 7)) (BitVec.ofNat 7 (bits w 3 7)) (bits w 2 1 == 1) (bits w 1 1 == 1)) else
    .error .unassigned
  | 11 =>
    if bits w 0 2 = 0 ∧ bits w 3 7 = 0 ∧ bits w 17 7 = 0 then .ok (.sdrop (BitVec.ofNat 7 (bits w 10 7)) (bits w 2 1 == 1)) else
    .error .unassigned
  | 12 =>
    if bits w 0 1 = 0 ∧ bits w 17 7 = 0 then .ok (.tilev (BitVec.ofNat 7 (bits w 10 7)) (BitVec.ofNat 7 (bits w 3 7)) (bits w 2 1 == 1) (bits w 1 1 == 1)) else
    .error .unassigned
  | 13 =>
    if bits w 0 1 = 0 ∧ bits w 17 7 = 0 then .ok (.tilec (BitVec.ofNat 7 (bits w 10 7)) (BitVec.ofNat 7 (bits w 3 7)) (bits w 2 1 == 1) (bits w 1 1 == 1)) else
    .error .unassigned
  | 14 =>
    if bits w 0 1 = 0 ∧ bits w 17 7 = 0 then .ok (.tileclr (BitVec.ofNat 7 (bits w 10 7)) (BitVec.ofNat 7 (bits w 3 7)) (bits w 2 1 == 1) (bits w 1 1 == 1)) else
    .error .unassigned
  | 15 =>
    if bits w 0 1 = 0 then .ok (.coll (BitVec.ofNat 7 (bits w 17 7)) (BitVec.ofNat 7 (bits w 10 7)) (BitVec.ofNat 7 (bits w 3 7)) (bits w 2 1 == 1) (bits w 1 1 == 1)) else
    .error .unassigned
  | _ => .error .reservedMajor

/-- Majors 0x60 to 0x6F of the opcode map: the low four bits of the major select (R100). -/
def decodeRow6 (w : Nat) : Except DecodeError Instr :=
  match bits w 24 4 with
  | 0 =>
    .ok (.br (BitVec.ofNat 7 (bits w 17 7)) (BitVec.ofNat 15 (bits w 2 15)) (BitVec.ofNat 2 (bits w 0 2)))
  | 1 =>
    .ok (.brz (BitVec.ofNat 7 (bits w 17 7)) (BitVec.ofNat 15 (bits w 2 15)) (BitVec.ofNat 2 (bits w 0 2)))
  | 2 =>
    if bits w 17 7 = 0 then .ok (.jmp (BitVec.ofNat 15 (bits w 2 15)) (BitVec.ofNat 2 (bits w 0 2))) else
    .error .unassigned
  | 3 =>
    .ok (.call (BitVec.ofNat 7 (bits w 17 7)) (BitVec.ofNat 15 (bits w 2 15)) (BitVec.ofNat 2 (bits w 0 2)))
  | 4 =>
    .ok (.rbeg (BitVec.ofNat 7 (bits w 17 7)) (BitVec.ofNat 15 (bits w 2 15)) (BitVec.ofNat 2 (bits w 0 2)))
  | 5 =>
    if bits w 0 2 = 0 ∧ bits w 3 7 = 0 ∧ bits w 17 7 = 0 then .ok (.jr (BitVec.ofNat 7 (bits w 10 7)) (bits w 2 1 == 1)) else
    if bits w 0 2 = 1 ∧ bits w 3 7 = 0 ∧ bits w 17 7 = 0 then .ok (.ret (BitVec.ofNat 7 (bits w 10 7)) (bits w 2 1 == 1)) else
    .error .unassigned
  | 6 =>
    if bits w 0 24 = 0 then .ok (.exit) else
    if bits w 0 24 = 1 then .ok (.yield) else
    if bits w 0 24 = 2 then .ok (.idem) else
    if bits w 0 24 = 3 then .ok (.tret) else
    if bits w 0 24 = 4 then .ok (.tabn) else
    if bits w 0 24 = 5 then .ok (.tkill) else
    if bits w 0 24 = 6 then .ok (.rcmt) else
    if bits w 0 24 = 7 then .ok (.rabt) else
    .error .unassigned
  | 7 =>
    if bits w 10 7 = 0 then .ok (.rds (BitVec.ofNat 7 (bits w 17 7)) (BitVec.ofNat 10 (bits w 0 10))) else
    .error .unassigned
  | 8 =>
    if bits w 17 7 = 0 then .ok (.wrs (BitVec.ofNat 7 (bits w 10 7)) (BitVec.ofNat 10 (bits w 0 10))) else
    .error .unassigned
  | 9 =>
    if bits w 4 20 = 0 then .ok (.regclm (BitVec.ofNat 4 (bits w 0 4))) else
    if bits w 4 20 = 32 then .ok (.regrel (BitVec.ofNat 4 (bits w 0 4))) else
    .error .unassigned
  | 10 =>
    if bits w 0 2 = 0 ∧ bits w 3 7 = 0 then .ok (.spawn (BitVec.ofNat 7 (bits w 17 7)) (BitVec.ofNat 7 (bits w 10 7)) (bits w 2 1 == 1)) else
    if bits w 0 2 = 1 ∧ bits w 3 7 = 0 then .ok (.spawnw (BitVec.ofNat 7 (bits w 17 7)) (BitVec.ofNat 7 (bits w 10 7)) (bits w 2 1 == 1)) else
    .error .unassigned
  | 11 =>
    if bits w 10 14 = 0 then .ok (.waitc (BitVec.ofNat 2 (bits w 8 2)) (BitVec.ofNat 8 (bits w 0 8))) else
    .error .unassigned
  | 12 =>
    if bits w 0 3 = 0 then .ok (.phreg (BitVec.ofNat 7 (bits w 17 7)) (BitVec.ofNat 7 (bits w 10 7)) (BitVec.ofNat 7 (bits w 3 7))) else
    if bits w 0 3 = 1 then .ok (.phmode (BitVec.ofNat 7 (bits w 17 7)) (BitVec.ofNat 7 (bits w 10 7)) (BitVec.ofNat 7 (bits w 3 7))) else
    if bits w 0 10 = 2 then .ok (.phdrop (BitVec.ofNat 7 (bits w 17 7)) (BitVec.ofNat 7 (bits w 10 7))) else
    if bits w 0 10 = 3 then .ok (.phsig (BitVec.ofNat 7 (bits w 17 7)) (BitVec.ofNat 7 (bits w 10 7))) else
    if bits w 0 10 = 4 then .ok (.phwait (BitVec.ofNat 7 (bits w 17 7)) (BitVec.ofNat 7 (bits w 10 7))) else
    if bits w 0 10 = 5 then .ok (.phnext (BitVec.ofNat 7 (bits w 17 7)) (BitVec.ofNat 7 (bits w 10 7))) else
    .error .unassigned
  | 13 =>
    if bits w 0 3 = 0 ∧ bits w 17 7 = 0 then .ok (.rngi (BitVec.ofNat 7 (bits w 10 7)) (BitVec.ofNat 7 (bits w 3 7))) else
    if bits w 0 3 = 1 ∧ bits w 17 7 = 0 then .ok (.rngw (BitVec.ofNat 7 (bits w 10 7)) (BitVec.ofNat 7 (bits w 3 7))) else
    if bits w 0 3 = 2 ∧ bits w 17 7 = 0 then .ok (.rngs (BitVec.ofNat 7 (bits w 10 7)) (BitVec.ofNat 7 (bits w 3 7))) else
    .error .unassigned
  | 14 =>
    if bits w 0 17 = 0 then .ok (.rstat (BitVec.ofNat 7 (bits w 17 7))) else
    .error .unassigned
  | 15 =>
    if bits w 0 1 = 0 then .ok (.cstat (BitVec.ofNat 7 (bits w 17 7)) (BitVec.ofNat 7 (bits w 10 7)) (BitVec.ofNat 7 (bits w 3 7)) (bits w 2 1 == 1) (bits w 1 1 == 1)) else
    .error .unassigned
  | _ => .error .reservedMajor

/-- Majors 0x70 to 0x7F of the opcode map: the low four bits of the major select (R100). -/
def decodeRow7 (w : Nat) : Except DecodeError Instr :=
  match bits w 24 4 with
  | 0 =>
    if bits w 10 14 = 0 then .ok (.trap (BitVec.ofNat 10 (bits w 0 10))) else
    .error .unassigned
  | 1 =>
    if bits w 10 14 = 0 then .ok (.brk (BitVec.ofNat 10 (bits w 0 10))) else
    .error .unassigned
  | 2 =>
    if bits w 0 10 = 0 then .ok (.prop (BitVec.ofNat 7 (bits w 17 7)) (BitVec.ofNat 7 (bits w 10 7))) else
    if bits w 0 3 = 1 then .ok (.trctl (BitVec.ofNat 7 (bits w 17 7)) (BitVec.ofNat 7 (bits w 10 7)) (BitVec.ofNat 7 (bits w 3 7))) else
    if bits w 0 17 = 2 then .ok (.tkey (BitVec.ofNat 7 (bits w 17 7))) else
    .error .unassigned
  | 3 =>
    if bits w 0 5 = 0 then .ok (.mmqBf16 (BitVec.ofNat 4 (bits w 20 4)) (BitVec.ofNat 7 (bits w 13 7)) (BitVec.ofNat 7 (bits w 6 7)) (bits w 5 1 == 1)) else
    .error .unassigned
  | 4 =>
    if bits w 0 5 = 0 then .ok (.mmqF16 (BitVec.ofNat 4 (bits w 20 4)) (BitVec.ofNat 7 (bits w 13 7)) (BitVec.ofNat 7 (bits w 6 7)) (bits w 5 1 == 1)) else
    .error .unassigned
  | 5 =>
    if bits w 0 5 = 0 then .ok (.mmqE4m3 (BitVec.ofNat 4 (bits w 20 4)) (BitVec.ofNat 7 (bits w 13 7)) (BitVec.ofNat 7 (bits w 6 7)) (bits w 5 1 == 1)) else
    .error .unassigned
  | 6 =>
    if bits w 0 5 = 0 then .ok (.mmqE5m2 (BitVec.ofNat 4 (bits w 20 4)) (BitVec.ofNat 7 (bits w 13 7)) (BitVec.ofNat 7 (bits w 6 7)) (bits w 5 1 == 1)) else
    .error .unassigned
  | 7 =>
    if bits w 0 5 = 0 then .ok (.mmqI8 (BitVec.ofNat 4 (bits w 20 4)) (BitVec.ofNat 7 (bits w 13 7)) (BitVec.ofNat 7 (bits w 6 7)) (bits w 5 1 == 1)) else
    .error .unassigned
  | 8 =>
    if bits w 0 5 = 0 then .ok (.mmqCb4 (BitVec.ofNat 4 (bits w 20 4)) (BitVec.ofNat 7 (bits w 13 7)) (BitVec.ofNat 7 (bits w 6 7)) (bits w 5 1 == 1)) else
    .error .unassigned
  | 9 =>
    if bits w 0 5 = 0 then .ok (.mmqCbbf (BitVec.ofNat 4 (bits w 20 4)) (BitVec.ofNat 7 (bits w 13 7)) (BitVec.ofNat 7 (bits w 6 7)) (bits w 5 1 == 1)) else
    .error .unassigned
  | 10 =>
    if bits w 0 4 = 0 then .ok (.mmqE2m1 (BitVec.ofNat 4 (bits w 20 4)) (BitVec.ofNat 7 (bits w 13 7)) (BitVec.ofNat 7 (bits w 6 7)) (bits w 5 1 == 1) (bits w 4 1 == 1)) else
    .error .unassigned
  | 11 =>
    if bits w 0 20 = 0 then .ok (.mmz (BitVec.ofNat 4 (bits w 20 4))) else
    .error .unassigned
  | 12 =>
    if bits w 0 13 = 0 then .ok (.mmrd (BitVec.ofNat 4 (bits w 20 4)) (BitVec.ofNat 7 (bits w 13 7))) else
    .error .unassigned
  | 13 =>
    if bits w 0 13 = 0 then .ok (.mmwr (BitVec.ofNat 4 (bits w 20 4)) (BitVec.ofNat 7 (bits w 13 7))) else
    .error .unassigned
  | 14 =>
    if bits w 0 13 = 0 then .ok (.mmst (BitVec.ofNat 4 (bits w 20 4)) (BitVec.ofNat 7 (bits w 13 7))) else
    .error .unassigned
  | 15 =>
    if bits w 0 13 = 0 then .ok (.mmld (BitVec.ofNat 4 (bits w 20 4)) (BitVec.ofNat 7 (bits w 13 7))) else
    .error .unassigned
  | _ => .error .reservedMajor

/-- The instruction of a word, whatever its chain bit (R94, R95, R100 to R103); the major opcode is bits [30:24]. -/
def decodeWord (w : Nat) : Except DecodeError Instr :=
  match bits w 28 3 with
  | 0 => decodeRow0 w
  | 1 => decodeRow1 w
  | 2 => decodeRow2 w
  | 3 => decodeRow3 w
  | 4 => decodeRow4 w
  | 5 => decodeRow5 w
  | 6 => decodeRow6 w
  | _ => decodeRow7 w

/-- A word of a packet. -/
def decodeChainWord (w : Nat) : Except DecodeError ChainWord :=
  match decodeWord w with
  | .ok i => .ok { chain := bits w 31 1 == 1, instr := i }
  | .error e => .error e

/-- A boolean field as its bit. -/
def bitOf (b : Bool) : Nat := if b then 1 else 0

/-- The 32-bit word of an instruction with its chain bit clear (R95, R100 to R102); the device's other steps have none. -/
def encode : Instr → Option Nat
  | .nop => some (0)
  | .iadd u d a b => some (16777216 + bitOf u * 8388608 + d.toNat * 16384 + a.toNat * 128 + b.toNat)
  | .isub u d a b => some (33554432 + bitOf u * 8388608 + d.toNat * 16384 + a.toNat * 128 + b.toNat)
  | .imul u d a b => some (50331648 + bitOf u * 8388608 + d.toNat * 16384 + a.toNat * 128 + b.toNat)
  | .imulhS u d a b => some (52428800 + bitOf u * 8388608 + d.toNat * 16384 + a.toNat * 128 + b.toNat)
  | .imulhZ u d a b => some (54525952 + bitOf u * 8388608 + d.toNat * 16384 + a.toNat * 128 + b.toNat)
  | .imad u d a b => some (67108864 + bitOf u * 8388608 + d.toNat * 16384 + a.toNat * 128 + b.toNat)
  | .imin u z d a b => some (83886080 + bitOf u * 8388608 + bitOf z * 4194304 + d.toNat * 16384 + a.toNat * 128 + b.toNat)
  | .imax u z d a b => some (85983232 + bitOf u * 8388608 + bitOf z * 4194304 + d.toNat * 16384 + a.toNat * 128 + b.toNat)
  | .iabs d a => some (100663296 + d.toNat * 16384 + a.toNat * 128)
  | .and u d a b => some (117440512 + bitOf u * 8388608 + d.toNat * 16384 + a.toNat * 128 + b.toNat)
  | .or u d a b => some (119537664 + bitOf u * 8388608 + d.toNat * 16384 + a.toNat * 128 + b.toNat)
  | .xor u d a b => some (121634816 + bitOf u * 8388608 + d.toNat * 16384 + a.toNat * 128 + b.toNat)
  | .andn u d a b => some (123731968 + bitOf u * 8388608 + d.toNat * 16384 + a.toNat * 128 + b.toNat)
  | .shl u d a b => some (134217728 + bitOf u * 8388608 + d.toNat * 16384 + a.toNat * 128 + b.toNat)
  | .shr u d a b => some (136314880 + bitOf u * 8388608 + d.toNat * 16384 + a.toNat * 128 + b.toNat)
  | .sha u d a b => some (138412032 + bitOf u * 8388608 + d.toNat * 16384 + a.toNat * 128 + b.toNat)
  | .popc d a => some (150994944 + d.toNat * 16384 + a.toNat * 128)
  | .clz d a => some (153092096 + d.toNat * 16384 + a.toNat * 128)
  | .brev d a => some (155189248 + d.toNat * 16384 + a.toNat * 128)
  | .bfx u z d a b => some (167772160 + bitOf u * 8388608 + bitOf z * 2097152 + d.toNat * 16384 + a.toNat * 128 + b.toNat)
  | .bfi u d a b => some (184549376 + bitOf u * 8388608 + d.toNat * 16384 + a.toNat * 128 + b.toNat)
  | .icmp rel d a b => some (201326592 + rel.toNat * 2097152 + d.toNat * 16384 + a.toNat * 128 + b.toNat)
  | .sel u d a b => some (218103808 + bitOf u * 8388608 + d.toNat * 16384 + a.toNat * 128 + b.toNat)
  | .a64 u d a b => some (234881024 + bitOf u * 8388608 + d.toNat * 16384 + a.toNat * 128 + b.toNat)
  | .a64s u sc d a b => some (251658240 + bitOf u * 8388608 + sc.toNat * 2097152 + d.toNat * 16384 + a.toNat * 128 + b.toNat)
  | .shfl u pat d a b => some (268435456 + bitOf u * 8388608 + pat.toNat * 2097152 + d.toNat * 16384 + a.toNat * 128 + b.toNat)
  | .vany u d a b => some (285212672 + bitOf u * 8388608 + d.toNat * 16384 + a.toNat * 128 + b.toNat)
  | .vall u d a b => some (287309824 + bitOf u * 8388608 + d.toNat * 16384 + a.toNat * 128 + b.toNat)
  | .vbal u d a b => some (289406976 + bitOf u * 8388608 + d.toNat * 16384 + a.toNat * 128 + b.toNat)
  | .radd u d a b => some (301989888 + bitOf u * 8388608 + d.toNat * 16384 + a.toNat * 128 + b.toNat)
  | .rmin d a => some (304087040 + d.toNat * 16384 + a.toNat * 128)
  | .rmax d a => some (306184192 + d.toNat * 16384 + a.toNat * 128)
  | .idp4 u z d a b => some (318767104 + bitOf u * 8388608 + bitOf z * 2097152 + d.toNat * 16384 + a.toNat * 128 + b.toNat)
  | .iaddi d a imm => some (335544320 + d.toNat * 131072 + a.toNat * 1024 + imm.toNat)
  | .andi d a imm => some (352321536 + d.toNat * 131072 + a.toNat * 1024 + imm.toNat)
  | .ori d a imm => some (369098752 + d.toNat * 131072 + a.toNat * 1024 + imm.toNat)
  | .xori d a imm => some (385875968 + d.toNat * 131072 + a.toNat * 1024 + imm.toNat)
  | .shli d a imm => some (402653184 + d.toNat * 131072 + a.toNat * 1024 + imm.toNat)
  | .shri d a imm => some (419430400 + d.toNat * 131072 + a.toNat * 1024 + imm.toNat)
  | .shai d a imm => some (436207616 + d.toNat * 131072 + a.toNat * 1024 + imm.toNat)
  | .icmpi d a rel imm => some (452984832 + d.toNat * 131072 + a.toNat * 1024 + rel.toNat * 128 + imm.toNat)
  | .a64i d a imm => some (469762048 + d.toNat * 131072 + a.toNat * 1024 + imm.toNat)
  | .li d imm => some (486539264 + d.toNat * 131072 + imm.toNat)
  | .lih d imm => some (503316480 + d.toNat * 131072 + imm.toNat)
  | .cbsel imm => some (520093696 + imm.toNat)
  | .fadd u rm d a b => some (536870912 + bitOf u * 8388608 + rm.toNat * 2097152 + d.toNat * 16384 + a.toNat * 128 + b.toNat)
  | .fsub u rm d a b => some (553648128 + bitOf u * 8388608 + rm.toNat * 2097152 + d.toNat * 16384 + a.toNat * 128 + b.toNat)
  | .fmul u rm d a b => some (570425344 + bitOf u * 8388608 + rm.toNat * 2097152 + d.toNat * 16384 + a.toNat * 128 + b.toNat)
  | .ffma u rm d a b => some (587202560 + bitOf u * 8388608 + rm.toNat * 2097152 + d.toNat * 16384 + a.toNat * 128 + b.toNat)
  | .ffms u rm d a b => some (603979776 + bitOf u * 8388608 + rm.toNat * 2097152 + d.toNat * 16384 + a.toNat * 128 + b.toNat)
  | .fmin u d a b => some (620756992 + bitOf u * 8388608 + d.toNat * 16384 + a.toNat * 128 + b.toNat)
  | .fmax u d a b => some (622854144 + bitOf u * 8388608 + d.toNat * 16384 + a.toNat * 128 + b.toNat)
  | .fneg d a => some (637534208 + d.toNat * 16384 + a.toNat * 128)
  | .fabs d a => some (639631360 + d.toNat * 16384 + a.toNat * 128)
  | .fcpsgn u d a b => some (654311424 + bitOf u * 8388608 + d.toNat * 16384 + a.toNat * 128 + b.toNat)
  | .fcmp rel d a b => some (671088640 + rel.toNat * 2097152 + d.toNat * 16384 + a.toNat * 128 + b.toNat)
  | .fsqrt rm d a => some (687865856 + rm.toNat * 2097152 + d.toNat * 16384 + a.toNat * 128)
  | .frcp d a => some (704643072 + d.toNat * 16384 + a.toNat * 128)
  | .frsq d a => some (706740224 + d.toNat * 16384 + a.toNat * 128)
  | .fexp2 d a => some (708837376 + d.toNat * 16384 + a.toNat * 128)
  | .flog2 d a => some (710934528 + d.toNat * 16384 + a.toNat * 128)
  | .ftanh d a => some (721420288 + d.toNat * 16384 + a.toNat * 128)
  | .hadd2 u rm d a b => some (738197504 + bitOf u * 8388608 + rm.toNat * 2097152 + d.toNat * 16384 + a.toNat * 128 + b.toNat)
  | .hmul2 u rm d a b => some (754974720 + bitOf u * 8388608 + rm.toNat * 2097152 + d.toNat * 16384 + a.toNat * 128 + b.toNat)
  | .hfma2 u rm d a b => some (771751936 + bitOf u * 8388608 + rm.toNat * 2097152 + d.toNat * 16384 + a.toNat * 128 + b.toNat)
  | .hmax2 u d a b => some (788529152 + bitOf u * 8388608 + d.toNat * 16384 + a.toNat * 128 + b.toNat)
  | .cvtf rm d a tgt => some (805306368 + rm.toNat * 2097152 + d.toNat * 16384 + a.toNat * 128 + tgt.toNat)
  | .cvti rm d a tgt => some (822083584 + rm.toNat * 2097152 + d.toNat * 16384 + a.toNat * 128 + tgt.toNat)
  | .cvtfi rm d a tgt => some (838860800 + rm.toNat * 2097152 + d.toNat * 16384 + a.toNat * 128 + tgt.toNat)
  | .pk2 rm d a tgt => some (855638016 + rm.toNat * 2097152 + d.toNat * 16384 + a.toNat * 128 + tgt.toNat)
  | .pk4 rm d a tgt => some (872415232 + rm.toNat * 2097152 + d.toNat * 16384 + a.toNat * 128 + tgt.toNat)
  | .unpk2 d a tgt => some (889192448 + d.toNat * 16384 + a.toNat * 128 + tgt.toNat)
  | .unpk4 d a tgt => some (891289600 + d.toNat * 16384 + a.toNat * 128 + tgt.toNat)
  | .dqcb rm d a tgt => some (905969664 + rm.toNat * 2097152 + d.toNat * 16384 + a.toNat * 128 + tgt.toNat)
  | .dqe2 rm d a tgt => some (922746880 + rm.toNat * 2097152 + d.toNat * 16384 + a.toNat * 128 + tgt.toNat)
  | .qcb rm d a => some (939524104 + rm.toNat * 2097152 + d.toNat * 16384 + a.toNat * 128)
  | .qe2 rm d a => some (956301319 + rm.toNat * 2097152 + d.toNat * 16384 + a.toNat * 128)
  | .tagrd d a => some (973078528 + d.toNat * 16384 + a.toNat * 128)
  | .tagset d a tgt => some (989855744 + d.toNat * 16384 + a.toNat * 128 + tgt.toNat)
  | .ld sz t a off => some (1073741824 + sz.toNat * 2097152 + t.toNat * 16384 + a.toNat * 128 + off.toNat)
  | .st sz t a off => some (1090519040 + sz.toNat * 2097152 + t.toNat * 16384 + a.toNat * 128 + off.toNat)
  | .ldo sz t a scope ord last => some (1107296256 + sz.toNat * 2097152 + t.toNat * 16384 + a.toNat * 128 + scope.toNat * 16 + ord.toNat * 4 + bitOf last)
  | .sto sz t a scope ord => some (1124073472 + sz.toNat * 2097152 + t.toNat * 16384 + a.toNat * 128 + scope.toNat * 16 + ord.toNat * 4)
  | .ldl sz t a off => some (1140850688 + sz.toNat * 2097152 + t.toNat * 16384 + a.toNat * 128 + off.toNat)
  | .stl sz t a off => some (1157627904 + sz.toNat * 2097152 + t.toNat * 16384 + a.toNat * 128 + off.toNat)
  | .ldcb t a off => some (1174405120 + t.toNat * 16384 + a.toNat * 128 + off.toNat)
  | .modw sz t a scope ord => some (1191182336 + sz.toNat * 2097152 + t.toNat * 16384 + a.toNat * 128 + scope.toNat * 16 + ord.toNat * 4)
  | .aadd sz t a scope ord => some (1207959552 + sz.toNat * 2097152 + t.toNat * 16384 + a.toNat * 128 + scope.toNat * 16 + ord.toNat * 4)
  | .amin sz t a scope ord z => some (1224736768 + sz.toNat * 2097152 + t.toNat * 16384 + a.toNat * 128 + scope.toNat * 16 + ord.toNat * 4 + bitOf z)
  | .amax sz t a scope ord z => some (1224736770 + sz.toNat * 2097152 + t.toNat * 16384 + a.toNat * 128 + scope.toNat * 16 + ord.toNat * 4 + bitOf z)
  | .aand sz t a scope ord => some (1241513984 + sz.toNat * 2097152 + t.toNat * 16384 + a.toNat * 128 + scope.toNat * 16 + ord.toNat * 4)
  | .aor sz t a scope ord => some (1258291200 + sz.toNat * 2097152 + t.toNat * 16384 + a.toNat * 128 + scope.toNat * 16 + ord.toNat * 4)
  | .axor sz t a scope ord => some (1275068416 + sz.toNat * 2097152 + t.toNat * 16384 + a.toNat * 128 + scope.toNat * 16 + ord.toNat * 4)
  | .axch sz t a scope ord => some (1291845632 + sz.toNat * 2097152 + t.toNat * 16384 + a.toNat * 128 + scope.toNat * 16 + ord.toNat * 4)
  | .acas sz t a scope ord => some (1312817152 + bitOf sz * 2097152 + t.toNat * 16384 + a.toNat * 128 + scope.toNat * 16 + ord.toNat * 4)
  | .acasQ t a scope ord => some (1317011456 + t.toNat * 16384 + a.toNat * 128 + scope.toNat * 16 + ord.toNat * 4)
  | .afadd t a scope ord => some (1329594368 + t.toNat * 16384 + a.toNat * 128 + scope.toNat * 16 + ord.toNat * 4)
  | .tkt d a b ua ub => some (1342177280 + d.toNat * 131072 + a.toNat * 1024 + b.toNat * 8 + bitOf ua * 4 + bitOf ub * 2)
  | .depadd d a b ua ub => some (1358954496 + d.toNat * 131072 + a.toNat * 1024 + b.toNat * 8 + bitOf ua * 4 + bitOf ub * 2)
  | .cpy d a b ua ub => some (1375731712 + d.toNat * 131072 + a.toNat * 1024 + b.toNat * 8 + bitOf ua * 4 + bitOf ub * 2)
  | .cpyt d a b ua ub => some (1392508928 + d.toNat * 131072 + a.toNat * 1024 + b.toNat * 8 + bitOf ua * 4 + bitOf ub * 2)
  | .cpyg d a b ua ub => some (1409286144 + d.toNat * 131072 + a.toNat * 1024 + b.toNat * 8 + bitOf ua * 4 + bitOf ub * 2)
  | .cpyw d a b ua ub => some (1426063360 + d.toNat * 131072 + a.toNat * 1024 + b.toNat * 8 + bitOf ua * 4 + bitOf ub * 2)
  | .pub a ua => some (1442840576 + a.toNat * 1024 + bitOf ua * 4)
  | .disc a b ua ub => some (1459617792 + a.toNat * 1024 + b.toNat * 8 + bitOf ua * 4 + bitOf ub * 2)
  | .pref a b ua ub => some (1476395008 + a.toNat * 1024 + b.toNat * 8 + bitOf ua * 4 + bitOf ub * 2)
  | .smap a b ua ub => some (1493172224 + a.toNat * 1024 + b.toNat * 8 + bitOf ua * 4 + bitOf ub * 2)
  | .sflush a b ua ub => some (1509949440 + a.toNat * 1024 + b.toNat * 8 + bitOf ua * 4 + bitOf ub * 2)
  | .sdrop a ua => some (1526726656 + a.toNat * 1024 + bitOf ua * 4)
  | .tilev a b ua ub => some (1543503872 + a.toNat * 1024 + b.toNat * 8 + bitOf ua * 4 + bitOf ub * 2)
  | .tilec a b ua ub => some (1560281088 + a.toNat * 1024 + b.toNat * 8 + bitOf ua * 4 + bitOf ub * 2)
  | .tileclr a b ua ub => some (1577058304 + a.toNat * 1024 + b.toNat * 8 + bitOf ua * 4 + bitOf ub * 2)
  | .coll d a b ua ub => some (1593835520 + d.toNat * 131072 + a.toNat * 1024 + b.toNat * 8 + bitOf ua * 4 + bitOf ub * 2)
  | .br p off slot => some (1610612736 + p.toNat * 131072 + off.toNat * 4 + slot.toNat)
  | .brz p off slot => some (1627389952 + p.toNat * 131072 + off.toNat * 4 + slot.toNat)
  | .jmp off slot => some (1644167168 + off.toNat * 4 + slot.toNat)
  | .call p off slot => some (1660944384 + p.toNat * 131072 + off.toNat * 4 + slot.toNat)
  | .rbeg p off slot => some (1677721600 + p.toNat * 131072 + off.toNat * 4 + slot.toNat)
  | .jr a ua => some (1694498816 + a.toNat * 1024 + bitOf ua * 4)
  | .ret a ua => some (1694498817 + a.toNat * 1024 + bitOf ua * 4)
  | .exit => some (1711276032)
  | .yield => some (1711276033)
  | .idem => some (1711276034)
  | .tret => some (1711276035)
  | .tabn => some (1711276036)
  | .tkill => some (1711276037)
  | .rcmt => some (1711276038)
  | .rabt => some (1711276039)
  | .rds d imm => some (1728053248 + d.toNat * 131072 + imm.toNat)
  | .wrs a imm => some (1744830464 + a.toNat * 1024 + imm.toNat)
  | .regclm n => some (1761607680 + n.toNat)
  | .regrel n => some (1761608192 + n.toNat)
  | .spawn d a ua => some (1778384896 + d.toNat * 131072 + a.toNat * 1024 + bitOf ua * 4)
  | .spawnw d a ua => some (1778384897 + d.toNat * 131072 + a.toNat * 1024 + bitOf ua * 4)
  | .waitc ctr n => some (1795162112 + ctr.toNat * 256 + n.toNat)
  | .phreg d a b => some (1811939328 + d.toNat * 131072 + a.toNat * 1024 + b.toNat * 8)
  | .phmode d a b => some (1811939329 + d.toNat * 131072 + a.toNat * 1024 + b.toNat * 8)
  | .phdrop d a => some (1811939330 + d.toNat * 131072 + a.toNat * 1024)
  | .phsig d a => some (1811939331 + d.toNat * 131072 + a.toNat * 1024)
  | .phwait d a => some (1811939332 + d.toNat * 131072 + a.toNat * 1024)
  | .phnext d a => some (1811939333 + d.toNat * 131072 + a.toNat * 1024)
  | .rngi a b => some (1828716544 + a.toNat * 1024 + b.toNat * 8)
  | .rngw a b => some (1828716545 + a.toNat * 1024 + b.toNat * 8)
  | .rngs a b => some (1828716546 + a.toNat * 1024 + b.toNat * 8)
  | .rstat d => some (1845493760 + d.toNat * 131072)
  | .cstat d a b ua ub => some (1862270976 + d.toNat * 131072 + a.toNat * 1024 + b.toNat * 8 + bitOf ua * 4 + bitOf ub * 2)
  | .trap imm => some (1879048192 + imm.toNat)
  | .brk imm => some (1895825408 + imm.toNat)
  | .prop d a => some (1912602624 + d.toNat * 131072 + a.toNat * 1024)
  | .trctl d a b => some (1912602625 + d.toNat * 131072 + a.toNat * 1024 + b.toNat * 8)
  | .tkey d => some (1912602626 + d.toNat * 131072)
  | .mmqBf16 tile a b sb => some (1929379840 + tile.toNat * 1048576 + a.toNat * 8192 + b.toNat * 64 + bitOf sb * 32)
  | .mmqF16 tile a b sb => some (1946157056 + tile.toNat * 1048576 + a.toNat * 8192 + b.toNat * 64 + bitOf sb * 32)
  | .mmqE4m3 tile a b sb => some (1962934272 + tile.toNat * 1048576 + a.toNat * 8192 + b.toNat * 64 + bitOf sb * 32)
  | .mmqE5m2 tile a b sb => some (1979711488 + tile.toNat * 1048576 + a.toNat * 8192 + b.toNat * 64 + bitOf sb * 32)
  | .mmqI8 tile a b sb => some (1996488704 + tile.toNat * 1048576 + a.toNat * 8192 + b.toNat * 64 + bitOf sb * 32)
  | .mmqCb4 tile a b sb => some (2013265920 + tile.toNat * 1048576 + a.toNat * 8192 + b.toNat * 64 + bitOf sb * 32)
  | .mmqCbbf tile a b sb => some (2030043136 + tile.toNat * 1048576 + a.toNat * 8192 + b.toNat * 64 + bitOf sb * 32)
  | .mmqE2m1 tile a b sb ol => some (2046820352 + tile.toNat * 1048576 + a.toNat * 8192 + b.toNat * 64 + bitOf sb * 32 + bitOf ol * 16)
  | .mmz tile => some (2063597568 + tile.toNat * 1048576)
  | .mmrd tile a => some (2080374784 + tile.toNat * 1048576 + a.toNat * 8192)
  | .mmwr tile a => some (2097152000 + tile.toNat * 1048576 + a.toNat * 8192)
  | .mmst tile a => some (2113929216 + tile.toNat * 1048576 + a.toNat * 8192)
  | .mmld tile a => some (2130706432 + tile.toNat * 1048576 + a.toNat * 8192)
  | .post _ _ _ => none
  | .qcfgWrite _ _ _ => none
  | .qovfbaseWrite _ _ _ => none
  | .qovfszWrite _ _ _ => none
  | .qrbaseWrite _ _ _ => none
  | .registerWrite _ _ _ _ => none
  | .attestationGo _ => none
  | .attestationReportReady => none
  | .readHealthSummary => none
  | .readPower => none
  | .readTemperature => none
  | .requestReport _ _ => none
  | .readReport => none
  | .setPowerStateP0 => none
  | .setPowerStateP1 => none
  | .setPowerStateP2 => none
  | .setPowerStateOff => none
  | .setdasa _ => none
  | .powerStateExitComplete => none
  | .enterP1 => none
  | .packageReset => none
  | .bootLoadFirstStage _ _ => none
  | .bootLoadNewelFirmware _ _ => none
  | .bootLoadCollectiveMicrocode _ _ => none
  | .bootRelease _ => none
  | .firmwareReload _ => none
  | .thermalSet => none
  | .thermalClear => none
  | .thermalShutdown => none
  | .contextCreate _ _ => none
  | .setTrapBase _ _ => none
  | .setWayQuota _ _ _ _ _ => none
  | .defineCollectiveSet _ _ _ => none
  | .setGranuleTags _ _ _ _ => none
  | .shootdownRequest _ _ _ => none
  | .shootdownComplete _ _ => none
  | .contextKill _ => none
  | .queueVisit _ => none
  | .bindRecordWrite _ => none
  | .preemptionComplete _ _ _ => none
  | .restore _ _ _ _ _ => none
  | .blockRetire _ _ _ => none
  | .taskRetire _ _ => none
  | .queueDeadlockSample _ => none
  | .packetFetchFill _ _ _ => none
  | .tlbWalkComplete _ _ _ => none
  | .pageResident _ _ _ => none
  | .migrationStart _ _ => none
  | .migrationComplete _ _ _ => none
  | .loadReturn _ _ _ _ => none
  | .storePerformed _ _ _ _ => none
  | .atomicPerformed _ _ _ _ => none
  | .copyCommandRetire _ _ _ _ => none
  | .cpygRowGather _ _ => none
  | .pubInstant _ _ => none
  | .pubRetire _ _ => none
  | .mmqRetire _ _ _ => none
  | .regionRestart _ _ => none
  | .commitTimeout _ _ _ => none
  | .relabel _ _ _ => none
  | .staleTaskRestart _ _ => none
  | .propagationComplete _ _ => none
  | .partialValueReceive _ _ _ _ _ _ _ _ _ => none
  | .chunkAck _ _ _ _ _ _ => none
  | .collectiveComplete _ _ _ => none
  | .collectiveFail _ _ _ _ => none
  | .linkDownDeclare _ _ => none
  | .linkTableUpdate _ => none
  | .treeSetRecompute _ => none
  | .lockstepIntervalCompare _ _ => none
  | .lockstepDecisionApply _ => none
  | .errorCorrected _ _ => none
  | .scoreDecay => none
  | .unitTestComplete _ _ => none
  | .uncorrectableError _ => none
  | .gangKill _ _ _ => none
  | .lockstepDivergeClear _ => none
  | .debugRightWrite _ _ _ => none
  | .haltGroup _ _ => none
  | .resumeGroup _ _ => none
  | .stepGroup _ _ => none
  | .haltContext _ _ => none
  | .resumeContext _ _ => none
  | .traceGroupOn _ _ => none
  | .traceGroupOff _ _ => none
  | .selectGroup _ _ => none
  | .traceAllOn _ _ => none
  | .traceAllOff _ _ => none
  | .dump _ _ => none
  | .coreDump _ => none
  | .groupViewEdit _ _ => none
  | .smpcfgWrite _ _ => none
  | .sampleFire _ _ => none
  | .rpctlWrite _ _ => none
  | .replayRelease _ _ => none
  | .unlistedI3cCommand _ => none
  | .setPowerStateOtherByte _ => none
  | .linkUp _ => none
  | .lockstepBridgeTrained => none
  | .lockstepBridgeLost => none
  | .contextDestroy _ => none
  | .hostAccess _ _ _ _ _ => none
  | .tagVerdict _ => none
  | .collAccept _ _ => none
  | .cstatAnswer _ _ _ => none
  | .propAnswer _ _ => none
  | .commitOutcome _ _ _ => none
  | .stashCommandDone _ _ => none
  | .sliceRehomingDone _ => none
  | .chunkBroadcastReceive _ _ _ _ _ _ _ => none

/-- The word of an instruction with its chain bit. -/
def encodeChainWord (c : ChainWord) : Option Nat :=
  (encode c.instr).map (fun w => w + bitOf c.chain * 2147483648)

/-- The control word of a packet (R87). -/
structure Control where
  /-- bits [31:20], which must be zero -/
  reserved : Nat
  safe : Bool
  yield : Bool
  stall0 : Nat
  stall1 : Nat
  stall2 : Nat
  deriving DecidableEq, Repr

/-- The fields of a control word (R87). -/
def decodeControl (w : Nat) : Control :=
  { reserved := bits w 20 12, safe := bits w 19 1 == 1, yield := bits w 18 1 == 1,
    stall0 := bits w 0 6, stall1 := bits w 6 6, stall2 := bits w 12 6 }

/-- The stall count of a slot (R87). -/
def Control.stall (c : Control) (slot : Nat) : Nat :=
  if slot = 0 then c.stall0 else if slot = 1 then c.stall1 else c.stall2

/-- The word that four bytes at ascending addresses hold (R5). -/
def wordOfBytes (b0 b1 b2 b3 : Byte) : Nat :=
  b0.toNat + b1.toNat * 256 + b2.toNat * 65536 + b3.toNat * 16777216

/-- The instruction that the decoder reads from an instruction numbered as spec/opcode_table.json numbers its bits: the
four bytes in the order of memory (R5), then the word, then its instruction. -/
def decodeTableWord (nbits w : Nat) : Option Instr :=
  let v := w % 2 ^ nbits
  match decodeWord (wordOfBytes (BitVec.ofNat 8 (bits v 0 8)) (BitVec.ofNat 8 (bits v 8 8))
      (BitVec.ofNat 8 (bits v 16 8)) (BitVec.ofNat 8 (bits v 24 8))) with
  | .ok i => some i
  | .error _ => none

end Sys2Proof
end

