-- ==== Sys2Proof/Machine/Fetch.lean ====
section
/-! DEFINITION. Fetching a packet through the instruction cache (R81, R86), reading its chain (R87, R88), and the checks of R104
over the words of a chain. -/

namespace Sys2Proof.Machine

/-- A fetched chain: its words with their addresses, the stall count of its last word, the YIELD bit of the packet when it
ends in slot 2, and whether a check on the packet fails (R87 to R89). -/
structure Chain where
  words : List (Word × Nat)
  stall : Nat
  yield : Bool
  packetBad : Bool
  chainBad : Bool
  deriving DecidableEq, Repr, Inhabited

/-- What a fetch gives. -/
inductive Fetched where
  | packet (ws : List Nat) (s : State)
  | wait
  | trap (c : Cause) (addr : DWord)
  deriving Inhabited

/-- The base that instruction offsets count from: TEXT, or TBASE in trap mode (R86, R317). -/
def State.codeBase (s : State) (g : Group) : DWord :=
  if g.trapMode then (match s.ctx? g.ctx with | some x => x.tbase | none => 0) else g.lr.text

/-- The packet's pointer (R86). -/
def State.packetAt (s : State) (g : Group) (pc : Word) : DWord :=
  State.codeBase s g + BitVec.zeroExtend 64 (packetBase pc)

/-- The four words of a packet in memory (R5, R86). -/
def packetWords (mem : Memory) (pa : Nat) : List Nat := [0, 4, 8, 12].map (fun o => Memory.num mem (pa + o) 4)

/-- The leaf allows no fetch (R86). -/
def fetchFails (s : State) (c va : Nat) (l : DWord) : Bool :=
  (Leaf.s l && (State.buffer s c va).isNone) || !Leaf.x l || Leaf.w l

/-- The packet's page is not resident or being moved, or its home slice is being rehomed (R81, R336). -/
def fetchWaits (s : State) (c va : Nat) (l : DWord) : Bool :=
  !Leaf.v l || Leaf.g l || State.rehoming s (State.physOf s c l true va) 16

/-- A packet's line is filled at .sys scope (R86, R207). -/
def State.fillPacket (s : State) (h c va : Nat) (l : DWord) : List Nat × State :=
  let pa := State.physOf s c l true va
  let s := State.recall (State.fillTlb s h c va) none pa 16 false
  let s := State.reach s (dieOfHall h) c l pa 16
  let ws := packetWords s.mem pa
  (ws, State.updHall s h (fun x => { x with icache := { ctx := c, va := va, words := ws } :: x.icache }))

/-- Fetch the packet of an issue address (R81, R86): a hit, or a fill through translation, which reads at .sys scope. -/
def State.fetch (s : State) (g : Group) (pc : Word) : Fetched :=
  let p := State.packetAt s g pc
  let va := vaOf p
  if bits p.toNat 60 4 != 0 then .trap .unmapped p
  else match (State.hall s g.hall).icache.find? (fun l => l.ctx == g.ctx && l.va == va) with
    | some l => .packet l.words s
    | none =>
      match State.translate s g.hall g.ctx va with
      | .absent => .trap .unmapped p
      | .leaf l _ =>
        if Leaf.s l && (State.buffer s g.ctx va).isNone then .trap .unmapped p
        else if fetchFails s g.ctx va l then .trap .prot p
        else if fetchWaits s g.ctx va l then .wait
        else
          let (ws, s) := State.fillPacket s g.hall g.ctx va l
          .packet ws s

/-- The chain bit of a word (R88). -/
def chainBit (w : Nat) : Bool := bits w 31 1 == 1

/-- The pipe of a word, by its major opcode alone (R94). -/
def wordPipe (w : Nat) : Pipe := pipeOf (bits w 24 7)

/-- The run of words from a slot to the first with C = 0 (R88). -/
def chainFrom (ws : List Nat) (base : Word) : Nat → Nat → List (Word × Nat)
  | 0, _ => []
  | fuel + 1, slot =>
    let w := ws.getD slot 0
    let here := (base + BitVec.ofNat 32 (4 * slot), w)
    if chainBit w && decide (slot < 2) then here :: chainFrom ws base fuel (slot + 1) else [here]

/-- Two words go to one pipe; NOP goes to none (R88). -/
def samePipe (ps : List Pipe) : Bool :=
  match ps with
  | [] => false
  | p :: r => (p != .none && r.contains p) || samePipe r

/-- The chain that starts at an address of a packet (R87 to R89). -/
def readChain (ws : List Nat) (pc : Word) : Chain :=
  let slot := bits pc.toNat 2 2
  let ctl := decodeControl (ws.getD 3 0)
  let run := chainFrom ws (packetBase pc) 3 slot
  let last := slot + run.length - 1
  let counts := (List.range run.length).map (fun i => Control.stall ctl (slot + i))
  let pipes := run.map (fun p => wordPipe p.2)
  { words := run, stall := Control.stall ctl last, yield := ctl.yield && last == 2,
    packetBad := ctl.reserved != 0 || (run.zip counts).any (fun p => chainBit p.1.2 && p.2 != 0),
    chainBad := (run.any (fun p => chainBit p.2 && bits p.1.toNat 2 2 == 2)) || samePipe pipes ||
      (pipes.take (run.length - 1)).contains .ctl }

/-- The instructions of a chain, if every word is one (R103). -/
def Chain.instrs (c : Chain) : Option (List (Word × Instr)) :=
  c.words.mapM (fun p => match decodeWord p.2 with | .ok i => some (p.1, i) | .error _ => none)

/-- The checks of R104 over a chain: the first failing cause in their order. -/
def State.chainCheck (s : State) (c : Chain) : Option Cause :=
  if c.packetBad then some .packet
  else if c.chainBad then some .chain
  else match Chain.instrs c with
    | none => some .illegal
    | some is =>
      let found := is.map (fun p => State.wordCheck s p.2)
      [Cause.illegal, .regalloc, .role, .stall].find? (fun k => found.contains (some k))

/-- The issue figure of a word (R89, R123). -/
def Instr.issueFigure : Instr → Nat
  | .fsqrt _ _ _ => 8
  | .frcp _ _ => 8
  | .frsq _ _ => 8
  | .fexp2 _ _ => 8
  | .flog2 _ _ => 8
  | .ftanh _ _ => 8
  | _ => 4

/-- The issue figure of a chain, whether or not it passes the checks of R104 (R89). -/
def Chain.figure (c : Chain) : Nat :=
  c.words.foldl (fun n p => match decodeWord p.2 with
    | .ok i => max n (Instr.issueFigure i)
    | .error _ => n) 4

end Sys2Proof.Machine
end

