-- ==== Sys2Proof/Machine/Launch.lean ====
section
/-! DEFINITION. How a task is accepted: launch records and their checks (R32 to R38), capsules (R42), entries (R48, R58, R59), order
keys (R347), retraction and splicing of recorded children (R354, R355), and SPAWN and SPAWNW (R57, R60, R61, R156). -/

namespace Sys2Proof.Machine

/-! ## Launch records (R32, R33) -/

/-- A little-endian field of some bytes. -/
def fieldOfBytes (bs : List Byte) (off n : Nat) : Nat := leNat ((bs.drop off).take n)

/-- The launch record that 128 bytes hold (R32). -/
def launchOfBytes (bs : List Byte) : LaunchRec :=
  let f := fieldOfBytes bs
  let roles := f 0x18 4
  let w := f 0x1C 4
  let levels := (List.range 8).map (fun k => (BitVec.ofNat 64 (f (0x40 + 8 * k) 8) : DWord))
  let nlev := bits w 3 4
  { text := BitVec.ofNat 64 (f 0 8), entry := BitVec.ofNat 32 (f 8 4), regs := f 0x0C 2, scratch := f 0x10 4, stash := f 0x14 4,
    roleMode := bits roles 24 8, nvec := bits roles 16 8, nmat := bits roles 8 8, ncopy := bits roles 0 8,
    cb := bits w 12 4, acc := bits w 7 5, nlev := nlev, bounded := w.testBit 2, relaunch := w.testBit 1,
    traced := w.testBit 0, sptab := BitVec.ofNat 64 (f 0x20 8), spcount := f 0x28 4, lmcount := f 0x2C 4,
    lmtab := BitVec.ofNat 64 (f 0x30 8),
    reserved := f 0x0E 2 != 0 || bits w 16 16 != 0 || f 0x38 8 != 0 ||
      levels.any (fun l => bits l.toNat 40 24 != 0) || (levels.drop nlev).any (fun l => l != 0),
    levels := levels }

/-- Read a launch record; none when it is not 64-byte aligned or cannot be read (R37 cause 11). -/
def State.readLaunch (s : State) (c : Nat) (lrec : DWord) : Option LaunchRec :=
  if lrec.toNat % 64 ≠ 0 ∨ State.canAccess s c false lrec.toNat 128 = false then none
  else some (launchOfBytes (State.readVirt s c lrec.toNat 128).1)

/-- The level rules of R34; a level above 0 inside a group has one member. -/
def LaunchRec.levelsOk (r : LaunchRec) : Bool :=
  let ls := LaunchRec.used r
  decide (1 ≤ r.nlev) && decide (r.nlev ≤ 8) &&
  (match ls with
    | [] => false
    | l :: rest => levelDomain l == 0 && levelCount l == 32 && levelScope l == 0 &&
        rest.all (fun w => decide (levelDomain w ≤ 5) && decide (1 ≤ levelCount w) && decide (levelScope w ≤ 6) &&
          decide (levelDomain w ≤ levelScope w) && (levelDomain w != 0 || levelCount w == 1))) &&
  ((ls.zip (ls.drop 1)).all (fun p => decide (levelDomain p.1 ≤ levelDomain p.2))) &&
  decide (LaunchRec.blocksPerGang r ≤ 4)

/-- The role rules of R36. -/
def LaunchRec.rolesOk (r : LaunchRec) : Bool :=
  if r.roleMode = 0 then r.ncopy + r.nmat + r.nvec == 0
  else r.roleMode == 1 && r.ncopy + r.nmat + r.nvec == LaunchRec.groupsPerBlock r

/-- Groups of a block on one flight, ⌈G/4⌉. -/
def LaunchRec.perFlight (r : LaunchRec) : Nat := (LaunchRec.groupsPerBlock r + 3) / 4

/-- A block fits an empty hall (R36). -/
def LaunchRec.fits (r : LaunchRec) : Bool :=
  decide (LaunchRec.perFlight r * r.regs ≤ 512) && decide (LaunchRec.perFlight r ≤ 8) &&
  decide (LaunchRec.groupsPerBlock r * r.acc ≤ 256) && decide (r.scratch + r.stash ≤ 524288)

/-- A limit divided by a need; no limit where nothing is needed. -/
def shareOf (limit need : Nat) : Nat := if need = 0 then limit else limit / need

/-- Blocks of the launch that fit together in one empty hall, F of R35. -/
def LaunchRec.perHall (r : LaunchRec) : Nat :=
  min (min (shareOf 8 (LaunchRec.perFlight r)) (shareOf 512 (LaunchRec.perFlight r * r.regs)))
    (min (shareOf 256 (LaunchRec.groupsPerBlock r * r.acc)) (shareOf 524288 (r.scratch + r.stash)))

/-- Galleries of a domain as built (R35). -/
def galleriesOf (domain : Nat) : Nat :=
  if domain = 3 then 24 else if domain = 4 then 96 else 96 * Config.domainPackages

/-- Every instance with CORES = 1 fits its domain (R35). -/
def LaunchRec.coresOk (r : LaunchRec) : Bool :=
  let b := LaunchRec.blocksPerGang r
  (List.range r.nlev).all (fun k =>
    let w := (LaunchRec.used r).getD k 0
    !levelCores w || decide (levelDomain w < 3) ||
    (let blocks := ((LaunchRec.used r).take (k + 1)).foldl (fun n w => if levelDomain w ≥ 2 then n * levelCount w else n) 1
     decide (blocks ≤ galleriesOf (levelDomain w) * b * (4 * LaunchRec.perHall r / b))))

/-- The cause of the first failing check of R37, 0 when all pass. -/
def LaunchRec.cause (r : LaunchRec) (boundedCtx : Bool) : Nat :=
  if r.text.toNat % 16 ≠ 0 ∨ r.entry.toNat % 16 ≠ 0 then 1
  else if r.regs % 8 ≠ 0 ∨ r.regs < 8 ∨ r.regs > 128 ∨ r.acc > 16 ∨ r.cb > 8 then 2
  else if r.scratch % 1024 ≠ 0 ∨ r.stash % 1024 ≠ 0 then 3
  else if r.reserved then 4
  else if !LaunchRec.levelsOk r then 5
  else if !LaunchRec.rolesOk r then 6
  else if !LaunchRec.fits r then 7
  else if !LaunchRec.coresOk r then 8
  else if r.bounded && !boundedCtx then 9
  else 0

/-! ## Capsules (R42) -/

/-- The 64-bit FNV-1a hash (R42). -/
def fnv1a (bs : List Byte) : DWord :=
  bs.foldl (fun h b => (h ^^^ BitVec.zeroExtend 64 b) * 0x00000100000001B3#64) 0xCBF29CE484222325#64

/-- The capsule can be hashed: its length, alignment and readability (R42). -/
def State.capsuleOk (s : State) (c : Nat) (argp : DWord) (arglen : Nat) : Bool :=
  decide (arglen ≤ 4096) && argp.toNat % 16 == 0 && (arglen == 0 || State.canAccess s c false argp.toNat arglen)

/-- The hash of a capsule. -/
def State.argHash (s : State) (c : Nat) (argp : DWord) (arglen : Nat) : DWord :=
  fnv1a (State.readVirt s c argp.toNat arglen).1

/-! ## TCBs (R39, R40) -/

/-- A field of a TCB in memory. -/
def State.tcbField (s : State) (c : Nat) (tcb : DWord) (off n : Nat) : Nat := State.numVirt s c (vaOf tcb + off) n

/-- STATUS is 0 and the reserved fields are zero (R40). -/
def State.tcbClean (s : State) (c : Nat) (tcb : DWord) : Bool :=
  State.tcbField s c tcb 0x3E 1 == 0 && State.tcbField s c tcb 0x6C 4 == 0 && State.tcbField s c tcb 0x78 8 == 0

/-! ## Entries (R58, R59) -/

/-- A SPAWNW parked before another: longer, or in a lower place at the same time. -/
def parkedBefore (a b : Nat × Nat) : Bool := decide (a.1 < b.1) || (a.1 == b.1 && decide (a.2 < b.2))

/-- When and where a group parked on SPAWNW, for one die or one queue. -/
def State.parkedList (s : State) (p : Nat × Nat → Bool) : List (Nat × Nat) :=
  (State.allGroups s).filterMap (fun g => match Group.parkedSpawn g with
    | some (d, q, t) => if p (d, q) then some (t, 32 * g.hall + g.slot) else none
    | none => none)

/-- No parked SPAWNW comes first: none is parked, or the one that asks (`me`) is the longest-parked. -/
def firstParked (l : List (Nat × Nat)) (me : Option (Nat × Nat)) : Bool :=
  match me with
  | none => l.isEmpty
  | some x => l.all (fun y => !parkedBefore y x)

/-- Overflow indexes of a queue in use. -/
def State.overflowUsed (s : State) (q : Nat) : List Nat :=
  s.tasks.filterMap (fun t => match t.entry with
    | .overflow k _ => if t.queue = q then some k else none
    | _ => none)

/-- The lowest free index below a bound. -/
def lowestFree (used : List Nat) : Nat → Option Nat
  | 0 => none
  | n + 1 => match lowestFree used n with
    | some k => some k
    | none => if used.contains n then none else some n

/-- The entry a post or a spawn takes: the die's store, else the queue's overflow area (R58, R59). -/
def State.takeEntry (s : State) (c q die : Nat) (me : Option (Nat × Nat)) : Option Entry :=
  if (if me.isSome then State.storeUsed s die else State.storeSeen s die) < Config.storeEntries ∧ firstParked (State.parkedList s (fun x => x.1 == die)) me then
    some (.store die)
  else
    let page := State.queue s q
    match lowestFree (State.overflowUsed s q) page.ovfCap with
    | none => none
    | some k =>
      if firstParked (State.parkedList s (fun x => x.2 == q)) me &&
          State.canAccess s c true (vaOf page.ovfBase + 256 * k) 256 then some (.overflow k die)
      else none

/-- The 128 bytes of an accepted launch record, whose reserved fields are zero (R32). -/
def LaunchRec.bytes (r : LaunchRec) : List Byte :=
  leBytes 8 r.text.toNat ++ leBytes 4 r.entry.toNat ++ leBytes 4 r.regs ++ leBytes 4 r.scratch ++ leBytes 4 r.stash ++
  leBytes 4 (r.roleMode * 16777216 + r.nvec * 65536 + r.nmat * 256 + r.ncopy) ++
  leBytes 4 (r.cb * 4096 + r.acc * 128 + r.nlev * 8 + (if r.bounded then 4 else 0) + (if r.relaunch then 2 else 0) +
    (if r.traced then 1 else 0)) ++
  leBytes 8 r.sptab.toNat ++ leBytes 4 r.spcount ++ leBytes 4 r.lmcount ++ leBytes 8 r.lmtab.toNat ++ leBytes 8 0 ++
  r.levels.flatMap (fun l => leBytes 8 l.toNat)

/-- What an overflow entry holds: the TCB state and the launch record's copy (R38, R59). -/
def State.fillOverflow (s : State) (c q : Nat) (tcb : DWord) (r : LaunchRec) (e : Entry) : State :=
  match e with
  | .overflow k _ =>
    let base := vaOf (State.queue s q).ovfBase + 256 * k
    let s := State.writeVirt s c base (State.readVirt s c (vaOf tcb) 128).1
    State.writeVirt s c (base + 128) (LaunchRec.bytes r)
  | _ => s

/-! ## Acceptance (R48 steps 3 to 5) -/

/-- What a spawn adds to an acceptance: the parent's SEQ and TCB, the ordinal, the key interval, the arena. -/
structure Spawned where
  parent : Nat
  parentTcb : DWord
  ord : Nat
  keylo : DWord
  keyhi : DWord
  arena : DWord
  deriving DecidableEq, Repr, Inhabited

/-- The enabled arena that a post of a TCB starts recording in (R343). -/
def State.armedTrace (s : State) (c : Nat) (tcb : DWord) : Option Trace :=
  match s.ctx? c with
  | some x => x.traces.find? (fun t => t.st == 0 && vaOf t.rootTcb == vaOf tcb)
  | none => none

/-- A task of the launch is entered in its trace: its cell is the root cell, or one from cell space, reserve included; an UNTRACED
parent records none, and when none is left BROKEN is set and the task has no cell (R345, R346, R351). -/
def Trace.addTask (t : Trace) (x : TraceTask) (root : Bool) : Trace :=
  if root then { t with tasks := t.tasks ++ [{ x with cell := 0x40 }] }
  else if t.tasks.any (fun y => y.seq == x.parent && y.untraced) then { t with tasks := t.tasks ++ [{ x with cell := 0 }] }
  else match Trace.take32 t t.size with
    | some (c, t) => { t with tasks := t.tasks ++ [{ x with cell := c }] }
    | none => { t with broken := true, tasks := t.tasks ++ [{ x with cell := 0 }] }

/-- A task is accepted: its fields are read once, its launch record copied and checked, its capsule hashed, SEQ assigned (R38,
R41, R42, R48). -/
def State.accept (s : State) (c q : Nat) (tcb : DWord) (entry : Entry) (sp : Option Spawned) : State :=
  match s.ctx? c with
  | none => s
  | some x =>
    let f := fun (off n : Nat) => State.tcbField s c tcb off n
    let seq := x.nextSeq
    let lrec : DWord := BitVec.ofNat 64 (f 0 8)
    let argp : DWord := BitVec.ofNat 64 (f 8 8)
    let arglen := f 0x18 4
    let lr := State.readLaunch s c lrec
    let hashable := State.capsuleOk s c argp arglen
    let hash := if hashable then State.argHash s c argp arglen else BitVec.ofNat 64 (f 0x10 8)
    let root := match sp, lr with
      | none, some r => if r.traced then State.armedTrace s c tcb else none
      | _, _ => none
    let keylo : DWord := match sp, root with | some p, _ => p.keylo | none, some _ => 0 | none, none => BitVec.ofNat 64 (f 0x28 8)
    let keyhi : DWord := match sp, root with
      | some p, _ => p.keyhi | none, some _ => 0xFFFFFFFFFFFFFFFF#64 | none, none => BitVec.ofNat 64 (f 0x30 8)
    let arena : DWord := match sp, root with | some p, _ => p.arena | none, some t => t.arena | none, none => 0
    let ord := match sp with | some p => p.ord | none => 0
    let task : Task :=
      { ctx := c, seq := seq, tcb := tcb, queue := q, status := .written, lrec := lrec, lr := lr.getD LaunchRec.zero,
        argp := argp, arglen := arglen, arghash := hash, succp := BitVec.ofNat 64 (f 0x20 8),
        blkrec := BitVec.ofNat 64 (f 0x70 8), keylo := keylo, keyhi := keyhi, nextKey := keylo + 1, spord := ord,
        parent := (match sp with | some p => p.parent | none => 0),
        parentTcb := (match sp with | some p => p.parentTcb | none => 0),
        spawns := 0, entry := entry, acceptAt := s.clk, readyAt := s.clk, dispatched := 0, done := 0, homes := [],
        chainsSum := [], rerun := false, arena := arena, stopping := false }
    let s := State.updCtx s c (fun x => { x with nextSeq := seq + 1 })
    let s := { s with tasks := s.tasks ++ [task] }
    let s := State.putTcb s c tcb 0x40 8 seq
    let s := if hashable then State.putTcb s c tcb 0x10 8 hash.toNat else s
    let s := if sp.isSome || root.isSome then
      State.putTcb (State.putTcb s c tcb 0x28 8 keylo.toNat) c tcb 0x30 8 keyhi.toNat else s
    let s := match sp with
      | some p => State.putTcb (State.putTcb s c tcb 0x38 4 p.ord) c tcb 0x60 8 p.parentTcb.toNat
      | none => s
    let cell : TraceTask :=
      { seq := seq, tcb := tcb, parent := task.parent, ord := ord, lrec := lrec, hash := hash, stale := false,
        volatileFlag := false, untraced := !task.lr.traced, lost := false, cell := 0 }
    let s := if arena = 0 then s
      else State.updTrace s c arena (fun t =>
        let t := Trace.addTask t { cell with untraced := cell.untraced || t.full } root.isSome
        if root.isSome then { t with st := 1, rootSeq := seq } else t)
    let cause := match lr with
      | none => 11
      | some r => if LaunchRec.cause r x.bounded ≠ 0 then LaunchRec.cause r x.bounded else if hashable then 0 else 10
    if cause ≠ 0 then State.endTask s c seq .rejected cause
    else
      let s := State.setStatus s c seq (if f 0x1C 4 = 0 then .ready else .waiting)
      State.fillOverflow s c q tcb task.lr entry

/-! ## Predecessor counts (R56, R157) -/

/-- DEPERR of a queue goes up by 1. -/
def State.depError (s : State) (q : Nat) : State := State.updQueue s q (fun x => { x with depErr := satInc x.depErr })

/-- PREDCNT of a TCB changes by a signed amount at its home slice, held to its range with DEPERR; a WAITING task whose count
reaches zero becomes READY. The old count is returned. -/
def State.changePred (s : State) (c : Nat) (tcb : DWord) (x : Int) : Nat × State :=
  let old := State.tcbField s c tcb 0x1C 4
  let n : Int := (old : Int) + x
  let q := State.tcbField s c tcb 0x3C 2
  let s := if n < 0 ∨ n > 4294967295 then State.depError s q else s
  let v := if n < 0 then 0 else if n > 4294967295 then 4294967295 else n.toNat
  let s := State.putTcb s c tcb 0x1C 4 v
  let s := if v = 0 ∧ State.tcbField s c tcb 0x3E 1 = 1 then
    (match s.tasks.find? (fun t => t.ctx == c && vaOf t.tcb == vaOf tcb && t.status == .waiting) with
      | some t => State.setStatus s c t.seq .ready
      | none => s)
    else s
  (old, s)

/-- The same; where the TCB's page is not resident, the change waits for it (R379). -/
def State.addPred (s : State) (c : Nat) (tcb : DWord) (x : Int) : Nat × State :=
  if State.missing s c true tcb.toNat 128 then
    (State.tcbField s c tcb 0x1C 4,
      State.updPkg s (fun k => { k with late := k.late ++ [{ ctx := c, at_ := tcb, data := [], pred := some x }] }))
  else State.changePred s c tcb x

/-- Steps on TCBs and completion records that waited for a page are made again, in their order (R379). -/
def State.settleLate (s : State) : State :=
  let s := s.pkg.late.foldl (fun s x =>
    if State.missing s x.ctx true x.at_.toNat (max 1 x.data.length) ||
        s.pkg.late.any (fun y => y.ctx == x.ctx && vaOf y.at_ / 128 == vaOf x.at_ / 128) then
      State.updPkg s (fun k => { k with late := k.late ++ [x] })
    else match x.pred with
      | some n => (State.changePred s x.ctx x.at_ n).2
      | none => State.writeVirt s x.ctx (vaOf x.at_) x.data) (State.updPkg s (fun k => { k with late := [] }))
  State.settleOwed s

/-- The entries of a successor list from the ith on: each decrements a count; a bad entry stops the walk (R56). -/
def State.walkEntries (s : State) (c q : Nat) (succ : Nat) : Nat → Nat → State
  | 0, _ => s
  | n + 1, i =>
    let at_ := succ + 8 + 8 * i
    if State.canAccess s c false at_ 8 = false then State.depError s q
    else
      let e := State.numVirt s c at_ 8
      if bits e 57 7 ≠ 0 ∨ bits e 0 7 ≠ 0 then State.depError s q
      else State.walkEntries (State.addPred s c (BitVec.ofNat 64 e) (-1)).2 c q succ n (i + 1)

/-- The walk of a successor list (R55, R56). -/
def State.walkSuccessors (s : State) (c q : Nat) (succp : DWord) : State :=
  if succp = 0 then s
  else if succp.toNat % 8 ≠ 0 ∨ State.canAccess s c false succp.toNat 8 = false then State.depError s q
  else
    let h := State.numVirt s c succp.toNat 8
    if bits h 0 13 > 4096 ∨ bits h 13 51 ≠ 0 then State.depError s q
    else State.walkEntries s c q succp.toNat (bits h 0 13) 0

/-! ## Retraction (R355) -/

/-- A granule gets its undo value back, which marks its other readers (R349, R353). -/
def State.restoreGranule (s : State) (c : Nat) (arena : DWord) (w : TraceWrite) : State :=
  let old := (State.readVirt s c (w.granule * 32) 32).1
  let s := State.writeVirt s c (w.granule * 32) w.undo
  if old = w.undo then s
  else State.updTrace s c arena (fun t => Trace.markReaders t w.granule (some w.seq))

/-- A task and its descendants in a trace. -/
def Trace.subtree (t : Trace) : Nat → List Nat → List Nat
  | 0, l => l
  | n + 1, l => Trace.subtree t n (l ++ (t.tasks.filter (fun x => l.contains x.parent && !l.contains x.seq)).map (fun x => x.seq))

/-- One recorded task leaves its trace (R355). -/
def State.retractOne (s : State) (c : Nat) (arena : DWord) (seq : Nat) : State :=
  match State.trace? s c arena with
  | none => s
  | some t =>
    let s := (t.writes.filter (fun w => w.seq == seq)).foldl (fun s w => State.restoreGranule s c arena w) s
    let s := State.updTrace s c arena (fun t =>
      let ws := t.writes.filter (fun w => w.seq == seq)
      let es := t.edges.filter (fun e => e.seq == seq)
      let xs := t.tasks.filter (fun x => x.seq == seq)
      let t := Trace.giveBack t (ws.flatMap (fun w => [w.cell, w.cell + 32]) ++ es.map (fun e => e.cell) ++
        (xs.filter (fun x => x.cell != 0)).map (fun x => x.cell))
      { t with writes := t.writes.filter (fun w => w.seq != seq), edges := t.edges.filter (fun e => e.seq != seq),
               tasks := t.tasks.filter (fun x => x.seq != seq), undoLost := t.undoLost || xs.any (fun x => x.lost),
               retract := t.retract + 1 })
    let live : Bool := match State.task? s c seq with | some k => k.status == .running | none => false
    State.endTask (if live then State.clearTask s c seq true else s) c seq .retracted 0

/-- Retraction of recorded children with their descendants, in descending key order (R355). -/
def State.retract (s : State) (c : Nat) (arena : DWord) (roots : List Nat) : State :=
  match State.trace? s c arena with
  | none => s
  | some t =>
    let all := Trace.subtree t t.tasks.length roots
    let key : Nat → Nat := fun n => match State.task? s c n with | some k => k.keylo.toNat | none => 0
    (sortBy (fun a b => decide (key a ≥ key b)) all).foldl (fun s n => State.retractOne s c arena n) s

/-! ## SPAWN and SPAWNW (R156, R347, R354) -/

/-- An answer of variable latency in every active lane: its register is pending until it lands (R91). -/
def State.answer (s : State) (d : RegNo) (f : Nat → Word) (t : Tag) : State :=
  State.landing s 4 d.toNat
    (lanesOf.map (fun l => if s.cur.mask.getLsbD l then some (RegCell.of (f l) t) else none)) true

/-- The tag of an answer that depends on a source of the lowest active lane (R117). -/
def State.answerTag (s : State) (b : RegNo) : Tag :=
  if (State.srcCell s (Mask.lowest s.cur.mask) b.toNat false).tag = .poison then .poison else .i32

/-- The recorded child stands at a new TCB: a splice, or with `rerun` a child that is re-executed there (R354). -/
def State.splice (s : State) (c : Nat) (k : Task) (child : TraceTask) (tcb : DWord) (rerun : Bool) : State :=
  match State.task? s c child.seq with
  | none => s
  | some ch =>
    let f := fun (off n : Nat) => State.tcbField s c tcb off n
    let here : Task :=
      { ch with tcb := tcb, spord := k.spawns + 1, parentTcb := k.tcb, argp := BitVec.ofNat 64 (f 8 8), arglen := f 0x18 4,
                succp := BitVec.ofNat 64 (f 0x20 8), blkrec := BitVec.ofNat 64 (f 0x70 8), queue := f 0x3C 2 }
    let s := State.updTask s c child.seq (fun _ => here)
    let p := fun (s : State) (off n v : Nat) => State.putTcb s c tcb off n v
    let s := p (p (p s 0x40 8 ch.seq) 0x28 8 ch.keylo.toNat) 0x30 8 ch.keyhi.toNat
    let s := p (p (p s 0x38 4 (k.spawns + 1)) 0x60 8 k.tcb.toNat) 0x10 8 ch.arghash.toNat
    let s := State.updTrace s c k.arena (fun t =>
      { t with splice := if rerun then t.splice else t.splice + 1,
               tasks := mapIf t.tasks (fun x => x.seq == child.seq)
                          (fun x => { x with tcb := tcb, stale := x.stale || rerun }) })
    let s := State.updTask s c k.seq (fun t => { t with spawns := t.spawns + 1, nextKey := ch.keyhi })
    if rerun then s
    else
      let s := State.setStatus s c child.seq .retired
      State.completion (State.walkSuccessors s c here.queue here.succp) c child.seq .retired 0

/-- The launch record, the capsule or the overflow entry of a task to be accepted lies on a page that the newel has yet to make
resident (R379). -/
def State.acceptWaits (s : State) (c q : Nat) (tcb : DWord) (e : Option Entry) : Bool :=
  let lrec := State.tcbField s c tcb 0 8
  let argp := State.tcbField s c tcb 8 8
  let arglen := State.tcbField s c tcb 0x18 4
  (lrec % 64 == 0 && State.missing s c false lrec 128) ||
  (decide (0 < arglen) && decide (arglen ≤ 4096) && argp % 16 == 0 && State.missing s c false argp arglen) ||
  (match e with
    | some _ => false
    | none =>
      match lowestFree (State.overflowUsed s q) (State.queue s q).ovfCap with
      | some k => State.missing s c true (vaOf (State.queue s q).ovfBase + 256 * k) 256
      | none => false)

/-- The spawn is accepted as a new child with an interval (R156 steps 7 to 9, R347, R354). -/
def State.spawnNew (s : State) (k : Task) (tcb : DWord) (q : Nat) (e : Entry) (lo hi : DWord) : State :=
  let traced := k.arena != 0
  let sp : Spawned :=
    { parent := k.seq, parentTcb := k.tcb, ord := k.spawns + 1, keylo := if traced then lo else 0,
      keyhi := if traced then hi else 0, arena := k.arena }
  let s := State.accept s k.ctx q tcb e (some sp)
  State.updTask s k.ctx k.seq (fun t =>
    { t with spawns := t.spawns + 1, nextKey := if traced then hi else t.nextKey })

/-- The recorded child that a re-execution's next spawn is matched against (R354). -/
def State.recordedChild (s : State) (k : Task) : Option TraceTask :=
  if !k.rerun then none
  else match State.trace? s k.ctx k.arena with
    | some t => t.tasks.find? (fun x => x.parent == k.seq && x.ord == k.spawns + 1 && x.cell != 0)
    | none => none

/-- The word as it stands, for parking. -/
def spawnInstr (w : Bool) (d a : RegNo) (ua : Bool) : Instr := if w then .spawnw d a ua else .spawn d a ua

/-- Steps 4 to 9 of R156, once the earlier stores are performed. -/
def State.spawnNow (s : State) (w : Bool) (d a : RegNo) (ua : Bool) (tcb : DWord) : Eff :=
  let c := s.g.ctx
  let q := State.tcbField s c tcb 0x3C 2
  let page := State.queue s q
  let done := fun (s : State) (v : Word) => Eff.ok (State.answer (State.unpark s) d (fun _ => v) .i32)
  if !State.tcbClean s c tcb then .trap s .illegal s.cur.mask tcb
  else if q ≥ Config.queues ∨ page.en = false ∨ page.ctx ≠ c then done s 2
  else match State.task? s c s.g.seq with
    | none => done s 2
    | some k =>
      let lrec : DWord := BitVec.ofNat 64 (State.tcbField s c tcb 0 8)
      let argp : DWord := BitVec.ofNat 64 (State.tcbField s c tcb 8 8)
      let arglen := State.tcbField s c tcb 0x18 4
      let child := State.recordedChild s k
      let same : Bool := match child with
        | some x => x.lrec == lrec && State.capsuleOk s c argp arglen && x.hash == State.argHash s c argp arglen &&
          !(State.task? s c x.seq).any (fun ch => ch.status == TStatus.rejected)
        | none => false
      match child, same with
      | some x, true =>
        let ended := match State.task? s c x.seq with | some ch => ch.status == .retired | none => false
        done (State.splice s c k x tcb (x.stale || x.volatileFlag || x.untraced || !ended)) 0
      | _, _ =>
        let me := if s.g.wait.isSome then (Group.parkedSpawn s.g).map (fun p => (p.2.2, 32 * s.g.hall + s.g.slot)) else none
        let entry := State.takeEntry s c q (dieOfHall s.g.hall) me
        if State.acceptWaits s c q tcb entry then .park (State.park s (spawnInstr w d a ua) 1 0 .xlate) .xlate
        else match entry with
        | none =>
          if w then
            let since := match Group.parkedSpawn s.g with | some p => p.2.2 | none => s.clk
            .park (State.park s (spawnInstr w d a ua) 2 (BitVec.ofNat 64 (since * 4096 + q)) .engq) .engq
          else done s 1
        | some e =>
          let width := (k.keyhi - k.nextKey).toNat / 16
          match child with
          | some x =>
            let iv := match State.task? s c x.seq with | some ch => (ch.keylo, ch.keyhi) | none => (k.nextKey, k.nextKey)
            done (State.spawnNew (State.retract s c k.arena [x.seq]) k tcb q e iv.1 iv.2) 0
          | none =>
            if k.arena ≠ 0 ∧ width < 2 then
              (if (s.tasks.filter (fun t => t.ctx == c && t.arena == k.arena)).length ≥ 4294967296 then
                .trap s .keyexh s.cur.mask 0
              else .park (State.park s (spawnInstr w d a ua) 3 0 .halt) .halt)
            else done (State.spawnNew s k tcb q e k.nextKey (k.nextKey + BitVec.ofNat 64 width)) 0

/-- SPAWN and SPAWNW (R156): the TCB is named by the lowest active lane; every earlier access of the group comes first (R267). -/
def State.spawnWord (s : State) (w : Bool) (d a : RegNo) (ua : Bool) : Eff :=
  State.outside s (fun s => State.withSources s (srcPair a.toNat ua [.addr] .lowest) (fun s =>
    let l0 := Mask.lowest s.cur.mask
    let tcb := State.src64 s l0 a.toNat ua
    if tcb.toNat % 128 ≠ 0 then .trap s .align (1#32 <<< l0) tcb
    else State.classifiedOnce s .atomic [{ lane := l0, addr := tcb, len := 128 }] (fun s ps =>
      let s := State.touch s s.g.hall s.g.ctx true ps
      let s := if s.g.wait.isSome then s else State.endRegion s
      if s.g.scnt = 0 ∧ s.g.lcnt = 0 ∧ s.g.acnt = 0 then State.spawnNow s w d a ua tcb
      else .park (State.park s (spawnInstr w d a ua) 1 0 .cntwait) .cntwait)))

/-- SPAWN -/
def execSpawn (d a : RegNo) (ua : Bool) (s : State) : Out :=
  issue (.spawn d a ua) (fun s => State.spawnWord s false d a ua) s

/-- SPAWNW -/
def execSpawnw (d a : RegNo) (ua : Bool) (s : State) : Out :=
  issue (.spawnw d a ua) (fun s => State.spawnWord s true d a ua) s

end Sys2Proof.Machine
end

