-- ==== Sys2Proof/Machine/Complete.lean ====
section
/-! DEFINITION. The completion of what a group has outstanding: loads return (R216, R221, R215), stores are performed (R216, R260),
atomics are performed at their unit (R158, R276, R278), under the order of R261, held by migration (R84) and by lockstep
(R341). -/

namespace Sys2Proof.Machine

/-! ## What completes -/

/-- The group's nth outstanding operation, with the parts of it that are performed now: `k` of those that can be, all when k is 0
(R84, R220, R261). -/
def State.ready? (s : State) (hall slot n k : Nat) : Option (Group × Outst × List Nat) :=
  match State.groupAt? s hall slot with
  | none => none
  | some g =>
    match g.outst[n]? with
    | none => none
    | some o =>
      let ks := State.nextUnits s g n k
      if o.sent.isNone && (!ks.isEmpty || (o.parts.isEmpty && Group.mayPerform g n)) then some (g, o, ks) else none

/-- An operation is no longer outstanding. -/
def Group.done (g : Group) (n : Nat) : Group := { g with outst := dropPlaces g.outst [n] }

/-- An outstanding operation as far as it has come. -/
def Group.progress (g : Group) (n : Nat) (o : Outst) : Group := { g with outst := g.outst.set n o }

/-! ## Lockstep: what leaves the partition (R341) -/

/-- A physical address lies outside the dies of a lockstep context. -/
def State.outsidePartition (s : State) (c pa : Nat) : Bool :=
  match s.ctx? c with
  | none => false
  | some x => x.lockMask != 0 &&
      (Config.isHostMemory pa || Config.isRemote pa || !x.lockMask.getLsbD (Config.dieOf pa).val)

/-- Address, byte mask and data of one piece of traffic. -/
def trafficBytes (pa : Nat) (data : List Byte) : List Byte := leBytes 8 pa ++ leBytes 2 (2 ^ data.length - 1) ++ data

/-- The traffic of the parts of an operation that leaves the partition, in the order of its lanes. -/
def State.trafficOf (s : State) (g : Group) (o : Outst) (ks : List Nat) : List Byte :=
  ks.flatMap (fun k =>
    match o.op with
    | .store w =>
      match w.parts[k]? with
      | some p =>
        let pa := Leaf.phys p.leaf (vaOf p.addr)
        if !w.scratch && State.outsidePartition s g.ctx pa then trafficBytes pa p.data else []
      | none => []
    | _ =>
      match o.parts[k]? with
      | some p =>
        let pa := Leaf.phys p.leaf (vaOf p.addr)
        if !windowPointer p.addr && State.outsidePartition s g.ctx pa then
          trafficBytes pa ((p.x.flatMap (fun w => leBytes 4 w.toNat)).take p.len)
        else []
      | none => [])

/-- The traffic of a write to a context's global memory, page by page; `back` for one to the back set of a published buffer. -/
def State.leaving (s : State) (c : Nat) (back : Bool) (a : DWord) (data : List Byte) : List Byte :=
  ((splitPages a data.length).foldl (fun (x : Nat × List Byte) q =>
    (x.1 + q.2,
      match State.walk s c (vaOf q.1) with
      | .absent => x.2
      | .leaf l _ =>
        let pa := State.physOf s c l (!back) (vaOf q.1)
        if State.outsidePartition s c pa then x.2 ++ trafficBytes pa ((data.drop x.1).take q.2) else x.2)) (0, [])).2

/-- A run of a context's global memory that would leave its lockstep partition when written. -/
def State.runLeaves (s : State) (c : Nat) (back : Bool) (a : DWord) (n : Nat) : Bool :=
  (s.ctx? c).any (fun x => x.lockMask != 0) && (splitPages a n).any (fun q =>
    match State.walk s c (vaOf q.1) with
    | .absent => false
    | .leaf l _ => State.outsidePartition s c (State.physOf s c l (!back) (vaOf q.1)))

/-- Bytes join the traffic of the interval. -/
def State.addTraffic (s : State) (bs : List Byte) : State := State.updPkg s (fun p => { p with traffic := p.traffic ++ bs })

/-- Traffic is held at the edge of the partition: it joins the interval's, and the operation waits for the comparison. -/
def State.holdTraffic (s : State) (hall slot n : Nat) (bs : List Byte) : State :=
  let s := State.updGroup s hall slot (fun g =>
    match g.outst[n]? with
    | some o => { g with outst := g.outst.set n { o with sent := some s.pkg.traffic.length } }
    | none => g)
  State.addTraffic s bs

/-! ## Loads (R194, R215, R216, R221) -/

/-- A 128-byte line is discarded: no cached copy is written back, and its bytes read 0 (R215). -/
def State.discardLine (s : State) (line : Nat) : State :=
  let s := { s with
    blocks := s.blocks.map (fun b => { b with stashLines := b.stashLines.filter (fun l => l.pa != line) }),
    mem := Memory.writeN s.mem (128 * line) (List.replicate 128 0) }
  State.markWritten s (128 * line) 128 false

/-- The lines that a load's lanes read. -/
def Outst.lines (o : Outst) : List Nat :=
  (o.parts.flatMap (fun p => linesOf (Leaf.phys p.leaf (vaOf p.addr)) p.len)).eraseDups

/-- A codebook image as its 16 entries (R165). -/
def codebookOf (bs : List Byte) : List (BitVec 16) :=
  (List.range 16).map (fun i => BitVec.ofNat 16 (fieldOfBytes bs (2 * i) 2))

/-- A row of an accumulator tile from what a lane has read of it, element by element: INT is cleared, and an element's poison is
its bytes' (R249, R337). -/
def Tile.loadRow (t : Tile) (row : Nat) (xs : List (List Byte × Bool × Word)) : Tile :=
  { t with
    elems := (List.range t.elems.length).map (fun k =>
      if k / 8 = row then (BitVec.ofNat 32 (leNat (xs.getD (k % 8) ([], false, 0)).1) : Word) else t.elems.getD k 0),
    ints := t.ints &&& ~~~(1#4 <<< (row / 8)),
    poison := (List.range 8).foldl (fun p c =>
      if (xs.getD c ([], false, 0)).2.1 then p ||| (1#256 <<< (8 * row + c)) else p &&& ~~~(1#256 <<< (8 * row + c))) t.poison }

/-- Some parts of a load have been performed; once all are, its values are written, for .last the lines discarded, and its counter
falls (R215, R216). -/
def State.finishLoad (s : State) (g : Group) (n : Nat) (o : Outst) : State :=
  let put := fun (s : State) (f : Group → Group) => State.updGroup s g.hall g.slot f
  if !Outst.whole o then put s (fun x => Group.progress x n o)
  else match o.op with
  | .load _ sz d _ _ last =>
    let s := if last then (Outst.lines o).foldl State.discardLine s else s
    put s (fun x => { Group.done (Group.takeLoad x o sz d) n with lcnt := dec x.lcnt })
  | .ldcb k =>
    let bs := (Outst.lane o ((o.parts.map (fun p => p.lane)).headD 0)).1
    put s (fun x => { Group.done x n with codebooks := x.codebooks.set k (codebookOf bs), lcnt := dec x.lcnt })
  | .mmld k =>
    put s (fun x =>
      { Group.done x n with
        tiles := x.tiles.set k ((Outst.lanes o).foldl (fun t l =>
          Tile.loadRow t l ((o.parts.filter (fun p => p.lane == l)).map LanePart.seen)) (x.tiles.getD k Tile.zero)) })
  | _ => s

/-- An operation that reads into registers, a codebook or a tile. -/
def OutOp.isLoad (o : OutOp) : Bool :=
  match o with
  | .load _ _ _ _ _ _ => true
  | .ldcb _ => true
  | .mmld _ => true
  | _ => false

/-- LOAD_RETURN: some parts of a load, LDCB or MMLD are performed, `k` at most (0: all that can be) -/
def execLoadReturn (hall slot n k : Nat) (s : State) : Out :=
  match State.ready? s hall slot n k with
  | some (g, o, ks) =>
    if OutOp.isLoad o.op then
      let (o, s) := State.takeParts s g o (match o.op with | .load sc _ _ _ _ _ => sc | .mmld _ => true | _ => false) ks
      .next (State.finishLoad s g n o)
    else .next s
  | none => .next s

/-! ## Stores (R216, R249, R260) -/

/-- Parts of a store that has left the buffer are performed; with the last of them scnt falls, but for an MMST (R249). -/
def State.finishStore (s : State) (g : Group) (n : Nat) (o : Outst) (ks : List Nat) : State :=
  match o.op with
  | .store w =>
    let s := State.storeWord s g { w with parts := ks.filterMap (fun k => w.parts[k]?) }
    let left := dropPlaces w.parts ks
    State.updGroup s g.hall g.slot (fun x =>
      if left.isEmpty then { Group.done x n with scnt := if w.tile then x.scnt else dec x.scnt }
      else Group.progress x n { o with op := .store { w with parts := left } })
  | _ => s

/-- STORE_PERFORMED: some parts of a store are performed, `k` at most (0: all that can be); one that leaves a lockstep partition is
held instead (R341) -/
def execStorePerformed (hall slot n k : Nat) (s : State) : Out :=
  match State.ready? s hall slot n k with
  | some (g, o, ks) =>
    if OutOp.isStore o.op then
      let bs := State.trafficOf s g o ks
      if bs.isEmpty then .next (State.finishStore s g n o ks) else .next (State.holdTraffic s hall slot n bs)
    else .next s
  | none => .next s

/-! ## Atomics (R276, R278) -/

/-- One lane's atomic at its unit: the old bytes, whether they were poisoned, the flags, the state. -/
def State.atomicPart (s : State) (g : Group) (o : Outst) (op : AtomicOp) (n : Nat) (p : LanePart) : Nat × Bool × Word × State :=
  if windowPointer p.addr then
    let (blk, off) := Group.scratchAt g p.addr
    let old := leNat (State.readScratch s g.ctx g.seq blk off n)
    let bad := State.scratchPoisoned s g.ctx g.seq blk off n
    let (new, f) := AtomicOp.apply op n old p.x
    let s := State.writeScratch s g.ctx g.seq blk off (leBytes n new) (bad && op != .xch)
    let s := State.updGroup s g.hall g.slot (Group.overtake (true, placeRank p.addr, off, n))
    let s := State.noteScratch s g.ctx g.groupNo o.lc g.seq blk off n
    (old, bad, f, State.watch s g.ctx g.hall g.slot true off n true true)
  else
    let va := vaOf p.addr
    let pa := Leaf.phys p.leaf va
    let s := State.reach s (dieOfHall g.hall) g.ctx p.leaf pa n
    let s := State.updGroup s g.hall g.slot (Group.overtake (false, 0, pa, n))
    let (bs, s) := State.readRun s none va pa n
    let old := leNat bs
    let bad := State.poisoned s pa n
    let (new, f) := AtomicOp.apply op n old p.x
    let gran := fun (k : Nat) => (State.readRun s none (k * 32) (Leaf.phys p.leaf (k * 32)) 32).1
    let s := State.noteRead s g.ctx g.seq va n p.leaf
    let s := State.noteWrite s g.ctx (.task g.seq) va (leBytes n new) bs gran p.leaf
    let s := State.writeRun s none va pa (leBytes n new) false
    let s := State.noteLines s g.ctx g.groupNo o.lc pa n
    (old, bad, f, State.watch s g.ctx g.hall g.slot false va n true true)

/-- Results of an atomic: each lane's words with their tag, and the flags. -/
abbrev LaneWords := List (Nat × List Word × Tag)

/-- Some lanes of an atomic word are performed, ascending: each keeps its old value (R220, R276). -/
def State.atomicLanes (s : State) (g : Group) (o : Outst) (op : AtomicOp) (n : Nat) (ks : List Nat) : Outst × State :=
  ks.foldl (fun (x : Outst × State) k =>
    match x.1.parts[k]? with
    | some p =>
      let (old, bad, f, s) := State.atomicPart x.2 g o op n p
      ({ x.1 with parts := x.1.parts.set k { p with got := some (leBytes n old, bad, f) } }, s)
    | none => x) (o, s)

/-- The results of an atomic word whose lanes are performed. -/
def Outst.atomicResults (o : Outst) (op : AtomicOp) (n : Nat) : LaneWords × Word :=
  (o.parts.map (fun p =>
    let (bs, bad, _) := LanePart.seen p
    (p.lane, natWords (n / 4) (leNat bs), if bad then Tag.poison else AtomicOp.tag op)),
   o.parts.foldl (fun f p => f ||| (LanePart.seen p).2.2) 0)

/-- The results go to the registers, acnt falls. -/
def Group.takeResults (g : Group) (n d : Nat) (rs : LaneWords) (f : Word) : Group :=
  let g := rs.foldl (fun g r => Group.putWords g r.1 d (r.2.1.map (fun w => (w, 0))) r.2.2) g
  { Group.done g n with acnt := dec g.acnt, fpflags := g.fpflags ||| f }

/-- A round's counter is advanced by its opener (R63). -/
def State.openRound (s : State) (g : Group) (round : Nat) (o : Outst) (incr : DWord) : State :=
  match o.parts with
  | [] => s
  | p :: _ =>
    let (old, bad, _, s) := State.atomicPart s g o .add 8 { p with x := [lo32 incr, hi32 incr] }
    let v : DWord := BitVec.ofNat 64 old
    State.updGang s g.ctx g.seq (Group.gang g) (fun y =>
      { y with rounds := mapIf y.rounds (fun (r : Round) => r.n == round) (fun r => { r with value := some v, bad := bad }) })

/-- Rounds whose value has arrived for every group of the gang are closed (R63). -/
def State.closeRounds (s : State) (c seq i : Nat) : State :=
  let waiting := fun (n : Nat) => (State.allGroups s).any (fun g => g.ctx == c && g.seq == seq && Group.gang g == i &&
    g.outst.any (fun o => match o.op with | .tkt k _ _ _ => k == n | _ => false))
  State.updGang s c seq i (fun y =>
    { y with rounds := y.rounds.filter (fun (r : Round) => decide (r.takers.length < y.groups) || waiting r.n) })

/-- A TKT's value arrives, once its round has one. -/
def State.finishTicket (s : State) (g : Group) (n : Nat) (o : Outst) (round : Nat) (opener : Bool) (incr : DWord) (d : Nat) :
    State :=
  let s := if opener then State.openRound s g round o incr else s
  match (match State.gang? s g.ctx g.seq (Group.gang g) with
      | some y => y.rounds.find? (fun (r : Round) => r.n == round)
      | none => none) with
  | none => s
  | some r =>
    match r.value with
    | none => s
    | some v =>
      let rs := (Mask.lanes o.mask).map (fun l => (l, [lo32 v], if r.bad then Tag.poison else Tag.i32))
      let s := State.updGroup s g.hall g.slot (fun x => Group.takeResults x n d rs 0)
      State.closeRounds s g.ctx g.seq (Group.gang g)

/-- Some lanes of a DEPADD are performed, ascending: each keeps the old count (R157). -/
def State.depLanes (s : State) (g : Group) (o : Outst) (ks : List Nat) : Outst × State :=
  ks.foldl (fun (x : Outst × State) k =>
    match x.1.parts[k]? with
    | some p =>
      let (old, s) := State.addPred x.2 g.ctx p.addr (p.x.headD 0).toInt
      ({ x.1 with parts := x.1.parts.set k { p with got := some (leBytes 4 old, false, 0) } }, s)
    | none => x) (o, s)

/-- Some lanes of an atomic or DEPADD have been performed; once all are, the word's results are written. -/
def State.finishLanes (s : State) (g : Group) (n d : Nat) (o : Outst) (rs : LaneWords × Word) : State :=
  State.updGroup s g.hall g.slot (fun x => if Outst.whole o then Group.takeResults x n d rs.1 rs.2 else Group.progress x n o)

/-- Some lanes of an atomic, TKT or DEPADD are performed. -/
def State.finishAtomic (s : State) (g : Group) (n : Nat) (o : Outst) (ks : List Nat) : State :=
  match o.op with
  | .atomic op bytes d _ _ =>
    let (o, s) := State.atomicLanes s g o op bytes ks
    State.finishLanes s g n d o (Outst.atomicResults o op bytes)
  | .tkt round opener incr d => State.finishTicket s g n o round opener incr d
  | .depadd d =>
    let (o, s) := State.depLanes s g o ks
    State.finishLanes s g n d o
      (o.parts.map (fun p => (p.lane, [BitVec.ofNat 32 (leNat (LanePart.seen p).1)], Tag.i32)), 0)
  | _ => s

/-- A held operation of a group leaves the partition, and what of it is not performed is performed (R341). -/
def State.leave? (s : State) (hall slot no : Nat) : State :=
  match State.groupAt? s hall slot with
  | none => s
  | some g =>
    match g.outst.findIdx? (fun o => o.no == no && o.sent.isSome) with
    | none => s
    | some n =>
      match g.outst[n]? with
      | none => s
      | some o =>
        let ks := (Outst.units o).map (fun u => u.1)
        if OutOp.isStore o.op then State.finishStore s g n o ks else State.finishAtomic s g n o ks

/-- ATOMIC_PERFORMED: some lanes of an atomic, TKT or DEPADD are performed, `k` at most (0: all that can be); one that leaves a
lockstep partition is held instead (R341) -/
def execAtomicPerformed (hall slot n k : Nat) (s : State) : Out :=
  match State.ready? s hall slot n k with
  | some (g, o, ks) =>
    let bs := match o.op with | .atomic _ _ _ _ _ => State.trafficOf s g o ks | _ => []
    if bs.isEmpty then .next (State.finishAtomic s g n o ks) else .next (State.holdTraffic s hall slot n bs)
  | none => .next s

end Sys2Proof.Machine
end

