-- ==== Sys2Proof/Machine/Engine.lean ====
section
/-! DEFINITION. The copy engine (R205, R209 to R211, R228 to R232), publishing (R212 to R214, R233), and the stash words (R206,
R207, R226, R227). -/

namespace Sys2Proof.Machine

/-! ## The box of CPYT (R230) -/

/-- A signed 16-bit number. -/
def signed16 (x : Nat) : Int := if x < 32768 then (x : Int) else (x : Int) - 65536

/-- The descriptor of CPYT. -/
structure Box where
  nx : Nat
  ny : Nat
  nz : Nat
  dsp : Bool
  ssp : Bool
  esz : Nat
  rs : Nat
  ps : Nat
  ex : Nat
  ey : Nat
  ez : Nat
  x0 : Int
  y0 : Int
  z0 : Int
  deriving DecidableEq, Repr

/-- A field of a descriptor word. -/
def descField (w : List Word) (i lo n : Nat) : Nat := bits (w.getD i 0).toNat lo n

/-- The box that eight words describe. -/
def boxOf (w : List Word) : Box :=
  { nx := descField w 0 0 16, ny := descField w 0 16 16, nz := descField w 1 0 16, dsp := descField w 1 19 1 == 1,
    ssp := descField w 1 18 1 == 1, esz := 2 ^ descField w 1 16 2, rs := descField w 2 0 32, ps := descField w 3 0 32,
    ex := descField w 4 0 16, ey := descField w 4 16 16, ez := descField w 5 0 16, x0 := signed16 (descField w 6 0 16),
    y0 := signed16 (descField w 6 16 16), z0 := signed16 (descField w 7 0 16) }

/-- The bytes of the box. -/
def Box.size (b : Box) : Nat := b.nx * b.ny * b.nz * b.esz

/-- The elements of a row that are in bounds: the first `i` and how many. -/
def Box.span (b : Box) : Nat × Nat :=
  let lo := max 0 (-b.x0)
  let hi := min (b.nx : Int) ((b.ex : Int) - b.x0)
  (lo.toNat, (hi - lo).toNat)

/-- Row j of plane k is in bounds: the offset of its first in-bounds byte from S. -/
def Box.rowAt (b : Box) (j k : Nat) : Option Nat :=
  let y := b.y0 + j
  let z := b.z0 + k
  if 0 ≤ y ∧ y < b.ey ∧ 0 ≤ z ∧ z < b.ez ∧ (Box.span b).2 ≠ 0 then
    some ((b.x0 + (Box.span b).1).toNat * b.esz + y.toNat * b.rs + z.toNat * b.ps)
  else none

/-- The rows of the box in their order, plane by plane. -/
def Box.rows (b : Box) : List (Option Nat) :=
  (List.range b.nz).flatMap (fun k => (List.range b.ny).map (fun j => Box.rowAt b j k))

/-- The source runs of the box: offset from S and bytes. -/
def Box.runs (b : Box) : List (Nat × Nat) := (Box.rows b).filterMap (fun r => r.map (fun o => (o, (Box.span b).2 * b.esz)))

/-- The span from the lowest to the highest in-bounds byte. -/
def Box.bounds (b : Box) : Option (Nat × Nat) :=
  match Box.runs b with
  | [] => none
  | r :: rs =>
    let lo := rs.foldl (fun m x => min m x.1) r.1
    let hi := rs.foldl (fun m x => max m (x.1 + x.2)) (r.1 + r.2)
    some (lo, hi - lo)

/-! ## Places (R228) -/

/-- A place some bytes further on. -/
def Place.add (p : Place) (n : Nat) : Place :=
  if p.scratch then { p with addr := BitVec.zeroExtend 64 (lo32 p.addr + BitVec.ofNat 32 n) }
  else { p with addr := p.addr + BitVec.ofNat 64 n }

/-- The runs a command reads whose places are known at its acceptance. -/
def CmdKind.sources : CmdKind → List (Place × Nat)
  | .copy src _ len _ => [(src, len)]
  | .box src _ desc => match Box.bounds (boxOf desc) with | some (o, n) => [(Place.add src o, n)] | none => []
  | .gather _ idx _ count _ => [(idx, 4 * count)]
  | .disc _ _ => []

/-- The run a command writes. -/
def CmdKind.dest : CmdKind → Place × Nat
  | .copy _ dst len _ => (dst, len)
  | .box _ dst desc => (dst, Box.size (boxOf desc))
  | .gather _ _ dst count rowb => (dst, count * rowb)
  | .disc a n => ({ scratch := false, addr := a }, n)

/-- Bytes of its source that a command has read. -/
def Cmd.read (c : Cmd) : Nat := c.put + c.got.length

/-- Bytes that a command writes. -/
def Cmd.total (c : Cmd) : Nat := (CmdKind.dest c.kind).2

/-- The runs a command has still to read, of those whose places are known at its acceptance. -/
def Cmd.reads (c : Cmd) : List (Place × Nat) :=
  match c.kind with
  | .copy src _ len _ => if Cmd.read c < len then [(Place.add src (Cmd.read c), len - Cmd.read c)] else []
  | .box _ _ _ => if Cmd.read c < Cmd.total c then CmdKind.sources c.kind else []
  | .gather _ idx _ count _ => if c.rows < count then [(Place.add idx (4 * c.rows), 4 * (count - c.rows))] else []
  | .disc _ _ => []

/-- The run a command has still to write. -/
def Cmd.writes (c : Cmd) : List (Place × Nat) :=
  let done := match c.kind with | .gather _ _ _ _ rowb => c.rows * rowb | _ => c.put
  if done < Cmd.total c then [(Place.add (CmdKind.dest c.kind).1 done, Cmd.total c - done)] else []

/-- The launch record's copy of a task. -/
def State.launchOf (s : State) (c seq : Nat) : LaunchRec :=
  match State.task? s c seq with | some t => t.lr | none => LaunchRec.zero

/-- The block and offset of a scratchpad place. -/
def Place.target (p : Place) (r : LaunchRec) (blk n : Nat) : Option (Nat × Nat) :=
  if p.scratch then scratchTarget r blk (lo32 p.addr) n else none

/-- The tracked tiles of a run, with their block (R205). -/
def State.trackedTiles (s : State) (c seq blk : Nat) (x : Place × Nat) : List (Nat × Nat) :=
  match Place.target x.1 (State.launchOf s c seq) blk x.2 with
  | none => []
  | some (b, off) =>
    match State.block? s c seq b with
    | none => []
    | some y => ((tilesOf off x.2).filter (fun t => TileTag.trk (Block.tag y t))).map (fun t => (b, t))

/-- The tracked tiles that a command has still to read. -/
def State.sourceTiles (s : State) (c : Cmd) : List (Nat × Nat) :=
  (Cmd.reads c).flatMap (fun x => State.trackedTiles s c.ctx c.seq c.blk x)

/-- The tracked tiles that a command has still to write. -/
def State.destTiles (s : State) (c : Cmd) : List (Nat × Nat) :=
  (Cmd.writes c).flatMap (fun x => State.trackedTiles s c.ctx c.seq c.blk x)

/-- Tags of some tiles changed. -/
def State.tagTiles (s : State) (c seq : Nat) (ts : List (Nat × Nat)) (f : BitVec 5 → BitVec 5) : State :=
  ts.foldl (fun s t => State.updBlock s c seq t.1 (fun b => Block.setTag b t.2 f)) s

/-! ## Starting commands (R205, R209, R214, R265) -/

/-- The engines of a context are stopped by the debugger (R365). -/
def State.enginesStopped (s : State) (c : Nat) : Bool :=
  match s.ctx? c with | some x => x.dbg.haltAll || State.lockStopped s x | none => false

/-- A command may begin: nothing of its group stands unbegun before it, no PUB holds it, no earlier .acq access is outstanding,
and every tracked destination tile has V = 0 or C = 1. -/
def State.mayStart (s : State) (before : List Cmd) (c : Cmd) : Bool :=
  !c.started && c.behind == 0 && before.all (fun b => b.slot != c.slot || b.started) && !State.enginesStopped s c.ctx &&
  (match State.groupAt? s c.hall c.slot with | some g => !g.draining && !Group.acqBefore g c.after | none => true) &&
  (State.destTiles s c).all (fun t => match State.block? s c.ctx c.seq t.1 with
    | some b => !TileTag.v (Block.tag b t.2) || TileTag.c (Block.tag b t.2)
    | none => true)

/-- The commands of a hall that may begin do, in their order. -/
def State.startHall (s : State) (h : Nat) : State :=
  (List.range (State.hall s h).cmds.length).foldl (fun s n =>
    match (State.hall s h).cmds[n]? with
    | none => s
    | some c =>
      if State.mayStart s ((State.hall s h).cmds.take n) c then
        let s := State.tagTiles s c.ctx c.seq (State.destTiles s c)
          (fun t => TileTag.clear (TileTag.clear (TileTag.set t 3) 0) 1)
        State.updHall s h (fun x => { x with cmds := x.cmds.set n { c with started := true } })
      else s) s

/-- Every hall's commands that may begin do. -/
def State.startCmds (s : State) : State :=
  s.halls.foldl (fun s h => if h.2.cmds.isEmpty then s else State.startHall s h.1) s

/-! ## Accepting a command (R209, R210, R228) -/

/-- Runs of bytes of untracked tiles in a run of a block's scratchpad: from, to (R210). -/
def Block.untracked (b : Block) (off len : Nat) : List (Nat × Nat) :=
  (tilesOf off len).foldl (fun r t =>
    if TileTag.trk (Block.tag b t) then r
    else
      let lo := max off (1024 * t)
      let hi := min (off + len) (1024 * t + 1024)
      match r.getLast? with
      | some x => if x.2 = lo then r.dropLast ++ [(x.1, hi)] else r ++ [(lo, hi)]
      | none => [(lo, hi)]) []

/-- The range scoreboard entries of a run; bytes of tracked tiles have none (R210). -/
def State.rangesFor (s : State) (x : Place × Nat) : List RangeEntry :=
  let g := s.g
  if x.1.scratch then
    match Place.target x.1 g.lr g.blk x.2 with
    | none => []
    | some (b, off) =>
      let runs := match State.block? s g.ctx g.seq b with | some y => Block.untracked y off x.2 | none => [(off, off + x.2)]
      runs.map (fun r =>
        { ctx := g.ctx, scratch := true, seq := g.seq, blk := b, lo := r.1, hi := r.2, slot := g.slot, num := g.commands })
  else
    let va := vaOf x.1.addr
    [{ ctx := g.ctx, scratch := false, seq := g.seq, blk := g.blk, lo := va / 32 * 32, hi := (va + x.2 + 31) / 32 * 32,
       slot := g.slot, num := g.commands }]

/-- The ranges a command records. -/
def State.rangesOf (s : State) (k : CmdKind) : List RangeEntry :=
  (CmdKind.sources k ++ [CmdKind.dest k]).flatMap (State.rangesFor s)

/-- The command is accepted: its region ends, ecnt goes up, ranges and tags are set. -/
def State.acceptCmd (s : State) (k : CmdKind) (behind : Nat) : State :=
  let ranges := State.rangesOf s k
  let s := State.endRegion s
  let g := s.g
  let c : Cmd :=
    { kind := k, hall := g.hall, slot := g.slot, ctx := g.ctx, seq := g.seq, blk := g.blk, grp := g.grp, rows := 0, got := [], put := 0, ord := g.copies, deferred := none,
      mask := s.cur.mask, behind := behind, started := false, num := g.commands, lc := g.lc, after := g.nextNo, hold := 0 }
  let s := State.tagTiles s c.ctx c.seq (State.sourceTiles s c) (fun t => TileTag.set t 3)
  let s := State.updHall s g.hall (fun h => { h with cmds := h.cmds ++ [c], ranges := h.ranges ++ ranges })
  let s := State.updG s (fun g =>
    { g with ecnt := g.ecnt + 1, commands := g.commands + 1, copies := g.copies + 1, nextNo := g.nextNo + 1 })
  State.startHall s g.hall

/-- Commands of the group that are not done: ecnt, with the PROPs that wait for their propagation (R216, R352). -/
def State.ecntFull (s : State) : Bool := decide (Group.engines s.g ≥ Config.maxCounter)

/-- The last steps of every engine word: room in ecnt and in the scoreboard, then the acceptance. -/
def State.enqueue (s : State) (k : CmdKind) (behind : Nat) : Eff :=
  if State.ecntFull s then .stall .pipebusy []
  else if (State.hall s s.g.hall).ranges.length + (State.rangesOf s k).length > Config.rangeEntries then .stall .engq []
  else .ok (State.acceptCmd s k behind)

/-- A register pair read as a place (R228): none when a scratchpad place has a nonzero high register. -/
def State.placeOf (s : State) (lane n : Nat) (u space : Bool) : Option Place :=
  if space then
    if State.src s lane (n + 1) u ≠ 0 then none
    else some { scratch := true, addr := BitVec.zeroExtend 64 (State.src s lane n u) }
  else some { scratch := false, addr := State.src64 s lane n u }

/-- The sources of a place: a pair of ADDR or I32, or a scratchpad address of I32 (R218). -/
def placeSources (n : Nat) (u space : Bool) : List Src :=
  if space then [{ reg := n, uni := u, tags := [.i32], use := .lowest }, { reg := n + 1, uni := u, tags := [], use := .lowest }]
  else srcPair n u addrTags .lowest

/-- Every scratchpad run is legal (R202). -/
def State.runsLegal (s : State) (xs : List (Place × Nat)) : Bool :=
  xs.all (fun x => !x.1.scratch || (Place.target x.1 s.g.lr s.g.blk x.2).isSome)

/-- The accesses of the global runs of some sources and a destination. -/
def engineAccesses (l0 : Nat) (src : List (Place × Nat)) (dst : List (Place × Nat)) : List (Need × Access) :=
  let acc := fun (x : Place × Nat) => ({ lane := l0, addr := x.1.addr, len := x.2 } : Access)
  (src.filter (fun x => !x.1.scratch)).map (fun x => (.load, acc x)) ++
  (dst.filter (fun x => !x.1.scratch)).map (fun x => (.store, acc x))

/-- The pieces of the destination among those classified. -/
def destPieces (ps : List Piece) (dst : List (Place × Nat)) : List Piece :=
  ps.filter (fun p => dst.any (fun x => !x.1.scratch && decide (x.1.addr.toNat ≤ p.addr.toNat) &&
    decide (p.addr.toNat < x.1.addr.toNat + x.2)))

/-- The TLB fills and D bits of an engine word's pages (R76, R78). -/
def State.touchAll (s : State) (ps : List Piece) (dst : List (Place × Nat)) : State :=
  let d := destPieces ps dst
  State.touch (State.touch s s.g.hall s.g.ctx false (ps.filter (fun p => !d.contains p))) s.g.hall s.g.ctx true d

/-- The descriptor is BOUNDS. -/
def State.descBad (s : State) : Eff := .trap s .bounds s.cur.mask 0

/-- A page fault of an engine word leaves the command unaccepted, and the region restarts at the command: what came before it has
ended with the region (R228). -/
def State.atCommand (s : State) : State :=
  let t := State.endRegion s
  { t with g := Group.recordStart t.g }

/-- What every engine word does once its descriptor is read: R202, R79, R213 by `prot`, then the acceptance. -/
def State.engineWord (s : State) (k : CmdKind) (src : List (Place × Nat)) (prot : List Piece → Option (Mask × DWord))
    (behind : Nat) : Eff :=
  let dst := [CmdKind.dest k]
  if !State.runsLegal s (src ++ dst) then State.descBad s
  else match State.classifiedAll s (engineAccesses (Mask.lowest s.cur.mask) src dst) (fun t ps =>
      match prot (destPieces ps dst) with
      | some (m, a) => .trap t .prot m a
      | none => State.enqueue (State.touchAll t ps dst) k behind) with
    | .fault t pages => .fault (State.atCommand t) pages
    | e => e

/-- PROT for a destination on an S page (R213). -/
def plainDest (ps : List Piece) : Option (Mask × DWord) :=
  match ps.find? (fun p => Leaf.s p.leaf) with
  | some p => some (1#32 <<< p.lane, p.addr)
  | none => none

/-! ## CPY and CPYW (R229) -/

/-- PUBs of a buffer that are accepted and not retired. -/
def State.pubsOf (s : State) (c entry : Nat) : List PubCmd :=
  match s.ctx? c with | some x => x.pubs.filter (fun p => p.entry == entry) | none => []

/-- CPY and CPYW -/
def State.copyWord (s : State) (w : Bool) (d a b : RegNo) (ua ub : Bool) : Eff :=
  State.outside s (fun s =>
    let l0 := Mask.lowest s.cur.mask
    let v := (State.src s l0 b.toNat ub).toNat
    let dsp := v.testBit 26
    let ssp := v.testBit 25
    let len := bits v 0 25
    let xs : List Src := placeSources d.toNat false dsp ++ placeSources a.toNat ua ssp ++
      [{ reg := b.toNat, uni := ub, tags := [], use := .peek }]
    State.withSources s xs (fun s =>
      match State.placeOf s l0 d.toNat false dsp, State.placeOf s l0 a.toNat ua ssp with
      | some dst, some src =>
        if bits v 27 5 ≠ 0 ∨ len = 0 ∨ len > 16777216 then State.descBad s
        else if !w then State.engineWord s (.copy src dst len false) [(src, len)] plainDest 0
        else if dsp then State.engineWord s (.copy src dst len true) [(src, len)] (fun _ => some (1#32 <<< l0, dst.addr)) 0
        else
          let va := vaOf dst.addr
          let e := State.buffer s s.g.ctx va
          let whole := match e with | some x => PubEntry.holds x (va + len - 1) | none => false
          let prot := fun (ps : List Piece) =>
            match ps.find? (fun p => !Leaf.s p.leaf) with
            | some p => some (1#32 <<< p.lane, p.addr)
            | none => if whole then none else some (1#32 <<< l0, dst.addr)
          let behind := match e with | some x => (State.pubsOf s s.g.ctx x.index).length | none => 0
          State.engineWord s (.copy src dst len true) [(src, len)] prot behind
      | _, _ => State.descBad s))

/-- CPY -/
def execCpy (d a b : RegNo) (ua ub : Bool) (s : State) : Out :=
  issue (.cpy d a b ua ub) (fun s => State.copyWord s false d a b ua ub) s

/-- CPYW -/
def execCpyw (d a b : RegNo) (ua ub : Bool) (s : State) : Out :=
  issue (.cpyw d a b ua ub) (fun s => State.copyWord s true d a b ua ub) s

/-! ## CPYT (R230) -/

/-- Two runs of one space overlap. -/
def runsOverlap (x y : Place × Nat) : Bool :=
  x.1.scratch == y.1.scratch &&
  (if x.1.scratch then placeRank x.1.addr == placeRank y.1.addr &&
      overlaps (bits x.1.addr.toNat 0 19) x.2 (bits y.1.addr.toNat 0 19) y.2
   else overlaps (vaOf x.1.addr) x.2 (vaOf y.1.addr) y.2)

/-- CPYT -/
def execCpyt (d a b : RegNo) (ua ub : Bool) (s : State) : Out :=
  issue (.cpyt d a b ua ub) (fun s => State.outside s (fun s =>
    let l0 := Mask.lowest s.cur.mask
    let w := (regRun b.toNat 8).map (fun n => State.src s l0 n ub)
    let x := boxOf w
    let xs := placeSources d.toNat false x.dsp ++ placeSources a.toNat ua x.ssp ++ srcRun b.toNat 8 ub [] .peek
    State.withSources s xs (fun s =>
      match State.placeOf s l0 d.toNat false x.dsp, State.placeOf s l0 a.toNat ua x.ssp with
      | some dst, some src =>
        if descField w 1 20 12 ≠ 0 ∨ descField w 5 16 16 ≠ 0 ∨ descField w 7 16 16 ≠ 0 ∨ x.nx = 0 ∨ x.ny = 0 ∨ x.nz = 0 ∨
            Box.size x > 16777216 then State.descBad s
        else
          let k := CmdKind.box src dst w
          if (CmdKind.sources k).any (fun y => runsOverlap y (dst, Box.size x)) then State.descBad s
          else State.engineWord s k ((Box.runs x).map (fun r => (Place.add src r.1, r.2))) plainDest 0
      | _, _ => State.descBad s))) s

/-! ## CPYG (R231) -/

/-- CPYG: the gathered rows are classified when the engine reaches them -/
def execCpyg (d a b : RegNo) (ua ub : Bool) (s : State) : Out :=
  issue (.cpyg d a b ua ub) (fun s => State.outside s (fun s =>
    let l0 := Mask.lowest s.cur.mask
    let w := (regRun b.toNat 4).map (fun n => State.src s l0 n ub)
    let dsp := descField w 3 19 1 == 1
    let isp := descField w 3 18 1 == 1
    let count := descField w 2 0 24
    let rowb := descField w 3 0 17
    let xs := placeSources d.toNat false dsp ++ srcPair a.toNat ua addrTags .lowest ++ srcRun b.toNat 4 ub [] .peek
    State.withSources s xs (fun s =>
      let list : DWord := pair64 (w.getD 0 0) (w.getD 1 0)
      if list.toNat % 4 ≠ 0 then .trap s .align (1#32 <<< l0) list
      else match State.placeOf s l0 d.toNat false dsp with
      | none => State.descBad s
      | some dst =>
        let idx : Place := { scratch := isp, addr := list }
        if descField w 2 24 8 ≠ 0 ∨ descField w 3 20 12 ≠ 0 ∨ descField w 3 17 1 ≠ 0 ∨ count = 0 ∨ count > 65536 ∨
            rowb = 0 ∨ rowb > 65536 ∨ count * rowb > 16777216 ∨ (isp ∧ (w.getD 1 0) ≠ 0) ∨
            runsOverlap (idx, 4 * count) (dst, count * rowb) then State.descBad s
        else State.engineWord s (.gather (State.src64 s l0 a.toNat ua) idx dst count rowb) [(idx, 4 * count)] plainDest 0))) s

/-! ## DISC and PREF (R232) -/

/-- The operands of DISC and PREF. -/
def rangeSources (a b : RegNo) (ua ub : Bool) : List Src :=
  srcPair a.toNat ua addrTags .lowest ++ [{ reg := b.toNat, uni := ub, tags := [], use := .peek }]

/-- DISC -/
def execDisc (a b : RegNo) (ua ub : Bool) (s : State) : Out :=
  issue (.disc a b ua ub) (fun s => State.outside s (fun s => State.withSources s (rangeSources a b ua ub) (fun s =>
    let l0 := Mask.lowest s.cur.mask
    let p := State.src64 s l0 a.toNat ua
    let n := (State.src s l0 b.toNat ub).toNat
    if p.toNat % 128 ≠ 0 then .trap s .align (1#32 <<< l0) p
    else if n % 128 ≠ 0 ∨ n < 128 ∨ n > 16777216 then State.descBad s
    else State.engineWord s (.disc p n) [] (fun ps =>
      match ps.find? (fun x => noDiscard x.leaf) with
      | some x => some (1#32 <<< x.lane, x.addr)
      | none => none) 0))) s

/-- PREF: it changes no value, counts in nothing and ends nothing -/
def execPref (a b : RegNo) (ua ub : Bool) (s : State) : Out :=
  issue (.pref a b ua ub) (fun s => State.outside s (fun s => State.withSources s (rangeSources a b ua ub) (fun s =>
    let n := (State.src s (Mask.lowest s.cur.mask) b.toNat ub).toNat
    if n = 0 ∨ n > 16777216 then State.descBad s
    else .ok (State.updG s (fun g => { g with commands := g.commands + 1 }))))) s

/-! ## A command at work -/

/-- A command's view: the group that issued it, and the clock it issued with. -/
structure Issuer where
  g : Group
  lc : Nat
  deriving DecidableEq, Repr

/-- An engine reads a run: its bytes, and which are poisoned (R337, R346, R365, R370). -/
def State.engineRead (s : State) (i : Issuer) (p : Place) (len : Nat) : List Byte × List Bool × State :=
  let g := i.g
  if p.scratch then
    match Place.target p g.lr g.blk len with
    | none => (List.replicate len 0, [], s)
    | some (b, off) =>
      let bad := (List.range len).map (fun k => State.scratchPoisoned s g.ctx g.seq b (off + k) 1)
      let bs := State.readScratch s g.ctx g.seq b off len
      let s := State.noteScratch s g.ctx g.groupNo i.lc g.seq b off len
      (bs, bad, State.watch s g.ctx g.hall g.slot true off len true false)
  else
    let (bs, bad, s) := (splitPages p.addr len).foldl (fun (x : List Byte × List Bool × State) q =>
      let s := x.2.2
      let va := vaOf q.1
      match State.walk s g.ctx va with
      | .absent => (x.1 ++ List.replicate q.2 0, x.2.1 ++ List.replicate q.2 false, s)
      | .leaf l _ =>
        let pa := State.physOf s g.ctx l true va
        let bad := (List.range q.2).map (fun k => State.poisoned s (pa + k) 1)
        let s := State.reach s (dieOfHall g.hall) g.ctx l pa q.2
        let (bs, s) := State.readRun s none va pa q.2
        let s := State.noteRead s g.ctx g.seq va q.2 l
        (x.1 ++ bs, x.2.1 ++ bad, State.noteLines s g.ctx g.groupNo i.lc pa q.2)) ([], [], s)
    (bs, bad, State.watch s g.ctx g.hall g.slot false (vaOf p.addr) len true false)

/-- An engine writes a run; granules that take a poisoned byte are marked; a CPYW writes the back set (R213, R228, R337). -/
def State.engineWrite (s : State) (i : Issuer) (p : Place) (bs : List Byte) (bad : List Bool) (shadow : Bool) : State :=
  let g := i.g
  if p.scratch then
    match Place.target p g.lr g.blk bs.length with
    | none => s
    | some (b, off) =>
      let s := State.writeScratch s g.ctx g.seq b off bs false
      let hit := (List.range bs.length).filter (fun k => bad.getD k false)
      let s := State.updBlock s g.ctx g.seq b (fun x => { x with scrPoison := x.scrPoison ++ hit.map (fun k => off + k) })
      let s := State.noteScratch s g.ctx g.groupNo i.lc g.seq b off bs.length
      State.watch s g.ctx g.hall g.slot true off bs.length false true
  else
    let (_, s) := (splitPages p.addr bs.length).foldl (fun (x : Nat × State) q =>
      let s := x.2
      let va := vaOf q.1
      let data := (bs.drop x.1).take q.2
      (x.1 + q.2, match State.walk s g.ctx va with
        | .absent => s
        | .leaf l _ =>
          let pa := State.physOf s g.ctx l (!shadow) va
          let s := State.reach s (dieOfHall g.hall) g.ctx l pa q.2
          let (old, s) := State.readRun s none va pa q.2
          let gran := fun (k : Nat) => (State.readRun s none (k * 32) (State.physOf s g.ctx l (!shadow) (k * 32)) 32).1
          let s := State.noteWrite s g.ctx (.task g.seq) va data old gran l
          let s := State.writeRun s none va pa data false
          let hit := ((List.range q.2).filter (fun k => bad.getD (x.1 + k) false)).map (fun k => (pa + k) / 32)
          let s := { s with gpoison := (s.gpoison ++ hit).eraseDups }
          State.noteLines s g.ctx g.groupNo i.lc pa q.2)) (0, s)
    State.watch s g.ctx g.hall g.slot false (vaOf p.addr) bs.length false true

/-- A command's source as a stream of bytes, in pieces: where each lies, or zeros (R229, R230). -/
def CmdKind.stream (k : CmdKind) : List (Option Place × Nat) :=
  match k with
  | .copy src _ len _ => [(some src, len)]
  | .box src _ desc =>
    let b := boxOf desc
    let pre := (Box.span b).1 * b.esz
    let n := (Box.span b).2 * b.esz
    (Box.rows b).flatMap (fun r => match r with
      | none => [(none, b.nx * b.esz)]
      | some o => [(none, pre), (some (Place.add src o), n), (none, b.nx * b.esz - pre - n)])
  | _ => []

/-- The pieces of a stream from an offset on, `n` bytes of them. -/
def cutStream : List (Option Place × Nat) → Nat → Nat → List (Option Place × Nat)
  | [], _, _ => []
  | x :: r, off, n =>
    if n = 0 then []
    else if x.2 ≤ off then cutStream r (off - x.2) n
    else
      let k := min n (x.2 - off)
      (x.1.map (fun p => Place.add p off), k) :: cutStream r 0 (n - k)

/-- Some bytes of a command's source are read. -/
def State.readStream (s : State) (i : Issuer) (k : CmdKind) (off n : Nat) : List (Byte × Bool) × State :=
  (cutStream (CmdKind.stream k) off n).foldl (fun (x : List (Byte × Bool) × State) p =>
    match p.1 with
    | none => (x.1 ++ List.replicate p.2 (0, false), x.2)
    | some q =>
      let (bs, bad, s) := State.engineRead x.2 i q p.2
      (x.1 ++ (List.range p.2).map (fun j => (bs.getD j 0, bad.getD j false)), s)) ([], s)

/-- Some lines of a DISC are discarded (R215, R232). -/
def State.discardRun (s : State) (i : Issuer) (a : DWord) (n : Nat) : State :=
  let s := (splitPages a n).foldl (fun s q =>
    match State.walk s i.g.ctx (vaOf q.1) with
    | .absent => s
    | .leaf l _ => (linesOf (State.physOf s i.g.ctx l true (vaOf q.1)) q.2).foldl State.discardLine s) s
  State.watch s i.g.ctx i.g.hall i.g.slot false (vaOf a) n false true

/-- The engine works on a command: it reads `r` more bytes and writes `w` more of those read, everything when both are 0. Where the
ranges overlap nothing is written before all is read (R209, R228, R229). What leaves a lockstep partition is held, all of it, until
the interval's comparison (R341). A DISC works by lines; a gather has rows of its own. -/
def State.workCmd (s : State) (i : Issuer) (c : Cmd) (r w : Nat) : Cmd × State :=
  let all := decide (r = 0) && decide (w = 0)
  match c.kind with
  | .gather _ _ _ _ _ => (c, s)
  | .disc a n =>
    let k := if all then n - c.put else min (w / 128 * 128) (n - c.put)
    if k = 0 then (c, s) else ({ c with put := c.put + k }, State.discardRun s i (a + BitVec.ofNat 64 c.put) k)
  | k =>
    let left := Cmd.total c - Cmd.read c
    let (bs, s) := State.readStream s i k (Cmd.read c) (if all then left else min r left)
    let got := c.got ++ bs
    let (shadow, apart) := match k with
      | .copy src dst n sh => (sh, !runsOverlap (src, n) (dst, n))
      | _ => (false, true)
    let whole := decide (c.put + got.length = Cmd.total c)
    let to_ := Place.add (CmdKind.dest k).1 c.put
    let out := !to_.scratch && State.runLeaves s c.ctx shadow to_.addr (Cmd.total c - c.put)
    let may := if out then whole && c.hold == 2 else apart || whole
    let n := if !may then 0 else if all then got.length else min w got.length
    let s := if n = 0 then s
      else State.engineWrite s i to_ ((got.take n).map (fun x => x.1))
        ((got.take n).map (fun x => x.2)) shadow
    if out && whole && c.hold == 0 then
      ({ c with got := got, hold := 1 }, State.addTraffic s (State.leaving s c.ctx shadow to_.addr (got.map (fun x => x.1))))
    else ({ c with got := got.drop n, put := c.put + n }, s)

/-- A page of a global run is being moved, or a home slice of it rehomed (R84, R336). -/
def State.runMigrating (s : State) (c : Nat) (x : Place × Nat) : Bool :=
  !x.1.scratch && (splitPages x.1.addr x.2).any (fun q =>
    match State.walk s c (vaOf q.1) with
    | .leaf l _ => Leaf.g l || State.rehoming s (State.physOf s c l true (vaOf q.1)) q.2
    | .absent => false)

/-- A commit has locked a granule of a global run (R292). -/
def State.runLocked (s : State) (c : Nat) (x : Place × Nat) : Bool :=
  !x.1.scratch && (splitPages x.1.addr x.2).any (fun q =>
    match State.walk s c (vaOf q.1) with
    | .leaf l _ => State.locked s (State.physOf s c l true (vaOf q.1)) q.2
    | .absent => false)

/-- The nth command of a hall, if it has begun and no page of it is being moved and nothing that it writes locked by a commit, with
the group that issued it. -/
def State.running? (s : State) (h n : Nat) : Option (Group × Cmd) :=
  match (State.hall s h).cmds[n]? with
  | none => none
  | some c =>
    if !c.started || State.enginesStopped s c.ctx ||
        (CmdKind.sources c.kind ++ [CmdKind.dest c.kind]).any (fun x => State.runMigrating s c.ctx x) ||
        State.runLocked s c.ctx (CmdKind.dest c.kind) then none
    else (State.groupAt? s h c.slot).map (fun g => (g, c))

/-- A tile is still held by some other command (R205). -/
def State.tileHeld (s : State) (me : Cmd) (t : Nat × Nat) : Bool :=
  s.halls.any (fun h => h.2.cmds.any (fun c => c != me && c.ctx == me.ctx && c.seq == me.seq &&
    ((State.sourceTiles s c).contains t || (c.started && (State.destTiles s c).contains t))))

/-- The nth command of a hall has come further: H is cleared on the tiles it has read, V set and H cleared on those it has written
(R205). -/
def State.stepCmd (s : State) (hall n : Nat) (c c' : Cmd) : State :=
  let s := State.updHall s hall (fun h => { h with cmds := h.cmds.set n c' })
  let read := (State.sourceTiles s c).filter (fun t => !(State.sourceTiles s c').contains t)
  let wrote := (State.destTiles s c).filter (fun t => !(State.destTiles s c').contains t)
  let s := State.tagTiles s c.ctx c.seq (read.filter (fun t => !State.tileHeld s c' t)) (fun t => TileTag.clear t 3)
  State.tagTiles s c.ctx c.seq wrote (fun t => TileTag.clear (TileTag.set t 0) 3)

/-- The nth command of a hall retires: its scoreboard entries are freed, ecnt falls, a deferred error is the group's (R209, R210,
R231). -/
def State.retireCmd (s : State) (hall n : Nat) (c : Cmd) : State :=
  let s := State.updHall s hall (fun h =>
    { h with cmds := dropPlaces h.cmds [n],
             ranges := h.ranges.filter (fun r => !(r.slot == c.slot && r.num == c.num)) })
  State.startCmds (State.updGroup s hall c.slot (fun g =>
    { g with ecnt := dec g.ecnt, deferred := g.deferred ++ (match c.deferred with | some d => [d] | none => []) }))

/-- A command has read and written everything. -/
def Cmd.complete (c : Cmd) : Bool :=
  match c.kind with
  | .gather _ _ _ k _ => decide (c.rows ≥ k)
  | _ => decide (c.put = Cmd.total c)

/-- COPY_COMMAND_RETIRE: the engine reads `r` more bytes of the command and writes `w` more (both 0: all that is left); one that has
read and written everything retires, those of one group in issue order (R209) -/
def execCopyCommandRetire (hall n r w : Nat) (s : State) : Out :=
  match State.running? s hall n with
  | none => .next s
  | some (g, c) =>
    let first := !((State.hall s hall).cmds.take n).any (fun b => b.slot == c.slot)
    let (c', t) := State.workCmd s { g := g, lc := c.lc } c r w
    let t := if c' = c then t else State.stepCmd t hall n c c'
    .next (if first && Cmd.complete c' then State.retireCmd t hall n c' else t)

/-- The table address of a gathered row (R231). -/
def rowAddr (table : DWord) (idx rowb : Nat) : DWord := table + BitVec.ofNat 64 (idx * rowb)

/-- CPYG_ROW_GATHER: the next row of a gather is classified, read and written; a failing one is written as zeros and its cause
kept (R231); a row that leaves a lockstep partition is held (R341) -/
def execCpygRowGather (hall n : Nat) (s : State) : Out :=
  match State.running? s hall n with
  | none => .next s
  | some (g, c) =>
    match c.kind with
    | .gather table idx dst count rowb =>
      if c.rows ≥ count ∨ c.hold = 1 then .next s
      else if c.hold = 2 then
        let t := State.engineWrite s { g := g, lc := c.lc } (Place.add dst (c.rows * rowb)) (c.got.map (fun x => x.1))
          (c.got.map (fun x => x.2)) false
        .next (State.stepCmd t hall n c { c with rows := c.rows + 1, got := [], hold := 0 })
      else
        let i : Issuer := { g := g, lc := c.lc }
        let (ib, _, t) := State.engineRead s i (Place.add idx (4 * c.rows)) 4
        let p := rowAddr table (leNat ib) rowb
        let to_ := Place.add dst (c.rows * rowb)
        let row := fun (t : State) (bs : List Byte) (bad : List Bool) (d : Option Deferred) =>
          let late := match c.deferred with | some y => some y | none => d
          if !to_.scratch && State.runLeaves t c.ctx false to_.addr rowb then
            let c' : Cmd := { c with got := (List.range rowb).map (fun k => (bs.getD k 0, bad.getD k false)), hold := 1, deferred := late }
            State.addTraffic (State.updHall t hall (fun h => { h with cmds := h.cmds.set n c' })) (State.leaving t c.ctx false to_.addr bs)
          else State.stepCmd (State.engineWrite t i to_ bs bad false) hall n c { c with rows := c.rows + 1, deferred := late }
        match State.classify t hall c.ctx .load [{ lane := 0, addr := p, len := rowb }] with
        | .ok ps =>
          let t := State.touch t hall c.ctx false ps
          let (bs, bad, t) := State.engineRead t i { scratch := false, addr := p } rowb
          .next (row t bs bad none)
        | .trap k _ a => .next (row t (List.replicate rowb 0) [] (some (.gather k a c.ord)))
        | .fault _ => .next s
        | .migrating => .next s
        | .verdict ls => .next { s with events := s.events ++ ls.map .tagVerdict }
    | _ => .next s

/-! ## Publishing (R214, R233) -/

/-- PUB -/
def execPub (a : RegNo) (ua : Bool) (s : State) : Out :=
  issue (.pub a ua) (fun s => State.outside s (fun s =>
    State.withSources s [{ reg := a.toNat, uni := ua, tags := [], use := .peek }] (fun s =>
      let i := (State.src s (Mask.lowest s.cur.mask) a.toNat ua).toNat
      match (if i < 4096 then State.pubEntry s s.g.ctx i else none) with
      | none => State.descBad s
      | some e =>
        if e.npages = 0 then State.descBad s
        else
          let noW := (List.range e.npages).find? (fun k => match State.walk s s.g.ctx (e.base + 65536 * k) with
            | .leaf l _ => !Leaf.w l
            | .absent => true)
          match noW with
          | some k => .trap s .prot s.cur.mask (BitVec.ofNat 64 (e.base + 65536 * k))
          | none =>
            if State.ecntFull s then .stall .pipebusy []
            else
              let s := State.endRegion s
              let p : PubCmd := { entry := i, seq := s.g.seq, blk := s.g.blk, grp := s.g.grp, num := s.g.commands, passed := false, after := s.g.nextNo,
                                  loads := [], cmds := [] }
              let s := State.updCtx s s.g.ctx (fun x => { x with pubs := x.pubs ++ [p] })
              .ok (State.updG s (fun g =>
                { g with ecnt := g.ecnt + 1, commands := g.commands + 1, nextNo := g.nextNo + 1 }))))) s

/-- A CPYW writes into a buffer. -/
def CmdKind.publishes (k : CmdKind) (s : State) (c entry : Nat) : Bool :=
  match k with
  | .copy _ dst _ true => (match State.buffer s c (vaOf dst.addr) with | some e => e.index == entry | none => false)
  | _ => false

/-- The writes into a buffer accepted before its pth PUB that have not retired. -/
def State.writesBefore (s : State) (c entry p : Nat) : Bool :=
  (s.halls.flatMap (fun h => h.2.cmds) ++ s.saved.flatMap (fun i => i.cmds)).any (fun x =>
    x.ctx == c && CmdKind.publishes x.kind s c entry && decide (x.behind ≤ p)) ||
  s.pkg.collectives.any (fun x => x.ctx == c && x.pub && x.st == 0 && decide (x.behind ≤ p) &&
    (match State.buffer s c (vaOf x.dst) with | some e => e.index == entry | none => false))

/-- The global runs that a command of a context has still to read, a gather's rows as its index list now names them. -/
def State.readsLeft (s : State) (c : Cmd) : List (DWord × Nat) :=
  ((Cmd.reads c).filter (fun z => !z.1.scratch)).map (fun z => (z.1.addr, z.2)) ++
  (match c.kind with
    | .gather table idx _ count rowb =>
      ((List.range count).drop c.rows).map (fun k =>
        let at_ := Place.add idx (4 * k)
        let bs := if at_.scratch then
            match Place.target at_ (State.launchOf s c.ctx c.seq) c.blk 4 with
            | some (b, off) => State.readScratch s c.ctx c.seq b off 4
            | none => []
          else (State.readVirt s c.ctx (vaOf at_.addr) 4).1
        (table + BitVec.ofNat 64 (leNat bs * rowb), rowb))
    | _ => [])

/-- A run touches a buffer. -/
def PubEntry.touches (e : PubEntry) (a : DWord) (n : Nat) : Bool :=
  e.npages != 0 && overlaps (vaOf a) n e.base (e.npages * 65536)

/-- The engine commands of a context, resident and saved. -/
def State.ctxCmds (s : State) (c : Nat) : List Cmd :=
  (s.halls.flatMap (fun h => h.2.cmds) ++ s.saved.flatMap (fun i => i.cmds)).filter (fun x => x.ctx == c)

/-- What has been accepted and is still to read a buffer at its instant: loads of groups, resident and saved (seq, block, group,
place), and engine commands and collectives (seq, block, group, number) (R214). -/
def State.readersOf (s : State) (c : Nat) (e : PubEntry) : List (Nat × Nat × Nat × Nat) × List (Nat × Nat × Nat × Nat) :=
  let gs := (State.allGroups s ++ s.saved.flatMap (fun i => i.groups)).filter (fun g => g.ctx == c)
  (gs.flatMap (fun g =>
      (g.outst.filter (fun o => OutOp.countsLoad o.op && o.parts.any (fun z => PubEntry.touches e z.addr z.len))).map
        (fun o => (g.seq, g.blk, g.grp, o.no))),
   ((State.ctxCmds s c).filter (fun x => (State.readsLeft s x).any (fun z => PubEntry.touches e z.1 z.2))).map
      (fun x => (x.seq, x.blk, x.grp, x.num)) ++
    (s.pkg.collectives.filter (fun x => x.ctx == c && x.st == 0 && PubEntry.touches e x.src x.len)).map
      (fun x => (x.seq, x.blk, x.grp, x.num)))

/-- Some of what was to read a buffer at its PUB's instant has not done so. -/
def State.readersLeft (s : State) (c : Nat) (q : PubCmd) : Bool :=
  let gs := (State.allGroups s ++ s.saved.flatMap (fun i => i.groups)).filter (fun g => g.ctx == c)
  q.loads.any (fun z => gs.any (fun g => g.outst.any (fun o => (g.seq, g.blk, g.grp, o.no) == z))) ||
  q.cmds.any (fun z => (State.ctxCmds s c).any (fun x => (x.seq, x.blk, x.grp, x.num) == z) ||
    s.pkg.collectives.any (fun x => x.ctx == c && x.st == 0 && (x.seq, x.blk, x.grp, x.num) == z))

/-- PUB_INSTANT: SEL inverts and GEN increments, once the writes accepted before have retired (R214, R233) -/
def execPubInstant (ctx entry : Nat) (s : State) : Out :=
  match s.ctx? ctx with
  | none => .next s
  | some x =>
    let mine := x.pubs.filter (fun p => p.entry == entry)
    match mine.findIdx? (fun p => !p.passed) with
    | none => .next s
    | some p =>
      let q := mine.getD p default
      let acq := match State.member? s ctx q.seq q.blk q.grp with | some g => Group.acqBefore g q.after | none => true
      match State.pubEntry s ctx entry with
      | none => .next s
      | some e =>
        if State.writesBefore s ctx entry p || acq || State.enginesStopped s ctx then .next s
        else
          let va := vaOf x.pubTable + 64 * entry
          let s := State.writeVirt s ctx (va + 0x20) (leBytes 8 (e.gen + 1))
          let s := State.writeVirt s ctx (va + 0x28) (leBytes 8 (if e.sel then 0 else 1))
          let rs := State.readersOf s ctx e
          .next (State.updCtx s ctx (fun x =>
            { x with pubs := mapIf x.pubs (fun z => z == q) (fun z => { z with passed := true, loads := rs.1, cmds := rs.2 }) }))

/-- PUB_RETIRE: every access to the buffer accepted before the instant is performed; ecnt falls, and a CPYW held for this PUB
goes on (R214) -/
def execPubRetire (ctx entry : Nat) (s : State) : Out :=
  match s.ctx? ctx with
  | none => .next s
  | some x =>
    match x.pubs.find? (fun p => p.entry == entry) with
    | none => .next s
    | some q =>
      if !q.passed || State.readersLeft s ctx q then .next s
      else
        let s := State.dropPubs s (fun c p => c == ctx && p == q)
        .next (State.startCmds (State.updMember s ctx q.seq q.blk q.grp (fun g => { g with ecnt := dec g.ecnt })))

/-! ## The stash words (R226, R227) -/

/-- The stash commands of the group's block get one more. -/
def State.stashCommand (s : State) (kind : Nat) (m : StashMap) (len : Nat) : State :=
  let g := s.g
  let s := State.updBlock s g.ctx g.seq g.blk (fun b =>
    { b with stashCmds := b.stashCmds ++ [{ kind := kind, hall := g.hall, slot := g.slot, map := m, len := len, num := g.commands }] })
  State.updG s (fun g => { g with ecnt := g.ecnt + 1, commands := g.commands + 1, nextNo := g.nextNo + 1 })

/-- The mappings of the group's block. -/
def State.myMaps (s : State) : List StashMap :=
  match State.block? s s.g.ctx s.g.seq s.g.blk with | some b => b.stashMaps | none => []

/-- A case of R206 for a new mapping. -/
def State.mapBad (s : State) (m : StashMap) : Bool :=
  decide ((State.myMaps s).length ≥ 8) || decide ((m.tile0 + m.tiles) * 1024 > s.g.lr.stash) ||
  (State.myMaps s).any (fun x => overlaps x.tile0 x.tiles m.tile0 m.tiles ||
    overlaps (vaOf x.base) (1024 * x.tiles) (vaOf m.base) (1024 * m.tiles))

/-- SMAP -/
def execSmap (a b : RegNo) (ua ub : Bool) (s : State) : Out :=
  issue (.smap a b ua ub) (fun s => State.outside s (fun s => State.withSources s (rangeSources a b ua ub) (fun s =>
    let l0 := Mask.lowest s.cur.mask
    let base := State.src64 s l0 a.toNat ua
    let v := (State.src s l0 b.toNat ub).toNat
    let m : StashMap := { tile0 := bits v 0 9, tiles := bits v 16 9, base := base }
    if base.toNat % 1024 ≠ 0 then .trap s .align (1#32 <<< l0) base
    else if bits v 25 7 ≠ 0 ∨ bits v 9 7 ≠ 0 ∨ m.tiles = 0 ∨ base.toNat % 65536 + 1024 * m.tiles > 65536 ∨ State.mapBad s m then
      State.descBad s
    else State.classified s .load [{ lane := l0, addr := base, len := 1024 * m.tiles }] (fun t ps =>
      State.leafProt t ps Leaf.s
        (if State.ecntFull s then .stall .pipebusy []
        else
          let s := State.endRegion (State.touch t s.g.hall s.g.ctx false ps)
          let s := State.updBlock s s.g.ctx s.g.seq s.g.blk (fun b => { b with stashMaps := b.stashMaps ++ [m] })
          .ok (State.stashCommand s 0 m 0)))))) s

/-- SFLUSH -/
def execSflush (a b : RegNo) (ua ub : Bool) (s : State) : Out :=
  issue (.sflush a b ua ub) (fun s => State.outside s (fun s => State.withSources s (rangeSources a b ua ub) (fun s =>
    let l0 := Mask.lowest s.cur.mask
    if State.ecntFull s then .stall .pipebusy []
    else
      let m : StashMap := { tile0 := 0, tiles := 0, base := State.src64 s l0 a.toNat ua }
      .ok (State.stashCommand (State.endRegion s) 1 m (State.src s l0 b.toNat ub).toNat)))) s

/-- SDROP -/
def execSdrop (a : RegNo) (ua : Bool) (s : State) : Out :=
  issue (.sdrop a ua) (fun s => State.outside s (fun s =>
    State.withSources s (srcPair a.toNat ua addrTags .lowest) (fun s =>
      let base := State.src64 s (Mask.lowest s.cur.mask) a.toNat ua
      match (State.myMaps s).find? (fun m => m.base == base) with
      | none => State.descBad s
      | some m =>
        if State.ecntFull s then .stall .pipebusy []
        else .ok (State.stashCommand (State.endRegion s) 2 m 0)))) s

/-- A stash line lies in a virtual run. -/
def State.lineIn (s : State) (c : Nat) (base : DWord) (len : Nat) (l : StashLine) : Bool :=
  (splitPages base len).any (fun q => match State.walk s c (vaOf q.1) with
    | .leaf x _ => decide (l.pa * 128 < Leaf.phys x (vaOf q.1) + q.2) && decide (Leaf.phys x (vaOf q.1) < l.pa * 128 + 128)
    | .absent => false)

/-- STASH_COMMAND_DONE: a flush has written its lines back, a drop has removed its mapping and lines; ecnt falls (R227) -/
def execStashCommandDone (hall n : Nat) (s : State) : Out :=
  match (s.blocks.filter (fun b => b.hall == hall)).flatMap (fun b => b.stashCmds.map (fun c => (b, c))) |>.drop n |>.head? with
  | none => .next s
  | some (b, c) =>
    if State.enginesStopped s b.ctx then .next s
    else
      let s := match c.kind with
        | 0 => s
        | 1 => State.flushBlock s b.ctx b.seq b.blk (fun l => l.dirty && State.lineIn s b.ctx c.map.base c.len l) true
        | _ => State.updBlock s b.ctx b.seq b.blk (fun x =>
            { x with stashLines := x.stashLines.filter (fun l => !State.lineIn s b.ctx c.map.base (1024 * c.map.tiles) l),
                     stashMaps := x.stashMaps.filter (fun m => m != c.map) })
      let s := State.updBlock s b.ctx b.seq b.blk (fun x => { x with stashCmds := x.stashCmds.erase c })
      .next (State.updGroup s c.hall c.slot (fun g => { g with ecnt := dec g.ecnt }))

end Sys2Proof.Machine
end

