-- ==== Sys2Proof/Machine/Collective.lean ====
section
/-! DEFINITION. Collectives across packages: COLL and CSTAT (R306, R307, R310), the collective engine's chunks, trees and sums
(R299 to R305), and the live link table with its tree sets (R297, R298). -/

namespace Sys2Proof.Machine

/-! ## Sets and trees (R296 to R298) -/

/-- The members of a context's set, in rank order; none if the driver has defined no such set. -/
def State.setOf (s : State) (c set : Nat) : Option (List Nat) :=
  match s.ctx? c with
  | some x => lookup x.sets set
  | none => none

/-- The number of this package. -/
def me : Nat := Config.pkgId.toNat

/-- The rank of a package in a list of members. -/
def rankOf (members : List Nat) (p : Nat) : Option Nat := members.findIdx? (fun m => m == p)

/-- A package's node in a tree. -/
def nodeOf (t : List TreeNode) (p : Nat) : Option TreeNode := t.find? (fun n => n.pkg == p)

/-- The children of a package in a tree, by ascending port of this package (R300). -/
def childrenOf (t : List TreeNode) (p : Nat) : List Nat :=
  (sortBy (fun (a b : TreeNode) => decide (a.parentPort ≤ b.parentPort)) (t.filter (fun n => n.parent == some p))).map
    (fun n => n.pkg)

/-- A package is the root of a tree. -/
def isRoot (t : List TreeNode) (p : Nat) : Bool := match nodeOf t p with | some n => n.parent.isNone | none => false

/-- The packages on the way from a package to the root, itself first. -/
def wayUp (t : List TreeNode) : Nat → Nat → List Nat
  | 0, _ => []
  | n + 1, p =>
    match nodeOf t p with
    | some x => p :: (match x.parent with | some q => wayUp t n q | none => [])
    | none => []

/-- The depth of a tree. -/
def depthOf (t : List TreeNode) : Nat := (t.map (fun n => (wayUp t t.length n.pkg).length)).foldl max 0

/-- The root of a tree. -/
def rootOf (t : List TreeNode) : Nat := match t.find? (fun n => n.parent.isNone) with | some n => n.pkg | none => 0

/-- The packages that links which are up connect to some packages. -/
def connected (ls : List LinkEntry) : Nat → List Nat → List Nat
  | 0, r => r
  | n + 1, r =>
    let new := ((ls.filter (fun l => l.state == 2 && r.contains l.pkg && !r.contains l.peer)).map (fun l => l.peer)).eraseDups
    if new.isEmpty then r else connected ls n (r ++ new)

/-- The packages that the live fabric connects to this one, itself first. -/
def State.fabric (s : State) : List Nat := connected s.pkg.links s.pkg.links.length [me]

/-- One tree: distinct packages, those that the live fabric connects, one root, every package connected to it over links that are
up. -/
def State.treeOk (s : State) (t : List TreeNode) : Bool :=
  let pkgs := t.map (fun n => n.pkg)
  pkgs.eraseDups.length == pkgs.length && (t.filter (fun n => n.parent.isNone)).length == 1 &&
  pkgs.all (State.fabric s).contains && (State.fabric s).all pkgs.contains &&
  t.all (fun n => (wayUp t t.length n.pkg).getLast? == some (rootOf t)) &&
  t.all (fun n => match n.parent with
    | none => true
    | some q => s.pkg.links.any (fun l => l.pkg == n.pkg && l.port == n.port && l.peer == q && l.peerPort == n.parentPort &&
        l.state == 2))

/-- A tree set: 1 to 8 trees over the packages that the live fabric connects, no edge in two, in ascending depth and, at one
depth, root number. -/
def State.treesOk (s : State) (ts : List (List TreeNode)) : Bool :=
  let edges := ts.flatMap (fun t => (t.filter (fun n => n.parent.isSome)).flatMap (fun n =>
    [(n.pkg, n.port), (n.parent.getD 0, n.parentPort)]))
  decide (1 ≤ ts.length) && decide (ts.length ≤ 8) && ts.all (State.treeOk s) && edges.eraseDups.length == edges.length &&
  (ts.zip (ts.drop 1)).all (fun p => decide (depthOf p.1 < depthOf p.2) ||
    (depthOf p.1 == depthOf p.2 && decide (rootOf p.1 ≤ rootOf p.2)))

/-! ## Vectors and chunks (R299, R306) -/

/-- Bytes of the vector. -/
def vectorOf (op len n : Nat) : Nat := if op = 1 ∨ op = 2 then n * len else if op = 4 then 0 else len

/-- The number of chunks of a vector. -/
def chunksOf (v : Nat) : Nat := if v ≤ 8192 then 1 else (v + 4095) / 4096

/-- Offset and bytes of a chunk in its vector. -/
def chunkSpan (v i : Nat) : Nat × Nat := if v ≤ 8192 then (0, v) else (4096 * i, min 4096 (v - 4096 * i))

/-- What a collective's partial values say of it. -/
def Collective.head (x : Collective) : CollHead :=
  { members := x.members, op := x.op, red := x.red, dt := x.dt, len := x.len, root := x.root }

/-- A collective as a package that is no member knows it. -/
def CollHead.asColl (h : CollHead) (c set cid : Nat) : Collective :=
  { (default : Collective) with ctx := c, set := set, cid := cid, members := h.members, op := h.op, red := h.red, dt := h.dt,
                                len := h.len, root := h.root }

/-- The vector of a collective. -/
def Collective.vector (x : Collective) : Nat := vectorOf x.op x.len x.members.length

/-- The rank of this package. -/
def Collective.rank (x : Collective) : Nat := (rankOf x.members me).getD 0

/-- Bytes at the source and at the destination of a rank. -/
def sourceLen (op len n root rank : Nat) : Nat :=
  if op = 4 then 0 else if op = 1 then n * len else if op = 3 ∧ rank ≠ root then 0 else len
def destLen (op len n : Nat) : Nat := if op = 4 then 0 else if op = 2 then n * len else len

/-- The part of a chunk that a rank writes to its destination: offset in the chunk, bytes, offset at the destination. -/
def Collective.part (x : Collective) (i rank : Nat) : Nat × Nat × Nat :=
  let (off, n) := chunkSpan (Collective.vector x) i
  if x.op = 1 then
    let lo := max off (rank * x.len)
    let hi := min (off + n) ((rank + 1) * x.len)
    (lo - off, hi - lo, lo - rank * x.len)
  else (0, n, off)

/-- The ranks that receive a chunk (R301): the owners of its bytes in a reduce-scatter, else every member. -/
def Collective.receivers (x : Collective) (i : Nat) : List Nat :=
  (List.range x.members.length).filter (fun r => x.op != 1 || decide ((Collective.part x i r).2.1 > 0))

/-- The rank whose source byte stands at an offset of the vector, where bytes are only moved. -/
def Collective.ownerOf (x : Collective) (o : Nat) : Nat := if x.op = 2 then o / x.len else x.root

/-! ## The status area (R301, R308) -/

/-- Chunks that are broadcast-done. -/
def Collective.doneCount (x : Collective) : Nat := (x.chunks.filter (fun c => c.st == 2)).length

/-- Bits [31:0] of offset 0x04 of the completion record. -/
def Collective.stateWord (x : Collective) : Nat := x.flags.toNat * 65536 + x.cause * 256 + x.st

/-- The completion record and the marks. -/
def Collective.statusBytes (x : Collective) : List Byte :=
  leBytes 4 x.cid ++ leBytes 4 (Collective.stateWord x) ++ leBytes 4 x.tsFirst ++ leBytes 4 x.tsLast ++ leBytes 4 x.recomp ++
  leBytes 4 x.chunks.length ++ leBytes 4 (Collective.doneCount x) ++ List.replicate 36 0 ++
  x.chunks.flatMap (fun c => leBytes 4 (c.tsid % 2 ^ 24 * 256 + c.tree * 4 + c.st))

/-- A collective by context, set and id. -/
def Collective.is (x : Collective) (c set cid : Nat) : Bool := x.ctx == c && x.set == set && x.cid == cid

/-- A collective of this package. -/
def State.coll? (s : State) (c set cid : Nat) : Option Collective := s.pkg.collectives.find? (fun x => Collective.is x c set cid)

/-- A collective changes, and its status area with it. -/
def State.putColl (s : State) (x : Collective) : State :=
  let s := State.updPkg s (fun p =>
    { p with collectives := p.collectives.map (fun y => if Collective.is y x.ctx x.set x.cid then x else y) })
  State.writeVirt s x.ctx (vaOf x.status) (Collective.statusBytes x)

/-- A chunk of a collective changed. -/
def Collective.setChunk (x : Collective) (i : Nat) (f : Chunk → Chunk) : Collective :=
  match x.chunks[i]? with
  | some c => { x with chunks := x.chunks.set i (f c) }
  | none => x

/-- The engine acts for the group that issued the collective. -/
def State.collIssuer (s : State) (x : Collective) : Issuer :=
  match State.member? s x.ctx x.seq x.blk x.grp with
  | some g => { g := g, lc := g.lc }
  | none => { g := { Group.empty with ctx := x.ctx, seq := x.seq, blk := x.blk, grp := x.grp }, lc := 0 }

/-! ## Sums (R300) -/

/-- One reduction of two carried words: the result and its flags. -/
def reduceWord (red dt x y : Nat) : Nat × Word :=
  if dt = 2 then
    let a : Int := (BitVec.ofNat 32 x).toInt
    let b : Int := (BitVec.ofNat 32 y).toInt
    (if red = 0 then (x + y) % 2 ^ 32 else if red = 1 then (if a ≤ b then x else y) else (if a ≥ b then x else y), 0)
  else if red = 0 then Fmt.f32.add 0 x y
  else (Fmt.f32.pick (red == 2) x y, 0)

/-- Words carried between nodes, from bytes. -/
def carriedWords (bs : List Byte) : List Nat := (List.range (bs.length / 4)).map (fun i => leNat ((bs.drop (4 * i)).take 4))

/-- Two carried values of a chunk combined. -/
def reduceBytes (red dt : Nat) (x y : List Byte) : List Byte × Word :=
  let rs := ((carriedWords x).zip (carriedWords y)).map (fun p => reduceWord red dt p.1 p.2)
  (rs.flatMap (fun r => leBytes 4 r.1), rs.foldl (fun f r => f ||| r.2) 0)

/-- An input as it is carried: BF16 is converted to FP32 exactly. -/
def carryInput (dt : Nat) (bs : List Byte) : List Byte :=
  if dt = 1 then (List.range (bs.length / 2)).flatMap (fun i => leBytes 4 (leNat ((bs.drop (2 * i)).take 2) * 65536)) else bs

/-- The result at the root: BF16 is rounded from FP32, and a NaN that is a lone input becomes the canonical one (R172). -/
def rootResult (dt : Nat) (bs : List Byte) : List Byte × Word :=
  if dt = 1 then
    let rs := (carriedWords bs).map (fun w => Fmt.bf16.round 0 (Fmt.f32.decode w))
    (rs.flatMap (fun r => leBytes 2 r.1), rs.foldl (fun f r => f ||| r.2) 0)
  else if dt = 0 then
    ((carriedWords bs).flatMap (fun w => leBytes 4 (if Num.isNan (Fmt.f32.decode w) then Fmt.f32.nan else w)), 0)
  else (bs, 0)

/-- Flags of R181 in the five bits of FLAGS. -/
def flags5 (f : Word) : BitVec 5 := BitVec.truncate 5 f

/-! ## A chunk on its way up (R300, R301) -/

/-- The own input of this package to a chunk; bytes of other ranks are 0. -/
def State.ownInput (s : State) (x : Collective) (i : Nat) : List Byte × State :=
  let (off, n) := chunkSpan (Collective.vector x) i
  let r := Collective.rank x
  let base := fun (o : Nat) => ({ scratch := false, addr := x.src + BitVec.ofNat 64 o } : Place)
  if x.op = 4 then ([], s)
  else if x.op = 0 ∨ x.op = 1 then
    let (bs, _, s) := State.engineRead s (State.collIssuer s x) (base off) n
    (carryInput x.dt bs, s)
  else
    let mine := (List.range n).filter (fun j => Collective.ownerOf x (off + j) == r)
    match mine with
    | [] => (List.replicate n 0, s)
    | j :: _ =>
      let at_ := if x.op = 2 then off + j - r * x.len else off + j
      let (bs, _, s) := State.engineRead s (State.collIssuer s x) (base at_) mine.length
      (List.replicate j 0 ++ bs ++ List.replicate (n - j - mine.length) 0, s)

/-- The children of this package whose values a chunk needs: those on whose side a member stands where values are combined, else
those on whose side a byte of the chunk stands. -/
def Collective.needs (x : Collective) (t : List TreeNode) (i : Nat) : List Nat :=
  let (off, n) := chunkSpan (Collective.vector x) i
  let from_ := if x.op = 0 ∨ x.op = 1 ∨ x.op = 4 then x.members
    else ((List.range n).map (fun j => x.members.getD (Collective.ownerOf x (off + j)) 0)).eraseDups
  (childrenOf t me).filter (fun p => from_.any (fun m => (wayUp t t.length m).contains p))

/-- A child's bytes put into a chunk whose bytes are only moved. -/
def Collective.merge (x : Collective) (t : List TreeNode) (i child : Nat) (acc bs : List Byte) : List Byte :=
  let (off, n) := chunkSpan (Collective.vector x) i
  (List.range n).map (fun j =>
    if (wayUp t t.length (x.members.getD (Collective.ownerOf x (off + j)) 0)).contains child then bs.getD j 0
    else acc.getD j 0)

/-- The value of a chunk formed at this node: the children in port order, then the own input, which a package that is no member
does not have. -/
def Collective.combine (x : Collective) (t : List TreeNode) (i : Nat) (vs : List (Nat × List Byte)) (own : Option (List Byte)) :
    List Byte × Word :=
  if x.op = 0 ∨ x.op = 1 then
    match vs.map (fun p => p.2) ++ own.toList with
    | [] => ([], 0)
    | v :: rest =>
      rest.foldl (fun (a : List Byte × Word) y =>
        let (r, f) := reduceBytes x.red x.dt a.1 y
        (r, a.2 ||| f)) (v, 0)
  else (vs.foldl (fun a v => Collective.merge x t i v.1 a v.2)
    (own.getD (List.replicate (chunkSpan (Collective.vector x) i).2 0)), 0)

/-- What the node passes on: at the root of a reduction the result (R300). -/
def Collective.passOn (x : Collective) (root : Bool) (v : List Byte × Word) : List Byte × Word :=
  if root ∧ (x.op = 0 ∨ x.op = 1) then
    let r := rootResult x.dt v.1
    (r.1, v.2 ||| r.2)
  else v

/-- The values received for a chunk under the current tree set. -/
def State.received (s : State) (c set cid i : Nat) : List Partial :=
  s.pkg.partials.filter (fun p => p.ctx == c && p.set == set && p.cid == cid && p.chunk == i && p.tsid == s.pkg.tsid)

/-- The values of some children in their order, if all of them are here. -/
def valuesOf (ps : List Partial) (need : List Nat) : Option (List Partial) :=
  let got := need.filterMap (fun q => ps.find? (fun p => p.child == q))
  if got.length = need.length then some got else none

/-- Values are used up. -/
def State.dropPartials (s : State) (ps : List Partial) : State :=
  State.updPkg s (fun p => { p with partials := p.partials.filter (fun y => !ps.contains y) })

/-- Flags of values that travel with them. -/
def flagsOf (ps : List Partial) (f : Word) : BitVec 5 := ps.foldl (fun a p => a ||| p.flags) (flags5 f)

/-- The destination bytes of a chunk are written at this member. -/
def State.writeChunk (s : State) (x : Collective) (i : Nat) (res : List Byte) : State :=
  let (o, n, d) := Collective.part x i (Collective.rank x)
  if n = 0 then s
  else State.engineWrite s (State.collIssuer s x) { scratch := false, addr := x.dst + BitVec.ofNat 64 d } ((res.drop o).take n)
    [] x.pub

/-- The root has the acknowledgement of every receiver: the chunk is broadcast-done. -/
def Collective.settleAcks (x : Collective) (i : Nat) : Collective :=
  Collective.setChunk x i (fun c =>
    if c.st = 1 ∧ (Collective.receivers x i).all (fun r => c.acks.contains r) then { c with st := 2 } else c)

/-- The result of a chunk reaches this member: its bytes are written, its mark is reduced-up, and at the root its own
acknowledgement counts. -/
def State.landChunk (s : State) (x : Collective) (i : Nat) (res : List Byte) (f : BitVec 5) (root : Bool) : State :=
  let s := State.writeChunk s x i res
  let x := { Collective.setChunk x i (fun c =>
    { c with st := 1, wrote := true, acks := if root then [Collective.rank x] else c.acks }) with flags := x.flags ||| f }
  State.putColl s (if root then Collective.settleAcks x i else x)

/-- A page of a collective's source or destination is being moved (R84). -/
def State.collMigrating (s : State) (x : Collective) : Bool :=
  let n := x.members.length
  [({ scratch := false, addr := x.src }, sourceLen x.op x.len n x.root (Collective.rank x)),
   ({ scratch := false, addr := x.dst }, destLen x.op x.len n)].any (fun p => State.runMigrating s x.ctx p)

/-- A chunk that runs forms its value once its children's values are here; at the root that is the result. -/
def State.stepChunk (s : State) (c set cid i : Nat) : State :=
  match State.coll? s c set cid with
  | none => s
  | some x =>
    match x.chunks[i]? with
    | none => s
    | some k =>
      let t := s.pkg.trees.getD k.tree []
      let mine := State.received s c set cid i
      if x.st ≠ 0 ∨ k.on = false ∨ k.acc.isSome = true ∨ State.collMigrating s x = true then s
      else match valuesOf mine (Collective.needs x t i) with
      | none => s
      | some got =>
        let (own, s) := State.ownInput s x i
        let root := isRoot t me
        let v := Collective.combine x t i (got.map (fun p => (p.child, p.data))) (some own)
        let (res, f) := Collective.passOn x root v
        let f := flagsOf got f
        let s := State.dropPartials s mine
        let x := { Collective.setChunk x i (fun k => { k with acc := some v.1 }) with flags := x.flags ||| f }
        if root then State.landChunk s x i res f true else State.putColl s x

/-! ## Passing chunks on at a package that is no member (R297) -/

/-- This package is no member of a collective, but a node of a chunk's tree in the current set. -/
def State.passes (s : State) (h : CollHead) (i : Nat) : Bool :=
  (rankOf h.members me).isNone && (nodeOf (s.pkg.trees.getD (i % s.pkg.trees.length) []) me).isSome

/-- A chunk that passes through this package. -/
def Relay.is (r : Relay) (c set cid i : Nat) : Bool := r.ctx == c && r.set == set && r.cid == cid && r.chunk == i

/-- A chunk that passes through changes; one that has not been seen is new. -/
def State.updRelay (s : State) (h : CollHead) (c set cid i : Nat) (f : Relay → Relay) : State :=
  State.updPkg s (fun p =>
    let r := (p.relayed.find? (fun r => Relay.is r c set cid i)).getD
      { ctx := c, set := set, cid := cid, chunk := i, tsid := s.pkg.tsid, head := h, up := none, down := none, flags := 0, acks := [],
        done := false }
    { p with relayed := p.relayed.filter (fun r => !Relay.is r c set cid i) ++ [f r] })

/-- Once the values of its children are here, the package combines them in port order, with no input of its own, and passes the
value on; at the root it is the result. -/
def State.stepRelay (s : State) (h : CollHead) (c set cid i : Nat) : State :=
  let t := s.pkg.trees.getD (i % s.pkg.trees.length) []
  let x := CollHead.asColl h c set cid
  let mine := State.received s c set cid i
  if State.passes s h i = false ∨ s.pkg.relayed.any (fun r => Relay.is r c set cid i && r.up.isSome) = true then s
  else match valuesOf mine (Collective.needs x t i) with
  | none => s
  | some got =>
    let root := isRoot t me
    let (v, f) := Collective.passOn x root (Collective.combine x t i (got.map (fun p => (p.child, p.data))) none)
    State.updRelay (State.dropPartials s mine) h c set cid i (fun r =>
      { r with up := some v, down := if root then some v else r.down, flags := r.flags ||| flagsOf got f })

/-! ## Starting chunks (R299, R305) -/

/-- The engine takes no new chunk of a collective whose group is saved, or that a PUB holds (R214, R305). -/
def State.collStopped (s : State) (x : Collective) : Bool :=
  s.pkg.trees.isEmpty || x.behind != 0 || State.enginesStopped s x.ctx ||
  s.saved.any (fun i => i.groups.any (fun g => Group.isMember g x.ctx x.seq x.blk x.grp))

/-- Every pending chunk of a collective starts on its tree of the current set. -/
def State.startChunks (s : State) (c set cid : Nat) : State :=
  match State.coll? s c set cid with
  | none => s
  | some x =>
    if x.st ≠ 0 ∨ State.collStopped s x = true ∨ x.chunks.all (fun k => k.on || k.st == 2) = true then s
    else
      let n := s.pkg.trees.length
      let new := (List.range x.chunks.length).filter (fun i => match x.chunks[i]? with
        | some k => !k.on && k.st != 2
        | none => false)
      let x := new.foldl (fun x i => Collective.setChunk x i (fun k =>
        { k with on := true, tree := i % n, tsid := s.pkg.tsid })) { x with tsLast := s.pkg.tsid }
      let ports := fun (i : Nat) =>
        let t := s.pkg.trees.getD (i % n) []
        (match nodeOf t me with | some y => if y.parent.isSome then [y.port] else [] | none => []) ++
        (t.filter (fun y => y.parent == some me)).map (fun y => y.parentPort)
      let spans := new.map (fun i =>
        ({ ctx := c, set := set, cid := cid, ports := ports i, clk := s.clk } : ChunkSpan))
      State.putColl (State.updPkg s (fun p => { p with chunkSpans := p.chunkSpans ++ spans })) x

/-- The collective engine goes on with everything that can go on. -/
def State.runCollectives (s : State) : State :=
  (s.pkg.collectives.filter (fun x => x.st == 0)).foldl (fun s x =>
    let s := State.startChunks s x.ctx x.set x.cid
    (List.range x.chunks.length).foldl (fun s i => State.stepChunk s x.ctx x.set x.cid i) s) s

/-! ## COLL (R306, R307) -/

/-- The descriptor of COLL. -/
structure CollDesc where
  set : Nat
  root : Nat
  pub : Bool
  dt : Nat
  red : Nat
  op : Nat
  len : Nat
  src : DWord
  dst : DWord
  reserved : Bool
  deriving DecidableEq, Repr, Inhabited

/-- The descriptor in eight words. -/
def collDescOf (w : List Word) : CollDesc :=
  let f := fun (i lo n : Nat) => bits (w.getD i 0).toNat lo n
  { set := f 0 20 4, root := f 0 11 9, pub := f 0 10 1 == 1, dt := f 0 8 2, red := f 0 6 2, op := f 0 0 3, len := f 1 0 29,
    src := pair64 (w.getD 2 0) (w.getD 3 0), dst := pair64 (w.getD 4 0) (w.getD 5 0),
    reserved := f 0 24 8 != 0 || f 0 3 3 != 0 || f 1 29 3 != 0 || w.getD 6 0 != 0 || w.getD 7 0 != 0 }

/-- The runs of a collective at a rank: source, destination, status area. -/
def CollDesc.runs (d : CollDesc) (members : List Nat) (status : DWord) : List (Place × Nat) × (Place × Nat) × (Place × Nat) :=
  let n := members.length
  let rank := (rankOf members me).getD 0
  let src := sourceLen d.op d.len n d.root rank
  (if src = 0 then [] else [({ scratch := false, addr := d.src }, src)],
   ({ scratch := false, addr := d.dst }, destLen d.op d.len n),
   ({ scratch := false, addr := status }, 64 + 4 * chunksOf (vectorOf d.op d.len n)))

/-- The BOUNDS cases of R307. -/
def CollDesc.bad (d : CollDesc) (members : List Nat) (status : DWord) : Bool :=
  let n := members.length
  let v := vectorOf d.op d.len n
  let (src, dst, st) := CollDesc.runs d members status
  let es := if d.dt = 1 then 2 else 4
  let rs := src ++ (if dst.2 = 0 then [] else [dst]) ++ [st]
  d.reserved || d.dt == 3 || d.red == 3 || decide (d.op ≥ 5) || (rankOf members me).isNone || decide (d.root ≥ n) ||
  (d.op != 3 && d.root != 0) || d.len % es != 0 || (d.op == 4) != (d.len == 0) || decide (v > 268435456) ||
  ((d.op == 1 || d.op == 2) && decide (v > 8192) && d.len % 4096 != 0) ||
  (List.range rs.length).any (fun i => (rs.drop (i + 1)).any (fun y => match rs[i]? with
    | some x => overlaps (vaOf x.1.addr) x.2 (vaOf y.1.addr) y.2
    | none => false))

/-- COLLs of a context that its engine holds: accepted and running, or about to be accepted. -/
def State.collsHeld (s : State) (c : Nat) : Nat :=
  (s.pkg.collectives.filter (fun x => x.ctx == c && x.st == 0)).length +
  ((State.allGroups s).filter (fun g => g.ctx == c)).foldl (fun n g =>
    n + (g.outst.filter (fun o => match o.op with | .coll _ _ _ _ => true | _ => false)).length) 0

/-- The checks of R307 from ALIGN on, then `k`. -/
def State.collChecks (s : State) (l0 : Nat) (status : DWord) (d : CollDesc) (k : State → List Piece → Eff) : Eff :=
  match State.setOf s s.g.ctx d.set with
  | none => if status.toNat % 64 ≠ 0 then .trap s .align (1#32 <<< l0) status else State.descBad s
  | some members =>
    if status.toNat % 64 ≠ 0 then .trap s .align (1#32 <<< l0) status
    else if CollDesc.bad d members status then State.descBad s
    else
      let (src, dst, st) := CollDesc.runs d members status
      let dsts := if dst.2 = 0 then [] else [dst]
      State.classifiedAll s (engineAccesses l0 src (dsts ++ [st])) (fun s ps =>
        let mine := destPieces ps dsts
        let whole := dst.2 == 0 || (match State.buffer s s.g.ctx (vaOf dst.1.addr) with
          | some e => PubEntry.holds e (vaOf dst.1.addr + dst.2 - 1)
          | none => false)
        if d.pub then
          if whole then k s ps else .trap s .prot (1#32 <<< l0) d.dst
        else match plainDest mine with
          | some (m, a) => .trap s .prot m a
          | none => k s ps)

/-- COLL -/
def execColl (d a b : RegNo) (ua ub : Bool) (s : State) : Out :=
  issue (.coll d a b ua ub) (fun s => State.outside s (fun s =>
    let l0 := Mask.lowest s.cur.mask
    let w := (regRun b.toNat 8).map (fun n => State.src s l0 n ub)
    let status := State.src64 s l0 a.toNat ua
    let xs := srcPair a.toNat ua addrTags .lowest ++ srcRun b.toNat 2 ub [] .peek ++ srcRun (b.toNat + 2) 4 ub [] .lowest ++
      srcRun (b.toNat + 6) 2 ub [] .peek
    State.withSources s xs (fun s =>
      let tag := if State.srcPoison s (xs.map (fun x => { x with use := .lowest })) then Tag.poison else .i32
      if State.ecntFull s then .stall .pipebusy []
      else State.collChecks s l0 status (collDescOf w) (fun t ps =>
        let t := State.touchAll t ps
          [((CollDesc.runs (collDescOf w) ((State.setOf s s.g.ctx (collDescOf w).set).getD []) status).2.1)]
        if State.collsHeld s s.g.ctx ≥ 256 then
          (if Group.atStart s.g then .stall .engq [] else .hold (State.endRegion t) .engq)
        else
          let t := State.markVolatile (State.endRegion t) s.g.ctx s.g.seq
          .ok (State.updG t (fun g => { Group.issueOp g (.coll d.toNat g.commands w tag) t.cur.mask
            [{ lane := l0, addr := status, len := 0, leaf := 0, x := [], priv := false }] with ecnt := g.ecnt + 1, commands := g.commands + 1 })))))) s

/-- A collective as the engine accepts it. -/
def State.newColl (s : State) (g : Group) (members : List Nat) (cid num : Nat) (status : DWord) (d : CollDesc) (old : List Byte) :
    Collective :=
  let n := chunksOf (vectorOf d.op d.len members.length)
  let behind := if d.pub then (match State.buffer s g.ctx (vaOf d.dst) with
      | some e => (State.pubsOf s g.ctx e.index).length
      | none => 0)
    else 0
  { ctx := g.ctx, set := d.set, cid := cid, seq := g.seq, blk := g.blk, grp := g.grp, num := num, members := members, status := status,
    op := d.op, red := d.red, dt := d.dt, len := d.len, root := d.root, pub := d.pub, behind := behind, src := d.src, dst := d.dst,
    st := 0, cause := 0, flags := 0, tsFirst := s.pkg.tsid, tsLast := s.pkg.tsid, recomp := 0,
    chunks := List.replicate n { st := 0, tree := 0, tsid := 0, on := false, acc := none, wrote := false, acks := [] },
    old := old }

/-- The collectives that the engine keeps: the 64 most recent of each set (R310), and every one that runs. -/
def keepColls (xs : List Collective) (c set cid : Nat) : List Collective :=
  xs.filter (fun x => x.st == 0 || !(x.ctx == c && x.set == set) || decide ((cid + 2 ^ 32 - x.cid) % 2 ^ 32 < 64))

/-- COLL_ACCEPT: the engine takes the command: CID, the completion record with STATE RUNNING, every mark 0; the destination's
contents are undefined from now on without PUB (R304) -/
def execCollAccept (hall slot : Nat) (s : State) : Out :=
  match State.groupAt? s hall slot with
  | none => .next s
  | some g =>
    match g.outst.findIdx? (fun o => match o.op with | .coll _ _ _ _ => true | _ => false) with
    | none => .next s
    | some n =>
      match g.outst[n]? with
      | none => .next s
      | some o =>
        match o.op with
        | .coll d num w tag =>
          let x := collDescOf w
          match State.setOf s g.ctx x.set with
          | none => .next s
          | some members =>
            if g.draining || Group.acqBefore g o.no || State.enginesStopped s g.ctx then .next s
            else
              let status := match o.parts with | p :: _ => p.addr | [] => 0
              let cid := match s.ctx? g.ctx with | some y => (lookup y.setCounts x.set).getD 0 | none => 0
              let dn := if x.pub then 0 else destLen x.op x.len members.length
              let (old, s) := State.readVirt s g.ctx (vaOf x.dst) dn
              let y := State.newColl s g members cid num status x old
              let s := if dn = 0 then s
                else State.engineWrite { s with free := s.free + dn } { g := g, lc := o.lc }
                  { scratch := false, addr := x.dst } (freeBytes s.free dn) [] false
              let s := State.updCtx s g.ctx (fun z => { z with setCounts := insert z.setCounts x.set ((cid + 1) % 2 ^ 32) })
              let s := State.updPkg s (fun p => { p with collectives := keepColls p.collectives g.ctx x.set cid ++ [y] })
              let s := State.putColl s y
              let s := State.updGroup s hall slot (fun g =>
                Group.done ((Mask.lanes o.mask).foldl (fun g l => Group.putWords g l d [(BitVec.ofNat 32 cid, 0)] tag) g) n)
              .next (State.runCollectives s)
        | _ => .next s

/-! ## CSTAT (R310) -/

/-- CSTAT -/
def execCstat (d a b : RegNo) (ua ub : Bool) (s : State) : Out :=
  issue (.cstat d a b ua ub) (fun s =>
    let xs : List Src := [{ reg := a.toNat, uni := ua, tags := [.i32], use := .peek },
                          { reg := b.toNat, uni := ub, tags := [.i32], use := .peek }]
    State.withSources s xs (fun s =>
      let l0 := Mask.lowest s.cur.mask
      let cid := (State.src s l0 a.toNat ua).toNat
      let set := (State.src s l0 b.toNat ub).toNat
      if set > 15 then .trap s .illegal s.cur.mask 0
      else
        let parts := (Mask.lanes s.cur.mask).map (fun l =>
          ({ lane := l, addr := 0, len := 0, leaf := 0, x := [], priv := State.defaultSym s xs l != 0 } : LanePart))
        let t := State.exactSources s xs (State.inRegion s)
        let tag := if State.lanePoison s xs l0 then Tag.poison else .i32
        .ok (State.updG t (fun g => Group.issueOp g (.cstat set cid d.toNat tag) t.cur.mask parts)))) s

/-- What the engine answers about a collective: its state word and its DONE count, UNKNOWN of one outside the 64 most recent of its
set (R310). -/
def State.collAnswer (s : State) (c set cid : Nat) : Word × Word :=
  let next := match s.ctx? c with | some y => (lookup y.setCounts set).getD 0 | none => 0
  let age := (next + 2 ^ 32 - cid) % 2 ^ 32
  match State.coll? s c set cid with
  | some x =>
    if 1 ≤ age ∧ age ≤ 64 then (BitVec.ofNat 32 (Collective.stateWord x), BitVec.ofNat 32 (Collective.doneCount x)) else (3, 0)
  | none => (3, 0)

/-- CSTAT_ANSWER -/
def execCstatAnswer (hall slot n : Nat) (s : State) : Out :=
  match State.groupAt? s hall slot with
  | none => .next s
  | some g =>
    match g.outst[n]? with
    | none => .next s
    | some o =>
      match o.op with
      | .cstat set cid d tag =>
        if g.draining then .next s else
        let (v, w) := State.collAnswer s g.ctx set cid
        .next (State.updGroup s hall slot (fun g =>
          Group.done (o.parts.foldl (fun g p =>
            let k := if p.priv then 15 else 0
            Group.putWords g p.lane d [(v, k), (w, k)] tag) g) n))
      | _ => .next s

/-! ## What arrives over the links (R300 to R302) -/

/-- PARTIAL_VALUE_RECEIVE: a value whose TSID is not current is dropped; a member combines it when it can, another package of the
tree combines its children's values and passes them on -/
def execPartialValueReceive (ctx set cid chunk tsid child : Nat) (data : List Byte) (flags : BitVec 5) (head : CollHead) (s : State) :
    Out :=
  if tsid ≠ s.pkg.tsid then .next s
  else
    let v : Partial := { ctx := ctx, set := set, cid := cid, chunk := chunk, tsid := tsid, child := child, data := data,
                         flags := flags, head := head }
    let seen := s.pkg.partials.any (fun p => p.ctx == ctx && p.set == set && p.cid == cid && p.chunk == chunk &&
      p.tsid == tsid && p.child == child)
    if seen then .next s
    else .next (State.stepRelay (State.runCollectives (State.updPkg s (fun p => { p with partials := p.partials ++ [v] })))
      head ctx set cid chunk)

/-- The result of a chunk reaches a package that is no member, which passes it down its tree. -/
def State.relayDown (s : State) (c set cid chunk tsid : Nat) (data : List Byte) (flags : BitVec 5) : State :=
  match s.pkg.relayed.find? (fun r => Relay.is r c set cid chunk) with
  | none => s
  | some r =>
    if tsid ≠ s.pkg.tsid ∨ r.down.isSome = true then s
    else State.updRelay s r.head c set cid chunk (fun r => { r with down := some data, flags := r.flags ||| flags })

/-- CHUNK_BROADCAST_RECEIVE: the result of a chunk arrives at a member, which writes its destination bytes; another package passes
it down -/
def execChunkBroadcastReceive (ctx set cid chunk tsid : Nat) (data : List Byte) (flags : BitVec 5) (s : State) : Out :=
  match State.coll? s ctx set cid with
  | none => .next (State.relayDown s ctx set cid chunk tsid data flags)
  | some x =>
    match x.chunks[chunk]? with
    | none => .next s
    | some k =>
      let t := s.pkg.trees.getD k.tree []
      if x.st ≠ 0 ∨ tsid ≠ s.pkg.tsid ∨ k.on = false ∨ k.acc.isNone = true ∨ k.st ≠ 0 ∨ isRoot t me = true ∨
          data.length ≠ (chunkSpan (Collective.vector x) chunk).2 ∨ State.collMigrating s x = true then .next s
      else .next (State.landChunk s x chunk data flags false)

/-- A member's acknowledgement reaches a root that is no member. -/
def State.relayAck (s : State) (c set cid chunk tsid rank : Nat) : State :=
  match s.pkg.relayed.find? (fun r => Relay.is r c set cid chunk) with
  | none => s
  | some r =>
    let due := Collective.receivers (CollHead.asColl r.head c set cid) chunk
    if tsid ≠ s.pkg.tsid ∨ isRoot (s.pkg.trees.getD (chunk % s.pkg.trees.length) []) me = false ∨ r.down.isNone = true ∨
        due.contains rank = false then s
    else
      let acks := (r.acks ++ [rank]).eraseDups
      State.updRelay s r.head c set cid chunk (fun r => { r with acks := acks, done := due.all (fun q => acks.contains q) })

/-- A chunk is broadcast-done at a member that is not its root, by the root's decision (R301). -/
def State.declared (s : State) (x : Collective) (chunk : Nat) : State :=
  State.putColl s (Collective.setChunk x chunk (fun k => { k with st := 2 }))

/-- CHUNK_ACK: the root of a chunk has a member's acknowledgement; another member has the root's word, sent the same way, that it
has them all -/
def execChunkAck (ctx set cid chunk tsid rank : Nat) (s : State) : Out :=
  match State.coll? s ctx set cid with
  | none => .next (State.relayAck s ctx set cid chunk tsid rank)
  | some x =>
    match x.chunks[chunk]? with
    | none => .next s
    | some k =>
      if x.st ≠ 0 ∨ tsid ≠ s.pkg.tsid ∨ k.on = false then .next s
      else if isRoot (s.pkg.trees.getD k.tree []) me = false then
        .next (if k.st = 1 ∨ (k.st = 0 ∧ k.acc.isSome = true ∧ (Collective.receivers x chunk).contains (Collective.rank x) = false) then
          State.declared s x chunk else s)
      else if k.st ≠ 1 ∨ (Collective.receivers x chunk).contains rank = false then .next s
      else .next (State.putColl s (Collective.settleAcks
        (Collective.setChunk x chunk (fun k => { k with acks := (k.acks ++ [rank]).eraseDups })) chunk))

/-! ## The end of a collective (R303, R307) -/

/-- A collective ends at this package: the record, then ecnt. -/
def State.endColl (s : State) (x : Collective) : State :=
  State.updMember (State.putColl s x) x.ctx x.seq x.blk x.grp (fun g => { g with ecnt := dec g.ecnt })

/-- Every chunk is broadcast-done. -/
def Collective.ready (x : Collective) : Bool := x.chunks.all (fun k => k.st == 2)

/-- COLLECTIVE_COMPLETE: every chunk is broadcast-done; the record reads DONE, then ecnt falls -/
def execCollectiveComplete (ctx set cid : Nat) (s : State) : Out :=
  match State.coll? s ctx set cid with
  | none => .next s
  | some x =>
    if x.st ≠ 0 ∨ Collective.ready x = false then .next s
    else .next (State.endColl s { x with st := 1 })

/-- What a failed collective leaves at the destination: a byte that was written is old or new, a free choice (R303). -/
def State.failBytes (s : State) (x : Collective) : List Byte :=
  let new := (State.readVirt s x.ctx (vaOf x.dst) x.old.length).1
  let written := (List.range x.chunks.length).flatMap (fun i => match x.chunks[i]? with
    | some k =>
      let (_, n, d) := Collective.part x i (Collective.rank x)
      if k.wrote then [(d, n)] else []
    | none => [])
  (List.range x.old.length).map (fun j =>
    if written.any (fun r => decide (r.1 ≤ j) && decide (j < r.1 + r.2)) && (Config.freeByte (s.free + j)).getLsbD 0 then
      new.getD j 0
    else x.old.getD j 0)

/-- A collective fails at this package. -/
def State.failColl (s : State) (x : Collective) (cause : Nat) : State :=
  let bs := State.failBytes s x
  let s := if bs.isEmpty then s
    else State.engineWrite { s with free := s.free + bs.length } (State.collIssuer s x) { scratch := false, addr := x.dst } bs []
      false
  let s := State.updPkg s (fun p => { p with partials := p.partials.filter (fun y =>
    !(y.ctx == x.ctx && y.set == x.set && y.cid == x.cid)) })
  State.endColl s { x with st := 2, cause := cause }

/-- Some member is not connected by the current tree set (R303). -/
def State.partitioned (s : State) (x : Collective) : Bool :=
  match s.pkg.trees with
  | [] => false
  | t :: _ => x.members.any (fun p => (nodeOf t p).isNone)

/-- COLLECTIVE_FAIL: 1 PARTITION only where a member is not connected, 2 MEMBER, 3 MISMATCH -/
def execCollectiveFail (ctx set cid : Nat) (cause : BitVec 8) (s : State) : Out :=
  match State.coll? s ctx set cid with
  | none => .next s
  | some x =>
    if x.st ≠ 0 ∨ cause.toNat = 0 ∨ cause.toNat > 3 ∨ (cause.toNat = 1 ∧ State.partitioned s x = false) then .next s
    else .next (State.failColl s x cause.toNat)

/-! ## The live link table and the tree sets (R21, R297, R298, R302) -/

/-- An entry of the table, with the peer's entry of the same link. -/
def putLink (ls : List LinkEntry) (e : LinkEntry) : List LinkEntry :=
  let peer : LinkEntry := { pkg := e.peer, port := e.peerPort, peer := e.pkg, peerPort := e.port, state := e.state }
  ls.filter (fun l => !(l.pkg == e.pkg && l.port == e.port) && !(l.pkg == peer.pkg && l.port == peer.port)) ++ [e, peer]

/-- This package's port is retired or fenced: its link stays down (R336). -/
def State.portOut (s : State) (e : LinkEntry) : Bool :=
  let out := fun (p q : Nat) => p == me && (State.unit s (linkUnit q)).st != 0
  out e.pkg e.port || out e.peer e.peerPort

/-- LINK_DOWN_DECLARE: the link at a port is down, at both of its ends -/
def execLinkDownDeclare (pkg port : Nat) (s : State) : Out :=
  match s.pkg.links.find? (fun l => l.pkg == pkg && l.port == port) with
  | none => .next s
  | some e => .next (State.updPkg s (fun p => { p with links := putLink p.links { e with state := 0 } }))

/-- An entry names packages and ports that there are (R1, R21). -/
def LinkEntry.ok (e : LinkEntry) : Bool :=
  decide (e.pkg < Config.maxPackages) && decide (e.peer < Config.maxPackages) && decide (e.port < Config.linkPorts) &&
  decide (e.peerPort < Config.linkPorts)

/-- LINK_TABLE_UPDATE: an entry as another engine gives it -/
def execLinkTableUpdate (e : LinkEntry) (s : State) : Out :=
  if e.state > 2 ∨ LinkEntry.ok e = false ∨ (e.state ≠ 0 ∧ State.portOut s e = true) then .next s
  else .next (State.updPkg s (fun p => { p with links := putLink p.links e }))

/-- LINK_UP: a link has completed training -/
def execLinkUp (e : LinkEntry) (s : State) : Out :=
  if LinkEntry.ok e = false ∨ State.portOut s e = true then .next s
  else .next (State.updPkg s (fun p => { p with links := putLink p.links { e with state := 2 } }))

/-- A chunk after a recomputation: kept if its root declared it broadcast-done, else pending again with nothing held (R302). -/
def Chunk.restart (k : Chunk) : Chunk :=
  if k.st = 2 then k else { k with st := 0, on := false, acc := none, acks := [] }

/-- TREE_SET_RECOMPUTE: the new tree set is adopted with the next TSID (the first one of the domain keeps TSID 1); chunks that
are not broadcast-done start again -/
def execTreeSetRecompute (trees : List (List TreeNode)) (s : State) : Out :=
  if State.treesOk s trees = false then .next s
  else
    let first := s.pkg.trees.isEmpty
    let tsid := if first then max s.pkg.tsid 1 else (s.pkg.tsid + 1) % 2 ^ 32
    let s := State.updPkg s (fun p =>
      { p with trees := trees, tsid := tsid, partials := [], relayed := [],
               treeLog := (p.treeLog ++ [(tsid, trees)]).drop (p.treeLog.length + 1 - 16) })
    let running := s.pkg.collectives.filter (fun x => x.st == 0)
    let s := running.foldl (fun s x =>
      State.putColl s { x with recomp := if first then x.recomp else x.recomp + 1, chunks := x.chunks.map Chunk.restart }) s
    .next (State.runCollectives s)

/-- DEFINE_COLLECTIVE_SET: refused while a collective of the set runs, which counts a firmware fault; else the set is what the
driver gives and its count returns to 0 (R296) -/
def execDefineCollectiveSet (ctx set : Nat) (pkgs : List Nat) (s : State) : Out :=
  if (s.ctx? ctx).isNone ∨ set > 15 ∨ pkgs = [] ∨ pkgs.length > 512 ∨ pkgs.eraseDups.length ≠ pkgs.length then .next s
  else if s.pkg.collectives.any (fun x => x.ctx == ctx && x.set == set && x.st == 0) then
    .next (State.updPkg s (fun p => { p with fwFault := satInc p.fwFault }))
  else
    let s := State.updCtx s ctx (fun x =>
      { x with sets := insert x.sets set pkgs, setCounts := insert x.setCounts set 0 })
    .next (State.updPkg s (fun p => { p with collectives := p.collectives.filter (fun x => !(x.ctx == ctx && x.set == set)),
                                                relayed := p.relayed.filter (fun r => !(r.ctx == ctx && r.set == set)) }))

end Sys2Proof.Machine
end

