-- ==== Sys2Proof/Machine/Lanes.lean ====
section
/-! DEFINITION. The words on integers, bit fields, constants, comparisons, 64-bit addresses, and across lanes (R136 to R146). -/

namespace Sys2Proof.Machine

/-! ## Integer arithmetic (R136) -/

/-- IMULH.s: the high word of the signed product. -/
def mulHighS (x y : Word) : Word := BitVec.ofInt 32 (x.toInt * y.toInt / 4294967296)
/-- IMULH.z: the high word of the unsigned product. -/
def mulHighZ (x y : Word) : Word := BitVec.ofNat 32 (x.toNat * y.toNat / 4294967296)
/-- Signed minimum. -/
def minS (x y : Word) : Word := if y.toInt < x.toInt then y else x
/-- Signed maximum. -/
def maxS (x y : Word) : Word := if y.toInt > x.toInt then y else x
/-- Unsigned minimum. -/
def minZ (x y : Word) : Word := if y.toNat < x.toNat then y else x
/-- Unsigned maximum. -/
def maxZ (x y : Word) : Word := if y.toNat > x.toNat then y else x
/-- IABS. -/
def absW (x : Word) : Word := if x.getLsbD 31 then 0 - x else x

/-- The sources va and vb of a binary integer word. -/
def intSrcs (u : Bool) (a b : RegNo) : List Src := [src1 a false [.i32], src1 b u [.i32]]

/-- A binary integer word on I32 sources (R133, R136). -/
def State.int2 (s : State) (u : Bool) (d a b : RegNo) (lat : Nat) (f : Word → Word → Word) : Eff :=
  State.laneOp s (intSrcs u a b) lat d.toNat 1 (fun s l => [(f (State.src s l a.toNat false) (State.src s l b.toNat u), .i32)])

/-- The symbolic tag that IADD and ISUB keep (R288): a symbolic va with a concrete vb, and for IADD the other way round. -/
def State.sumSym (s : State) (u : Bool) (a b : RegNo) (both : Bool) (l : Nat) : Option (BitVec 4) :=
  let ka := (State.srcCell s l a.toNat false).sym
  let kb := (State.srcCell s l b.toNat u).sym
  if isSymbolic ka && kb == 0 then some ka
  else if both && ka == 0 && isSymbolic kb then some kb else none

/-- IADD and ISUB (R136, R288). -/
def State.sum2 (s : State) (u : Bool) (d a b : RegNo) (f : Word → Word → Word) (both : Bool) : Eff :=
  State.withSources s (intSrcs u a b) (fun s =>
    .ok (State.results s (intSrcs u a b) 4 d.toNat 1
      (fun l => [(f (State.src s l a.toNat false) (State.src s l b.toNat u), .i32)]) (State.sumSym s u a b both)))

/-- IADD -/
def execIadd (u : Bool) (d a b : RegNo) (s : State) : Out :=
  issue (.iadd u d a b) (fun s => State.sum2 s u d a b (fun x y => x + y) true) s

/-- ISUB -/
def execIsub (u : Bool) (d a b : RegNo) (s : State) : Out :=
  issue (.isub u d a b) (fun s => State.sum2 s u d a b (fun x y => x - y) false) s

/-- IMUL -/
def execImul (u : Bool) (d a b : RegNo) (s : State) : Out :=
  issue (.imul u d a b) (fun s => State.int2 s u d a b 6 (fun x y => x * y)) s

/-- IMULH.s -/
def execImulhS (u : Bool) (d a b : RegNo) (s : State) : Out :=
  issue (.imulhS u d a b) (fun s => State.int2 s u d a b 6 mulHighS) s

/-- IMULH.z -/
def execImulhZ (u : Bool) (d a b : RegNo) (s : State) : Out :=
  issue (.imulhZ u d a b) (fun s => State.int2 s u d a b 6 mulHighZ) s

/-- IMAD -/
def execImad (u : Bool) (d a b : RegNo) (s : State) : Out :=
  issue (.imad u d a b) (fun s => State.laneOp s (src1 d false [.i32] :: intSrcs u a b) 6 d.toNat 1 (fun s l =>
    [(State.src s l d.toNat false + State.src s l a.toNat false * State.src s l b.toNat u, .i32)])) s

/-- IMIN, signed or (z) unsigned -/
def execImin (u z : Bool) (d a b : RegNo) (s : State) : Out :=
  issue (.imin u z d a b) (fun s => State.int2 s u d a b 4 (if z then minZ else minS)) s

/-- IMAX, signed or (z) unsigned -/
def execImax (u z : Bool) (d a b : RegNo) (s : State) : Out :=
  issue (.imax u z d a b) (fun s => State.int2 s u d a b 4 (if z then maxZ else maxS)) s

/-- IABS -/
def execIabs (d a : RegNo) (s : State) : Out :=
  issue (.iabs d a) (fun s => State.laneOp s [src1 a false [.i32]] 4 d.toNat 1 (fun s l =>
    [(absW (State.src s l a.toNat false), .i32)])) s

/-! ## Logic, shifts, bit fields (R134, R137, R138) -/

/-- I32 if every register source carries I32, else RAW (R134). -/
def logicTag (ts : List Tag) : Tag := if ts.all (fun t => t == .i32) then .i32 else .raw

/-- A binary logic or shift word (R134, R137). -/
def State.logic2 (s : State) (u : Bool) (d a b : RegNo) (lat : Nat) (f : Word → Word → Word) : Eff :=
  State.laneOp s [src1 a false [], src1 b u []] lat d.toNat 1 (fun s l =>
    let x := State.srcCell s l a.toNat false
    let y := State.srcCell s l b.toNat u
    [(f x.val y.val, logicTag [x.tag, y.tag])])

/-- A logic or shift word with an immediate (R134, R139). -/
def State.logic1 (s : State) (d a : RegNo) (lat : Nat) (f : Word → Word) : Eff :=
  State.laneOp s [src1 a false []] lat d.toNat 1 (fun s l =>
    let x := State.srcCell s l a.toNat false
    [(f x.val, logicTag [x.tag])])

/-- A unary word on any tag with an I32 result (R134, R137). -/
def State.count1 (s : State) (d a : RegNo) (f : Word → Nat) : Eff :=
  State.laneOp s [src1 a false []] 5 d.toNat 1 (fun s l => [(BitVec.ofNat 32 (f (State.src s l a.toNat false)), .i32)])

/-- AND -/
def execAnd (u : Bool) (d a b : RegNo) (s : State) : Out :=
  issue (.and u d a b) (fun s => State.logic2 s u d a b 4 (fun x y => x &&& y)) s

/-- OR -/
def execOr (u : Bool) (d a b : RegNo) (s : State) : Out :=
  issue (.or u d a b) (fun s => State.logic2 s u d a b 4 (fun x y => x ||| y)) s

/-- XOR -/
def execXor (u : Bool) (d a b : RegNo) (s : State) : Out :=
  issue (.xor u d a b) (fun s => State.logic2 s u d a b 4 (fun x y => x ^^^ y)) s

/-- ANDN -/
def execAndn (u : Bool) (d a b : RegNo) (s : State) : Out :=
  issue (.andn u d a b) (fun s => State.logic2 s u d a b 4 (fun x y => x &&& ~~~y)) s

/-- The shift amount, bits [4:0]. -/
def shiftOf (y : Word) : Nat := y.toNat % 32

/-- SHL -/
def execShl (u : Bool) (d a b : RegNo) (s : State) : Out :=
  issue (.shl u d a b) (fun s => State.logic2 s u d a b 4 (fun x y => x <<< shiftOf y)) s

/-- SHR -/
def execShr (u : Bool) (d a b : RegNo) (s : State) : Out :=
  issue (.shr u d a b) (fun s => State.logic2 s u d a b 4 (fun x y => x >>> shiftOf y)) s

/-- SHA -/
def execSha (u : Bool) (d a b : RegNo) (s : State) : Out :=
  issue (.sha u d a b) (fun s => State.logic2 s u d a b 4 (fun x y => BitVec.sshiftRight x (shiftOf y))) s

/-- The number of 1 bits. -/
def popcount (x : Word) : Nat := (lanesOf.filter (fun i => x.getLsbD i)).length

/-- The number of leading 0 bits, 32 for zero. -/
def leadingZeros (x : Word) : Nat :=
  (lanesOf.foldl (fun n i => if x.getLsbD i then 31 - i else n) 32)

/-- Bit i moved to bit 31 − i. -/
def bitReverse (x : Word) : Word := maskOf (fun i => x.getLsbD (31 - i))

/-- POPC -/
def execPopc (d a : RegNo) (s : State) : Out := issue (.popc d a) (fun s => State.count1 s d a popcount) s

/-- CLZ -/
def execClz (d a : RegNo) (s : State) : Out := issue (.clz d a) (fun s => State.count1 s d a leadingZeros) s

/-- BREV -/
def execBrev (d a : RegNo) (s : State) : Out := issue (.brev d a) (fun s => State.logic1 s d a 5 bitReverse) s

/-- The position and the end of a field descriptor: p and e of R138. -/
def fieldOf (y : Word) : Nat × Nat :=
  let p := bits y.toNat 0 5
  let w := min (bits y.toNat 8 6) 32
  (p, min (p + w) 32)

/-- BFX, zero- or sign-extending (R138). -/
def extractField (signed : Bool) (x y : Word) : Word :=
  let (p, e) := fieldOf y
  if e = p then 0
  else
    let r := bits x.toNat p (e - p)
    if signed && x.getLsbD (e - 1) then BitVec.ofNat 32 (r + (4294967296 - 2 ^ (e - p))) else BitVec.ofNat 32 r

/-- BFI (R138). -/
def insertField (old x y : Word) : Word :=
  let (p, e) := fieldOf y
  let n := e - p
  BitVec.ofNat 32 (old.toNat - bits old.toNat p n * 2 ^ p + bits x.toNat 0 n * 2 ^ p)

/-- BFX, .z or (z) .s -/
def execBfx (u z : Bool) (d a b : RegNo) (s : State) : Out :=
  issue (.bfx u z d a b) (fun s => State.logic2 s u d a b 5 (extractField z)) s

/-- BFI -/
def execBfi (u : Bool) (d a b : RegNo) (s : State) : Out :=
  issue (.bfi u d a b) (fun s => State.laneOp s [src1 d false [], src1 a false [], src1 b u []] 5 d.toNat 1 (fun s l =>
    let o := State.srcCell s l d.toNat false
    let x := State.srcCell s l a.toNat false
    let y := State.srcCell s l b.toNat u
    [(insertField o.val x.val y.val, logicTag [o.tag, x.tag, y.tag])])) s

/-! ## Immediates (R139, R140) -/

/-- IADDI (R139, R288) -/
def execIaddi (d a : RegNo) (imm : BitVec 10) (s : State) : Out :=
  issue (.iaddi d a imm) (fun s => State.withSources s [src1 a false [.i32]] (fun s =>
    .ok (State.results s [src1 a false [.i32]] 4 d.toNat 1
      (fun l => [(State.src s l a.toNat false + BitVec.signExtend 32 imm, .i32)])
      (fun l => let k := (State.srcCell s l a.toNat false).sym; if isSymbolic k then some k else none)))) s

/-- ANDI -/
def execAndi (d a : RegNo) (imm : BitVec 10) (s : State) : Out :=
  issue (.andi d a imm) (fun s => State.logic1 s d a 4 (fun x => x &&& BitVec.zeroExtend 32 imm)) s

/-- ORI -/
def execOri (d a : RegNo) (imm : BitVec 10) (s : State) : Out :=
  issue (.ori d a imm) (fun s => State.logic1 s d a 4 (fun x => x ||| BitVec.zeroExtend 32 imm)) s

/-- XORI -/
def execXori (d a : RegNo) (imm : BitVec 10) (s : State) : Out :=
  issue (.xori d a imm) (fun s => State.logic1 s d a 4 (fun x => x ^^^ BitVec.zeroExtend 32 imm)) s

/-- SHLI -/
def execShli (d a : RegNo) (imm : BitVec 5) (s : State) : Out :=
  issue (.shli d a imm) (fun s => State.logic1 s d a 4 (fun x => x <<< imm.toNat)) s

/-- SHRI -/
def execShri (d a : RegNo) (imm : BitVec 5) (s : State) : Out :=
  issue (.shri d a imm) (fun s => State.logic1 s d a 4 (fun x => x >>> imm.toNat)) s

/-- SHAI -/
def execShai (d a : RegNo) (imm : BitVec 5) (s : State) : Out :=
  issue (.shai d a imm) (fun s => State.logic1 s d a 4 (fun x => BitVec.sshiftRight x imm.toNat)) s

/-- LI -/
def execLi (d : RegNo) (imm : BitVec 17) (s : State) : Out :=
  issue (.li d imm) (fun s => State.laneOp s [] 4 d.toNat 1 (fun _ _ => [(BitVec.signExtend 32 imm, .i32)])) s

/-- LIH -/
def execLih (d : RegNo) (imm : BitVec 17) (s : State) : Out :=
  issue (.lih d imm) (fun s => State.laneOp s [src1 d false [.i32]] 4 d.toNat 1 (fun s l =>
    [((BitVec.zeroExtend 32 imm <<< 15) ||| (State.src s l d.toNat false &&& 0x7FFF#32), .i32)])) s

/-! ## Compares and select (R101, R141, R142, R289) -/

/-- A relation of ICMP (R101). -/
def relHolds (rel : BitVec 3) (x y : Word) : Bool :=
  match rel.toNat with
  | 0 => x == y
  | 1 => x != y
  | 2 => decide (x.toInt < y.toInt)
  | 3 => decide (x.toInt ≥ y.toInt)
  | 4 => decide (x.toNat < y.toNat)
  | 5 => decide (x.toNat ≥ y.toNat)
  | 6 => decide (x.toInt ≤ y.toInt)
  | _ => decide (x.toInt > y.toInt)

/-- The constant c of a symbolic value: its value less the recorded input value (R288). -/
def LaneRegion.constOf (r : LaneRegion) (k : Nat) (v : Word) : Word :=
  match r.inputs[k - 1]? with
  | some i => v - i.val.getD 0
  | none => v

/-- A comparison in a lane with an open region of one symbolic and one concrete operand records a constraint, or aborts the
lane when there are eight (R288 to R290). -/
def State.constrain (s : State) (l : Nat) (rel : BitVec 3) (x y : RegCell) : State :=
  if !State.inRegion s l then s
  else
    let left := isSymbolic x.sym && y.sym == 0
    let right := x.sym == 0 && isSymbolic y.sym
    if !left && !right then s
    else
      let r := (Group.lane s.g l).region
      if r.cons.length ≥ 8 then State.capacity s l 3
      else
        let k := (if left then x.sym else y.sym).toNat
        let v := if left then x.val else y.val
        let o := if left then y.val else x.val
        State.updG s (fun g => Group.updRegion g l (fun r =>
          { r with cons := r.cons ++ [{ k := k, rel := rel, c := LaneRegion.constOf r k v, other := o, symLeft := left,
                                        outcome := relHolds rel x.val y.val }] }))

/-- ICMP and ICMPI: the second operand of a lane is given by `y` (R141). -/
def State.compare (s : State) (xs : List Src) (rel : BitVec 3) (d a : RegNo) (y : State → Nat → RegCell) : Eff :=
  State.withSources s xs (fun s =>
    let t := (Mask.lanes s.cur.mask).foldl (fun t l =>
      State.constrain t l rel (State.srcCell s l a.toNat false) (y s l)) s
    .ok (State.results t xs 4 d.toNat 1
      (fun l => [(boolWord (relHolds rel (State.src s l a.toNat false) (y s l).val), .i32)])
      (fun l =>
        let kx := (State.srcCell s l a.toNat false).sym
        let ky := (y s l).sym
        if (isSymbolic kx && ky == 0) || (kx == 0 && isSymbolic ky) then some 0 else none)))

/-- ICMP -/
def execIcmp (rel : BitVec 3) (d a b : RegNo) (s : State) : Out :=
  issue (.icmp rel d a b) (fun s =>
    State.compare s (intSrcs false a b) rel d a (fun s l => State.srcCell s l b.toNat false)) s

/-- ICMPI -/
def execIcmpi (d a : RegNo) (rel : BitVec 3) (imm : BitVec 7) (s : State) : Out :=
  issue (.icmpi d a rel imm) (fun s =>
    State.compare s [src1 a false [.i32]] rel d a (fun _ _ => RegCell.of (BitVec.signExtend 32 imm) .i32)) s

/-- The source SEL chooses in a lane (R142). -/
def State.selCell (s : State) (u : Bool) (d a b : RegNo) (l : Nat) : RegCell :=
  if State.src s l d.toNat false != 0 then State.srcCell s l a.toNat false else State.srcCell s l b.toNat u

/-- SEL -/
def execSel (u : Bool) (d a b : RegNo) (s : State) : Out :=
  issue (.sel u d a b) (fun s =>
    State.laneOp s [src1 d false [], { src1 a false [] with use := .pass }, { src1 b u [] with use := .pass }] 4 d.toNat 1
      (fun s l => let c := State.selCell s u d a b l; [(c.val, c.tag)])) s

/-! ## 64-bit addresses (R143) -/

/-- A 64-bit result as two registers tagged ADDR. -/
def addrResult (x : DWord) : List (Word × Tag) := [(lo32 x, .addr), (hi32 x, .addr)]

/-- A64 -/
def execA64 (u : Bool) (d a b : RegNo) (s : State) : Out :=
  issue (.a64 u d a b) (fun s =>
    State.laneOp s (srcPair a.toNat false addrTags .value ++ srcPair b.toNat u addrTags .value) 5 d.toNat 2 (fun s l =>
      addrResult (State.src64 s l a.toNat false + State.src64 s l b.toNat u))) s

/-- A64S -/
def execA64s (u : Bool) (sc : BitVec 2) (d a b : RegNo) (s : State) : Out :=
  issue (.a64s u sc d a b) (fun s =>
    State.laneOp s (srcPair a.toNat false [.addr] .value ++ [src1 b u [.i32]]) 5 d.toNat 2 (fun s l =>
      addrResult (State.src64 s l a.toNat false + (BitVec.signExtend 64 (State.src s l b.toNat u) <<< sc.toNat)))) s

/-- A64I -/
def execA64i (d a : RegNo) (imm : BitVec 10) (s : State) : Out :=
  issue (.a64i d a imm) (fun s =>
    State.laneOp s (srcPair a.toNat false addrTags .value) 5 d.toNat 2 (fun s l =>
      addrResult (State.src64 s l a.toNat false + BitVec.signExtend 64 imm))) s

/-! ## Across lanes (R144 to R146) -/

/-- The lane that SHFL reads for a lane, if it is one (R144). -/
def shflLane (pat : BitVec 2) (l s : Nat) : Option Nat :=
  match pat.toNat with
  | 0 => some s
  | 1 => if s ≤ l then some (l - s) else none
  | 2 => if l + s ≤ 31 then some (l + s) else none
  | _ => some (l ^^^ s)

/-- The cell that SHFL writes in a lane (R144). -/
def State.shflCell (s : State) (u : Bool) (pat : BitVec 2) (a b : RegNo) (l : Nat) : RegCell :=
  match shflLane pat l (shiftOf (State.src s l b.toNat u)) with
  | some k => if s.cur.mask.getLsbD k then Group.cell s.g k a.toNat else Group.cell s.g l a.toNat
  | none => Group.cell s.g l a.toNat

/-- The sources of SHFL. -/
def shflSrcs (u : Bool) (a b : RegNo) : List Src := [{ src1 a false [] with use := .pass }, src1 b u [.i32]]

/-- SHFL: every value is read before any lane is written; inputs that fed a symbolic va become exact in their own lane (R144,
R288). -/
def execShfl (u : Bool) (pat : BitVec 2) (d a b : RegNo) (s : State) : Out :=
  issue (.shfl u pat d a b) (fun s => State.withSources s (shflSrcs u a b) (fun s =>
    .ok (State.results (State.exactSources s (shflSrcs u a b) (State.inRegion s)) (shflSrcs u a b) 8 d.toNat 1
      (fun l => let c := State.shflCell s u pat a b l; [(c.val, c.tag)])
      (fun l => some (if (State.shflCell s u pat a b l).sym != 0 || (State.srcCell s l b.toNat u).sym != 0 then 15 else 0))))) s

/-- The vote of a lane, p(l) of R145. -/
def State.vote (s : State) (u : Bool) (a b : RegNo) (l : Nat) : Bool :=
  State.src s l a.toNat false != State.src s l b.toNat u

/-- A vote (R145): poison of any active lane's va reaches every lane (R117). -/
def State.voteOp (s : State) (u : Bool) (d a b : RegNo) (f : State → Word) : Eff :=
  State.allLanes s [{ src1 a false [] with use := .spread }, src1 b u []] 10 d.toNat
    (fun s => (f s, .i32))

/-- VANY -/
def execVany (u : Bool) (d a b : RegNo) (s : State) : Out :=
  issue (.vany u d a b) (fun s => State.voteOp s u d a b (fun s =>
    boolWord ((Mask.lanes s.cur.mask).any (State.vote s u a b)))) s

/-- VALL -/
def execVall (u : Bool) (d a b : RegNo) (s : State) : Out :=
  issue (.vall u d a b) (fun s => State.voteOp s u d a b (fun s =>
    boolWord ((Mask.lanes s.cur.mask).all (State.vote s u a b)))) s

/-- VBAL -/
def execVbal (u : Bool) (d a b : RegNo) (s : State) : Out :=
  issue (.vbal u d a b) (fun s => State.voteOp s u d a b (fun s =>
    maskOf (fun l => s.cur.mask.getLsbD l && State.vote s u a b l))) s

/-- The values of va over the active lanes, ascending. -/
def State.laneValues (s : State) (a : RegNo) : List Word :=
  (Mask.lanes s.cur.mask).map (fun l => State.src s l a.toNat false)

/-- RADD -/
def execRadd (u : Bool) (d a b : RegNo) (s : State) : Out :=
  issue (.radd u d a b) (fun s =>
    State.laneOp s [{ src1 a false [.i32] with use := .spread }, src1 b u [.i32]] 10 d.toNat 1 (fun s l =>
      [((State.laneValues s a).foldl (fun x y => x + y) 0 + State.src s l b.toNat u, .i32)])) s

/-- A reduction by a choice between two values (R146). -/
def State.reduce (s : State) (d a : RegNo) (f : Word → Word → Word) : Eff :=
  State.allLanes s [{ src1 a false [.i32] with use := .spread }] 10 d.toNat (fun s =>
    (match State.laneValues s a with
      | [] => 0
      | x :: r => r.foldl f x, .i32))

/-- RMIN -/
def execRmin (d a : RegNo) (s : State) : Out := issue (.rmin d a) (fun s => State.reduce s d a minS) s

/-- RMAX -/
def execRmax (d a : RegNo) (s : State) : Out := issue (.rmax d a) (fun s => State.reduce s d a maxS) s

end Sys2Proof.Machine
end

