-- ==== Sys2Proof/Machine/Control.lean ====
section
/-! DEFINITION. Control flow (R147 to R151), state registers (R152 to R154), registers per group (R114, R155), the trap and
region words (R318, R322, R323) and WAITC (R217, R234). -/

namespace Sys2Proof.Machine

/-! ## Branches (R147 to R149) -/

/-- A branch on the contents of a register; a condition in an open region may record a constraint against 0 (R288, R289). -/
def State.branch (s : State) (p : RegNo) (off : BitVec 15) (slot : BitVec 2) (taken : Word → Bool) : Eff :=
  State.withSources s [{ src1 p false [] with use := .consume }] (fun s =>
    let t := (Mask.lanes s.cur.mask).foldl (fun t l =>
      State.constrain t l 1 (State.srcCell s l p.toNat false) RegCell.zero) s
    let target := branchTarget s.cur.wordPc off slot
    .jump (State.updG t (fun g => Group.mapLanes g t.cur.mask (fun l x =>
      { x with lpc := if taken (State.src s l p.toNat false) then target else nextWord s.cur.wordPc }))))

/-- BR -/
def execBr (p : RegNo) (off : BitVec 15) (slot : BitVec 2) (s : State) : Out :=
  issue (.br p off slot) (fun s => State.branch s p off slot (fun v => v != 0)) s

/-- BRZ -/
def execBrz (p : RegNo) (off : BitVec 15) (slot : BitVec 2) (s : State) : Out :=
  issue (.brz p off slot) (fun s => State.branch s p off slot (fun v => v == 0)) s

/-- JMP -/
def execJmp (off : BitVec 15) (slot : BitVec 2) (s : State) : Out :=
  issue (.jmp off slot) (fun s =>
    .jump (State.updG s (fun g => Group.setLpc g s.cur.mask (branchTarget s.cur.wordPc off slot)))) s

/-- CALL -/
def execCall (p : RegNo) (off : BitVec 15) (slot : BitVec 2) (s : State) : Out :=
  issue (.call p off slot) (fun s =>
    let s := State.results s [] 6 p.toNat 1 (fun _ => [(nextWord s.cur.wordPc, .i32)]) (fun _ => none)
    .jump (State.updG s (fun g => Group.setLpc g s.cur.mask (branchTarget s.cur.wordPc off slot)))) s

/-- JR and RET: the target of each active lane from va (R149). -/
def State.jumpReg (s : State) (a : RegNo) (ua : Bool) : Eff :=
  let xs : List Src := [{ reg := a.toNat, uni := ua, tags := [.i32], use := .consume }]
  State.withSources s xs (fun s =>
    let bad := maskOf (fun l => s.cur.mask.getLsbD l && !validLpc (State.src s l a.toNat ua))
    if bad ≠ 0 then .trap s .bounds bad 0
    else
      let t := State.exactSources s xs (State.inRegion s)
      .jump (State.updG t (fun g => Group.mapLanes g s.cur.mask (fun l x => { x with lpc := State.src s l a.toNat ua }))))

/-- JR -/
def execJr (a : RegNo) (ua : Bool) (s : State) : Out := issue (.jr a ua) (fun s => State.jumpReg s a ua) s

/-- RET -/
def execRet (a : RegNo) (ua : Bool) (s : State) : Out := issue (.ret a ua) (fun s => State.jumpReg s a ua) s

/-- NOP -/
def execNop (s : State) : Out := issue .nop (fun s => .ok s) s

/-- YIELD: the group becomes the youngest of its flight (R151) -/
def execYield (s : State) : Out :=
  issue .yield (fun s => .ok { s with g := { s.g with age := s.ageNext }, ageNext := s.ageNext + 1 }) s

/-! ## EXIT (R150) -/

/-- Every counter of the group reads zero. -/
def Group.quiet (g : Group) : Bool := g.lcnt == 0 && g.scnt == 0 && g.acnt == 0 && Group.engines g == 0

/-- A deferred error of CPYG whose command a wait covers that leaves out the last `n` (R231, R262). -/
def Group.covered (g : Group) (n : Nat) (d : Deferred) : Bool :=
  match d with
  | .gather _ _ ord => decide (ord + 1 + n ≤ g.copies)
  | _ => false

/-- The first deferred error of CPYG that such a wait delivers, if there is one (R231). -/
def Group.gatherError (g : Group) (n : Nat) : Option (Cause × DWord) :=
  (g.deferred.find? (Group.covered g n)).bind (fun d => match d with | .gather c a _ => some (c, a) | _ => none)

/-- The deferred error that is delivered is no longer kept. -/
def Group.dropGather (g : Group) (n : Nat) : Group := { g with deferred := g.deferred.eraseP (Group.covered g n) }

/-- The tile of a deferred SHADOW, if there is one (R244). -/
def Group.shadowError (g : Group) : Option Nat :=
  g.deferred.findSome? (fun d => match d with | .shadow k => some k | _ => none)

/-- The final EXIT waits for the counters and the tile operations, then the group has exited; a deferred error is delivered instead (R150, R231). -/
def State.finalExit (s : State) : Eff :=
  if Group.quiet s.g && s.g.mma.isEmpty && !Group.tileMoves s.g then
    let back := fun (g : Group) => { Group.mapLanes g s.cur.mask (fun _ l => { l with mode := .live }) with exiting := false }
    match Group.gatherError s.g 0, Group.shadowError s.g with
    | some (c, a), _ => .trap (State.updG s (fun g => back (Group.dropGather g 0))) c s.cur.mask a
    | none, some k => .trap (State.updG s (fun g => back { g with deferred := g.deferred.erase (.shadow k) })) .shadow
        s.cur.mask (BitVec.ofNat 64 k)
    | none, none => .jump (State.updG s (fun g => { g with exiting := false, hasExited := true, wait := none }))
  else
    .park (State.updG s (fun g =>
      { g with exiting := true,
               wait := some { instr := .exit, mask := s.cur.mask, chainPc := s.cur.chainPc, wordPc := s.cur.wordPc,
                              phase := 1, aux := 0, reason := .cntwait, sat := false, fresh := s.cur.fresh,
                              rest := [], goto := [], srcs := [], plain := [] } })) .cntwait

/-- EXIT -/
def execExit (s : State) : Out :=
  issue .exit (fun s => State.outside s (fun s =>
    if State.phase s .exit = 1 then State.finalExit s
    else
      let s := State.updG s (fun g => Group.mapLanes g s.cur.mask (fun _ l =>
        { l with mode := .exited, lpc := s.cur.chainPc }))
      if Group.allExited s.g then State.finalExit (State.endRegion s) else .jump s)) s

/-! ## State registers (R152 to R154) -/

/-- Index of a lane within level k (R68). -/
def levelIndexOf (g : Group) (lane k : Nat) : Nat :=
  if k ≥ g.lr.nlev then 0
  else
    let l := (g.blk * LaunchRec.groupsPerBlock g.lr + g.grp) * 32 + lane
    let p := ((LaunchRec.used g.lr).take k).foldl (fun n w => n * levelCount w) 1
    l / p % levelCount (g.lr.levels.getD k 0)

/-- A pair as two I32 words. -/
def pairWords (n : Nat) : List (Word × Tag) := [(BitVec.ofNat 32 n, .i32), (BitVec.ofNat 32 (n / 4294967296), .i32)]

/-- What RDS writes for a state number in a lane (R152, R153). -/
def State.readState (s : State) (n lane : Nat) : List (Word × Tag) :=
  let g := s.g
  let one := fun (v : Nat) => [((BitVec.ofNat 32 v : Word), Tag.i32)]
  if n = 0x000 then one lane
  else if n = 0x001 then one (lane / 8)
  else if n = 0x002 then one g.grp
  else if n = 0x003 then one g.blk
  else if n = 0x004 then one (Group.gang g)
  else if n = 0x005 then pairWords g.seq
  else if n = 0x006 then one (Role.code g.role)
  else if n < 0x010 then one (levelIndexOf g lane (n - 8))
  else if n = 0x010 then pairWords s.clk
  else if n = 0x011 then one g.hall
  else if n = 0x012 then one (g.hall / Config.hallsPerGallery)
  else if n = 0x013 then one (dieOfHall g.hall)
  else if n = 0x014 then one Config.pkgId.toNat
  else if n = 0x015 then pairWords (match State.task? s g.ctx g.seq with | some t => t.keylo.toNat | none => 0)
  else if n = 0x018 then [(g.fpflags, .i32)]
  else if n = 0x019 then one g.cbs.toNat
  else if n = 0x020 then [(g.trapc, .i32)]
  else if n = 0x021 then [(lo32 g.trapa, .addr), (hi32 g.trapa, .addr)]
  else if n = 0x022 then [(g.trapm, .i32)]
  else if n = 0x023 then [(g.trappc, .i32)]
  else if n = 0x040 then [(s.cur.wordPc, .i32)]
  else [(g.stalls.getD (n - 0x030) 0, .i32)]

/-- RDS; of FPFLAGS it waits for earlier flags (R183) -/
def execRds (d : RegNo) (imm : BitVec 10) (s : State) : Out :=
  issue (.rds d imm) (fun s =>
    if imm.toNat = 0x018 ∧ State.flagsPending s then .stall .regdep []
    else
      .ok (State.results s [] 6 d.toNat (if pairState imm.toNat then 2 else 1)
        (fun l => State.readState s imm.toNat l) (fun _ => none))) s

/-- WRS of lpc: each active lane's lpc from its va (R107, R154). -/
def State.writeLpc (s : State) (a : RegNo) : Eff :=
  let xs : List Src := [{ src1 a false [.i32] with use := .consume }]
  State.withSources s xs (fun s =>
    let bad := maskOf (fun l => s.cur.mask.getLsbD l && !validLpc (State.src s l a.toNat false))
    if bad ≠ 0 then .trap s .bounds bad 0
    else
      let t := State.exactSources s xs (State.inRegion s)
      .jump (State.updG t (fun g => { Group.mapLanes g s.cur.mask (fun l x =>
        { x with lpc := State.src s l a.toNat false }) with syncOwed := some 6 })))

/-- WRS; FPFLAGS, FPMODE and TRAPPC take the lowest active lane's value (R154, R181 to R183) -/
def execWrs (a : RegNo) (imm : BitVec 10) (s : State) : Out :=
  issue (.wrs a imm) (fun s =>
    if imm.toNat = 0x040 then State.writeLpc s a
    else if imm.toNat = 0x023 ∧ s.g.trapMode = false then .trap s .illegal s.cur.mask 0
    else
      let xs : List Src := [{ src1 a false [.i32] with use := .lowest }]
      State.withSources s xs (fun s =>
        let v := State.src s (Mask.lowest s.cur.mask) a.toNat false
        let s := State.exactSources s xs (State.inRegion s)
        if imm.toNat = 0x018 then
          if v.toNat ≥ 32 then .trap s .illegal s.cur.mask 0
          else if State.flagsPending s then .stall .regdep []
          else .ok (State.updG s (fun g => { g with fpflags := v }))
        else if imm.toNat = 0x019 then
          if v.toNat ≥ 8 then .trap s .illegal s.cur.mask 0
          else .ok (State.updG s (fun g => { g with cbs := BitVec.ofNat 3 v.toNat }))
        else .ok (State.updG s (fun g => { g with trappc := v })))) s

/-! ## Registers per group (R114, R155) -/

/-- The pool of the issuing group's block on its flight. -/
def State.pool (s : State) : List Nat :=
  match State.block? s s.g.ctx s.g.seq s.g.blk with
  | some b => (lookup b.pools (s.g.slot / 8)).getD []
  | none => []

/-- The pool changed. -/
def State.setPool (s : State) (p : List Nat) : State :=
  State.updBlock s s.g.ctx s.g.seq s.g.blk (fun b => { b with pools := insert b.pools (s.g.slot / 8) p })

/-- Registers of some blocks read 0 with tag RAW. -/
def Group.zeroBlocks (g : Group) (from_ to_ : Nat) : Group :=
  { g with
    regs := ((List.range g.regs.length).zip g.regs).map (fun p =>
      if 8 * from_ ≤ p.1 ∧ p.1 < 8 * to_ then List.replicate 32 RegCell.zero else p.2) }

/-- Some register of the released blocks still has a write under way (R155). -/
def State.blocksBusy (s : State) (from_ : Nat) : Bool :=
  (Group.pendingRegs s.g).any (fun n => decide (8 * from_ ≤ n)) ||
  s.g.landings.any (fun x => decide (8 * from_ ≤ x.reg) && decide (s.clk < x.at_))

/-- REGREL: the highest k blocks join the block's pool on the flight once nothing is to land in them -/
def execRegrel (n : BitVec 4) (s : State) : Out :=
  issue (.regrel n) (fun s => State.outside s (fun s =>
    let k := n.toNat + 1
    if s.g.regn < k + 1 then .trap s .regalloc s.cur.mask 0
    else
      let s := if s.g.wait.isSome then s else State.endRegion s
      let m := s.g.regn - k
      if State.blocksBusy s m then .park (State.park s (.regrel n) 1 0 .regdep) .regdep
      else
        let s := State.unpark s
        let freed := s.g.blockMap.drop m
        let s := State.updG s (fun g =>
          { Group.zeroBlocks (Group.landRegs g (fun r => decide (8 * m ≤ r))) m g.regn with
            regn := m, blockMap := g.blockMap.take m })
        .ok (State.setPool s (State.pool s ++ freed)))) s

/-- An older claim waits on the same flight (R114). -/
def State.olderClaim (s : State) : Bool :=
  let mine := match s.g.wait with | some w => w.aux.toNat | none => s.clk
  s.groups.any (fun g => g.hall == s.g.hall && g.slot / 8 == s.g.slot / 8 &&
    match g.wait with
    | some w => (match w.instr with | .regclm _ => true | _ => false) &&
        (decide (w.aux.toNat < mine) || (w.aux.toNat == mine && decide (g.slot < s.g.slot)))
    | none => false)

/-- REGCLM: k blocks of the pool are appended; while the pool is short the group waits, oldest claim first -/
def execRegclm (n : BitVec 4) (s : State) : Out :=
  issue (.regclm n) (fun s => State.outside s (fun s =>
    let k := n.toNat + 1
    if s.g.regn + k > 16 then .trap s .regalloc s.cur.mask 0
    else
      let s := if s.g.wait.isSome then s else State.endRegion s
      if (State.pool s).length < k ∨ State.olderClaim s then
        .park (State.park s (.regclm n) 1 (match s.g.wait with | some w => w.aux | none => BitVec.ofNat 64 s.clk) .regdep)
          .regdep
      else
        let s := State.unpark s
        let got := (State.pool s).take k
        let rest := (State.pool s).drop k
        let s := State.updG s (fun g =>
          { Group.zeroBlocks g g.regn (g.regn + k) with regn := g.regn + k, blockMap := g.blockMap ++ got })
        .ok (State.setPool s rest))) s

/-! ## Regions and traps (R318, R322, R323) -/

/-- IDEM -/
def execIdem (s : State) : Out := issue .idem (fun s => State.outside s (fun s => .ok (State.endRegion s))) s

/-- The wait of TRET, TABN and TKILL: the handler's region ends, then lcnt, scnt and acnt read zero (R318). -/
def State.handlerEnd (s : State) (i : Instr) (body : State → TrapRec → Eff) : Eff :=
  match s.g.trapRec with
  | none => .trap s .illegal s.cur.mask 0
  | some r =>
    if s.g.trapMode = false then .trap s .illegal s.cur.mask 0
    else
      let s := if s.g.wait.isSome then s else State.endRegion s
      if s.g.lcnt = 0 ∧ s.g.scnt = 0 ∧ s.g.acnt = 0 then body (State.unpark s) r
      else .park (State.park s i 1 0 .cntwait) .cntwait

/-- The handler is left: the group's own region start record stands. -/
def State.leave (s : State) (g : Group) : State := { s with g := g, cur := { s.cur with fresh := false } }

/-- TRET -/
def execTret (s : State) : Out :=
  issue .tret (fun s => State.handlerEnd s .tret (fun s r =>
    if validLpc s.g.trappc then .jump (State.leave s (Group.returnTrap s.g r)) else .trap s .bounds s.cur.mask 0)) s

/-- TABN -/
def execTabn (s : State) : Out :=
  issue .tabn (fun s => State.handlerEnd s .tabn (fun s r => .jump (State.leave s (Group.abandonTrap s.g r)))) s

/-- TKILL -/
def execTkill (s : State) : Out :=
  issue .tkill (fun s => State.handlerEnd s .tkill (fun s _ =>
    .jump (State.failTask { s with cur := { s.cur with fresh := false } } s.g.ctx s.g.seq s.g.trapc.toNat))) s

/-- TRAP: TRAPI after the chain -/
def execTrap (imm : BitVec 10) (s : State) : Out :=
  issue (.trap imm) (fun s => .after s .trapi (BitVec.zeroExtend 64 imm)) s

/-- The debug right of the group's context (R364). -/
def State.debugRight (s : State) : Bool := match s.ctx? s.g.ctx with | some x => x.dbg.right | none => false

/-- BRK: BREAK after the chain, or a halt for the debugger (R314, R323) -/
def execBrk (imm : BitVec 10) (s : State) : Out :=
  issue (.brk imm) (fun s =>
    if State.debugRight s then .jump (State.haltHere (State.advance s) 0x0D) else .after s .brk (BitVec.zeroExtend 64 imm)) s

/-! ## WAITC (R217, R234) -/

/-- A counter of WAITC. -/
def Group.counter (g : Group) (c : BitVec 2) : Nat :=
  match c.toNat with
  | 0 => g.lcnt
  | 1 => g.scnt
  | 2 => g.acnt
  | _ => Group.engines g

/-- WAITC: on scnt it first ends the region; on ecnt it delivers a deferred error of CPYG (R231) -/
def execWaitc (ctr : BitVec 2) (n : BitVec 8) (s : State) : Out :=
  issue (.waitc ctr n) (fun s => State.outside s (fun s =>
    let s := if ctr.toNat = 1 ∧ s.g.wait.isNone then State.endRegion s else s
    if Group.counter s.g ctr ≤ n.toNat then
      match (if ctr.toNat = 3 then Group.gatherError s.g n.toNat else none) with
      | some (c, a) => .trap (State.updG s (fun g => Group.dropGather g n.toNat)) c s.cur.mask a
      | none =>
        -- the next chain issues no earlier than the cycle after the counter reached n (R217)
        let later := fun (g : Group) => { g with readyAt := max g.readyAt (s.clk + 1) }
        .ok (if s.g.wait.isSome then State.unpark (State.updG s later) else s)
    else .park (State.park s (.waitc ctr n) 1 0 .cntwait) .cntwait)) s

end Sys2Proof.Machine
end

