-- ==== Sys2Proof/Machine/Observe.lean ====
section
/-! DEFINITION. Instruction trace (R368, R369) and the sampled state of a group (R366, R367). -/

namespace Sys2Proof.Machine

/-! ## The trace ring -/

/-- Bytes of the trace ring (R363). -/
def Debug.ringSize (d : Debug) : Nat := 2 ^ (d.trLog2 + 12)

/-- Write bytes into a ring from a position on, wrapping at its size. -/
def State.ringWrite (s : State) (c base size at_ : Nat) (bs : List Byte) : State :=
  let p := at_ % size
  let n := size - p
  if bs.length ≤ n then State.writeVirt s c (base + p) bs
  else State.writeVirt (State.writeVirt s c (base + p) (bs.take n)) c base (bs.drop n)

/-- The header of a trace record (R368). -/
def traceHeader (g : Group) (type flags len : Nat) (w1 : Word) : List Byte :=
  leBytes 8 (w1.toNat * 2 ^ 32 + len * 2 ^ 22 + g.hall * 2 ^ 13 + g.slot * 2 ^ 8 + flags * 16 + type)

/-- Append a record; a record that finds the ring full is dropped and a SYNC with reason 7 is owed (R369). -/
def State.traceRecord (s : State) (bs : List Byte) : State :=
  match s.ctx? s.g.ctx with
  | none => s
  | some x =>
    let d := x.dbg
    if (d.trHead - d.trTail).toNat + bs.length > Debug.ringSize d then
      State.updG (State.updDebug s s.g.ctx (fun d => { d with trDrop := satInc d.trDrop })) (fun g => { g with syncOwed := some 7 })
    else
      let s := State.ringWrite s s.g.ctx (vaOf d.trBase) (Debug.ringSize d) d.trHead.toNat bs
      State.updDebug s s.g.ctx (fun d => { d with trHead := d.trHead + BitVec.ofNat 64 bs.length })

/-- The code of a lane state (R369). -/
def LaneMode.code : LaneMode → Nat
  | .live => 0 | .parked => 1 | .exited => 2

/-- The lane states of a group, 2 bits a lane from lane 0 up (R369). -/
def Group.laneStates (g : Group) : Nat :=
  ((List.range 32).map (fun l => LaneMode.code (Group.lane g l).mode * 4 ^ l)).foldl (fun a b => a + b) 0

/-- A SYNC record (R369). -/
def State.syncRecord (s : State) (reason : Nat) : List Byte :=
  let (a, m) := Group.reported s.g
  traceHeader s.g 1 reason 21 a ++ leBytes 4 m.toNat ++ leBytes 4 0 ++ leBytes 8 s.g.seq ++ leBytes 8 s.clk ++
    leBytes 8 (Group.laneStates s.g) ++ (lanesOf.flatMap (fun l => leBytes 4 (Group.lane s.g l).lpc.toNat))

/-- The SYNC owed before the next chain of the group at the issue port (R369). -/
def State.traceSync (s : State) : State :=
  if !s.g.traceOn then State.updG s (fun g => { g with syncOwed := none })
  else
    match (match s.g.syncOwed with | some r => some r | none => if s.g.sinceSync ≥ 256 then some 1 else none) with
    | none => s
    | some r =>
      let t := State.traceRecord { s with g := { s.g with syncOwed := none } } (State.syncRecord s r)
      State.updG t (fun g => { g with sinceSync := 0 })

/-- The lanes of a mask that took a branch, by its condition (R368). -/
def Group.taken (g : Group) (m : Mask) (p : RegNo) (nonzero : Bool) : Mask :=
  maskOf (fun l => m.getLsbD l && ((Group.reg g l p.toNat != 0) == nonzero))

/-- The record of a chain that ended in a control-flow word: `g` is the group before it, `m` its mask, `pc` the word's address
(R368). -/
def State.traceBranch (s : State) (g : Group) (m : Mask) (pc : Word) (i : Instr) : State :=
  if !s.g.traceOn then s
  else
    let branch := fun (w : Mask) =>
      if w ≠ 0 ∧ s.g.fullOwed then
        State.updG (State.traceRecord s (traceHeader s.g 2 1 2 w ++ leBytes 4 pc.toNat ++ leBytes 4 0))
          (fun g => { g with fullOwed := false })
      else State.traceRecord s (traceHeader s.g 2 0 1 w)
    let indirect := fun (a : RegNo) (ua : Bool) (ret : Nat) =>
      let tgt := fun l => Group.reg g (srcLane ua l) a.toNat
      let ts := ((Mask.lanes m).map tgt).eraseDups
      State.traceRecord s (traceHeader s.g 3 ret (1 + ts.length) (BitVec.ofNat 32 ts.length) ++
        ts.flatMap (fun t => leBytes 4 t.toNat ++ leBytes 4 (maskOf (fun l => m.getLsbD l && tgt l == t)).toNat))
    match i with
    | .br p _ _ => branch (Group.taken g m p true)
    | .brz p _ _ => branch (Group.taken g m p false)
    | .jr a ua => indirect a ua 0
    | .ret a ua => indirect a ua 1
    | .rabt => State.traceRecord s (traceHeader s.g 4 0 1 m)
    | .rcmt => State.traceRecord s (traceHeader s.g 4 0 1
        (maskOf (fun l => m.getLsbD l && decide (bits (Group.lane s.g l).region.status.toNat 0 8 ≥ 4))))
    | _ => s

/-! ## Replay (R370) -/

/-- The group of GROUP entry `n` of a log, counted from 0: its task, block and place in the block (R370). -/
def State.replayEntry (s : State) (c : Nat) (x : Debug) (n : Nat) : Option (Nat × Nat × Nat) :=
  let word := fun (i k : Nat) => State.numVirt s c (vaOf x.rpBase + 16 * i + 4 * k) 4
  ((List.range (x.rpSize.toNat / 16)).filter (fun i => word i 0 % 16 == 1))[n]?.map (fun i =>
    (word i 2 + 4294967296 * word i 3, word i 1, bits (word i 0) 4 16))

/-- A block of a task that is over: it has retired, or its task no longer runs. -/
def State.blockOver (s : State) (c seq blk : Nat) : Bool :=
  s.tasks.any (fun t => t.ctx == c && t.seq == seq &&
    (t.status matches .retired | .failed | .rejected | .retracted || t.chainsSum.any (fun p => p.1 == blk)))

/-- A group has no access left of the chain it issued at clock `k`; `cs` are copy-engine commands. -/
def Group.performed (g : Group) (cs : List Cmd) (k : Nat) : Bool :=
  g.outst.all (fun o => o.lc != k) && g.sbuf.all (fun o => o.lc != k) && g.held.all (fun o => o.lc != k) &&
    cs.all (fun c => !(c.ctx == g.ctx && c.seq == g.seq && c.blk == g.blk && c.grp == g.grp && c.lc == k))

/-- The chain that group `n` of the log issued at clock `k` is behind: the group's clock has passed it and its accesses are
performed, be the group resident, saved or gone (R370). -/
def State.replayPassed (s : State) (c : Nat) (x : Debug) (n k : Nat) : Bool :=
  let resident := (State.allGroups s).map (fun w => (w, s.halls.flatMap (fun h => h.2.cmds)))
  let saved := s.saved.flatMap (fun i => i.groups.map (fun w => (w, i.cmds)))
  match (resident ++ saved).find? (fun w => w.1.ctx == c && w.1.groupNo == n) with
  | some (w, cs) => decide (w.lc > k) && Group.performed w cs k
  | none =>
    match State.replayEntry s c x n with
    | some (seq, blk, _) => State.blockOver s c seq blk
    | none => false

/-- The replay edges of the group's next chain that are not yet satisfied (R370). -/
def State.replayWaits (s : State) (g : Group) : Bool :=
  match s.ctx? g.ctx with
  | none => false
  | some x =>
    if x.dbg.rpMode != 2 then false
    else
      let word := fun (i k : Nat) => State.numVirt s g.ctx (vaOf x.dbg.rpBase + 16 * i + 4 * k) 4
      (List.range (x.dbg.rpSize.toNat / 16)).any (fun i =>
        word i 0 % 16 == 2 && word i 2 % 2 ^ 24 == g.groupNo && word i 3 == g.lc &&
        !State.replayPassed s g.ctx x.dbg (bits (word i 0) 4 24) (word i 1))

/-! ## Samples (R366, R367) -/

/-- A sample record (R367, R376). -/
def sampleRecord (g : Group) (queue st stamp : Nat) : List Byte :=
  let a := if st = 17 then 0 else if st = 16 then g.lastPc.toNat else (Group.reported g).1.toNat
  leBytes 4 a ++ leBytes 4 (g.hall * 2 ^ 23 + g.slot * 2 ^ 18 + queue * 64 + st) ++
    leBytes 8 (stamp % 65536 * 2 ^ 48 + g.seq % 2 ^ 48)

/-- A group's slot is occupied: from its first issue opportunity on (R366). -/
def State.occupied (s : State) (c : Nat) (g : Group) : Bool :=
  g.ctx == c && g.started && (match State.gang? s g.ctx g.seq (Group.gang g) with
    | some y => decide (y.boundAt < s.clk)
    | none => true)

/-- STATE of a sample: ISSUED in an issue cycle, EXITED, or the stall reason that the cycle counts (R366). -/
def State.sampled (s : State) (g : Group) : Nat :=
  if g.lastIssue.isSome && decide (s.clk < g.busyUntil) then 16
  else if Group.allExited g then 17
  else Reason.code (g.counting.getD .notsel)

/-- Sampling is due for a context in this cycle. -/
def State.sampleDue (s : State) (d : Debug) : Bool :=
  d.smpEn && decide (s.clk > d.smpSince) && (s.clk - d.smpSince) % d.smpN == 0

/-- A sample record goes to the ring, or is lost (R366, R377). -/
def State.putSample (s : State) (c : Nat) (d : Debug) (bs : List Byte) : State :=
  let n := 2 ^ (d.smpLog2 + 4)
  let va := vaOf d.smpBase + 16 * (d.smpHead.toNat % n)
  if (d.smpHead - d.smpSeen).toNat = n ∨ State.canAccess s c true va 16 = false then
    State.updDebug s c (fun d => { d with smpDrop := satInc d.smpDrop })
  else State.updDebug (State.writeVirt s c va bs) c (fun d => { d with smpHead := d.smpHead + 1 })

end Sys2Proof.Machine
end

