-- ==== Sys2Proof/Machine/Placement.lean ====
section
/-! DEFINITION. Whether the newel firmware can place a dispatch unit (R34 to R36, R52, R54, R67, R69, R71, R336, R339): the room that
the halls have, and a first fit over galleries, halls and their files. The firmware's own search is not described: a unit can be
placed when the first fit places it (log entry 21). -/

namespace Sys2Proof.Machine

/-! ## Halls that may be used -/

/-- A hall is counted as retired (R339). -/
def State.hallRetired (s : State) (h : Nat) : Bool :=
  let gone := fun (u : Nat) => (State.unit s u).st == 2
  (List.range 4).any (fun f => gone (flightUnit h f)) || (List.range 16).any (fun b => gone (bankUnit h b)) ||
  decide (((List.range 4).filter (fun a => gone (arrayUnit h a))).length ≥ 2)

/-- The lockstep die mask of a context, 0 for an ordinary one (R71). -/
def State.lockMask (s : State) (c : Nat) : BitVec 4 := match s.ctx? c with | some x => x.lockMask | none => 0

/-- The newel may bind a context's block to a hall: in service, and by the lockstep masks (R22, R71, R336, R339). -/
def State.hallOpen (s : State) (c h : Nat) : Bool :=
  decide (h < Config.halls) && !(State.hall s h).fenced && !State.hallRetired s h &&
  (State.lockMask s c == 0 || ((State.lockMask s c).getLsbD (dieOfHall h) && s.pkg.paired)) &&
  s.ctxs.all (fun x => x.1 == c || !x.2.lockMask.getLsbD (dieOfHall h))

/-! ## Levels that must lie in one die (R34) -/

/-- Blocks of an instance of the widest level whose DOMAIN is die, 0 where there is none. -/
def LaunchRec.dieBlocks (r : LaunchRec) : Nat :=
  if (LaunchRec.used r).any (fun w => levelDomain w == 3) then LaunchRec.product r (fun d => d == 2 || d == 3) else 0

/-- The die of an instance: that of a resident block of it, or of one that has retired. `gone` are gangs that are not counted. -/
def State.homeDie (s : State) (t : Task) (inst : Nat) (gone : List (Nat × Nat × Nat)) : Option Nat :=
  let n := LaunchRec.dieBlocks t.lr
  match s.blocks.find? (fun b => b.ctx == t.ctx && b.seq == t.seq && b.blk / n == inst &&
      !gone.contains (t.ctx, t.seq, LaunchRec.gangOf t.lr b.blk)) with
  | some b => some (dieOfHall b.hall)
  | none => lookup t.homes inst

/-- A block may stand in a hall, by the die of its instance. -/
def State.homeOk (s : State) (t : Task) (blk h : Nat) : Bool :=
  let n := LaunchRec.dieBlocks t.lr
  n == 0 || (match State.homeDie s t (blk / n) [] with | some d => d == dieOfHall h | none => true)

/-! ## The room of a hall -/

/-- What of a hall is taken: slots, register blocks (flight, first, number), accumulator tiles and scratchpad tiles by runs. -/
structure Room where
  slots : List Nat
  regs : List (Nat × Nat × Nat)
  acc : List (Nat × Nat)
  tiles : List (Nat × Nat)
  deriving DecidableEq, Repr, Inhabited

/-- What stands in a hall, but for some gangs. -/
def State.roomOf (s : State) (gone : List (Nat × Nat × Nat)) (h : Nat) : Room :=
  let gs := (State.allGroups s).filter (fun g => g.hall == h && !gone.contains (g.ctx, g.seq, Group.gang g))
  let bs := s.blocks.filter (fun b => b.hall == h &&
    !gone.contains (b.ctx, b.seq, LaunchRec.gangOf (State.launchOf s b.ctx b.seq) b.blk))
  { slots := gs.map (fun g => g.slot),
    regs := gs.flatMap (fun g => g.blockMap.map (fun x => (g.slot / 8, x, 1))) ++
      bs.flatMap (fun b => b.pools.flatMap (fun p => p.2.map (fun x => (p.1, x, 1)))),
    acc := gs.map (fun g => (g.accBase, g.accN)),
    tiles := bs.flatMap (fun b =>
      let l := State.launchOf s b.ctx b.seq
      [(b.scrBase, l.scratch / 1024), (b.stashBase, l.stash / 1024)]) }

/-- The lowest run of a length that overlaps no run taken. -/
def firstRun (limit n : Nat) (used : List (Nat × Nat)) : Option Nat :=
  if n = 0 then some 0
  else
    let ok := fun (b : Nat) => decide (b + n ≤ limit) && used.all (fun u => u.2 == 0 || !overlaps b n u.1 u.2)
    ((0 :: used.map (fun u => u.1 + u.2)).filter ok).foldl (fun (m : Option Nat) b => match m with
      | none => some b
      | some x => some (min x b)) none

/-- What a group needs: its index in the block, register blocks, accumulator tiles. -/
structure GroupNeed where
  grp : Nat
  regs : Nat
  acc : Nat
  deriving DecidableEq, Repr, Inhabited

/-- What a block needs: the hall it stands in already, the groups to be bound, its scratchpad and stash tiles, register blocks for
its pools. -/
structure BlockNeed where
  hall : Option Nat
  groups : List GroupNeed
  scratch : Nat
  stash : Nat
  pools : List (Nat × Nat)
  deriving DecidableEq, Repr, Inhabited

/-- A group takes a slot of its flight, a run of registers and one of accumulator tiles. -/
def Room.addGroup (x : Room) (n : GroupNeed) : Option Room :=
  let f := n.grp % 4
  match ((List.range 8).map (fun k => 8 * f + k)).find? (fun k => !x.slots.contains k),
      firstRun 64 n.regs ((x.regs.filter (fun r => r.1 == f)).map (fun r => r.2)), firstRun 256 n.acc x.acc with
  | some k, some r, some a =>
    some { x with slots := k :: x.slots, regs := (f, r, n.regs) :: x.regs, acc := (a, n.acc) :: x.acc }
  | _, _, _ => none

/-- A pool takes any free register blocks of its flight. -/
def Room.addPool (x : Room) (p : Nat × Nat) : Option Room :=
  let free := (List.range 64).filter (fun b => x.regs.all (fun r => r.1 != p.1 || decide (b < r.2.1) || decide (r.2.1 + r.2.2 ≤ b)))
  if p.2 ≤ free.length then some { x with regs := (free.take p.2).map (fun b => (p.1, b, 1)) ++ x.regs } else none

/-- A run of scratchpad tiles is taken. -/
def Room.addTiles (x : Room) (n : Nat) : Option Room :=
  (firstRun 512 n x.tiles).map (fun b => { x with tiles := (b, n) :: x.tiles })

/-- A block finds its place in a hall. -/
def Room.addBlock (x : Room) (n : BlockNeed) : Option Room := do
  let x ← Room.addTiles x n.scratch
  let x ← Room.addTiles x n.stash
  let x ← n.groups.foldlM Room.addGroup x
  n.pools.foldlM Room.addPool x

/-! ## Placing gangs -/

/-- A gang to be placed: its task and the needs of its blocks. -/
structure GangNeed where
  task : Task
  idx : Nat
  blocks : List BlockNeed
  deriving DecidableEq, Repr, Inhabited

/-- A placement in progress: the gangs that are not counted, the halls in which something has been placed, the dies given to
instances. -/
structure Plan where
  gone : List (Nat × Nat × Nat)
  rooms : List (Nat × Room)
  homes : List ((Nat × Nat × Nat) × Nat)
  deriving DecidableEq, Repr, Inhabited

/-- The room of a hall in a plan. -/
def State.roomAt (s : State) (p : Plan) (h : Nat) : Room := (lookup p.rooms h).getD (State.roomOf s p.gone h)

/-- The block index of a gang's first block over the blocks of an instance: the gang's instance, with its task. -/
def GangNeed.inst (n : GangNeed) : Nat × Nat × Nat :=
  (n.task.ctx, n.task.seq, n.idx * LaunchRec.blocksPerGang n.task.lr / LaunchRec.dieBlocks n.task.lr)

/-- The blocks of a gang in the halls of one gallery, each in a hall of its own (R69); those that stand already stay. -/
def State.placeIn (s : State) (p : Plan) (c gallery : Nat) (ns : List BlockNeed) : Option Plan :=
  let halls := (List.range Config.hallsPerGallery).map (fun k => Config.hallsPerGallery * gallery + k)
  let fixed := ns.filterMap (fun (n : BlockNeed) => n.hall)
  let out : Option (Plan × List Nat) := ns.foldlM (fun (x : Plan × List Nat) (n : BlockNeed) =>
    let try_ := match n.hall with
      | some h => [h]
      | none => halls.filter (fun h => !x.2.contains h && State.hallOpen s c h)
    try_.findSome? (fun h => (Room.addBlock (State.roomAt s x.1 h) n).map (fun r =>
      ({ x.1 with rooms := insert x.1.rooms h r }, h :: x.2)))) (p, fixed)
  out.map (fun x => x.1)

/-- A gang finds a gallery on one of some dies. -/
def State.placeGang (s : State) (dies : List Nat) (p : Plan) (n : GangNeed) : Option Plan :=
  let perDie := Config.hallsPerDie / Config.hallsPerGallery
  let all := match n.blocks.findSome? (fun b => b.hall) with
    | some h => [h / Config.hallsPerGallery]
    | none => dies.flatMap (fun d => (List.range perDie).map (fun k => perDie * d + k))
  all.findSome? (fun k => State.placeIn s p n.task.ctx k n.blocks)

/-- The dies on which an instance may stand. -/
def State.diesFor (s : State) (p : Plan) (n : GangNeed) : List Nat :=
  if LaunchRec.dieBlocks n.task.lr = 0 then List.range Config.dies
  else match p.homes.find? (fun x => x.1 == GangNeed.inst n) with
    | some x => [x.2]
    | none => match State.homeDie s n.task (GangNeed.inst n).2.2 p.gone with
      | some d => [d]
      | none => List.range Config.dies

/-- The gangs of one instance of a level whose DOMAIN is die go to one die, the lowest that takes them all; others go each where it
fits. -/
def State.placeSet (s : State) (p : Plan) (ns : List GangNeed) : Option Plan :=
  match ns with
  | [] => some p
  | n :: _ =>
    if LaunchRec.dieBlocks n.task.lr = 0 then ns.foldlM (State.placeGang s (List.range Config.dies)) p
    else (State.diesFor s p n).findSome? (fun d =>
      (ns.foldlM (State.placeGang s [d]) p).map (fun q => { q with homes := (GangNeed.inst n, d) :: q.homes }))

/-- Gangs by the instance of a level whose DOMAIN is die. -/
def bySets (ns : List GangNeed) : List (List GangNeed) :=
  ns.foldl (fun (r : List (List GangNeed)) n =>
    match r.getLast? with
    | some (m :: ms) =>
      if LaunchRec.dieBlocks n.task.lr != 0 && GangNeed.inst m == GangNeed.inst n then r.dropLast ++ [(m :: ms) ++ [n]] else r ++ [[n]]
    | _ => r ++ [[n]]) []

/-! ## What is to be placed -/

/-- The needs of a block of a launch none of which stands yet. -/
def LaunchRec.blockNeed (r : LaunchRec) : BlockNeed :=
  { hall := none, groups := (List.range (LaunchRec.groupsPerBlock r)).map (fun g => { grp := g, regs := r.regs / 8, acc := r.acc }),
    scratch := r.scratch / 1024, stash := r.stash / 1024, pools := [] }

/-- A gang of a task, as far as it is not bound. -/
def State.gangNeed (s : State) (gone : List (Nat × Nat × Nat)) (t : Task) (idx : Nat) : GangNeed :=
  let b := LaunchRec.blocksPerGang t.lr
  { task := t, idx := idx, blocks := (List.range b).map (fun j =>
      let n := LaunchRec.blockNeed t.lr
      match State.block? s t.ctx t.seq (idx * b + j) with
      | some x =>
        if gone.contains (t.ctx, t.seq, idx) then n
        else { n with hall := some x.hall, scratch := 0, stash := 0,
                      groups := n.groups.filter (fun g => (State.member? s t.ctx t.seq (idx * b + j) g.grp).isNone) }
      | none => n) }

/-- The gang of an image, with the registers and pools it held (R113). -/
def imageNeed (t : Task) (i : Image) : GangNeed :=
  { task := t, idx := i.gang.idx, blocks := i.blocks.map (fun b =>
      { LaunchRec.blockNeed t.lr with
        groups := (i.groups.filter (fun g => g.blk == b.blk)).map (fun g => { grp := g.grp, regs := g.regn, acc := g.accN }),
        pools := b.pools.map (fun p => (p.1, p.2.length)) }) }

/-- Gangs that are dispatched and not wholly bound, and images that are to be restored: their room is spoken for. -/
def State.promised (s : State) (gone : List (Nat × Nat × Nat)) : List GangNeed :=
  (s.gangs.filter (fun g => decide (g.bound < g.groups) && !g.stopping && !gone.contains (g.ctx, g.seq, g.idx))).filterMap (fun g =>
    (State.task? s g.ctx g.seq).map (fun t => State.gangNeed s gone t g.idx)) ++
  (s.saved.filter (fun i => i.go)).filterMap (fun i => (State.task? s i.gang.ctx i.gang.seq).map (fun t => imageNeed t i))

/-- A unit can be placed beside all that is promised room, were some gangs gone. -/
def State.placeable (s : State) (gone : List (Nat × Nat × Nat)) (unit : List GangNeed) : Bool :=
  let p := (State.promised s gone).foldl (fun p n => (State.placeSet s p [n]).getD p) { gone := gone, rooms := [], homes := [] }
  ((bySets unit).foldlM (State.placeSet s) p).isSome

end Sys2Proof.Machine
end

