-- ==== Sys2Proof/Machine/Propagate.lean ====
section
/-! DEFINITION. Dependence traces under software's control: PROP, TRCTL, TKEY, the answer and the completion of a propagation,
the starts of stale tasks, relabelling (R343, R347, R350 to R358). -/

namespace Sys2Proof.Machine

/-! ## PROP (R352) -/

/-- The first checks of PROP and TRCTL: ILLEGAL in a region or a traced launch, the sources, ALIGN; `k` gets the arena of the
lowest active lane. -/
def State.arenaWord (s : State) (a : RegNo) (more : List Src) (k : State → Nat → DWord → Eff) : Eff :=
  State.outside s (fun s =>
    if State.inTracedLaunch s s.g.ctx s.g.seq then .trap s .illegal s.cur.mask 0
    else State.withSources s (srcPair a.toNat false addrTags .lowest ++ more) (fun s =>
      let l0 := Mask.lowest s.cur.mask
      let arena := State.src64 s l0 a.toNat false
      if arena.toNat % 65536 ≠ 0 then .trap s .align (1#32 <<< l0) arena else k s l0 arena))

/-- PROP: ends the region, waits for the earlier stores, then its answer is outstanding -/
def execProp (d a : RegNo) (s : State) : Out :=
  issue (.prop d a) (fun s => State.arenaWord s a [] (fun s l0 arena =>
    if s.g.wait.isNone && (State.trace? s s.g.ctx arena).isNone then .trap s .bounds (1#32 <<< l0) arena
    else if s.g.wait.isNone && decide (Group.engines s.g ≥ Config.maxCounter) then .stall .pipebusy []
    else
      let t := if s.g.wait.isSome then s else State.endRegion s
      if t.g.scnt = 0 then
        .ok (State.updG (State.unpark t) (fun g => Group.issueOp g (.prop d.toNat) t.cur.mask
          [{ lane := l0, addr := arena, len := 0, leaf := 0, x := [], priv := false }]))
      else .park (State.park t (.prop d a) 1 0 .cntwait) .cntwait)) s

/-- Propagation starts: STATE, the counts, FAILED, and the marks of R350. -/
def Trace.startProp (t : Trace) (who : Nat × Nat × Nat) : Trace :=
  { t with
    st := 3, rerun := 0, splice := 0, retract := 0, failed := false, props := t.props ++ [who],
    tasks := t.tasks.map (fun x => if x.volatileFlag || x.untraced then { x with stale := true } else x) }

/-- The answer reaches vd of the lanes that issued the word. -/
def Group.takeAnswer (g : Group) (n d : Nat) (m : Mask) (v : Word) : Group :=
  Group.done ((Mask.lanes m).foldl (fun g l => Group.putWords g l d [(v, 0)] .i32) g) n

/-- PROP_ANSWER: the conditions of R352, tested in their order when the answer is given -/
def execPropAnswer (hall slot : Nat) (s : State) : Out :=
  match State.groupAt? s hall slot with
  | none => .next s
  | some g =>
    match g.outst.findIdx? (fun o => match o.op with | .prop _ => true | _ => false) with
    | none => .next s
    | some n =>
      match g.outst[n]? with
      | none => .next s
      | some o =>
        match o.op with
        | .prop d =>
          let arena := match o.parts with | p :: _ => p.addr | [] => 0
          let say := fun (s : State) (v : Word) => State.updGroup s hall slot (fun g => Group.takeAnswer g n d o.mask v)
          if g.draining then .next s
          else match State.trace? s g.ctx arena with
          | none => .next (say s 2)
          | some t =>
            if t.broken then .next (say s 4)
            else if t.st = 1 ∨ t.st = 3 then .next (say s 1)
            else if g.ecnt ≥ Config.maxCounter then .next s
            else
              let s := State.updTrace s g.ctx arena (fun t => Trace.startProp t (g.seq, g.blk, g.grp))
              .next (State.updGroup (say s 0) hall slot (fun g => { g with ecnt := g.ecnt + 1 }))
        | _ => .next s

/-! ## Propagation (R352, R353) -/

/-- A recorded task's status. -/
def State.statusOf (s : State) (c seq : Nat) : TStatus :=
  match State.task? s c seq with
  | some k => k.status
  | none => .retired

/-- A task of the launch has been started and has not ended. -/
def State.started (s : State) (c : Nat) (x : TraceTask) : Bool :=
  State.statusOf s c x.seq == .ready || State.statusOf s c x.seq == .running

/-- Propagation is complete: no task is running, and the stale set is empty or FAILED is set (R352, R353). -/
def State.propDone (s : State) (c : Nat) (t : Trace) : Bool :=
  t.st == 3 && t.tasks.all (fun x => !State.started s c x) && (t.failed || t.tasks.all (fun x => !x.stale))

/-- PROPAGATION_COMPLETE: STATE IDLE, NPROP + 1, then ecnt falls -/
def execPropagationComplete (ctx : Nat) (arena : DWord) (s : State) : Out :=
  match State.trace? s ctx arena with
  | none => .next s
  | some t =>
    if State.propDone s ctx t = false then .next s
    else
      let s := State.updTrace s ctx arena (fun t => { t with st := 2, nprop := t.nprop + 1, props := [] })
      .next (t.props.foldl (fun s p => State.updMember s ctx p.1 p.2.1 p.2.2 (fun g => { g with ecnt := dec g.ecnt })) s)

/-- The ancestors of a recorded task, nearest first. -/
def Trace.ancestors (t : Trace) : Nat → Nat → List Nat
  | 0, _ => []
  | n + 1, seq =>
    match t.tasks.find? (fun x => x.seq == seq) with
    | some x => if x.seq = t.rootSeq then [] else x.parent :: Trace.ancestors t n x.parent
    | none => []

/-- A lower-keyed stale or running task keeps X from starting: it is X's ancestor, or it wrote a granule that X read (R353). -/
def Trace.holdsBack (t : Trace) (x y : TraceTask) : Bool :=
  (Trace.ancestors t t.tasks.length x.seq).contains y.seq ||
  (t.writes.filter (fun w => w.seq == y.seq)).any (fun w => t.edges.any (fun e => e.seq == x.seq && e.granule == w.granule))

/-- KEYLO of a recorded task. -/
def State.keyOf (s : State) (c seq : Nat) : Nat := match State.task? s c seq with | some k => k.keylo.toNat | none => 0

/-- A stale task may start again (R353). -/
def State.mayRerun (s : State) (c : Nat) (t : Trace) (x : TraceTask) : Bool :=
  t.st == 3 && !t.failed && x.stale && !State.started s c x && State.statusOf s c x.seq != .waiting &&
  t.tasks.all (fun y => decide (State.keyOf s c y.seq ≥ State.keyOf s c x.seq) ||
    !(y.stale || State.started s c y) || !Trace.holdsBack t x y)

/-- The record of a task at the start of a re-execution: STALE clear, its read edges gone, its write records kept; UNTRACED
once the arena is full (R351, R353). -/
def Trace.rerunTask (t : Trace) (seq : Nat) : Trace :=
  let es := t.edges.filter (fun e => e.seq == seq)
  Trace.giveBack
    { t with
      rerun := t.rerun + 1,
      edges := t.edges.filter (fun e => e.seq != seq),
      writes := t.writes.map (fun w => if w.seq == seq then { w with fresh := false } else w),
      tasks := t.tasks.map (fun x => if x.seq == seq then { x with stale := false, untraced := x.untraced || t.full } else x) }
    (es.map (fun e => e.cell))

/-- STALE_TASK_RESTART: the task takes a pending-launch entry as a post to its queue would, and becomes READY -/
def execStaleTaskRestart (ctx seq : Nat) (s : State) : Out :=
  match State.tracedTask s ctx seq, State.task? s ctx seq with
  | some (t, x), some k =>
    if State.mayRerun s ctx t x = false then .next s
    else match State.takeEntry s ctx k.queue (dieOfQueue k.queue) none with
      | none => .next s
      | some e =>
        let s := State.updTrace s ctx t.arena (fun t => Trace.rerunTask t seq)
        let s := State.updTask s ctx seq (fun k =>
          { k with rerun := true, spawns := 0, nextKey := k.keylo + 1, dispatched := 0, done := 0, homes := [],
                   chainsSum := [], entry := e, acceptAt := s.clk, stopping := false })
        let s := State.setStatus s ctx seq .ready
        .next (State.fillOverflow s ctx k.queue k.tcb k.lr e)
  | _, _ => .next s

/-! ## TRCTL (R357) -/

/-- The header fields that software writes are good, cell space is large enough, and no page has M = 1 or S = 1. -/
def State.arenaOk (s : State) (c : Nat) (arena : DWord) : Bool :=
  let f := fun (o : Nat) => State.numVirt s c (vaOf arena + o) 8
  let size := f 0
  let root := f 8
  let log2b := f 0x10
  size % 65536 == 0 && decide (2 ^ 20 ≤ size) && decide (size ≤ 2 ^ 40) && bits root 57 7 == 0 && bits root 0 7 == 0 &&
  bits log2b 5 59 == 0 && decide (8 ≤ log2b) && decide (log2b ≤ 24) &&
  decide (0x100 + 16 * 2 ^ log2b + 2 * (size / 8) ≤ size) &&
  (List.range (size / 65536)).all (fun i => match State.walk s c (vaOf arena + 65536 * i) with
    | .leaf l _ => !Leaf.m l && !Leaf.s l
    | .absent => true)

/-- A trace as ENABLE registers it. -/
def State.newTrace (s : State) (c : Nat) (arena : DWord) : Trace :=
  let f := fun (o : Nat) => State.numVirt s c (vaOf arena + o) 8
  { arena := arena, size := f 0, rootTcb := BitVec.ofNat 64 (f 8), log2b := f 0x10, st := 0, rootSeq := 0, full := false,
    broken := false, undoLost := false, failed := false, tasks := [], edges := [], writes := [],
    free := 0x100 + 16 * 2 ^ f 0x10, freed := [], rerun := 0, splice := 0, retract := 0, nprop := 0, props := [] }

/-- ENABLE: its status, and the state. -/
def State.enableTrace (s : State) (c : Nat) (arena : DWord) : Word × State :=
  if (State.trace? s c arena).isSome then (1, s)
  else if (match s.ctx? c with | some x => x.traces.length | none => 0) ≥ 8 then (2, s)
  else if State.arenaOk s c arena = false then (3, s)
  else
    let t := State.newTrace s c arena
    (0, State.renderHeader (State.updCtx s c (fun x => { x with traces := x.traces ++ [t] })) c t)

/-- FREE: its status, and the state. -/
def State.freeTrace (s : State) (c : Nat) (arena : DWord) : Word × State :=
  match State.trace? s c arena with
  | some t =>
    if t.st = 1 ∨ t.st = 3 then (1, s)
    else (0, State.updCtx s c (fun x => { x with traces := x.traces.filter (fun t => t.arena != arena) }))
  | none => (0, s)

/-- TRCTL -/
def execTrctl (d a b : RegNo) (s : State) : Out :=
  issue (.trctl d a b) (fun s =>
    State.arenaWord s a [{ reg := b.toNat, uni := false, tags := [], use := .peek }] (fun s l0 arena =>
      let op := (State.src s l0 b.toNat false).toNat
      if op ≥ 3 then .trap s .bounds (1#32 <<< l0) arena
      else State.classified s .atomic [{ lane := l0, addr := arena, len := 0x100 }] (fun s ps =>
        if op ≠ 0 ∧ (State.trace? s s.g.ctx arena).isNone = true then .trap s .bounds (1#32 <<< l0) arena
        else
          let s := State.endRegion (State.touch s s.g.hall s.g.ctx true ps)
          let (v, s) :=
            if op = 0 then State.enableTrace s s.g.ctx arena
            else if op = 1 then State.freeTrace s s.g.ctx arena
            else (BitVec.ofNat 32 (State.numVirt s s.g.ctx (vaOf arena + 0x20) 4 % 4096), s)
          .ok (State.answer s d (fun _ => v) (State.answerTag s b))))) s

/-! ## Order keys (R347, R358) -/

/-- TKEY -/
def execTkey (d : RegNo) (s : State) : Out :=
  issue (.tkey d) (fun s =>
    let v : DWord × DWord := match State.task? s s.g.ctx s.g.seq with
      | some k => if k.arena = 0 then (0, 0) else (k.nextKey, k.keyhi)
      | none => (0, 0)
    State.laneOp s [] 6 d.toNat 4 (fun _ _ =>
      [(lo32 v.1, .i32), (hi32 v.1, .i32), (lo32 v.2, .i32), (hi32 v.2, .i32)])) s

/-- The tasks of a launch. -/
def State.launchTasks (s : State) (c : Nat) (arena : DWord) : List Task :=
  match State.trace? s c arena with
  | some t => s.tasks.filter (fun k => k.ctx == c && t.tasks.any (fun x => x.seq == k.seq))
  | none => []

/-- New intervals keep what R347 asks of them between two tasks: the order of two keys, the nesting of two intervals, and on
which side of a task's next key the other task stands. -/
def keepsOrder (old1 new1 old2 new2 : DWord × DWord × DWord) : Bool :=
  let le := fun (x y : DWord) => decide (x.toNat ≤ y.toNat)
  let lt := fun (x y : DWord) => decide (x.toNat < y.toNat)
  (!lt old1.1 old2.1 || lt new1.1 new2.1) &&
  (!le old1.2.1 old2.1 || le new1.2.1 new2.1) &&
  (!(le old1.1 old2.1 && le old2.2.1 old1.2.1) || (le new1.1 new2.1 && le new2.2.1 new1.2.1)) &&
  (!le old1.2.2 old2.1 || le new1.2.2 new2.1) &&
  (!le old2.2.1 old1.2.2 || le new2.2.1 new1.2.2)

/-- The keys of a task: KEYLO, KEYHI, NEXT. -/
def Task.keys (k : Task) : DWord × DWord × DWord := (k.keylo, k.keyhi, k.nextKey)

/-- A task of the launch waits in SPAWN for a relabelling. -/
def State.waitsRelabel (s : State) (c seq : Nat) : Bool :=
  (State.allGroups s).any (fun g => Group.of g c seq && match g.wait with
    | some w => w.phase == 3 && (match w.instr with | .spawn _ _ _ => true | .spawnw _ _ _ => true | _ => false)
    | none => false)

/-- A relabelling as the newel firmware makes it: every task of the launch once, order and nesting kept, and the spawning tasks
left with KEYHI - NEXT of 32 or more. -/
def State.relabelOk (s : State) (c : Nat) (arena : DWord) (keys : List KeyInterval) : Bool :=
  let ks := State.launchTasks s c arena
  let new? := fun (k : Task) => (keys.find? (fun x => x.seq == k.seq)).map (fun x => (x.lo, x.hi, x.nextKey))
  ks.any (fun k => State.waitsRelabel s c k.seq) && keys.length == ks.length &&
  ks.all (fun k => match new? k with
    | none => false
    | some n =>
      decide (n.1.toNat < n.2.2.toNat) && decide (n.2.2.toNat ≤ n.2.1.toNat) &&
      (!State.waitsRelabel s c k.seq || decide (n.2.2.toNat + 32 ≤ n.2.1.toNat)) &&
      ks.all (fun k' => k'.seq == k.seq || match new? k' with
        | none => false
        | some n' => keepsOrder (Task.keys k) n (Task.keys k') n'))

/-- RELABEL: the intervals of every task of the launch are rewritten, in its TCBs too; the waiting spawns issue again -/
def execRelabel (ctx : Nat) (arena : DWord) (keys : List KeyInterval) (s : State) : Out :=
  if State.relabelOk s ctx arena keys = false then .next s
  else .next (keys.foldl (fun s x =>
    match State.task? s ctx x.seq with
    | none => s
    | some k =>
      let s := State.updTask s ctx x.seq (fun k => { k with keylo := x.lo, keyhi := x.hi, nextKey := x.nextKey })
      State.putTcb (State.putTcb s ctx k.tcb 0x28 8 x.lo.toNat) ctx k.tcb 0x30 8 x.hi.toNat) s)

end Sys2Proof.Machine
end

