-- ==== Sys2Proof/Machine/Newel.lean ====
section
/-! DEFINITION. The newel firmware and the dispatch hardware: the order of service (R50 to R54), bind records (R65 to R69), the end
of blocks and tasks (R53, R70, R342, R362), queue deadlock (R62), relaunch (R329, R338), restarts (R80, R320), pre-emption and
restore (R324 to R329). -/

namespace Sys2Proof

/-- The TCB address of a bind record (R66). -/
def BindWrite.tcb (r : BindWrite) : DWord := BitVec.ofNat 64 (bits r.w0.toNat 7 50 * 128)
/-- ROLE of a bind record (R66). -/
def BindWrite.role (r : BindWrite) : Nat := bits r.w0.toNat 5 2
/-- SLOT of a bind record (R66). -/
def BindWrite.slotField (r : BindWrite) : Nat := bits r.w0.toNat 0 5
/-- BLKIDX of a bind record (R66). -/
def BindWrite.blk (r : BindWrite) : Nat := bits r.w1.toNat 32 32
/-- GRPIDX of a bind record (R66). -/
def BindWrite.grp (r : BindWrite) : Nat := bits r.w1.toNat 0 16
/-- ACCBASE of a bind record (R66). -/
def BindWrite.accBase (r : BindWrite) : Nat := bits r.w2.toNat 40 8
/-- ACCN of a bind record (R66). -/
def BindWrite.accN (r : BindWrite) : Nat := bits r.w2.toNat 32 5
/-- REGBASE of a bind record (R66). -/
def BindWrite.regBase (r : BindWrite) : Nat := bits r.w2.toNat 22 6
/-- REGN of a bind record (R66). -/
def BindWrite.regN (r : BindWrite) : Nat := bits r.w2.toNat 16 5
/-- STASHBASE of a bind record (R66). -/
def BindWrite.stashBase (r : BindWrite) : Nat := bits r.w3.toNat 9 9
/-- SCRBASE of a bind record (R66). -/
def BindWrite.scrBase (r : BindWrite) : Nat := bits r.w3.toNat 0 9

/-- Every reserved field is zero. -/
def BindWrite.clean (r : BindWrite) : Bool :=
  bits r.w0.toNat 57 7 == 0 && bits r.w1.toNat 16 16 == 0 && bits r.w2.toNat 48 16 == 0 && bits r.w2.toNat 37 3 == 0 &&
  bits r.w2.toNat 28 4 == 0 && bits r.w2.toNat 21 1 == 0 && bits r.w2.toNat 0 16 == 0 && bits r.w3.toNat 18 46 == 0

end Sys2Proof

namespace Sys2Proof.Machine

/-- The newel cores run: the boot is complete and the package is in P0 (R13, R19). -/
def State.newelUp (s : State) : Bool := s.pkg.bootDone == 4 && s.pkg.power == .p0 && !s.pkg.exiting

/-! ## Dispatch units (R50, R51) -/

/-- The blocks of one dispatch unit: a gang, or a whole instance of the highest level with CORES = 1 (R35, R50). -/
def LaunchRec.unitBlocks (r : LaunchRec) : Nat :=
  let ls := LaunchRec.used r
  let tops := (List.range ls.length).filter (fun k => levelCores (ls.getD k 0) && decide (levelDomain (ls.getD k 0) ≥ 3))
  match tops.getLast? with
  | none => LaunchRec.blocksPerGang r
  | some k => (ls.take (k + 1)).foldl (fun n w => if levelDomain w ≥ 2 then n * levelCount w else n) 1

/-- A task has undispatched blocks and may be served. -/
def Task.dispatchable (t : Task) : Bool :=
  (t.status == .ready || t.status == .running) && !t.stopping && decide (t.dispatched < LaunchRec.blocks t.lr)

/-- The dispatchable tasks of a queue, in the order they became ready, then by SEQ (R50). -/
def State.queueTasks (s : State) (q : Nat) : List Task :=
  sortBy (fun a b => decide (a.readyAt < b.readyAt) || (a.readyAt == b.readyAt && decide (a.seq ≤ b.seq)))
    (s.tasks.filter (fun t => t.queue == q && Task.dispatchable t))

/-- The saved gangs of a queue that the newel has not chosen to restore. -/
def State.queueImages (s : State) (q : Nat) : List Image :=
  s.saved.filter (fun i => !i.go && State.queueOf s i.gang.ctx i.gang.seq == q)

/-- The queue holds a dispatchable unit. -/
def State.hasUnit (s : State) (q : Nat) : Bool := !(State.queueImages s q).isEmpty || !(State.queueTasks s q).isEmpty

/-- The queue holds a task. -/
def State.holdsTask (s : State) (q : Nat) : Bool :=
  s.tasks.any (fun t => t.queue == q && (t.status == .waiting || t.status == .ready || t.status == .running))

/-- The queues of a priority level's cycle (R52). -/
def State.cycle (s : State) (prio : Nat) : List Nat :=
  (s.queues.filter (fun p => p.2.prio == prio && (p.2.en || State.holdsTask s p.1))).map (fun p => p.1)

/-- The queue that the pointer of a level marks (R52). -/
def State.nextQueue (s : State) (prio : Nat) : Option Nat :=
  let qs := State.cycle s prio
  match qs.find? (fun q => decide (q ≥ (lookup s.pointers prio).getD 0)) with
  | some q => some q
  | none => qs.head?

/-- No queue of a higher priority holds a dispatchable unit (R51). -/
def State.highest (s : State) (prio : Nat) : Bool :=
  s.queues.all (fun p => decide (p.2.prio ≤ prio) || !State.hasUnit s p.1)

/-- The gangs of a unit that starts at a block. -/
def Task.gangsFrom (t : Task) (n : Nat) : List Gang :=
  let b := LaunchRec.blocksPerGang t.lr
  (List.range (n / b)).map (fun i =>
    { ctx := t.ctx, seq := t.seq, idx := t.dispatched / b + i, groups := b * LaunchRec.groupsPerBlock t.lr, bound := 0,
      boundAt := 0, rounds := [], relaunches := 0, stopping := false, draining := false, fenceAt := none })

/-- A task that starts while its trace is full is marked UNTRACED (R351). -/
def State.markStart (s : State) (t : Task) : State :=
  match State.trace? s t.ctx t.arena with
  | some x =>
    if x.full && t.arena != 0 then
      State.updTrace s t.ctx t.arena (fun x =>
        { x with tasks := mapIf x.tasks (fun y => y.seq == t.seq) (fun y => { y with untraced := true }) })
    else s
  | none => s

/-- PRIO, QUANTUM and PRE as last written take effect (R46, R47). -/
def Queue.latch (x : Queue) : Queue :=
  { x with prio := bits x.cfg.toNat 0 7, quantum := bits x.cfg.toNat 16 32, pre := x.cfg.getLsbD 9 }

/-- The next unit of a task is dispatched: its gangs are to be bound. -/
def State.dispatchTask (s : State) (t : Task) : State :=
  let n := min (LaunchRec.unitBlocks t.lr) (LaunchRec.blocks t.lr - t.dispatched)
  let s := if t.status == .ready then State.markStart (State.setStatus s t.ctx t.seq .running) t else s
  let s := { s with gangs := s.gangs ++ Task.gangsFrom t n }
  State.updTask s t.ctx t.seq (fun t => { t with dispatched := t.dispatched + n })

/-- The head unit of a queue is dispatched: a saved gang first (R50); a gang with no image is bound anew (R338). -/
def State.dispatchHead (s : State) (q : Nat) : State :=
  match State.queueImages s q, State.queueTasks s q with
  | i :: _, _ =>
    if i.groups.isEmpty then { s with saved := s.saved.erase i, gangs := s.gangs ++ [i.gang] }
    else { s with saved := mapIf s.saved (fun x => x == i) (fun x => { x with go := true }) }
  | [], t :: _ => State.dispatchTask s t
  | [], [] => s

/-! ## Victims of pre-emption (R54) -/

/-- Gangs that a queue of a priority may pre-empt, the lowest priority first, among equals the most recently bound. -/
def State.victims (s : State) (prio : Nat) : List Gang :=
  let p := fun (g : Gang) => (State.queue s (State.queueOf s g.ctx g.seq)).prio
  let ok := s.gangs.filter (fun g => decide (g.bound > 0) && decide (p g < prio) && !g.stopping && !g.draining)
  sortBy (fun a b => decide (p a < p b) || (p a == p b && decide (a.boundAt ≥ b.boundAt))) ok

/-- The gangs of the head unit of a queue. -/
def State.headUnit (s : State) (q : Nat) (gone : List (Nat × Nat × Nat)) : List GangNeed :=
  match State.queueImages s q, State.queueTasks s q with
  | i :: _, _ =>
    match State.task? s i.gang.ctx i.gang.seq with
    | some t => [if i.groups.isEmpty then State.gangNeed s gone t i.gang.idx else imageNeed t i]
    | none => []
  | [], t :: _ =>
    (Task.gangsFrom t (min (LaunchRec.unitBlocks t.lr) (LaunchRec.blocks t.lr - t.dispatched))).map (fun g => State.gangNeed s gone t g.idx)
  | [], [] => []

/-- A gang by its context, task and index. -/
def Gang.key (g : Gang) : Nat × Nat × Nat := (g.ctx, g.seq, g.idx)

/-- The head unit of a queue can be placed, were some gangs gone. -/
def State.canPlace (s : State) (q : Nat) (gone : List (Nat × Nat × Nat)) : Bool :=
  State.placeable s gone (State.headUnit s q gone)

/-- The victims of a unit that has no place: the fewest, in their order, beside the gangs that are going already, which let it be
placed (R54). -/
def State.chooseVictims (s : State) (q prio : Nat) : List Gang :=
  let vs := State.victims s prio
  let going := (s.gangs.filter (fun g => g.draining)).map Gang.key
  match (List.range (vs.length + 1)).find? (fun k => State.canPlace s q (going ++ (vs.take k).map Gang.key)) with
  | some k => vs.take k
  | none => []

/-- QUEUE_VISIT (R52, R54) -/
def execQueueVisit (q : Nat) (s : State) : Out :=
  let level := (State.queue s q).prio
  if State.newelUp s = false ∨ State.nextQueue s level ≠ some q ∨ State.highest s level = false then .next s
  else
    let s := State.updQueue { s with pointers := insert s.pointers level (q + 1) } q Queue.latch
    let page := State.queue s q
    if State.hasUnit s q = false then .next (State.updQueue s q (fun x => { x with deficit := min x.deficit 0 }))
    else
      let d : Int := min (page.deficit + page.quantum) page.quantum
      let s := State.updQueue s q (fun x => { x with deficit := d })
      if d > 0 ∧ State.highest s page.prio = true then
        if State.canPlace s q [] then .next (State.dispatchHead s q)
        else if page.pre then
          let vs := State.chooseVictims s q page.prio
          .next (State.drainGangs s (fun g => vs.contains g))
        else .next s
      else .next s

/-! ## Bind records (R66, R67) -/

/-- The role code as a role. -/
def roleOf (n : Nat) : Role := if n = 1 then .copy else if n = 2 then .matrix else if n = 3 then .vector else .general

/-- The role of a group by its index (R36). -/
def LaunchRec.roleAt (r : LaunchRec) (grp : Nat) : Nat :=
  if r.roleMode = 0 then 0 else if grp < r.ncopy then 1 else if grp < r.ncopy + r.nmat then 2 else 3

/-- Register blocks of a flight that a group or a block's pool holds. -/
def State.blocksHeld (s : State) (hall flight : Nat) : List Nat :=
  ((State.allGroups s).filter (fun g => g.hall == hall && g.slot / 8 == flight)).flatMap (fun g => g.blockMap) ++
  (s.blocks.filter (fun b => b.hall == hall)).flatMap (fun b => (lookup b.pools flight).getD [])

/-- Two ranges of tiles do not overlap; an empty one overlaps nothing. -/
def apart (a n b m : Nat) : Bool := n == 0 || m == 0 || !overlaps a n b m

/-- The scratchpad and stash of a new block overlap no other block's in a hall. -/
def State.tilesFree (s : State) (r : BindWrite) (l : LaunchRec) : Bool :=
  let a := l.scratch / 1024
  let b := l.stash / 1024
  (s.blocks.filter (fun x => x.hall == r.hall)).all (fun x =>
    let y := match State.task? s x.ctx x.seq with | some t => t.lr | none => LaunchRec.zero
    let c := y.scratch / 1024
    let d := y.stash / 1024
    apart r.scrBase a x.scrBase c && apart r.scrBase a x.stashBase d && apart r.stashBase b x.scrBase c &&
    apart r.stashBase b x.stashBase d)

/-- The checks of R67 that a record passes or fails by itself. -/
def BindWrite.ok (r : BindWrite) : Bool :=
  r.slotField == r.slot && r.slot / 8 == r.grp % 4 && decide (r.regBase + r.regN ≤ 64) && decide (r.accBase + r.accN ≤ 256) &&
  BindWrite.clean r

/-- The checks of R67 on a record for a task's launch; `regs` are the register blocks it gives. -/
def State.bindOk (s : State) (r : BindWrite) (l : LaunchRec) (c seq : Nat) (regs : List Nat) : Bool :=
  BindWrite.ok r && decide (r.scrBase + l.scratch / 1024 ≤ 512) && decide (r.stashBase + l.stash / 1024 ≤ 512) &&
  regs.all (fun n => !(State.blocksHeld s r.hall (r.slot / 8)).contains n) &&
  ((State.allGroups s).filter (fun g => g.hall == r.hall)).all (fun g => apart r.accBase r.accN g.accBase g.accN) &&
  (match State.block? s c seq r.blk with
    | some b => b.scrBase == r.scrBase && b.stashBase == r.stashBase
    | none => State.tilesFree s r l)

/-- A refused bind: a firmware fault (R67). -/
def State.bindFault (s : State) : State := State.updPkg s (fun p => { p with badBind := true, fwFault := satInc p.fwFault })

/-- A gang's blocks are in distinct halls of one gallery, and a block in one hall (R69). -/
def State.galleryOk (s : State) (c seq gang b blk h : Nat) : Bool :=
  (s.blocks.filter (fun x => x.ctx == c && x.seq == seq && x.blk / b == gang)).all (fun x =>
    x.hall / Config.hallsPerGallery == h / Config.hallsPerGallery && (x.blk == blk) == (x.hall == h))

/-- The task that a record names, with its gang, where the newel has dispatched the gang and not yet bound the group; `saved`
for a gang that is being restored. -/
def State.bindTarget (s : State) (r : BindWrite) : Option (Task × Gang) :=
  match s.tasks.find? (fun t => t.ctx == r.ctx && t.tcb == r.tcb && t.status == .running) with
  | none => none
  | some t =>
    match State.gang? s t.ctx t.seq (LaunchRec.gangOf t.lr r.blk) with
    | none => none
    | some g =>
      if decide (r.grp < LaunchRec.groupsPerBlock t.lr) && decide (r.blk < LaunchRec.blocks t.lr) &&
          (State.member? s t.ctx t.seq r.blk r.grp).isNone && !g.stopping && !g.draining &&
          (State.groupAt? s r.hall r.slot).isNone && decide (r.slot < Config.slotsPerHall) &&
          r.role == LaunchRec.roleAt t.lr r.grp && r.accN == t.lr.acc && r.regN == t.lr.regs / 8 &&
          State.hallOpen s t.ctx r.hall && State.homeOk s t r.blk r.hall && State.galleryOk s t.ctx t.seq g.idx (LaunchRec.blocksPerGang t.lr) r.blk r.hall then
        some (t, g)
      else none

/-- A block as it stands when its first group is bound (R68, R202 to R206). -/
def Task.block (t : Task) (r : BindWrite) (clk : Nat) : Block :=
  { ctx := t.ctx, seq := t.seq, blk := r.blk, hall := r.hall, scrBase := r.scrBase, stashBase := r.stashBase, scr := [],
    scrPoison := [], tags := [], rings := [], phasers := [], stashMaps := [], stashLines := [], stashCmds := [], pools := [],
    bindClk := clk, charge := 0 }

/-- A register that every lane holds with one value. -/
def Group.setAll (g : Group) (n : Nat) (v : Word) (t : Tag) : Group :=
  lanesOf.foldl (fun g l => Group.setCell g l n (RegCell.of v t)) g

/-- A group at its first issue (R44). -/
def Task.group (t : Task) (r : BindWrite) (age groupNo : Nat) (trace : Bool) : Group :=
  let g : Group :=
    { Group.empty with
      valid := true, hall := r.hall, slot := r.slot, ctx := t.ctx, seq := t.seq, tcb := t.tcb, blk := r.blk, grp := r.grp,
      role := roleOf r.role, lrec := t.lrec, lr := t.lr, regn := r.regN,
      blockMap := (List.range r.regN).map (fun j => r.regBase + j), accBase := r.accBase, accN := r.accN,
      lanes := List.replicate 32 { lpc := t.lr.entry, mode := .live, region := LaneRegion.fresh },
      regionStart := List.replicate 32 (t.lr.entry, .live), tiles := List.replicate r.accN Tile.zero, age := age,
      groupNo := groupNo, traceOn := trace, syncOwed := if trace then some 0 else none, fullOwed := trace }
  Group.setAll (Group.setAll (Group.setAll g 2 (lo32 t.argp) .addr) 3 (hi32 t.argp) .addr) 4 (BitVec.ofNat 32 t.arglen) .i32

/-- The number of a group in the replay log: the place of its GROUP entry among the GROUP entries (R370). -/
def State.replayNumber (s : State) (c : Nat) (x : Debug) (seq blk grp : Nat) : Option Nat :=
  let word := fun (i k : Nat) => State.numVirt s c (vaOf x.rpBase + 16 * i + 4 * k) 4
  let entries := (List.range ((if x.rpMode = 1 then x.rpHead.toNat else x.rpSize.toNat) / 16)).filter (fun i => word i 0 % 16 == 1)
  entries.findIdx? (fun i => word i 0 / 16 == grp && word i 1 == blk && word i 2 + 4294967296 * word i 3 == seq)

/-- A group's number at its bind: its first bind writes a GROUP entry in a record run (R370). -/
def State.numberGroup (s : State) (c seq blk grp : Nat) : Nat × State :=
  match s.ctx? c with
  | none => (0, s)
  | some x =>
    if x.dbg.rpMode = 0 then (0, s)
    else match State.replayNumber s c x.dbg seq blk grp with
      | some n => (n, s)
      | none =>
        if x.dbg.rpMode = 2 then (0, s)
        else
          (x.dbg.rpGroups,
            State.logEntry (State.updDebug s c (fun d => { d with rpGroups := d.rpGroups + 1 })) c
              [1 + 16 * (grp % 65536), blk, seq % 4294967296, seq / 4294967296])

/-- A gang all of whose groups are bound gets its first issue opportunity, in the cycle after (R68). -/
def State.startGang (s : State) (c seq i : Nat) : State :=
  match State.gang? s c seq i with
  | none => s
  | some g =>
    if g.bound < g.groups then s
    else
      let s := State.updGang s c seq i (fun g => { g with boundAt := s.clk })
      State.mapGroups s (fun x => Group.of x c seq && Group.gang x == i)
        (fun x => { x with started := true, readyAt := s.clk + 1, busyUntil := s.clk + 1 })

/-- A group takes its slot. -/
def State.addGroup (s : State) (g : Group) : State :=
  if s.g.valid then { s with groups := s.groups ++ [g] } else { s with g := g }

/-- An accepted bind record. -/
def State.bindGroup (s : State) (r : BindWrite) (t : Task) (y : Gang) : State :=
  let s := State.updPkg s (fun p => { p with badBind := false })
  let s := if (State.block? s t.ctx t.seq r.blk).isSome then s else { s with blocks := s.blocks ++ [Task.block t r s.clk] }
  let s := if (lookup s.halls r.hall).isSome then s else { s with halls := insert s.halls r.hall Hall.empty }
  let (n, s) := State.numberGroup s t.ctx t.seq r.blk r.grp
  let trace := match s.ctx? t.ctx with | some x => x.dbg.traceAll | none => false
  let s := State.addGroup { s with ageNext := s.ageNext + 1 } (Task.group t r s.ageNext n trace)
  let s := State.updPkg s (fun p =>
    { p with spans := p.spans ++ [{ hall := r.hall, ctx := t.ctx, seq := t.seq, since := s.clk, until_ := s.clk }] })
  State.startGang (State.updGang s t.ctx t.seq y.idx (fun y => { y with bound := y.bound + 1, boundAt := s.clk })) t.ctx t.seq y.idx

/-- A bind record is written: one that fails a check of R67 leaves the slot free. A record that the newel firmware never makes, for
a group that is not to be bound there, changes nothing (log entry 22). -/
def State.writeBind (s : State) (r : BindWrite) : State :=
  if BindWrite.ok r = false then State.bindFault s
  else match State.bindTarget s r with
  | none => s
  | some (t, y) =>
    if State.bindOk s r t.lr t.ctx t.seq ((List.range r.regN).map (fun j => r.regBase + j)) then State.bindGroup s r t y
    else State.bindFault s

/-- BIND_RECORD_WRITE -/
def execBindRecordWrite (r : BindWrite) (s : State) : Out := .next (State.writeBind s r)

/-! ## The end of blocks (R53, R70, R362) -/

/-- The groups of a block. -/
def State.groupsOf (s : State) (c seq blk : Nat) : List Group :=
  (State.allGroups s).filter (fun g => Group.of g c seq && g.blk == blk)

/-- A block all of whose groups have exited, with its stores performed, retires (R70). -/
def State.retiring (s : State) (b : Block) : Bool :=
  let gs := State.groupsOf s b.ctx b.seq b.blk
  !gs.isEmpty && decide (gs.length = (State.launchOf s b.ctx b.seq).groupsPerBlock) && gs.all (fun g => g.hasExited && !g.draining)

/-- A sum that saturates at 32 bits. -/
def satSum (xs : List Nat) : Nat := min 4294967295 (xs.foldl (fun a b => a + b) 0)

/-- The figures of a block record: G, CHARGE, CHAINS, STALL0 to STALL15, EXTRA (R362). -/
def blockFigures (gs : List Group) (charge : Nat) : List Nat :=
  [gs.length, charge, (gs.map (fun g => g.chains)).foldl (fun a b => a + b) 0] ++
  ((List.range 16).map (fun k => satSum (gs.map (fun g => (g.stalls.getD k 0).toNat)))) ++
  [(gs.map (fun g => g.extra)).foldl (fun a b => a + b) 0]

/-- The block record (R362). -/
def blockRecord (seq blk : Nat) (f : List Nat) : List Byte :=
  leBytes 8 seq ++ leBytes 4 blk ++ leBytes 4 (f.getD 0 0 % 65536) ++ leBytes 8 (f.getD 1 0) ++ leBytes 8 (f.getD 2 0) ++
  ((List.range 16).flatMap (fun k => leBytes 4 (f.getD (3 + k) 0))) ++ leBytes 8 (f.getD 19 0) ++ leBytes 24 0

/-- The gang of a task that has no block left in a hall is gone. -/
def State.dropGang (s : State) (c seq i b : Nat) : State :=
  let left := s.blocks.any (fun x => x.ctx == c && x.seq == seq && x.blk / b == i)
  if left then s else { s with gangs := s.gangs.filter (fun g => !(g.ctx == c && g.seq == seq && g.idx == i)) }

/-- A block's hall was in use by its task up to now, for the suspect lists (R340). -/
def State.closeSpan (s : State) (b : Block) : State :=
  State.updPkg s (fun p => { p with spans := mapIf p.spans (fun x => x.hall == b.hall && x.ctx == b.ctx && x.seq == b.seq)
                                               (fun x => { x with until_ := s.clk }) })

/-- BLOCK_RETIRE: the block's slots are released, its charge ends and its queue pays for it (R53, R70) -/
def execBlockRetire (ctx seq blk : Nat) (s : State) : Out :=
  match State.block? s ctx seq blk, State.task? s ctx seq with
  | some b, some t =>
    if State.retiring s b = false then .next s
    else
      let gs := State.groupsOf s ctx seq blk
      let charge := Block.chargeNow b s.clk
      let s := State.closeSpan s b
      let s := State.killGroups s (fun g => Group.of g ctx seq && g.blk == blk) false
      let s := State.dropBlocks s (fun x => Block.is x ctx seq blk)
      let n := LaunchRec.blocksPerGang t.lr
      let s := State.dropGang s ctx seq (blk / n) n
      let s := State.payCharge s ctx seq charge
      let s := State.updTask s ctx seq (fun t =>
        { t with done := t.done + 1, chainsSum := t.chainsSum ++ [(blk, blockFigures gs charge)],
                 homes := if LaunchRec.dieBlocks t.lr = 0 then t.homes
                          else insert t.homes (blk / LaunchRec.dieBlocks t.lr) (dieOfHall b.hall) })
      .next s
  | _, _ => .next s

/-! ## Retirement (R342) -/

/-- Every block of every gang has retired (R342). -/
def Task.complete (t : Task) : Bool :=
  t.status == .running && decide (t.dispatched = LaunchRec.blocks t.lr) && decide (t.done = LaunchRec.blocks t.lr)

/-- Step 1: granules of a re-execution that this run did not write get their undo value back, and recorded children beyond the
run's spawns are retracted (R353, R354). -/
def State.finishRecords (s : State) (t : Task) : State :=
  match State.trace? s t.ctx t.arena with
  | none => s
  | some tr =>
    if !t.rerun || t.arena == 0 then s
    else
      let old := tr.writes.filter (fun w => w.seq == t.seq && !w.fresh)
      let s := old.foldl (fun s w => State.restoreGranule s t.ctx t.arena w) s
      let s := State.updTrace s t.ctx t.arena (fun tr =>
        Trace.giveBack { tr with writes := tr.writes.filter (fun w => !(w.seq == t.seq && !w.fresh)) }
          (old.flatMap (fun w => [w.cell, w.cell + 32])))
      let extra := (tr.tasks.filter (fun x => x.parent == t.seq && decide (x.ord > t.spawns) && x.seq != tr.rootSeq)).map
        (fun x => x.seq)
      if extra.isEmpty then s else State.retract s t.ctx t.arena extra

/-- Step 3: the block records (R362). -/
def State.writeBlockRecords (s : State) (t : Task) : State :=
  if t.blkrec = 0 then s
  else t.chainsSum.foldl (fun s p =>
    let va := t.blkrec.toNat + 128 * p.1
    if State.canAccess s t.ctx true va 128 then State.writeVirt s t.ctx va (blockRecord t.seq p.1 p.2) else s) s

/-- The steps of retirement, in their order (R342). -/
def State.retireTask (s : State) (t : Task) : State :=
  let s := State.finishRecords s t
  let s := State.putTcb (State.setStatus s t.ctx t.seq .retired) t.ctx t.tcb 0x68 4 t.spawns
  let s := State.writeBlockRecords s t
  let s := if t.rerun then s else State.walkSuccessors s t.ctx t.queue t.succp
  let s := State.completion s t.ctx t.seq .retired 0
  let s := State.freeEntry s t.ctx t.seq
  State.settleTrace s t.ctx t.arena

/-- A page that a retirement reads or writes is not resident: the newel makes it resident first (R379). -/
def State.retireWaits (s : State) (t : Task) : Bool :=
  let succ := if t.succp = 0 then false
    else State.missing s t.ctx false t.succp.toNat 8 ||
      State.missing s t.ctx false t.succp.toNat (8 + 8 * bits (State.numVirt s t.ctx t.succp.toNat 8) 0 13)
  State.missing s t.ctx true (vaOf t.tcb) 128 || succ ||
  (t.blkrec != 0 && t.chainsSum.any (fun p => State.missing s t.ctx true (t.blkrec.toNat + 128 * p.1) 128))

/-- TASK_RETIRE -/
def execTaskRetire (ctx seq : Nat) (s : State) : Out :=
  match State.task? s ctx seq with
  | none => .next s
  | some t => if Task.complete t && !State.retireWaits s t then .next (State.retireTask s t) else .next s

/-! ## Queue deadlock (R62) -/

/-- The group is parked on SPAWNW into a queue. -/
def Group.parkedOn (g : Group) (q : Nat) : Bool := match Group.parkedSpawn g with | some (_, x, _) => x == q | none => false

/-- The two conditions of one sample. -/
def State.deadNow (s : State) (q : Nat) : Bool :=
  (State.allGroups s).any (fun g => Group.parkedOn g q) &&
  (State.allGroups s).all (fun g => State.queueOf s g.ctx g.seq != q || g.hasExited || Group.parkedOn g q)

/-- The TCB that a parked SPAWNW names. -/
def Group.spawnTcb (g : Group) : DWord :=
  match g.wait with
  | some w =>
    match w.instr with
    | .spawnw _ a ua =>
      let l := Mask.lowest w.mask
      Group.reg64 g (srcLane ua l) a.toNat
    | _ => 0
  | none => 0

/-- QDEAD is delivered to one parked group (R62, R108). -/
def State.deliverQdead (s : State) (hall slot : Nat) : State :=
  let s := State.toPort s hall slot
  match s.g.wait with
  | none => s
  | some w =>
    let s := { s with cur := { mask := w.mask, chainPc := w.wordPc, wordPc := w.wordPc, status := .done, fresh := false,
                               follow := false, srcs := [] } }
    State.takeTrap s .qdead w.mask (Group.spawnTcb s.g) w.wordPc

/-- QUEUE_DEADLOCK_SAMPLE -/
def execQueueDeadlockSample (q : Nat) (s : State) : Out :=
  if State.deadNow s q = false then .next (State.updQueue s q (fun x => { x with deadSamples := 0 }))
  else
    let page := State.queue s q
    if page.deadSamples + 1 < 10 then .next (State.updQueue s q (fun x => { x with deadSamples := x.deadSamples + 1 }))
    else
      let s := State.updQueue s q (fun x => { x with deadSamples := 0 })
      if page.ovfCap = page.ovfMax then
        .next (((State.allGroups s).filter (fun g => Group.parkedOn g q && !g.draining)).foldl
          (fun s g => State.deliverQdead s g.hall g.slot) s)
      else .next (State.updQueue s q (fun x =>
        { x with ovfCap := if x.ovfCap = 0 then 1 else min (2 * x.ovfCap) x.ovfMax }))

/-! ## Killed gangs (R329, R338) -/

/-- The gang's groups and blocks leave their halls; the queue pays for the blocks (R53, R338). -/
def State.clearGang (s : State) (y : Gang) (b : Nat) : State :=
  let mine := fun (blk : Nat) => blk / b == y.idx
  let s := State.killGroups s (fun g => Group.of g y.ctx y.seq && Group.gang g == y.idx) true
  let bs := s.blocks.filter (fun x => x.ctx == y.ctx && x.seq == y.seq && mine x.blk)
  let s := State.payCharge s y.ctx y.seq ((bs.map (fun x => Block.chargeNow x s.clk)).foldl (fun a b => a + b) 0)
  let s := bs.foldl State.closeSpan s
  State.dropBlocks s (fun x => x.ctx == y.ctx && x.seq == y.seq && mine x.blk)

/-- A gang to be bound anew. -/
def Gang.anew (y : Gang) : Gang :=
  { y with bound := 0, boundAt := 0, rounds := [], stopping := false, draining := false, fenceAt := none }

/-- GANG_KILL: the gang relaunches, at most three times, or its task fails with CAUSE 0x60; a gang killed while it is being saved
keeps no image and is bound again when its context is restored -/
def execGangKill (ctx seq gang : Nat) (s : State) : Out :=
  match State.gang? s ctx seq gang, State.task? s ctx seq with
  | some y, some t =>
    if y.stopping = false then .next s
    else if t.lr.relaunch && decide (y.relaunches < 3) then
      let s := State.clearGang s y (LaunchRec.blocksPerGang t.lr)
      let z := { Gang.anew y with relaunches := y.relaunches + 1 }
      if y.draining then
        .next { s with gangs := s.gangs.filter (fun g => g != y),
                       saved := s.saved ++ [{ gang := z, groups := [], blocks := [], cmds := [], ranges := [], go := false }] }
      else .next (State.updGang s ctx seq gang (fun _ => z))
    else .next (State.failTask s ctx seq 0x60)
  | _, _ => .next s

/-! ## Restart of an idempotent region (R80, R320, R321) -/

/-- REGION_RESTART: the waits are over -/
def execRegionRestart (hall slot : Nat) (s : State) : Out :=
  match State.groupAt? s hall slot with
  | none => .next s
  | some g => if Group.mayRestart g && !g.draining then .next (State.finishRestart (State.toPort s hall slot)) else .next s

/-! ## Pre-emption (R29, R324 to R327) -/

/-- The registers that the save engine saves (R29); in trap mode, or with no live lane, all of them. -/
def State.savedRegs (s : State) (g : Group) : List Nat :=
  let all := List.range (8 * g.regn)
  let offs := ((g.lanes.filter Lane.live).map (fun l => l.lpc)).eraseDups
  let masks := offs.map (fun o =>
    if State.safePoint s g.ctx g.lr o then
      (match State.liveMask s g.ctx g.lr o with | some (f, m) => if f.testBit 0 then some m else none | none => none)
    else none)
  if g.trapMode || offs.isEmpty || masks.any (fun m => m.isNone) then all
  else all.filter (fun n => masks.any (fun m => match m with | some x => x.testBit n | none => false))

/-- A group as its image holds it: results have landed, loads are to be issued again whole (R324), registers by R29. -/
def State.saveGroup (s : State) (g : Group) : Group :=
  let g := Group.landRegs g (fun _ => true)
  let g := g.flags.foldl (fun g f => { g with fpflags := g.fpflags ||| f.bits }) { g with flags := [] }
  let keep := State.savedRegs s g
  { g with outst := g.outst.map (fun o =>
             if OutOp.countsLoad o.op then { o with parts := o.parts.map (fun p => { p with got := none }) } else o),
           regs := ((List.range g.regs.length).zip g.regs).map (fun p =>
             if keep.contains p.1 then p.2 else List.replicate 32 RegCell.zero) }

/-- What must complete before a group is saved: atomics, released stores, .last loads that have begun, tile operations, commits in
their write phase (R243, R294, R324). -/
def Group.drained (g : Group) : Bool :=
  g.acnt == 0 && g.mma.isEmpty && !Group.tileMoves g && !Group.writing g &&
  g.outst.all (fun o => !OutOp.isStore o.op && !Outst.begunLast o)

/-- The image of a gang (R325). -/
def State.imageOf (s : State) (y : Gang) (b : Nat) : Image :=
  let gs := ((State.allGroups s).filter (fun g => Group.of g y.ctx y.seq && Group.gang g == y.idx)).map (State.saveGroup s)
  let bs := s.blocks.filter (fun x => x.ctx == y.ctx && x.seq == y.seq && x.blk / b == y.idx)
  let from_ := match y.fenceAt with | some c => c | none => s.clk
  let free := fun (x : Block) => s.clk - max from_ x.bindClk
  let cmds := (s.halls.flatMap (fun h => h.2.cmds)).filter (fun c => gs.any (fun g => g.hall == c.hall && g.slot == c.slot))
  { gang := { y with bound := 0, draining := false, fenceAt := none }, groups := gs,
    blocks := bs.map (fun x => { x with charge := Block.chargeNow x s.clk - free x }), cmds := cmds,
    ranges := s.halls.flatMap (fun h => h.2.ranges.filter (fun r =>
      cmds.any (fun c => c.hall == h.1 && c.slot == r.slot && c.num == r.num))),
    go := false }

/-- A gang leaves its halls for its image. -/
def State.takeOut (s : State) (y : Gang) (b : Nat) : State :=
  let hit := fun (g : Group) => Group.of g y.ctx y.seq && Group.gang g == y.idx
  let slots := ((State.allGroups s).filter hit).map (fun g => (g.hall, g.slot))
  let mine := fun (x : Block) => x.ctx == y.ctx && x.seq == y.seq && x.blk / b == y.idx
  let s := { s with halls := s.halls.map (fun h =>
    (h.1, { h.2 with ranges := h.2.ranges.filter (fun r => !(slots.contains (h.1, r.slot))),
                     cmds := h.2.cmds.filter (fun c => !(slots.contains (h.1, c.slot))) })) }
  let s := State.dropGroups s hit
  { s with blocks := s.blocks.filter (fun x => !mine x), gangs := s.gangs.filter (fun g => g != y) }

/-- Fences that waited for a pre-emption go on (R336). -/
def State.resumeFences (s : State) (hs : List Nat) : State :=
  hs.foldl (fun s h => if (State.hall s h).fenced then State.drainHall s h else s) s

/-- PREEMPTION_COMPLETE: the image is written and the slots are released; a gang that was not wholly bound is bound anew -/
def execPreemptionComplete (ctx seq gang : Nat) (s : State) : Out :=
  match State.gang? s ctx seq gang with
  | none => .next s
  | some y =>
    let b := LaunchRec.blocksPerGang (State.launchOf s ctx seq)
    let gs := (State.allGroups s).filter (fun g => Group.of g ctx seq && Group.gang g == gang)
    let hs := (gs.map (fun g => g.hall)).eraseDups
    if y.draining = false ∨ y.stopping = true then .next s
    else if y.bound < y.groups then
      .next (State.resumeFences (State.updGang (State.clearGang s y b) ctx seq gang (fun _ => Gang.anew y)) hs)
    else if gs.all Group.drained = false then .next s
    else
      let s := gs.foldl (fun s g => State.flushBlock s ctx seq g.blk (fun _ => true) false) s
      let i := State.imageOf s y b
      let s := i.blocks.foldl State.closeSpan s
      .next (State.resumeFences { State.takeOut s y b with saved := s.saved ++ [i] } hs)

/-! ## Restore (R328, R329) -/

/-- The hall and slot that a restore's bind records give a group. -/
def bindOf (binds : List BindWrite) (g : Group) : Option BindWrite :=
  binds.find? (fun r => r.blk == g.blk && r.grp == g.grp)

/-- The physical register blocks of a restored group: its record's run, as many as it held when saved. -/
def Group.newMap (g : Group) (r : BindWrite) : List Nat := (List.range g.regn).map (fun j => r.regBase + j)

/-- A saved register's residue is computed again (R328). -/
def RegCell.reseal (c : RegCell) : RegCell := { c with res := residueOf c.val, sym := 0 }

/-- A saved load's page is translated again (R328 step 3); where it is no longer mapped for loads, the old leaf stands. -/
def State.releaf (s : State) (c : Nat) (p : LanePart) : LanePart :=
  if windowPointer p.addr then p
  else match State.walk s c (vaOf p.addr) with
    | .leaf l _ => if Leaf.v l && Leaf.r l then { p with leaf := l } else p
    | .absent => p

/-- A group in its new slot. -/
def State.placeGroup (s : State) (r : BindWrite) (age : Nat) (g : Group) : Group :=
  { g with
    hall := r.hall, slot := r.slot, accBase := r.accBase, blockMap := Group.newMap g r, draining := false, started := true,
    age := age, readyAt := s.clk + 1, busyUntil := s.clk + 1, lastIssue := none, eligibleSince := none, syncOwed := some 5,
    regs := g.regs.map (fun x => x.map RegCell.reseal),
    trapRec := g.trapRec.map (fun t => { t with bank := t.bank.map (fun x => x.map RegCell.reseal) }),
    outst := g.outst.map (fun o => if OutOp.countsLoad o.op then { o with parts := o.parts.map (State.releaf s g.ctx) } else o) }

/-! ## A killed context (R305, R330) -/

/-- Whether a choice that the spec leaves free falls the one way: bit 0 of a free byte (log entry 9). -/
def freeBit (n : Nat) : Bool := (Config.freeByte n).getLsbD 0

/-- A piece of a store by granules. -/
def StorePart.granules (p : StorePart) : List StorePart :=
  let b := p.addr.toNat
  (granulesOf b p.data.length).map (fun n =>
    let lo := max b (32 * n)
    { p with addr := BitVec.ofNat 64 lo, data := (p.data.drop (lo - b)).take (min (b + p.data.length) (32 * n + 32) - lo) })

/-- The stores of a killed group that had left its buffer: on RC and UN pages any subset is performed, each whole per granule, on SO
pages a prefix, behind the stores that come before an SO store by R261. Free values make the choice (R271). -/
def State.performSome (s : State) (g : Group) : State :=
  (g.outst.foldl (fun (x : List Outst × State) o =>
    match o.op with
    | .store w =>
      let stopped := o.sent.isSome && (match s.ctx? g.ctx with | some y => y.lockHalted | none => false)
      let (left, s) := (w.parts.flatMap StorePart.granules).foldl (fun (y : List StorePart × State) p =>
        let q := StoreWord.spot w p
        let held := Spot.strong q && (x.1.any (fun a => orderedBefore a o q) || y.1.any (fun r => Spot.strong (StoreWord.spot w r)))
        let s := { y.2 with free := y.2.free + 1 }
        if stopped || held || !freeBit y.2.free then (y.1 ++ [p], s) else (y.1, State.storePart s g w p)) ([], x.2)
      (if left.isEmpty then x.1 else x.1 ++ [{ o with op := .store { w with parts := left } }], s)
    | _ => x) ([], s)).2

/-- One row of a gather is read and written, where its page can be read and the row leaves no lockstep partition. -/
def State.gatherRow (s : State) (i : Issuer) (table : DWord) (idx dst : Place) (rowb k : Nat) : State :=
  let (ib, _, s) := State.engineRead s i (Place.add idx (4 * k)) 4
  let p := rowAddr table (leNat ib) rowb
  match State.classify s i.g.hall i.g.ctx .load [{ lane := 0, addr := p, len := rowb }] with
  | .ok _ =>
    let (bs, bad, s) := State.engineRead s i { scratch := false, addr := p } rowb
    let to_ := Place.add dst (k * rowb)
    if !to_.scratch && State.runLeaves s i.g.ctx false to_.addr rowb then s else State.engineWrite s i to_ bs bad false
  | _ => s

/-- All that is left of a command is done. -/
def State.finishCmd (s : State) (i : Issuer) (c : Cmd) : State :=
  match c.kind with
  | .gather table idx dst count rowb =>
    (List.range (count - c.rows)).foldl (fun s k => State.gatherRow s i table idx dst rowb (c.rows + k)) s
  | _ => (State.workCmd s i c 0 0).2

/-- The physical runs that a command writes. -/
def State.destRuns (s : State) (c : Cmd) : List (Nat × Nat) :=
  let d := CmdKind.dest c.kind
  let shadow := match c.kind with | .copy _ _ _ w => w | _ => false
  if d.1.scratch then []
  else (splitPages d.1.addr d.2).filterMap (fun q =>
    match State.walk s c.ctx (vaOf q.1) with
    | .leaf l _ => some (State.physOf s c.ctx l (!shadow) (vaOf q.1), q.2)
    | .absent => none)

/-- A command of a killed context that had begun leaves each destination byte old or new (R271). -/
def State.halfDone (s : State) (g : Group) (c : Cmd) : State :=
  let runs := State.destRuns s c
  let s := runs.foldl (fun s r => State.recall s none r.1 r.2 true) s
  let t := State.finishCmd s { g := g, lc := c.lc } c
  let bytes := runs.flatMap (fun r => (List.range r.2).map (fun k => r.1 + k))
  let old := ((List.range bytes.length).zip bytes).filter (fun p => !freeBit (s.free + p.1))
  { t with mem := old.foldl (fun m p => Memory.write m p.2 (Memory.read s.mem p.2)) t.mem, free := t.free + bytes.length }

/-- What a killed context's accesses that are not performed leave (R271). -/
def State.abandon (s : State) (c : Nat) : State :=
  let gs := (State.allGroups s).filter (fun g => g.ctx == c)
  let s := gs.foldl State.performSome s
  let s := State.mapGroups s (fun g => g.ctx == c) (fun g => { g with outst := g.outst.filter (fun o => !OutOp.isStore o.op) })
  let cmds := (s.halls.flatMap (fun h => h.2.cmds)).filter (fun x => x.ctx == c && x.started)
  cmds.foldl (fun s x => match gs.find? (fun g => Group.at_ g x.hall x.slot) with
    | some g => State.halfDone s g x
    | none => s) s

/-- A context is killed: its groups, commands, images and waits are gone and release no one, its collectives fail with MEMBER, its
unfinished tasks end FAILED with the cause. -/
def State.killContext (s : State) (c cause : Nat) : State :=
  let s := (s.pkg.collectives.filter (fun x => x.ctx == c && x.st == 0)).foldl (fun s x => State.failColl s x 2) s
  let ts := s.tasks.filter (fun t => t.ctx == c && (t.status == .waiting || t.status == .ready || t.status == .running))
  let s := State.abandon ((s.blocks.filter (fun b => b.ctx == c)).foldl State.closeSpan s) c
  let s := ts.foldl (fun s t => State.clearTask s c t.seq false) s
  let s := State.updCtx s c (fun x => { x with pubs := [] })
  ts.foldl (fun s t => State.endTask s c t.seq .failed cause) s

/-- The new hall and slot of the group that stood in an old slot. -/
def newPlace (i : Image) (binds : List BindWrite) (hall slot : Nat) : Nat × Nat :=
  match i.groups.find? (fun g => g.hall == hall && g.slot == slot) with
  | some g => (match bindOf binds g with | some r => (r.hall, r.slot) | none => (hall, slot))
  | none => (hall, slot)

/-- Free register blocks of a flight for a restored pool, the lowest first. -/
def State.freeBlocks (s : State) (hall flight : Nat) (taken : List Nat) (n : Nat) : List Nat :=
  ((List.range 64).filter (fun x => !(State.blocksHeld s hall flight).contains x && !taken.contains x)).take n

/-- A saved block in its new hall; its pools get blocks that the records leave free (R113, R114). -/
def State.placeBlock (s : State) (i : Image) (binds : List BindWrite) (b : Block) : Block :=
  match binds.find? (fun r => r.blk == b.blk) with
  | none => b
  | some r =>
    let taken := fun (f : Nat) => (binds.filter (fun x => x.hall == r.hall && x.slot / 8 == f)).flatMap
      (fun x => (List.range x.regN).map (fun j => x.regBase + j))
    { b with hall := r.hall, scrBase := r.scrBase, stashBase := r.stashBase, bindClk := s.clk,
             stashCmds := b.stashCmds.map (fun c =>
               { c with hall := (newPlace i binds c.hall c.slot).1, slot := (newPlace i binds c.hall c.slot).2 }),
             pools := b.pools.map (fun p => (p.1, State.freeBlocks s r.hall p.1 (taken p.1) p.2.length)) }

/-- The records of a restore bind every group of the gang, by the constraints of R69, R71, R336 and R339; a group is bound with
the registers it holds (R113). -/
def State.restoreTarget (s : State) (i : Image) (t : Task) (binds : List BindWrite) : Bool :=
  binds.length == i.groups.length && i.groups.all (fun g => match bindOf binds g with
    | none => false
    | some r =>
      r.tcb == t.tcb && r.ctx == t.ctx && r.role == LaunchRec.roleAt t.lr r.grp && r.accN == t.lr.acc && r.regN == g.regn &&
      decide (r.slot < Config.slotsPerHall) && (State.groupAt? s r.hall r.slot).isNone && State.hallOpen s t.ctx r.hall &&
      State.homeOk s t r.blk r.hall && binds.all (fun x => (x.blk == r.blk && x.grp == r.grp) || ((x.hall, x.slot) != (r.hall, r.slot) &&
        (x.blk == r.blk) == (x.hall == r.hall) && x.hall / Config.hallsPerGallery == r.hall / Config.hallsPerGallery)))

/-- The records pass the checks of R67, against what the halls hold and against each other, and the pools find room. -/
def State.restoreOk (s : State) (i : Image) (t : Task) (binds : List BindWrite) : Bool :=
  binds.all (fun r =>
    State.bindOk s r t.lr t.ctx t.seq ((List.range r.regN).map (fun j => r.regBase + j)) &&
    binds.all (fun x => (x.blk == r.blk && x.grp == r.grp) || x.hall != r.hall ||
      (apart x.accBase x.accN r.accBase r.accN &&
        (x.slot / 8 != r.slot / 8 || apart x.regBase x.regN r.regBase r.regN) &&
        x.scrBase == r.scrBase && x.stashBase == r.stashBase))) &&
  i.blocks.all (fun b => (b.pools.map (fun p => p.2.length)) == ((State.placeBlock s i binds b).pools.map (fun p => p.2.length)))

/-- One group of an image takes its slot. -/
def State.restoreGroup (s : State) (binds : List BindWrite) (g : Group) : State :=
  match bindOf binds g with
  | none => s
  | some r =>
    let s := if (lookup s.halls r.hall).isSome then s else { s with halls := insert s.halls r.hall Hall.empty }
    let s := State.addGroup { s with ageNext := s.ageNext + 1 } (State.placeGroup s r s.ageNext g)
    State.updPkg s (fun p =>
      { p with spans := p.spans ++ [{ hall := r.hall, ctx := g.ctx, seq := g.seq, since := s.clk, until_ := s.clk }] })

/-- An engine command of an image goes back to its hall's engine, with its scoreboard entries (R328). -/
def State.restoreCmd (s : State) (i : Image) (binds : List BindWrite) (c : Cmd) : State :=
  let p := newPlace i binds c.hall c.slot
  State.updHall s p.1 (fun h =>
    { h with cmds := h.cmds ++ [{ c with hall := p.1, slot := p.2 }],
             ranges := h.ranges ++ (i.ranges.filter (fun r => r.seq == c.seq && r.slot == c.slot && r.num == c.num)).map
               (fun r => { r with slot := p.2 }) })

/-- The image is reloaded (R328). -/
def State.putBack (s : State) (i : Image) (binds : List BindWrite) : State :=
  let s := State.updPkg { s with saved := s.saved.erase i } (fun p => { p with badBind := false })
  let blocks := i.blocks.map (State.placeBlock s i binds)
  let s := i.groups.foldl (fun s g => State.restoreGroup s binds g) s
  let s := { s with blocks := s.blocks ++ blocks, gangs := s.gangs ++ [{ i.gang with bound := i.gang.groups, boundAt := s.clk }] }
  State.startCmds (i.cmds.foldl (fun s c => State.restoreCmd s i binds c) s)

/-- The image cannot be restored: the gang is bound anew, or its task fails with CAUSE 0x61 (R329). -/
def State.loseImage (s : State) (i : Image) (t : Task) : State :=
  if t.lr.relaunch then
    let s := i.groups.foldl State.dropRecords s
    let s := State.dropIssued s i.groups
    let s := State.payCharge s t.ctx t.seq ((i.blocks.map (fun b => b.charge)).foldl (fun a b => a + b) 0)
    { s with saved := s.saved.erase i, gangs := s.gangs ++ [Gang.anew i.gang] }
  else State.failTask s t.ctx t.seq 0x61

/-- RESTORE: `bad` 1 says that the image holds a poisoned line, 2 that context-wide state does (R329) -/
def execRestore (ctx seq gang : Nat) (binds : List BindWrite) (bad : BitVec 2) (s : State) : Out :=
  match s.saved.find? (fun i => i.go && i.gang.ctx == ctx && i.gang.seq == seq && i.gang.idx == gang), State.task? s ctx seq with
  | some i, some t =>
    if bad = 2 then .next (State.killContext s ctx 0x62)
    else if bad = 1 then .next (State.loseImage s i t)
    else if State.restoreTarget s i t binds = false then .next s
    else if State.restoreOk s i t binds then .next (State.putBack s i binds)
    else .next (State.bindFault s)
  | _, _ => .next s

end Sys2Proof.Machine
end

