-- ==== Sys2Proof/Machine/Driver.lean ====
section
/-! DEFINITION. The driver's interface and the management of pages: contexts (R71, R73, R316, R330), quotas and granule tags (R82,
R83), shootdown (R77), residency (R80, R379), migration (R84, R85), TLB and instruction-cache fills (R78, R86), and accesses of
the host (R9, R272). -/

namespace Sys2Proof.Machine

/-- The newel firmware answers the driver: the boot is complete, and the package is in P0 or P1 (R13, R19). -/
def State.driverUp (s : State) : Bool := s.pkg.bootDone == 4 && (s.pkg.power == .p0 || s.pkg.power == .p1)

/-- The waiting steps that satisfy `p` are taken again, before steps that arrived later (R11, R19, R84, R379). -/
def State.releaseIf (s : State) (p : Instr → Bool) : State :=
  { State.updPkg s (fun k => { k with waiting := k.waiting.filter (fun i => !p i) }) with events := s.pkg.waiting.filter p ++ s.events }

/-- Every step that waits is taken again. -/
def State.release (s : State) : State := State.releaseIf s (fun _ => true)

/-- A step waits. -/
def State.hold (s : State) (i : Instr) : State := State.updPkg s (fun p => { p with waiting := p.waiting ++ [i] })

/-! ## Contexts -/

/-- A context as the driver creates it: SEQ starts at 1 (R48), each class has 4 ways (R83). -/
def Ctx.create (p : CtxParams) : Ctx :=
  { root := p.root, tbase := 0, checking := p.checking, bounded := p.bounded, lockMask := p.lockMask, pubTable := p.pubTable,
    quotas := [4, 4, 4, 4], sets := [], setCounts := [], nextSeq := 1, pubs := [], traces := [], dbg := Debug.zero, shoot := [],
    lockHalted := false }

/-- A lockstep mask may be given: the bridge is trained, no other context has a block on its dies, and no other lockstep context
has one of them (R22, R71). -/
def State.maskOk (s : State) (m : BitVec 4) : Bool :=
  m == 0 || (s.pkg.paired && s.blocks.all (fun b => !m.getLsbD (dieOfHall b.hall)) && s.ctxs.all (fun c => c.2.lockMask &&& m == 0))

/-- CONTEXT_CREATE: the root is 16 KiB aligned (R73), the publish table 64-byte entries of a mapped range (R212) -/
def execContextCreate (ctx : Nat) (p : CtxParams) (s : State) : Out :=
  if State.driverUp s = false ∨ ctx ≥ Config.contexts ∨ (State.ctx? s ctx).isSome = true ∨ p.root % 16384 ≠ 0 ∨
      State.maskOk s p.lockMask = false then .next s
  else .next { s with ctxs := insert s.ctxs ctx (Ctx.create p) }

/-- CONTEXT_KILL: the driver, or containment, kills a context (R330) -/
def execContextKill (ctx : Nat) (s : State) : Out :=
  match State.ctx? s ctx with
  | none => .next s
  | some _ => .next (State.killContext s ctx 0x63)

/-- CONTEXT_DESTROY: what is left of the context ends as in a kill, and the context is gone with its debug-edited flag (R17) -/
def execContextDestroy (ctx : Nat) (s : State) : Out :=
  match State.ctx? s ctx with
  | none => .next s
  | some _ =>
    let s := State.killContext s ctx 0x63
    .next { s with
      ctxs := remove s.ctxs ctx, tasks := s.tasks.filter (fun t => t.ctx != ctx),
      halls := s.halls.map (fun h => (h.1, { h.2 with
        tlb := h.2.tlb.filter (fun e => e.ctx != ctx), icache := h.2.icache.filter (fun e => e.ctx != ctx),
        samples := h.2.samples.filter (fun x => x.1 != ctx) })),
      pkg := { s.pkg with collectives := s.pkg.collectives.filter (fun x => x.ctx != ctx) } }

/-- SET_TRAP_BASE: a 16-byte-aligned virtual address, 0 for no handler (R316) -/
def execSetTrapBase (ctx : Nat) (tbase : DWord) (s : State) : Out :=
  if tbase.toNat % 16 ≠ 0 then .next s else .next (State.updCtx s ctx (fun x => { x with tbase := tbase }))

/-- SET_WAY_QUOTA: quotas of the classes W, A, K and O, at most 16 ways together (R83); `quotas` holds them by class code -/
def execSetWayQuota (ctx w a k o : Nat) (s : State) : Out :=
  if w + a + k + o > 16 then .next s else .next (State.updCtx s ctx (fun x => { x with quotas := [o, w, a, k] }))

/-! ## Granule tags (R82) -/

/-- A granule's memory tag; tag 0 is not listed. -/
def State.setTag (s : State) (gr : Nat) (tag : BitVec 4) : State :=
  { s with gtags := if tag = 0 then remove s.gtags gr else insert s.gtags gr tag }

/-- SET_GRANULE_TAGS: `n` granules from a granule's address on, each in the order of its coherence -/
def execSetGranuleTags (ctx : Nat) (va : DWord) (n : Nat) (tag : BitVec 4) (s : State) : Out :=
  .next ((List.range n).foldl (fun s i =>
    let a := vaOf va / 32 * 32 + 32 * i
    match State.walk s ctx a with
    | .leaf l _ => if Leaf.v l then State.setTag s (State.physOf s ctx l true a / 32) tag else s
    | .absent => s) s)

/-! ## Entries of the page table (R75, R77) -/

/-- The entries that map one page: a large page has repeats (R75). -/
def pageEntries (l : DWord) (pte : Nat) : List Nat :=
  let n := if Leaf.size l = 1 then 32 else if Leaf.size l = 2 then 16 else 1
  (List.range n).map (fun i => pte / (8 * n) * (8 * n) + 8 * i)

/-- Every entry of a page changes; each repeat keeps what the change leaves of it, its A and D bits too. -/
def State.writeLeaf (s : State) (old : DWord) (pte : Nat) (f : DWord → DWord) : State :=
  (pageEntries old pte).foldl (fun s p =>
    State.writePte s p (f (BitVec.ofNat 64 (Memory.num (State.sysMem s) p 8)))) s

/-- The granule tags of a frame are zero (R82). -/
def State.zeroTags (s : State) (frame n : Nat) : State :=
  { s with gtags := s.gtags.filter (fun p => !(decide (frame / 32 ≤ p.1) && decide (p.1 < (frame + n) / 32))) }

/-- A page has a new leaf: one that is newly mapped with T = 1 has every granule tag zero (R82). -/
def State.newlyMapped (s : State) (old new : DWord) : State :=
  if Leaf.v new && Leaf.t new && !(Leaf.v old && Leaf.t old && Leaf.frame old == Leaf.frame new) then
    State.zeroTags s (Leaf.frame new) (2 ^ Leaf.offBits new)
  else s

/-- The dies where a lockstep context's pages may live (R71). -/
def State.frameAllowed (s : State) (c frame : Nat) : Bool :=
  State.lockMask s c == 0 || Config.isHostMemory frame || (State.lockMask s c).getLsbD (Config.dieOf frame).val

/-- No hall holds the translation of an address any more, nor lines of its page in its instruction cache (R77, R86). -/
def State.shootdown (s : State) (c va : Nat) : State :=
  let bits_ := match State.walk s c va with | .leaf l _ => Leaf.offBits l | .absent => 16
  { s with halls := s.halls.map (fun h =>
      let bits_ := match h.2.tlb.find? (fun e => TlbEntry.covers e c va) with | some e => max bits_ (Leaf.offBits e.leaf) | none => bits_
      (h.1, { h.2 with
        tlb := h.2.tlb.filter (fun e => !(TlbEntry.covers e c va) && !(e.ctx == c && e.page * 65536 / 2 ^ bits_ == va / 2 ^ bits_)),
        icache := h.2.icache.filter (fun e => !(e.ctx == c && e.va / 2 ^ bits_ == va / 2 ^ bits_)) })) }

/-- SHOOTDOWN_REQUEST: the driver changes or removes a resident leaf, or shoots down a page whose contents it changed (R77, R86) -/
def execShootdownRequest (ctx : Nat) (va leaf : DWord) (s : State) : Out :=
  match State.walk s ctx (vaOf va) with
  | .absent => .next s
  | .leaf l pte =>
    if Leaf.v l = false ∨ Leaf.g l = true ∨ (Leaf.v leaf = true ∧ State.frameAllowed s ctx (Leaf.frame leaf) = false) then .next s
    else .next (State.updCtx (State.newlyMapped (State.writeLeaf s l pte (fun _ => leaf)) l leaf) ctx
      (fun x => { x with shoot := x.shoot ++ [pageOf (vaOf va)] }))

/-- SHOOTDOWN_COMPLETE -/
def execShootdownComplete (ctx : Nat) (va : DWord) (s : State) : Out :=
  match State.ctx? s ctx with
  | none => .next s
  | some x =>
    if x.shoot.contains (pageOf (vaOf va)) then
      .next (State.updCtx (State.shootdown s ctx (vaOf va)) ctx (fun x => { x with shoot := x.shoot.erase (pageOf (vaOf va)) }))
    else .next s

/-! ## Residency (R80, R81, R379) -/

/-- The frame of a leaf, and V, put aside: what the newel may not change when it makes a page resident. -/
def leafRest (l : DWord) : DWord := Leaf.withFrame (Leaf.clear l 0) 0

/-- A page is resident or absent: the groups that wait for it need it no more (R80). -/
def State.pageArrived (s : State) (c va : Nat) (n : Nat) : State :=
  let hit := fun (p : Nat) => p * 65536 / 2 ^ n == va / 2 ^ n
  let fix := fun (g : Group) =>
    { g with pending := match g.pending with
      | some (.restart ps) => some (.restart (ps.filter (fun p => !hit p)))
      | x => x }
  let s := State.mapGroups s (fun g => g.ctx == c) fix
  { s with saved := s.saved.map (fun i => { i with groups := mapIf i.groups (fun g => g.ctx == c) fix }) }

/-- PAGE_RESIDENT: the newel makes a non-resident page resident at a frame, or writes its entry absent (R80); a page with T = 1
has every granule tag zero (R82) -/
def execPageResident (ctx : Nat) (va leaf : DWord) (s : State) : Out :=
  match State.walk s ctx (vaOf va) with
  | .absent => .next s
  | .leaf l pte =>
    if Leaf.v l = true ∨ (leaf ≠ 0 ∧ (Leaf.v leaf = false ∨ leafRest leaf ≠ leafRest l ∨
        Leaf.frame leaf % 2 ^ Leaf.offBits l ≠ 0 ∨ State.frameAllowed s ctx (Leaf.frame leaf) = false)) then .next s
    else
      let s := State.writeLeaf s l pte (fun x => if leaf = 0 then 0 else Leaf.withFrame (Leaf.set x 0) (Leaf.frame leaf))
      let s := State.newlyMapped s l leaf
      .next (State.release (State.settleLate (State.pageArrived s ctx (vaOf va) (Leaf.offBits l))))

/-! ## Migration (R84, R85) -/

/-- A block of a bounded task of the context is resident (R85). -/
def State.boundedResident (s : State) (c : Nat) : Bool :=
  s.blocks.any (fun b => b.ctx == c && (State.launchOf s c b.seq).bounded)

/-- Entries of a table keyed by place copied from one range to another. -/
def copyRange {α : Type} (t : List (Nat × α)) (from_ to_ n : Nat) : List (Nat × α) :=
  let rest := t.filter (fun p => !(decide (to_ ≤ p.1) && decide (p.1 < to_ + n)))
  (t.filter (fun p => decide (from_ ≤ p.1) && decide (p.1 < from_ + n))).foldl
    (fun r p => insert r (p.1 - from_ + to_) p.2) rest

/-- The access counters of a range of pages go with it to another frame (R84). -/
def State.moveCounts (s : State) (from_ to_ n : Nat) : State :=
  { s with pageCounts := copyRange (s.pageCounts.filter (fun p => !(decide (to_ ≤ p.1) && decide (p.1 < to_ + n)))) from_ to_ n
      |>.filter (fun p => !(decide (from_ ≤ p.1) && decide (p.1 < from_ + n))) }

/-- A page begins to move: G is set, the translation shot down, cached and stashed lines recalled. A page of a lockstep context
moves only while the packages are paired, by a decision that the bridge carries to the other one (R71, R85). -/
def State.startMigration (s : State) (ctx : Nat) (va : DWord) : State :=
  match State.walk s ctx (vaOf va) with
  | .absent => s
  | .leaf l pte =>
    if Leaf.v l = false ∨ Leaf.g l = true ∨ Leaf.s l = true ∨ State.boundedResident s ctx = true ∨
        (State.lockMask s ctx ≠ 0 ∧ s.pkg.paired = false) then s
    else
      let s := State.writeLeaf s l pte (fun x => Leaf.set x 11)
      let s := State.uncache (State.shootdown s ctx (vaOf va)) (Leaf.frame l) (2 ^ Leaf.offBits l)
      let lo := Leaf.frame l / 128
      s.blocks.foldl (fun s b => State.flushBlock s b.ctx b.seq b.blk
        (fun x => decide (lo ≤ x.pa) && decide (x.pa < lo + 2 ^ Leaf.offBits l / 128)) false) s

/-- MIGRATION_START -/
def execMigrationStart (ctx : Nat) (va : DWord) (s : State) : Out := .next (State.startMigration s ctx va)

/-- A number of a moved range, at its new place. -/
def movedTo (from_ to_ n k : Nat) : Nat := if from_ ≤ k ∧ k < from_ + n then k - from_ + to_ else k

/-- A run of memory copied to another place, nothing else changed. -/
def Memory.copy (m : Memory) (from_ to_ n : Nat) : Memory :=
  let src := m.filter (fun p => decide (from_ ≤ p.1) && decide (p.1 < from_ + n))
  let old := m.filter (fun p => decide (to_ ≤ p.1) && decide (p.1 < to_ + n))
  let m := old.foldl (fun m p => Memory.write m p.1 0) m
  src.foldl (fun m p => Memory.write m (p.1 - from_ + to_) p.2) m

/-- A leaf that an access was classified with, once its page stands at a new frame. -/
def moveLeaf (old : Nat) (new : Nat) (n : Nat) (l : DWord) : DWord :=
  if Leaf.v l && Leaf.frame l == old && Leaf.offBits l == n then Leaf.withFrame l new else l

/-- What a group has pending goes to the new frame. -/
def Group.moveFrame (g : Group) (f : DWord → DWord) : Group :=
  let sw := fun (w : StoreWord) => { w with parts := w.parts.map (fun p => { p with leaf := f p.leaf }) }
  { g with
    sbuf := g.sbuf.map sw, held := g.held.map sw,
    outst := g.outst.map (fun o =>
      { o with parts := o.parts.map (fun p => { p with leaf := f p.leaf }),
               op := match o.op with | .store w => .store (sw w) | x => x }),
    lanes := g.lanes.map (fun x => { x with region := { x.region with
      stores := x.region.stores.map (fun w => { w with leaf := f w.leaf }) } }) }

/-- MIGRATION_COMPLETE: data and tags are copied, the new FRAME is written, G is cleared, and what was held goes on -/
def execMigrationComplete (ctx : Nat) (va : DWord) (frame : Nat) (s : State) : Out :=
  match State.walk s ctx (vaOf va) with
  | .absent => .next s
  | .leaf l pte =>
    let n := 2 ^ Leaf.offBits l
    let old := Leaf.frame l
    if Leaf.g l = false ∨ frame % n ≠ 0 ∨ frame ≥ 2 ^ 56 ∨ State.frameAllowed s ctx frame = false then .next s
    else
      let s := { s with
        mem := if frame = old then s.mem else Memory.copy s.mem old frame n,
        gtags := if frame = old then s.gtags else copyRange s.gtags (old / 32) (frame / 32) (n / 32),
        gpoison := if frame = old then s.gpoison else
          (s.gpoison.filter (fun g => !(decide (frame / 32 ≤ g) && decide (g < (frame + n) / 32)))) ++
          (s.gpoison.filter (fun g => decide (old / 32 ≤ g) && decide (g < (old + n) / 32))).map
            (fun g => g - old / 32 + frame / 32),
        sideband := s.sideband.filter (fun x => !(decide (frame / 128 ≤ x) && decide (x < (frame + n) / 128))) }
      let s := State.writeLeaf s l pte (fun x => Leaf.withFrame (Leaf.clear x 11) frame)
      let s := if frame = old then s else State.moveCounts s (old / 65536) (frame / 65536) (n / 65536)
      let f := moveLeaf old frame (Leaf.offBits l)
      let s := State.mapGroups s (fun g => g.ctx == ctx) (fun g => Group.moveFrame g f)
      let s := { s with saved := s.saved.map (fun i =>
        { i with groups := mapIf i.groups (fun g => g.ctx == ctx) (fun g => Group.moveFrame g f) }) }
      let s := State.updDebug s ctx (fun d =>
        { d with rpLast := d.rpLast.map (fun p => (movedTo (old / 128) (frame / 128) (n / 128) p.1, p.2)) })
      .next (State.release s)

/-! ## Fills -/

/-- TLB_WALK_COMPLETE -/
def execTlbWalkComplete (hall ctx : Nat) (va : DWord) (s : State) : Out :=
  if hall < Config.halls then .next (State.fillTlb s hall ctx (vaOf va)) else .next s

/-- PACKET_FETCH_FILL: the packet's line is filled as a fetch would fill it -/
def execPacketFetchFill (hall ctx : Nat) (va : DWord) (s : State) : Out :=
  if hall ≥ Config.halls ∨ vaOf va % 16 ≠ 0 ∨
      (State.hall s hall).icache.any (fun l => l.ctx == ctx && l.va == vaOf va) = true then .next s
  else match State.translate s hall ctx (vaOf va) with
    | .absent => .next s
    | .leaf l _ =>
      if fetchFails s ctx (vaOf va) l ∨ fetchWaits s ctx (vaOf va) l then .next s
      else .next (State.fillPacket s hall ctx (vaOf va) l).2

/-- TAG_VERDICT: the granule tags of a line stand beside L2 (R79) -/
def execTagVerdict (line : Nat) (s : State) : Out :=
  .next { s with sideband := if s.sideband.contains line then s.sideband else s.sideband ++ [line] }

/-- SLICE_REHOMING_DONE: accesses to a fenced slice's addresses proceed (R336) -/
def execSliceRehomingDone (unit : Nat) (s : State) : Out :=
  if (State.unit s unit).rehoming then .next (State.release (State.updUnit s unit (fun x => { x with rehoming := false }))) else .next s

/-! ## The host's accesses (R9, R84, R272) -/

/-- The addresses of a table's entries that memory lists. -/
def listedEntries (m : Memory) (base n : Nat) : List Nat :=
  ((m.filter (fun p => decide (base ≤ p.1) && decide (p.1 < base + 8 * n))).map (fun p => p.1 / 8 * 8)).eraseDups

/-- The entries of a context's page table that can be leaves, by the tables of two levels (R73, R74). -/
def leafEntries (m : Memory) (root : Nat) : List Nat :=
  let sub := fun (es : List Nat) => (es.map (fun p => (BitVec.ofNat 64 (Memory.num m p 8) : DWord))).filterMap (fun e =>
    if !Leaf.isLeaf e && Leaf.v e && bits e.toNat 1 12 == 0 && bits e.toNat 56 8 == 0 then some (bits e.toNat 13 43 * 8192) else none)
  let l2 := (sub (listedEntries m root 2048)).flatMap (fun t => listedEntries m t 1024)
  let l1 := (sub l2).flatMap (fun t => listedEntries m t 1024)
  l1 ++ (sub l1).flatMap (fun t => listedEntries m t 1024)

/-- The host has written a run of memory: pages with T = 1 that it has newly mapped there have every granule tag zero (R82). -/
def State.hostMapped (s : State) (before : Memory) (pa n : Nat) : State :=
  let words := (List.range ((pa % 8 + n + 7) / 8)).map (fun i => pa / 8 * 8 + 8 * i)
  let leaf := fun (m : Memory) (p : Nat) => (BitVec.ofNat 64 (Memory.num m p 8) : DWord)
  let hit := words.filter (fun p => Leaf.isLeaf (leaf s.mem p) && s.ctxs.any (fun c => (leafEntries s.mem c.2.root).contains p))
  hit.foldl (fun s p => State.newlyMapped s (leaf before p) (leaf s.mem p)) s

/-- One run of a host access within a page: at the page's home, where a stash is recalled from (R207). -/
def State.hostRun (s : State) (c va : Nat) (write : Bool) (n : Nat) (bs : List Byte) : State :=
  match State.walk s c va with
  | .absent => s
  | .leaf l _ =>
    if Leaf.v l = false then s
    else
      let pa := State.physOf s c l true va
      let s := State.reach s 4 c l pa n
      if write then
        let t := State.recall s none pa n true
        State.hostMapped (State.writeRun t none va pa bs false) t.mem pa n
      else
        let (bs, s) := State.readRun s none va pa n
        State.updPkg s (fun p => { p with hostRead := p.hostRead ++ bs })

/-- A host access cannot be performed yet: a page of it is being moved, a home slice rehomed, or it writes a granule that a commit has
locked (R84, R292, R336). -/
def State.hostHeld (s : State) (ctx : Nat) (va : DWord) (write : Bool) (n : Nat) : Bool :=
  (splitPages (BitVec.ofNat 64 (vaOf va)) n).any (fun p => match State.walk s ctx (vaOf p.1) with
    | .leaf l _ =>
      let pa := State.physOf s ctx l true (vaOf p.1)
      Leaf.v l && (Leaf.g l || State.rehoming s pa p.2 || (write && State.locked s pa p.2))
    | .absent => false)

/-- The bytes of a host access. -/
def hostBytes (write : Bool) (len : Nat) (data : List Byte) : Nat := if write then data.length else len

/-- A host access that waits need wait no more. -/
def State.hostGoes (s : State) : Instr → Bool
  | .hostAccess c va w len data => !State.hostHeld s c va w (hostBytes w len data)
  | _ => false

/-- HOST_ACCESS: one run after another; it is held while it cannot be performed -/
def execHostAccess (ctx : Nat) (va : DWord) (write : Bool) (len : Nat) (data : List Byte) (s : State) : Out :=
  let n := hostBytes write len data
  if State.hostHeld s ctx va write n then .next (State.hold s (.hostAccess ctx va write len data))
  else
    let s := if write then s else State.updPkg s (fun p => { p with hostRead := [] })
    .next ((splitPages (BitVec.ofNat 64 (vaOf va)) n).foldl (fun (x : Nat × State) p =>
      (x.1 + p.2, State.hostRun x.2 ctx (vaOf p.1) write p.2 ((data.drop x.1).take p.2))) (0, s)).2

end Sys2Proof.Machine
end

