-- ==== Sys2Proof/Machine/Registers.lean ====
section
/-! DEFINITION. The control aperture (R10): posts (R11, R48), the queue page (R46, R47), the health record and attestation pages
(R15, R334), and the fields of the mailbox that have no behaviour of their own (R363). -/

namespace Sys2Proof.Machine

/-- Gocen Link is trained and up (R13, R19). -/
def State.linkUp (s : State) : Bool := s.pkg.bootDone == 4 && s.pkg.power != .off

/-! ## The suspects' and units' summary (R334, R339) -/

/-- Halls counted as retired (R339). -/
def State.retiredHalls (s : State) : Nat :=
  if s.pkg.units.isEmpty then 0 else ((List.range Config.halls).filter (fun h => State.hallRetired s h)).length

/-- REPLACE_ASK is set where R339 says, and stays set. -/
def State.askReplace (s : State) : State :=
  let lost := s.pkg.units.any (fun u => u.2.st == 2 && decide (u.1 ≥ 9216))
  if 1000 * State.retiredHalls s > s.pkg.hallpm * Config.halls ∨ (s.pkg.dielvl ∧ lost) then
    State.updPkg s (fun p => { p with replaceAsk := true })
  else s

/-! ## The queue page (R46, R47) -/

/-- POSTERR goes up by 1. -/
def State.postError (s : State) (q : Nat) : State := State.updQueue s q (fun x => { x with posterr := satInc x.posterr })

/-- READY of QSTAT: tasks that have become ready and have undispatched blocks, some dispatched or none (R46, R50). DEDUCED, log
entry 40. -/
def State.readyCount (s : State) (q : Nat) : Nat := (s.tasks.filter (fun t => t.queue == q && Task.dispatchable t)).length

/-- WAITING of QSTAT: tasks of the queue whose predecessor count is not zero (R46). -/
def State.waitingCount (s : State) (q : Nat) : Nat :=
  (s.tasks.filter (fun t => t.queue == q && State.tcbField s t.ctx t.tcb 0x1C 4 != 0)).length

/-- A block of the queue is resident or saved (R47). -/
def State.queueBusy (s : State) (q : Nat) : Bool :=
  s.blocks.any (fun b => State.queueOf s b.ctx b.seq == q) || s.saved.any (fun i => State.queueOf s i.gang.ctx i.gang.seq == q)

/-- A write to a register of a queue page that takes supervisor writes only; `bad` refuses the value (R47). -/
def State.queueWrite (s : State) (q : Nat) (sup bad : Bool) (f : Queue → Queue) : Out :=
  if State.linkUp s = false ∨ q ≥ Config.queues then .next s
  else if sup && !bad then .next (State.updQueue s q f)
  else .next (State.postError s q)

/-- QCFG_WRITE: a change of CTX needs an empty queue; PRIO, QUANTUM and PRE act from the queue's next visit on -/
def execQcfgWrite (q : Nat) (sup : Bool) (v : DWord) (s : State) : Out :=
  let n := v.toNat
  let en := n.testBit 8
  let reserved := bits n 56 8 != 0 || bits n 10 6 != 0 || bits n 7 1 != 0
  let moves := bits n 48 8 != (State.queue s q).ctx
  let full := State.readyCount s q != 0 || State.waitingCount s q != 0 || State.queueBusy s q
  State.queueWrite s q sup (reserved || (en && bits n 16 32 == 0) || (moves && full)) (fun x =>
    { x with cfg := v, en := en, ctx := bits n 48 8 })

/-- QOVFBASE_WRITE -/
def execQovfbaseWrite (q : Nat) (sup : Bool) (v : DWord) (s : State) : Out :=
  State.queueWrite s q sup (bits v.toNat 57 7 != 0 || bits v.toNat 0 8 != 0) (fun x => { x with ovfBase := v })

/-- QOVFSZ_WRITE -/
def execQovfszWrite (q : Nat) (sup : Bool) (v : DWord) (s : State) : Out :=
  let cap := bits v.toNat 0 32
  let mx := bits v.toNat 32 32
  State.queueWrite s q sup (decide (cap > mx)) (fun x => { x with ovfMax := mx, ovfCap := cap })

/-- QRBASE_WRITE -/
def execQrbaseWrite (q : Nat) (sup : Bool) (v : DWord) (s : State) : Out :=
  State.queueWrite s q sup (bits v.toNat 57 7 != 0 || decide (bits v.toNat 0 4 > 12)) (fun x =>
    { x with qrBase := BitVec.ofNat 64 (bits v.toNat 4 53 * 16), qrLog2 := bits v.toNat 0 4 })

/-! ## Posting (R11, R48) -/

/-- An earlier post to the queue waits; later ones are taken after it (R11). -/
def State.postBehind (s : State) (q : Nat) : Bool :=
  s.pkg.waiting.any (fun i => match i with | .post p _ _ => p == q | _ => false)

/-- The steps of a post, the newel awake (R48). -/
def State.postTcb (s : State) (q : Nat) (tcb : DWord) : State :=
  let page := State.queue s q
  let c := page.ctx
  let again := State.hold s (.post q 64 tcb)
  if State.postBehind s q then again
  else if page.en = false ∨ (State.ctx? s c).isNone = true then State.postError s q
  else if State.missing s c true tcb.toNat 128 then again
  else if State.canAccess s c true tcb.toNat 128 = false ∨ State.tcbClean s c tcb = false ∨ State.tcbField s c tcb 0x3C 2 ≠ q then
    State.postError s q
  else
    let e := State.takeEntry s c q (dieOfQueue q) none
    if State.acceptWaits s c q tcb e then again
    else match e with
      | none => State.postError s q
      | some e => State.accept s c q tcb e none

/-- POST: in P1 it makes the newel leave P1 and waits for it, in P2 it waits (R19) -/
def execPost (q width : Nat) (v : DWord) (s : State) : Out :=
  if State.linkUp s = false ∨ q ≥ Config.queues ∨ width ≠ 64 then .next s
  else if bits v.toNat 57 7 ≠ 0 ∨ bits v.toNat 0 7 ≠ 0 then .next (State.postError s q)
  else if s.pkg.power = .p0 ∧ s.pkg.exiting = false then .next (State.postTcb s q v)
  else
    let s := State.hold s (.post q width v)
    .next (State.updPkg s (fun p => { p with exiting := p.exiting || p.power == .p1 }))

/-! ## Reading the pages (R10) -/

/-- The 64-bit word of a queue page at an offset (R46). -/
def State.readQueue (s : State) (q off : Nat) : Nat :=
  let x := State.queue s q
  match off with
  | 0x08 => x.posterr.toNat
  | 0x10 => State.readyCount s q * 2 ^ 32 + State.waitingCount s q
  | 0x18 => (BitVec.ofInt 64 x.deficit : DWord).toNat
  | 0x20 => x.cfg.toNat
  | 0x28 => x.ovfBase.toNat
  | 0x30 => x.ovfMax * 2 ^ 32 + x.ovfCap
  | 0x38 => x.qrBase.toNat + x.qrLog2
  | 0x40 => x.qrHead.toNat
  | 0x48 => x.qrTail.toNat
  | 0x50 => x.qrDrop.toNat
  | 0x58 => x.depErr.toNat
  | _ => 0

/-- The word of a unit: STATE and SCORE (R335). -/
def UnitSt.word (u : UnitSt) : Nat := u.st * 2 ^ 14 + u.score

/-- A unit id: its kind and its index (R333). -/
def unitId (u : Nat) : Nat :=
  if u < 1536 then u else if u < 3072 then 2 ^ 28 + (u - 1536) else if u < 9216 then 2 * 2 ^ 28 + (u - 3072)
  else if u < 9280 then 3 * 2 ^ 28 + (u - 9216) else 4 * 2 ^ 28 + (u - 9280)

/-- The 64 bytes of a suspect record (R340). -/
def Suspect.bytes (x : Suspect) : List Byte :=
  leBytes 4 (unitId x.unit) ++ leBytes 4 0 ++ leBytes 8 x.clkFrom ++ leBytes 8 x.clkTo ++ leBytes 4 x.nseq ++ leBytes 4 x.ncid ++
  leBytes 8 x.list.toNat ++ leBytes 4 (if x.trunc then 1 else 0) ++ leBytes 20 0

/-- Units now fenced for test (R334). -/
def State.fencedUnits (s : State) : Nat := (s.pkg.units.filter (fun u => u.2.st == 1)).length

/-- The 64-bit word of the health record page at an offset (R334). -/
def State.readHealth (s : State) (off : Nat) : Nat :=
  let p := s.pkg
  let b := fun (x : Bool) (n : Nat) => if x then n else 0
  if off = 0 then
    p.bootHalt * 256 + b p.hot 8 + b p.diverged 4 + b p.thermal 2 + b p.replaceAsk 1 +
      (State.fencedUnits s % 65536 * 65536 + State.retiredHalls s) * 2 ^ 32
  else if off = 8 then p.fwFault.toNat + p.suspHead.toNat * 2 ^ 32
  else if off = 0x10 then b p.dielvl 32768 + p.hallpm + p.divint.toNat * 2 ^ 32
  else if off = 0x18 then p.suspArea.toNat
  else if off = 0x20 then p.suspLen
  else if 0x1000 ≤ off ∧ off < 0x58A0 then
    leNat ((List.range 4).flatMap (fun k => leBytes 2 (UnitSt.word (State.unit s ((off - 0x1000) / 2 + k)))))
  else if 0x8000 ≤ off ∧ off < 0x9000 then
    match lookup p.suspects ((off - 0x8000) / 64) with
    | some x => leNat (((Suspect.bytes x).drop (off % 64)).take 8)
    | none => 0
  else 0

/-- The first 16 bytes of the health record, which I3C command 0x10 returns (R18, R334). -/
def State.healthSummary (s : State) : List Byte := leBytes 8 (State.readHealth s 0) ++ leBytes 8 (State.readHealth s 8)

/-- The 64-bit word of the attestation service page at an offset (R15). -/
def State.readAttest (s : State) (off : Nat) : Nat :=
  let p := s.pkg
  if off < 0x20 then leNat ((p.attNonce.drop off).take 8)
  else if off = 0x20 then p.attCtx * 256 + (if p.attStat = 1 then 1 else 0)
  else if off = 0x28 then p.attStat
  else if 0x100 ≤ off ∧ off < 0x2C0 then leNat ((p.attBuf.drop (off - 0x100)).take 8)
  else 0

/-! ## Writing fields with no behaviour of their own (R8) -/

/-- A write of some bits of a 64-bit word: the rest of the word stands. -/
def mergeWord (old off width v : Nat) : Nat :=
  let lo := 8 * (off % 8)
  old % 2 ^ lo + v % 2 ^ width * 2 ^ lo + old / 2 ^ (lo + width) * 2 ^ (lo + width)

/-- A word of the health record page is written by a supervisor (R334): a nonzero reserved field is a firmware fault. -/
def State.writeHealth (s : State) (off v : Nat) : State :=
  let bad := State.updPkg s (fun p => { p with fwFault := satInc p.fwFault })
  if off = 0x10 then
    if bits v 16 16 ≠ 0 then bad
    else State.askReplace (State.updPkg s (fun p => { p with dielvl := v.testBit 15, hallpm := bits v 0 15 }))
  else if off = 0x18 then
    if v % 8 ≠ 0 then bad else State.updPkg s (fun p => { p with suspArea := BitVec.ofNat 64 v, suspNext := 0 })
  else if off = 0x20 then State.updPkg s (fun p => { p with suspLen := bits v 0 32, suspNext := 0 })
  else s

/-- A word of the nonce is written (R15). -/
def State.writeAttest (s : State) (off v : Nat) : State :=
  if off < 0x20 then State.updPkg s (fun p => { p with attNonce := putBytes p.attNonce off (leBytes 8 v) }) else s

/-- A comparator (R363): its offset is a valid lpc value. -/
def writeBp (d : Debug) (n off v : Nat) : Debug :=
  let p := (lookup d.bps n).getD { hsp := false, en := false, offset := 0, lrec := 0 }
  let o : Word := BitVec.ofNat 32 v
  if off % 16 = 8 then { d with bps := insert d.bps n { p with lrec := BitVec.ofNat 64 v } }
  else if bits v 34 30 ≠ 0 ∨ validLpc o = false then d
  else { d with bps := insert d.bps n { p with hsp := v.testBit 33, en := v.testBit 32, offset := o } }

/-- A watchpoint (R363): KIND 1 to 3, LEN 1 to 65,536. -/
def writeWp (d : Debug) (n off v : Nat) : Debug :=
  let p := (lookup d.wps n).getD { addr := 0, en := false, kind := 0, scratch := false, len := 0 }
  if off % 16 = 0 then { d with wps := insert d.wps n { p with addr := BitVec.ofNat 64 v } }
  else if bits v 36 28 ≠ 0 ∨ bits v 17 15 ≠ 0 ∨ bits v 33 2 = 0 ∨ bits v 0 17 = 0 ∨ bits v 0 17 > 65536 then d
  else
    let x : Wp := { p with en := v.testBit 35, kind := BitVec.ofNat 2 (bits v 33 2), scratch := v.testBit 32, len := bits v 0 17 }
    { d with wps := insert d.wps n x }

/-- A word of a mailbox is written; a bad value changes nothing (R363). -/
def writeMailbox (d : Debug) (off v : Nat) : Debug :=
  let w : DWord := BitVec.ofNat 64 v
  if off = 0x20 then (if v % 4096 ≠ 0 ∨ bits v 19 45 ≠ 0 then d else { d with scrWin := v / 4096 })
  else if 0x100 ≤ off ∧ off < 0x180 then (if d.right then writeBp d ((off - 0x100) / 16) off v else d)
  else if 0x200 ≤ off ∧ off < 0x240 then (if d.right then writeWp d ((off - 0x200) / 16) off v else d)
  else if off = 0x308 then
    (if bits v 57 7 ≠ 0 ∨ v % 16 > 12 then d else { d with smpBase := BitVec.ofNat 64 (v / 16 * 16), smpLog2 := v % 16 })
  else if off = 0x318 then { d with smpTail := BitVec.ofNat 32 v }
  else if off = 0x340 then
    (if bits v 57 7 ≠ 0 ∨ bits v 5 7 ≠ 0 ∨ v % 32 > 18 then d
      else { d with trBase := BitVec.ofNat 64 (v / 4096 * 4096), trLog2 := v % 32 })
  else if off = 0x350 then { d with trTail := w }
  else if off = 0x388 then (if bits v 57 7 ≠ 0 ∨ v % 16 ≠ 0 then d else { d with rpBase := w })
  else if off = 0x390 then (if v % 16 ≠ 0 then d else { d with rpSize := w })
  else if off = 0x3C0 then (if v % 4096 ≠ 0 then d else { d with dumpBase := w })
  else if off = 0x3C8 then { d with dumpSize := w }
  else d

end Sys2Proof.Machine
end

