-- ==== Sys2Proof/Machine/Board.lean ====
section
/-! DEFINITION. The start and the board: package reset and the measured boot (R12, R13), attestation (R14 to R17), the I3C target
(R18), power states and cooling (R19, R20), and the lockstep bridge (R22). -/

namespace Sys2Proof.Machine

/-! ## Losing the state (R12, R19) -/

/-- What stacked DRAM holds once it has been off or reset is open: bytes that were written there are free bytes (log entry 9);
host memory stands. -/
def lostMemory (m : Memory) (n : Nat) : Memory :=
  ((List.range m.length).zip m).foldl (fun r p =>
    if Config.isHostMemory p.2.1 then Memory.write r p.2.1 p.2.2 else Memory.write r p.2.1 (Config.freeByte (n + p.1))) []

/-- The package with nothing kept but what outlasts a reset: the boot counter, HOT, the units retired (R14, R334, R336). -/
def Pkg.clear (p : Pkg) : Pkg :=
  { Pkg.reset with
    bootCount := p.bootCount, hot := p.hot,
    units := (p.units.filter (fun u => u.2.st == 2)).map (fun u => (u.1, { u.2 with passedAt := 0, fencedAt := 0 })) }

/-- The machine after everything else is lost. -/
def State.lost (s : State) : State :=
  { State.reset with mem := lostMemory s.mem s.free, free := s.free + s.mem.length, pkg := Pkg.clear s.pkg }

/-- PACKAGE_RESET: measurements are cleared, the boot counter goes up by 1 (R12, R14) -/
def execPackageReset (s : State) : Out :=
  .next (State.askReplace (State.updPkg (State.lost s) (fun p => { p with bootCount := p.bootCount + 1 })))

/-! ## The boot sequence (R12, R13) -/

/-- An extend of a measurement register with an image (R12). -/
def Pkg.extend (p : Pkg) (n : Nat) (image : List Byte) : Pkg :=
  { p with meas := p.meas.set n (sha384 (p.meas.getD n [] ++ sha384 image)) }

/-- A step of the sequence: the image is measured, or the sequence halts at the step. -/
def State.bootLoad (s : State) (n : Nat) (loaded : Bool) (image : List Byte) : State :=
  if s.pkg.bootDone + 1 ≠ n ∨ s.pkg.bootHalt ≠ 0 ∨ s.pkg.power = .off then s
  else State.updPkg s (fun p => if loaded then { Pkg.extend p (n - 1) image with bootDone := n } else { p with bootHalt := n })

/-- BOOT_LOAD_FIRST_STAGE: step 1 extends MEAS0 -/
def execBootLoadFirstStage (loaded : Bool) (image : List Byte) (s : State) : Out := .next (State.bootLoad s 1 loaded image)

/-- BOOT_LOAD_NEWEL_FIRMWARE: step 2 extends MEAS1 -/
def execBootLoadNewelFirmware (loaded : Bool) (image : List Byte) (s : State) : Out := .next (State.bootLoad s 2 loaded image)

/-- BOOT_LOAD_COLLECTIVE_MICROCODE: step 3 extends MEAS2 -/
def execBootLoadCollectiveMicrocode (loaded : Bool) (image : List Byte) (s : State) : Out :=
  .next (State.bootLoad s 3 loaded image)

/-- BOOT_RELEASE: step 4 sets the chain-complete flag, trains the links, and releases the newel cores; a port that fails to train
has no entry, the first tree set has TSID 1 (R13, R21, R298) -/
def execBootRelease (links : List LinkEntry) (s : State) : Out :=
  if s.pkg.bootDone ≠ 3 ∨ s.pkg.bootHalt ≠ 0 ∨ s.pkg.power = .off then .next s
  else .next (State.updPkg s (fun p =>
    { p with chainComplete := true, bootDone := 4, tsid := 1, links := links.filter (fun e => LinkEntry.ok e && e.state == 2 && !State.portOut s e) }))

/-- FIRMWARE_RELOAD: a later load extends MEAS3 -/
def execFirmwareReload (image : List Byte) (s : State) : Out :=
  if s.pkg.bootDone = 4 ∧ s.pkg.power ≠ .off then .next (State.updPkg s (fun p => Pkg.extend p 3 image)) else .next s

/-! ## Attestation (R14 to R17) -/

/-- Bytes 0x000 to 0x15F of a report (R14). -/
def State.reportBody (s : State) (nonce : List Byte) (ctx : Nat) : List Byte :=
  let x := State.ctx? s ctx
  let edited := match x with | some y => y.dbg.edited | none => false
  let b := fun (c : Bool) (n : Nat) => if c then n else 0
  leBytes 4 0x4B414E4E ++ leBytes 2 1 ++ leBytes 2 448 ++ leBytes 8 Config.serial.toNat ++ nonce ++ s.pkg.meas.flatten ++
  leBytes 4 ctx ++ leBytes 4 (b edited 1 + b x.isSome 2) ++
  leBytes 4 (b s.pkg.chainComplete 1 + b s.pkg.paired 2 + b s.pkg.replaceAsk 4) ++ leBytes 4 s.pkg.bootCount.toNat ++
  publicKey

/-- A report: the body and the signature over its SHA-384 digest (R14). -/
def State.report (s : State) (nonce : List Byte) (ctx : Nat) : List Byte :=
  let body := State.reportBody s nonce ctx
  body ++ sign384 (sha384 body)

/-- A request joins the queue; an I3C request goes before the Gocen Link request of the same cycle (R16). -/
def State.queueReport (s : State) (r : AttReq) : State :=
  State.updPkg s (fun p =>
    { p with attQueue :=
        if r.i3c then p.attQueue.filter (fun x => x.i3c || x.at_ != r.at_) ++ [r] ++
          p.attQueue.filter (fun x => !x.i3c && x.at_ == r.at_)
        else p.attQueue ++ [r] })

/-- ATTESTATION_GO: a write of ATTCTL; while a request is pending a GO write is ignored and a write with GO = 0 stores CTXID as
ever (R15). The manual does not say what a nonzero reserved field does beside GO = 0, nor whether a rejected GO stores CTXID:
neither stores it. DESIGN CHOICE, log entry 43 -/
def execAttestationGo (v : DWord) (s : State) : Out :=
  let n := v.toNat
  let bad := bits n 32 32 != 0 || bits n 1 7 != 0
  if State.linkUp s = false then .next s
  else if n.testBit 0 = false then
    (if bad then .next s else .next (State.updPkg s (fun p => { p with attCtx := bits n 8 24 })))
  else if s.pkg.attStat = 1 then .next s
  else if bad then .next (State.updPkg s (fun p => { p with attStat := 3 }))
  else
    let s := State.updPkg s (fun p => { p with attCtx := bits n 8 24, attStat := 1 })
    .next (State.queueReport s { i3c := false, nonce := s.pkg.attNonce, ctx := bits n 8 24, at_ := s.clk })

/-- ATTESTATION_REPORT_READY: the oldest request's report is finished, and GO or the I3C request is answered. Its measurements and
flags are those of this moment, and a report over I3C can be read once no other I3C request waits: the manual says neither.
DESIGN CHOICE, log entry 43 -/
def execAttestationReportReady (s : State) : Out :=
  if s.pkg.power = .off then .next s
  else match s.pkg.attQueue with
    | [] => .next s
    | r :: rest =>
      let out := State.report s r.nonce r.ctx
      .next (State.updPkg s (fun p =>
        if r.i3c then { p with attQueue := rest, i3cBuf := out, i3cReady := rest.all (fun x => !x.i3c) }
        else { p with attQueue := rest, attBuf := out, attStat := 2 }))

/-! ## The I3C target (R18) -/

/-- An I3C command that is acknowledged, with the bytes it returns; a package in OFF answers none (R19). -/
def State.i3c (s : State) (reply : List Byte) : State := State.updPkg s (fun p => { p with i3cReply := reply, i3cNack := false })

/-- An I3C command that is answered with a NACK. -/
def State.i3cRefuse (s : State) : State := State.updPkg s (fun p => { p with i3cReply := [], i3cNack := true })

/-- A package in OFF answers no command. -/
def State.asBoard (s : State) (t : State) : Out := if s.pkg.power = .off then .next s else .next t

/-- READ_HEALTH_SUMMARY -/
def execReadHealthSummary (s : State) : Out := State.asBoard s (State.i3c s (State.healthSummary s))

/-- READ_POWER: a sensor's value is a free value (log entry 7) -/
def execReadPower (s : State) : Out :=
  State.asBoard s (State.i3c (State.useFree s) (leBytes 4 (Config.powerReading s.free).toNat))

/-- READ_TEMPERATURE: the four compute dies, then the I/O die -/
def execReadTemperature (s : State) : Out :=
  State.asBoard s (State.i3c (State.useFree s) ((List.range 5).map (Config.temperatureReading s.free)))

/-- REQUEST_REPORT: a 32-byte nonce and a 1-byte context id; a nonce of another length is answered with a NACK (DESIGN CHOICE,
log entry 43) -/
def execRequestReport (nonce : List Byte) (ctx : Byte) (s : State) : Out :=
  if nonce.length ≠ 32 then State.asBoard s (State.i3cRefuse s)
  else
    let t := State.queueReport s { i3c := true, nonce := nonce, ctx := ctx.toNat, at_ := s.clk }
    State.asBoard s (State.updPkg (State.i3c t []) (fun p => { p with i3cReady := false }))

/-- READ_REPORT: the report once it is ready, else one byte 0x00 -/
def execReadReport (s : State) : Out := State.asBoard s (State.i3c s (if s.pkg.i3cReady then s.pkg.i3cBuf else [0]))

/-- SETDASA: the dynamic address in place of the static one -/
def execSetdasa (addr : BitVec 7) (s : State) : Out :=
  State.asBoard s (State.updPkg s (fun p => { p with i3cAddr := addr }))

/-- UNLISTED_I3C_COMMAND -/
def execUnlistedI3cCommand (code : Byte) (s : State) : Out :=
  if [0x10, 0x11, 0x12, 0x20, 0x21, 0x30].contains code.toNat then .next s else State.asBoard s (State.i3cRefuse s)

/-! ## Power states (R19, R20) -/

/-- A context is resident: a gang of it is bound or being bound. -/
def State.resident (s : State) : Bool := s.g.valid || !s.groups.isEmpty || !s.gangs.isEmpty

/-- A post waits. -/
def State.postWaits (s : State) : Bool := s.pkg.waiting.any (fun i => match i with | .post _ _ _ => true | _ => false)

/-- Another power state. An exit under way ends, and the newel firmware leaves P1 at once for a post that waits already: the manual
does not say what becomes of either. DESIGN CHOICE, log entry 44 -/
def State.enter (s : State) (x : Power) : State :=
  State.updPkg s (fun p => { p with power := x, exiting := x == .p1 && State.postWaits s })

/-- SET_POWER_STATE_P0: a package in P1 or P2 begins to return to P0 -/
def execSetPowerStateP0 (s : State) : Out :=
  State.asBoard s (State.updPkg (State.i3c s []) (fun p => { p with exiting := p.power != .p0 }))

/-- SET_POWER_STATE_P1: P1 when no context is resident; otherwise ignored -/
def execSetPowerStateP1 (s : State) : Out :=
  State.asBoard s (if State.resident s then State.i3c s [] else State.enter (State.i3c s []) .p1)

/-- SET_POWER_STATE_P2: P2 when no context exists; otherwise ignored -/
def execSetPowerStateP2 (s : State) : Out :=
  State.asBoard s (if s.ctxs.isEmpty then State.enter (State.i3c s []) .p2 else State.i3c s [])

/-- SET_POWER_STATE_OFF: OFF when no context exists; otherwise ignored -/
def execSetPowerStateOff (s : State) : Out :=
  State.asBoard s (if s.ctxs.isEmpty then State.enter (State.lost (State.i3c s [])) .off else State.i3c s [])

/-- SET_POWER_STATE_OTHER_BYTE -/
def execSetPowerStateOtherByte (b : Byte) (s : State) : Out :=
  if b.toNat ≤ 3 then .next s else State.asBoard s (State.i3cRefuse s)

/-- POWER_STATE_EXIT_COMPLETE: the exit to P0 is over, and the posts that wait proceed -/
def execPowerStateExitComplete (s : State) : Out :=
  if s.pkg.exiting ∧ s.pkg.power ≠ .off then .next (State.release (State.enter s .p0)) else .next s

/-- ENTER_P1: the newel firmware enters P1 when no context is resident -/
def execEnterP1 (s : State) : Out :=
  if State.newelUp s = false ∨ State.resident s = true then .next s else .next (State.enter s .p1)

/-- THERMAL_SET: a junction reaches 100 degrees (R20) -/
def execThermalSet (s : State) : Out :=
  if s.pkg.bootDone = 4 ∧ s.pkg.power ≠ .off then .next (State.updPkg s (fun p => { p with thermal := true })) else .next s

/-- THERMAL_CLEAR: the junctions are below 92 degrees -/
def execThermalClear (s : State) : Out := .next (State.updPkg s (fun p => { p with thermal := false }))

/-- THERMAL_SHUTDOWN: a junction reaches 110 degrees: OFF, with the cause recorded -/
def execThermalShutdown (s : State) : Out :=
  .next (State.updPkg (State.enter (State.lost s) .off) (fun p => { p with hot := true }))

/-! ## The lockstep bridge (R22) -/

/-- LOCKSTEP_BRIDGE_TRAINED -/
def execLockstepBridgeTrained (s : State) : Out := .next (State.updPkg s (fun p => { p with paired := true }))

/-- LOCKSTEP_BRIDGE_LOST: no partition runs in lockstep until it is trained again -/
def execLockstepBridgeLost (s : State) : Out := .next (State.updPkg s (fun p => { p with paired := false }))

end Sys2Proof.Machine
end

