-- ==== Sys2Proof/Machine/Commit.lean ====
section
/-! DEFINITION. The commit of atomic regions: RCMT, its outcome and its timeout (R291 to R293). A commit holds its
locks while it writes, granule by granule. -/

namespace Sys2Proof.Machine

/-- RCMT: ends the idempotent region, then waits until every lane's outcome is known; the wait keeps the cycle it began in -/
def execRcmt (s : State) : Out :=
  issue .rcmt (fun s =>
    match s.g.wait with
    | some w => .park (State.park s .rcmt 1 w.aux .region) .region
    | none =>
      if (Mask.lanes s.cur.mask).any (fun l => !State.inRegion s l) then .trap s .illegal s.cur.mask 0
      else .park (State.park (State.endRegion s) .rcmt 1 (BitVec.ofNat 64 s.clk) .region) .region) s

/-! ## One lane (R291) -/

/-- What a byte run of a context holds now for a group, at the front set of a buffer (R213, R291). -/
def State.freshBytes (s : State) (g : Group) (va n : Nat) : List Byte × State :=
  match State.walk s g.ctx va with
  | .absent => (List.replicate n 0, s)
  | .leaf l _ => State.readRun s (Group.viewer g) va (State.physOf s g.ctx l true va) n

/-- An exact byte of the read set differs from the value read. -/
def State.exactDiffers (s : State) (g : Group) (r : LaneRegion) : Bool :=
  r.exact.any (fun p => (State.freshBytes s g p.1 1).1 != [p.2])

/-- The fresh value of each input. -/
def State.freshInputs (s : State) (g : Group) (r : LaneRegion) : List Word :=
  r.inputs.map (fun i => BitVec.ofNat 32 (leNat (State.freshBytes s g i.addr 4).1))

/-- A constraint holds for a fresh value (R289). -/
def RCons.holds (c : RCons) (f : Word) : Bool :=
  relHolds c.rel (if c.symLeft then f + c.c else c.other) (if c.symLeft then c.other else f + c.c) == c.outcome

/-- The value input k was first read with. -/
def RInput.read (i : RInput) : Word := i.val.getD 0

/-- The first input that changed and is exact or breaks a constraint: its number, from 1. -/
def LaneRegion.broken (r : LaneRegion) (fs : List Word) : Option Nat :=
  ((List.range r.inputs.length).find? (fun k =>
    match r.inputs[k]?, fs[k]? with
    | some i, some f => f != RInput.read i &&
        (i.exact || r.cons.any (fun c => c.k == k + 1 && !RCons.holds c f))
    | _, _ => false)).map (fun k => k + 1)

/-- How much input k changed. -/
def LaneRegion.change (r : LaneRegion) (fs : List Word) (k : Nat) : Word :=
  match r.inputs[k - 1]?, fs[k - 1]? with
  | some i, some f => if k = 0 then 0 else f - RInput.read i
  | _, _ => 0

/-- The bytes a region store writes: a symbolic store has its input's fresh value plus its constant. -/
def RStore.bytes (w : RStore) (fs : List Word) : List Byte :=
  if w.k = 0 then w.data else leBytes 4 ((fs.getD (w.k - 1) 0 + w.c).toNat)

/-- The pieces that a lane's stores write. -/
def LaneRegion.parts (r : LaneRegion) (lane : Nat) (fs : List Word) : List StorePart :=
  r.stores.map (fun w => { lane := lane, addr := BitVec.ofNat 64 w.addr, leaf := w.leaf, data := RStore.bytes w fs })

/-- What of a piece lies in a granule. -/
def StorePart.within (p : StorePart) (n : Nat) : Option StorePart :=
  let pa := Leaf.phys p.leaf (vaOf p.addr)
  let lo := max pa (32 * n)
  let hi := min (pa + p.data.length) (32 * n + 32)
  if lo < hi then some { p with addr := p.addr + BitVec.ofNat 64 (lo - pa), data := (p.data.drop (lo - pa)).take (hi - lo) }
  else none

/-- Pieces by their granules, ascending: each granule is written whole (R220, R269). -/
def byGranule (ps : List StorePart) : List (List StorePart) :=
  let ns := sortBy (fun a b => decide (a ≤ b))
    (ps.flatMap (fun p => granulesOf (Leaf.phys p.leaf (vaOf p.addr)) p.data.length)).eraseDups
  ns.map (fun n => ps.filterMap (fun p => StorePart.within p n))

/-- A cell tagged k is repaired; it keeps its format tag. -/
def RegCell.repair (r : LaneRegion) (fs : List Word) (c : RegCell) : RegCell :=
  let v := LaneRegion.change r fs c.sym.toNat
  if isSymbolic c.sym && v != 0 then { c with val := c.val + v, res := residueOf (c.val + v) } else c

/-- The registers of a lane are repaired, those still landing with them, and its symbolic tags are cleared. -/
def Group.repairLane (g : Group) (l : Nat) (r : LaneRegion) (fs : List Word) : Group :=
  Group.clearSym
    { g with
      regs := g.regs.map (fun x => x.set l (RegCell.repair r fs (x.getD l RegCell.zero))),
      landings := g.landings.map (fun x =>
        { x with cells := x.cells.set l ((x.cells.getD l none).map (RegCell.repair r fs)) }) } l

/-- A lane's region is committed: status, RETRIES as it was, lpc after the RCMT. -/
def Group.commitLane (g : Group) (l changed : Nat) (pc : Word) : Group :=
  Group.updLane g l (fun x =>
    { x with
      lpc := nextWord pc,
      region := { LaneRegion.close x.region with
        status := statusWord (retriesOf x.region.status) changed (if changed = 0 then 2 else 3), committed := true } })

/-- The granules that a lane of a group locks, in ascending physical address (R292). -/
def State.lockSet (s : State) (g : Group) (l : Nat) : List Nat :=
  let r := (Group.lane g l).region
  sortBy (fun a b => decide (a ≤ b)) ((r.reads.filterMap (fun n => match State.walk s g.ctx (32 * n) with
    | .leaf x _ => some (State.physOf s g.ctx x true (32 * n) / 32)
    | .absent => none)) ++
  r.stores.flatMap (fun w => granulesOf (Leaf.phys w.leaf w.addr) w.data.length)).eraseDups

/-- The lane's commit writes on, `k` granules of what is left (0: all), and is over with the last. -/
def State.writeOn (s : State) (l k : Nat) (pc : Word) : State :=
  let g := s.g
  let ws := (Group.lane g l).region.writes
  let n := if k = 0 then ws.length else k
  let w : StoreWord := { no := 0, lc := g.lc, scratch := false, modw := false, scope := 0, ord := 0, parts := (ws.take n).flatten }
  let s := State.updG (State.storeWord s g w) (fun g => Group.updRegion g l (fun r => { r with writes := r.writes.drop n }))
  if ws.length ≤ n then
    let r := (Group.lane s.g l).region
    State.updG s (fun g => Group.commitLane g l r.packets pc)
  else s

/-- One lane of the group at the issue port commits: it takes its locks in order, waits for those that another commit holds,
validates, aborts with CONFLICT or is repaired, and writes (R291, R292); writes that leave a lockstep partition are held (R341).
While it writes, `packets` holds how many inputs changed. -/
def State.commitLane (s : State) (l k : Nat) (pc : Word) : State :=
  let g := s.g
  let r := (Group.lane g l).region
  if !r.isOpen then s
  else if r.writing then (if r.hold = 1 then s else State.writeOn s l k pc)
  else
    let s := State.updG s (fun g => Group.updRegion g l (fun r => { r with locks := [] }))
    let need := State.lockSet s g l
    let have_ := need.takeWhile (fun n => !State.locked s (32 * n) 32)
    if have_.length < need.length then
      State.updG s (fun g => Group.updRegion g l (fun r => { r with locks := have_, lockWait := r.lockWait + 1 }))
    else if State.exactDiffers s g r then State.updG s (fun g => Group.abortLane g l 4 0)
    else
      let fs := State.freshInputs s g r
      match LaneRegion.broken r fs with
      | some k => State.updG s (fun g => Group.abortLane g l 4 k)
      | none =>
        let changed := ((List.range r.inputs.length).filter (fun k => LaneRegion.change r fs (k + 1) != 0)).length
        let s := State.updG s (fun g => Group.updRegion (Group.repairLane g l r fs) l (fun x =>
          { x with locks := need, writing := true, writes := byGranule (LaneRegion.parts r l fs), packets := changed }))
        let bs := (LaneRegion.parts r l fs).flatMap (fun p =>
          let pa := Leaf.phys p.leaf (vaOf p.addr)
          if State.outsidePartition s g.ctx pa then trafficBytes pa p.data else [])
        if bs.isEmpty then State.writeOn s l k pc
        else State.addTraffic (State.updG s (fun g => Group.updRegion g l (fun x => { x with hold := 1 }))) bs

/-! ## The outcome (R291, R292) -/

/-- A page that a lane of a mask has in its read or write set is being moved (R84). -/
def State.commitHeld (s : State) (g : Group) (m : Mask) : Bool :=
  let moving := fun (va : Nat) => match State.walk s g.ctx va with | .leaf l _ => Leaf.g l | .absent => false
  (Mask.lanes m).any (fun l =>
    let r := (Group.lane g l).region
    r.reads.any (fun n => moving (32 * n)) || r.stores.any (fun w => moving w.addr))

/-- The group's waiting RCMT, once every access before it is performed (R261, R291). -/
def State.committing? (s : State) (hall slot : Nat) : Option (Group × WaitRec) :=
  match State.groupAt? s hall slot with
  | none => none
  | some g =>
    match g.wait with
    | none => none
    | some w =>
      if w.instr = .rcmt ∧ g.lcnt = 0 ∧ g.scnt = 0 ∧ g.acnt = 0 ∧ (g.draining = false ∨ Group.writing g = true) ∧
          State.commitHeld s g w.mask = false then some (g, w)
      else none

/-- COMMIT_OUTCOME: the lanes commit one after another, each once the one before is over; `k` granules at most are written (0: all);
with the last lane the wait ends -/
def execCommitOutcome (hall slot k : Nat) (s : State) : Out :=
  match State.committing? s hall slot with
  | none => .next s
  | some (_, w) =>
    let s := State.toPort s hall slot
    let s := { s with cur := { mask := w.mask, chainPc := w.chainPc, wordPc := w.wordPc, status := .done, fresh := false,
                               follow := true, srcs := [] } }
    let s := (Mask.lanes w.mask).foldl (fun (s : State) l =>
      if (Mask.lanes w.mask).any (fun j => decide (j < l) && (Group.lane s.g j).region.isOpen) then s
      else State.commitLane s l k w.wordPc) s
    if (Mask.lanes w.mask).any (fun l => (Group.lane s.g l).region.isOpen) then .next s
    else
      let s := State.unpark s
      let s := State.traceBranch s s.g w.mask w.wordPc .rcmt
      let s := State.updG (State.settleStart s) (fun g => { g with readyAt := max g.readyAt (s.clk + 1) })
      .next { s with cur := { s.cur with fresh := false } }

/-- COMMIT_TIMEOUT: a lane whose commit has waited 2,048 cycles for granules that other commits have locked aborts with TIMEOUT -/
def execCommitTimeout (hall slot lane : Nat) (s : State) : Out :=
  match State.groupAt? s hall slot with
  | none => .next s
  | some g =>
    match g.wait with
    | none => .next s
    | some w =>
      let r := (Group.lane g lane).region
      if w.instr = .rcmt ∧ w.mask.getLsbD lane = true ∧ r.isOpen = true ∧ r.writing = false ∧ r.lockWait ≥ 2048 then
        .next (State.updGroup s hall slot (fun g => Group.abortLane g lane 8 0))
      else .next s

end Sys2Proof.Machine
end

