-- ==== Sys2Proof/Machine/Reliability.lean ====
section
/-! DEFINITION. Errors and containment: charges, decay and the test of a unit (R335, R336, R339, R340), uncorrectable errors
(R337), and lockstep (R71, R341). -/

namespace Sys2Proof.Machine

/-! ## Suspicion (R335) -/

/-- Units of a package (R334). -/
def unitCount : Nat := 9296

/-- What an event charges: 0 a corrected error, 1 a matrix checksum mismatch, 2 a residue mismatch, 3 a shadow divergence. -/
def chargeOf (kind : BitVec 2) : Nat := if kind = 0 then 1 else if kind = 1 then 4 else 8

/-- ERROR_CORRECTED -/
def execErrorCorrected (unit : Nat) (kind : BitVec 2) (s : State) : Out :=
  if unit < unitCount then .next (State.chargeUnit s unit (chargeOf kind)) else .next s

/-- SCORE_DECAY: a unit in service loses 1, never below 0 -/
def execScoreDecay (s : State) : Out :=
  .next (State.updPkg s (fun p =>
    { p with units := p.units.map (fun u => if u.2.st = 0 then (u.1, { u.2 with score := u.2.score - 1 }) else u) }))

/-! ## The targeted test (R336, R339, R340) -/

/-- The hall of a unit, none for a slice or a link. -/
def hallOfUnit (u : Nat) : Option Nat :=
  if u < 1536 then some (u / 4) else if u < 3072 then some ((u - 1536) / 4) else if u < 9216 then some ((u - 3072) / 16) else none

/-- A unit whose fence keeps its hall from being bound: a flight pipe or a bank. -/
def stopsHall (u : Nat) : Bool := decide (u < 1536) || (decide (3072 ≤ u) && decide (u < 9216))

/-- A hall is open again when no unit that keeps it from being bound is still fenced. -/
def State.openHall (s : State) (u : Nat) : State :=
  match hallOfUnit u with
  | none => s
  | some h =>
    let more := s.pkg.units.any (fun x => stopsHall x.1 && hallOfUnit x.1 == some h && x.2.st == 1)
    if stopsHall u && !more then State.updHall s h (fun x => { x with fenced := false }) else s

/-- A span reaches into a window of cycles; one that is still open reaches up to now. -/
def State.inWindow (s : State) (x : Span) (lo hi : Nat) : Bool :=
  let live := (State.allGroups s).any (fun g => g.hall == x.hall && g.ctx == x.ctx && g.seq == x.seq)
  decide (x.since ≤ hi) && decide (lo ≤ (if live then s.clk else x.until_))

/-- The task entries of a suspect record: context and SEQ (R340). -/
def State.suspectTasks (s : State) (u lo hi : Nat) : List Nat :=
  let here := fun (x : Span) => match hallOfUnit u with
    | some h => x.hall == h
    | none => decide (u < 9280) && dieOfHall x.hall == (u - 9216) / 16
  ((s.pkg.spans.filter (fun x => here x && State.inWindow s x lo hi)).map (fun x => x.ctx * 2 ^ 56 + x.seq % 2 ^ 48)).eraseDups

/-- The collective entries of a suspect record: a set bit 55, context, set and CID (R340). -/
def State.suspectColls (s : State) (u lo hi : Nat) : List Nat :=
  if u < 9280 then []
  else ((s.pkg.chunkSpans.filter (fun x => x.ports.contains (u - 9280) && decide (lo ≤ x.clk) && decide (x.clk ≤ hi))).map
    (fun x => 2 ^ 55 + x.ctx * 2 ^ 47 + x.set * 2 ^ 32 + x.cid)).eraseDups

/-- A suspect record, with its entries in the area (R340). -/
def State.suspect (s : State) (u : Nat) (x : UnitSt) : State :=
  let lo := x.passedAt
  let hi := x.fencedAt
  let tasks := State.suspectTasks s u lo hi
  let all := tasks ++ State.suspectColls s u lo hi
  let room := if s.pkg.suspArea = 0 then 0 else s.pkg.suspLen
  let put := all.take room
  let list := if s.pkg.suspArea = 0 then 0 else s.pkg.suspArea + BitVec.ofNat 64 (8 * (s.pkg.suspNext % s.pkg.suspLen))
  let r : Suspect :=
    { unit := u, clkFrom := lo, clkTo := hi, nseq := min tasks.length put.length, ncid := put.length - tasks.length, list := list,
      trunc := s.pkg.suspArea == 0 || decide (put.length < all.length) }
  State.updPkg s (fun p =>
    { p with suspects := insert p.suspects (p.suspHead.toNat % 64) r, suspHead := p.suspHead + 1,
             suspList := ((List.range put.length).zip put).foldl (fun l e =>
               insert l ((p.suspNext + e.1) % p.suspLen) (BitVec.ofNat 64 e.2)) p.suspList,
             suspNext := if room = 0 then p.suspNext else (p.suspNext + put.length) % p.suspLen })

/-- UNIT_TEST_COMPLETE: a fenced unit passes, or is retired with a suspect record -/
def execUnitTestComplete (unit : Nat) (pass : Bool) (s : State) : Out :=
  let x := State.unit s unit
  if unit ≥ unitCount ∨ x.st ≠ 1 then .next s
  else if pass then
    .next (State.openHall (State.updUnit s unit (fun u => { u with st := 0, score := 16, passedAt := s.clk })) unit)
  else
    let s := State.updUnit s unit (fun u => { u with st := 2 })
    .next (State.askReplace (State.suspect (State.openHall s unit) unit x))

/-! ## Uncorrectable errors (R337) -/

/-- A register's contents are marked with POISON. -/
def Group.poisonReg (g : Group) (lane n : Nat) : Group :=
  if lane < 32 ∧ n < 8 * g.regn then Group.setCell g lane n { Group.cell g lane n with tag := .poison } else g

/-- An element of a tile is marked (R245). -/
def Group.poisonTile (g : Group) (k i : Nat) : Group :=
  match g.tiles[k]? with
  | some t => if i < 256 then { g with tiles := g.tiles.set k { t with poison := t.poison ||| (1#256 <<< i) } } else g
  | none => g

/-- UNCORRECTABLE_ERROR -/
def execUncorrectableError (place : ErrPlace) (s : State) : Out :=
  match place with
  | .granule pa => .next { s with gpoison := (s.gpoison ++ [pa / 32]).eraseDups }
  | .scratch c seq blk off =>
    .next (State.updBlock s c seq blk (fun b =>
      if off < (State.launchOf s c seq).scratch then { b with scrPoison := (b.scrPoison ++ [off]).eraseDups } else b))
  | .reg h t lane n => .next (State.updGroup s h t (fun g => Group.poisonReg g lane n.toNat))
  | .tile h t k row col => .next (State.updGroup s h t (fun g => if col < 8 then Group.poisonTile g k (8 * row + col) else g))

/-! ## Lockstep (R71, R341) -/

/-- The groups of a partition: those of the contexts with its die mask. -/
def State.partition (s : State) (m : BitVec 4) : List Group :=
  (State.allGroups s).filter (fun g => State.lockMask s g.ctx == m)

/-- The operations whose traffic is held, in the order of the traffic: slot and place in the group's issue order. -/
def State.heldTraffic (s : State) (m : BitVec 4) : List (Nat × Nat × Nat) :=
  let all := (State.partition s m).flatMap (fun g => g.outst.filterMap (fun o => o.sent.map (fun k => (k, g.hall, g.slot, o.no))))
  (sortBy (fun (a b : Nat × Nat × Nat × Nat) => decide (a.1 ≤ b.1)) all).map (fun x => x.2)

/-- The engine commands and commits of a partition that wait for the comparison may write from now on. -/
def State.letGo (s : State) (m : BitVec 4) : State :=
  let free := fun (c : Cmd) => if c.hold = 1 ∧ State.lockMask s c.ctx = m then { c with hold := 2 } else c
  let s := { s with halls := s.halls.map (fun h => (h.1, { h.2 with cmds := h.2.cmds.map free })),
                    saved := s.saved.map (fun i => { i with cmds := i.cmds.map free }) }
  State.mapGroups s (fun g => State.lockMask s g.ctx == m) (fun g =>
    { g with lanes := g.lanes.map (fun l =>
        if l.region.hold = 1 then { l with region := { l.region with hold := 2 } } else l) })

/-- The interval's digests match: its traffic leaves, in its order. -/
def State.passInterval (s : State) (m : BitVec 4) : State :=
  let s := (State.heldTraffic (State.letGo s m) m).foldl (fun s x => State.leave? s x.1 x.2.1 x.2.2) (State.letGo s m)
  State.updPkg s (fun p => { p with interval := p.interval + 1, traffic := [] })

/-- The digests differ: nothing leaves, the partition halts, LOCKSTEP_DIVERGE is raised, and dumps are due (R341, R371). -/
def State.diverge (s : State) (m : BitVec 4) : State :=
  let mine := fun (x : Ctx) => x.lockMask == m
  let s := { s with ctxs := s.ctxs.map (fun c =>
    if mine c.2 then (c.1, { c.2 with lockHalted := true, dbg := { c.2.dbg with dumpDue := c.2.dbg.dumpBase != 0 } }) else c) }
  let due := s.ctxs.filter (fun c => mine c.2 && c.2.dbg.dumpDue)
  let s := State.updPkg s (fun p =>
    { p with diverged := true, divint := BitVec.ofNat 32 p.interval, interval := p.interval + 1, traffic := [] })
  { s with events := s.events ++ due.map (fun c => .coreDump c.1) }

/-- LOCKSTEP_INTERVAL_COMPARE: `digest` is what the other package's bridge brings -/
def execLockstepIntervalCompare (ctx : Nat) (digest : DWord) (s : State) : Out :=
  match s.ctx? ctx with
  | none => .next s
  | some x =>
    if x.lockMask = 0 ∨ x.lockHalted = true ∨ s.pkg.paired = false then .next s
    else if crc64 s.pkg.traffic = digest then .next (State.passInterval s x.lockMask)
    else .next (State.diverge s x.lockMask)

/-- LOCKSTEP_DECISION_APPLY: what the first package's newel has decided, the place of a group or the move of a page -/
def execLockstepDecisionApply (d : Decision) (s : State) : Out :=
  let mine := fun (c : Nat) => State.lockMask s c != 0 && s.pkg.paired
  match d with
  | .bind r => .next (if mine r.ctx then State.writeBind s r else s)
  | .move c va => .next (if mine c then State.startMigration s c va else s)

/-- LOCKSTEP_DIVERGE_CLEAR: a supervisor's write of the first word; a nonzero reserved field is a firmware fault (R334) -/
def execLockstepDivergeClear (v : Word) (s : State) : Out :=
  if State.linkUp s = false then .next s
  else if bits v.toNat 12 20 ≠ 0 ∨ bits v.toNat 4 4 ≠ 0 then .next (State.updPkg s (fun p => { p with fwFault := satInc p.fwFault }))
  else if v.getLsbD 2 then .next (State.updPkg s (fun p => { p with diverged := false }))
  else .next s

end Sys2Proof.Machine
end

