-- ==== Sys2Proof/Machine/Mailbox.lean ====
section
/-! DEFINITION. The debug mailbox's commands (R363 to R365): halts and steps, trace (R368), samples (R366, R367), replay (R370),
core dumps (R371), edits through the group view (R374); what a read of the aperture returns, and the register write (R8, R10). -/

namespace Sys2Proof.Machine

/-! ## The group view (R363, R374) -/

/-- The group that the view selects. -/
def State.viewed (s : State) (d : Debug) : Option Group :=
  match d.view with
  | some (h, t) => State.groupAt? s h t
  | none => none

/-- VIEWSTAT of a context (R363). -/
def State.viewStat (s : State) (c : Nat) (d : Debug) : Nat :=
  match d.view with
  | none => 0
  | some _ => match State.viewed s d with
    | some g => if g.ctx = c ∧ g.halted then 1 else 2
    | none => 2

/-- The fields of a group's record, in the order of R373. FPMODE and CBS are the same state (R182). -/
def State.recordFields (s : State) (g : Group) : List Nat :=
  let lanes := fun (r : List (Word × LaneMode)) =>
    r.map (fun x => x.1.toNat) ++ [((List.range r.length).zip r).foldl (fun n x => n + LaneMode.code x.2.2 * 4 ^ x.1) 0]
  let (addr, mask) := Group.reported g
  [g.seq, g.blk, g.grp, g.hall, g.slot, Role.code g.role] ++ lanes (Group.laneRecord g) ++ [addr.toNat, mask.toNat, g.regn] ++
  g.blockMap ++ [g.lcnt, g.scnt, g.acnt, g.ecnt, g.fpflags.toNat, g.cbs.toNat, g.cbs.toNat] ++
  [g.trapc.toNat, g.trapa.toNat, g.trapm.toNat, g.trappc.toNat, if g.trapMode then 1 else 0] ++
  lanes (if g.trapMode then g.handlerStart else g.regionStart) ++ [g.restarts] ++ g.stalls.map (fun w => w.toNat) ++ [g.lc]

/-- A group record's bytes; the manual gives its fields and their order, and no widths (R373): free widths, log entry 10. -/
def recordBytes (fields : List Nat) : List Byte :=
  ((List.range fields.length).zip fields).flatMap (fun p => leBytes (Config.recordWidths p.1) p.2)

/-- A group's registers, then its tags, two a byte, low nibble first (R372). -/
def Group.registerBytes (g : Group) : List Byte :=
  let cells := (List.range (8 * g.regn)).flatMap (fun n => lanesOf.map (fun l => Group.cell g l n))
  let tag := fun k => Tag.code ((cells.map (fun c => c.tag)).getD k .raw)
  cells.flatMap (fun c => leBytes 4 c.val.toNat) ++
    (List.range (cells.length / 2)).map (fun k => BitVec.ofNat 8 (tag (2 * k) + 16 * tag (2 * k + 1)))

/-- A tile as a dump's note holds it (R372). -/
def Tile.bytes (t : Tile) : List Byte :=
  t.elems.flatMap (fun w => leBytes 4 w.toNat) ++ leBytes 1 t.ints.toNat ++ leBytes 32 t.poison.toNat

/-- A part of the group view: its offset, its room and its bytes. -/
def State.viewParts (s : State) (d : Debug) (g : Group) : List (Nat × Nat × List Byte) :=
  [(0x4000, 0x2000, recordBytes (State.recordFields s g)),
   (0x6000, 0x1000, g.codebooks.flatMap (fun b => b.flatMap (fun x => leBytes 2 x.toNat))),
   (0x7000, 0x1000, if d.viewTile < g.accN then Tile.bytes (g.tiles.getD d.viewTile Tile.zero) else []),
   (0x8000, 0x5000, Group.registerBytes g),
   (0xD000, 0x1000, (State.readScratch s g.ctx g.seq g.blk (d.scrWin * 4096) (min 4096 (g.lr.scratch - d.scrWin * 4096))))]

/-- The 64-bit word of the group view at an offset: the selected group is shown while it is halted; a place that holds nothing of it
reads zero (R374). -/
def State.readView (s : State) (c : Nat) (d : Debug) (off : Nat) : Nat :=
  match State.viewed s d with
  | some g =>
    if State.viewStat s c d ≠ 1 then 0
    else match (State.viewParts s d g).find? (fun p => decide (p.1 ≤ off) && decide (off < p.1 + p.2.1)) with
      | some p => leNat ((p.2.2.drop (off - p.1)).take 8)
      | none => 0
  | none => 0

/-! ## The right (R364) -/

/-- A group with no halt left. -/
def Group.letGo (g : Group) : Group :=
  if g.halted || g.stepping || g.haltOwed.isSome then { g with halted := false, stepping := false, haltOwed := none, skipBreak := true }
  else g

/-- Every group of a context changed, resident and saved. -/
def State.mapCtxGroups (s : State) (c : Nat) (f : Group → Group) : State :=
  let s := State.mapGroups s (fun g => g.ctx == c) f
  { s with saved := s.saved.map (fun i => { i with groups := mapIf i.groups (fun g => g.ctx == c) f }) }

/-- The right is revoked: halts and steps go, comparators and watchpoints are off, MODE is 0. -/
def State.revoke (s : State) (c : Nat) : State :=
  let s := State.mapCtxGroups s c (fun g => { Group.letGo g with replayHold := false })
  State.updDebug s c (fun d =>
    { d with right := false, haltAll := false, rpMode := 0,
             bps := d.bps.map (fun p => (p.1, { p.2 with en := false })),
             wps := d.wps.map (fun p => (p.1, { p.2 with en := false })) })

/-- DEBUG_RIGHT_WRITE: a write of DBGCTL, by a supervisor only -/
def execDebugRightWrite (ctx : Nat) (sup : Bool) (v : DWord) (s : State) : Out :=
  if State.linkUp s = false ∨ sup = false ∨ bits v.toNat 2 62 ≠ 0 then .next s
  else if v.getLsbD 0 then .next (State.updDebug s ctx (fun d => { d with right := true }))
  else .next (State.revoke s ctx)

/-! ## Commands (R363) -/

/-- HALL of a command. -/
def cmdHall (v : DWord) : Nat := bits v.toNat 23 9
/-- SLOT of a command. -/
def cmdSlot (v : DWord) : Nat := bits v.toNat 18 5
/-- TILE of a command. -/
def cmdTile (v : DWord) : Nat := bits v.toNat 14 4

/-- The mailbox takes a command: its operation, no reserved bit, a hall that exists, and the right where it needs it. -/
def State.takes (s : State) (c : Nat) (v : DWord) (op : Nat) (right : Bool) : Bool :=
  State.linkUp s && bits v.toNat 0 4 == op && bits v.toNat 4 10 == 0 && bits v.toNat 32 32 == 0 &&
  decide (cmdHall v < Config.halls) &&
  (match s.ctx? c with | some x => x.dbg.right || !right | none => false)

/-- A command of a mailbox that acts on the group of the context in the slot it names; without one it does nothing. -/
def State.onGroup (s : State) (c : Nat) (v : DWord) (op : Nat) (right : Bool) (f : Group → State) : Out :=
  if State.takes s c v op right then
    match State.groupAt? s (cmdHall v) (cmdSlot v) with
    | some g => if g.ctx = c then .next (f g) else .next s
    | none => .next s
  else .next s

/-- HALT_GROUP -/
def execHaltGroup (ctx : Nat) (v : DWord) (s : State) : Out :=
  State.onGroup s ctx v 1 true (fun g => if g.halted then s else State.haltGroup s g 0)

/-- RESUME_GROUP -/
def execResumeGroup (ctx : Nat) (v : DWord) (s : State) : Out :=
  State.onGroup s ctx v 2 true (fun g => State.updGroup s g.hall g.slot Group.letGo)

/-- STEP_GROUP: a halted group issues one chain -/
def execStepGroup (ctx : Nat) (v : DWord) (s : State) : Out :=
  State.onGroup s ctx v 3 true (fun g =>
    if g.halted then State.updGroup s g.hall g.slot (fun x => { x with stepping := true, skipBreak := true }) else s)

/-- Every group and engine of a context halts (R365 OP 4). -/
def State.haltContext (s : State) (c : Nat) : State :=
  let s := ((State.allGroups s).filter (fun g => g.ctx == c && !g.halted)).foldl (fun s g => State.haltGroup s g 0) s
  let away := (s.saved.flatMap (fun i => i.groups)).filter (fun g => g.ctx == c && !g.halted)
  let s := away.foldl (fun s g => State.stopRecord s g 0) s
  let stop : Group → Group := fun g => { g with halted := g.halted || !Group.allExited g, skipBreak := true }
  let s := { s with
    saved := s.saved.map (fun (i : Image) => { i with groups := mapIf i.groups (fun g => g.ctx == c) stop }) }
  match s.ctx? c with
  | some x => if x.dbg.haltAll then s else State.updDebug (State.stopEngines s c) c (fun d => { d with haltAll := true })
  | none => s

/-- HALT_CONTEXT -/
def execHaltContext (ctx : Nat) (v : DWord) (s : State) : Out :=
  if State.takes s ctx v 4 true then .next (State.haltContext s ctx) else .next s

/-- RESUME_CONTEXT -/
def execResumeContext (ctx : Nat) (v : DWord) (s : State) : Out :=
  if State.takes s ctx v 5 true then
    .next (State.startCmds (State.updDebug (State.mapCtxGroups s ctx Group.letGo) ctx (fun d => { d with haltAll := false })))
  else .next s

/-! ## Trace (R368) -/

/-- A group is traced from its next chain on. -/
def Group.traceFrom (g : Group) : Group := { g with traceOn := true, syncOwed := some 0, fullOwed := true }

/-- A group is traced no more. -/
def Group.traceEnd (g : Group) : Group := { g with traceOn := false, syncOwed := none, fullOwed := false }

/-- TRACE_GROUP_ON -/
def execTraceGroupOn (ctx : Nat) (v : DWord) (s : State) : Out :=
  State.onGroup s ctx v 6 false (fun g => State.updGroup s g.hall g.slot Group.traceFrom)

/-- TRACE_GROUP_OFF -/
def execTraceGroupOff (ctx : Nat) (v : DWord) (s : State) : Out :=
  State.onGroup s ctx v 7 false (fun g => State.updGroup s g.hall g.slot Group.traceEnd)

/-- TRACE_ALL_ON: every present and future group of the context -/
def execTraceAllOn (ctx : Nat) (v : DWord) (s : State) : Out :=
  if State.takes s ctx v 9 false then
    .next (State.updDebug (State.mapCtxGroups s ctx Group.traceFrom) ctx (fun d => { d with traceAll := true }))
  else .next s

/-- TRACE_ALL_OFF -/
def execTraceAllOff (ctx : Nat) (v : DWord) (s : State) : Out :=
  if State.takes s ctx v 10 false then
    .next (State.updDebug (State.mapCtxGroups s ctx Group.traceEnd) ctx (fun d => { d with traceAll := false }))
  else .next s

/-! ## Dumps (R371) -/

/-- DUMP: with a dump area set, the newel firmware is to write a dump -/
def execDump (ctx : Nat) (v : DWord) (s : State) : Out :=
  match s.ctx? ctx with
  | some x =>
    if State.takes s ctx v 11 true && x.dbg.dumpBase != 0 then
      .next { State.updDebug s ctx (fun d => { d with dumpDue := true }) with events := s.events ++ [.coreDump ctx] }
    else .next s
  | none => .next s

/-- CORE_DUMP: a dump that is due is written -/
def execCoreDump (ctx : Nat) (s : State) : Out :=
  match s.ctx? ctx with
  | some x =>
    if x.dbg.dumpDue then
      .next (State.updDebug (State.writeDump s ctx 0 0 x.lockHalted) ctx (fun d => { d with dumpDue := false }))
    else .next s
  | none => .next s

/-! ## Selecting and editing through the view (R374) -/

/-- SELECT_GROUP -/
def execSelectGroup (ctx : Nat) (v : DWord) (s : State) : Out :=
  State.onGroup s ctx v 8 true (fun g =>
    State.updDebug s ctx (fun d => { d with view := some (g.hall, g.slot), viewTile := cmdTile v }))

/-- A lane state of its code (R369). -/
def laneModeOf (c : Nat) : LaneMode := if c = 0 then .live else if c = 1 then .parked else .exited

/-- An edit of a halted group, where it is accepted. -/
def State.edit (s : State) (g : Group) (d : Debug) (e : ViewEdit) : Option State :=
  let on := fun (f : Group → Group) => some (State.updGroup s g.hall g.slot f)
  match e with
  | .reg l n v =>
    if l < 32 ∧ n.toNat < 8 * g.regn then
      on (fun x => Group.setCell x l n.toNat { Group.cell x l n.toNat with val := v, res := residueOf v, sym := 0 })
    else none
  | .tag l n k =>
    if l < 32 ∧ n.toNat < 8 * g.regn ∧ k.toNat < 14 then
      on (fun x => Group.setCell x l n.toNat { Group.cell x l n.toNat with tag := tagOf k.toNat })
    else none
  | .lpc l v => if l < 32 ∧ validLpc v = true then on (fun x => Group.updLane x l (fun y => { y with lpc := v })) else none
  | .laneState l k =>
    if l < 32 ∧ k.toNat < 3 then on (fun x => Group.updLane x l (fun y => { y with mode := laneModeOf k.toNat })) else none
  | .scratch off v =>
    let a := d.scrWin * 4096 + off
    if off < 4096 ∧ a < g.lr.scratch then some (State.writeScratch s g.ctx g.seq g.blk a [v] false) else none

/-- GROUP_VIEW_EDIT: an accepted edit sets EDITED and is followed by a SYNC with reason 9 -/
def execGroupViewEdit (ctx : Nat) (e : ViewEdit) (s : State) : Out :=
  match s.ctx? ctx with
  | none => .next s
  | some x =>
    match State.viewed s x.dbg with
    | none => .next s
    | some g =>
      if State.linkUp s = false ∨ x.dbg.right = false ∨ State.viewStat s ctx x.dbg ≠ 1 then .next s
      else match State.edit s g x.dbg e with
        | none => .next s
        | some t => .next (State.updGroup (State.updDebug t ctx (fun d => { d with edited := true })) g.hall g.slot
            (fun y => { y with syncOwed := some 9 }))

/-! ## Samples (R366) -/

/-- SMPCFG_WRITE: an enable sets every hall's pointer to 0 -/
def execSmpcfgWrite (ctx : Nat) (v : DWord) (s : State) : Out :=
  let n := bits v.toNat 0 16
  let en := v.getLsbD 16
  if State.linkUp s = false ∨ bits v.toNat 17 47 ≠ 0 ∨ (en = true ∧ n < 16) then .next s
  else
    let s := State.updDebug s ctx (fun d => { d with smpEn := en, smpN := n, smpSince := s.clk })
    if en then
      .next { s with halls := s.halls.map (fun h =>
        (h.1, { h.2 with samples := h.2.samples.map (fun x => if x.1 = ctx then (x.1, 0, x.2.2) else x) })) }
    else .next s

/-- SAMPLE_FIRE: the first occupied slot of the context at or above the hall's pointer -/
def execSampleFire (hall ctx : Nat) (s : State) : Out :=
  match s.ctx? ctx with
  | none => .next s
  | some x =>
    if State.sampleDue s x.dbg = false then .next s
    else
      let me_ := (State.hall s hall).samples.find? (fun p => p.1 == ctx)
      let ptr := match me_ with | some p => p.2.1 | none => 0
      let fired := match me_ with | some p => p.2.2 | none => 0
      let order := (List.range 32).map (fun k => (ptr + k) % 32)
      match order.findSome? (fun t => match State.groupAt? s hall t with
          | some g => if State.occupied s ctx g then some g else none
          | none => none) with
      | none => .next s
      | some g =>
        let r := sampleRecord g (State.queueOf s g.ctx g.seq) (State.sampled s g) (fired + 1)
        let s := State.updHall s hall (fun h =>
          { h with samples := h.samples.filter (fun p => p.1 != ctx) ++ [(ctx, (g.slot + 1) % 32, fired + 1)] })
        .next (State.putSample s ctx x.dbg r)

/-! ## Replay (R370) -/

/-- RPCTL_WRITE: MODE changes only while no block of the context is resident or saved; a record run starts with an empty log -/
def execRpctlWrite (ctx : Nat) (v : DWord) (s : State) : Out :=
  let mode := bits v.toNat 0 2
  let busy := s.blocks.any (fun b => b.ctx == ctx) || s.saved.any (fun i => i.gang.ctx == ctx)
  match s.ctx? ctx with
  | none => .next s
  | some x =>
    if State.linkUp s = false ∨ x.dbg.right = false ∨ bits v.toNat 3 61 ≠ 0 ∨ mode = 3 ∨ busy = true then .next s
    else if mode = 1 then
      .next (State.updDebug s ctx (fun d =>
        { d with rpMode := 1, rpFull := false, rpHead := 0, rpGroups := 0, rpLast := [], rpEdges := [] }))
    else .next (State.updDebug s ctx (fun d => { d with rpMode := mode }))

/-- REPLAY_RELEASE: the edges that a group waits for are satisfied -/
def execReplayRelease (hall slot : Nat) (s : State) : Out :=
  match State.groupAt? s hall slot with
  | none => .next s
  | some g =>
    if g.replayHold && !State.replayWaits s g then
      .next (State.updGroup s hall slot (fun x => { x with replayHold := false }))
    else .next s

/-! ## Reading the aperture (R10) -/

/-- The 32 bytes of a stop record (R365). -/
def Stop.bytes (x : Stop) : List Byte :=
  leBytes 4 (x.cause * 256 + x.kind) ++ leBytes 4 (x.hall * 2 ^ 23 + x.slot / 8 * 2 ^ 21 + x.slot * 2 ^ 16 % 2 ^ 21 + x.queue) ++
  leBytes 8 x.seq ++ leBytes 4 x.addr.toNat ++ leBytes 4 x.mask.toNat ++ leBytes 8 x.clk

/-- The 64-bit word of a debug mailbox page at an offset (R363). The page of a
context that does not exist reads zero. DESIGN CHOICE, log entry 41. -/
def State.readMailbox (s : State) (c off : Nat) : Nat :=
  match State.ctx? s c with
  | none => 0
  | some x =>
    let d := x.dbg
    let b := fun (x : Bool) (n : Nat) => if x then n else 0
    match off with
    | 0x0000 => b d.edited 2 + b d.right 1
    | 0x0010 => d.stopHead.toNat
    | 0x0018 => State.viewStat s c d
    | 0x0020 => d.scrWin * 4096
    | 0x0300 => b d.smpEn 65536 + d.smpN
    | 0x0308 => d.smpBase.toNat + d.smpLog2
    | 0x0310 => d.smpHead.toNat
    | 0x0318 => d.smpTail.toNat
    | 0x0320 => d.smpDrop.toNat
    | 0x0340 => d.trBase.toNat + d.trLog2
    | 0x0348 => d.trHead.toNat
    | 0x0350 => d.trTail.toNat
    | 0x0358 => d.trDrop.toNat
    | 0x0380 => b d.rpFull 4 + d.rpMode
    | 0x0388 => d.rpBase.toNat
    | 0x0390 => d.rpSize.toNat
    | 0x0398 => d.rpHead.toNat
    | 0x03C0 => d.dumpBase.toNat
    | 0x03C8 => d.dumpSize.toNat
    | 0x03D0 => d.dumpLen.toNat
    | _ =>
      if 0x100 ≤ off ∧ off < 0x180 then
        match lookup d.bps ((off - 0x100) / 16) with
        | some p => if off % 16 = 0 then b p.hsp (2 ^ 33) + b p.en (2 ^ 32) + p.offset.toNat else p.lrec.toNat
        | none => 0
      else if 0x200 ≤ off ∧ off < 0x240 then
        match lookup d.wps ((off - 0x200) / 16) with
        | some w => if off % 16 = 0 then w.addr.toNat
            else b w.en (2 ^ 35) + w.kind.toNat * 2 ^ 33 + b w.scratch (2 ^ 32) + w.len
        | none => 0
      else if 0x1000 ≤ off ∧ off < 0x1800 then
        match lookup d.stops ((off - 0x1000) / 32) with
        | some x => leNat (((Stop.bytes x).drop (off % 32)).take 8)
        | none => 0
      else State.readView s c d off

/-- What a page of the aperture holds at an 8-byte-aligned offset (R10). -/
def State.readAperture (s : State) (off : Nat) : Nat :=
  let page := off / 65536
  let o := off % 65536
  if page = 0 then State.readHealth s o
  else if page = 1 then State.readAttest s o
  else if 0x100 ≤ page ∧ page < 0x200 then State.readMailbox s (page - 0x100) o
  else if 0x1000 ≤ page ∧ page < 0x2000 then State.readQueue s (page - 0x1000) o
  else 0

/-! ## Writing registers (R8, R10) -/

/-- A write of DBGCMD by its operation (R363); others are ignored. -/
def execDebugCommand (c : Nat) (v : DWord) (s : State) : Out :=
  match bits v.toNat 0 4 with
  | 1 => execHaltGroup c v s
  | 2 => execResumeGroup c v s
  | 3 => execStepGroup c v s
  | 4 => execHaltContext c v s
  | 5 => execResumeContext c v s
  | 6 => execTraceGroupOn c v s
  | 7 => execTraceGroupOff c v s
  | 8 => execSelectGroup c v s
  | 9 => execTraceAllOn c v s
  | 10 => execTraceAllOff c v s
  | 11 => execDump c v s
  | _ => .next s

/-- A mailbox word is written (R363). -/
def State.writeMailboxWord (s : State) (c o : Nat) (sup : Bool) (v : DWord) : Out :=
  match o with
  | 0x000 => execDebugRightWrite c sup v s
  | 0x008 => execDebugCommand c v s
  | 0x300 => execSmpcfgWrite c v s
  | 0x380 => execRpctlWrite c v s
  | _ => .next (State.updDebug s c (fun d => writeMailbox d o v.toNat))

/-- A word of a queue page is written; POST is no such word: it takes whole writes only (R11, R46). -/
def State.writeQueueWord (s : State) (q o : Nat) (sup : Bool) (v : DWord) : Out :=
  match o with
  | 0x20 => execQcfgWrite q sup v s
  | 0x28 => execQovfbaseWrite q sup v s
  | 0x30 => execQovfszWrite q sup v s
  | 0x38 => execQrbaseWrite q sup v s
  | 0x48 => .next (State.updQueue s q (fun x => { x with qrTail := BitVec.ofNat 32 v.toNat }))
  | _ => .next s

/-- A register page's word is written with its new value. -/
def State.writeWord (s : State) (page o : Nat) (sup : Bool) (w : Nat) : Out :=
  if page = 0 then
    (if sup = false then .next s
    else if o = 0 then execLockstepDivergeClear (BitVec.ofNat 32 w) s
    else .next (State.writeHealth s o (if o = 0x10 then w % 2 ^ 32 else w)))
  else if page = 1 then (if o = 0x20 then execAttestationGo (BitVec.ofNat 64 w) s else .next (State.writeAttest s o w))
  else if 0x100 ≤ page ∧ page < 0x200 then State.writeMailboxWord s (page - 0x100) o sup (BitVec.ofNat 64 w)
  else if 0x1000 ≤ page ∧ page < 0x2000 then State.writeQueueWord s (page - 0x1000) o sup (BitVec.ofNat 64 w)
  else .next s

/-- What the bits that a narrower write leaves out count as: the register's own, but for GO and LOCKSTEP_DIVERGE, on which a write
of their old value would act (R8). -/
def State.keptWord (s : State) (base : Nat) : Nat :=
  let w := State.readAperture s base
  if base = 0 then 0 else if base = 0x10020 then w / 2 * 2 else w

/-- REGISTER_WRITE: a write of 8, 16, 32 or 64 bits to a naturally aligned offset; a narrower write acts as a write of the whole
word with the rest of it as it stands (DESIGN CHOICE, log entry 42); unassigned offsets and read-only fields ignore it -/
def execRegisterWrite (off width : Nat) (sup : Bool) (v : DWord) (s : State) : Out :=
  let ok := (width == 8 || width == 16 || width == 32 || width == 64) && 8 * off % width == 0
  if State.linkUp s = false ∨ ok = false then .next s
  else
    let base := off / 8 * 8
    let page := off / 65536
    let o := base % 65536
    if 0x1000 ≤ page ∧ page < 0x2000 ∧ o = 0 then execPost (page - 0x1000) width v s
    else State.writeWord s page o sup (mergeWord (State.keptWord s base) off width v.toNat)

end Sys2Proof.Machine
end

