-- ==== Sys2Proof/Machine/Matrix.lean ====
section
/-! DEFINITION. The matrix engine and the accumulator tiles (R235 to R249): quarter operations, their exact sums (R173, R175),
scales, codebooks and outliers (R161 to R166), and the words that move tiles. -/

namespace Sys2Proof.Machine

/-! ## Forms (R235, R239, R246) -/

/-- The forms of MMQ. -/
inductive MmaForm where
  | bf16 | f16 | e4m3 | e5m2 | i8 | cb4 | cbbf | e2m1
  deriving DecidableEq, Repr, Inhabited

/-- Elements per register, E; the depth K is 8 E (R235). -/
def MmaForm.perReg : MmaForm → Nat
  | .bf16 => 2 | .f16 => 2 | .e4m3 => 4 | .e5m2 => 4 | .i8 => 4 | .cb4 => 8 | .cbbf => 2 | .e2m1 => 8

/-- The bits of an element of A; in MMQ.CBBF an index of 4 (R239). -/
def MmaForm.bitsA : MmaForm → Nat
  | .cbbf => 4
  | f => 32 / MmaForm.perReg f

/-- The bits of an element of B. -/
def MmaForm.bitsB (f : MmaForm) : Nat := 32 / MmaForm.perReg f

/-- The A tag (R246). -/
def MmaForm.tagA : MmaForm → Tag
  | .bf16 => .bf16x2 | .f16 => .f16x2 | .e4m3 => .e4m3x4 | .e5m2 => .e5m2x4 | .i8 => .i8x4 | .cb4 => .cb4x8
  | .cbbf => .cb4x8 | .e2m1 => .e2m1x8

/-- The B tag (R246). -/
def MmaForm.tagB : MmaForm → Tag
  | .cbbf => .bf16x2
  | f => MmaForm.tagA f

/-- The codebook slots that a form decodes through, from CBS (R166, R246). -/
def MmaForm.slots (f : MmaForm) (cbs : BitVec 3) : List Nat :=
  match f with
  | .cb4 => [cbs.toNat, (cbs ^^^ 1).toNat]
  | .cbbf => [cbs.toNat]
  | _ => []

/-! ## Quarters (R236) -/

/-- The lanes of a mask in a quarter. -/
def quarterMask (m : Mask) (q : Nat) : Mask := m &&& (0xFF#32 <<< (8 * q))

/-- The quarters with all 8 lanes active. -/
def fullQuarters (m : Mask) : List Nat := [0, 1, 2, 3].filter (fun q => quarterMask m q == 0xFF#32 <<< (8 * q))

/-- The active lanes of the quarters that have between 1 and 7. -/
def partQuarters (m : Mask) : Mask :=
  [0, 1, 2, 3].foldl (fun r q => if quarterMask m q == 0xFF#32 <<< (8 * q) then r else r ||| quarterMask m q) 0

/-- The lanes of some quarters. -/
def quarterLanes (qs : List Nat) : List Nat := qs.flatMap (fun q => (List.range 8).map (fun i => 8 * q + i))

/-! ## Arrays (R237, R336) -/

/-- The arrays of a hall in service. -/
def State.arraysInService (s : State) (h : Nat) : List Nat :=
  [0, 1, 2, 3].filter (fun a => (State.unit s (arrayUnit h a)).st == 0)

/-- Arrays of a hall reserved in a cycle. -/
def Hall.arraysAt (h : Hall) (t : Nat) : Nat := (h.arrays.filter (fun x => x.1 == t)).foldl (fun n x => n + x.2) 0

/-- The operation of each active quarter with its array cycle, for a chain issued in cycle `t` on `n` arrays in service: quarter q
in cycle t + q, or in a .sb pass `n` operations in each of the cycles from t + 3 on. `f` is 2 while THERMAL doubles every figure
(R20, R237). -/
def opCycles (f t n : Nat) (sb : Bool) (qs : List Nat) : List (Nat × Nat) :=
  ((List.range qs.length).zip qs).map (fun p => (p.2, if sb then t + f * (3 + p.1 / n) else t + f * p.2))

/-- The arrays that some operations need, by cycle. -/
def arrayNeed (ops : List (Nat × Nat)) : List (Nat × Nat) := ops.map (fun p => (p.2, 1))

/-- The needed arrays are free; while THERMAL is set an array takes one operation in any two consecutive cycles (R20, R237). -/
def State.arraysFree (s : State) (h : Nat) (need : List (Nat × Nat)) : Bool :=
  let n := (State.arraysInService s h).length
  let x := State.hall s h
  let used := fun (t : Nat) => Hall.arraysAt x t + (need.filter (fun y => y.1 == t)).foldl (fun n y => n + y.2) 0
  n != 0 && need.all (fun y =>
    if s.pkg.thermal then decide (used y.1 + used (y.1 + 1) ≤ n) && decide (used (y.1 - 1) + used y.1 ≤ n)
    else decide (used y.1 ≤ n))

/-- 2 while THERMAL is set, else 1 (R20, R237). -/
def State.slow (s : State) : Nat := if s.pkg.thermal then 2 else 1

/-- A cycle figure, doubled while THERMAL is set (R20, R237). -/
def State.mqFigure (s : State) (n : Nat) : Nat := State.slow s * n

/-! ## Exact sums (R173) -/

/-- The sum of no products; its zero is negative as long as every term is. -/
def ExactSum.empty : ExactSum := { nan := false, pinf := false, ninf := false, m := 0, e := 0, negZero := true }

/-- One more term. -/
def ExactSum.add (x : ExactSum) (t : Num) : ExactSum :=
  match t with
  | .nan => { x with nan := true }
  | .inf s => if s then { x with ninf := true, negZero := false } else { x with pinf := true, negZero := false }
  | .fin s m e =>
    if m = 0 then { x with negZero := x.negZero && s }
    else
      let q := if x.m = 0 then e else min x.e e
      { x with m := x.m * 2 ^ (x.e - q).toNat + alignTo s m e q, e := q, negZero := x.negZero && s }

/-- Round(a + sum, FP32, RNE), the special values first (R173). -/
def ExactSum.apply (x : ExactSum) (a : Word) : Word :=
  let y := ExactSum.add x (Fmt.f32.decode a.toNat)
  if y.nan || (y.pinf && y.ninf) then BitVec.ofNat 32 Fmt.f32.nan
  else if y.pinf then 0x7F800000#32
  else if y.ninf then 0xFF800000#32
  else if y.m = 0 then (if y.negZero then 0x80000000#32 else 0)
  else BitVec.ofNat 32 (Fmt.f32.roundFin 0 (decide (y.m < 0)) y.m.natAbs y.e false).1

/-- (T + s) mod 2 to the 32 (R175). -/
def ExactSum.applyInt (x : ExactSum) (a : Word) : Word := a + BitVec.ofInt 32 x.m

/-! ## Fragments (R239, R240) -/

/-- Element κ of a fragment row or column: the bits in a lane from register `r` on. -/
def Group.fragment (g : Group) (lane r e w : Nat) : List Nat :=
  (List.range (8 * e)).map (fun k => element (Group.reg g lane (r + k / e)) (k % e) w)

/-- An E2M1 code under an E8M0 scale byte (R161, R162). -/
def scaled (x byte : Nat) : Num :=
  if byte = 255 then .nan
  else match Fmt.e2m1.decode x with
    | .fin s m e => .fin s m (e + byte - 127)
    | n => n

/-- The value of element κ of row or column `lane`: `hi` chooses the scale bytes, `slot` the codebook, `esc` an escape's
VALUE. -/
def MmaForm.value (f : MmaForm) (g : Group) (cb : Bool) (slot x scaleByte : Nat) (esc : Option Nat) : Num :=
  match f with
  | .bf16 => Fmt.bf16.decode x
  | .f16 => Fmt.f16.decode x
  | .e4m3 => Fmt.e4m3.decode x
  | .e5m2 => Fmt.e5m2.decode x
  | .i8 => Num.ofInt (signedOf8 x)
  | .cb4 => Fmt.bf16.decode (Group.codebook g slot x)
  | .cbbf => if cb then Fmt.bf16.decode (Group.codebook g slot x) else Fmt.bf16.decode x
  | .e2m1 => match esc with | some v => Fmt.bf16.decode v | none => scaled x scaleByte
where
  /-- a signed I8 element (R167) -/
  signedOf8 (x : Nat) : Int := if x < 128 then (x : Int) else (x : Int) - 256

/-- The scale byte of R240 that covers κ. -/
def Group.scaleByte (g : Group) (lane a k : Nat) (colB : Bool) : Nat :=
  bits (Group.reg g lane (a + 8)).toNat (8 * ((if colB then 2 else 0) + (if k ≥ 32 then 1 else 0))) 8

/-! ### Outliers (R163, R164) -/

/-- The escapes of a quarter's A fragment: row and κ. -/
def Group.escapes (g : Group) (a q : Nat) : List (Nat × Nat) :=
  (List.range 8).flatMap (fun i =>
    ((List.range 64).zip (Group.fragment g (8 * q + i) a 8 4)).filterMap (fun p => if p.2 = 8 then some (i, p.1) else none))

/-- The ROW and K of an entry. -/
def entryKey (e : Nat) : Nat × Nat := (bits e 0 3, bits e 3 6)

/-- The entries of a quarter that are not unused (R163). -/
def Group.outliers (g : Group) (a q : Nat) : List Nat :=
  let es := (List.range 4).map (fun n => (Group.reg g (8 * q + n) (a + 9)).toNat)
  let used := es.filter (fun e => e != 0)
  let needZero := (Group.escapes g a q).contains (0, 0) && !used.any (fun e => entryKey e == (0, 0)) && es.contains 0
  if needZero then used ++ [0] else used

/-- A quarter's list fails a check of R164. -/
def Group.outlierBad (g : Group) (a q : Nat) : Bool :=
  let esc := Group.escapes g a q
  let es := Group.outliers g a q
  let keys := es.map entryKey
  decide (esc.length > 4) || esc.any (fun k => !keys.contains k) || keys.eraseDups.length != keys.length ||
  es.any (fun e => bits e 25 7 != 0)

/-- The VALUE of the entry that matches an escape. -/
def Group.escapeValue (g : Group) (a q i k : Nat) : Option Nat :=
  ((Group.outliers g a q).find? (fun e => entryKey e == (i, k))).map (fun e => bits e 9 16)

/-! ## A quarter operation (R235, R245, R247) -/

/-- The values of an A row: of lane 8q + i. -/
def Group.rowA (g : Group) (f : MmaForm) (a q i : Nat) (ol : Bool) : List Num :=
  let lane := 8 * q + i
  let e := MmaForm.perReg f
  ((List.range (8 * e)).zip (Group.fragment g lane a e (MmaForm.bitsA f))).map (fun p =>
    MmaForm.value f g true g.cbs.toNat p.2 (Group.scaleByte g lane a p.1 false)
      (if ol && p.2 == 8 then Group.escapeValue g a q i p.1 else none))

/-- The values of a B column: of lane 8b + j. -/
def Group.colB (g : Group) (f : MmaForm) (a b lane : Nat) : List Num :=
  let e := MmaForm.perReg f
  ((List.range (8 * e)).zip (Group.fragment g lane b e (MmaForm.bitsB f))).map (fun p =>
    MmaForm.value f g false (g.cbs ^^^ 1).toNat p.2 (Group.scaleByte g lane a p.1 true) none)

/-- Some of a lane's registers is POISON. -/
def Group.anyPoison (g : Group) (lane : Nat) (rs : List Nat) : Bool :=
  rs.any (fun n => (Group.cell g lane n).tag == .poison)

/-- The registers an MMQ reads in a row's lane. -/
def MmaForm.rowRegs (f : MmaForm) (a : Nat) (ol : Bool) (lane : Nat) : List Nat :=
  regRun a 8 ++ (if f = .e2m1 then [a + 8] else []) ++ (if ol && lane % 8 < 4 then [a + 9] else [])

/-- The registers an MMQ reads in a column's lane. -/
def MmaForm.colRegs (f : MmaForm) (a b : Nat) : List Nat := regRun b 8 ++ (if f = .e2m1 then [a + 8] else [])

/-- The registers an MMQ reads in a lane, for the rows of the active quarters and for the columns (R245). -/
def MmaForm.laneRegs (f : MmaForm) (a b : Nat) (sb ol : Bool) (qs : List Nat) (lane : Nat) : List Nat :=
  (if qs.contains (lane / 8) then MmaForm.rowRegs f a ol lane else []) ++
  (if (if sb then decide (lane < 8) else qs.contains (lane / 8)) then MmaForm.colRegs f a b else [])

/-- The operation of one active quarter: its 64 sums and the poison of its elements, row by row. -/
def Group.quarterOp (g : Group) (f : MmaForm) (tile a b : Nat) (sb ol : Bool) (qs : List Nat) (q due : Nat) : MmaOp :=
  let lb := if sb then 0 else 8 * q
  let bad := fun (l : Nat) => Group.anyPoison g l (MmaForm.laneRegs f a b sb ol qs l)
  let rows := (List.range 8).map (fun i =>
    (Group.rowA g f a q i ol, bad (8 * q + i)))
  let cols := (List.range 8).map (fun j =>
    (Group.colB g f a b (lb + j), bad (lb + j)))
  { tile := tile, quarter := q, int := f == .i8,
    sums := rows.flatMap (fun r => cols.map (fun c =>
      (r.1.zip c.1).foldl (fun x p => ExactSum.add x (Num.mul p.1 p.2).1) ExactSum.empty)),
    poison := rows.flatMap (fun r => cols.map (fun c => r.2 || c.2)), tries := 0, due := due }

/-- A quarter operation's effect on its tile (R173, R175, R245, R247). -/
def Tile.retire (t : Tile) (o : MmaOp) : Tile :=
  let n := fun (k : Nat) => 64 * o.quarter + k
  { elems := (List.range t.elems.length).map (fun k =>
      let x := t.elems.getD k 0
      if 64 * o.quarter ≤ k ∧ k < 64 * o.quarter + 64 then
        let y := o.sums.getD (k - 64 * o.quarter) ExactSum.empty
        if o.int then ExactSum.applyInt y x else ExactSum.apply y x
      else x),
    ints := if o.int then t.ints ||| (1#4 <<< o.quarter) else t.ints &&& ~~~(1#4 <<< o.quarter),
    poison := (List.range 64).foldl (fun p k => if o.poison.getD k false then p ||| (1#256 <<< n k) else p) t.poison }

/-! ## Issue (R242 to R244, R247) -/

/-- A tile of a group. -/
def Group.tile (g : Group) (k : Nat) : Tile := g.tiles.getD k Tile.zero

/-- A tile changed. -/
def Group.updTile (g : Group) (k : Nat) (f : Tile → Tile) : Group := { g with tiles := g.tiles.set k (f (Group.tile g k)) }

/-- A deferred SHADOW is held for a tile (R244). -/
def Group.shadowFor (g : Group) (k : Nat) : Bool := g.deferred.contains (.shadow k)

/-- A deferred SHADOW is delivered. -/
def Group.dropShadow (g : Group) (k : Nat) : Group := { g with deferred := g.deferred.erase (.shadow k) }

/-- The checks every MQ word begins with: a deferred SHADOW, ILLEGAL in an open region but for MMRD, then QUARTER (R236, R243, R244,
R315). -/
def State.mqWord (s : State) (k : Nat) (inside : Bool) (body : State → List Nat → Eff) : Eff :=
  let bad := partQuarters s.cur.mask
  if Group.shadowFor s.g k then
    .trap (State.updG s (fun g => Group.dropShadow g k)) .shadow s.cur.mask (BitVec.ofNat 64 k)
  else if !inside && State.anyRegion s then .trap s .illegal s.cur.mask 0
  else if bad ≠ 0 then .trap s .quarter bad 0
  else body s (fullQuarters s.cur.mask)

/-- An MMLD of the group has not written a tile (R249). -/
def Group.loading (g : Group) (k : Nat) : Bool := g.outst.any (fun o => match o.op with | .mmld n => n == k | _ => false)

/-- Earlier operations of the group on a tile have not retired (R242, R249). -/
def Group.tileBusy (g : Group) (k : Nat) : Bool := g.mma.any (fun o => o.tile == k) || Group.loading g k

/-- Some register of some lanes has a tag that is not accepted. -/
def Group.tagsBad (g : Group) (lanes rs : List Nat) (tags : List Tag) : Bool :=
  lanes.any (fun l => rs.any (fun n => !tagOk (Group.cell g l n).tag tags))

/-- Some register of some lanes has a residue that does not match (R118). -/
def Group.residuesBad (g : Group) (lanes rs : List Nat) : Bool :=
  lanes.any (fun l => rs.any (fun n => !RegCell.sound (Group.cell g l n)))

/-- An MMQ (R247): the checks in their order, the end of the region, the reservation, the operations. -/
def State.mmq (s : State) (f : MmaForm) (tile : BitVec 4) (a b : RegNo) (sb ol : Bool) : Eff :=
  State.mqWord s tile.toNat false (fun s qs =>
    let h := s.g.hall
    let ops := opCycles (State.slow s) s.clk (State.arraysInService s h).length sb qs
    let need := arrayNeed ops
    let rows := quarterLanes qs
    let cols := quarterLanes (if sb then (if qs.isEmpty then [] else [0]) else qs)
    let slots := MmaForm.slots f s.g.cbs
    if slots.any (fun n => State.slotPending s n) then .stall .regdep []
    else if Group.loading s.g tile.toNat then .stall .acclock []
    else if !State.arraysFree s h need then .stall .mmbusy []
    else if Group.tagsBad s.g rows (regRun a.toNat 8) [MmaForm.tagA f] then .trap s .format s.cur.mask 0
    else if f = .e2m1 ∧ Group.tagsBad s.g rows [a.toNat + 8] [.e8m0x4] then .trap s .format s.cur.mask 0
    else if Group.tagsBad s.g cols (regRun b.toNat 8) [MmaForm.tagB f] then .trap s .format s.cur.mask 0
    else if slots.any (fun n => decide (n ≥ s.g.lr.cb)) then .trap s .illegal s.cur.mask 0
    else match (if ol then qs.find? (fun q => Group.outlierBad s.g a.toNat q) else none) with
      | some q => .trap s .outlier (0xFF#32 <<< (8 * q)) 0
      | none =>
        if rows.any (fun l => Group.residuesBad s.g [l] (MmaForm.rowRegs f a.toNat ol l)) ||
            Group.residuesBad s.g cols (MmaForm.colRegs f a.toNat b.toNat) then .bad .residue
        else
          let ops := ops.map (fun p =>
            Group.quarterOp s.g f tile.toNat a.toNat b.toNat sb ol qs p.1 (p.2 + State.mqFigure s 12))
          let s := State.endRegion s
          let s := State.updHall s h (fun x => { x with arrays := x.arrays ++ need })
          .ok (State.updG s (fun g => { g with mma := g.mma ++ ops })))

/-- MMQ.BF16 -/
def execMmqBf16 (tile : BitVec 4) (a b : RegNo) (sb : Bool) (s : State) : Out :=
  issue (.mmqBf16 tile a b sb) (fun s => State.mmq s .bf16 tile a b sb false) s
/-- MMQ.F16 -/
def execMmqF16 (tile : BitVec 4) (a b : RegNo) (sb : Bool) (s : State) : Out :=
  issue (.mmqF16 tile a b sb) (fun s => State.mmq s .f16 tile a b sb false) s
/-- MMQ.E4M3 -/
def execMmqE4m3 (tile : BitVec 4) (a b : RegNo) (sb : Bool) (s : State) : Out :=
  issue (.mmqE4m3 tile a b sb) (fun s => State.mmq s .e4m3 tile a b sb false) s
/-- MMQ.E5M2 -/
def execMmqE5m2 (tile : BitVec 4) (a b : RegNo) (sb : Bool) (s : State) : Out :=
  issue (.mmqE5m2 tile a b sb) (fun s => State.mmq s .e5m2 tile a b sb false) s
/-- MMQ.I8 -/
def execMmqI8 (tile : BitVec 4) (a b : RegNo) (sb : Bool) (s : State) : Out :=
  issue (.mmqI8 tile a b sb) (fun s => State.mmq s .i8 tile a b sb false) s
/-- MMQ.CB4 -/
def execMmqCb4 (tile : BitVec 4) (a b : RegNo) (sb : Bool) (s : State) : Out :=
  issue (.mmqCb4 tile a b sb) (fun s => State.mmq s .cb4 tile a b sb false) s
/-- MMQ.CBBF -/
def execMmqCbbf (tile : BitVec 4) (a b : RegNo) (sb : Bool) (s : State) : Out :=
  issue (.mmqCbbf tile a b sb) (fun s => State.mmq s .cbbf tile a b sb false) s
/-- MMQ.E2M1 -/
def execMmqE2m1 (tile : BitVec 4) (a b : RegNo) (sb ol : Bool) (s : State) : Out :=
  issue (.mmqE2m1 tile a b sb ol) (fun s => State.mmq s .e2m1 tile a b sb ol) s

/-! ## MMZ, MMRD, MMWR (R248) -/

/-- A row's elements and poison replaced. -/
def Tile.setRow (t : Tile) (row : Nat) (xs : List Word) (bad : List Bool) : Tile :=
  { t with
    elems := (List.range t.elems.length).map (fun k => if k / 8 = row then xs.getD (k % 8) 0 else t.elems.getD k 0),
    poison := (List.range 8).foldl (fun p c =>
      if bad.getD c false then p ||| (1#256 <<< (8 * row + c)) else p &&& ~~~(1#256 <<< (8 * row + c))) t.poison }

/-- INT of a quarter. -/
def Tile.setInt (t : Tile) (q : Nat) (v : Bool) : Tile :=
  { t with ints := if v then t.ints ||| (1#4 <<< q) else t.ints &&& ~~~(1#4 <<< q) }

/-- MMZ -/
def execMmz (tile : BitVec 4) (s : State) : Out :=
  issue (.mmz tile) (fun s => State.mqWord s tile.toNat false (fun s qs =>
    if Group.tileBusy s.g tile.toNat then .stall .acclock []
    else
      let zero := fun (t : Tile) (q : Nat) =>
        Tile.setInt ((List.range 8).foldl (fun t i => Tile.setRow t (8 * q + i) (List.replicate 8 0) []) t) q false
      .ok (State.updG (State.endRegion s) (fun g => Group.updTile g tile.toNat (fun t => qs.foldl zero t))))) s

/-- The cell that MMRD writes for an element (R245, R248). -/
def Tile.cell (t : Tile) (row c : Nat) : RegCell :=
  RegCell.of (t.elems.getD (8 * row + c) 0)
    (if t.poison.getLsbD (8 * row + c) then .poison else if t.ints.getLsbD (row / 8) then .i32 else .f32)

/-- MMRD: allowed in an open atomic region (R243); it ends no region -/
def execMmrd (tile : BitVec 4) (a : RegNo) (s : State) : Out :=
  issue (.mmrd tile a) (fun s => State.mqWord s tile.toNat true (fun s _ =>
    if Group.tileBusy s.g tile.toNat then .stall .acclock []
    else
      let t := Group.tile s.g tile.toNat
      .ok ((List.range 8).foldl (fun s c =>
        State.landing s (State.mqFigure s 5) (a.toNat + c)
          (lanesOf.map (fun l => if s.cur.mask.getLsbD l then some (Tile.cell t l c) else none)) true) s))) s

/-- The tags of a quarter's eight registers, RAW and POISON set aside. -/
def Group.quarterTags (g : Group) (a q : Nat) : List Tag :=
  (((quarterLanes [q]).flatMap (fun l => (regRun a 8).map (fun n => (Group.cell g l n).tag))).filter
    (fun t => t != .raw && t != .poison)).eraseDups

/-- MMWR: FORMAT for the quarters whose registers carry anything but only I32 or only F32 -/
def execMmwr (tile : BitVec 4) (a : RegNo) (s : State) : Out :=
  issue (.mmwr tile a) (fun s => State.mqWord s tile.toNat false (fun s qs =>
    if Group.tileBusy s.g tile.toNat then .stall .acclock []
    else
      let tags := fun (q : Nat) => Group.quarterTags s.g a.toNat q
      let bad := qs.filter (fun q => !(tags q == [] || tags q == [.i32] || tags q == [.f32]))
      if !bad.isEmpty then .trap s .format (bad.foldl (fun m q => m ||| (0xFF#32 <<< (8 * q))) 0) 0
      else if Group.residuesBad s.g (quarterLanes qs) (regRun a.toNat 8) then .bad .residue
      else
        let g0 := s.g
        let row := fun (t : Tile) (l : Nat) =>
          Tile.setRow t l ((regRun a.toNat 8).map (fun n => Group.reg g0 l n))
            ((regRun a.toNat 8).map (fun n => (Group.cell g0 l n).tag == .poison))
        let put := fun (t : Tile) (q : Nat) => Tile.setInt ((quarterLanes [q]).foldl row t) q (tags q == [.i32])
        .ok (State.updG (State.endRegion s) (fun g => Group.updTile g tile.toNat (fun t => qs.foldl put t))))) s

/-! ## MMST and MMLD (R249) -/

/-- An earlier scratchpad access of the group to a hall that some of these reach is outstanding (R203). -/
def Group.scratchBusy (g : Group) (ranks : List Nat) : Bool :=
  g.outst.any (fun o => (Outst.places o).any (fun p => p.1 && ranks.contains (placeRank p.2.1)))

/-- What MMST and MMLD share: the address checks, then the waits of R205, R211 and R242 (R249); with the region ended the operation
is outstanding. -/
def State.tileMove (s : State) (k : Nat) (a : RegNo) (wait : BitVec 5 → Bool) (consume : Bool) (op : State → List Access → OutOp)
    (parts : List Access → List LanePart) : Eff :=
  State.mqWord s k false (fun s _ =>
    State.withSources s [{ src1 a false [.i32] with use := .consume }] (fun s =>
      let accs := State.scratchAccesses s a 0 32
      State.aligned s accs 32 (State.inScratch s accs
        (if State.tileAny s accs wait then .stall .tiletag []
        else if State.scratchRangeHit s accs then .stall .range []
        else if Group.tileBusy s.g k then .stall .acclock []
        else if consume && (Mask.lanes s.cur.mask).any (fun l =>
            (List.range 8).any (fun c => (Group.tile s.g k).poison.getLsbD (8 * l + c))) then .poison
        else
          let s := State.endRegion s
          .ok (State.updG s (fun g => Group.issueOp g (op s accs) s.cur.mask (parts accs)))))))

/-- MMST: an outstanding store that no counter counts; the group issues nothing more until it is performed (R249) -/
def execMmst (tile : BitVec 4) (a : RegNo) (s : State) : Out :=
  issue (.mmst tile a) (fun s =>
    State.tileMove s tile.toNat a (fun t => TileTag.trk t && TileTag.h t) true
      (fun s accs =>
        let row := fun (l : Nat) =>
          (List.range 8).flatMap (fun c => leBytes 4 ((Group.tile s.g tile.toNat).elems.getD (8 * l + c) 0).toNat)
        .store { no := s.g.nextNo, lc := s.g.lc, scratch := true, modw := false, scope := scratchScope accs, ord := 0,
                 parts := accs.map (fun x => { lane := x.lane, addr := x.addr, leaf := 0, data := row x.lane }),
                 tile := true })
      (fun _ => [])) s

/-- MMLD: an outstanding load of the tile's rows, element by element (R249) -/
def execMmld (tile : BitVec 4) (a : RegNo) (s : State) : Out :=
  issue (.mmld tile a) (fun s =>
    State.tileMove s tile.toNat a (fun t => TileTag.trk t && !TileTag.v t) false (fun _ _ => .mmld tile.toNat)
      (fun accs => accs.flatMap (fun x => (List.range 8).map (fun c =>
        ({ lane := x.lane, addr := x.addr + BitVec.ofNat 64 (4 * c), len := 4, leaf := 0, x := [], priv := false } : LanePart))))) s

/-! ## Retirement (R243, R244) -/

/-- The array that performs an operation, among those in service: which of them is left open, a free value (log entry 12). -/
def State.arrayUsed (s : State) (h : Nat) : Option Nat :=
  match State.arraysInService s h with
  | [] => none
  | a :: r => (a :: r)[Config.arrayPick s.free % (r.length + 1)]?

/-- The first of a group's operations that retires in a cycle: its own is past, and no earlier one on its quarter of the tile has not
retired (R242). -/
def Group.retiring? (g : Group) (clk : Nat) : Option Nat :=
  (List.range g.mma.length).find? (fun n =>
    match g.mma[n]? with
    | some o => decide (o.due < clk) && (g.mma.take n).all (fun x => !(x.tile == o.tile && x.quarter == o.quarter))
    | none => false)

/-- The first cycle from now on in which an array of the hall is free, within a bound. -/
def State.freeCycle (s : State) (h : Nat) : Nat :=
  ((List.range 64).map (fun k => s.clk + k)).find? (fun t => State.arraysFree s h [(t, 1)]) |>.getD (s.clk + 64)

/-- An operation is performed again, on an array reserved for it (R237, R244). -/
def State.retry (s : State) (g : Group) (n : Nat) (o : MmaOp) : State :=
  let t := State.freeCycle s g.hall
  let s := State.updHall s g.hall (fun x => { x with arrays := x.arrays ++ [(t, 1)] })
  State.updGroup s g.hall g.slot (fun g =>
    { g with mma := g.mma.set n { o with tries := o.tries + 1, due := t + State.mqFigure s 12 } })

/-- MMQ_RETIRE: a quarter operation whose cycle is past retires into its tile; with a checksum mismatch it is charged to its array
and performed again, and after three it is dropped and a deferred SHADOW kept; with no array in service it waits (R242, R244) -/
def execMmqRetire (hall slot : Nat) (mismatch : Bool) (s : State) : Out :=
  match State.groupAt? s hall slot with
  | none => .next s
  | some g =>
    match Group.retiring? g s.clk with
    | none => .next s
    | some n =>
      match g.mma[n]? with
      | none => .next s
      | some o =>
        let gone := fun (g : Group) => { g with mma := dropPlaces g.mma [n] }
        if o.tries > 0 ∧ State.arraysInService s hall = [] then
          .next (State.updGroup s hall slot (fun g => { g with mma := g.mma.set n { o with due := s.clk } }))
        else if mismatch then
          let s := match State.arrayUsed s hall with
            | some a => State.chargeUnit (State.useFree s) (arrayUnit hall a) 4
            | none => s
          .next (if o.tries ≥ 2 then State.updGroup s hall slot (fun g =>
              { gone g with deferred := (g.deferred ++ [Deferred.shadow o.tile]).eraseDups })
            else State.retry s g n o)
        else .next (State.updGroup s hall slot (fun g => gone (Group.updTile g o.tile (fun t => Tile.retire t o))))

end Sys2Proof.Machine
end

