-- ==== Sys2Proof/Machine/Sync.lean ====
section
/-! DEFINITION. Tile tags (R204, R225), stage rings (R250 to R254) and phaser words (R280 to R284). -/

namespace Sys2Proof.Machine

/-! ## Tile tags (R225) -/

/-- Tags of a run of tiles of a block changed. -/
def State.setTiles (s : State) (c seq blk first n : Nat) (f : BitVec 5 → BitVec 5) : State :=
  State.updBlock s c seq blk (fun b => (List.range n).foldl (fun b i => Block.setTag b (first + i) f) b)

/-- TILEV, TILEC and TILECLR (R225): the region ends; then the wait for H = 0 on every named tile, for every earlier store of the
group and for its earlier accesses to that hall's scratchpad (R204); then the tags change. -/
def State.tileWord (s : State) (i : Instr) (a b : RegNo) (ua ub : Bool) (f : BitVec 5 → BitVec 5) : Eff :=
  State.outside s (fun s =>
    let xs : List Src := [{ reg := a.toNat, uni := ua, tags := [.i32], use := .lowest },
      { reg := b.toNat, uni := ub, tags := [.i32], use := .peek }]
    State.withSources s xs (fun s =>
      let l0 := Mask.lowest s.cur.mask
      let addr := State.src s l0 a.toNat ua
      let n := (State.src s l0 b.toNat ub).toNat
      if addr.toNat % 1024 ≠ 0 then .trap s .align (1#32 <<< l0) (BitVec.zeroExtend 64 addr)
      else if n = 0 ∨ n > 512 then .trap s .bounds s.cur.mask 0
      else match scratchTarget s.g.lr s.g.blk addr (1024 * n) with
        | none => .trap s .bounds (1#32 <<< l0) (BitVec.zeroExtend 64 addr)
        | some (blk, off) =>
          let s := if s.g.wait.isSome then s else State.endRegion s
          let held := match State.block? s s.g.ctx s.g.seq blk with
            | some x => (List.range n).any (fun k => TileTag.h (Block.tag x (off / 1024 + k)))
            | none => false
          if held then .park (State.park s i 1 0 .tiletag) .tiletag
          else if decide (s.g.scnt ≠ 0) || Group.scratchBusy s.g [placeRank (BitVec.zeroExtend 64 addr)] then .park (State.park s i 1 0 .cntwait) .cntwait
          else
            let s := State.unpark s
            .ok (State.setTiles s s.g.ctx s.g.seq blk (off / 1024) n f)))

/-- TILEV: V := 1, C := 0 -/
def execTilev (a b : RegNo) (ua ub : Bool) (s : State) : Out :=
  issue (.tilev a b ua ub) (fun s =>
    State.tileWord s (.tilev a b ua ub) a b ua ub (fun t => TileTag.clear (TileTag.set t 0) 1)) s

/-- TILEC: C := 1 -/
def execTilec (a b : RegNo) (ua ub : Bool) (s : State) : Out :=
  issue (.tilec a b ua ub) (fun s => State.tileWord s (.tilec a b ua ub) a b ua ub (fun t => TileTag.set t 1)) s

/-- TILECLR: TRK := 1, V := 0, C := 0 -/
def execTileclr (a b : RegNo) (ua ub : Bool) (s : State) : Out :=
  issue (.tileclr a b ua ub) (fun s =>
    State.tileWord s (.tileclr a b ua ub) a b ua ub (fun t => TileTag.clear (TileTag.clear (TileTag.set t 4) 0) 1)) s

/-! ## Stage rings (R250 to R253) -/

/-- The operands of a ring word, from the lowest active lane. -/
def ringSources (a b : RegNo) : List Src :=
  [{ reg := a.toNat, uni := false, tags := [], use := .lowest }, { reg := b.toNat, uni := false, tags := [], use := .lowest }]

/-- A ring of the group's block. -/
def State.ring? (s : State) (n : Nat) : Option Ring :=
  match State.block? s s.g.ctx s.g.seq s.g.blk with
  | some b => lookup b.rings n
  | none => none

/-- The first tile of a landing (R250). -/
def Ring.tile (r : Ring) (j : Nat) : Nat := r.tb + j * r.t

/-- P of a landing. -/
def State.phaseBit (s : State) (r : Ring) (j : Nat) : Bool :=
  match State.block? s s.g.ctx s.g.seq s.g.blk with
  | some b => TileTag.p (Block.tag b (Ring.tile r j))
  | none => false

/-- The geometry of a descriptor (R251). -/
def ringOf (v : Nat) : Ring := { tb := bits v 0 9, n := bits v 9 5 + 1, t := bits v 14 4 + 1 }

/-- BOUNDS of a ring word. -/
def State.ringBad (s : State) : Eff := .trap s .bounds s.cur.mask 0

/-- RNGI -/
def execRngi (a b : RegNo) (s : State) : Out :=
  issue (.rngi a b) (fun s => State.withSources s (ringSources a b) (fun s =>
    let l0 := Mask.lowest s.cur.mask
    let r := (State.src s l0 a.toNat false).toNat
    let v := (State.src s l0 b.toNat false).toNat
    let x := ringOf v
    if r ≥ 16 then State.ringBad s
    else State.outside s (fun s =>
      if v ≥ 2 ^ 18 ∨ (x.tb + x.n * x.t) * 1024 > s.g.lr.scratch then State.ringBad s
      else match State.ring? s r with
        | some y => if x = y then .ok (State.endRegion s) else State.ringBad s
        | none =>
          let s := State.endRegion s
          .ok (State.updBlock s s.g.ctx s.g.seq s.g.blk (fun b =>
            (List.range x.n).foldl (fun b j => Block.setTag b (Ring.tile x j) (fun t => TileTag.clear t 2))
              { b with rings := insert b.rings r x }))))) s

/-- RNGW: ILLEGAL inside an open region, as every ring word (R286), after the reserved bits (R250); it waits, counting RING; it
ends no idempotent region -/
def execRngw (a b : RegNo) (s : State) : Out :=
  issue (.rngw a b) (fun s => State.withSources s (ringSources a b) (fun s =>
    let l0 := Mask.lowest s.cur.mask
    let r := (State.src s l0 a.toNat false).toNat
    let v := (State.src s l0 b.toNat false).toNat
    if r ≥ 16 ∨ v ≥ 64 then State.ringBad s
    else State.outside s (fun s => match State.ring? s r with
      | none => .park (State.park s (.rngw a b) 1 0 .ring) .ring
      | some x =>
        if bits v 0 5 ≥ x.n then State.ringBad s
        else if State.phaseBit s x (bits v 0 5) == v.testBit 5 then .ok (State.unpark s)
        else .park (State.park s (.rngw a b) 1 0 .ring) .ring))) s

/-- RNGS: it ends the region and waits, counting CNTWAIT, for every earlier load and store; then P := not S -/
def execRngs (a b : RegNo) (s : State) : Out :=
  issue (.rngs a b) (fun s => State.withSources s (ringSources a b) (fun s =>
    let l0 := Mask.lowest s.cur.mask
    let r := (State.src s l0 a.toNat false).toNat
    let v := (State.src s l0 b.toNat false).toNat
    let side := v.testBit 5
    if r ≥ 16 ∨ v ≥ 64 then State.ringBad s
    else State.outside s (fun s => match State.ring? s r with
      | none => State.ringBad s
      | some x =>
        let j := bits v 0 5
        if s.g.wait.isNone && (decide (j ≥ x.n) || State.phaseBit s x j != side) then State.ringBad s
        else
          let s := if s.g.wait.isSome then s else State.endRegion s
          if s.g.lcnt = 0 ∧ s.g.scnt = 0 then
            let s := State.unpark s
            .ok (State.updBlock s s.g.ctx s.g.seq s.g.blk (fun b =>
              Block.setTag b (Ring.tile x j) (fun t => if side then TileTag.clear t 2 else TileTag.set t 2)))
          else .park (State.park s (.rngs a b) 1 0 .cntwait) .cntwait))) s

/-! ## Phaser words (R280 to R284) -/

/-- The record of a handle. -/
def Group.record? (g : Group) (h : DWord) : Option PhReg := g.phregs.find? (fun r => r.handle == h)

/-- The record of a handle changed. -/
def Group.updRecord (g : Group) (h : DWord) (f : PhReg → PhReg) : Group :=
  { g with phregs := mapIf g.phregs (fun r => r.handle == h) f }

/-- A descriptor's reserved fields are zero and its SCOPE is 2 to 5 (R280). -/
def State.descriptorOk (s : State) (c : Nat) (h : DWord) : Bool :=
  let w := State.numVirt s c (vaOf h + 0x10) 8
  decide (2 ≤ w) && decide (w ≤ 5) && State.numVirt s c (vaOf h + 0x1C) 4 == 0 && State.numVirt s c (vaOf h + 0x20) 32 == 0

/-- What every phaser word begins with: ILLEGAL in a region, the sources, the handle's checks (R280, R281). -/
def State.phaserWord (s : State) (a : RegNo) (extra : List Src) (body : State → DWord → Eff) : Eff :=
  State.outside s (fun s => State.withSources s (srcPair a.toNat false [] .lowest ++ extra) (fun s =>
    let l0 := Mask.lowest s.cur.mask
    let h := State.src64 s l0 a.toNat false
    if windowPointer h then (if bits h.toNat 0 32 > 63 then .trap s .bounds s.cur.mask h else body s h)
    else if h.toNat % 64 ≠ 0 then .trap s .align (1#32 <<< l0) h
    else State.classifiedOnce s .atomic [{ lane := l0, addr := h, len := 64 }] (fun s ps =>
      State.leafProt s ps Leaf.s
        (if s.g.wait.isNone && !State.descriptorOk s s.g.ctx h then .trap s .bounds s.cur.mask h
        else body (State.touch s s.g.hall s.g.ctx true ps) h))))

/-- The phase number goes to vd in every active lane, I32; the waiting lanes go on. -/
def State.phaseAnswer (s : State) (d : RegNo) (v : Word) : Eff := .ok (State.answer (State.unpark s) d (fun _ => v) .i32)

/-- The mode of vb, none if it is 0 or has a bit above 1 (R282). -/
def State.phaserMode (s : State) (b : RegNo) : Option (BitVec 2) :=
  let v := State.src s (Mask.lowest s.cur.mask) b.toNat false
  if v = 0 ∨ v.toNat > 3 then none else some (BitVec.ofNat 2 v.toNat)

/-- The signal of R284: the region ends, every earlier load, store and atomic is performed, SP meets PH, then ARR goes up. `k`
gets the phase signalled. -/
def State.signal (s : State) (i : Instr) (h : DWord) (k : State → Word → Eff) : Eff :=
  if State.phase s i = 3 then k s 0
  else
    let s := if s.g.wait.isSome then s else State.endRegion s
    if s.g.lcnt ≠ 0 ∨ s.g.scnt ≠ 0 ∨ s.g.acnt ≠ 0 then .park (State.park s i 1 0 .cntwait) .cntwait
    else match Group.record? s.g h with
      | none => State.ringBad s
      | some r =>
        let p := State.phaser s s.g h
        if r.sp ≠ p.ph then .park (State.park s i 2 0 .phaser) .phaser
        else
          let s := State.putPhaser s s.g h { p with arr := p.arr + 1 }
          let s := State.updG s (fun g => Group.updRecord g h (fun r => { r with sp := r.sp + 1 }))
          k (State.testPhase s s.g h) r.sp

/-- The wait of PHWAIT: it arrives, which may complete the phase (R283), then holds until (PH − WP) is 1 to 2^31. -/
def State.await (s : State) (i : Instr) (d : RegNo) (h : DWord) : Eff :=
  let p := State.phaser s s.g h
  let s := if State.phase s i ≠ 3 ∧ p.arr.toNat ≥ p.nsig.toNat then State.completePhase s s.g h else s
  match Group.record? s.g h with
  | none => State.ringBad s
  | some r =>
    let n := ((State.phaser s s.g h).ph - r.wp).toNat
    if 1 ≤ n ∧ n ≤ 2147483648 then
      State.phaseAnswer (State.updG s (fun g => Group.updRecord g h (fun r => { r with wp := r.wp + 1 }))) d r.wp
    else .park (State.park s i 3 0 .phaser) .phaser

/-- Block-phaser entries taken in a hall. -/
def State.phaserEntries (s : State) (hall : Nat) : Nat :=
  (s.blocks.filter (fun b => b.hall == hall)).foldl (fun n b => n + b.phasers.length) 0

/-- A block phaser that no one has registered needs a new entry. -/
def State.needsEntry (s : State) (h : DWord) : Bool :=
  match blockPhaser h with
  | none => false
  | some n => match State.block? s s.g.ctx s.g.seq s.g.blk with
    | some b => (lookup b.phasers n).isNone
    | none => true

/-- PHREG -/
def execPhreg (d a b : RegNo) (s : State) : Out :=
  issue (.phreg d a b) (fun s => State.phaserWord s a [{ reg := b.toNat, uni := false, tags := [], use := .peek }]
    (fun s h =>
      match State.phaserMode s b with
      | none => State.ringBad s
      | some m =>
        if (Group.record? s.g h).isSome ∨ s.g.phregs.length ≥ 8 then State.ringBad s
        else if State.needsEntry s h && decide (State.phaserEntries s s.g.hall ≥ Config.phaserEntries) then .stall .engq []
        else
          let p := State.phaser s s.g h
          let n : Word := if m.getLsbD 0 then 1 else 0
          let s := State.putPhaser s s.g h { p with nsig := p.nsig + n, nnext := p.nnext + n, npart := p.npart + 1 }
          let s := State.updG s (fun g =>
            { g with phregs := g.phregs ++ [{ handle := h, mode := m, pending := 0, sp := p.ph, wp := p.ph }] })
          .ok (State.answer (State.testPhase s s.g h) d (fun _ => p.ph) (State.answerTag s b)))) s

/-- PHMODE -/
def execPhmode (d a b : RegNo) (s : State) : Out :=
  issue (.phmode d a b) (fun s => State.phaserWord s a [{ reg := b.toNat, uni := false, tags := [], use := .peek }]
    (fun s h =>
      match State.phaserMode s b with
      | none => State.ringBad s
      | some m =>
        if (Group.record? s.g h).isNone then State.ringBad s
        else
          let s := State.updG s (fun g => Group.updRecord g h (fun r => { r with pending := m }))
          .ok (State.answer s d (fun _ => (State.phaser s s.g h).ph + 1) (State.answerTag s b)))) s

/-- PHDROP: a record that signals waits first, as PHSIG does for earlier accesses (R284) -/
def execPhdrop (d a : RegNo) (s : State) : Out :=
  issue (.phdrop d a) (fun s => State.phaserWord s a [] (fun s h =>
    match Group.record? s.g h with
    | none => State.ringBad s
    | some r =>
      let sig := r.mode.getLsbD 0
      let s := if sig && s.g.wait.isNone then State.endRegion s else s
      if sig && (s.g.lcnt != 0 || s.g.scnt != 0 || s.g.acnt != 0) then .park (State.park s (.phdrop d a) 1 0 .cntwait) .cntwait
      else
        let ph := (State.phaser s s.g h).ph
        let s := State.unpark s
        State.phaseAnswer (State.dropPhaser s s.g r) d ph)) s

/-- PHSIG -/
def execPhsig (d a : RegNo) (s : State) : Out :=
  issue (.phsig d a) (fun s => State.phaserWord s a [] (fun s h =>
    match Group.record? s.g h with
    | none => State.ringBad s
    | some r =>
      if s.g.wait.isNone && !r.mode.getLsbD 0 then State.ringBad s
      else State.signal s (.phsig d a) h (fun s v => State.phaseAnswer s d v))) s

/-- PHWAIT -/
def execPhwait (d a : RegNo) (s : State) : Out :=
  issue (.phwait d a) (fun s => State.phaserWord s a [] (fun s h =>
    match Group.record? s.g h with
    | none => State.ringBad s
    | some r =>
      if s.g.wait.isNone && !r.mode.getLsbD 1 then State.ringBad s
      else State.await s (.phwait d a) d h)) s

/-- PHNEXT: the signal if the mode signals, then the wait if the mode waits -/
def execPhnext (d a : RegNo) (s : State) : Out :=
  issue (.phnext d a) (fun s => State.phaserWord s a [] (fun s h =>
    match Group.record? s.g h with
    | none => State.ringBad s
    | some r =>
      let i : Instr := .phnext d a
      if State.phase s i = 3 then State.await s i d h
      else if r.mode.getLsbD 0 then
        State.signal s i h (fun s v => if r.mode.getLsbD 1 then State.await s i d h else State.phaseAnswer s d v)
      else State.await s i d h)) s

end Sys2Proof.Machine
end

