-- ==== Sys2Proof/Machine/Dispatch.lean ====
section
/-! DEFINITION. The meaning of every instruction: one arm per constructor of Instr, each a direct call of its meaning. -/

namespace Sys2Proof.Machine

def exec (i : Instr) (s : State) : Host.Outcome State Fault Refusal :=
  match i with
  | .nop => Sys2Proof.Machine.execNop s
  | .iadd u d a b => Sys2Proof.Machine.execIadd u d a b s
  | .isub u d a b => Sys2Proof.Machine.execIsub u d a b s
  | .imul u d a b => Sys2Proof.Machine.execImul u d a b s
  | .imulhS u d a b => Sys2Proof.Machine.execImulhS u d a b s
  | .imulhZ u d a b => Sys2Proof.Machine.execImulhZ u d a b s
  | .imad u d a b => Sys2Proof.Machine.execImad u d a b s
  | .imin u z d a b => Sys2Proof.Machine.execImin u z d a b s
  | .imax u z d a b => Sys2Proof.Machine.execImax u z d a b s
  | .iabs d a => Sys2Proof.Machine.execIabs d a s
  | .and u d a b => Sys2Proof.Machine.execAnd u d a b s
  | .or u d a b => Sys2Proof.Machine.execOr u d a b s
  | .xor u d a b => Sys2Proof.Machine.execXor u d a b s
  | .andn u d a b => Sys2Proof.Machine.execAndn u d a b s
  | .shl u d a b => Sys2Proof.Machine.execShl u d a b s
  | .shr u d a b => Sys2Proof.Machine.execShr u d a b s
  | .sha u d a b => Sys2Proof.Machine.execSha u d a b s
  | .popc d a => Sys2Proof.Machine.execPopc d a s
  | .clz d a => Sys2Proof.Machine.execClz d a s
  | .brev d a => Sys2Proof.Machine.execBrev d a s
  | .bfx u z d a b => Sys2Proof.Machine.execBfx u z d a b s
  | .bfi u d a b => Sys2Proof.Machine.execBfi u d a b s
  | .icmp rel d a b => Sys2Proof.Machine.execIcmp rel d a b s
  | .sel u d a b => Sys2Proof.Machine.execSel u d a b s
  | .a64 u d a b => Sys2Proof.Machine.execA64 u d a b s
  | .a64s u sc d a b => Sys2Proof.Machine.execA64s u sc d a b s
  | .shfl u pat d a b => Sys2Proof.Machine.execShfl u pat d a b s
  | .vany u d a b => Sys2Proof.Machine.execVany u d a b s
  | .vall u d a b => Sys2Proof.Machine.execVall u d a b s
  | .vbal u d a b => Sys2Proof.Machine.execVbal u d a b s
  | .radd u d a b => Sys2Proof.Machine.execRadd u d a b s
  | .rmin d a => Sys2Proof.Machine.execRmin d a s
  | .rmax d a => Sys2Proof.Machine.execRmax d a s
  | .idp4 u z d a b => Sys2Proof.Machine.execIdp4 u z d a b s
  | .iaddi d a imm => Sys2Proof.Machine.execIaddi d a imm s
  | .andi d a imm => Sys2Proof.Machine.execAndi d a imm s
  | .ori d a imm => Sys2Proof.Machine.execOri d a imm s
  | .xori d a imm => Sys2Proof.Machine.execXori d a imm s
  | .shli d a imm => Sys2Proof.Machine.execShli d a imm s
  | .shri d a imm => Sys2Proof.Machine.execShri d a imm s
  | .shai d a imm => Sys2Proof.Machine.execShai d a imm s
  | .icmpi d a rel imm => Sys2Proof.Machine.execIcmpi d a rel imm s
  | .a64i d a imm => Sys2Proof.Machine.execA64i d a imm s
  | .li d imm => Sys2Proof.Machine.execLi d imm s
  | .lih d imm => Sys2Proof.Machine.execLih d imm s
  | .cbsel imm => Sys2Proof.Machine.execCbsel imm s
  | .fadd u rm d a b => Sys2Proof.Machine.execFadd u rm d a b s
  | .fsub u rm d a b => Sys2Proof.Machine.execFsub u rm d a b s
  | .fmul u rm d a b => Sys2Proof.Machine.execFmul u rm d a b s
  | .ffma u rm d a b => Sys2Proof.Machine.execFfma u rm d a b s
  | .ffms u rm d a b => Sys2Proof.Machine.execFfms u rm d a b s
  | .fmin u d a b => Sys2Proof.Machine.execFmin u d a b s
  | .fmax u d a b => Sys2Proof.Machine.execFmax u d a b s
  | .fneg d a => Sys2Proof.Machine.execFneg d a s
  | .fabs d a => Sys2Proof.Machine.execFabs d a s
  | .fcpsgn u d a b => Sys2Proof.Machine.execFcpsgn u d a b s
  | .fcmp rel d a b => Sys2Proof.Machine.execFcmp rel d a b s
  | .fsqrt rm d a => Sys2Proof.Machine.execFsqrt rm d a s
  | .frcp d a => Sys2Proof.Machine.execFrcp d a s
  | .frsq d a => Sys2Proof.Machine.execFrsq d a s
  | .fexp2 d a => Sys2Proof.Machine.execFexp2 d a s
  | .flog2 d a => Sys2Proof.Machine.execFlog2 d a s
  | .ftanh d a => Sys2Proof.Machine.execFtanh d a s
  | .hadd2 u rm d a b => Sys2Proof.Machine.execHadd2 u rm d a b s
  | .hmul2 u rm d a b => Sys2Proof.Machine.execHmul2 u rm d a b s
  | .hfma2 u rm d a b => Sys2Proof.Machine.execHfma2 u rm d a b s
  | .hmax2 u d a b => Sys2Proof.Machine.execHmax2 u d a b s
  | .cvtf rm d a tgt => Sys2Proof.Machine.execCvtf rm d a tgt s
  | .cvti rm d a tgt => Sys2Proof.Machine.execCvti rm d a tgt s
  | .cvtfi rm d a tgt => Sys2Proof.Machine.execCvtfi rm d a tgt s
  | .pk2 rm d a tgt => Sys2Proof.Machine.execPk2 rm d a tgt s
  | .pk4 rm d a tgt => Sys2Proof.Machine.execPk4 rm d a tgt s
  | .unpk2 d a tgt => Sys2Proof.Machine.execUnpk2 d a tgt s
  | .unpk4 d a tgt => Sys2Proof.Machine.execUnpk4 d a tgt s
  | .dqcb rm d a tgt => Sys2Proof.Machine.execDqcb rm d a tgt s
  | .dqe2 rm d a tgt => Sys2Proof.Machine.execDqe2 rm d a tgt s
  | .qcb rm d a => Sys2Proof.Machine.execQcb rm d a s
  | .qe2 rm d a => Sys2Proof.Machine.execQe2 rm d a s
  | .tagrd d a => Sys2Proof.Machine.execTagrd d a s
  | .tagset d a tgt => Sys2Proof.Machine.execTagset d a tgt s
  | .ld sz t a off => Sys2Proof.Machine.execLd sz t a off s
  | .st sz t a off => Sys2Proof.Machine.execSt sz t a off s
  | .ldo sz t a scope ord last => Sys2Proof.Machine.execLdo sz t a scope ord last s
  | .sto sz t a scope ord => Sys2Proof.Machine.execSto sz t a scope ord s
  | .ldl sz t a off => Sys2Proof.Machine.execLdl sz t a off s
  | .stl sz t a off => Sys2Proof.Machine.execStl sz t a off s
  | .ldcb t a off => Sys2Proof.Machine.execLdcb t a off s
  | .modw sz t a scope ord => Sys2Proof.Machine.execModw sz t a scope ord s
  | .aadd sz t a scope ord => Sys2Proof.Machine.execAadd sz t a scope ord s
  | .amin sz t a scope ord z => Sys2Proof.Machine.execAmin sz t a scope ord z s
  | .amax sz t a scope ord z => Sys2Proof.Machine.execAmax sz t a scope ord z s
  | .aand sz t a scope ord => Sys2Proof.Machine.execAand sz t a scope ord s
  | .aor sz t a scope ord => Sys2Proof.Machine.execAor sz t a scope ord s
  | .axor sz t a scope ord => Sys2Proof.Machine.execAxor sz t a scope ord s
  | .axch sz t a scope ord => Sys2Proof.Machine.execAxch sz t a scope ord s
  | .acas sz t a scope ord => Sys2Proof.Machine.execAcas sz t a scope ord s
  | .acasQ t a scope ord => Sys2Proof.Machine.execAcasQ t a scope ord s
  | .afadd t a scope ord => Sys2Proof.Machine.execAfadd t a scope ord s
  | .tkt d a b ua ub => Sys2Proof.Machine.execTkt d a b ua ub s
  | .depadd d a b ua ub => Sys2Proof.Machine.execDepadd d a b ua ub s
  | .cpy d a b ua ub => Sys2Proof.Machine.execCpy d a b ua ub s
  | .cpyt d a b ua ub => Sys2Proof.Machine.execCpyt d a b ua ub s
  | .cpyg d a b ua ub => Sys2Proof.Machine.execCpyg d a b ua ub s
  | .cpyw d a b ua ub => Sys2Proof.Machine.execCpyw d a b ua ub s
  | .pub a ua => Sys2Proof.Machine.execPub a ua s
  | .disc a b ua ub => Sys2Proof.Machine.execDisc a b ua ub s
  | .pref a b ua ub => Sys2Proof.Machine.execPref a b ua ub s
  | .smap a b ua ub => Sys2Proof.Machine.execSmap a b ua ub s
  | .sflush a b ua ub => Sys2Proof.Machine.execSflush a b ua ub s
  | .sdrop a ua => Sys2Proof.Machine.execSdrop a ua s
  | .tilev a b ua ub => Sys2Proof.Machine.execTilev a b ua ub s
  | .tilec a b ua ub => Sys2Proof.Machine.execTilec a b ua ub s
  | .tileclr a b ua ub => Sys2Proof.Machine.execTileclr a b ua ub s
  | .coll d a b ua ub => Sys2Proof.Machine.execColl d a b ua ub s
  | .br p off slot => Sys2Proof.Machine.execBr p off slot s
  | .brz p off slot => Sys2Proof.Machine.execBrz p off slot s
  | .jmp off slot => Sys2Proof.Machine.execJmp off slot s
  | .call p off slot => Sys2Proof.Machine.execCall p off slot s
  | .rbeg p off slot => Sys2Proof.Machine.execRbeg p off slot s
  | .jr a ua => Sys2Proof.Machine.execJr a ua s
  | .ret a ua => Sys2Proof.Machine.execRet a ua s
  | .exit => Sys2Proof.Machine.execExit s
  | .yield => Sys2Proof.Machine.execYield s
  | .idem => Sys2Proof.Machine.execIdem s
  | .tret => Sys2Proof.Machine.execTret s
  | .tabn => Sys2Proof.Machine.execTabn s
  | .tkill => Sys2Proof.Machine.execTkill s
  | .rcmt => Sys2Proof.Machine.execRcmt s
  | .rabt => Sys2Proof.Machine.execRabt s
  | .rds d imm => Sys2Proof.Machine.execRds d imm s
  | .wrs a imm => Sys2Proof.Machine.execWrs a imm s
  | .regclm n => Sys2Proof.Machine.execRegclm n s
  | .regrel n => Sys2Proof.Machine.execRegrel n s
  | .spawn d a ua => Sys2Proof.Machine.execSpawn d a ua s
  | .spawnw d a ua => Sys2Proof.Machine.execSpawnw d a ua s
  | .waitc ctr n => Sys2Proof.Machine.execWaitc ctr n s
  | .phreg d a b => Sys2Proof.Machine.execPhreg d a b s
  | .phmode d a b => Sys2Proof.Machine.execPhmode d a b s
  | .phdrop d a => Sys2Proof.Machine.execPhdrop d a s
  | .phsig d a => Sys2Proof.Machine.execPhsig d a s
  | .phwait d a => Sys2Proof.Machine.execPhwait d a s
  | .phnext d a => Sys2Proof.Machine.execPhnext d a s
  | .rngi a b => Sys2Proof.Machine.execRngi a b s
  | .rngw a b => Sys2Proof.Machine.execRngw a b s
  | .rngs a b => Sys2Proof.Machine.execRngs a b s
  | .rstat d => Sys2Proof.Machine.execRstat d s
  | .cstat d a b ua ub => Sys2Proof.Machine.execCstat d a b ua ub s
  | .trap imm => Sys2Proof.Machine.execTrap imm s
  | .brk imm => Sys2Proof.Machine.execBrk imm s
  | .prop d a => Sys2Proof.Machine.execProp d a s
  | .trctl d a b => Sys2Proof.Machine.execTrctl d a b s
  | .tkey d => Sys2Proof.Machine.execTkey d s
  | .mmqBf16 tile a b sb => Sys2Proof.Machine.execMmqBf16 tile a b sb s
  | .mmqF16 tile a b sb => Sys2Proof.Machine.execMmqF16 tile a b sb s
  | .mmqE4m3 tile a b sb => Sys2Proof.Machine.execMmqE4m3 tile a b sb s
  | .mmqE5m2 tile a b sb => Sys2Proof.Machine.execMmqE5m2 tile a b sb s
  | .mmqI8 tile a b sb => Sys2Proof.Machine.execMmqI8 tile a b sb s
  | .mmqCb4 tile a b sb => Sys2Proof.Machine.execMmqCb4 tile a b sb s
  | .mmqCbbf tile a b sb => Sys2Proof.Machine.execMmqCbbf tile a b sb s
  | .mmqE2m1 tile a b sb ol => Sys2Proof.Machine.execMmqE2m1 tile a b sb ol s
  | .mmz tile => Sys2Proof.Machine.execMmz tile s
  | .mmrd tile a => Sys2Proof.Machine.execMmrd tile a s
  | .mmwr tile a => Sys2Proof.Machine.execMmwr tile a s
  | .mmst tile a => Sys2Proof.Machine.execMmst tile a s
  | .mmld tile a => Sys2Proof.Machine.execMmld tile a s
  | .post q width v => Sys2Proof.Machine.execPost q width v s
  | .qcfgWrite q sup v => Sys2Proof.Machine.execQcfgWrite q sup v s
  | .qovfbaseWrite q sup v => Sys2Proof.Machine.execQovfbaseWrite q sup v s
  | .qovfszWrite q sup v => Sys2Proof.Machine.execQovfszWrite q sup v s
  | .qrbaseWrite q sup v => Sys2Proof.Machine.execQrbaseWrite q sup v s
  | .registerWrite off width sup v => Sys2Proof.Machine.execRegisterWrite off width sup v s
  | .attestationGo v => Sys2Proof.Machine.execAttestationGo v s
  | .attestationReportReady => Sys2Proof.Machine.execAttestationReportReady s
  | .readHealthSummary => Sys2Proof.Machine.execReadHealthSummary s
  | .readPower => Sys2Proof.Machine.execReadPower s
  | .readTemperature => Sys2Proof.Machine.execReadTemperature s
  | .requestReport nonce ctx => Sys2Proof.Machine.execRequestReport nonce ctx s
  | .readReport => Sys2Proof.Machine.execReadReport s
  | .setPowerStateP0 => Sys2Proof.Machine.execSetPowerStateP0 s
  | .setPowerStateP1 => Sys2Proof.Machine.execSetPowerStateP1 s
  | .setPowerStateP2 => Sys2Proof.Machine.execSetPowerStateP2 s
  | .setPowerStateOff => Sys2Proof.Machine.execSetPowerStateOff s
  | .setdasa addr => Sys2Proof.Machine.execSetdasa addr s
  | .powerStateExitComplete => Sys2Proof.Machine.execPowerStateExitComplete s
  | .enterP1 => Sys2Proof.Machine.execEnterP1 s
  | .packageReset => Sys2Proof.Machine.execPackageReset s
  | .bootLoadFirstStage loaded image => Sys2Proof.Machine.execBootLoadFirstStage loaded image s
  | .bootLoadNewelFirmware loaded image => Sys2Proof.Machine.execBootLoadNewelFirmware loaded image s
  | .bootLoadCollectiveMicrocode loaded image => Sys2Proof.Machine.execBootLoadCollectiveMicrocode loaded image s
  | .bootRelease links => Sys2Proof.Machine.execBootRelease links s
  | .firmwareReload image => Sys2Proof.Machine.execFirmwareReload image s
  | .thermalSet => Sys2Proof.Machine.execThermalSet s
  | .thermalClear => Sys2Proof.Machine.execThermalClear s
  | .thermalShutdown => Sys2Proof.Machine.execThermalShutdown s
  | .contextCreate ctx p => Sys2Proof.Machine.execContextCreate ctx p s
  | .setTrapBase ctx tbase => Sys2Proof.Machine.execSetTrapBase ctx tbase s
  | .setWayQuota ctx w a k o => Sys2Proof.Machine.execSetWayQuota ctx w a k o s
  | .defineCollectiveSet ctx set pkgs => Sys2Proof.Machine.execDefineCollectiveSet ctx set pkgs s
  | .setGranuleTags ctx va n tag => Sys2Proof.Machine.execSetGranuleTags ctx va n tag s
  | .shootdownRequest ctx va leaf => Sys2Proof.Machine.execShootdownRequest ctx va leaf s
  | .shootdownComplete ctx va => Sys2Proof.Machine.execShootdownComplete ctx va s
  | .contextKill ctx => Sys2Proof.Machine.execContextKill ctx s
  | .queueVisit q => Sys2Proof.Machine.execQueueVisit q s
  | .bindRecordWrite r => Sys2Proof.Machine.execBindRecordWrite r s
  | .preemptionComplete ctx seq gang => Sys2Proof.Machine.execPreemptionComplete ctx seq gang s
  | .restore ctx seq gang binds bad => Sys2Proof.Machine.execRestore ctx seq gang binds bad s
  | .blockRetire ctx seq blk => Sys2Proof.Machine.execBlockRetire ctx seq blk s
  | .taskRetire ctx seq => Sys2Proof.Machine.execTaskRetire ctx seq s
  | .queueDeadlockSample q => Sys2Proof.Machine.execQueueDeadlockSample q s
  | .packetFetchFill hall ctx va => Sys2Proof.Machine.execPacketFetchFill hall ctx va s
  | .tlbWalkComplete hall ctx va => Sys2Proof.Machine.execTlbWalkComplete hall ctx va s
  | .pageResident ctx va leaf => Sys2Proof.Machine.execPageResident ctx va leaf s
  | .migrationStart ctx va => Sys2Proof.Machine.execMigrationStart ctx va s
  | .migrationComplete ctx va frame => Sys2Proof.Machine.execMigrationComplete ctx va frame s
  | .loadReturn hall slot n k => Sys2Proof.Machine.execLoadReturn hall slot n k s
  | .storePerformed hall slot n k => Sys2Proof.Machine.execStorePerformed hall slot n k s
  | .atomicPerformed hall slot n k => Sys2Proof.Machine.execAtomicPerformed hall slot n k s
  | .copyCommandRetire hall n r w => Sys2Proof.Machine.execCopyCommandRetire hall n r w s
  | .cpygRowGather hall n => Sys2Proof.Machine.execCpygRowGather hall n s
  | .pubInstant ctx entry => Sys2Proof.Machine.execPubInstant ctx entry s
  | .pubRetire ctx entry => Sys2Proof.Machine.execPubRetire ctx entry s
  | .mmqRetire hall slot mismatch => Sys2Proof.Machine.execMmqRetire hall slot mismatch s
  | .regionRestart hall slot => Sys2Proof.Machine.execRegionRestart hall slot s
  | .commitTimeout hall slot lane => Sys2Proof.Machine.execCommitTimeout hall slot lane s
  | .relabel ctx arena keys => Sys2Proof.Machine.execRelabel ctx arena keys s
  | .staleTaskRestart ctx seq => Sys2Proof.Machine.execStaleTaskRestart ctx seq s
  | .propagationComplete ctx arena => Sys2Proof.Machine.execPropagationComplete ctx arena s
  | .partialValueReceive ctx set cid chunk tsid child data flags head => Sys2Proof.Machine.execPartialValueReceive ctx set cid chunk tsid child data flags head s
  | .chunkAck ctx set cid chunk tsid rank => Sys2Proof.Machine.execChunkAck ctx set cid chunk tsid rank s
  | .collectiveComplete ctx set cid => Sys2Proof.Machine.execCollectiveComplete ctx set cid s
  | .collectiveFail ctx set cid cause => Sys2Proof.Machine.execCollectiveFail ctx set cid cause s
  | .linkDownDeclare pkg port => Sys2Proof.Machine.execLinkDownDeclare pkg port s
  | .linkTableUpdate entry => Sys2Proof.Machine.execLinkTableUpdate entry s
  | .treeSetRecompute trees => Sys2Proof.Machine.execTreeSetRecompute trees s
  | .lockstepIntervalCompare ctx digest => Sys2Proof.Machine.execLockstepIntervalCompare ctx digest s
  | .lockstepDecisionApply d => Sys2Proof.Machine.execLockstepDecisionApply d s
  | .errorCorrected unit kind => Sys2Proof.Machine.execErrorCorrected unit kind s
  | .scoreDecay => Sys2Proof.Machine.execScoreDecay s
  | .unitTestComplete unit pass => Sys2Proof.Machine.execUnitTestComplete unit pass s
  | .uncorrectableError place => Sys2Proof.Machine.execUncorrectableError place s
  | .gangKill ctx seq gang => Sys2Proof.Machine.execGangKill ctx seq gang s
  | .lockstepDivergeClear v => Sys2Proof.Machine.execLockstepDivergeClear v s
  | .debugRightWrite ctx sup v => Sys2Proof.Machine.execDebugRightWrite ctx sup v s
  | .haltGroup ctx v => Sys2Proof.Machine.execHaltGroup ctx v s
  | .resumeGroup ctx v => Sys2Proof.Machine.execResumeGroup ctx v s
  | .stepGroup ctx v => Sys2Proof.Machine.execStepGroup ctx v s
  | .haltContext ctx v => Sys2Proof.Machine.execHaltContext ctx v s
  | .resumeContext ctx v => Sys2Proof.Machine.execResumeContext ctx v s
  | .traceGroupOn ctx v => Sys2Proof.Machine.execTraceGroupOn ctx v s
  | .traceGroupOff ctx v => Sys2Proof.Machine.execTraceGroupOff ctx v s
  | .selectGroup ctx v => Sys2Proof.Machine.execSelectGroup ctx v s
  | .traceAllOn ctx v => Sys2Proof.Machine.execTraceAllOn ctx v s
  | .traceAllOff ctx v => Sys2Proof.Machine.execTraceAllOff ctx v s
  | .dump ctx v => Sys2Proof.Machine.execDump ctx v s
  | .coreDump ctx => Sys2Proof.Machine.execCoreDump ctx s
  | .groupViewEdit ctx e => Sys2Proof.Machine.execGroupViewEdit ctx e s
  | .smpcfgWrite ctx v => Sys2Proof.Machine.execSmpcfgWrite ctx v s
  | .sampleFire hall ctx => Sys2Proof.Machine.execSampleFire hall ctx s
  | .rpctlWrite ctx v => Sys2Proof.Machine.execRpctlWrite ctx v s
  | .replayRelease hall slot => Sys2Proof.Machine.execReplayRelease hall slot s
  | .unlistedI3cCommand code => Sys2Proof.Machine.execUnlistedI3cCommand code s
  | .setPowerStateOtherByte b => Sys2Proof.Machine.execSetPowerStateOtherByte b s
  | .linkUp entry => Sys2Proof.Machine.execLinkUp entry s
  | .lockstepBridgeTrained => Sys2Proof.Machine.execLockstepBridgeTrained s
  | .lockstepBridgeLost => Sys2Proof.Machine.execLockstepBridgeLost s
  | .contextDestroy ctx => Sys2Proof.Machine.execContextDestroy ctx s
  | .hostAccess ctx va write len data => Sys2Proof.Machine.execHostAccess ctx va write len data s
  | .tagVerdict line => Sys2Proof.Machine.execTagVerdict line s
  | .collAccept hall slot => Sys2Proof.Machine.execCollAccept hall slot s
  | .cstatAnswer hall slot n => Sys2Proof.Machine.execCstatAnswer hall slot n s
  | .propAnswer hall slot => Sys2Proof.Machine.execPropAnswer hall slot s
  | .commitOutcome hall slot k => Sys2Proof.Machine.execCommitOutcome hall slot k s
  | .stashCommandDone hall n => Sys2Proof.Machine.execStashCommandDone hall n s
  | .sliceRehomingDone unit => Sys2Proof.Machine.execSliceRehomingDone unit s
  | .chunkBroadcastReceive ctx set cid chunk tsid data flags => Sys2Proof.Machine.execChunkBroadcastReceive ctx set cid chunk tsid data flags s

end Sys2Proof.Machine
end

