-- ==== Sys2Proof/Machine/Schedule.lean ====
section
/-! DEFINITION. One chain at the issue port (R88, R104, R315), words that wait (R108), the choice of a group (R120, R121), and the
passing of a cycle with its stall counters (R122). -/

namespace Sys2Proof.Machine

/-! ## The words of a chain -/

/-- What a word did. -/
def outStatus (o : Out) : Option Status :=
  match o with
  | .next t => some t.cur.status
  | _ => none

/-- A word of the chain in issue runs. -/
def State.runWord (s : State) (w : Word × Instr) (follow : Bool) : Out :=
  exec w.2 { s with cur := { s.cur with wordPc := w.1, follow := follow, status := .done } }

/-- The word writes FPMODE (R182, R195). -/
def writesMode (i : Instr) : Bool :=
  match i with
  | .cbsel _ => true
  | .wrs _ n => n.toNat == 0x019
  | _ => false

/-- Words one after another on the same active mask, each reading what stood at the issue (R88, R90), the codebook selection
`cbs` of the issue too (R195). -/
def runAll (cbs : BitVec 3) (ws : List (Word × Instr)) (follow : Bool) (s : State) : Out :=
  match ws with
  | [] => .next s
  | w :: r =>
    match State.runWord (State.updG s (fun g => { g with cbs := cbs })) w follow with
    | .next t =>
      runAll cbs r true (if writesMode w.2 then t else State.updG t (fun g => { g with cbs := s.g.cbs }))
    | o => o

/-- The status is a park. -/
def Status.isParked : Status → Bool
  | .parked _ => true
  | _ => false

/-- The status is a stall. -/
def Status.isStalled : Status → Bool
  | .stalled _ => true
  | _ => false

/-- A word that can still trap once it has waited: the chain's other words take effect with it (R104, R156, R252). -/
def trapsLate (i : Instr) : Bool :=
  match i with
  | .spawn _ _ _ => true
  | .spawnw _ _ _ => true
  | .rngw _ _ => true
  | _ => false

/-- The wait of the first word that parks is given the chain's other words, with the registers they read at the issue. -/
def Group.addToWait (g : Group) (before : Group) (plain rest : List (Word × Instr)) (goto : List Word) : Group :=
  { g with wait := g.wait.map (fun x =>
      { x with plain := plain, rest := rest, goto := goto,
               srcs := x.srcs ++ (plain ++ rest).flatMap (fun w => Group.snapshot before w.2) }) }

/-- The words that park run last: the first of them waits, the others and the lanes' way on wait with it (R108); where it can
still trap, every other word waits with it (R104). -/
def runParking (s0 : State) (plain parking : List (Word × Instr)) : Out :=
  match parking with
  | [] => runAll s0.g.cbs plain false s0
  | w :: rest =>
    if trapsLate w.2 then
      match State.runWord s0 w false with
      | .next u => .next (State.updG u (fun g => Group.addToWait g s0.g plain rest []))
      | o => o
    else
      match runAll s0.g.cbs plain false s0 with
      | .next t =>
        let goto := if plain.any (fun p => decide (p.1.toNat > w.1.toNat)) then t.g.lanes.map (fun l => l.lpc) else []
        match State.runWord t w (!plain.isEmpty) with
        | .next u => .next (State.updG u (fun g => Group.addToWait g s0.g [] rest goto))
        | o => o
      | o => o

/-- The reason an attempt waits for, by its place in R122: 0 when it does not wait. -/
def stallRank (o : Out) : Nat :=
  match outStatus o with
  | some (.stalled r) => Reason.rank r
  | _ => 0

/-- Of the attempts that wait, the one whose reason comes first in R122. -/
def firstStall (tries : List ((Word × Instr) × Out)) : Option ((Word × Instr) × Out) :=
  (tries.filter (fun t => stallRank t.2 != 0)).foldl (fun (r : Option ((Word × Instr) × Out)) t =>
    match r with
    | none => some t
    | some u => if stallRank t.2 < stallRank u.2 then some t else some u) none

/-- The attempt delivers a deferred error or a deferred SHADOW of the group (R231, R244). -/
def delivers (s : State) (t : (Word × Instr) × Out) : Bool :=
  match outStatus t.2, t.2 with
  | some (.trapped _), .next u =>
    decide (u.g.deferred.length < s.g.deferred.length) &&
    (match t.1.2 with | .waitc _ _ => true | i => pipeOf (Instr.major i) == .mma)
  | _, _ => false

/-- A chain of words that passed its checks: each is tried on the state at the issue; a word that waits before it issues holds
the chain; then a deferred delivery, then the first that traps is the chain's trap (R104, R105, R315); else all take effect
(R88). -/
def runChain (ws : List (Word × Instr)) (s : State) : Out :=
  match ws with
  | [w] => State.runWord s w false
  | _ =>
    let tries := ws.map (fun w => (w, State.runWord s w false))
    match firstStall tries with
    | some t => t.2
    | none =>
      match tries.find? (delivers s) with
      | some t => t.2
      | none =>
        match tries.find? (fun t => match outStatus t.2 with
            | some (.trapped c) => !(c == .trapi || (c == .brk))
            | some .restarted => true
            | some .killed => true
            | _ => false) with
        | some t => t.2
        | none =>
          let parks := fun (t : (Word × Instr) × Out) => match outStatus t.2 with | some st => Status.isParked st | none => false
          let after := fun (t : (Word × Instr) × Out) => match outStatus t.2 with | some (.trapped _) => true | _ => false
          let ps := tries.filter parks
          if ps.isEmpty then runAll s.g.cbs ws false s
          else
            let late := fun (t : (Word × Instr) × Out) => trapsLate t.1.2
            runParking s ((tries.filter (fun t => !parks t && !after t)).map (fun t => t.1))
              ((ps.filter late ++ ps.filter (fun t => !late t) ++ tries.filter after).map (fun t => t.1))

/-! ## An attempt to issue -/

/-- What a group can do in this cycle. -/
inductive Attempt where
  /-- it is not there to issue: not started, exited, or in its issue cycles -/
  | idle
  /-- it waits, for a reason of R122; `want` ends the wait -/
  | blocked (r : Reason) (want : List Instr)
  /-- it can go on, to this outcome -/
  | go (o : Out)
  deriving Inhabited

/-- A comparator matches the chain that is about to issue (R365). -/
def State.breakAt (s : State) (g : Group) (a : Word) : Option Nat :=
  match s.ctx? g.ctx with
  | none => none
  | some x =>
    if !x.dbg.right || g.skipBreak then none
    else (x.dbg.bps.find? (fun p => p.2.en && p.2.hsp == g.trapMode && p.2.offset == a &&
      (p.2.lrec == 0 || p.2.lrec == g.lrec))).map (fun p => p.1)

/-- What keeps a group from issuing before its next chain is looked at (R122). -/
def State.blockedBy (s : State) (g : Group) : Option Reason :=
  let lock := match s.ctx? g.ctx with | some x => State.lockStopped s x | none => false
  let stop := match State.gang? s g.ctx g.seq (Group.gang g) with | some y => y.stopping | none => false
  if (g.halted && !g.stepping) || g.draining || g.replayHold || lock || stop then some .halt
  else match g.pending with
    | some _ => some .halt
    | none =>
      match g.wait with
      | some w => some w.reason
      | none => if Group.storing g then some .cntwait else none

/-- The issue cycles and the bookkeeping of an issued chain (R89, R93, R120, R122, R362, R369, R370). Its stall count does not
apply when it traps or faults, nor across a TRET or TABN: `mode` is the trap mode it issued in (R89). -/
def State.issued (s : State) (hall slot figure stall : Nat) (yield mode : Bool) : State :=
  let t := s.clk + figure
  let ran := (s.cur.status == .done || Status.isParked s.cur.status) &&
    (match State.groupAt? s hall slot with | some g => g.trapMode == mode && g.pending.isNone | none => false)
  let s := State.updHall s hall (fun h =>
    { h with ports := h.ports.set (slot / 8) t, refusals := h.refusals.set (slot / 8) 0 })
  let s := State.updGroup s hall slot (fun g =>
    { g with lastPc := s.cur.chainPc, busyUntil := t, readyAt := if ran then t + stall else t, lastIssue := some s.clk, eligibleSince := none,
             chains := g.chains + 1, extra := g.extra + (figure - 4), lc := g.lc + 1, sinceSync := g.sinceSync + 1,
             skipBreak := false })
  if yield then
    { State.updGroup s hall slot (fun g => { g with age := s.ageNext }) with ageNext := s.ageNext + 1 }
  else s

/-- After the chain: WATCH, then STEP, then what the debugger holds (R314, R315, R365). -/
def State.afterChain (s : State) (before : Group) : State :=
  if !Group.at_ s.g before.hall before.slot then s
  else if s.g.stepping then State.haltHere s (match s.cur.status with | .trapped c => Cause.code c | _ => 0x0F)
  else s

/-- A watched access was made: the group halts at its chain boundary, or traps WATCH where no debugger holds the right. -/
def State.watchStop (s : State) : Option State :=
  match s.g.watchHit with
  | none => none
  | some a =>
    let s := State.updG s (fun g => { g with watchHit := none })
    if State.debugRight s then some (State.haltHere s 0x0E)
    else
      let pc := (Group.issueAddr s.g).getD 0
      let m := Group.activeMask s.g
      some (State.takeTrap { s with cur := { s.cur with mask := m, chainPc := pc, wordPc := pc } } .watch m a pc)

/-- The issue figure of a chain: while THERMAL is set, 8 for one with an MQ word (R20, R89, R237). -/
def State.figure (s : State) (c : Chain) : Nat :=
  if s.pkg.thermal && c.words.any (fun w => wordPipe w.2 == .mma) then max 8 (Chain.figure c) else Chain.figure c

/-- Of the words of a chain that name no pending register, the first stall by R122: it comes before REGDEP where its reason does. -/
def State.waitOf (s : State) (is : List (Word × Instr)) : Attempt :=
  let tries := (is.filter (fun p => !State.regWait s p.2)).map (fun w => (w, State.runWord s w false))
  match firstStall tries with
  | some (_, .next t) =>
    match t.cur.status with
    | .stalled r => if Reason.rank r < Reason.rank .regdep then .blocked r (t.events.drop s.events.length) else .blocked .regdep []
    | _ => .blocked .regdep []
  | _ => .blocked .regdep []

/-- The group at the issue port tries to issue its next chain. A COLL that has ended its region and then stalls has gone on, and
does not issue (R307). -/
def State.attempt (s : State) : Attempt :=
  let g := s.g
  match Group.issueAddr g with
  | none => .idle
  | some a =>
    let m := Group.activeMask g
    let s0 := { s with cur := { mask := m, chainPc := a, wordPc := a, status := .done, fresh := false, follow := false, srcs := [] } }
    match State.breakAt s g a with
    | some _ => .go (.next (State.haltHere s0 0x0D))
    | none =>
      if State.replayWaits s g then .go (.next (State.updG s (fun g => { g with replayHold := true })))
      else match State.fetch s0 g a with
        | .wait => .blocked .ifetch []
        | .trap c p =>
          let pc := packetBase a
          .go (.next (State.afterChain (State.issued (State.takeTrap s0 c m p pc) g.hall g.slot 4 0 false g.trapMode) g))
        | .packet ws s1 =>
          let c := readChain ws a
          let is := (Chain.instrs c).getD []
          if is.any (fun p => State.regWait s1 p.2) then State.waitOf s1 is
          else
            let s1 := State.traceSync s1
            match State.chainCheck s1 c with
            | some k =>
              .go (.next (State.afterChain
                (State.issued (State.takeTrap s1 k m 0 a) g.hall g.slot (State.figure s1 c) 0 c.yield g.trapMode) g))
            | none =>
              match runChain is s1 with
              | .next t =>
                match t.cur.status with
                | .stalled r => if t.g == s1.g then .blocked r (t.events.drop s1.events.length) else .go (.next t)
                | st =>
                  let t := match is.getLast? with
                    | some (pc, i) =>
                      if (st == .done || Status.isParked st) && i != .rcmt && Group.at_ t.g g.hall g.slot then
                        State.traceBranch t g m pc i
                      else t
                    | none => t
                  .go (.next (State.afterChain (State.issued t g.hall g.slot (State.figure s1 c) c.stall c.yield g.trapMode) g))
              | o => .go o

/-! ## Words that wait -/

/-- The lanes of a finished wait go where the chain sends them. -/
def Group.goWhere (g : Group) (m : Mask) (goto : List Word) : Group :=
  if goto.isEmpty then g
  else Group.mapLanes g m (fun l x => if x.mode == .live then { x with lpc := goto.getD l x.lpc } else x)

/-- Words that waited with another, one after another as long as each takes effect, on what they read at the issue (R90, R104). -/
def runEach (cbs : BitVec 3) (ws : List (Word × Instr)) (s : State) : Out :=
  match ws with
  | [] => .next s
  | w :: r =>
    match runAll cbs [w] true s with
    | .next t => if t.cur.status == .done then runEach cbs r t else .next t
    | o => o

/-- The chain's words that come after one that waited: one that waits in its turn takes the others along; where one cannot issue
yet, nothing has happened and the wait goes on from `s0` (R108). -/
def runRest (s0 : State) (w : WaitRec) (ws : List (Word × Instr)) (t : State) : Out :=
  match ws with
  | [] => .next (State.settleStart (State.updG t (fun g => Group.goWhere g w.mask w.goto)))
  | r :: rs =>
    match State.runWord t r true with
    | .next u =>
      match u.cur.status with
      | .done => runRest s0 w rs u
      | .stalled k => .next (State.note s0 (.stalled k))
      | .parked _ => .next (State.settleStart (State.updG u (fun g =>
          { g with wait := g.wait.map (fun x => { x with rest := rs, goto := w.goto }) })))
      | _ => .next u
    | o => o

/-- The parked word of the group at the issue port is tested again; if it completes, the chain's words that waited with it take
effect too (R108, R327). None: it waits on. -/
def State.retest (s : State) : Option Out :=
  match s.g.wait with
  | none => none
  | some w =>
    let s0 := { s with cur := { mask := w.mask, chainPc := w.chainPc, wordPc := w.wordPc, status := .done, fresh := false,
                                follow := true, srcs := w.srcs } }
    let tried : Out := if w.sat then .next s0 else State.runWord s0 (w.wordPc, w.instr) true
    let o : Out := match tried with
      | .next t =>
        if t.cur.status != .done then .next t
        else match runEach s0.g.cbs w.plain s0 with
          | .next t0 =>
            if t0.cur.status != .done then .next t0
            else
              let t1 := { t0 with cur := s0.cur }
              match (if w.sat then .next (State.advance (State.unpark t1)) else State.runWord t1 (w.wordPc, w.instr) true) with
              | .next u => if u.cur.status == .done then runRest s0 w w.rest u else .next u
              | o => o
          | o => o
      | o => o
    match o with
    | .next t =>
      if (Status.isParked t.cur.status || Status.isStalled t.cur.status) && t.g == s.g && t.events == s.events then none
      else some (.next t)
    | o => some o

/-- The waits whose events are taken for a group that is being saved (R327). -/
def WaitRec.latched (w : WaitRec) : Bool :=
  match w.instr with
  | .spawnw _ _ _ => w.phase == 2
  | .regclm _ => true
  | .waitc _ _ => true
  | .depadd _ _ _ _ _ => true
  | .rngw _ _ => true
  | .phwait _ _ => true
  | .phnext _ _ => true
  | _ => false

/-- A group that waits, is watched or owes a halt goes on before any group issues. -/
def State.serve (s : State) (g : Group) : Option Out :=
  let p := State.toPort s g.hall g.slot
  let owed := match g.haltOwed with | some k => if g.pending.isNone then some (State.haltHere p k) else none | none => none
  if !p.g.started then none
  else match owed with
    | some t => some (.next t)
    | none =>
      match (if g.halted then none else State.watchStop p) with
      | some t => some (.next t)
      | none =>
        match g.wait with
        | some w => if g.pending.isNone && (!g.draining || WaitRec.latched w) then State.retest p else none
        | none => none

/-! ## The choice of a group -/

/-- What a group can do in this cycle, apart from its flight's port. -/
def State.tryGroup (s : State) (g : Group) : Attempt :=
  if !g.started || g.hasExited || decide (s.clk < g.busyUntil) then .idle
  else match State.blockedBy s g with
    | some r => .blocked r []
    | none =>
      match State.attempt (State.toPort s g.hall g.slot) with
      | .go o => if s.clk < g.readyAt then .blocked .stallcnt [] else .go o
      | .blocked r w =>
        if s.clk < g.readyAt ∧ (r = .mmbusy ∨ r = .pipebusy) then .blocked .stallcnt [] else .blocked r w
      | .idle => .idle

/-- Group x owes group y (R120). -/
def owes (x y : Group) : Bool :=
  match x.lastIssue, y.eligibleSince with
  | some t, some e => decide (e ≤ t) && (match y.lastIssue with | some u => decide (u < t) | none => true)
  | _, _ => false

/-- The same flight of the same hall. -/
def sameFlight (x y : Group) : Bool := x.hall == y.hall && x.slot / 8 == y.slot / 8

/-- The flight's issue port is free (R120). -/
def State.portFree (s : State) (g : Group) : Bool := decide ((State.hall s g.hall).ports.getD (g.slot / 8) 0 ≤ s.clk)

/-- Of each flight the oldest group that can go on and owes none of them (R120, R121). -/
def choices (able : List (Group × Out)) : List (Group × Out) :=
  able.filter (fun x =>
    !able.any (fun y => sameFlight x.1 y.1 && owes x.1 y.1) &&
    able.all (fun y => !sameFlight x.1 y.1 || decide (x.1.age ≤ y.1.age) ||
      able.any (fun z => sameFlight y.1 z.1 && owes y.1 z.1)))

/-- A chain reserves arrays of its hall. -/
def State.reserves (s : State) (x : Group × Out) : Bool :=
  match x.2 with
  | .next t => decide ((State.hall t x.1.hall).arrays.length > (State.hall s x.1.hall).arrays.length)
  | _ => false

/-- The hall grants y's flight before x's: refused in more cycles, or the lower flight (R237). -/
def State.grantsBefore (s : State) (y x : Group) : Bool :=
  let n := fun (g : Group) => (State.hall s g.hall).refusals.getD (g.slot / 8) 0
  y.hall == x.hall && (decide (n y > n x) || (n y == n x && decide (y.slot / 8 < x.slot / 8)))

/-- The chain that starts next among the flights' choices: reservations are granted in the order of R237. -/
def State.choose (s : State) (cs : List (Group × Out)) : Option (Group × Out) :=
  cs.find? (fun x => !(State.reserves s x && cs.any (fun y => State.reserves s y && State.grantsBefore s y.1 x.1)))

/-- After a grant, the other flights' choices whose arrays are no longer free are refused: their flights start no chain in this
cycle (R237). -/
def State.refuse (s t : State) (x : Group × Out) (cs : List (Group × Out)) : State :=
  if !State.reserves s x then t
  else (cs.filter (fun y => y.1.hall == x.1.hall && y.1.slot / 8 != x.1.slot / 8 && State.reserves s y)).foldl (fun t y =>
    match State.tryGroup t y.1 with
    | .go _ => t
    | _ => State.updHall t y.1.hall (fun h =>
        { h with refusals := h.refusals.set (y.1.slot / 8) (h.refusals.getD (y.1.slot / 8) 0 + 1),
                 ports := h.ports.set (y.1.slot / 8) (t.clk + 1) })) t

/-- The groups that can start a chain now. -/
def State.able (s : State) : List (Group × Out) :=
  (State.allGroups s).filterMap (fun g =>
    if State.portFree s g then
      match State.tryGroup s g with
      | .go o => some (g, o)
      | _ => none
    else none)

/-! ## A cycle passes -/

/-- A saturating count of a stall bank. -/
def Group.countStall (g : Group) (r : Reason) : Group :=
  { g with stalls := g.stalls.set (Reason.code r) (satInc (g.stalls.getD (Reason.code r) 0)) }

/-- At the end of a cycle it is known which stall reason the group counts in it, none in an issue cycle, and since when the group
is eligible (R120, R122). -/
def State.closeGroup (s : State) (g : Group) : Group :=
  let a := State.tryGroup s g
  let counts := g.started && !g.hasExited && decide (g.busyUntil ≤ s.clk) &&
    (match State.gang? s g.ctx g.seq (Group.gang g) with | some y => decide (y.boundAt < s.clk) | none => true)
  let r : Option Reason := match a with
    | .idle => if g.exiting then some .cntwait else none
    | .blocked r _ => some r
    | .go _ => some .notsel
  let since : Option Nat := match a with
    | .go _ => some (g.eligibleSince.getD s.clk)
    | _ => none
  { g with counting := if counts then r else none, eligibleSince := since }

/-- What one group carries over into the next cycle. -/
def State.tickGroup (s : State) (g : Group) : Group :=
  let g := match g.counting with | some r => Group.countStall g r | none => g
  Group.settleTrap (Group.landDue { g with counting := none } (s.clk + 1))

/-- The round that a TKT took has its value, or the TKT brings it (R63). -/
def State.ticketReady (s : State) (g : Group) (o : Outst) : Bool :=
  match o.op with
  | .tkt n opener _ _ =>
    opener || (match State.gang? s g.ctx g.seq (Group.gang g) with
      | some y => y.rounds.any (fun (r : Round) => r.n == n && r.value.isSome)
      | none => false)
  | _ => true

/-- The completion of a group's nth outstanding operation, all of it that can be performed. -/
def OutOp.completion (op : OutOp) (hall slot n : Nat) : Instr :=
  match op with
  | .load _ _ _ _ _ _ => .loadReturn hall slot n 0
  | .ldcb _ => .loadReturn hall slot n 0
  | .mmld _ => .loadReturn hall slot n 0
  | .store _ => .storePerformed hall slot n 0
  | .atomic _ _ _ _ _ => .atomicPerformed hall slot n 0
  | .tkt _ _ _ _ => .atomicPerformed hall slot n 0
  | .depadd _ => .atomicPerformed hall slot n 0
  | .cstat _ _ _ _ => .cstatAnswer hall slot n
  | .prop _ => .propAnswer hall slot
  | .coll _ _ _ _ => .collAccept hall slot

/-- The first of a group's outstanding operations that can be performed now (R84, R261, R341). -/
def State.nextOp (s : State) (g : Group) : List Instr :=
  match (List.range g.outst.length).findSome? (fun n =>
      match g.outst[n]? with
      | some o =>
        let some_ := !(State.nextUnits s g n 0).isEmpty || (o.parts.isEmpty && Group.mayPerform g n && !State.heldByMigration s g o)
        if o.sent.isNone && some_ && State.ticketReady s g o then some (n, o) else none
      | none => none) with
  | some (n, o) => [OutOp.completion o.op g.hall g.slot n]
  | none => []

/-- What a group's commit does next: its first lane that is not done aborts when it has waited 2,048 cycles, else goes on (R292). -/
def commitStep (g : Group) (w : WaitRec) : List Instr :=
  match (Mask.lanes w.mask).find? (fun l => (Group.lane g l).region.isOpen) with
  | some l =>
    let r := (Group.lane g l).region
    (if decide (r.lockWait ≥ 2048) && !r.writing then [.commitTimeout g.hall g.slot l] else []) ++ [.commitOutcome g.hall g.slot 0]
  | none => [.commitOutcome g.hall g.slot 0]

/-- The completions of a group that are due: an outstanding operation, the quarter operations whose cycle has come, a restart,
a commit's outcome. -/
def State.completions (s : State) (g : Group) : List Instr :=
  State.nextOp s g ++
  ((g.mma.filter (fun o => decide (o.due < s.clk))).map (fun _ => .mmqRetire g.hall g.slot false)) ++
  (if Group.mayRestart g then [.regionRestart g.hall g.slot] else []) ++
  (match g.wait with
    | some w => (match w.instr with | .rcmt => commitStep g w | _ => [])
    | none => [])

/-- The completion of a hall's copy engine: the first command that it runs and that no earlier one of its group precedes. -/
def State.copyCompletion (s : State) (h : Nat) (cmds : List Cmd) : List Instr :=
  match (List.range cmds.length).findSome? (fun n =>
      match cmds[n]? with
      | some c =>
        if (State.running? s h n).isSome && (cmds.take n).all (fun y => y.slot != c.slot) then some (n, c) else none
      | none => none) with
  | none => []
  | some (n, c) => match c.kind with
    | .gather _ _ _ m _ => if c.rows < m then [.cpygRowGather h n] else [.copyCommandRetire h n 0 0]
    | _ => [.copyCommandRetire h n 0 0]

/-- The completion of a hall's stash commands: the first whose context's engines run. -/
def State.stashCompletion (s : State) (h : Nat) : List Instr :=
  let cs := (s.blocks.filter (fun b => b.hall == h)).flatMap (fun b => b.stashCmds.map (fun _ => b.ctx))
  match cs.findIdx? (fun c => !State.enginesStopped s c) with
  | some n => [.stashCommandDone h n]
  | none => []

/-- The completions of a context's publications: each passes its instant, then retires (R214). -/
def Ctx.completions (c : Nat) (x : Ctx) : List Instr :=
  (x.pubs.map (fun p => if p.passed then Instr.pubRetire c p.entry else .pubInstant c p.entry)).eraseDups

/-- The collectives that are over at this package (R303, R307). -/
def State.collCompletions (s : State) : List Instr :=
  (s.pkg.collectives.filter (fun x => x.st == 0)).filterMap (fun x =>
    if Collective.ready x then some (.collectiveComplete x.ctx x.set x.cid)
    else if State.partitioned s x then some (.collectiveFail x.ctx x.set x.cid 1)
    else none)

/-- What a propagation does next (R352, R353). -/
def State.traceCompletions (s : State) (c : Nat) (x : Ctx) : List Instr :=
  x.traces.flatMap (fun t =>
    if State.propDone s c t then [.propagationComplete c t.arena]
    else (t.tasks.filter (State.mayRerun s c t)).map (fun y => .staleTaskRestart c y.seq))

/-- What happens by itself after a cycle: completions, retirements, and the periodic acts of the newel (R62, R335). -/
def State.agenda (s : State) : List Instr :=
  (State.allGroups s).flatMap (State.completions s) ++
  s.halls.flatMap (fun h => State.copyCompletion s h.1 h.2.cmds ++ State.stashCompletion s h.1) ++
  s.ctxs.flatMap (fun c => Ctx.completions c.1 c.2 ++ State.traceCompletions s c.1 c.2) ++
  State.collCompletions s ++
  (s.blocks.filter (State.retiring s)).map (fun b => .blockRetire b.ctx b.seq b.blk) ++
  (s.tasks.filter (fun t => Task.complete t && !State.retireWaits s t)).map (fun t => .taskRetire t.ctx t.seq) ++
  ((State.allGroups s).filter (fun g => g.replayHold)).map (fun g => .replayRelease g.hall g.slot) ++
  (if s.clk % Config.decayPeriod = 0 ∧ s.clk ≠ 0 then [.scoreDecay] else []) ++
  (if s.clk % Config.deadlockPeriod = 0 ∧ s.clk ≠ 0 then s.queues.map (fun q => .queueDeadlockSample q.1) else [])

/-- The samples that are due in a cycle (R366). -/
def State.firings (s : State) : List Instr :=
  s.ctxs.flatMap (fun c => if State.sampleDue s c.2.dbg then s.halls.map (fun h => .sampleFire h.1 c.1) else [])

/-- Nothing issues in the cycle any more: what its groups count is settled, and its samples are taken. -/
def State.close (s : State) : State :=
  let g := if s.g.valid then State.closeGroup s s.g else s.g
  { s with g := g, groups := s.groups.map (State.closeGroup s), closed := true, events := State.firings s }

/-- The clock advances: the groups count and land, commands and collectives begin, the stores' freed entries are granted (R58, R90,
R122, R152). -/
def State.pass (s : State) : State :=
  let g := if s.g.valid then State.tickGroup s s.g else s.g
  let gs := s.groups.map (State.tickGroup s)
  let hall := fun (h : Nat × Hall) => (h.1, { h.2 with arrays := h.2.arrays.filter (fun x => decide (x.1 ≥ s.clk + 1)) })
  let seen := fun (c : Nat × Ctx) => (c.1, { c.2 with dbg := { c.2.dbg with smpSeen := c.2.dbg.smpTail } })
  State.settleStores (State.runCollectives (State.startCmds
    { s with g := g, groups := gs, clk := s.clk + 1, closed := false, halls := s.halls.map hall, ctxs := s.ctxs.map seen }))

/-- What the groups' stalled words wait for that another agent does. -/
def State.wanted (s : State) : List Instr :=
  ((State.allGroups s).flatMap (fun g => match State.tryGroup s g with | .blocked _ w => w | _ => [])).eraseDups

/-- A cycle passes, and what is due happens next. -/
def State.tick (s : State) : State :=
  let t := State.pass s
  State.releaseIf { t with events := State.wanted s ++ State.agenda t } (State.hostGoes t)

/-- One step of the machine. -/
def State.next (s : State) : Out :=
  match s.events with
  | e :: r => exec e { s with events := r }
  | [] =>
    if s.closed then .next (State.tick s)
    else match (State.allGroups s).findSome? (State.serve s) with
      | some o => o
      | none =>
        let cs := choices (State.able s)
        match State.choose s cs with
        | some (g, .next t) => .next (State.refuse s t (g, .next t) cs)
        | some (_, o) => o
        | none =>
          let t := State.close s
          .next (if t.events.isEmpty then State.tick t else t)

end Sys2Proof.Machine
end

