-- ==== Sys2Proof/Machine/Step.lean ====
section
/-! DEFINITION. One step of the machine, and the placing of an instruction where the next step fetches it. -/

namespace Sys2Proof.Machine

/-- One step: the next act of another agent that is due, else a waiting group that can go on, else the chain of the group
chosen to issue, else the passing of a cycle. -/
def step (s : State) : Host.Outcome State Fault Refusal := State.next s

/-- The physical address of the page table's root that `withFetchWord` lays out, and of the tables below it. -/
def placedRoot : Nat := 0x20000

/-- The physical address of the page that holds the placed packet; it is mapped at virtual address 0. -/
def placedCode : Nat := 0x30000

/-- The table that maps virtual address 0 (R73, R74): three table entries, then a 64 KiB leaf with V, R, X and A. -/
def placedTable : List (Nat × Nat) :=
  [(placedRoot, 0x24001), (0x24000, 0x26001), (0x26000, 0x28001), (0x28000, placedCode + 0x200B)]

/-- A context with that root. -/
def placedCtx : Ctx :=
  { root := placedRoot, tbase := 0, checking := false, bounded := false, lockMask := 0, pubTable := 0, quotas := [],
    sets := [], setCounts := [], nextSeq := 2, pubs := [], traces := [], dbg := Debug.zero, shoot := [],
    lockHalted := false }

/-- A launch of one group whose text is at virtual address 0, with 128 registers, 16 accumulator tiles and 8 codebooks. -/
def placedLaunch : LaunchRec :=
  { LaunchRec.zero with
    regs := 16, scratch := 1024, cb := 8, acc := 16, nlev := 2, levels := [0x0000001000000001#64, 0x0000002000000001#64] }

/-- A group of that launch in hall 0, slot 0, at offset 0 (R68). -/
def placedGroup : Group :=
  { Group.empty with
    valid := true, seq := 1, lr := placedLaunch, regn := 16, blockMap := List.range 16, accN := 16, started := true,
    tiles := List.replicate 16 Tile.zero }

/-- The machine with an instruction placed where its next step fetches: what the driver, a post, the newel's bind and the loading
of code would have left of it. The bits of the instruction above `nbits` are 0, the other words of its packet are NOPs, and
its control word is 0. -/
def State.withFetchWord (s : State) (nbits w : Nat) : State :=
  { s with
    g := placedGroup, groups := [], events := [], ctxs := insert s.ctxs 0 placedCtx,
    halls := insert s.halls 0 Hall.empty,
    mem := Memory.writeN (placedTable.foldl (fun m e => Memory.writeN m e.1 (leBytes 8 e.2)) s.mem) placedCode
      (leBytes 16 (w % 2 ^ nbits)) }

end Sys2Proof.Machine
end

