-- ==== Sys2Proof/Laws/Memory.lean ====
section
/-! SUPPORT. Laws of memory: the canonical form is kept by every write, and a read after a write. -/

namespace Sys2Proof.Machine

/-- The first address of a memory, if it lists any, is above a bound. -/
theorem Memory.wf_cons {a : Nat} {b : Byte} {m : Memory} (h : Memory.wf ((a, b) :: m) = true) :
    b ≠ 0 ∧ Memory.wf m = true ∧ ∀ p ∈ m.head?, a < p.1 := by
  cases m with
  | nil => simpa [Memory.wf] using h
  | cons p r =>
    obtain ⟨a', b'⟩ := p
    simp [Memory.wf] at h
    exact ⟨h.1.1, h.2, by simpa using h.1.2⟩

theorem Memory.wf_of_cons {a : Nat} {b : Byte} {m : Memory} (hb : b ≠ 0) (hm : Memory.wf m = true)
    (h : ∀ p ∈ m.head?, a < p.1) : Memory.wf ((a, b) :: m) = true := by
  cases m with
  | nil => simpa [Memory.wf] using hb
  | cons p r =>
    obtain ⟨a', b'⟩ := p
    simp [Memory.wf]
    exact ⟨⟨hb, by simpa using h⟩, hm⟩

/-- The head of a memory after a write is not below both the written address and the old head. -/
theorem Memory.head_write {m : Memory} {a c : Nat} {b : Byte} (h : ∀ p ∈ m.head?, c < p.1) (hm : Memory.wf m = true)
    (hc : c < a) : ∀ p ∈ (Memory.write m a b).head?, c < p.1 := by
  cases m with
  | nil =>
    unfold Memory.write
    split <;> simp
    exact hc
  | cons p r =>
    obtain ⟨a', b'⟩ := p
    have h' : c < a' := by simpa using h
    have hr := (Memory.wf_cons hm).2.2
    unfold Memory.write
    split
    · split
      · simpa using h'
      · simpa using hc
    · split
      · split
        · intro p hp; exact Nat.lt_trans h' (hr p hp)
        · simpa using hc
      · simpa using h'

/-- A write keeps the canonical form. -/
@[simp] theorem Memory.wf_write {m : Memory} (a : Nat) (b : Byte) (h : Memory.wf m = true) :
    Memory.wf (Memory.write m a b) = true := by
  induction m with
  | nil =>
    unfold Memory.write
    split
    · rfl
    · rename_i hb; simpa [Memory.wf] using hb
  | cons p r ih =>
    obtain ⟨a', b'⟩ := p
    obtain ⟨hb, hr, hh⟩ := Memory.wf_cons h
    unfold Memory.write
    split
    · split
      · exact h
      · rename_i hlt hb'; exact Memory.wf_of_cons hb' h (by simpa using hlt)
    · split
      · split
        · exact hr
        · rename_i he hb'; exact Memory.wf_of_cons hb' hr (by subst he; exact hh)
      · rename_i h1 h2
        exact Memory.wf_of_cons hb (ih hr) (Memory.head_write hh hr (by omega))

/-- A run written keeps the canonical form. -/
@[simp] theorem Memory.wf_writeN {m : Memory} (a : Nat) (bs : List Byte) (h : Memory.wf m = true) :
    Memory.wf (Memory.writeN m a bs) = true := by
  induction bs generalizing m a with
  | nil => exact h
  | cons b r ih => exact ih (a + 1) (Memory.wf_write a b h)

/-- Below the first listed address every byte reads 0. -/
theorem Memory.read_below {m : Memory} {a : Nat} (hm : Memory.wf m = true) (h : ∀ p ∈ m.head?, a < p.1) :
    Memory.read m a = 0 := by
  induction m with
  | nil => rfl
  | cons p r ih =>
    obtain ⟨a', b'⟩ := p
    have h' : a < a' := by simpa using h
    obtain ⟨_, hr, hh⟩ := Memory.wf_cons hm
    unfold Memory.read
    rw [if_neg (by omega)]
    exact ih hr (fun p hp => Nat.lt_trans h' (hh p hp))

/-- A read after a write: the byte written, and every other byte as before. -/
theorem Memory.read_write {m : Memory} (a c : Nat) (b : Byte) (h : Memory.wf m = true) :
    Memory.read (Memory.write m a b) c = if c = a then b else Memory.read m c := by
  induction m with
  | nil =>
    unfold Memory.write
    split
    · rename_i hb; subst hb; simp [Memory.read]
    · simp [Memory.read, eq_comm]
  | cons p r ih =>
    obtain ⟨a', b'⟩ := p
    obtain ⟨_, hr, hh⟩ := Memory.wf_cons h
    unfold Memory.write
    split
    · rename_i hlt
      split
      · rename_i hb; subst hb
        split
        · rename_i hc; subst hc; exact Memory.read_below h (by simpa using hlt)
        · rfl
      · conv_lhs => unfold Memory.read
        simp only [eq_comm]
    · split
      · rename_i _ he
        subst he
        split
        · rename_i hb; subst hb
          split
          · rename_i hc; subst hc; exact Memory.read_below hr hh
          · rename_i hc; conv_rhs => unfold Memory.read
            rw [if_neg (by omega)]
        · conv_lhs => unfold Memory.read
          conv_rhs => unfold Memory.read
          split
          · rename_i hc; subst hc; simp
          · rename_i hc; rw [if_neg (by omega)]
      · conv_lhs => unfold Memory.read
        conv_rhs => unfold Memory.read
        rw [ih hr]
        split
        · rename_i hc; rw [if_neg (by omega)]
        · rfl

/-- A byte outside a written run reads as before. -/
theorem Memory.read_writeN_outside {m : Memory} (a c : Nat) (bs : List Byte) (h : Memory.wf m = true)
    (hc : c < a ∨ a + bs.length ≤ c) : Memory.read (Memory.writeN m a bs) c = Memory.read m c := by
  induction bs generalizing m a with
  | nil => rfl
  | cons b r ih =>
    simp only [List.length_cons] at hc
    unfold Memory.writeN
    rw [ih (a + 1) (Memory.wf_write a b h) (by omega), Memory.read_write a c b h, if_neg (by omega)]

/-- A byte inside a written run reads as the run has it. -/
theorem Memory.read_writeN_inside {m : Memory} (a i : Nat) (bs : List Byte) (h : Memory.wf m = true)
    (hi : i < bs.length) : Memory.read (Memory.writeN m a bs) (a + i) = bs.getD i 0 := by
  induction bs generalizing m a i with
  | nil => simp at hi
  | cons b r ih =>
    unfold Memory.writeN
    cases i with
    | zero =>
      rw [Memory.read_writeN_outside (a + 1) (a + 0) r (Memory.wf_write a b h) (by omega), Memory.read_write a _ b h]
      simp
    | succ n =>
      have := ih (m := Memory.write m a b) (a + 1) n (Memory.wf_write a b h) (by simpa using hi)
      rw [show a + (n + 1) = a + 1 + n by omega, this]
      simp

/-- Writes of single bytes keep the canonical form. -/
theorem Memory.wf_foldl {α : Type} (l : List α) (f : Memory → α → Memory)
    (hf : ∀ m x, Memory.wf m = true → Memory.wf (f m x) = true) {m : Memory} (h : Memory.wf m = true) :
    Memory.wf (l.foldl f m) = true := by
  induction l generalizing m with
  | nil => exact h
  | cons x r ih => exact ih (hf m x h)

end Sys2Proof.Machine
end

