-- ==== Sys2Proof/Laws/KeepMemory.lean ====
section
/-! SUPPORT. What the shared operations do to memory: most leave it as it is, the others keep its canonical form. -/

namespace Sys2Proof.Machine



set_option Elab.async false
set_option linter.all false
set_option maxRecDepth 4000

theorem State.foldl_mem {α : Type} (l : List α) (f : State → α → State) (hf : ∀ s a, (f s a).mem = s.mem) (s : State) :
    (l.foldl f s).mem = s.mem := by
  induction l generalizing s with
  | nil => rfl
  | cons a l ih => rw [List.foldl_cons, ih, hf]

theorem State.foldl_wf {α : Type} (l : List α) (f : State → α → State)
    (hf : ∀ s a, Memory.wf s.mem = true → Memory.wf (f s a).mem = true) (s : State) (hm : Memory.wf s.mem = true) :
    Memory.wf (l.foldl f s).mem = true := by
  induction l generalizing s with
  | nil => exact hm
  | cons a l ih => exact ih _ (hf s a hm)

theorem State.foldl_pair_wf {α β : Type} (π : β → State) (l : List α) (f : β → α → β)
    (hf : ∀ b a, Memory.wf (π b).mem = true → Memory.wf (π (f b a)).mem = true) (b : β) (hm : Memory.wf (π b).mem = true) :
    Memory.wf (π (l.foldl f b)).mem = true := by
  induction l generalizing b with
  | nil => exact hm
  | cons a l ih => exact ih _ (hf b a hm)

@[simp] theorem Memory.wf_writeLine (m : Memory) (l : StashLine) (hm : Memory.wf m = true) : Memory.wf (writeLine m l) = true := by
  unfold writeLine; split <;> simp [hm]

@[simp] theorem Memory.wf_ite (c : Prop) [Decidable c] (a b : Memory) :
    Memory.wf (if c then a else b) = if c then Memory.wf a else Memory.wf b := apply_ite _ _ _ _

theorem State.wf_if (c : Prop) [Decidable c] (a b : State) (ha : Memory.wf a.mem = true) (hb : Memory.wf b.mem = true) :
    Memory.wf (if c then a else b).mem = true := by
  split
  · exact ha
  · exact hb

@[simp] theorem State.ite_mem (c : Prop) [Decidable c] (a b : State) :
    (if c then a else b).mem = if c then a.mem else b.mem := apply_ite _ _ _ _

@[simp] theorem State.updCtx_mem (s : State) (c : Nat) (f : Ctx → Ctx) : (State.updCtx s c f).mem = s.mem := by
  unfold State.updCtx; repeat' split
  all_goals first | rfl | (simp (maxDischargeDepth := 30) +contextual [*, State.foldl_mem]; done)

@[simp] theorem State.updHall_mem (s : State) (h : Nat) (f : Hall → Hall) : (State.updHall s h f).mem = s.mem := by
  rfl

@[simp] theorem State.updQueue_mem (s : State) (q : Nat) (f : Queue → Queue) : (State.updQueue s q f).mem = s.mem := by
  rfl

@[simp] theorem State.updBlock_mem (s : State) (c : Nat) (seq : Nat) (blk : Nat) (f : Block → Block) : (State.updBlock s c seq blk f).mem = s.mem := by
  rfl

@[simp] theorem State.updTask_mem (s : State) (c : Nat) (seq : Nat) (f : Task → Task) : (State.updTask s c seq f).mem = s.mem := by
  rfl

@[simp] theorem State.updGang_mem (s : State) (c : Nat) (seq : Nat) (i : Nat) (f : Gang → Gang) : (State.updGang s c seq i f).mem = s.mem := by
  rfl

@[simp] theorem State.updG_mem (s : State) (f : Group → Group) : (State.updG s f).mem = s.mem := by
  rfl

@[simp] theorem State.mapGroups_mem (s : State) (p : Group → Bool) (f : Group → Group) : (State.mapGroups s p f).mem = s.mem := by
  rfl

@[simp] theorem State.updGroup_mem (s : State) (hall : Nat) (slot : Nat) (f : Group → Group) : (State.updGroup s hall slot f).mem = s.mem := by
  rfl

@[simp] theorem State.updMember_mem (s : State) (c : Nat) (seq : Nat) (blk : Nat) (grp : Nat) (f : Group → Group) : (State.updMember s c seq blk grp f).mem = s.mem := by
  rfl

@[simp] theorem State.toPort_mem (s : State) (hall : Nat) (slot : Nat) : (State.toPort s hall slot).mem = s.mem := by
  unfold State.toPort; repeat' split
  all_goals first | rfl | (simp (maxDischargeDepth := 30) +contextual [*, State.foldl_mem]; done)

@[simp] theorem State.updDebug_mem (s : State) (c : Nat) (f : Debug → Debug) : (State.updDebug s c f).mem = s.mem := by
  simp [State.updDebug]

@[simp] theorem State.updPkg_mem (s : State) (f : Pkg → Pkg) : (State.updPkg s f).mem = s.mem := by
  rfl

@[simp] theorem State.useFree_mem (s : State) : (State.useFree s).mem = s.mem := by
  rfl

@[simp] theorem State.flushBlock_wf (s : State) (c : Nat) (seq : Nat) (blk : Nat) (p : StashLine → Bool) (keep : Bool) (hm : Memory.wf s.mem = true) : Memory.wf (State.flushBlock s c seq blk p keep).mem = true := by
  unfold State.flushBlock
  split
  · exact hm
  · dsimp only
    split
    · exact hm
    · rw [State.updBlock_mem]
      exact Memory.wf_foldl _ _ (fun m x h => Memory.wf_writeLine m x h) hm

@[simp] theorem State.recall_wf (s : State) (except : Option (Nat × Nat × Nat)) (pa : Nat) (len : Nat) (write : Bool) (hm : Memory.wf s.mem = true) : Memory.wf (State.recall s except pa len write).mem = true := by
  unfold State.recall; simp (maxDischargeDepth := 30) +contextual [hm, State.foldl_mem, State.foldl_wf]

@[simp] theorem State.recallWalk_wf (s : State) (c : Nat) (va : Nat) (hm : Memory.wf s.mem = true) : Memory.wf (State.recallWalk s c va).mem = true := by
  unfold State.recallWalk; repeat' split
  all_goals first | exact hm | (simp (maxDischargeDepth := 30) +contextual [*, State.foldl_mem, State.foldl_wf]; done)

@[simp] theorem State.writePte_wf (s : State) (pte : Nat) (l : DWord) (hm : Memory.wf s.mem = true) : Memory.wf (State.writePte s pte l).mem = true := by
  simp [State.writePte, hm]

@[simp] theorem State.fillTlb_wf (s : State) (h : Nat) (c : Nat) (va : Nat) (hm : Memory.wf s.mem = true) : Memory.wf (State.fillTlb s h c va).mem = true := by
  unfold State.fillTlb; repeat' split
  all_goals first | exact hm | (simp (maxDischargeDepth := 30) +contextual [*, State.foldl_mem, State.foldl_wf]; done)

@[simp] theorem State.setDirty_wf (s : State) (h : Nat) (c : Nat) (va : Nat) (hm : Memory.wf s.mem = true) : Memory.wf (State.setDirty s h c va).mem = true := by
  unfold State.setDirty; repeat' split
  all_goals first | exact hm | (simp (maxDischargeDepth := 30) +contextual [*, State.foldl_mem, State.foldl_wf]; done)

@[simp] theorem State.lookUp_wf (s : State) (h : Nat) (c : Nat) (accs : List (Need × Access)) (hm : Memory.wf s.mem = true) : Memory.wf (State.lookUp s h c accs).mem = true := by
  unfold State.lookUp; simp (maxDischargeDepth := 30) +contextual [hm, State.foldl_mem, State.foldl_wf]

@[simp] theorem State.touch_wf (s : State) (h : Nat) (c : Nat) (write : Bool) (ps : List Piece) (hm : Memory.wf s.mem = true) : Memory.wf (State.touch s h c write ps).mem = true := by
  unfold State.touch; simp (maxDischargeDepth := 30) +contextual [hm, State.foldl_mem, State.foldl_wf]

@[simp] theorem State.markWritten_mem (s : State) (pa : Nat) (len : Nat) (bad : Bool) : (State.markWritten s pa len bad).mem = s.mem := by
  simp [State.markWritten]

@[simp] theorem State.cacheLine_mem (s : State) (c : Nat) (cls : Nat) (line : Nat) : (State.cacheLine s c cls line).mem = s.mem := by
  unfold State.cacheLine
  repeat' first
    | with_reducible rfl
    | dsimp only
    | split
    | (simp (maxDischargeDepth := 30) +contextual [*, State.foldl_mem]; done)

@[simp] theorem State.countPage_mem (s : State) (agent : Nat) (page : Nat) : (State.countPage s agent page).mem = s.mem := by
  rfl

@[simp] theorem State.reach_mem (s : State) (agent : Nat) (c : Nat) (leaf : DWord) (pa : Nat) (len : Nat) : (State.reach s agent c leaf pa len).mem = s.mem := by
  unfold State.reach; simp (maxDischargeDepth := 30) +contextual [State.foldl_mem]

@[simp] theorem State.uncache_mem (s : State) (pa : Nat) (len : Nat) : (State.uncache s pa len).mem = s.mem := by
  rfl

@[simp] theorem State.readRun_wf (s : State) (who : Viewer) (va : Nat) (pa : Nat) (len : Nat) (hm : Memory.wf s.mem = true) : Memory.wf (State.readRun s who va pa len).2.mem = true := by
  unfold State.readRun; repeat' split
  all_goals first | exact hm | (simp (maxDischargeDepth := 30) +contextual [*, State.foldl_mem, State.foldl_wf]; done)

@[simp] theorem State.writeRun_wf (s : State) (who : Viewer) (va : Nat) (pa : Nat) (bs : List Byte) (bad : Bool) (hm : Memory.wf s.mem = true) : Memory.wf (State.writeRun s who va pa bs bad).mem = true := by
  unfold State.writeRun
  dsimp only
  split
  · simp [hm]
  · split <;> simp [hm]

@[simp] theorem State.readVirt_wf (s : State) (c : Nat) (va : Nat) (len : Nat) (hm : Memory.wf s.mem = true) : Memory.wf (State.readVirt s c va len).2.mem = true := by
  unfold State.readVirt
  refine State.foldl_pair_wf Prod.snd _ _ (fun r p h => ?_) _ hm
  dsimp only
  split
  · exact h
  · exact State.readRun_wf _ _ _ _ _ (State.recallWalk_wf _ _ _ h)

@[simp] theorem State.writeVirt_wf (s : State) (c : Nat) (va : Nat) (bs : List Byte) (hm : Memory.wf s.mem = true) : Memory.wf (State.writeVirt s c va bs).mem = true := by
  unfold State.writeVirt
  refine State.foldl_pair_wf Prod.snd _ _ (fun r p h => ?_) _ hm
  dsimp only
  split
  · exact h
  · exact State.writeRun_wf _ _ _ _ _ _ (State.recallWalk_wf _ _ _ h)

@[simp] theorem State.writeScratch_mem (s : State) (c : Nat) (seq : Nat) (blk : Nat) (off : Nat) (bs : List Byte) (bad : Bool) : (State.writeScratch s c seq blk off bs bad).mem = s.mem := by
  rfl

@[simp] theorem State.putWords_wf (s : State) (c : Nat) (va : Nat) (ws : List Nat) (hm : Memory.wf s.mem = true) : Memory.wf (State.putWords s c va ws).mem = true := by
  simp [State.putWords, hm]

@[simp] theorem State.unrender_wf (s : State) (c : Nat) (t : Trace) (hm : Memory.wf s.mem = true) : Memory.wf (State.unrender s c t).mem = true := by
  unfold State.unrender; simp (maxDischargeDepth := 30) +contextual [hm, State.foldl_mem, State.foldl_wf]

@[simp] theorem State.renderHeader_wf (s : State) (c : Nat) (t : Trace) (hm : Memory.wf s.mem = true) : Memory.wf (State.renderHeader s c t).mem = true := by
  simp [State.renderHeader, hm]

@[simp] theorem State.render_wf (s : State) (c : Nat) (t : Trace) (hm : Memory.wf s.mem = true) : Memory.wf (State.render s c t).mem = true := by
  unfold State.render; simp (maxDischargeDepth := 30) +contextual [hm, State.foldl_mem, State.foldl_wf]

@[simp] theorem State.updTrace_wf (s : State) (c : Nat) (arena : DWord) (f : Trace → Trace) (hm : Memory.wf s.mem = true) : Memory.wf (State.updTrace s c arena f).mem = true := by
  unfold State.updTrace; repeat' split
  all_goals first | exact hm | (simp (maxDischargeDepth := 30) +contextual [*, State.foldl_mem, State.foldl_wf]; done)

@[simp] theorem State.noteRead_wf (s : State) (c : Nat) (seq : Nat) (va : Nat) (len : Nat) (leaf : DWord) (hm : Memory.wf s.mem = true) : Memory.wf (State.noteRead s c seq va len leaf).mem = true := by
  unfold State.noteRead; repeat' split
  all_goals first | exact hm | (simp (maxDischargeDepth := 30) +contextual [*, State.foldl_mem, State.foldl_wf]; done)

@[simp] theorem State.noteWrite_wf (s : State) (c : Nat) (who : Writer) (va : Nat) (bs : List Byte) (old : List Byte) (granule : Nat → List Byte) (leaf : DWord) (hm : Memory.wf s.mem = true) : Memory.wf (State.noteWrite s c who va bs old granule leaf).mem = true := by
  unfold State.noteWrite; repeat' split
  all_goals first | exact hm | (simp (maxDischargeDepth := 30) +contextual [*, State.foldl_mem, State.foldl_wf]; done)

@[simp] theorem State.markVolatile_wf (s : State) (c : Nat) (seq : Nat) (hm : Memory.wf s.mem = true) : Memory.wf (State.markVolatile s c seq).mem = true := by
  unfold State.markVolatile; repeat' split
  all_goals first | exact hm | (simp (maxDischargeDepth := 30) +contextual [*, State.foldl_mem, State.foldl_wf]; done)

@[simp] theorem State.logEntry_wf (s : State) (c : Nat) (ws : List Nat) (hm : Memory.wf s.mem = true) : Memory.wf (State.logEntry s c ws).mem = true := by
  unfold State.logEntry; repeat' split
  all_goals first | exact hm | (simp (maxDischargeDepth := 30) +contextual [*, State.foldl_mem, State.foldl_wf]; done)

@[simp] theorem State.noteAccess_wf (s : State) (c : Nat) (groupNo : Nat) (clock : Nat) (line : Nat) (hm : Memory.wf s.mem = true) : Memory.wf (State.noteAccess s c groupNo clock line).mem = true := by
  unfold State.noteAccess; repeat' split
  all_goals first | exact hm | (simp (maxDischargeDepth := 30) +contextual [*, State.foldl_mem, State.foldl_wf]; done)

@[simp] theorem State.noteLines_wf (s : State) (c : Nat) (groupNo : Nat) (clock : Nat) (pa : Nat) (len : Nat) (hm : Memory.wf s.mem = true) : Memory.wf (State.noteLines s c groupNo clock pa len).mem = true := by
  unfold State.noteLines; simp (maxDischargeDepth := 30) +contextual [hm, State.foldl_mem, State.foldl_wf]

@[simp] theorem State.noteScratch_wf (s : State) (c : Nat) (groupNo : Nat) (clock : Nat) (seq : Nat) (blk : Nat) (off : Nat) (len : Nat) (hm : Memory.wf s.mem = true) : Memory.wf (State.noteScratch s c groupNo clock seq blk off len).mem = true := by
  unfold State.noteScratch; simp (maxDischargeDepth := 30) +contextual [hm, State.foldl_mem, State.foldl_wf]

@[simp] theorem State.watch_mem (s : State) (c : Nat) (hall : Nat) (slot : Nat) (scratch : Bool) (addr : Nat) (len : Nat) (read : Bool) (write : Bool) : (State.watch s c hall slot scratch addr len read write).mem = s.mem := by
  unfold State.watch; repeat' split
  all_goals first | rfl | (simp (maxDischargeDepth := 30) +contextual [*, State.foldl_mem]; done)

@[simp] theorem State.storePart_wf (s : State) (g : Group) (w : StoreWord) (p : StorePart) (hm : Memory.wf s.mem = true) : Memory.wf (State.storePart s g w p).mem = true := by
  unfold State.storePart; simp (maxDischargeDepth := 30) +contextual [hm, State.foldl_mem, State.foldl_wf]

@[simp] theorem State.storeWord_wf (s : State) (g : Group) (w : StoreWord) (hm : Memory.wf s.mem = true) : Memory.wf (State.storeWord s g w).mem = true := by
  unfold State.storeWord; simp (maxDischargeDepth := 30) +contextual [hm, State.foldl_mem, State.foldl_wf]

@[simp] theorem State.finishWrites_wf (s : State) (g : Group) (hm : Memory.wf s.mem = true) : Memory.wf (State.finishWrites s g).mem = true := by
  unfold State.finishWrites; simp (maxDischargeDepth := 30) +contextual [hm, State.foldl_mem, State.foldl_wf]

@[simp] theorem State.drainStores_wf (s : State) (g : Group) (hm : Memory.wf s.mem = true) : Memory.wf (State.drainStores s g).mem = true := by
  unfold State.drainStores
  refine State.foldl_wf _ _ (fun s o h => ?_) _ (State.finishWrites_wf _ _ hm)
  split
  · exact State.storeWord_wf _ _ _ h
  · exact h

@[simp] theorem State.loadPart_wf (s : State) (g : Group) (o : Outst) (scratch : Bool) (p : LanePart) (hm : Memory.wf s.mem = true) : Memory.wf (State.loadPart s g o scratch p).2.2.mem = true := by
  unfold State.loadPart; repeat' split
  all_goals first | exact hm | (simp (maxDischargeDepth := 30) +contextual [*, State.foldl_mem, State.foldl_wf]; done)

@[simp] theorem State.takePart_wf (s : State) (g : Group) (o : Outst) (scratch : Bool) (p : LanePart) (hm : Memory.wf s.mem = true) : Memory.wf (State.takePart s g o scratch p).2.mem = true := by
  simp [State.takePart, hm]

@[simp] theorem State.takeParts_wf (s : State) (g : Group) (o : Outst) (scratch : Bool) (ks : List Nat) (hm : Memory.wf s.mem = true) : Memory.wf (State.takeParts s g o scratch ks).2.mem = true := by
  unfold State.takeParts
  refine State.foldl_pair_wf (fun x : Outst × State => x.2) _ _ (fun r p h => ?_) _ hm
  dsimp only
  split
  · exact State.takePart_wf _ _ _ _ _ h
  · exact h

@[simp] theorem State.settleStore_mem (s : State) (die : Nat) : (State.settleStore s die).mem = s.mem := by
  unfold State.settleStore; simp (maxDischargeDepth := 30) +contextual [State.foldl_mem]

@[simp] theorem State.settleStores_mem (s : State) : (State.settleStores s).mem = s.mem := by
  simp [State.settleStores]

@[simp] theorem State.freeEntry_mem (s : State) (c : Nat) (seq : Nat) : (State.freeEntry s c seq).mem = s.mem := by
  unfold State.freeEntry; repeat' split
  all_goals first | rfl | (simp (maxDischargeDepth := 30) +contextual [*, State.foldl_mem]; done)

@[simp] theorem State.putTcb_wf (s : State) (c : Nat) (tcb : DWord) (off : Nat) (n : Nat) (v : Nat) (hm : Memory.wf s.mem = true) : Memory.wf (State.putTcb s c tcb off n v).mem = true := by
  simp [State.putTcb, hm]

@[simp] theorem State.setStatus_wf (s : State) (c : Nat) (seq : Nat) (st : TStatus) (hm : Memory.wf s.mem = true) : Memory.wf (State.setStatus s c seq st).mem = true := by
  unfold State.setStatus; repeat' split
  all_goals first | exact hm | (simp (maxDischargeDepth := 30) +contextual [*, State.foldl_mem, State.foldl_wf]; done)

@[simp] theorem State.putRecord_wf (s : State) (o : Owed) (hm : Memory.wf s.mem = true) : Memory.wf (State.putRecord s o).mem = true := by
  simp [State.putRecord, hm]

@[simp] theorem State.settleOwed_wf (s : State) (hm : Memory.wf s.mem = true) : Memory.wf (State.settleOwed s).mem = true := by
  unfold State.settleOwed; simp (maxDischargeDepth := 30) +contextual [hm, State.foldl_mem, State.foldl_wf]

@[simp] theorem State.completion_wf (s : State) (c : Nat) (seq : Nat) (st : TStatus) (cause : Nat) (hm : Memory.wf s.mem = true) : Memory.wf (State.completion s c seq st cause).mem = true := by
  unfold State.completion; repeat' split
  all_goals first | exact hm | (simp (maxDischargeDepth := 30) +contextual [*, State.foldl_mem, State.foldl_wf]; done)

@[simp] theorem State.settleTrace_wf (s : State) (c : Nat) (arena : DWord) (hm : Memory.wf s.mem = true) : Memory.wf (State.settleTrace s c arena).mem = true := by
  unfold State.settleTrace; repeat' split
  all_goals first | exact hm | (simp (maxDischargeDepth := 30) +contextual [*, State.foldl_mem, State.foldl_wf]; done)

@[simp] theorem State.endTask_wf (s : State) (c : Nat) (seq : Nat) (st : TStatus) (cause : Nat) (hm : Memory.wf s.mem = true) : Memory.wf (State.endTask s c seq st cause).mem = true := by
  unfold State.endTask; repeat' split
  all_goals first | exact hm | (simp (maxDischargeDepth := 30) +contextual [*, State.foldl_mem, State.foldl_wf]; done)

@[simp] theorem State.putPhaser_wf (s : State) (g : Group) (h : DWord) (p : Phaser) (hm : Memory.wf s.mem = true) : Memory.wf (State.putPhaser s g h p).mem = true := by
  unfold State.putPhaser; repeat' split
  all_goals first | exact hm | (simp (maxDischargeDepth := 30) +contextual [*, State.foldl_mem, State.foldl_wf]; done)

@[simp] theorem State.completePhase_wf (s : State) (g : Group) (h : DWord) (hm : Memory.wf s.mem = true) : Memory.wf (State.completePhase s g h).mem = true := by
  simp [State.completePhase, hm]

@[simp] theorem State.testPhase_wf (s : State) (g : Group) (h : DWord) (hm : Memory.wf s.mem = true) : Memory.wf (State.testPhase s g h).mem = true := by
  simp [State.testPhase, hm]

@[simp] theorem State.dropPhaser_wf (s : State) (g : Group) (r : PhReg) (hm : Memory.wf s.mem = true) : Memory.wf (State.dropPhaser s g r).mem = true := by
  simp [State.dropPhaser, hm]

@[simp] theorem State.dropRecords_wf (s : State) (g : Group) (hm : Memory.wf s.mem = true) : Memory.wf (State.dropRecords s g).mem = true := by
  unfold State.dropRecords
  refine State.foldl_wf _ _ (fun s r h => ?_) _ hm
  dsimp only
  split
  · exact State.dropPhaser_wf _ _ _ h
  · exact h

@[simp] theorem State.dropGroups_mem (s : State) (p : Group → Bool) : (State.dropGroups s p).mem = s.mem := by
  rfl

@[simp] theorem State.dropPubs_mem (s : State) (p : Nat → PubCmd → Bool) : (State.dropPubs s p).mem = s.mem := by
  unfold State.dropPubs
  refine State.foldl_mem _ _ (fun s c => ?_) s
  refine State.foldl_mem _ _ (fun s q => ?_) s
  cases s.ctx? c.1 with
  | none => rfl
  | some x => exact (State.updPkg_mem _ _).trans (State.updCtx_mem _ _ _)

@[simp] theorem State.dropIssued_mem (s : State) (gs : List Group) : (State.dropIssued s gs).mem = s.mem := by
  simp [State.dropIssued]

@[simp] theorem State.killGroups_wf (s : State) (p : Group → Bool) (drop : Bool) (hm : Memory.wf s.mem = true) : Memory.wf (State.killGroups s p drop).mem = true := by
  unfold State.killGroups; simp (maxDischargeDepth := 30) +contextual [hm, State.foldl_mem, State.foldl_wf]

@[simp] theorem State.payCharge_mem (s : State) (c : Nat) (seq : Nat) (cycles : Nat) : (State.payCharge s c seq cycles).mem = s.mem := by
  unfold State.payCharge; repeat' split
  all_goals first | rfl | (simp (maxDischargeDepth := 30) +contextual [*, State.foldl_mem]; done)

@[simp] theorem State.dropBlocks_wf (s : State) (p : Block → Bool) (hm : Memory.wf s.mem = true) : Memory.wf (State.dropBlocks s p).mem = true := by
  unfold State.dropBlocks; simp (maxDischargeDepth := 30) +contextual [hm, State.foldl_mem, State.foldl_wf]

@[simp] theorem State.stopRecord_mem (s : State) (g : Group) (cause : Nat) : (State.stopRecord s g cause).mem = s.mem := by
  simp [State.stopRecord]

@[simp] theorem State.haltGroup_mem (s : State) (g : Group) (cause : Nat) : (State.haltGroup s g cause).mem = s.mem := by
  unfold State.haltGroup; repeat' split
  all_goals first | rfl | (simp (maxDischargeDepth := 30) +contextual [*, State.foldl_mem]; done)

@[simp] theorem State.haltHere_mem (s : State) (cause : Nat) : (State.haltHere s cause).mem = s.mem := by
  simp [State.haltHere]

@[simp] theorem State.stopEngines_mem (s : State) (c : Nat) : (State.stopEngines s c).mem = s.mem := by
  unfold State.stopEngines; simp (maxDischargeDepth := 30) +contextual [State.foldl_mem]

@[simp] theorem State.stopContext_mem (s : State) (c : Nat) : (State.stopContext s c).mem = s.mem := by
  unfold State.stopContext
  dsimp only
  split
  · split
    · exact State.foldl_mem _ _ (fun s g => by simp) s
    · rw [State.stopEngines_mem]; exact State.foldl_mem _ _ (fun s g => by simp) s
  · exact State.foldl_mem _ _ (fun s g => by simp) s

@[simp] theorem State.writeDump_wf (s : State) (c : Nat) (cause : Nat) (seq : Nat) (lockstep : Bool) (hm : Memory.wf s.mem = true) : Memory.wf (State.writeDump s c cause seq lockstep).mem = true := by
  delta State.writeDump
  cases s.ctx? c with
  | none => exact hm
  | some x =>
    by_cases hb : x.dbg.dumpBase = 0
    · simp only [hb, if_true]; exact hm
    · simp only [hb, if_false, State.updDebug_mem]
      exact State.writeVirt_wf _ _ _ _ ((congrArg Memory.wf (State.stopContext_mem s c)).trans hm)

@[simp] theorem State.clearTask_wf (s : State) (c : Nat) (seq : Nat) (drop : Bool) (hm : Memory.wf s.mem = true) : Memory.wf (State.clearTask s c seq drop).mem = true := by
  unfold State.clearTask; simp (maxDischargeDepth := 30) +contextual [hm, State.foldl_mem, State.foldl_wf]

@[simp] theorem State.failTask_wf (s : State) (c : Nat) (seq : Nat) (cause : Nat) (hm : Memory.wf s.mem = true) : Memory.wf (State.failTask s c seq cause).mem = true := by
  unfold State.failTask
  split
  · exact hm
  · dsimp only
    have h1 : ∀ s' : State, Memory.wf s'.mem = true → Memory.wf (State.clearTask s' c seq true).mem = true :=
      fun s' h => State.clearTask_wf _ _ _ _ h
    refine State.endTask_wf _ _ _ _ _ ?_
    split
    · split
      · refine State.updTrace_wf _ _ _ _ ?_; split
        · exact h1 _ (State.writeDump_wf _ _ _ _ _ hm)
        · exact h1 _ hm
      · split
        · exact h1 _ (State.writeDump_wf _ _ _ _ _ hm)
        · exact h1 _ hm
    · split
      · exact h1 _ (State.writeDump_wf _ _ _ _ _ hm)
      · exact h1 _ hm

@[simp] theorem State.consumePoison_mem (s : State) : (State.consumePoison s).mem = s.mem := by
  rfl

@[simp] theorem State.endRegion_mem (s : State) : (State.endRegion s).mem = s.mem := by
  rfl

@[simp] theorem State.settleStart_mem (s : State) : (State.settleStart s).mem = s.mem := by
  simp [State.settleStart]

@[simp] theorem State.drainGangs_mem (s : State) (p : Gang → Bool) : (State.drainGangs s p).mem = s.mem := by
  rfl

@[simp] theorem State.drainHall_mem (s : State) (h : Nat) : (State.drainHall s h).mem = s.mem := by
  simp [State.drainHall]

@[simp] theorem State.updUnit_mem (s : State) (u : Nat) (f : UnitSt → UnitSt) : (State.updUnit s u f).mem = s.mem := by
  rfl

@[simp] theorem State.chargeUnit_mem (s : State) (u : Nat) (n : Nat) : (State.chargeUnit s u n).mem = s.mem := by
  simp [State.chargeUnit]

@[simp] theorem State.unpark_mem (s : State) : (State.unpark s).mem = s.mem := by
  unfold State.unpark; repeat' split
  all_goals first | rfl | (simp (maxDischargeDepth := 30) +contextual [*, State.foldl_mem]; done)

@[simp] theorem State.takeTrap_wf (s : State) (c : Cause) (mask : Mask) (addr : DWord) (pc : Word) (hm : Memory.wf s.mem = true) : Memory.wf (State.takeTrap s c mask addr pc).mem = true := by
  simp [State.takeTrap, hm]

@[simp] theorem State.finishRestart_wf (s : State) (hm : Memory.wf s.mem = true) : Memory.wf (State.finishRestart s).mem = true := by
  simp [State.finishRestart, hm]

@[simp] theorem State.mismatch_wf (s : State) (c : Cause) (hm : Memory.wf s.mem = true) : Memory.wf (State.mismatch s c).mem = true := by
  simp [State.mismatch, hm]

@[simp] theorem State.advance_mem (s : State) : (State.advance s).mem = s.mem := by
  rfl

@[simp] theorem State.note_mem (s : State) (r : Status) : (State.note s r).mem = s.mem := by
  rfl

/-- The memory of an effect's state keeps its form. -/
def Eff.wf : Eff → Prop
  | .ok t => Memory.wf t.mem = true
  | .jump t => Memory.wf t.mem = true
  | .park t _ => Memory.wf t.mem = true
  | .trap t _ _ _ => Memory.wf t.mem = true
  | .after t _ _ => Memory.wf t.mem = true
  | .fault t _ => Memory.wf t.mem = true
  | .hold t _ => Memory.wf t.mem = true
  | .stall _ _ => True
  | .poison => True
  | .bad _ => True

/-- The memory of an outcome's state keeps its form. -/
def outWf : Out → Prop
  | .next t => Memory.wf t.mem = true
  | _ => True

@[simp] theorem outWf_next (t : State) : outWf (.next t) ↔ Memory.wf t.mem = true := Iff.rfl

@[simp] theorem outWf_fault (r : Fault) : outWf (.fault r) := trivial

@[simp] theorem Eff.wf_ok (t : State) : Eff.wf (.ok t) ↔ Memory.wf t.mem = true := Iff.rfl

@[simp] theorem Eff.wf_jump (t : State) : Eff.wf (.jump t) ↔ Memory.wf t.mem = true := Iff.rfl

@[simp] theorem Eff.wf_park (t : State) (r : Reason) : Eff.wf (.park t r) ↔ Memory.wf t.mem = true := Iff.rfl

@[simp] theorem Eff.wf_trap (t : State) (c : Cause) (m : Mask) (a : DWord) :
    Eff.wf (.trap t c m a) ↔ Memory.wf t.mem = true := Iff.rfl

@[simp] theorem Eff.wf_after (t : State) (c : Cause) (a : DWord) : Eff.wf (.after t c a) ↔ Memory.wf t.mem = true := Iff.rfl

@[simp] theorem Eff.wf_fault (t : State) (p : List Nat) : Eff.wf (.fault t p) ↔ Memory.wf t.mem = true := Iff.rfl

@[simp] theorem Eff.wf_hold (t : State) (r : Reason) : Eff.wf (.hold t r) ↔ Memory.wf t.mem = true := Iff.rfl

@[simp] theorem Eff.wf_ite (c : Prop) [Decidable c] (a b : Eff) :
    Eff.wf (if c then a else b) = if c then Eff.wf a else Eff.wf b := apply_ite _ _ _ _

@[simp] theorem outWf_ite (c : Prop) [Decidable c] (a b : Out) :
    outWf (if c then a else b) = if c then outWf a else outWf b := apply_ite _ _ _ _

@[simp] theorem Eff.wf_stall (r : Reason) (w : List Instr) : Eff.wf (.stall r w) := trivial

@[simp] theorem Eff.wf_poison : Eff.wf .poison := trivial

@[simp] theorem Eff.wf_bad (c : Cause) : Eff.wf (.bad c) := trivial

@[simp] theorem State.finish_wf (s : State) (e : Eff) (hm : Memory.wf s.mem = true) (he : Eff.wf e) :
    Memory.wf (State.finish s e).mem = true := by
  cases e with
  | ok t => simpa [State.finish, State.note] using he
  | jump t => simpa [State.finish, State.note] using he
  | park t r => simpa [State.finish, State.note] using he
  | trap t c m a => exact State.takeTrap_wf _ _ _ _ _ he
  | after t c a => exact State.takeTrap_wf _ _ _ _ _ (by simpa using he)
  | fault t p => simpa [State.finish, State.note] using he
  | hold t r => simpa [State.finish, State.note] using he
  | stall r w => simpa [State.finish, State.note] using hm
  | poison => simpa [State.finish] using hm
  | bad c => exact State.mismatch_wf _ _ hm

@[simp] theorem State.park_mem (s : State) (i : Instr) (phase : Nat) (aux : DWord) (r : Reason) : (State.park s i phase aux r).mem = s.mem := by
  rfl

end Sys2Proof.Machine
end

