-- ==== Sys2Proof/Laws/Issue.lean ====
section
/-! SUPPORT. What the shared operations of words come to for a word that issues normally: the checks pass, no source is unsound, no
lane of the group has an open atomic region. -/

namespace Sys2Proof.Machine

/-- With no region open the packets of regions are not counted. -/
theorem State.countPackets_closed (s : State) (h : Group.openLanes s.g = []) : State.countPackets s = s := by
  simp [State.countPackets, h]

/-- A word that stands first in its chain, passes its checks and waits for nothing takes its entry. -/
theorem issue_ready (i : Instr) (body : State → Eff) (s : State) (hv : s.g.valid = true) (hw : s.g.wait.isNone = true)
    (hf : s.cur.follow = false) (hr : State.regWait s i = false) (hc : State.wordCheck s i = none) (hm : s.cur.mask ≠ 0)
    (ho : Group.openLanes s.g = []) : issue i body s = .next (State.finish s (body s)) := by
  have hw' : s.g.wait.isSome = false := by cases h : s.g.wait <;> simp_all
  simp only [issue, hv, hw', hf, hr, hc, State.countPackets_closed s ho, Bool.not_true, Bool.false_eq_true, if_false, Bool.or_self,
    if_neg hm]

/-- A further word of a chain, or a word that waits, takes its entry at once, on what it read at its issue. -/
theorem issue_again (i : Instr) (body : State → Eff) (s : State) (hv : s.g.valid = true)
    (h : s.g.wait.isSome = true ∨ s.cur.follow = true) :
    issue i body s = .next (State.finish s (Eff.map (State.landed s) (body (State.asIssued s)))) := by
  unfold issue
  rw [if_neg (by simp [hv]), if_pos (by simpa using h)]

/-- A group that does not wait stands at its chain. -/
theorem Group.toChain_of_none (g : Group) (h : g.wait.isNone = true) : Group.toChain g = g := by
  unfold Group.toChain
  cases e : g.wait with
  | none => rfl
  | some w => rw [e] at h; cases h

theorem State.toChain_of_none (s : State) (h : s.g.wait.isNone = true) : State.updG s Group.toChain = s := by
  unfold State.updG
  rw [Group.toChain_of_none _ h]

/-- A trap of a word that issues is taken as it stands. -/
theorem State.finish_trap (s t : State) (c : Cause) (m : Mask) (a : DWord) (h : t.g.wait = none) :
    State.finish s (.trap t c m a) = State.takeTrap t c m a t.cur.chainPc := by
  show State.takeTrap (State.updG t Group.toChain) c m a t.cur.chainPc = _
  rw [State.toChain_of_none t (by rw [h]; rfl)]

/-- Releasing the buffered stores changes the outstanding accesses alone. -/
theorem Group.release_eq (g : Group) : ∃ os, Group.release g = { g with outst := os, sbuf := [] } := by
  have key : ∀ (l : List StoreWord) (h : Group), ∃ os, l.foldl (fun h w => Group.outstand h
      { no := w.no, op := .store w, mask := 0, parts := [], region := g.regions, lc := w.lc, sent := none }) h =
        { h with outst := os } := by
    intro l
    induction l with
    | nil => intro h; exact ⟨h.outst, rfl⟩
    | cons w l ih => intro h; rw [List.foldl_cons]; exact ih _
  obtain ⟨os, e⟩ := key g.sbuf g
  exact ⟨os, by unfold Group.release; rw [e]⟩

/-- What the end of the idempotent region leaves as it is. -/
theorem State.endRegion_eq (s : State) : ∃ os, State.endRegion s =
    { s with g := { s.g with outst := os, sbuf := [], regions := s.g.regions + 1, restarts := 0 },
             cur := { s.cur with fresh := true } } := by
  obtain ⟨os, e⟩ := Group.release_eq s.g
  exact ⟨os, by unfold State.endRegion; rw [e]⟩
@[simp] theorem State.endRegion_g_wait (s : State) : (State.endRegion s).g.wait = s.g.wait := by
  obtain ⟨os, e⟩ := State.endRegion_eq s; rw [e]
@[simp] theorem State.endRegion_g_lcnt (s : State) : (State.endRegion s).g.lcnt = s.g.lcnt := by
  obtain ⟨os, e⟩ := State.endRegion_eq s; rw [e]
@[simp] theorem State.endRegion_g_scnt (s : State) : (State.endRegion s).g.scnt = s.g.scnt := by
  obtain ⟨os, e⟩ := State.endRegion_eq s; rw [e]
@[simp] theorem State.endRegion_g_acnt (s : State) : (State.endRegion s).g.acnt = s.g.acnt := by
  obtain ⟨os, e⟩ := State.endRegion_eq s; rw [e]
@[simp] theorem State.endRegion_g_ecnt (s : State) : (State.endRegion s).g.ecnt = s.g.ecnt := by
  obtain ⟨os, e⟩ := State.endRegion_eq s; rw [e]
@[simp] theorem State.endRegion_g_ctx (s : State) : (State.endRegion s).g.ctx = s.g.ctx := by
  obtain ⟨os, e⟩ := State.endRegion_eq s; rw [e]
@[simp] theorem State.endRegion_g_seq (s : State) : (State.endRegion s).g.seq = s.g.seq := by
  obtain ⟨os, e⟩ := State.endRegion_eq s; rw [e]
@[simp] theorem State.endRegion_g_blk (s : State) : (State.endRegion s).g.blk = s.g.blk := by
  obtain ⟨os, e⟩ := State.endRegion_eq s; rw [e]
@[simp] theorem State.endRegion_g_hall (s : State) : (State.endRegion s).g.hall = s.g.hall := by
  obtain ⟨os, e⟩ := State.endRegion_eq s; rw [e]
@[simp] theorem State.endRegion_g_slot (s : State) : (State.endRegion s).g.slot = s.g.slot := by
  obtain ⟨os, e⟩ := State.endRegion_eq s; rw [e]
@[simp] theorem State.endRegion_g_trapMode (s : State) : (State.endRegion s).g.trapMode = s.g.trapMode := by
  obtain ⟨os, e⟩ := State.endRegion_eq s; rw [e]
@[simp] theorem State.endRegion_g_trapRec (s : State) : (State.endRegion s).g.trapRec = s.g.trapRec := by
  obtain ⟨os, e⟩ := State.endRegion_eq s; rw [e]
@[simp] theorem State.endRegion_g_lanes (s : State) : (State.endRegion s).g.lanes = s.g.lanes := by
  obtain ⟨os, e⟩ := State.endRegion_eq s; rw [e]
@[simp] theorem State.endRegion_g_valid (s : State) : (State.endRegion s).g.valid = s.g.valid := by
  obtain ⟨os, e⟩ := State.endRegion_eq s; rw [e]
@[simp] theorem State.endRegion_g_deferred (s : State) : (State.endRegion s).g.deferred = s.g.deferred := by
  obtain ⟨os, e⟩ := State.endRegion_eq s; rw [e]
@[simp] theorem State.endRegion_g_mma (s : State) : (State.endRegion s).g.mma = s.g.mma := by
  obtain ⟨os, e⟩ := State.endRegion_eq s; rw [e]
@[simp] theorem State.endRegion_g_role (s : State) : (State.endRegion s).g.role = s.g.role := by
  obtain ⟨os, e⟩ := State.endRegion_eq s; rw [e]
@[simp] theorem State.endRegion_g_grp (s : State) : (State.endRegion s).g.grp = s.g.grp := by
  obtain ⟨os, e⟩ := State.endRegion_eq s; rw [e]
@[simp] theorem State.endRegion_g_trapc (s : State) : (State.endRegion s).g.trapc = s.g.trapc := by
  obtain ⟨os, e⟩ := State.endRegion_eq s; rw [e]
@[simp] theorem State.endRegion_g_copies (s : State) : (State.endRegion s).g.copies = s.g.copies := by
  obtain ⟨os, e⟩ := State.endRegion_eq s; rw [e]
@[simp] theorem State.endRegion_clk (s : State) : (State.endRegion s).clk = s.clk := rfl
@[simp] theorem State.endRegion_blocks (s : State) : (State.endRegion s).blocks = s.blocks := rfl
@[simp] theorem State.endRegion_groups (s : State) : (State.endRegion s).groups = s.groups := rfl
@[simp] theorem State.endRegion_tasks (s : State) : (State.endRegion s).tasks = s.tasks := rfl
@[simp] theorem State.endRegion_gangs (s : State) : (State.endRegion s).gangs = s.gangs := rfl
@[simp] theorem State.endRegion_halls (s : State) : (State.endRegion s).halls = s.halls := rfl
@[simp] theorem State.endRegion_pkg (s : State) : (State.endRegion s).pkg = s.pkg := rfl
@[simp] theorem State.endRegion_strike (s : State) : (State.endRegion s).strike = s.strike := rfl

/-- A word waits for a pending register. -/
theorem issue_waits (i : Instr) (body : State → Eff) (s : State) (hv : s.g.valid = true) (hw : s.g.wait.isNone = true)
    (hf : s.cur.follow = false) (hr : State.regWait s i = true) :
    issue i body s = .next (State.finish s (.stall .regdep [])) := by
  have hw' : s.g.wait.isSome = false := by cases h : s.g.wait <;> simp_all
  simp [issue, hv, hw', hf, hr]

/-- A word that fails a check of R104 takes its trap. -/
theorem issue_checked (i : Instr) (body : State → Eff) (s : State) (c : Cause) (hv : s.g.valid = true)
    (hw : s.g.wait.isNone = true) (hf : s.cur.follow = false) (hr : State.regWait s i = false)
    (hc : State.wordCheck s i = some c) : issue i body s = .next (State.takeTrap s c s.cur.mask 0 s.cur.chainPc) := by
  have hw' : s.g.wait.isSome = false := by cases h : s.g.wait <;> simp_all
  simp [issue, hv, hw', hf, hr, hc, State.finish, State.toChain_of_none s hw]

/-- With nothing disturbed a result is written as it is. -/
theorem State.written_calm (s t : State) (h : s.strike = none) : State.written s t = .ok t := by
  simp [State.written, h]

/-- With sound sources the source checks pass. -/
theorem State.withSources_sound (s : State) (xs : List Src) (body : State → Eff) (hs : s.strike = none)
    (hp : State.srcPoison s xs = false) (hf : State.srcFormat s xs = false) (hr : State.srcResidue s xs = false) :
    State.withSources s xs body = body s := by
  simp only [State.withSources, hp, hf, hr, Bool.false_eq_true, if_false]
  cases body s <;> first | exact State.written_calm _ _ hs | rfl

/-- Poison that is consumed comes first. -/
theorem State.withSources_poison (s : State) (xs : List Src) (body : State → Eff) (hp : State.srcPoison s xs = true) :
    State.withSources s xs body = .poison := by
  simp [State.withSources, hp]

/-- Then the tags. -/
theorem State.withSources_format (s : State) (xs : List Src) (body : State → Eff) (hp : State.srcPoison s xs = false)
    (hf : State.srcFormat s xs = true) : State.withSources s xs body = .trap s .format s.cur.mask 0 := by
  simp [State.withSources, hp, hf]

/-- With no region open in the group no lane has one. -/
theorem State.inRegion_closed (s : State) (l : Nat) (h : Group.openLanes s.g = []) (hl : l ∈ lanesOf) :
    State.inRegion s l = false := by
  have := (List.filter_eq_nil_iff.1 h) l hl
  simpa [State.inRegion] using this

/-- Every active lane is one of the 32. -/
theorem Mask.mem_lanes {m : Mask} {l : Nat} (h : l ∈ Mask.lanes m) : l ∈ lanesOf := (List.mem_filter.1 h).1

theorem State.anyRegion_closed (s : State) (h : Group.openLanes s.g = []) : State.anyRegion s = false := by
  simp only [State.anyRegion, List.any_eq_false]
  intro l hl
  simp [State.inRegion_closed s l h (Mask.mem_lanes hl)]

/-- Outside every region a word that a region forbids goes on. -/
theorem State.outside_closed (s : State) (body : State → Eff) (h : Group.openLanes s.g = []) :
    State.outside s body = body s := by
  simp [State.outside, State.anyRegion_closed s h]

/-- Outside every region no source becomes exact. -/
theorem State.exactSources_closed (s : State) (xs : List Src) (p : Nat → Bool) (h : Group.openLanes s.g = []) :
    State.exactSources s xs p = s := by
  simp [State.exactSources, h]

/-- The cells of result `j` of a lane-by-lane word outside every region: each active lane's word with its tag, POISON where a
source that counts is poisoned (R117), no symbolic tag. -/
def State.resultCells (s : State) (xs : List Src) (f : Nat → List (Word × Tag)) (j : Nat) : List (Option RegCell) :=
  lanesOf.map (fun l =>
    if s.cur.mask.getLsbD l then
      ((f l)[j]?).map (fun p => RegCell.of p.1 (if State.lanePoison s xs l then .poison else p.2))
    else none)

/-- The results of a lane-by-lane word outside every region. -/
theorem State.results_closed (s : State) (xs : List Src) (lat d n : Nat) (f : Nat → List (Word × Tag))
    (sym : Nat → Option (BitVec 4)) (h : Group.openLanes s.g = []) :
    State.results s xs lat d n f sym =
      (List.range n).foldl (fun t j => State.landing t lat (d + j) (State.resultCells s xs f j) false) s := by
  unfold State.results
  dsimp only
  rw [State.exactSources_closed s xs _ h]
  congr 1
  funext t j
  congr 1
  unfold State.resultCells
  rw [List.map_map]
  refine List.map_congr_left (fun l hl => ?_)
  simp only [Function.comp]
  cases s.cur.mask.getLsbD l with
  | false => rfl
  | true =>
    simp only [if_true, State.inRegion_closed s l h hl, Bool.false_eq_true, if_false, List.getElem?_map]
    cases (f l)[j]? with
    | none => rfl
    | some p => rfl

/-- A result changes the group's landings alone. -/
theorem State.landing_of_ne (s : State) (lat reg : Nat) (cells : List (Option RegCell)) (pend : Bool) (h : reg ≠ 0) :
    State.landing s lat reg cells pend = State.updG s (fun g => { g with landings := g.landings ++
      [{ at_ := s.clk + lat, reg := reg, cells := cells, pend := pend, region := g.regions }] }) := by
  simp [State.landing, h]

/-- v0 discards every write. -/
theorem State.landing_zero (s : State) (lat : Nat) (cells : List (Option RegCell)) (pend : Bool) :
    State.landing s lat 0 cells pend = s := by
  simp [State.landing]

/-- Outside every region a comparison records nothing. -/
theorem State.constrain_closed (s : State) (l : Nat) (rel : BitVec 3) (x y : RegCell) (h : Group.openLanes s.g = [])
    (hl : l ∈ lanesOf) : State.constrain s l rel x y = s := by
  simp [State.constrain, State.inRegion_closed s l h hl]

/-- Nor do those of all active lanes. -/
theorem State.constrain_all_closed (s : State) (rel : BitVec 3) (x y : Nat → RegCell) (h : Group.openLanes s.g = []) :
    (Mask.lanes s.cur.mask).foldl (fun t l => State.constrain t l rel (x l) (y l)) s = s := by
  have key : ∀ ls : List Nat, (∀ l ∈ ls, l ∈ lanesOf) → ls.foldl (fun t l => State.constrain t l rel (x l) (y l)) s = s := by
    intro ls
    induction ls with
    | nil => intro _; rfl
    | cons l ls ih =>
      intro hl
      rw [List.foldl_cons, State.constrain_closed s l rel _ _ h (hl l (List.mem_cons_self ..))]
      exact ih (fun k hk => hl k (List.mem_cons_of_mem _ hk))
  exact key _ (fun l hl => Mask.mem_lanes hl)

end Sys2Proof.Machine
end

