-- ==== Sys2Proof/Certificates/Slice0/Obligations.lean ====
section
/-! DEFINITION. The statements for the provers: what every instruction does and where it completes, what every word has in common,
encodings, invariants, reset. Conditions that several statements share are named in Sys2Proof.Machine.Rules. -/

/-! ## How a word issues

The statements about the instruction words share these conditions on the state. -/

namespace Sys2Proof.Machine.Rules

/-- A word stands first in its chain and nothing holds it: a group stands at the issue port with a live lane, it waits for
nothing, no register of the word is pending (R91), and every check of R104 passes: the word is well formed, its registers are
within REGN and its tile within ACCN, the role admits it, and the checking scoreboard has nothing against it. -/
def Ready (s : State) (i : Instr) : Prop :=
  s.g.valid = true ∧ s.g.wait = none ∧ s.cur.follow = false ∧ s.cur.mask ≠ 0 ∧ State.regWait s i = false ∧
  State.wordCheck s i = none

/-- No lane of the group has an open atomic region (R285). -/
def Closed (s : State) : Prop := Group.openLanes s.g = []

/-- The sources are as the word takes them: no poison that it consumes (R117), only tags that it accepts (R116, R134), residues
that match (R118); and no particle strike disturbs what the word computes (R118, R178). -/
def Sound (s : State) (xs : List Src) : Prop :=
  s.strike = none ∧ State.srcPoison s xs = false ∧ State.srcFormat s xs = false ∧ State.srcResidue s xs = false

/-- The state after a word that is not a branch: the active lanes stand at NextWord of its address (R88), the region start
record is written if a word of this chain ended the idempotent region (R30), and the word is noted as done. -/
def done (t : State) : State := State.note (State.settleStart (State.advance t)) .done

/-- The same after a word that has set lpc itself. -/
def jumped (t : State) : State := State.note (State.settleStart t) .done

/-- Reg(l, n) of R106. -/
def reg (s : State) (l n : Nat) : Word := (Group.cell s.g l n).val

/-- Src(l, n, u) of R106: a uniform source reads the leading lane of the quarter. -/
def src (s : State) (l n : Nat) (u : Bool) : Word := (Group.cell s.g (if u then 8 * (l / 8) else l) n).val

/-- The tag of Src(l, n, u). -/
def srcTag (s : State) (l n : Nat) (u : Bool) : Tag := (Group.cell s.g (if u then 8 * (l / 8) else l) n).tag

/-- Reg64(l, n) of R106: the low word in the even register. -/
def reg64 (s : State) (l n : Nat) : DWord := reg s l (n + 1) ++ reg s l n

/-- What the manual's entry of a lane-by-lane word says: the registers it reads with the tags it accepts, its result latency,
the first register it writes and how many, and the words with their tags that each active lane receives. -/
structure LaneWord where
  srcs : List Src
  lat : Nat
  dst : RegNo
  n : Nat
  out : Nat → List (Word × Tag)

/-- The results of a lane-by-lane word are placed: each register lands `lat` cycles later in the active lanes alone (R90, R133),
with the word's tag, or POISON where a source of the lane is poisoned (R117), a fresh residue and no symbolic tag; v0
discards its write. Nothing else of the state changes. -/
def writes (s : State) (w : LaneWord) : State :=
  (List.range w.n).foldl (fun t j => State.landing t w.lat (w.dst.toNat + j) (State.resultCells s w.srcs w.out j) false) s

/-- The I32 results of one register. -/
def one (f : Nat → Word) (l : Nat) : List (Word × Tag) := [(f l, .i32)]

/-- I32 if every register source carries I32, else RAW (R134). -/
def anyTag (ts : List Tag) : Tag := if ts.all (fun t => t == .i32) then .i32 else .raw

/-! ## The integer words (R136, R139, R140, R190) -/

/-- A binary word on I32 sources with an I32 result. -/
def int2 (s : State) (u : Bool) (d a b : RegNo) (lat : Nat) (f : Word → Word → Word) : LaneWord :=
  { srcs := [src1 a false [.i32], src1 b u [.i32]], lat := lat, dst := d, n := 1,
    out := one (fun l => f (reg s l a.toNat) (src s l b.toNat u)) }

/-- The product of four pairs of 8-bit elements, summed (R190). -/
def dot (z : Bool) (x y : Word) : Int :=
  let e := fun (w : Word) (i : Nat) => let b : BitVec 8 := w.extractLsb' (8 * i) 8; if z then (b.toNat : Int) else b.toInt
  e x 0 * e y 0 + e x 1 * e y 1 + e x 2 * e y 2 + e x 3 * e y 3

/-- The entries of R136, IADDI of R139, LI and LIH of R140, IDP4 of R190. -/
def integerWord (s : State) : Instr → Option LaneWord
  | .iadd u d a b => some (int2 s u d a b 4 (fun x y => x + y))
  | .isub u d a b => some (int2 s u d a b 4 (fun x y => x - y))
  | .imul u d a b => some (int2 s u d a b 6 (fun x y => x * y))
  | .imulhS u d a b => some (int2 s u d a b 6 (fun x y =>
      (BitVec.signExtend 64 x * BitVec.signExtend 64 y).extractLsb' 32 32))
  | .imulhZ u d a b => some (int2 s u d a b 6 (fun x y =>
      (BitVec.zeroExtend 64 x * BitVec.zeroExtend 64 y).extractLsb' 32 32))
  | .imad u d a b => some
      { srcs := src1 d false [.i32] :: [src1 a false [.i32], src1 b u [.i32]], lat := 6, dst := d, n := 1,
        out := one (fun l => reg s l d.toNat + reg s l a.toNat * src s l b.toNat u) }
  | .imin u z d a b => some (int2 s u d a b 4 (fun x y =>
      if z then (if BitVec.ult y x then y else x) else (if BitVec.slt y x then y else x)))
  | .imax u z d a b => some (int2 s u d a b 4 (fun x y =>
      if z then (if BitVec.ult x y then y else x) else (if BitVec.slt x y then y else x)))
  | .iabs d a => some
      { srcs := [src1 a false [.i32]], lat := 4, dst := d, n := 1,
        out := one (fun l => let x := reg s l a.toNat; if x.getLsbD 31 then 0 - x else x) }
  | .iaddi d a imm => some
      { srcs := [src1 a false [.i32]], lat := 4, dst := d, n := 1,
        out := one (fun l => reg s l a.toNat + BitVec.signExtend 32 imm) }
  | .li d imm => some
      { srcs := [], lat := 4, dst := d, n := 1, out := one (fun _ => BitVec.signExtend 32 imm) }
  | .lih d imm => some
      { srcs := [src1 d false [.i32]], lat := 4, dst := d, n := 1,
        out := one (fun l => (BitVec.zeroExtend 32 imm <<< 15) ||| (reg s l d.toNat &&& 0x7FFF#32)) }
  | .idp4 u z d a b => some
      { srcs := [src1 a false [.i8x4], src1 b u [.i8x4], src1 d false [.i32]], lat := 6, dst := d, n := 1,
        out := one (fun l => reg s l d.toNat + BitVec.ofInt 32 (dot z (reg s l a.toNat) (src s l b.toNat u))) }
  | _ => none

/-! ## The logic, shift and bit-field words (R137 to R139) -/

/-- A binary word on any tags. -/
def logic2 (s : State) (u : Bool) (d a b : RegNo) (lat : Nat) (f : Word → Word → Word) : LaneWord :=
  { srcs := [src1 a false [], src1 b u []], lat := lat, dst := d, n := 1,
    out := fun l => [(f (reg s l a.toNat) (src s l b.toNat u), anyTag [srcTag s l a.toNat false, srcTag s l b.toNat u])] }

/-- A word on one register of any tag. -/
def logic1 (s : State) (d a : RegNo) (lat : Nat) (f : Word → Word) : LaneWord :=
  { srcs := [src1 a false []], lat := lat, dst := d, n := 1,
    out := fun l => [(f (reg s l a.toNat), anyTag [srcTag s l a.toNat false])] }

/-- A count of bits. -/
def count1 (s : State) (d a : RegNo) (f : Word → Nat) : LaneWord :=
  { srcs := [src1 a false []], lat := 5, dst := d, n := 1, out := one (fun l => BitVec.ofNat 32 (f (reg s l a.toNat))) }

/-- p and e of a field descriptor (R138). -/
def fieldLow (y : Word) : Nat := (y.extractLsb' 0 5).toNat
def fieldEnd (y : Word) : Nat := min (fieldLow y + min (y.extractLsb' 8 6).toNat 32) 32

/-- BFX of R138. -/
def fieldOut (signed : Bool) (x y : Word) : Word :=
  let p := fieldLow y
  let e := fieldEnd y
  if e = p then 0
  else
    let r : Word := (x >>> p) &&& ~~~(0xFFFFFFFF#32 <<< (e - p))
    if signed ∧ x.getLsbD (e - 1) = true then r ||| (0xFFFFFFFF#32 <<< (e - p)) else r

/-- BFI of R138, bit by bit. -/
def fieldIn (old x y : Word) : Word :=
  maskOf (fun i => if fieldLow y ≤ i ∧ i < fieldEnd y then x.getLsbD (i - fieldLow y) else old.getLsbD i)

/-- The number of leading 0 bits: 31 less the number of the highest 1 bit, 32 when there is none. -/
def leadingZerosOf (x : Word) : Nat :=
  match lanesOf.reverse.find? (fun i => x.getLsbD i) with
  | some i => 31 - i
  | none => 32

/-- The entries of R137 and R138 and the logic and shift rows of R139. -/
def logicWord (s : State) : Instr → Option LaneWord
  | .and u d a b => some (logic2 s u d a b 4 (fun x y => x &&& y))
  | .or u d a b => some (logic2 s u d a b 4 (fun x y => x ||| y))
  | .xor u d a b => some (logic2 s u d a b 4 (fun x y => x ^^^ y))
  | .andn u d a b => some (logic2 s u d a b 4 (fun x y => x &&& ~~~y))
  | .shl u d a b => some (logic2 s u d a b 4 (fun x y => x <<< (y.extractLsb' 0 5).toNat))
  | .shr u d a b => some (logic2 s u d a b 4 (fun x y => x >>> (y.extractLsb' 0 5).toNat))
  | .sha u d a b => some (logic2 s u d a b 4 (fun x y => x.sshiftRight (y.extractLsb' 0 5).toNat))
  | .popc d a => some (count1 s d a (fun x => lanesOf.countP (fun i => x.getLsbD i)))
  | .clz d a => some (count1 s d a leadingZerosOf)
  | .brev d a => some (logic1 s d a 5 BitVec.reverse)
  | .bfx u z d a b => some (logic2 s u d a b 5 (fieldOut z))
  | .bfi u d a b => some
      { srcs := [src1 d false [], src1 a false [], src1 b u []], lat := 5, dst := d, n := 1,
        out := fun l => [(fieldIn (reg s l d.toNat) (reg s l a.toNat) (src s l b.toNat u),
          anyTag [srcTag s l d.toNat false, srcTag s l a.toNat false, srcTag s l b.toNat u])] }
  | .andi d a imm => some (logic1 s d a 4 (fun x => x &&& BitVec.zeroExtend 32 imm))
  | .ori d a imm => some (logic1 s d a 4 (fun x => x ||| BitVec.zeroExtend 32 imm))
  | .xori d a imm => some (logic1 s d a 4 (fun x => x ^^^ BitVec.zeroExtend 32 imm))
  | .shli d a imm => some (logic1 s d a 4 (fun x => x <<< imm.toNat))
  | .shri d a imm => some (logic1 s d a 4 (fun x => x >>> imm.toNat))
  | .shai d a imm => some (logic1 s d a 4 (fun x => x.sshiftRight imm.toNat))
  | _ => none

/-! ## Compares, select, 64-bit addresses, format tags (R141 to R143, R200, R201) -/

/-- The relations of R101. -/
def relation (rel : BitVec 3) (x y : Word) : Bool :=
  match rel with
  | 0 => x == y
  | 1 => x != y
  | 2 => BitVec.slt x y
  | 3 => BitVec.sle y x
  | 4 => BitVec.ult x y
  | 5 => BitVec.ule y x
  | 6 => BitVec.sle x y
  | 7 => BitVec.slt y x

/-- 1 or 0. -/
def oneIf (p : Bool) : Word := if p then 1 else 0

/-- A 64-bit result: SetReg(l, d, r[31:0], ADDR) and SetReg(l, d + 1, r[63:32], ADDR). -/
def addrWords (r : DWord) : List (Word × Tag) := [(r.extractLsb' 0 32, .addr), (r.extractLsb' 32 32, .addr)]

/-- The tag that a code of R116 stands for. -/
def codeTag : Nat → Tag
  | 1 => .i32 | 2 => .f32 | 3 => .bf16x2 | 4 => .f16x2 | 5 => .e4m3x4 | 6 => .e5m2x4 | 7 => .e2m1x8 | 8 => .cb4x8
  | 9 => .i8x4 | 10 => .i16x2 | 11 => .e8m0x4 | 12 => .addr | 13 => .poison | _ => .raw

/-- The entries of R141 to R143, R200 and R201. SEL's condition is a value, its two other sources pass their tags on (R117,
R142); TAGRD reads neither contents nor poison. -/
def compareWord (s : State) : Instr → Option LaneWord
  | .icmp rel d a b => some (int2 s false d a b 4 (fun x y => oneIf (relation rel x y)))
  | .icmpi d a rel imm => some
      { srcs := [src1 a false [.i32]], lat := 4, dst := d, n := 1,
        out := one (fun l => oneIf (relation rel (reg s l a.toNat) (BitVec.signExtend 32 imm))) }
  | .sel u d a b => some
      { srcs := [src1 d false [], { src1 a false [] with use := .pass }, { src1 b u [] with use := .pass }], lat := 4, dst := d,
        n := 1,
        out := fun l =>
          if reg s l d.toNat ≠ 0 then [(reg s l a.toNat, srcTag s l a.toNat false)]
          else [(src s l b.toNat u, srcTag s l b.toNat u)] }
  | .a64 u d a b => some
      { srcs := srcPair a.toNat false [.addr, .i32] .value ++ srcPair b.toNat u [.addr, .i32] .value, lat := 5, dst := d, n := 2,
        out := fun l => addrWords (reg64 s l a.toNat + (src s l (b.toNat + 1) u ++ src s l b.toNat u)) }
  | .a64s u sc d a b => some
      { srcs := srcPair a.toNat false [.addr] .value ++ [src1 b u [.i32]], lat := 5, dst := d, n := 2,
        out := fun l => addrWords (reg64 s l a.toNat + BitVec.signExtend 64 (src s l b.toNat u) * BitVec.ofNat 64 (2 ^ sc.toNat)) }
  | .a64i d a imm => some
      { srcs := srcPair a.toNat false [.addr, .i32] .value, lat := 5, dst := d, n := 2,
        out := fun l => addrWords (reg64 s l a.toNat + BitVec.signExtend 64 imm) }
  | .tagrd d a => some
      { srcs := [], lat := 4, dst := d, n := 1,
        out := fun l => [(BitVec.ofNat 32 (Tag.code (srcTag s l a.toNat false)), .i32)] }
  | .tagset d a tgt => some
      { srcs := [src1 a false []], lat := 4, dst := d, n := 1, out := fun l => [(reg s l a.toNat, codeTag tgt.toNat)] }
  | _ => none

/-! ## Across lanes (R144 to R146) -/

/-- The lane whose va SHFL gives lane l: lane k of R144 when it is one of the 32 and active, else l itself. -/
def shuffleFrom (m : Mask) (pat : BitVec 2) (l n : Nat) : Nat :=
  let k : Int := match pat with
    | 0 => n
    | 1 => (l : Int) - n
    | 2 => (l : Int) + n
    | 3 => (l ^^^ n : Nat)
  if 0 ≤ k ∧ k ≤ 31 ∧ m.getLsbD k.toNat = true then k.toNat else l

/-- p(l) of R145. -/
def votes (s : State) (u : Bool) (a b : RegNo) (l : Nat) : Bool := reg s l a.toNat != src s l b.toNat u

/-- A vote over the active lanes; poison of any active lane's va reaches every lane (R117). -/
def voteWord (u : Bool) (d a b : RegNo) (v : Word) : LaneWord :=
  { srcs := [{ src1 a false [] with use := .spread }, src1 b u []], lat := 10, dst := d, n := 1,
    out := fun _ => [(v, .i32)] }

/-- The values of va over the active lanes. -/
def laneVals (s : State) (a : RegNo) : List Word := (Mask.lanes s.cur.mask).map (fun l => reg s l a.toNat)

/-- The least and the greatest of a list as signed numbers, 0 for none. -/
def leastS : List Word → Word
  | [] => 0
  | x :: r => r.foldl (fun p q => if BitVec.slt q p then q else p) x
def greatestS : List Word → Word
  | [] => 0
  | x :: r => r.foldl (fun p q => if BitVec.slt p q then q else p) x

/-- The entries of R144 to R146. -/
def acrossWord (s : State) : Instr → Option LaneWord
  | .shfl u pat d a b => some
      { srcs := [{ src1 a false [] with use := .pass }, src1 b u [.i32]], lat := 8, dst := d, n := 1,
        out := fun l =>
          let k := shuffleFrom s.cur.mask pat l ((src s l b.toNat u).extractLsb' 0 5).toNat
          [(reg s k a.toNat, srcTag s k a.toNat false)] }
  | .vany u d a b => some (voteWord u d a b (oneIf ((Mask.lanes s.cur.mask).any (votes s u a b))))
  | .vall u d a b => some (voteWord u d a b (oneIf ((Mask.lanes s.cur.mask).all (votes s u a b))))
  | .vbal u d a b => some (voteWord u d a b (maskOf (fun l => s.cur.mask.getLsbD l && votes s u a b l)))
  | .radd u d a b => some
      { srcs := [{ src1 a false [.i32] with use := .spread }, src1 b u [.i32]], lat := 10, dst := d, n := 1,
        out := one (fun l => (laneVals s a).foldl (fun x y => x + y) 0 + src s l b.toNat u) }
  | .rmin d a => some
      { srcs := [{ src1 a false [.i32] with use := .spread }], lat := 10, dst := d, n := 1, out := one (fun _ => leastS (laneVals s a)) }
  | .rmax d a => some
      { srcs := [{ src1 a false [.i32] with use := .spread }], lat := 10, dst := d, n := 1,
        out := one (fun _ => greatestS (laneVals s a)) }
  | _ => none

end Sys2Proof.Machine.Rules

open Sys2Proof Sys2Proof.Machine Sys2Proof.Machine.Rules

/-- The integer words (R136, IADDI of R139, R140, IDP4 of R190, with the tags of R134 and the latencies of R135): each completes,
its results are those of the manual's entry and land after its latency in the active lanes alone, and nothing else of the
machine changes but the lanes' lpc. -/
def Obligations.IntegerWordsComplete : Prop :=
  ∀ (s : State) (i : Instr) (w : LaneWord), integerWord s i = some w → Ready s i → Closed s → Sound s w.srcs →
    exec i s = .next (done (writes s w))

/-- The logic, shift and bit-field words (R137, R138, the logic and shift rows of R139): each completes with the result of its
entry in the active lanes alone, and nothing else changes but lpc. -/
def Obligations.LogicAndFieldWordsComplete : Prop :=
  ∀ (s : State) (i : Instr) (w : LaneWord), logicWord s i = some w → Ready s i → Closed s → Sound s w.srcs →
    exec i s = .next (done (writes s w))

/-- Compares, select, 64-bit addresses and format tags (R141 to R143, R200, R201): each completes with the result of its entry in
the active lanes alone, and nothing else changes but lpc. -/
def Obligations.CompareSelectAddressTagWordsComplete : Prop :=
  ∀ (s : State) (i : Instr) (w : LaneWord), compareWord s i = some w → Ready s i → Closed s → Sound s w.srcs →
    exec i s = .next (done (writes s w))

/-- SHFL, the votes and the reductions (R144 to R146): each completes with the result of its entry in the active lanes alone,
and nothing else changes but lpc. -/
def Obligations.AcrossLaneWordsComplete : Prop :=
  ∀ (s : State) (i : Instr) (w : LaneWord), acrossWord s i = some w → Ready s i → Closed s → Sound s w.srcs →
    exec i s = .next (done (writes s w))

/-! ## Floating point, packed elements, conversions, codebooks (R180 to R199) -/

namespace Sys2Proof.Machine.Rules

/-- What the manual's entry of a word with a source format says: the registers whose format it reads, its other sources, the RAW
reading, its latency, its destination run, and for a source format and a lane the result words, their tag and the flags. -/
structure FloatWord where
  xs : List Src
  ys : List Src
  raw : Tag
  lat : Nat
  dst : RegNo
  n : Nat
  out : Tag → Nat → List Word × Tag × Word

/-- The source format of a lane (R180): the tag that its format registers other than RAW and POISON carry, else the RAW reading. -/
def sourceFormat (s : State) (w : FloatWord) (l : Nat) : Tag :=
  ((w.xs.map (fun x => srcTag s l x.reg x.uni)).find? (fun t => t != .raw && t != .poison)).getD w.raw

/-- Two format registers of an active lane carry different formats (R180). -/
def formatsDiffer (s : State) (w : FloatWord) : Prop := State.mixedFormats s w.xs = true

/-- The results, as those of a lane-by-lane word. -/
def floatLanes (s : State) (w : FloatWord) : LaneWord :=
  { srcs := w.xs ++ w.ys, lat := w.lat, dst := w.dst, n := w.n,
    out := fun l => let r := w.out (sourceFormat s w l) l; r.1.map (fun v => (v, r.2.1)) }

/-- The flags that some active lane raises, ORed (R181). -/
def floatFlags (s : State) (w : FloatWord) : Word :=
  (Mask.lanes s.cur.mask).foldl (fun v l => v ||| (w.out (sourceFormat s w l) l).2.2) 0

/-- The state after the word: its results placed, and its flags, which land in the cycle of the last quarter's result write, 3
cycles after the first (R183). -/
def floatDone (s : State) (w : FloatWord) : State := done (State.raise (writes s (floatLanes s w)) (floatFlags s w) w.lat)

/-- A binary FP32 word: x and y as numbers, the third operand from vd when `z`. -/
def f32two (s : State) (u z : Bool) (d a b : RegNo) (lat : Nat) (f : Nat → Nat → Nat → Nat × Word) : FloatWord :=
  { xs := [src1 a false [.f32], src1 b u [.f32]] ++ (if z then [src1 d false [.f32]] else []), ys := [], raw := .f32,
    lat := lat, dst := d, n := 1,
    out := fun _ l =>
      let r := f (reg s l a.toNat).toNat (src s l b.toNat u).toNat (reg s l d.toNat).toNat
      ([BitVec.ofNat 32 r.1], .f32, r.2) }

/-- A unary FP32 word. -/
def f32one (s : State) (d a : RegNo) (lat : Nat) (f : Nat → Nat × Word) : FloatWord :=
  { xs := [src1 a false [.f32]], ys := [], raw := .f32, lat := lat, dst := d, n := 1,
    out := fun _ l => let r := f (reg s l a.toNat).toNat; ([BitVec.ofNat 32 r.1], .f32, r.2) }

/-- An exact value with the flags it has raised, rounded once into a format (R168 to R172). -/
def once (m : Fmt) (mode : Mode) (x : Num × Word) : Nat × Word :=
  let r := m.round mode x.1
  (r.1, x.2 ||| r.2)

/-- x × y + z, formed exactly and rounded once; the flags of the product and of the sum (R185). -/
def fused (m : Fmt) (mode : Mode) (x y z : Num) : Nat × Word :=
  let p := Num.mul x y
  let t := Num.add mode p.1 z
  once m mode (t.1, p.2 ||| t.2)

/-- A change of sign: the canonical NaN for a NaN, no flag (R186). -/
def signed (x : Nat) (r : Nat) : Nat × Word := (if (Fmt.f32.decode x).isNan then 0x7FC00000 else r, 0)

/-- The entries of R185 to R188. -/
def scalarFloat (s : State) : Instr → Option FloatWord
  | .fadd u rm d a b => some (f32two s u false d a b 6 (fun x y _ =>
      once .f32 rm (Num.add rm (Fmt.f32.decode x) (Fmt.f32.decode y))))
  | .fsub u rm d a b => some (f32two s u false d a b 6 (fun x y _ =>
      once .f32 rm (Num.add rm (Fmt.f32.decode x) (Num.negate (Fmt.f32.decode y)))))
  | .fmul u rm d a b => some (f32two s u false d a b 6 (fun x y _ =>
      once .f32 rm (Num.mul (Fmt.f32.decode x) (Fmt.f32.decode y))))
  | .ffma u rm d a b => some (f32two s u true d a b 6 (fun x y z =>
      fused .f32 rm (Fmt.f32.decode x) (Fmt.f32.decode y) (Fmt.f32.decode z)))
  | .ffms u rm d a b => some (f32two s u true d a b 6 (fun x y z =>
      fused .f32 rm (Fmt.f32.decode x) (Fmt.f32.decode y) (Num.negate (Fmt.f32.decode z))))
  | .fmin u d a b => some (f32two s u false d a b 4 (fun x y _ => (Fmt.f32.pick false x y, 0)))
  | .fmax u d a b => some (f32two s u false d a b 4 (fun x y _ => (Fmt.f32.pick true x y, 0)))
  | .fneg d a => some (f32one s d a 4 (fun x => signed x (x ^^^ 0x80000000)))
  | .fabs d a => some (f32one s d a 4 (fun x => signed x (x % 0x80000000)))
  | .fcpsgn u d a b => some (f32two s u false d a b 4 (fun x y _ =>
      signed x (x % 0x80000000 + (if (Fmt.f32.decode y).neg then 0x80000000 else 0))))
  | .fcmp rel d a b => some
      { xs := [src1 a false [.f32], src1 b false [.f32]], ys := [], raw := .f32, lat := 4, dst := d, n := 1,
        out := fun _ l =>
          let r := fcmpHolds rel (reg s l a.toNat).toNat (reg s l b.toNat).toNat
          ([oneIf r.1], .i32, r.2) }
  | .fsqrt rm d a => some (f32one s d a 16 (fsqrt rm))
  | .frcp d a => some (f32one s d a 16 frcp)
  | .frsq d a => some (f32one s d a 16 frsq)
  | .fexp2 d a => some (f32one s d a 18 fexp2)
  | .flog2 d a => some (f32one s d a 18 flog2)
  | .ftanh d a => some (f32one s d a 18 ftanh)
  | _ => none

/-- A packed-pair word: `f` on elements 0 and 1 in the source format; the flags of both are ORed (R189). -/
def pairWord (s : State) (u z : Bool) (d a b : RegNo) (lat : Nat) (f : Fmt → Nat → Nat → Nat → Nat × Word) : FloatWord :=
  { xs := [src1 a false halfTags, src1 b u halfTags] ++ (if z then [src1 d false halfTags] else []), ys := [], raw := .bf16x2,
    lat := lat, dst := d, n := 1,
    out := fun t l =>
      let e := fun (i : Nat) => f t.fmt (element (reg s l a.toNat) i 16) (element (src s l b.toNat u) i 16)
        (element (reg s l d.toNat) i 16)
      ([pack 16 [(e 0).1, (e 1).1]], t, (e 0).2 ||| (e 1).2) }

/-- A conversion between formats with the same number of elements: each element's value rounded into the target (R191). -/
def convertWord (s : State) (rm : BitVec 2) (d a : RegNo) (t : Tag) (accept : List Tag) (asRaw : Tag) : FloatWord :=
  { xs := [src1 a false accept], ys := [], raw := asRaw, lat := 5, dst := d, n := 1,
    out := fun f l =>
      let x := reg s l a.toNat
      let r := roundAll t rm ((List.range f.elements.1).map (fun i => f.value (element x i f.elements.2)))
      ([pack f.elements.2 r.1], t, r.2) }

/-- Packing n registers into n elements (R192). -/
def packWord (s : State) (rm : BitVec 2) (d a : RegNo) (n : Nat) (t f : Tag) : FloatWord :=
  { xs := srcRun a.toNat n false [f] .value, ys := [], raw := f, lat := 5, dst := d, n := 1,
    out := fun _ l =>
      let r := roundAll t rm ((List.range n).map (fun k => f.value (reg s l (a.toNat + k)).toNat))
      ([pack (32 / n) r.1], t, r.2) }

/-- Unpacking n elements into n registers, exactly and with no flag (R193). -/
def unpackWord (s : State) (d a : RegNo) (n : Nat) (t : Tag) (accept : List Tag) (asRaw : Tag) : FloatWord :=
  { xs := [src1 a false accept], ys := [], raw := asRaw, lat := 5, dst := d, n := n,
    out := fun f l =>
      ((List.range n).map (fun k => BitVec.ofNat 32 (Tag.round t 0 (f.value (element (reg s l a.toNat) k (32 / n)))).1), t, 0) }

/-- Eight 16-bit elements of a run of 4 registers, two in each (R193, R196). -/
def eight (s : State) (l a : Nat) : List Nat := (List.range 8).map (fun k => element (reg s l (a + k / 2)) (k % 2) 16)

/-- The entries of R189, R191 to R193, R198 and R199. -/
def packedFloat (s : State) : Instr → Option FloatWord
  | .hadd2 u rm d a b => some (pairWord s u false d a b 6 (fun m x y _ => once m rm (Num.add rm (m.decode x) (m.decode y))))
  | .hmul2 u rm d a b => some (pairWord s u false d a b 6 (fun m x y _ => once m rm (Num.mul (m.decode x) (m.decode y))))
  | .hfma2 u rm d a b => some (pairWord s u true d a b 6 (fun m x y z => fused m rm (m.decode x) (m.decode y) (m.decode z)))
  | .hmax2 u d a b => some (pairWord s u false d a b 4 (fun m x y _ => (m.pick true x y, 0)))
  | .cvtf rm d a tgt =>
    match tgt.toNat with
    | 2 => some (f32one s d a 5 (fun x => signed x x))
    | 3 => some (convertWord s rm d a .bf16x2 [.f16x2] .f16x2)
    | 4 => some (convertWord s rm d a .f16x2 [.bf16x2] .bf16x2)
    | 5 => some (convertWord s rm d a .e4m3x4 [.e5m2x4] .e5m2x4)
    | 6 => some (convertWord s rm d a .e5m2x4 [.e4m3x4] .e4m3x4)
    | _ => none
  | .cvti rm d a tgt =>
    match tgt.toNat with
    | 2 => some (convertWord s rm d a .f32 [.i32] .i32)
    | 3 => some (convertWord s rm d a .bf16x2 [.i16x2] .i16x2)
    | 4 => some (convertWord s rm d a .f16x2 [.i16x2] .i16x2)
    | _ => none
  | .cvtfi rm d a tgt =>
    match tgt.toNat with
    | 1 => some (convertWord s rm d a .i32 [.f32] .f32)
    | 10 => some (convertWord s rm d a .i16x2 [.bf16x2, .f16x2] .bf16x2)
    | _ => none
  | .pk2 rm d a tgt =>
    match tgt.toNat with
    | 3 => some (packWord s rm d a 2 .bf16x2 .f32)
    | 4 => some (packWord s rm d a 2 .f16x2 .f32)
    | 10 => some (packWord s rm d a 2 .i16x2 .i32)
    | _ => none
  | .pk4 rm d a tgt =>
    match tgt.toNat with
    | 5 => some (packWord s rm d a 4 .e4m3x4 .f32)
    | 6 => some (packWord s rm d a 4 .e5m2x4 .f32)
    | 9 => some (packWord s rm d a 4 .i8x4 .i32)
    | _ => none
  | .unpk2 d a tgt =>
    match tgt.toNat with
    | 1 => some (unpackWord s d a 2 .i32 [.i16x2] .i16x2)
    | 2 => some (unpackWord s d a 2 .f32 [.bf16x2, .f16x2] .bf16x2)
    | _ => none
  | .unpk4 d a tgt =>
    match tgt.toNat with
    | 1 => some (unpackWord s d a 4 .i32 [.i8x4] .i8x4)
    | 2 => some (unpackWord s d a 4 .f32 [.e4m3x4, .e5m2x4] .e4m3x4)
    | _ => none
  | .dqe2 rm d a tgt =>
    let t := codeTag tgt.toNat
    some
      { xs := [src1 a false [.e2m1x8]], ys := [{ reg := a.toNat + 1, uni := false, tags := [.e8m0x4], use := .value }],
        raw := .e2m1x8, lat := 5, dst := d, n := 4,
        out := fun _ l =>
          let k := ((reg s l (a.toNat + 1)).extractLsb' 0 8).toNat
          if k = 255 then (packHalves (List.replicate 8 t.fmt.nan), t, FpFlag.nv)
          else
            let r := roundAll t rm ((List.range 8).map (fun i =>
              Num.scale (Fmt.e2m1.decode (element (reg s l a.toNat) i 4)) ((k : Int) - 127)))
            (packHalves r.1, t, r.2) }
  | .qe2 rm d a => some
      { xs := srcRun a.toNat 4 false halfTags .value, ys := [{ reg := d.toNat + 1, uni := false, tags := [.e8m0x4], use := .value }],
        raw := .bf16x2, lat := 5, dst := d, n := 1,
        out := fun t l =>
          let k := ((reg s l (d.toNat + 1)).extractLsb' 0 8).toNat
          if k = 255 then ([0], .e2m1x8, FpFlag.nv)
          else
            let rs := (eight s l a.toNat).map (fun e =>
              let r := Fmt.e2m1.round rm (Num.scale (t.fmt.decode e) (127 - (k : Int)))
              (if r.1 = 8 then 0 else r.1, r.2))
            ([pack 4 (rs.map (fun r => r.1))], .e2m1x8, rs.foldl (fun g r => g ||| r.2) 0) }
  | _ => none

/-- The entries of R196 and R197: the words that decode through codebook slot CBS. -/
def codebookFloat (s : State) : Instr → Option FloatWord
  | .dqcb rm d a tgt =>
    let t := codeTag tgt.toNat
    some
      { xs := [src1 a false [.cb4x8]], ys := [], raw := .cb4x8, lat := 5, dst := d, n := 4,
        out := fun _ l =>
          let r := roundAll t rm ((List.range 8).map (fun k =>
            Fmt.bf16.decode (Group.codebook s.g s.g.cbs.toNat (element (reg s l a.toNat) k 4))))
          (packHalves r.1, t, r.2) }
  | .qcb rm d a => some
      { xs := srcRun a.toNat 4 false halfTags .value, ys := [], raw := .bf16x2, lat := 8, dst := d, n := 1,
        out := fun t l =>
          let book := (List.range 16).map (fun i => Fmt.bf16.decode (Group.codebook s.g s.g.cbs.toNat i))
          let rs := (eight s l a.toNat).map (fun e => quantise rm book (t.fmt.decode e))
          ([pack 4 (rs.map (fun r => r.1))], .cb4x8, rs.foldl (fun g r => g ||| r.2) 0) }
  | _ => none

/-- An LDCB into the selected slot has not returned (R194). -/
def slotAwaited (s : State) : Prop := ∃ o ∈ s.g.outst, o.op = .ldcb s.g.cbs.toNat

end Sys2Proof.Machine.Rules

/-- The scalar floating-point words (R185 to R188, with R180, R181 and R183): each completes, the result is the exact value rounded
once or the selection of its entry, its flags are ORed over the active lanes and land with the last quarter's result, and nothing
else changes but lpc. -/
def Obligations.ScalarFloatWordsComplete : Prop :=
  ∀ (s : State) (i : Instr) (w : FloatWord), scalarFloat s i = some w → Ready s i → Closed s → Sound s (w.xs ++ w.ys) →
    ¬ formatsDiffer s w → exec i s = .next (floatDone s w)

/-- The packed words, conversions, packing, unpacking and the scaled 4-bit words (R189, R191 to R193, R198, R199): each completes
element by element in its source format, and nothing else changes but lpc. -/
def Obligations.PackedAndConvertWordsComplete : Prop :=
  ∀ (s : State) (i : Instr) (w : FloatWord), packedFloat s i = some w → Ready s i → Closed s → Sound s (w.xs ++ w.ys) →
    ¬ formatsDiffer s w → exec i s = .next (floatDone s w)

/-- DQCB and QCB (R194, R196, R197): with the selected slot below the launch record's CB and no LDCB into it awaited, each
completes through the slot's entries; while one is awaited, the word waits with REGDEP; a slot at or above CB traps ILLEGAL
(R166). CBSEL (R195) sets CBS and nothing else. -/
def Obligations.CodebookWordsComplete : Prop :=
  (∀ (s : State) (i : Instr) (w : FloatWord), codebookFloat s i = some w → Ready s i → Closed s → Sound s (w.xs ++ w.ys) →
    ¬ formatsDiffer s w → ¬ slotAwaited s → s.g.cbs.toNat < s.g.lr.cb → exec i s = .next (floatDone s w)) ∧
  (∀ (s : State) (i : Instr) (w : FloatWord), codebookFloat s i = some w → Ready s i → Closed s → slotAwaited s →
    exec i s = .next (State.note s (.stalled .regdep))) ∧
  (∀ (s : State) (i : Instr) (w : FloatWord), codebookFloat s i = some w → Ready s i → Closed s → Sound s (w.xs ++ w.ys) →
    ¬ formatsDiffer s w → ¬ slotAwaited s → s.g.lr.cb ≤ s.g.cbs.toNat →
    exec i s = .next (State.takeTrap s .illegal s.cur.mask 0 s.cur.chainPc)) ∧
  (∀ (s : State) (k : BitVec 3), Ready s (.cbsel k) → Closed s →
    exec (.cbsel k) s = .next (done { s with g := { s.g with cbs := k } }))

/-- Two format registers of an active lane with different formats trap FORMAT before the chain (R180). The scalar words accept one
format alone, so it concerns the packed and the codebook words. -/
def Obligations.MixedSourceFormatsTrap : Prop :=
  ∀ (s : State) (i : Instr) (w : FloatWord), packedFloat s i = some w ∨ (codebookFloat s i = some w ∧ ¬ slotAwaited s) → Ready s i →
    Closed s → Sound s (w.xs ++ w.ys) → formatsDiffer s w → exec i s = .next (State.takeTrap s .format s.cur.mask 0 s.cur.chainPc)

/-! ## Control, state registers, traps, regions, registers of a group (R147 to R155, R217, R285, R293 to R295, R316 to R323) -/

namespace Sys2Proof.Machine.Rules

/-- The state with another group at the issue port. -/
def withG (s : State) (g : Group) : State := { s with g := g }

/-- The lanes of a mask go where `f` says; nothing else of the group changes. -/
def lanesTo (s : State) (f : Nat → Word) : State := withG s (Group.mapLanes s.g s.cur.mask (fun l x => { x with lpc := f l }))

/-- The source of a condition or a target: poison is consumed (R117). -/
def consumed (n : RegNo) (u : Bool) (tags : List Tag) : Src := { reg := n.toNat, uni := u, tags := tags, use := .consume }

/-- Every active lane's value of a register is a valid lpc (R107). -/
def TargetsValid (s : State) (a : RegNo) (u : Bool) : Prop :=
  ∀ l ∈ Mask.lanes s.cur.mask, (src s l a.toNat u).toNat % 4 = 0 ∧ ¬ (src s l a.toNat u).toNat / 4 % 4 = 3

/-- The active lanes whose target is no valid lpc. -/
def badTargets (s : State) (a : RegNo) (u : Bool) : Mask :=
  maskOf (fun l => s.cur.mask.getLsbD l &&
    !((src s l a.toNat u).toNat % 4 == 0 && (src s l a.toNat u).toNat / 4 % 4 != 3))

/-- A number as two I32 words, the low one first. -/
def twoWords (n : Nat) : List (Word × Tag) := [(BitVec.ofNat 32 n, .i32), (BitVec.ofNat 32 (n / 2 ^ 32), .i32)]

/-- What a state register reads in a lane (R68, R152). -/
def stateValue (s : State) (n : Nat) (l : Nat) : List (Word × Tag) :=
  let i32 := fun (v : Nat) => [((BitVec.ofNat 32 v : Word), Tag.i32)]
  if n = 0x000 then i32 l
  else if n = 0x001 then i32 (l / 8)
  else if n = 0x002 then i32 s.g.grp
  else if n = 0x003 then i32 s.g.blk
  else if n = 0x004 then i32 (Group.gang s.g)
  else if n = 0x005 then twoWords s.g.seq
  else if n = 0x006 then i32 (Role.code s.g.role)
  else if n < 0x010 then i32 (levelIndexOf s.g l (n - 8))
  else if n = 0x010 then twoWords s.clk
  else if n = 0x011 then i32 s.g.hall
  else if n = 0x012 then i32 (s.g.hall / 4)
  else if n = 0x013 then i32 (s.g.hall / 96)
  else if n = 0x014 then i32 Config.pkgId.toNat
  else if n = 0x015 then twoWords (match State.task? s s.g.ctx s.g.seq with | some t => t.keylo.toNat | none => 0)
  else if n = 0x018 then [(s.g.fpflags, .i32)]
  else if n = 0x019 then i32 s.g.cbs.toNat
  else if n = 0x020 then [(s.g.trapc, .i32)]
  else if n = 0x021 then [(s.g.trapa.extractLsb' 0 32, .addr), (s.g.trapa.extractLsb' 32 32, .addr)]
  else if n = 0x022 then [(s.g.trapm, .i32)]
  else if n = 0x023 then [(s.g.trappc, .i32)]
  else if n = 0x040 then [(s.cur.wordPc, .i32)]
  else [(s.g.stalls.getD (n - 0x030) 0, .i32)]

/-- RDS of a state: vd, or a pair for TASK, CLK, KEYLO and TRAPA. -/
def readWord (s : State) (d : RegNo) (n : BitVec 10) : LaneWord :=
  { srcs := [], lat := 6, dst := d, n := if n = 0x005 ∨ n = 0x010 ∨ n = 0x015 ∨ n = 0x021 then 2 else 1,
    out := stateValue s n.toNat }

/-- Flags of an earlier chain, or of an AFADD, have not landed (R183, R276). -/
def FlagsOwed (s : State) : Prop :=
  (∃ x ∈ s.g.flags, x.since < s.clk) ∨ (∃ o ∈ s.g.outst, ∃ n d sc ord, o.op = .atomic .fadd n d sc ord)

/-- The value a WRS takes: the lowest active lane's (R154). -/
def lowestValue (s : State) (a : RegNo) : Word := reg s (Mask.lowest s.cur.mask) a.toNat

/-- The source of a WRS. -/
def lowestSrc (a : RegNo) : Src := { reg := a.toNat, uni := false, tags := [.i32], use := .lowest }

/-- The idempotent region ends (R30, R216, R322): buffered stores leave the buffer, stand among the outstanding accesses in issue
order and can no longer be discarded, the restart count is 0, and the next region starts at the following chain. -/
def regionEnds (s : State) : State :=
  { s with
    g := { s.g with
      outst := s.g.sbuf.foldl (fun os w => placeBy (fun a b => decide (a.no ≤ b.no))
        { no := w.no, op := .store w, mask := 0, parts := [], region := s.g.regions, lc := w.lc, sent := none } os) s.g.outst,
      sbuf := [], regions := s.g.regions + 1, restarts := 0 },
    cur := { s.cur with fresh := true } }

/-- The handler is left: the group's own region start record stands (R317, R318). -/
def leaving (t : State) : State := { t with cur := { t.cur with fresh := false } }

/-- No error of a CPYG that a wait for all but the last `n` commands covers, and no SHADOW of a tile, waits to be delivered. -/
def NothingDeferred (g : Group) (n : Nat) : Prop := Group.gatherError g n = none ∧ Group.shadowError g = none

/-- Every active lane has an open atomic region. -/
def AllOpen (s : State) : Prop := ∀ l ∈ Mask.lanes s.cur.mask, (Group.lane s.g l).region.isOpen = true

/-- The word issues in lanes with open regions: as `Ready`, and the active lanes that are left once the packet has been counted
(R290) are some. -/
def ReadyInside (s : State) (i : Instr) : Prop := Ready s i ∧ (State.countPackets s).cur.mask ≠ 0

end Sys2Proof.Machine.Rules

/-- BR, BRZ, JMP and CALL (R147, R148): each active lane goes to T or on; CALL writes the link NextWord to vp, I32, 6 cycles later.
Nothing else changes. -/
def Obligations.BranchWordsComplete : Prop :=
  ∀ (s : State) (p : RegNo) (off : BitVec 15) (slot : BitVec 2), Closed s →
    (Ready s (.br p off slot) → Sound s [consumed p false []] → exec (.br p off slot) s =
      .next (jumped (lanesTo s (fun l =>
        if reg s l p.toNat ≠ 0 then branchTarget s.cur.wordPc off slot else nextWord s.cur.wordPc)))) ∧
    (Ready s (.brz p off slot) → Sound s [consumed p false []] → exec (.brz p off slot) s =
      .next (jumped (lanesTo s (fun l =>
        if reg s l p.toNat = 0 then branchTarget s.cur.wordPc off slot else nextWord s.cur.wordPc)))) ∧
    (Ready s (.jmp off slot) → exec (.jmp off slot) s =
      .next (jumped (lanesTo s (fun _ => branchTarget s.cur.wordPc off slot)))) ∧
    (Ready s (.call p off slot) → exec (.call p off slot) s =
      .next (jumped (lanesTo (writes s
        { srcs := [], lat := 6, dst := p, n := 1, out := one (fun _ => nextWord s.cur.wordPc) })
        (fun _ => branchTarget s.cur.wordPc off slot))))

/-- JR and RET (R107, R149): with every active lane's target a valid lpc each active lane goes there and nothing else changes; an
invalid one traps BOUNDS with the mask of those lanes. -/
def Obligations.IndirectJumpsComplete : Prop :=
  ∀ (s : State) (a : RegNo) (u : Bool) (i : Instr), i = .jr a u ∨ i = .ret a u → Closed s → Ready s i →
    Sound s [consumed a u [.i32]] →
    (TargetsValid s a u → exec i s = .next (jumped (lanesTo s (fun l => src s l a.toNat u)))) ∧
    (¬ TargetsValid s a u → exec i s = .next (State.takeTrap s .bounds (badTargets s a u) 0 s.cur.chainPc))

/-- NOP does nothing beyond the advance (R103); YIELD makes the group the youngest of its flight (R151); IDEM ends the idempotent
region (R322); WAITC with its counter at most n goes on, on scnt after it has ended the region (R217, R234). -/
def Obligations.PlainControlWordsComplete : Prop :=
  ∀ s : State, Closed s →
    (Ready s .nop → exec .nop s = .next (done s)) ∧
    (Ready s .yield → exec .yield s = .next (done { withG s { s.g with age := s.ageNext } with ageNext := s.ageNext + 1 })) ∧
    (Ready s .idem → exec .idem s = .next (done (regionEnds s))) ∧
    (∀ n, Ready s (.waitc 0 n) → s.g.lcnt ≤ n.toNat → exec (.waitc 0 n) s = .next (done s)) ∧
    (∀ n, Ready s (.waitc 1 n) → s.g.scnt ≤ n.toNat → exec (.waitc 1 n) s = .next (done (regionEnds s))) ∧
    (∀ n, Ready s (.waitc 2 n) → s.g.acnt ≤ n.toNat → exec (.waitc 2 n) s = .next (done s)) ∧
    (∀ n, Ready s (.waitc 3 n) → s.g.ecnt + Group.openProps s.g ≤ n.toNat → NothingDeferred s.g n.toNat →
      exec (.waitc 3 n) s = .next (done s))

/-- RDS (R152, R153): vd (a pair for a pair state) receives the state's value in each active lane 6 cycles later, and nothing
else changes; of FPFLAGS it waits, with REGDEP, while flags of earlier chains are owed (R183). -/
def Obligations.ReadStateCompletes : Prop :=
  ∀ (s : State) (d : RegNo) (n : BitVec 10), Closed s → Ready s (.rds d n) →
    ((n = 0x018 → ¬ FlagsOwed s) → exec (.rds d n) s =
      .next (done (writes s (readWord s d n)))) ∧
    (n = 0x018 → FlagsOwed s → exec (.rds d n) s = .next (State.note s (.stalled .regdep)))

/-- WRS (R107, R154, R181 to R183): FPFLAGS, FPMODE and TRAPPC take the lowest active lane's value, lpc takes each active lane's;
a reserved bit traps ILLEGAL, an invalid lpc BOUNDS, TRAPPC outside trap mode ILLEGAL. -/
def Obligations.WriteStateCompletes : Prop :=
  ∀ (s : State) (a : RegNo), Closed s →
    (Ready s (.wrs a 0x018) → Sound s [lowestSrc a] →
      ((lowestValue s a).toNat < 32 → ¬ FlagsOwed s → exec (.wrs a 0x018) s =
        .next (done (withG s { s.g with fpflags := lowestValue s a }))) ∧
      (32 ≤ (lowestValue s a).toNat → exec (.wrs a 0x018) s =
        .next (State.takeTrap s .illegal s.cur.mask 0 s.cur.chainPc))) ∧
    (Ready s (.wrs a 0x019) → Sound s [lowestSrc a] →
      ((lowestValue s a).toNat < 8 → exec (.wrs a 0x019) s =
        .next (done (withG s { s.g with cbs := (lowestValue s a).extractLsb' 0 3 }))) ∧
      (8 ≤ (lowestValue s a).toNat → exec (.wrs a 0x019) s =
        .next (State.takeTrap s .illegal s.cur.mask 0 s.cur.chainPc))) ∧
    (Ready s (.wrs a 0x023) →
      (s.g.trapMode = true → Sound s [lowestSrc a] → exec (.wrs a 0x023) s =
        .next (done (withG s { s.g with trappc := lowestValue s a }))) ∧
      (s.g.trapMode = false → exec (.wrs a 0x023) s = .next (State.takeTrap s .illegal s.cur.mask 0 s.cur.chainPc))) ∧
    (Ready s (.wrs a 0x040) → Sound s [consumed a false [.i32]] →
      (TargetsValid s a false → exec (.wrs a 0x040) s =
        .next (jumped (withG s { (lanesTo s (fun l => reg s l a.toNat)).g with syncOwed := some 6 }))) ∧
      (¬ TargetsValid s a false → exec (.wrs a 0x040) s =
        .next (State.takeTrap s .bounds (badTargets s a false) 0 s.cur.chainPc)))

/-- EXIT (R108, R150): the active lanes have exited, their registers kept; when some lane is left, that is all. The EXIT that
leaves none ends the idempotent region, and with every counter zero, no tile operation under way and nothing deferred the group
has exited. -/
def Obligations.ExitCompletes : Prop :=
  ∀ s : State, Closed s → Ready s .exit →
    let t := withG s (Group.mapLanes s.g s.cur.mask (fun _ l => { l with mode := .exited, lpc := s.cur.chainPc }))
    (Group.allExited t.g = false → exec .exit s = .next (jumped t)) ∧
    (Group.allExited t.g = true → Group.quiet s.g = true → s.g.sbuf = [] → s.g.mma = [] → Group.tileMoves s.g = false →
      NothingDeferred s.g 0 →
      exec .exit s = .next (jumped (withG (regionEnds t)
        { (regionEnds t).g with exiting := false, hasExited := true, wait := none })))

/-- TRET, TABN and TKILL (R318): in trap mode, with lcnt, scnt and acnt zero, TRET restores lanes and v1 to v7 from the record of
the entry and gives the held stores back, TABN restores them, discards the held stores and restarts the region, TKILL fails the
task with the cause in TRAPC; with any counter nonzero each waits parked, with CNTWAIT; outside trap mode each traps
ILLEGAL. -/
def Obligations.HandlerWordsComplete : Prop :=
  ∀ (s : State) (r : TrapRec) (i : Instr), i = .tret ∨ i = .tabn ∨ i = .tkill → Closed s → Ready s i →
    (s.g.trapMode = true → s.g.trapRec = some r → s.g.lcnt = 0 → s.g.scnt = 0 → s.g.acnt = 0 →
      (i = .tret → validLpc s.g.trappc = true → exec i s =
        .next (State.note (leaving (withG (regionEnds s) (Group.returnTrap (regionEnds s).g r))) .done)) ∧
      (i = .tabn → exec i s =
        .next (State.note (leaving (withG (regionEnds s) (Group.abandonTrap (regionEnds s).g r))) .done)) ∧
      (i = .tkill → exec i s =
        .next (jumped (State.failTask (leaving (regionEnds s)) s.g.ctx s.g.seq s.g.trapc.toNat)))) ∧
    (s.g.trapMode = true → s.g.trapRec = some r → ¬ (s.g.lcnt = 0 ∧ s.g.scnt = 0 ∧ s.g.acnt = 0) → exec i s =
      .next (State.note (State.park (regionEnds s) i 1 0 .cntwait) (.parked .cntwait))) ∧
    (s.g.trapMode = false → exec i s = .next (State.takeTrap s .illegal s.cur.mask 0 s.cur.chainPc))

/-- TRAP and BRK (R314, R323): their chain takes effect, then the trap is taken with TRAPI or BREAK, the immediate as its
address and NextWord as TRAPPC; with the debug right granted BRK halts the group instead (R364). -/
def Obligations.TrapWordsComplete : Prop :=
  ∀ (s : State) (imm : BitVec 10), Closed s →
    (Ready s (.trap imm) → exec (.trap imm) s =
      .next (State.takeTrap (State.settleStart (State.advance s)) .trapi s.cur.mask (BitVec.zeroExtend 64 imm)
        (nextWord s.cur.wordPc))) ∧
    (Ready s (.brk imm) → State.debugRight s = false → exec (.brk imm) s =
      .next (State.takeTrap (State.settleStart (State.advance s)) .brk s.cur.mask (BitVec.zeroExtend 64 imm)
        (nextWord s.cur.wordPc))) ∧
    (Ready s (.brk imm) → State.debugRight s = true → exec (.brk imm) s = .next (jumped (State.haltHere (State.advance s) 0x0D)))

/-- RBEG, RABT, RCMT and RSTAT (R285, R286, R291, R294, R295): RBEG
marks a traced task volatile and opens a region in every active lane; RABT aborts every active
lane's region with EXPLICIT, and RCMT ends the idempotent region and waits with REGION for the outcome, each trapping ILLEGAL when
some active lane has none; RSTAT reads each lane's status word 6 cycles later. -/
def Obligations.AtomicRegionWordsComplete : Prop :=
  (∀ (s : State) (p : RegNo) (off : BitVec 15) (slot : BitVec 2), Closed s → Ready s (.rbeg p off slot) →
    let t := State.markVolatile s s.g.ctx s.g.seq
    exec (.rbeg p off slot) s = .next (done (withG t ((Mask.lanes t.cur.mask).foldl (fun g l =>
      Group.openRegion g l p (branchTarget t.cur.wordPc off slot) t.cur.wordPc) t.g)))) ∧
  (∀ (s : State) (d : RegNo), Closed s → Ready s (.rstat d) → Sound s [] → exec (.rstat d) s =
    .next (done (writes s
      { srcs := [], lat := 6, dst := d, n := 1, out := one (fun l => (Group.lane s.g l).region.status) }))) ∧
  (∀ s : State, ReadyInside s .rabt → AllOpen (State.countPackets s) →
    exec .rabt s = .next (jumped (withG (State.countPackets s)
      ((Mask.lanes (State.countPackets s).cur.mask).foldl (fun g l => Group.abortLane g l 6 0) (State.countPackets s).g)))) ∧
  (∀ s : State, ReadyInside s .rcmt → (State.countPackets s).g.wait = none → AllOpen (State.countPackets s) →
    exec .rcmt s = .next (State.note (State.park (regionEnds (State.countPackets s)) .rcmt 1
      (BitVec.ofNat 64 (State.countPackets s).clk) .region) (.parked .region))) ∧
  (∀ (s : State) (i : Instr), i = .rabt ∨ i = .rcmt → Closed s → Ready s i →
    exec i s = .next (State.takeTrap s .illegal s.cur.mask 0 s.cur.chainPc))

/-- REGCLM and REGREL (R114, R155): with k = n + 1 blocks to be had and no older claim waiting, REGCLM appends the pool's first k
blocks, which read 0 with tag RAW; with nothing under way into the highest k blocks REGREL gives them to the pool and they read 0.
Beyond 16 blocks, or leaving none, each traps REGALLOC. -/
def Obligations.RegisterPoolWordsComplete : Prop :=
  ∀ (s : State) (n : BitVec 4), Closed s →
    (Ready s (.regclm n) → s.g.regn + (n.toNat + 1) ≤ 16 → n.toNat + 1 ≤ (State.pool s).length → State.olderClaim s = false →
      exec (.regclm n) s = .next (done (State.setPool
        (withG (regionEnds s) { Group.zeroBlocks (regionEnds s).g s.g.regn (s.g.regn + (n.toNat + 1)) with
          regn := s.g.regn + (n.toNat + 1), blockMap := s.g.blockMap ++ (State.pool s).take (n.toNat + 1) })
        ((State.pool s).drop (n.toNat + 1))))) ∧
    (Ready s (.regclm n) → 16 < s.g.regn + (n.toNat + 1) →
      exec (.regclm n) s = .next (State.takeTrap s .regalloc s.cur.mask 0 s.cur.chainPc)) ∧
    (Ready s (.regrel n) → n.toNat + 2 ≤ s.g.regn → State.blocksBusy (regionEnds s) (s.g.regn - (n.toNat + 1)) = false →
      exec (.regrel n) s = .next (done (State.setPool
        (withG (regionEnds s)
          { Group.zeroBlocks (Group.landRegs (regionEnds s).g (fun r => decide (8 * (s.g.regn - (n.toNat + 1)) ≤ r)))
              (s.g.regn - (n.toNat + 1)) s.g.regn with
            regn := s.g.regn - (n.toNat + 1), blockMap := s.g.blockMap.take (s.g.regn - (n.toNat + 1)) })
        (State.pool s ++ s.g.blockMap.drop (s.g.regn - (n.toNat + 1)))))) ∧
    (Ready s (.regrel n) → s.g.regn < n.toNat + 2 →
      exec (.regrel n) s = .next (State.takeTrap s .regalloc s.cur.mask 0 s.cur.chainPc))

/-! ## Memory words (R63, R64, R157, R158, R194, R216 to R224, R274 to R279, R348) -/

namespace Sys2Proof.Machine.Rules

/-- The bytes of a size code: .b 1, .h 2, .w 4, .d 8, .q 16, and 1 and 2 for the zero-extending loads (R97). -/
def bytesOf (sz : BitVec 3) : Nat := sizeBytes sz.toNat

/-- The accesses of a word, one for each active lane: va's pair plus an offset (R218). -/
def laneAccesses (s : State) (a : RegNo) (off : DWord) (n : Nat) : List Access :=
  (Mask.lanes s.cur.mask).map (fun l => { lane := l, addr := reg64 s l a.toNat + off, len := n })

/-- The accesses of LDL and STL: va's low word plus an offset, modulo 2^32 (R218, R224). -/
def scratchLanes (s : State) (a : RegNo) (off : Word) (n : Nat) : List Access :=
  (Mask.lanes s.cur.mask).map (fun l => { lane := l, addr := BitVec.zeroExtend 64 (reg s l a.toNat + off), len := n })

/-- Every address is a multiple of n. -/
def Aligned (accs : List Access) (n : Nat) : Prop := ∀ x ∈ accs, x.addr.toNat % n = 0

/-- The address pair of a memory word: poison is consumed (R117, R218). -/
def addrSrcs (a : RegNo) : List Src := srcPair a.toNat false [.addr, .i32] .consume

/-- The data registers of a store: any tag, poison is consumed. -/
def dataSrcs (t : RegNo) (n : Nat) (tags : List Tag) : List Src := srcRun t.toNat n false tags .consume

/-- The state once every page of the accesses has been looked up: a page that missed in the hall's TLB is filled, its A bit set
(R76, R78). The page-table entries are the only memory that this changes, beside stash lines over them that are written back
(R73, R207). -/
def lookedUp (s : State) (accs : List Access) : State :=
  State.lookUp s s.g.hall s.g.ctx (accs.map (fun a => (Need.load, a)))

/-- A global access of the group is accepted: no SMAP or SDROP of the block is under way (R227), the range scoreboard has nothing
against it (R211), and the group's counter is below 255 with a request of the hall free (R216). -/
def Accepted (s : State) (accs : List Access) (counter : Nat) : Prop :=
  State.stashWait s = false ∧ State.rangeHit (lookedUp s accs) accs = false ∧ State.busyPipe (lookedUp s accs) counter = false

/-- The classification of R79 over all pages of all lanes, once they are looked up, gives these pieces. -/
def Classified (s : State) (need : Need) (accs : List Access) (ps : List Piece) : Prop :=
  State.classify (lookedUp s accs) s.g.hall s.g.ctx need accs = .ok ps

/-- The state once the pages of the accesses are in the hall's TLB, their A bits set, and for a write their D bits (R76, R78). -/
def touched (s : State) (accs : List Access) (write : Bool) (ps : List Piece) : State :=
  State.touch (lookedUp s accs) s.g.hall s.g.ctx write ps

/-- The pieces of the accesses as they are performed: whole where the address is a multiple of `n`, else byte by byte (R220). -/
def performed (accs : List Access) (n : Nat) (ps : List Piece) : List Piece :=
  accs.flatMap (fun x =>
    let mine := ps.filter (fun p => p.lane == x.lane)
    if x.addr.toNat % n = 0 then mine
    else mine.flatMap (fun p => (List.range p.len).map (fun i => { p with addr := p.addr + BitVec.ofNat 64 i, len := 1 })))

/-- An operation is outstanding for the group, next in its issue order (R216, R259). -/
def outstanding (g : Group) (op : OutOp) (m : Mask) (parts : List LanePart) : Group :=
  { g with
    outst := g.outst ++ [{ no := g.nextNo, op := op, mask := m, parts := parts, region := g.regions, lc := g.lc, sent := none }],
    nextNo := g.nextNo + 1 }

/-- A store word joins the group's buffer, counted in scnt, next in its issue order (R216). -/
def buffered (g : Group) (scratch modw : Bool) (scope : BitVec 3) (ord : BitVec 2) (parts : List StorePart) : Group :=
  { g with
    sbuf := g.sbuf ++ [{ no := g.nextNo, lc := g.lc, scratch := scratch, modw := modw, scope := scope, ord := ord, parts := parts }],
    scnt := g.scnt + 1, nextNo := g.nextNo + 1 }

/-- The pieces as the parts of a load. -/
def loadParts (ps : List Piece) : List LanePart :=
  ps.map (fun p => { lane := p.lane, addr := p.addr, len := p.len, leaf := p.leaf, x := [], priv := false })

/-- A load that is issued: outstanding, and lcnt up by one. -/
def loadIssued (s : State) (accs : List Access) (n : Nat) (ps : List Piece) (op : OutOp) : State :=
  withG (touched s accs false ps)
    { outstanding s.g op s.cur.mask (loadParts (performed accs n ps)) with lcnt := s.g.lcnt + 1 }

/-- The bytes a lane stores: the low byte or half of vt, or the words of the run, little-endian (R5, R221). -/
def storeBytes (s : State) (l : Nat) (t : RegNo) (sz : BitVec 3) : List Byte :=
  if sz = 0 then leBytes 1 (reg s l t.toNat).toNat
  else if sz = 1 then leBytes 2 (reg s l t.toNat).toNat
  else (regRun t.toNat (sizeRegs sz.toNat)).flatMap (fun n => leBytes 4 (reg s l n).toNat)

/-- The parts of a global store: each active lane's bytes, cut where its pages end. -/
def storeParts (s : State) (t : RegNo) (sz : BitVec 3) (ps : List Piece) : List StorePart :=
  (Mask.lanes s.cur.mask).flatMap (fun l =>
    ((ps.filter (fun p => p.lane == l)).foldl (fun (x : List StorePart × List Byte) p =>
      (x.1 ++ [{ lane := l, addr := p.addr, leaf := p.leaf, data := x.2.take p.len }], x.2.drop p.len))
      ([], storeBytes s l t sz)).1)

/-- A global store that is issued: buffered; a lane's page of an S O kind ends the region at once (R222). -/
def storeIssued (s : State) (accs : List Access) (t : RegNo) (sz : BitVec 3) (ps : List Piece) (scope : BitVec 3) (ord : BitVec 2)
    (modw : Bool) : State :=
  let w := withG (touched s accs true ps)
    (buffered s.g false modw scope ord (storeParts s t sz (performed accs (bytesOf sz) ps)))
  if ps.any (fun p => s.cur.mask.getLsbD p.lane && Leaf.kind p.leaf == 1) then regionEnds w else w

/-- The scope of a scratchpad word: .hall, or .gal when a lane names another hall of the block's reach (R203). -/
def scratchWordScope (accs : List Access) : BitVec 3 := if accs.any (fun x => placeRank x.addr != 0) then 2 else 1

/-- The scratchpad accesses are legal and nothing holds them (R202, R203, R205, R211, R224). -/
def ScratchAccepted (s : State) (accs : List Access) (n : Nat) (wait : BitVec 5 → Bool) (counter : Nat) : Prop :=
  Aligned accs n ∧ (∀ x ∈ accs, (State.scratchPlace s x).isSome = true) ∧ State.tileAny s accs wait = false ∧
  State.scratchRangeHit s accs = false ∧ State.busyPipe s counter = false

/-- What the table of atomics says (R276, R278): the operation, its bytes, the operand registers. -/
def atomicOf : Instr → Option (AtomicOp × Nat × RegNo × RegNo × Nat × BitVec 3 × BitVec 2)
  | .aadd sz t a scope ord => some (.add, bytesOf sz, t, a, sizeRegs sz.toNat, scope, ord)
  | .amin sz t a scope ord z => some (if z then .minZ else .minS, bytesOf sz, t, a, sizeRegs sz.toNat, scope, ord)
  | .amax sz t a scope ord z => some (if z then .maxZ else .maxS, bytesOf sz, t, a, sizeRegs sz.toNat, scope, ord)
  | .aand sz t a scope ord => some (.and, bytesOf sz, t, a, sizeRegs sz.toNat, scope, ord)
  | .aor sz t a scope ord => some (.or, bytesOf sz, t, a, sizeRegs sz.toNat, scope, ord)
  | .axor sz t a scope ord => some (.xor, bytesOf sz, t, a, sizeRegs sz.toNat, scope, ord)
  | .axch sz t a scope ord => some (.xch, bytesOf sz, t, a, sizeRegs sz.toNat, scope, ord)
  | .acas sz t a scope ord => some (.cas, if sz then 8 else 4, t, a, if sz then 4 else 2, scope, ord)
  | .acasQ t a scope ord => some (.cas, 16, t, a, 8, scope, ord)
  | .afadd t a scope ord => some (.fadd, 4, t, a, 1, scope, ord)
  | _ => none

/-- The tags an atomic accepts for its operands (R278). -/
def atomicTags : AtomicOp → List Tag
  | .add | .minS | .minZ | .maxS | .maxZ => [.i32]
  | .fadd => [.f32]
  | .and | .or | .xor | .xch | .cas => []

/-- The accesses of an atomic that name the hall window, and the others (R277). -/
def inHallWindow (accs : List Access) : List Access := accs.filter (fun x => windowPointer x.addr)
def outsideWindow (accs : List Access) : List Access := accs.filter (fun x => !windowPointer x.addr)

/-- Each active lane names one address and one increment for all. -/
def SameOperands (s : State) (a b : RegNo) (ua ub : Bool) : Prop :=
  ∀ l ∈ Mask.lanes s.cur.mask, vaOf (State.src64 s l a.toNat ua) = vaOf (State.src64 s (Mask.lowest s.cur.mask) a.toNat ua) ∧
    src s l b.toNat ub = src s (Mask.lowest s.cur.mask) b.toNat ub

/-- The accesses of TKT and DEPADD. -/
def uniAccesses (s : State) (a : RegNo) (ua : Bool) (n : Nat) : List Access :=
  (Mask.lanes s.cur.mask).map (fun l => { lane := l, addr := State.src64 s l a.toNat ua, len := n })

/-- The sources of TKT and DEPADD. -/
def counterSrcs (a b : RegNo) (ua ub : Bool) : List Src :=
  srcPair a.toNat ua [.addr] .consume ++ [{ reg := b.toNat, uni := ub, tags := [.i32], use := .consume }]

end Sys2Proof.Machine.Rules

/-- LD, LDO, LDL and LDCB (R194, R216, R222 to R224): with the checks passed, each is outstanding from its issue, counted in lcnt;
LDO.last and LDCB end the idempotent region. No register and no memory but the page table's A bits changes. -/
def Obligations.LoadWordsComplete : Prop :=
  (∀ (s : State) (sz : BitVec 3) (t a : RegNo) (off : BitVec 7) (ps : List Piece),
    Closed s → Ready s (.ld sz t a off) → Sound s (addrSrcs a) →
    let accs := laneAccesses s a (BitVec.signExtend 64 off * BitVec.ofNat 64 (bytesOf sz)) (bytesOf sz)
    Accepted s accs s.g.lcnt → Classified s .load accs ps →
    exec (.ld sz t a off) s = .next (done (loadIssued s accs (bytesOf sz) ps (.load false sz.toNat t.toNat 6 0 false)))) ∧
  (∀ (s : State) (sz : BitVec 3) (t a : RegNo) (scope : BitVec 3) (ord : BitVec 2) (last : Bool) (ps : List Piece),
    Closed s → Ready s (.ldo sz t a scope ord last) → Sound s (addrSrcs a) →
    let accs := laneAccesses s a 0 (bytesOf sz)
    (ord ≠ 0 → Aligned accs (bytesOf sz)) → Accepted s accs s.g.lcnt → Classified s .load accs ps →
    (last = true → ∀ p ∈ ps, noDiscard p.leaf = false) →
    exec (.ldo sz t a scope ord last) s = .next (done
      (if last then regionEnds (loadIssued s accs (bytesOf sz) ps (.load false sz.toNat t.toNat scope ord last))
       else loadIssued s accs (bytesOf sz) ps (.load false sz.toNat t.toNat scope ord last)))) ∧
  (∀ (s : State) (sz : BitVec 3) (t a : RegNo) (off : BitVec 7),
    Closed s → Ready s (.ldl sz t a off) → Sound s [consumed a false [.i32]] →
    let accs := scratchLanes s a (BitVec.signExtend 32 off * BitVec.ofNat 32 (bytesOf sz)) (bytesOf sz)
    ScratchAccepted s accs (bytesOf sz) (fun t => TileTag.trk t && !TileTag.v t) s.g.lcnt →
    exec (.ldl sz t a off) s = .next (done (withG s
      { outstanding s.g (.load true sz.toNat t.toNat (scratchWordScope accs) 0 false) s.cur.mask
          (accs.map (fun x => { lane := x.lane, addr := x.addr, len := bytesOf sz, leaf := 0, x := [], priv := false })) with
        lcnt := s.g.lcnt + 1 }))) ∧
  (∀ (s : State) (t a : RegNo) (off : BitVec 7) (ps : List Piece),
    Closed s → Ready s (.ldcb t a off) → Sound s (srcPair a.toNat false [.addr, .i32] .lowest) →
    let l := Mask.lowest s.cur.mask
    let acc : Access := { lane := l, addr := reg64 s l a.toNat + BitVec.signExtend 64 off * 32, len := 32 }
    State.slotPending s t.toNat = false → t.toNat < s.g.lr.cb → Aligned [acc] 32 → State.stashWait s = false →
    Classified s .load [acc] ps → State.busyPipe (lookedUp s [acc]) s.g.lcnt = false →
    exec (.ldcb t a off) s = .next (done (withG (regionEnds (touched s [acc] false ps))
      { outstanding (regionEnds s).g (.ldcb t.toNat) s.cur.mask (loadParts ps) with lcnt := s.g.lcnt + 1 })))

/-- ST, STO, MODW and STL (R216, R222, R224, R348): with the checks passed, the bytes of each active lane join the store buffer at
the addresses computed here, counted in scnt; a store to an S O page ends the region. No register and no memory but the page
table's A and D bits changes until the store is performed. -/
def Obligations.StoreWordsComplete : Prop :=
  (∀ (s : State) (sz : BitVec 3) (t a : RegNo) (off : BitVec 7) (ps : List Piece),
    Closed s → Ready s (.st sz t a off) → Sound s (addrSrcs a ++ dataSrcs t (sizeRegs sz.toNat) []) →
    let accs := laneAccesses s a (BitVec.signExtend 64 off * BitVec.ofNat 64 (bytesOf sz)) (bytesOf sz)
    Accepted s accs s.g.scnt → Classified s .store accs ps → (∀ p ∈ ps, Leaf.s p.leaf = false) →
    exec (.st sz t a off) s = .next (done (storeIssued s accs t sz ps 6 0 false))) ∧
  (∀ (s : State) (sz : BitVec 3) (t a : RegNo) (scope : BitVec 3) (ord : BitVec 2) (ps : List Piece),
    Closed s → Ready s (.sto sz t a scope ord) → Sound s (addrSrcs a ++ dataSrcs t (sizeRegs sz.toNat) []) →
    let accs := laneAccesses s a 0 (bytesOf sz)
    (ord ≠ 0 → Aligned accs (bytesOf sz)) → Accepted s accs s.g.scnt → Classified s .store accs ps →
    (∀ p ∈ ps, Leaf.s p.leaf = false) →
    exec (.sto sz t a scope ord) s = .next (done (storeIssued s accs t sz ps scope ord false))) ∧
  (∀ (s : State) (sz : BitVec 3) (t a : RegNo) (scope : BitVec 3) (ord : BitVec 2) (ps : List Piece),
    Closed s → Ready s (.modw sz t a scope ord) → State.inTracedLaunch s s.g.ctx s.g.seq = false →
    Sound s (addrSrcs a ++ dataSrcs t (sizeRegs sz.toNat) []) →
    let accs := laneAccesses s a 0 (bytesOf sz)
    Aligned accs (bytesOf sz) → Accepted s accs s.g.scnt → Classified s .store accs ps →
    (∀ p ∈ ps, Leaf.s p.leaf = false ∧ Leaf.m p.leaf = true) →
    exec (.modw sz t a scope ord) s = .next (done (storeIssued s accs t sz ps scope ord true))) ∧
  (∀ (s : State) (sz : BitVec 3) (t a : RegNo) (off : BitVec 7),
    Closed s → Ready s (.stl sz t a off) → Sound s (consumed a false [.i32] :: dataSrcs t (sizeRegs sz.toNat) []) →
    let accs := scratchLanes s a (BitVec.signExtend 32 off * BitVec.ofNat 32 (bytesOf sz)) (bytesOf sz)
    ScratchAccepted s accs (bytesOf sz) (fun t => TileTag.trk t && TileTag.h t) s.g.scnt →
    exec (.stl sz t a off) s = .next (done (withG s (buffered s.g true false (scratchWordScope accs) 0
      (accs.map (fun x => { lane := x.lane, addr := x.addr, leaf := 0, data := storeBytes s x.lane t sz }))))))

/-- The atomics (R274 to R279): with the checks passed, each ends the idempotent region and is outstanding, counted once in acnt,
one part for each active lane with that lane's operands, in lane order. -/
def Obligations.AtomicWordsComplete : Prop :=
  ∀ (s : State) (i : Instr) (op : AtomicOp) (n : Nat) (t a : RegNo) (k : Nat) (scope : BitVec 3) (ord : BitVec 2) (ps : List Piece),
    atomicOf i = some (op, n, t, a, k, scope, ord) → Closed s → Ready s i →
    Sound s (addrSrcs a ++ dataSrcs t k (atomicTags op)) →
    let accs := laneAccesses s a 0 n
    Aligned accs n → (∀ x ∈ inHallWindow accs, (State.scratchPlace s x).isSome = true) → Accepted s (outsideWindow accs) s.g.acnt →
    State.scratchRangeHit (lookedUp s (outsideWindow accs)) (inHallWindow accs) = false → Classified s .atomic (outsideWindow accs) ps →
    (∀ p ∈ ps, Leaf.s p.leaf = false) →
    let u := State.markVolatile (touched s (outsideWindow accs) true ps) s.g.ctx s.g.seq
    exec i s = .next (done (withG (regionEnds u)
      { outstanding (regionEnds u).g (.atomic op n t.toNat scope ord) u.cur.mask
          (accs.map (fun x =>
            { lane := x.lane, addr := x.addr, len := x.len,
              leaf := (match ps.find? (fun p => p.lane == x.lane) with | some p => p.leaf | none => 0),
              x := (regRun t.toNat k).map (fun r => reg u x.lane r), priv := false })) with
        acnt := u.g.acnt + 1 }))

/-- TKT (R63, R64, R158): with the checks passed it takes the group's next round of its gang; the first taker opens it with its
counter and increment while fewer than 4 rounds are open, a later taker joins the round of the same counter and increment. It ends
the idempotent region and is outstanding, counted in acnt.
DEPADD (R157, R216): with the checks passed it ends the idempotent region and counts in acnt from its issue. With no earlier
store of the group unperformed it is outstanding at once; else its lanes park, with CNTWAIT, until scnt is zero, and it is
outstanding then. -/
def Obligations.TicketAndCounterWordsComplete : Prop :=
  (∀ (s : State) (d a b : RegNo) (ua ub : Bool) (ps : List Piece),
     Closed s → Ready s (.tkt d a b ua ub) → Sound s (counterSrcs a b ua ub) →
     let accs := uniAccesses s a ua 8
     Aligned accs 8 → State.stashWait s = false → Classified s .atomic accs ps → (∀ p ∈ ps, Leaf.s p.leaf = false) →
     SameOperands s a b ua ub → State.busyPipe (lookedUp s accs) s.g.acnt = false →
     let addr := State.src64 s (Mask.lowest s.cur.mask) a.toNat ua
     let incr : DWord := BitVec.zeroExtend 64 (src s (Mask.lowest s.cur.mask) b.toNat ub)
     let n := s.g.tickets + 1
     let me := (s.g.blk, s.g.grp)
     let taken := fun (opener : Bool) (f : List Round → List Round) =>
       let u := regionEnds (State.markVolatile (State.updGang (touched s accs true ps) s.g.ctx s.g.seq (Group.gang s.g)
         (fun y => { y with rounds := f y.rounds })) s.g.ctx s.g.seq)
       done (withG u { outstanding u.g (.tkt n opener incr d.toNat) u.cur.mask
           ((ps.take 1).map (fun p => { lane := p.lane, addr := addr, len := 8, leaf := p.leaf, x := [], priv := false })) with
         acnt := u.g.acnt + 1, tickets := n })
     ((State.rounds s).find? (fun r => r.n == n) = none → State.openRounds s < 4 →
       exec (.tkt d a b ua ub) s = .next (taken true (fun rs =>
         rs ++ [{ n := n, addr := addr, incr := incr, value := none, bad := false, takers := [me] }]))) ∧
     (∀ r, (State.rounds s).find? (fun r => r.n == n) = some r → vaOf r.addr = vaOf addr → r.incr = incr →
       exec (.tkt d a b ua ub) s = .next (taken false (fun rs =>
         mapIf rs (fun r => r.n == n) (fun r => { r with takers := r.takers ++ [me] })))) ∧
     ((State.rounds s).find? (fun r => r.n == n) = none → 4 ≤ State.openRounds s →
       exec (.tkt d a b ua ub) s = .next { State.note s (.stalled .engq) with
         events := s.events ++ State.fills s s.g.hall s.g.ctx (accs.map (fun a => (Need.atomic, a))) })) ∧
  (∀ (s : State) (d a b : RegNo) (ua ub : Bool) (ps : List Piece),
     Closed s → Ready s (.depadd d a b ua ub) → Sound s (counterSrcs a b ua ub) →
     let accs := uniAccesses s a ua 128
     Aligned accs 128 → State.stashWait s = false → Classified s .atomic accs ps → (∀ p ∈ ps, Leaf.s p.leaf = false) →
     State.busyPipe (lookedUp s accs) s.g.acnt = false →
     let v := regionEnds (State.markVolatile (touched s accs true ps) s.g.ctx s.g.seq)
     let u := withG v { v.g with acnt := v.g.acnt + 1 }
     (s.g.scnt = 0 → exec (.depadd d a b ua ub) s = .next (done (withG u (outstanding u.g (.depadd d.toNat) u.cur.mask
       (ps.map (fun p =>
         { lane := p.lane, addr := p.addr, len := 128, leaf := p.leaf, x := [src s p.lane b.toNat ub], priv := false })))))) ∧
     (s.g.scnt ≠ 0 → exec (.depadd d a b ua ub) s =
       .next (State.note (State.park u (.depadd d a b ua ub) 1 0 .cntwait) (.parked .cntwait))))

/-- The checks of a global load and store in the order of R219: an ordered access that is misaligned traps ALIGN; then the
classification decides: its trap, a page fault that restarts the idempotent region, a wait with XLATE for a migrating page; then
the range scoreboard (RANGE) and the counters (PIPEBUSY) hold the word. The pages are looked up first: what missed is filled, or,
where the word waits, left to the walker to fill. In each case no access of the word is made. -/
def Obligations.GlobalAccessChecksInOrder : Prop :=
  ∀ (s : State) (sz : BitVec 3) (t a : RegNo) (scope : BitVec 3) (ord : BitVec 2) (i : Instr) (need : Need) (counter : Nat),
    ((i = .ldo sz t a scope ord false ∧ need = .load ∧ counter = s.g.lcnt ∧ Sound s (addrSrcs a)) ∨
      (i = .sto sz t a scope ord ∧ need = .store ∧ counter = s.g.scnt ∧
        Sound s (addrSrcs a ++ dataSrcs t (sizeRegs sz.toNat) []))) →
    Closed s → Ready s i → State.stashWait s = false →
    let accs := laneAccesses s a 0 (bytesOf sz)
    (∀ m x, ord ≠ 0 → lanesWhere accs (fun y => y.addr.toNat % bytesOf sz != 0) = some (m, x) →
      exec i s = .next (State.takeTrap s .align m x s.cur.chainPc)) ∧
    ((ord ≠ 0 → Aligned accs (bytesOf sz)) →
      let t := lookedUp s accs
      let waiting := fun (r : Reason) => { State.note s (.stalled r) with
        events := s.events ++ State.fills s s.g.hall s.g.ctx (accs.map (fun a => (need, a))) }
      (∀ c m x, State.classify t s.g.hall s.g.ctx need accs = .trap c m x →
        exec i s = .next (State.takeTrap t c m x s.cur.chainPc)) ∧
      (∀ pages, State.classify t s.g.hall s.g.ctx need accs = .fault pages →
        exec i s = .next (State.note (withG t (Group.beginRestart s.g pages)) .restarted)) ∧
      (State.classify t s.g.hall s.g.ctx need accs = .migrating → exec i s = .next (waiting .xlate)) ∧
      (∀ ps, Classified s need accs ps → (∀ p ∈ ps, Leaf.s p.leaf = false) → State.rangeHit t accs = true →
        exec i s = .next (waiting .range)) ∧
      (∀ ps, Classified s need accs ps → (∀ p ∈ ps, Leaf.s p.leaf = false) → State.rangeHit t accs = false →
        State.busyPipe t counter = true → exec i s = .next (waiting .pipebusy)))

/-! ## Engine words (R205 to R214, R226 to R233) -/

namespace Sys2Proof.Machine.Rules

/-- What an engine word asks of the copy engine: the registers it reads, the command, the runs it reads, the PUBs it stands
behind, whether its descriptor is legal, and whether the pages of its destination are as it needs them. -/
structure EngineWord where
  srcs : List Src
  kind : CmdKind
  reads : List (Place × Nat)
  behind : Nat
  legal : Prop
  dest : List Piece → Prop

/-- The lane that names a request (R218). -/
def first (s : State) : Nat := Mask.lowest s.cur.mask

/-- A register pair as a place: a scratchpad address in the low register, or a 64-bit address (R228). -/
def placeAt (s : State) (n : Nat) (u space : Bool) : Place :=
  if space then { scratch := true, addr := BitVec.zeroExtend 64 (src s (first s) n u) }
  else { scratch := false, addr := State.src64 s (first s) n u }

/-- The high register of a scratchpad place is 0 (R228). -/
def highZero (s : State) (n : Nat) (u space : Bool) : Prop := space = true → src s (first s) (n + 1) u = 0

/-- The words of a descriptor in registers. -/
def words (s : State) (b : RegNo) (n : Nat) (u : Bool) : List Word := (regRun b.toNat n).map (fun r => src s (first s) r u)

/-- CPY, CPYW, CPYT, CPYG and DISC (R229 to R232). -/
def engineWord (s : State) : Instr → Option EngineWord
  | .cpy d a b ua ub =>
    let v := (src s (first s) b.toNat ub).toNat
    let dst := placeAt s d.toNat false (v.testBit 26)
    let from_ := placeAt s a.toNat ua (v.testBit 25)
    some
      { srcs := placeSources d.toNat false (v.testBit 26) ++ placeSources a.toNat ua (v.testBit 25) ++
          [{ reg := b.toNat, uni := ub, tags := [], use := .peek }],
        kind := .copy from_ dst (bits v 0 25) false, reads := [(from_, bits v 0 25)], behind := 0,
        legal := bits v 27 5 = 0 ∧ 0 < bits v 0 25 ∧ bits v 0 25 ≤ 2 ^ 24 ∧ highZero s d.toNat false (v.testBit 26) ∧
          highZero s a.toNat ua (v.testBit 25),
        dest := fun ps => ∀ p ∈ ps, Leaf.s p.leaf = false }
  | .cpyw d a b ua ub =>
    let v := (src s (first s) b.toNat ub).toNat
    let dst := placeAt s d.toNat false false
    let from_ := placeAt s a.toNat ua (v.testBit 25)
    some
      { srcs := placeSources d.toNat false false ++ placeSources a.toNat ua (v.testBit 25) ++
          [{ reg := b.toNat, uni := ub, tags := [], use := .peek }],
        kind := .copy from_ dst (bits v 0 25) true, reads := [(from_, bits v 0 25)],
        behind := (match State.buffer s s.g.ctx (vaOf dst.addr) with
          | some e => (State.pubsOf s s.g.ctx e.index).length | none => 0),
        legal := v.testBit 26 = false ∧ bits v 27 5 = 0 ∧ 0 < bits v 0 25 ∧ bits v 0 25 ≤ 2 ^ 24 ∧
          highZero s a.toNat ua (v.testBit 25),
        dest := fun ps => (∀ p ∈ ps, Leaf.s p.leaf = true) ∧
          ∃ e, State.buffer s s.g.ctx (vaOf dst.addr) = some e ∧ PubEntry.holds e (vaOf dst.addr + bits v 0 25 - 1) = true }
  | .cpyt d a b ua ub =>
    let w := words s b 8 ub
    let x := boxOf w
    let dst := placeAt s d.toNat false x.dsp
    let from_ := placeAt s a.toNat ua x.ssp
    some
      { srcs := placeSources d.toNat false x.dsp ++ placeSources a.toNat ua x.ssp ++ srcRun b.toNat 8 ub [] .peek,
        kind := .box from_ dst w, reads := (Box.runs x).map (fun r => (Place.add from_ r.1, r.2)), behind := 0,
        legal := descField w 1 20 12 = 0 ∧ descField w 5 16 16 = 0 ∧ descField w 7 16 16 = 0 ∧ 0 < x.nx ∧ 0 < x.ny ∧ 0 < x.nz ∧
          Box.size x ≤ 2 ^ 24 ∧ highZero s d.toNat false x.dsp ∧ highZero s a.toNat ua x.ssp ∧
          ∀ y ∈ CmdKind.sources (.box from_ dst w), runsOverlap y (dst, Box.size x) = false,
        dest := fun ps => ∀ p ∈ ps, Leaf.s p.leaf = false }
  | .cpyg d a b ua ub =>
    let w := words s b 4 ub
    let dst := placeAt s d.toNat false (descField w 3 19 1 == 1)
    let isp := descField w 3 18 1 == 1
    let idx : Place := { scratch := isp, addr := pair64 (w.getD 0 0) (w.getD 1 0) }
    let count := descField w 2 0 24
    let rowb := descField w 3 0 17
    some
      { srcs := placeSources d.toNat false (descField w 3 19 1 == 1) ++ srcPair a.toNat ua [.addr, .i32] .lowest ++
          srcRun b.toNat 4 ub [] .peek,
        kind := .gather (State.src64 s (first s) a.toNat ua) idx dst count rowb, reads := [(idx, 4 * count)], behind := 0,
        legal := idx.addr.toNat % 4 = 0 ∧ descField w 2 24 8 = 0 ∧ descField w 3 20 12 = 0 ∧ descField w 3 17 1 = 0 ∧ 0 < count ∧
          count ≤ 65536 ∧ 0 < rowb ∧ rowb ≤ 65536 ∧ count * rowb ≤ 2 ^ 24 ∧ (isp = true → w.getD 1 0 = 0) ∧
          runsOverlap (idx, 4 * count) (dst, count * rowb) = false ∧ highZero s d.toNat false (descField w 3 19 1 == 1),
        dest := fun ps => ∀ p ∈ ps, Leaf.s p.leaf = false }
  | .disc a b ua ub =>
    let p := State.src64 s (first s) a.toNat ua
    let n := (src s (first s) b.toNat ub).toNat
    some
      { srcs := srcPair a.toNat ua [.addr, .i32] .lowest ++ [{ reg := b.toNat, uni := ub, tags := [], use := .peek }],
        kind := .disc p n, reads := [], behind := 0,
        legal := p.toNat % 128 = 0 ∧ n % 128 = 0 ∧ 128 ≤ n ∧ n ≤ 2 ^ 24,
        dest := fun ps => ∀ p ∈ ps, noDiscard p.leaf = false }
  | _ => none

/-- The engine accepts a command (R205, R209, R210, R228): the idempotent region ends; ecnt goes up; the command joins its hall's
queue behind the others, its ranges are recorded, its tracked source tiles get H; then the hall's commands that may begin do. -/
def commandAccepted (s : State) (k : CmdKind) (behind : Nat) : State :=
  let t := regionEnds s
  let c : Cmd :=
    { kind := k, hall := s.g.hall, slot := s.g.slot, ctx := s.g.ctx, seq := s.g.seq, blk := s.g.blk, grp := s.g.grp, rows := 0, got := [],
      put := 0, ord := s.g.copies,
      deferred := none, mask := s.cur.mask, behind := behind, started := false, num := s.g.commands, lc := s.g.lc,
      after := s.g.nextNo, hold := 0 }
  let t := State.tagTiles t s.g.ctx s.g.seq (State.sourceTiles t c) (fun x => TileTag.set x 3)
  let t := State.updHall t s.g.hall (fun h => { h with cmds := h.cmds ++ [c], ranges := h.ranges ++ State.rangesOf s k })
  State.startHall (withG t { t.g with ecnt := t.g.ecnt + 1, commands := t.g.commands + 1, copies := t.g.copies + 1, nextNo := t.g.nextNo + 1 })
    s.g.hall

/-- A stash command joins its block's (R227): ecnt goes up. -/
def stashJoins (s : State) (kind : Nat) (m : StashMap) (len : Nat) : State :=
  let t := State.updBlock s s.g.ctx s.g.seq s.g.blk (fun b =>
    { b with stashCmds := b.stashCmds ++
        [{ kind := kind, hall := s.g.hall, slot := s.g.slot, map := m, len := len, num := s.g.commands }] })
  withG t { t.g with ecnt := t.g.ecnt + 1, commands := t.g.commands + 1, nextNo := t.g.nextNo + 1 }

/-- The mappings of the group's block. -/
def mapsOf (s : State) : List StashMap :=
  match State.block? s s.g.ctx s.g.seq s.g.blk with | some b => b.stashMaps | none => []

/-- The mapping that SMAP asks for. -/
def mapAsked (s : State) (a b : RegNo) (ua ub : Bool) : StashMap :=
  let v := (src s (first s) b.toNat ub).toNat
  { tile0 := bits v 0 9, tiles := bits v 16 9, base := State.src64 s (first s) a.toNat ua }

/-- A mapping of R206: 1 KiB aligned, within its 64 KiB page and the stash, at most 8, clear of the block's others. -/
def MapLegal (s : State) (m : StashMap) : Prop :=
  m.base.toNat % 1024 = 0 ∧ 0 < m.tiles ∧ m.base.toNat % 65536 + 1024 * m.tiles ≤ 65536 ∧ (mapsOf s).length < 8 ∧
  (m.tile0 + m.tiles) * 1024 ≤ s.g.lr.stash ∧
  ∀ x ∈ mapsOf s, overlaps x.tile0 x.tiles m.tile0 m.tiles = false ∧
    overlaps (vaOf x.base) (1024 * x.tiles) (vaOf m.base) (1024 * m.tiles) = false

/-- ecnt, with the PROPs that may still raise it, has room for one more (R216, R352). -/
def EngineRoom (s : State) : Prop := s.g.ecnt + Group.openProps s.g < 255

/-- The sources of DISC, PREF, SMAP and SFLUSH. -/
def rangeSrcs (a b : RegNo) (ua ub : Bool) : List Src :=
  srcPair a.toNat ua [.addr, .i32] .lowest ++ [{ reg := b.toNat, uni := ub, tags := [], use := .peek }]

end Sys2Proof.Machine.Rules

/-- CPY, CPYW, CPYT, CPYG and DISC (R205, R209 to R214, R228 to R232): with a legal descriptor, legal scratchpad runs, classified
pages and room in ecnt and the range scoreboard, the command is accepted; its group goes on, and no register and no data in memory
changes. -/
def Obligations.CopyEngineWordsComplete : Prop :=
  ∀ (s : State) (i : Instr) (w : EngineWord) (ps : List Piece), engineWord s i = some w → Closed s → Ready s i →
    Sound s w.srcs → w.legal →
    (∀ x ∈ w.reads ++ [CmdKind.dest w.kind], x.1.scratch = true → (Place.target x.1 s.g.lr s.g.blk x.2).isSome = true) →
    let t := State.lookUp s s.g.hall s.g.ctx (engineAccesses (first s) w.reads [CmdKind.dest w.kind])
    State.classifyAll t s.g.hall s.g.ctx (engineAccesses (first s) w.reads [CmdKind.dest w.kind]) = .ok ps →
    w.dest (destPieces ps [CmdKind.dest w.kind]) → EngineRoom s →
    let u := State.touchAll t ps [CmdKind.dest w.kind]
    (State.hall u s.g.hall).ranges.length + (State.rangesOf u w.kind).length ≤ 32 →
    exec i s = .next (done (commandAccepted u w.kind w.behind))

/-- PREF, PUB, SMAP, SFLUSH and SDROP (R206, R226, R227, R232, R233): PREF changes no value and ends no region; the others, with
their conditions met and room in ecnt, end the region and are accepted, SMAP with its mapping in force. -/
def Obligations.PublishAndStashWordsComplete : Prop :=
  (∀ (s : State) (a b : RegNo) (ua ub : Bool), Closed s → Ready s (.pref a b ua ub) → Sound s (rangeSrcs a b ua ub) →
    0 < (src s (first s) b.toNat ub).toNat → (src s (first s) b.toNat ub).toNat ≤ 2 ^ 24 →
    exec (.pref a b ua ub) s = .next (done (withG s { s.g with commands := s.g.commands + 1 }))) ∧
  (∀ (s : State) (a : RegNo) (ua : Bool) (e : PubEntry), Closed s → Ready s (.pub a ua) →
    Sound s [{ reg := a.toNat, uni := ua, tags := [], use := .peek }] →
    let i := (src s (first s) a.toNat ua).toNat
    i < 4096 → State.pubEntry s s.g.ctx i = some e → e.npages ≠ 0 →
    (∀ k < e.npages, ∃ l p, State.walk s s.g.ctx (e.base + 65536 * k) = .leaf l p ∧ Leaf.w l = true) → EngineRoom s →
    let t := State.updCtx (regionEnds s) s.g.ctx (fun x => { x with pubs := x.pubs ++
      [{ entry := i, seq := s.g.seq, blk := s.g.blk, grp := s.g.grp, num := s.g.commands, passed := false, after := s.g.nextNo,
         loads := [], cmds := [] }] })
    exec (.pub a ua) s = .next (done (withG t
      { t.g with ecnt := t.g.ecnt + 1, commands := t.g.commands + 1, nextNo := t.g.nextNo + 1 }))) ∧
  (∀ (s : State) (a b : RegNo) (ua ub : Bool) (ps : List Piece), Closed s → Ready s (.smap a b ua ub) →
    Sound s (rangeSrcs a b ua ub) →
    let m := mapAsked s a b ua ub
    bits (src s (first s) b.toNat ub).toNat 25 7 = 0 → bits (src s (first s) b.toNat ub).toNat 9 7 = 0 → MapLegal s m →
    Classified s .load [{ lane := first s, addr := m.base, len := 1024 * m.tiles }] ps → (∀ p ∈ ps, Leaf.s p.leaf = false) →
    EngineRoom s →
    exec (.smap a b ua ub) s = .next (done (stashJoins (State.updBlock (regionEnds (touched s [{ lane := first s, addr := m.base, len := 1024 * m.tiles }] false ps)) s.g.ctx s.g.seq s.g.blk
      (fun b => { b with stashMaps := b.stashMaps ++ [m] })) 0 m 0))) ∧
  (∀ (s : State) (a b : RegNo) (ua ub : Bool), Closed s → Ready s (.sflush a b ua ub) → Sound s (rangeSrcs a b ua ub) →
    EngineRoom s →
    exec (.sflush a b ua ub) s = .next (done (stashJoins (regionEnds s) 1
      { tile0 := 0, tiles := 0, base := State.src64 s (first s) a.toNat ua } (src s (first s) b.toNat ub).toNat))) ∧
  (∀ (s : State) (a : RegNo) (ua : Bool) (m : StashMap), Closed s → Ready s (.sdrop a ua) →
    Sound s (srcPair a.toNat ua [.addr, .i32] .lowest) →
    (mapsOf s).find? (fun m => m.base == State.src64 s (first s) a.toNat ua) = some m → EngineRoom s →
    exec (.sdrop a ua) s = .next (done (stashJoins (regionEnds s) 2 m 0)))

/-! ## Matrix words (R236, R242 to R249) -/

namespace Sys2Proof.Machine.Rules

/-- The MMQ words: form, tile, A, B, the shared-B bit and the outlier bit (R240, R247). -/
def mmqOf : Instr → Option (MmaForm × BitVec 4 × RegNo × RegNo × Bool × Bool)
  | .mmqBf16 tile a b sb => some (.bf16, tile, a, b, sb, false)
  | .mmqF16 tile a b sb => some (.f16, tile, a, b, sb, false)
  | .mmqE4m3 tile a b sb => some (.e4m3, tile, a, b, sb, false)
  | .mmqE5m2 tile a b sb => some (.e5m2, tile, a, b, sb, false)
  | .mmqI8 tile a b sb => some (.i8, tile, a, b, sb, false)
  | .mmqCb4 tile a b sb => some (.cb4, tile, a, b, sb, false)
  | .mmqCbbf tile a b sb => some (.cbbf, tile, a, b, sb, false)
  | .mmqE2m1 tile a b sb ol => some (.e2m1, tile, a, b, sb, ol)
  | _ => none

/-- The quarters whose eight lanes are all active. -/
def quarters (s : State) : List Nat := fullQuarters s.cur.mask

/-- What every MQ word begins with passes (R236, R244): no quarter is active in part, no SHADOW of the tile waits. -/
def QuartersWhole (s : State) (tile : BitVec 4) : Prop :=
  partQuarters s.cur.mask = 0 ∧ Group.shadowFor s.g tile.toNat = false

/-- The lanes that hold A's rows, and those that hold B's columns: with SB quarter 0's. -/
def rowLanes (s : State) : List Nat := quarterLanes (quarters s)
def colLanes (s : State) (sb : Bool) : List Nat := quarterLanes (if sb then (if (quarters s).isEmpty then [] else [0]) else quarters s)

/-- 2 while THERMAL doubles every figure of the matrix engine, else 1 (R20, R237). -/
def figureScale (s : State) : Nat := if s.pkg.thermal then 2 else 1

/-- The cycle in which each active quarter takes an array (R237): quarter q q cycles after the issue; with SB as many at once as there
are arrays in service, from 3 cycles after the issue on. -/
def arrayCycles (s : State) (sb : Bool) : List (Nat × Nat) :=
  ((List.range (quarters s).length).zip (quarters s)).map (fun p =>
    (p.2, if sb then s.clk + figureScale s * (3 + p.1 / (State.arraysInService s s.g.hall).length)
          else s.clk + figureScale s * p.2))

/-- The reservation of a hall's arrays that an MMQ takes (R237): one array in each of those cycles. -/
def arrayShare (s : State) (sb : Bool) : List (Nat × Nat) := (arrayCycles s sb).map (fun p => (p.2, 1))

/-- The sources of an MMQ are as its form needs them (R240, R241, R247). -/
def MatrixSources (s : State) (f : MmaForm) (a b : RegNo) (sb ol : Bool) : Prop :=
  Group.tagsBad s.g (rowLanes s) (regRun a.toNat 8) [MmaForm.tagA f] = false ∧
  (f = .e2m1 → Group.tagsBad s.g (rowLanes s) [a.toNat + 8] [.e8m0x4] = false) ∧
  Group.tagsBad s.g (colLanes s sb) (regRun b.toNat 8) [MmaForm.tagB f] = false ∧
  (ol = true → ∀ q ∈ quarters s, Group.outlierBad s.g a.toNat q = false) ∧
  (∀ l ∈ rowLanes s, Group.residuesBad s.g [l] (MmaForm.rowRegs f a.toNat ol l) = false) ∧
  Group.residuesBad s.g (colLanes s sb) (MmaForm.colRegs f a.toNat b.toNat) = false

/-- A row of the tile from a lane's eight registers (R248). -/
def rowFrom (s : State) (a : RegNo) (t : Tile) (l : Nat) : Tile :=
  Tile.setRow t l ((regRun a.toNat 8).map (fun n => reg s l n)) ((regRun a.toNat 8).map (fun n => (Group.cell s.g l n).tag == .poison))

/-- The tags in a quarter's eight registers, RAW and POISON set aside, are I32 alone, F32 alone, or none (R248). -/
def OneType (s : State) (a : RegNo) (q : Nat) : Prop :=
  Group.quarterTags s.g a.toNat q = [] ∨ Group.quarterTags s.g a.toNat q = [.i32] ∨ Group.quarterTags s.g a.toNat q = [.f32]

/-- The bytes of a tile's row: element c at bytes 4c to 4c + 3 (R249). -/
def rowBytes (s : State) (tile : BitVec 4) (l : Nat) : List Byte :=
  (List.range 8).flatMap (fun c => leBytes 4 ((Group.tile s.g tile.toNat).elems.getD (8 * l + c) 0).toNat)

/-- MMST and MMLD may move their rows (R202, R203, R205, R211, R242). -/
def RowsMove (s : State) (tile : BitVec 4) (accs : List Access) (wait : BitVec 5 → Bool) : Prop :=
  Aligned accs 32 ∧ (∀ x ∈ accs, (State.scratchPlace s x).isSome = true) ∧ State.tileAny s accs wait = false ∧
  State.scratchRangeHit s accs = false ∧ Group.tileBusy s.g tile.toNat = false

end Sys2Proof.Machine.Rules

/-- The eight MMQ words (R236, R242 to R244, R247): with whole quarters, no slot pending, no MMLD of the tile under way, arrays free and sources of the form's
tags, the region ends, the arrays are reserved, and one operation for each active quarter joins the group's, in quarter order. No
register changes; a tile changes when an operation retires, 12 cycles after its array's. -/
def Obligations.MatrixMultiplyWordsComplete : Prop :=
  ∀ (s : State) (i : Instr) (f : MmaForm) (tile : BitVec 4) (a b : RegNo) (sb ol : Bool),
    mmqOf i = some (f, tile, a, b, sb, ol) → Closed s → Ready s i → QuartersWhole s tile →
    (∀ n ∈ MmaForm.slots f s.g.cbs, State.slotPending s n = false ∧ n < s.g.lr.cb) →
    Group.loading s.g tile.toNat = false → State.arraysFree s s.g.hall (arrayShare s sb) = true → MatrixSources s f a b sb ol →
    let t := State.updHall (regionEnds s) s.g.hall (fun x => { x with arrays := x.arrays ++ arrayShare s sb })
    exec i s = .next (done (withG t { t.g with
      mma := t.g.mma ++ (arrayCycles s sb).map (fun p =>
        Group.quarterOp s.g f tile.toNat a.toNat b.toNat sb ol (quarters s) p.1 (p.2 + figureScale s * 12)) }))

/-- MMZ, MMRD, MMWR, MMST and MMLD (R236, R242, R245, R248, R249): MMZ zeroes the active quarters' rows and clears INT; MMRD reads a
row into eight registers, F32 or I32 by INT, POISON by element; MMWR writes the rows; MMST is outstanding with each active lane's
row for its scratchpad address, MMLD with the addresses of the rows, element by element, that it loads into the tile; no counter
counts either. Each changes nothing else. -/
def Obligations.MatrixTileWordsComplete : Prop :=
  (∀ (s : State) (tile : BitVec 4), Closed s → Ready s (.mmz tile) → QuartersWhole s tile → Group.tileBusy s.g tile.toNat = false →
    exec (.mmz tile) s = .next (done (withG (regionEnds s) (Group.updTile (regionEnds s).g tile.toNat (fun t =>
      (quarters s).foldl (fun t q =>
        Tile.setInt ((List.range 8).foldl (fun t i => Tile.setRow t (8 * q + i) (List.replicate 8 0) []) t) q false) t))))) ∧
  (∀ (s : State) (tile : BitVec 4) (a : RegNo), Closed s → Ready s (.mmrd tile a) → QuartersWhole s tile →
    Group.tileBusy s.g tile.toNat = false →
    exec (.mmrd tile a) s = .next (done ((List.range 8).foldl (fun t c =>
      State.landing t (State.mqFigure s 5) (a.toNat + c) (lanesOf.map (fun l =>
        if s.cur.mask.getLsbD l then some (Tile.cell (Group.tile s.g tile.toNat) l c) else none)) true) s))) ∧
  (∀ (s : State) (tile : BitVec 4) (a : RegNo), Closed s → Ready s (.mmwr tile a) → QuartersWhole s tile →
    Group.tileBusy s.g tile.toNat = false → (∀ q ∈ quarters s, OneType s a q) →
    Group.residuesBad s.g (rowLanes s) (regRun a.toNat 8) = false →
    exec (.mmwr tile a) s = .next (done (withG (regionEnds s) (Group.updTile (regionEnds s).g tile.toNat (fun t =>
      (quarters s).foldl (fun t q =>
        Tile.setInt ((quarterLanes [q]).foldl (rowFrom s a) t) q (Group.quarterTags s.g a.toNat q == [.i32])) t))))) ∧
  (∀ (s : State) (tile : BitVec 4) (a : RegNo), Closed s → Ready s (.mmst tile a) → QuartersWhole s tile →
    Sound s [consumed a false [.i32]] →
    let accs := scratchLanes s a 0 32
    RowsMove s tile accs (fun t => TileTag.trk t && TileTag.h t) →
    (∀ l ∈ Mask.lanes s.cur.mask, ∀ c < 8, (Group.tile s.g tile.toNat).poison.getLsbD (8 * l + c) = false) →
    exec (.mmst tile a) s = .next (done (withG (regionEnds s) (outstanding (regionEnds s).g
      (.store { no := (regionEnds s).g.nextNo, lc := (regionEnds s).g.lc, scratch := true, modw := false,
                scope := scratchWordScope accs, ord := 0, tile := true,
                parts := accs.map (fun x => { lane := x.lane, addr := x.addr, leaf := 0, data := rowBytes s tile x.lane }) })
      s.cur.mask [])))) ∧
  (∀ (s : State) (tile : BitVec 4) (a : RegNo), Closed s → Ready s (.mmld tile a) → QuartersWhole s tile →
    Sound s [consumed a false [.i32]] →
    let accs := scratchLanes s a 0 32
    RowsMove s tile accs (fun t => TileTag.trk t && !TileTag.v t) →
    exec (.mmld tile a) s = .next (done (withG (regionEnds s) (outstanding (regionEnds s).g (.mmld tile.toNat) s.cur.mask
      (accs.flatMap (fun x => (List.range 8).map (fun c =>
        { lane := x.lane, addr := x.addr + BitVec.ofNat 64 (4 * c), len := 4, leaf := 0, x := [], priv := false })))))))

/-! ## Tile tags, stage rings, phasers (R204, R225, R250 to R253, R280 to R284) -/

namespace Sys2Proof.Machine.Rules

/-- TILEV, TILEC and TILECLR with what each makes of a tile's tag (R204, R225): V := 1 and C := 0; C := 1; TRK := 1, V := 0 and
C := 0. -/
def tileWordOf : Instr → Option (RegNo × RegNo × Bool × Bool × (BitVec 5 → BitVec 5))
  | .tilev a b ua ub => some (a, b, ua, ub, fun t => TileTag.clear (TileTag.set t 0) 1)
  | .tilec a b ua ub => some (a, b, ua, ub, fun t => TileTag.set t 1)
  | .tileclr a b ua ub => some (a, b, ua, ub, fun t => TileTag.clear (TileTag.clear (TileTag.set t 4) 0) 1)
  | _ => none

/-- A register of the lane that names the request, of the given tags. -/
def named (a : RegNo) (u : Bool) (tags : List Tag) : Src := { reg := a.toNat, uni := u, tags := tags, use := .lowest }

/-- A register of that lane that the word reads without consuming its poison: a count or a mode (R117). -/
def peeked (a : RegNo) (u : Bool) (tags : List Tag) : Src := { reg := a.toNat, uni := u, tags := tags, use := .peek }

/-- The tag of an answer that depends on such a register: POISON if it is (R117). -/
def dependent (s : State) (b : RegNo) : Tag :=
  if (Group.cell s.g (first s) b.toNat).tag = .poison then .poison else .i32

/-- The ring of R250 with its geometry from a descriptor (R251). -/
def ringAsked (v : Nat) : Ring := { tb := bits v 0 9, n := bits v 9 5 + 1, t := bits v 14 4 + 1 }

/-- The two values of a ring word. -/
def ringNo (s : State) (a : RegNo) : Nat := (src s (first s) a.toNat false).toNat

/-- The group's block changed. -/
def withBlock (s : State) (f : Block → Block) : State := State.updBlock s s.g.ctx s.g.seq s.g.blk f

/-- A phaser word names its phaser legally (R280, R281): a block phaser of the hall window with number at most 63, or a 64-byte
aligned descriptor whose page allows an atomic and which is well formed. -/
def HandleLegal (s : State) (h : DWord) (ps : List Piece) : Prop :=
  if windowPointer h = true then bits h.toNat 0 32 ≤ 63
  else h.toNat % 64 = 0 ∧ Classified s .atomic [{ lane := first s, addr := h, len := 64 }] ps ∧
    (∀ p ∈ ps, Leaf.s p.leaf = false) ∧
    State.descriptorOk (lookedUp s [{ lane := first s, addr := h, len := 64 }]) s.g.ctx h = true

/-- The state once the descriptor's page is in the TLB. -/
def reached (s : State) (h : DWord) (ps : List Piece) : State := 
  if windowPointer h then s else touched s [{ lane := first s, addr := h, len := 64 }] true ps

/-- The mode of vb: 1 signals, 2 waits, 3 both (R282). -/
def ModeAsked (s : State) (b : RegNo) (m : BitVec 2) : Prop :=
  let v := src s (first s) b.toNat false
  v ≠ 0 ∧ v.toNat ≤ 3 ∧ m = BitVec.ofNat 2 v.toNat

/-- Every earlier load, store and atomic of the group is performed (R284). -/
def AccessesDone (s : State) : Prop := s.g.lcnt = 0 ∧ s.g.scnt = 0 ∧ s.g.acnt = 0

/-- The signal of R284: ARR goes up, the record's signal phase too; then the phase completes if every signaller has come (R283). -/
def signalled (s : State) (h : DWord) : State :=
  let t := State.putPhaser s s.g h { State.phaser s s.g h with arr := (State.phaser s s.g h).arr + 1 }
  let t := withG t (Group.updRecord t.g h (fun r => { r with sp := r.sp + 1 }))
  State.testPhase t t.g h

/-- The arrival of a wait: a phase whose signallers have all come completes (R283). -/
def arrived (s : State) (h : DWord) : State :=
  if (State.phaser s s.g h).nsig.toNat ≤ (State.phaser s s.g h).arr.toNat then State.completePhase s s.g h else s

/-- The wait of a record is over: PH − WP is 1 to 2^31 (R284). -/
def WaitOver (s : State) (h : DWord) (r : PhReg) : Prop :=
  1 ≤ ((State.phaser s s.g h).ph - r.wp).toNat ∧ ((State.phaser s s.g h).ph - r.wp).toNat ≤ 2147483648

/-- The wait's end: the record's wait phase goes up, and vd receives the phase waited for. -/
def waited (s : State) (d : RegNo) (h : DWord) (r : PhReg) : State :=
  State.answer (withG s (Group.updRecord s.g h (fun r => { r with wp := r.wp + 1 }))) d (fun _ => r.wp) .i32

end Sys2Proof.Machine.Rules

/-- TILEV, TILEC, TILECLR (R204, R225) and RNGI, RNGW, RNGS (R250 to R253), each where it completes at once: with no named tile held
and no earlier store of the group, nor any scratchpad access of it to that hall, outstanding the named tiles' tags change; RNGI makes the ring with P 0 on its
landings; RNGW goes on when P equals its side; RNGS, with the group's loads and stores performed, sets P to the other side. No
register changes. -/
def Obligations.TileTagAndRingWordsComplete : Prop :=
  (∀ (s : State) (i : Instr) (a b : RegNo) (ua ub : Bool) (f : BitVec 5 → BitVec 5) (blk off : Nat) (x : Block),
    tileWordOf i = some (a, b, ua, ub, f) → Closed s → Ready s i → Sound s [named a ua [.i32], peeked b ub [.i32]] →
    let addr := src s (first s) a.toNat ua
    let n := (src s (first s) b.toNat ub).toNat
    addr.toNat % 1024 = 0 → 1 ≤ n → n ≤ 512 → scratchTarget s.g.lr s.g.blk addr (1024 * n) = some (blk, off) →
    State.block? s s.g.ctx s.g.seq blk = some x → (∀ k < n, TileTag.h (Block.tag x (off / 1024 + k)) = false) →
    s.g.scnt = 0 → Group.scratchBusy (regionEnds s).g [placeRank (BitVec.zeroExtend 64 addr)] = false →
    exec i s = .next (done (State.setTiles (regionEnds s) s.g.ctx s.g.seq blk (off / 1024) n f))) ∧
  (∀ (s : State) (a b : RegNo), Closed s → Ready s (.rngi a b) → Sound s [named a false [], named b false []] →
    let x := ringAsked (ringNo s b)
    ringNo s a < 16 → ringNo s b < 2 ^ 18 → (x.tb + x.n * x.t) * 1024 ≤ s.g.lr.scratch →
    (State.ring? s (ringNo s a) = some x → exec (.rngi a b) s = .next (done (regionEnds s))) ∧
    (State.ring? s (ringNo s a) = none → exec (.rngi a b) s = .next (done (withBlock (regionEnds s) (fun y =>
      (List.range x.n).foldl (fun y j => Block.setTag y (x.tb + j * x.t) (fun t => TileTag.clear t 2))
        { y with rings := insert y.rings (ringNo s a) x }))))) ∧
  (∀ (s : State) (a b : RegNo) (x : Ring), Closed s → Ready s (.rngw a b) → Sound s [named a false [], named b false []] →
    let j := bits (ringNo s b) 0 5
    ringNo s a < 16 → ringNo s b < 64 → State.ring? s (ringNo s a) = some x → j < x.n →
    State.phaseBit s x j = (ringNo s b).testBit 5 → exec (.rngw a b) s = .next (done s)) ∧
  (∀ (s : State) (a b : RegNo) (x : Ring), Closed s → Ready s (.rngs a b) → Sound s [named a false [], named b false []] →
    let j := bits (ringNo s b) 0 5
    let side := (ringNo s b).testBit 5
    ringNo s a < 16 → ringNo s b < 64 → State.ring? s (ringNo s a) = some x → j < x.n → State.phaseBit s x j = side →
    s.g.lcnt = 0 → s.g.scnt = 0 →
    exec (.rngs a b) s = .next (done (withBlock (regionEnds s) (fun y =>
      Block.setTag y (x.tb + j * x.t) (fun t => if side then TileTag.clear t 2 else TileTag.set t 2)))))

/-- The phaser words (R280 to R284), each where it completes at once: PHREG, an entry to be had if it is the
first of a block phaser, registers the group and answers PH; PHMODE leaves the
mode pending and answers PH + 1; PHDROP drops the record and answers PH; PHSIG, every earlier access performed and its phase
current, signals and answers the phase signalled; PHWAIT past its phase answers the phase waited for; PHNEXT does what its mode
says, the signal first. -/
def Obligations.PhaserWordsComplete : Prop :=
  ∀ (s u e : State) (d a b : RegNo) (h : DWord) (srcs : List Src) (ps : List Piece), Closed s →
    h = State.src64 s (first s) a.toNat false → srcs = srcPair a.toNat false [] .lowest → HandleLegal s h ps →
    u = reached s h ps → e = regionEnds u →
    (∀ m, Ready s (.phreg d a b) → Sound s (srcs ++ [peeked b false []]) → ModeAsked s b m → Group.record? s.g h = none →
      s.g.phregs.length < 8 → (State.needsEntry u h = true → State.phaserEntries u s.g.hall < 64) →
      let p := State.phaser u u.g h
      let n : Word := if m.getLsbD 0 then 1 else 0
      let v := State.putPhaser u u.g h { p with nsig := p.nsig + n, nnext := p.nnext + n, npart := p.npart + 1 }
      let v := withG v { v.g with phregs := v.g.phregs ++ [{ handle := h, mode := m, pending := 0, sp := p.ph, wp := p.ph }] }
      exec (.phreg d a b) s = .next (done (State.answer (State.testPhase v v.g h) d (fun _ => p.ph) (dependent s b)))) ∧
    (∀ m, Ready s (.phmode d a b) → Sound s (srcs ++ [peeked b false []]) → ModeAsked s b m → Group.record? s.g h ≠ none →
      let v := withG u (Group.updRecord u.g h (fun r => { r with pending := m }))
      exec (.phmode d a b) s = .next (done (State.answer v d (fun _ => (State.phaser v v.g h).ph + 1) (dependent s b)))) ∧
    (∀ r, Ready s (.phdrop d a) → Sound s srcs → Group.record? s.g h = some r → (r.mode.getLsbD 0 = true → AccessesDone s) →
      let v := if r.mode.getLsbD 0 then e else u
      exec (.phdrop d a) s = .next (done (State.answer (State.dropPhaser v v.g r) d (fun _ => (State.phaser v v.g h).ph) .i32))) ∧
    (∀ r, Ready s (.phsig d a) → Sound s srcs → Group.record? s.g h = some r → r.mode.getLsbD 0 = true → AccessesDone s →
      r.sp = (State.phaser e e.g h).ph →
      exec (.phsig d a) s = .next (done (State.answer (signalled e h) d (fun _ => r.sp) .i32))) ∧
    (∀ r q, Ready s (.phwait d a) → Sound s srcs → Group.record? s.g h = some r → r.mode.getLsbD 1 = true →
      Group.record? (arrived u h).g h = some q → WaitOver (arrived u h) h q →
      exec (.phwait d a) s = .next (done (waited (arrived u h) d h q))) ∧
    (∀ r, Ready s (.phnext d a) → Sound s srcs → Group.record? s.g h = some r →
      (∀ q, r.mode.getLsbD 0 = false → Group.record? (arrived u h).g h = some q → WaitOver (arrived u h) h q →
        exec (.phnext d a) s = .next (done (waited (arrived u h) d h q))) ∧
      (r.mode.getLsbD 0 = true → AccessesDone s → r.sp = (State.phaser e e.g h).ph →
        (r.mode.getLsbD 1 = false →
          exec (.phnext d a) s = .next (done (State.answer (signalled e h) d (fun _ => r.sp) .i32))) ∧
        (∀ q, r.mode.getLsbD 1 = true → Group.record? (arrived (signalled e h) h).g h = some q →
          WaitOver (arrived (signalled e h) h) h q →
          exec (.phnext d a) s = .next (done (waited (arrived (signalled e h) h) d h q)))))

/-! ## Spawns, traces, collectives (R156, R306, R307, R310, R347, R350, R352, R354) -/

namespace Sys2Proof.Machine.Rules

/-- The TCB that SPAWN names, and what its word asks of the memory: aligned, accessible, and the earlier stores performed
(R156 steps 1 to 3). -/
def spawnTcb (s : State) (a : RegNo) (ua : Bool) : DWord := State.src64 s (first s) a.toNat ua

/-- The one access that SPAWN is classified for: the 128 bytes of the TCB that the lowest active lane names. -/
def spawnAccess (s : State) (a : RegNo) (ua : Bool) : List Access := [{ lane := first s, addr := spawnTcb s a ua, len := 128 }]

/-- The state in which SPAWN reads its TCB: the page in the TLB, the idempotent region ended (R156). -/
def spawnState (s : State) (a : RegNo) (ua : Bool) (ps : List Piece) : State := regionEnds (touched s (spawnAccess s a ua) true ps)

/-- Steps 1 to 4 of R156 are passed: the pointer is an ADDR pair, aligned, its page accessible, the group's earlier accesses are
performed (R267), and the TCB has STATUS 0 and its reserved fields zero. -/
def SpawnReady (s : State) (a : RegNo) (ua : Bool) (ps : List Piece) : Prop :=
  Sound s (srcPair a.toNat ua [.addr] .lowest) ∧ (spawnTcb s a ua).toNat % 128 = 0 ∧
  Classified s .atomic (spawnAccess s a ua) ps ∧ AccessesDone s ∧
  State.tcbClean (spawnState s a ua ps) s.g.ctx (spawnTcb s a ua) = true

/-- A queue takes posts of a context: its number is below 4096, its page enabled for that context. -/
def QueueTakes (s : State) (c q : Nat) : Prop := q < 4096 ∧ (State.queue s q).en = true ∧ (State.queue s q).ctx = c

/-- The queue that the TCB names. -/
def spawnQueue (s : State) (a : RegNo) (ua : Bool) (ps : List Piece) : Nat :=
  State.tcbField (spawnState s a ua ps) s.g.ctx (spawnTcb s a ua) 0x3C 2

/-- The entry that the spawn takes, or none (R58, R59). -/
def spawnEntry (s : State) (a : RegNo) (ua : Bool) (ps : List Piece) : Option Entry :=
  State.takeEntry (spawnState s a ua ps) s.g.ctx (spawnQueue s a ua ps) (dieOfHall s.g.hall) none

/-- Steps 5 and 6 of R156 are passed: the queue takes the context's posts; the spawning task is k, whose next spawn matches no
recorded child (R354), and no page is waited for (R379). -/
def SpawnTaken (s : State) (a : RegNo) (ua : Bool) (ps : List Piece) (k : Task) : Prop :=
  let u := spawnState s a ua ps
  QueueTakes u s.g.ctx (spawnQueue s a ua ps) ∧ State.task? u s.g.ctx s.g.seq = some k ∧ State.recordedChild u k = none ∧
  State.acceptWaits u s.g.ctx (spawnQueue s a ua ps) (spawnTcb s a ua) (spawnEntry s a ua ps) = false

/-- The state in which the new task is accepted, its interval a sixteenth of the one left (R347). -/
def spawned (s : State) (a : RegNo) (ua : Bool) (ps : List Piece) (k : Task) (e : Entry) : State :=
  State.spawnNew (spawnState s a ua ps) k (spawnTcb s a ua) (spawnQueue s a ua ps) e k.nextKey
    (k.nextKey + BitVec.ofNat 64 ((k.keyhi - k.nextKey).toNat / 16))

/-- The answer of a word reaches vd of the active lanes. -/
def answered (s : State) (d : RegNo) (v : Word) : State := State.answer (State.unpark s) d (fun _ => v) .i32

/-- The sources of COLL: the status area's address, the eight descriptor words, of which SRC and DST are addresses. -/
def collSrcs (a b : RegNo) (ua ub : Bool) : List Src :=
  srcPair a.toNat ua [.addr, .i32] .lowest ++ srcRun b.toNat 2 ub [] .peek ++ srcRun (b.toNat + 2) 4 ub [] .lowest ++
    srcRun (b.toNat + 6) 2 ub [] .peek

/-- The tag of COLL's answer: POISON where a source is (R117). -/
def collTag (s : State) (a b : RegNo) (ua ub : Bool) : Tag :=
  if State.srcPoison s ((collSrcs a b ua ub).map (fun x => { x with use := .lowest })) then .poison else .i32

/-- The sources of CSTAT: the number and the set, whose poison it does not consume. -/
def cstatSrcs (a b : RegNo) (ua ub : Bool) : List Src := [peeked a ua [.i32], peeked b ub [.i32]]

/-- The tag of CSTAT's answer. -/
def cstatTag (s : State) (a b : RegNo) (ua ub : Bool) : Tag :=
  if State.lanePoison s (cstatSrcs a b ua ub) (first s) then .poison else .i32

/-- The accesses that COLL is classified for. -/
def collAccesses (s : State) (status : DWord) (x : CollDesc) (members : List Nat) : List (Need × Access) :=
  let r := CollDesc.runs x members status
  engineAccesses (first s) r.1 ((if r.2.1.2 = 0 then [] else [r.2.1]) ++ [r.2.2])

/-- The state once the pages of COLL are looked up. -/
def collLooked (s : State) (status : DWord) (x : CollDesc) (members : List Nat) : State :=
  State.lookUp s s.g.hall s.g.ctx (collAccesses s status x members)

/-- COLL's checks pass (R307): the set exists, the status area is aligned, no BOUNDS case, every page classified, and the
destination is a whole buffer with PUB or on no S page without. -/
def CollAccepted (s : State) (status : DWord) (x : CollDesc) (members : List Nat) (ps : List Piece) : Prop :=
  let r := CollDesc.runs x members status
  let dsts := if r.2.1.2 = 0 then [] else [r.2.1]
  State.setOf s s.g.ctx x.set = some members ∧ status.toNat % 64 = 0 ∧ CollDesc.bad x members status = false ∧
  State.classifyAll (collLooked s status x members) s.g.hall s.g.ctx (collAccesses s status x members) = .ok ps ∧
  (if x.pub then r.2.1.2 = 0 ∨ ∃ e, State.buffer (collLooked s status x members) s.g.ctx (vaOf r.2.1.1.addr) = some e ∧
      PubEntry.holds e (vaOf r.2.1.1.addr + r.2.1.2 - 1) = true
    else ∀ p ∈ destPieces ps dsts, Leaf.s p.leaf = false)

/-- The arena that PROP or TRCTL names. -/
def arenaOf (s : State) (a : RegNo) : DWord := State.src64 s (first s) a.toNat false

/-- The access of TRCTL: the arena's header. -/
def arenaAccess (s : State) (a : RegNo) : List Access := [{ lane := first s, addr := arenaOf s a, len := 0x100 }]

/-- What TKEY answers: the interval left for the task's next children, 0 in an untraced one (R347). -/
def keyWords (s : State) : List (Word × Tag) :=
  match State.task? s s.g.ctx s.g.seq with
  | some k => if k.arena = 0 then [(0, .i32), (0, .i32), (0, .i32), (0, .i32)]
    else [(k.nextKey.extractLsb' 0 32, .i32), (k.nextKey.extractLsb' 32 32, .i32), (k.keyhi.extractLsb' 0 32, .i32),
      (k.keyhi.extractLsb' 32 32, .i32)]
  | none => [(0, .i32), (0, .i32), (0, .i32), (0, .i32)]

end Sys2Proof.Machine.Rules

/-- SPAWN and SPAWNW, accepted (R156, R347): with the checks passed, the queue open to the context, an entry to be had and an
interval left, the idempotent region ends, the new task is accepted with a sixteenth of the interval left, and vd receives 0.
SPAWN and SPAWNW, answered without a new task (R156): of a queue that does not take the context's posts each answers 2; with no
entry to be had SPAWN answers 1. -/
def Obligations.SpawnWordsComplete : Prop :=
  (∀ (s : State) (d a : RegNo) (ua : Bool) (ps : List Piece) (k : Task) (e : Entry), Closed s → SpawnReady s a ua ps →
     SpawnTaken s a ua ps k → spawnEntry s a ua ps = some e → (k.arena = 0 ∨ 2 ≤ (k.keyhi - k.nextKey).toNat / 16) →
     (Ready s (.spawn d a ua) → exec (.spawn d a ua) s = .next (done (answered (spawned s a ua ps k e) d 0))) ∧
     (Ready s (.spawnw d a ua) → exec (.spawnw d a ua) s = .next (done (answered (spawned s a ua ps k e) d 0)))) ∧
  (∀ (s : State) (d a : RegNo) (ua : Bool) (ps : List Piece), Closed s → SpawnReady s a ua ps →
     (¬ QueueTakes (spawnState s a ua ps) s.g.ctx (spawnQueue s a ua ps) →
       (Ready s (.spawn d a ua) → exec (.spawn d a ua) s = .next (done (answered (spawnState s a ua ps) d 2))) ∧
       (Ready s (.spawnw d a ua) → exec (.spawnw d a ua) s = .next (done (answered (spawnState s a ua ps) d 2)))) ∧
     (∀ k, SpawnTaken s a ua ps k → spawnEntry s a ua ps = none → Ready s (.spawn d a ua) →
       exec (.spawn d a ua) s = .next (done (answered (spawnState s a ua ps) d 1))))

/-- PROP, TRCTL and TKEY (R347, R350, R352): outside traced launches PROP ends the region and is outstanding once the stores are
performed; TRCTL ends the region and answers its operation's status, or the arena's STATE; TKEY reads the interval left. -/
def Obligations.TraceWordsComplete : Prop :=
  (∀ (s : State) (d a : RegNo), Closed s → Ready s (.prop d a) → State.inTracedLaunch s s.g.ctx s.g.seq = false →
    Sound s (srcPair a.toNat false [.addr, .i32] .lowest) → (arenaOf s a).toNat % 65536 = 0 →
    (State.trace? s s.g.ctx (arenaOf s a)).isSome = true → EngineRoom s → s.g.scnt = 0 →
    exec (.prop d a) s = .next (done (withG (regionEnds s) (outstanding (regionEnds s).g (.prop d.toNat) s.cur.mask
      [{ lane := first s, addr := arenaOf s a, len := 0, leaf := 0, x := [], priv := false }])))) ∧
  (∀ (s u : State) (d a b : RegNo) (op : Word) (ps : List Piece), Closed s → Ready s (.trctl d a b) →
    State.inTracedLaunch s s.g.ctx s.g.seq = false →
    Sound s (srcPair a.toNat false [.addr, .i32] .lowest ++ [peeked b false []]) → (arenaOf s a).toNat % 65536 = 0 →
    Classified s .atomic (arenaAccess s a) ps →
    u = regionEnds (touched s (arenaAccess s a) true ps) → op = src s (first s) b.toNat false →
    (op = 0 → exec (.trctl d a b) s = .next (done (State.answer (State.enableTrace u s.g.ctx (arenaOf s a)).2 d
      (fun _ => (State.enableTrace u s.g.ctx (arenaOf s a)).1) (dependent s b)))) ∧
    ((State.trace? (lookedUp s (arenaAccess s a)) s.g.ctx (arenaOf s a)).isSome = true →
      (op = 1 → exec (.trctl d a b) s = .next (done (State.answer (State.freeTrace u s.g.ctx (arenaOf s a)).2 d
        (fun _ => (State.freeTrace u s.g.ctx (arenaOf s a)).1) (dependent s b)))) ∧
      (op = 2 → exec (.trctl d a b) s = .next (done (State.answer u d
        (fun _ => BitVec.ofNat 32 (State.numVirt u s.g.ctx (vaOf (arenaOf s a) + 0x20) 4 % 4096)) (dependent s b)))))) ∧
  (∀ (s : State) (d : RegNo), Closed s → Ready s (.tkey d) → Sound s [] →
    exec (.tkey d) s = .next (done (writes s { srcs := [], lat := 6, dst := d, n := 4, out := fun _ => keyWords s })))

/-- COLL and CSTAT (R306, R307, R310): COLL, its checks passed, with room in ecnt and fewer than 256 held, ends the region, marks a
traced task volatile and is outstanding, counted in ecnt; CSTAT is outstanding for every active lane. -/
def Obligations.CollectiveWordsComplete : Prop :=
  (∀ (s t u : State) (d a b : RegNo) (ua ub : Bool) (w : List Word) (status : DWord) (members : List Nat) (ps : List Piece),
    Closed s → Ready s (.coll d a b ua ub) → Sound s (collSrcs a b ua ub) → w = words s b 8 ub →
    status = State.src64 s (first s) a.toNat ua → EngineRoom s → CollAccepted s status (collDescOf w) members ps →
    State.collsHeld s s.g.ctx < 256 →
    t = regionEnds (State.touchAll (collLooked s status (collDescOf w) members) ps
      [(CollDesc.runs (collDescOf w) members status).2.1]) →
    u = State.markVolatile t s.g.ctx s.g.seq →
    exec (.coll d a b ua ub) s = .next (done (withG u
      { outstanding u.g (.coll d.toNat u.g.commands w (collTag s a b ua ub)) s.cur.mask
          [{ lane := first s, addr := status, len := 0, leaf := 0, x := [], priv := false }] with
        ecnt := u.g.ecnt + 1, commands := u.g.commands + 1 }))) ∧
  (∀ (s : State) (d a b : RegNo) (ua ub : Bool), Closed s → Ready s (.cstat d a b ua ub) → Sound s (cstatSrcs a b ua ub) →
    (src s (first s) b.toNat ub).toNat ≤ 15 →
    exec (.cstat d a b ua ub) s = .next (done (withG s
      (outstanding s.g (.cstat (src s (first s) b.toNat ub).toNat (src s (first s) a.toNat ua).toNat d.toNat (cstatTag s a b ua ub))
        s.cur.mask
        ((Mask.lanes s.cur.mask).map (fun l => { lane := l, addr := 0, len := 0, leaf := 0, x := [], priv := false }))))))

/-! ## The aperture's queue pages and registers (R8, R10, R11, R46 to R48, R334, R363) -/

namespace Sys2Proof.Machine.Rules

/-- Gocen Link has trained after the boot's last step, and the package is not in OFF (R13, R19). -/
abbrev LinkUp (s : State) : Prop := s.pkg.bootDone = 4 ∧ s.pkg.power ≠ .off

/-- POSTERR of a queue goes up by 1 and stays at its highest value. -/
def postErr (s : State) (q : Nat) : State := State.updQueue s q (fun x => { x with posterr := satInc x.posterr })

/-- A step waits in the package. -/
def waits (s : State) (i : Instr) : State := State.updPkg s (fun p => { p with waiting := p.waiting ++ [i] })

/-- A queue page's register takes a good value from a supervisor; any other write counts in POSTERR (R47). -/
def taken (s : State) (q : Nat) (good : Prop) [Decidable good] (f : Queue → Queue) : State :=
  if good then State.updQueue s q f else postErr s q

/-- The writes of a queue page's supervisor registers (R47): which value is good, and what it changes; PRIO, QUANTUM and PRE act
from the queue's next visit on. -/
def queueRegister (s : State) : Instr → Option (Nat × State)
  | .qcfgWrite q sup v => some (q, taken s q
      (sup = true ∧ bits v.toNat 56 8 = 0 ∧ bits v.toNat 10 6 = 0 ∧ bits v.toNat 7 1 = 0 ∧
        (v.toNat.testBit 8 = true → bits v.toNat 16 32 ≠ 0) ∧
        (bits v.toNat 48 8 ≠ (State.queue s q).ctx →
          State.readyCount s q = 0 ∧ State.waitingCount s q = 0 ∧ State.queueBusy s q = false))
      (fun x => { x with cfg := v, en := v.toNat.testBit 8, ctx := bits v.toNat 48 8 }))
  | .qovfbaseWrite q sup v => some (q, taken s q (sup = true ∧ bits v.toNat 57 7 = 0 ∧ v.toNat % 256 = 0) (fun x => { x with ovfBase := v }))
  | .qovfszWrite q sup v => some (q, taken s q (sup = true ∧ bits v.toNat 0 32 ≤ bits v.toNat 32 32) (fun x =>
      { x with ovfMax := bits v.toNat 32 32, ovfCap := bits v.toNat 0 32 }))
  | .qrbaseWrite q sup v => some (q, taken s q (sup = true ∧ bits v.toNat 57 7 = 0 ∧ bits v.toNat 0 4 ≤ 12) (fun x =>
      { x with qrBase := BitVec.ofNat 64 (bits v.toNat 4 53 * 16), qrLog2 := bits v.toNat 0 4 }))
  | _ => none

/-- A post of a TCB's address to a queue of an awake package (R48); it comes after those that wait (R11). -/
def posted (s : State) (q : Nat) (v : DWord) : State :=
  let c := (State.queue s q).ctx
  if State.postBehind s q = true then waits s (.post q 64 v)
  else if (State.queue s q).en = false ∨ (State.ctx? s c).isNone = true then postErr s q
  else if State.missing s c true v.toNat 128 = true then waits s (.post q 64 v)
  else if State.canAccess s c true v.toNat 128 = false ∨ State.tcbClean s c v = false ∨ State.tcbField s c v 0x3C 2 ≠ q then postErr s q
  else if State.acceptWaits s c q v (State.takeEntry s c q (dieOfQueue q) none) = true then waits s (.post q 64 v)
  else match State.takeEntry s c q (dieOfQueue q) none with
    | none => postErr s q
    | some e => State.accept s c q v e none

/-- The registers whose write is a step of its own: LOCKSTEP_DIVERGE, ATTCTL, DBGCTL, DBGCMD, SMPCFG, RPCTL, and POST, QCFG, QOVFBASE,
QOVFSZ and QRBASE of a queue page. -/
def OwnStep (page o : Nat) : Prop :=
  (page = 0 ∧ o = 0) ∨ (page = 1 ∧ o = 0x20) ∨ (0x100 ≤ page ∧ page < 0x200 ∧ o ∈ [0, 8, 0x300, 0x380]) ∨
  (0x1000 ≤ page ∧ page < 0x2000 ∧ o ∈ [0, 0x20, 0x28, 0x30, 0x38])

/-- A mailbox command is the step of its operation. -/
def commandStep (c : Nat) (w : DWord) : Instr → Prop
  | .haltGroup d v => d = c ∧ v = w ∧ bits w.toNat 0 4 = 1
  | .resumeGroup d v => d = c ∧ v = w ∧ bits w.toNat 0 4 = 2
  | .stepGroup d v => d = c ∧ v = w ∧ bits w.toNat 0 4 = 3
  | .haltContext d v => d = c ∧ v = w ∧ bits w.toNat 0 4 = 4
  | .resumeContext d v => d = c ∧ v = w ∧ bits w.toNat 0 4 = 5
  | .traceGroupOn d v => d = c ∧ v = w ∧ bits w.toNat 0 4 = 6
  | .traceGroupOff d v => d = c ∧ v = w ∧ bits w.toNat 0 4 = 7
  | .selectGroup d v => d = c ∧ v = w ∧ bits w.toNat 0 4 = 8
  | .traceAllOn d v => d = c ∧ v = w ∧ bits w.toNat 0 4 = 9
  | .traceAllOff d v => d = c ∧ v = w ∧ bits w.toNat 0 4 = 10
  | .dump d v => d = c ∧ v = w ∧ bits w.toNat 0 4 = 11
  | _ => False

/-- The step that the write of a register is. -/
def registerStep (page o n : Nat) (sup : Bool) (v w : DWord) (i : Instr) : Prop :=
  (page = 0 ∧ sup = true ∧ o = 0 ∧ i = .lockstepDivergeClear (BitVec.ofNat 32 w.toNat)) ∨
  (page = 1 ∧ o = 0x20 ∧ i = .attestationGo w) ∨
  (0x100 ≤ page ∧ page < 0x200 ∧
    ((o = 0 ∧ i = .debugRightWrite (page - 0x100) sup w) ∨ (o = 8 ∧ commandStep (page - 0x100) w i) ∨
      (o = 0x300 ∧ i = .smpcfgWrite (page - 0x100) w) ∨ (o = 0x380 ∧ i = .rpctlWrite (page - 0x100) w))) ∨
  (0x1000 ≤ page ∧ page < 0x2000 ∧
    ((o = 0 ∧ i = .post (page - 0x1000) n v) ∨ (o = 0x20 ∧ i = .qcfgWrite (page - 0x1000) sup w) ∨
      (o = 0x28 ∧ i = .qovfbaseWrite (page - 0x1000) sup w) ∨ (o = 0x30 ∧ i = .qovfszWrite (page - 0x1000) sup w) ∨
      (o = 0x38 ∧ i = .qrbaseWrite (page - 0x1000) sup w)))

/-- The rest of the aperture's registers keep what is written: the word of eight bytes with the written part in it. -/
def registerTakes (s : State) (page o : Nat) (sup : Bool) (w : Nat) : State :=
  if page = 0 then (if sup = true then State.writeHealth s o (if o = 0x10 then w % 2 ^ 32 else w) else s)
  else if page = 1 then State.writeAttest s o w
  else if 0x100 ≤ page ∧ page < 0x200 then
    State.updDebug s (page - 0x100) (fun d => writeMailbox d o (BitVec.ofNat 64 w).toNat)
  else if 0x1000 ≤ page ∧ page < 0x2000 ∧ o = 0x48 then
    State.updQueue s (page - 0x1000) (fun x => { x with qrTail := BitVec.ofNat 32 (BitVec.ofNat 64 w).toNat })
  else s

/-- The word that a write leaves: the written bits in the word as it stands; GO and LOCKSTEP_DIVERGE count as 0 where a narrower write
leaves them out (the model's choice, log entry 42). -/
def wordWritten (s : State) (off n : Nat) (v : DWord) : Nat :=
  let w := State.readAperture s (off / 8 * 8)
  let kept := if off / 8 * 8 = 0 then 0 else if off / 8 * 8 = 0x10020 then w / 2 * 2 else w
  mergeWord kept off n v.toNat

end Sys2Proof.Machine.Rules

/-- The queue pages and the plain registers (R8, R10, R46 to R48): while the link is up, the four supervisor registers of a queue
page keep a good value and count a bad one in POSTERR; an eight-byte post is accepted, waits behind those that wait, for its page or
its entry, or is counted; in P1 and P2 a post waits, and P1 begins to exit; an aligned register write lands in its word, or is the
register's own step, of a post with the width written. A write of another width or to no queue, and every write while the link is
down, changes nothing. -/
def Obligations.ApertureWritesComplete : Prop :=
  ∀ (s : State),
    (∀ i q t, queueRegister s i = some (q, t) → exec i s = .next (if LinkUp s ∧ q < 4096 then t else s)) ∧
    (∀ q v, LinkUp s → q < 4096 → (bits v.toNat 57 7 ≠ 0 ∨ v.toNat % 128 ≠ 0) → exec (.post q 64 v) s = .next (postErr s q)) ∧
    (∀ q v, LinkUp s → q < 4096 → bits v.toNat 57 7 = 0 → v.toNat % 128 = 0 →
      exec (.post q 64 v) s = .next (
        if s.pkg.power = .p0 ∧ s.pkg.exiting = false then posted s q v
        else State.updPkg (waits s (.post q 64 v)) (fun p => { p with exiting := p.exiting || p.power == .p1 }))) ∧
    (∀ q n v, ¬ (LinkUp s ∧ q < 4096 ∧ n = 64) → exec (.post q n v) s = .next s) ∧
    (∀ off n sup v,
      (¬ (LinkUp s ∧ n ∈ [8, 16, 32, 64] ∧ 8 * off % n = 0) → exec (.registerWrite off n sup v) s = .next s) ∧
      (LinkUp s → n ∈ [8, 16, 32, 64] → 8 * off % n = 0 →
        (¬ OwnStep (off / 65536) (off / 8 * 8 % 65536) → exec (.registerWrite off n sup v) s =
          .next (registerTakes s (off / 65536) (off / 8 * 8 % 65536) sup (wordWritten s off n v))) ∧
        (∀ i, registerStep (off / 65536) (off / 8 * 8 % 65536) n sup v (BitVec.ofNat 64 (wordWritten s off n v)) i →
          exec (.registerWrite off n sup v) s = exec i s)))

/-! ## The start and the board (R12 to R20, R22) -/

namespace Sys2Proof.Machine.Rules

/-- A step of the boot: it comes in its turn, with no step halted before it and the package not in OFF; a good image extends the
step's measurement register and the next step may come, a bad one halts the boot at this step (R12, R13). -/
def bootStep (s : State) (n : Nat) (loaded : Bool) (image : List Byte) : State :=
  if s.pkg.bootDone + 1 = n ∧ s.pkg.bootHalt = 0 ∧ s.pkg.power ≠ .off then
    State.updPkg s (fun p => if loaded then
      { p with meas := p.meas.set (n - 1) (sha384 (p.meas.getD (n - 1) [] ++ sha384 image)), bootDone := n } else { p with bootHalt := n })
  else s

/-- The steps of the start (R12 to R14, R21): a package reset keeps the boot counter, one higher, HOT and the retired units; at
the release the links that have trained, their ports in service, make the link table. -/
def startEvent (s : State) : Instr → Option State
  | .packageReset => some (State.askReplace (State.updPkg (State.lost s) (fun p => { p with bootCount := p.bootCount + 1 })))
  | .bootLoadFirstStage ok image => some (bootStep s 1 ok image)
  | .bootLoadNewelFirmware ok image => some (bootStep s 2 ok image)
  | .bootLoadCollectiveMicrocode ok image => some (bootStep s 3 ok image)
  | .bootRelease links => some (
      if s.pkg.bootDone = 3 ∧ s.pkg.bootHalt = 0 ∧ s.pkg.power ≠ .off then
        State.updPkg s (fun p => { p with chainComplete := true, bootDone := 4, tsid := 1, links := links.filter (fun e => LinkEntry.ok e && e.state == 2 && !State.portOut s e) })
      else s)
  | .firmwareReload image => some (
      if s.pkg.bootDone = 4 ∧ s.pkg.power ≠ .off then
        State.updPkg s (fun p => { p with meas := p.meas.set 3 (sha384 (p.meas.getD 3 [] ++ sha384 image)) })
      else s)
  | .lockstepBridgeTrained => some (State.updPkg s (fun p => { p with paired := true }))
  | .lockstepBridgeLost => some (State.updPkg s (fun p => { p with paired := false }))
  | _ => none

/-- An I3C command is answered with these bytes. -/
def replied (s : State) (reply : List Byte) : State := State.updPkg s (fun p => { p with i3cReply := reply, i3cNack := false })

/-- An I3C command is answered with a NACK. -/
def nacked (s : State) : State := State.updPkg s (fun p => { p with i3cReply := [], i3cNack := true })

/-- The power state changes, and an exit under way is over; P1 is left again at once for a post that waits (the model's choice, log
entry 44). -/
def powered (s : State) (x : Power) : State :=
  State.updPkg s (fun p => { p with power := x, exiting := x == .p1 && State.postWaits s })

/-- A context is resident: a group or a gang of one is in the package. -/
abbrev Resident (s : State) : Prop := s.g.valid = true ∨ s.groups ≠ [] ∨ s.gangs ≠ []

/-- What each command of the I3C target does in a package that is not in OFF (R18, R19). -/
def boardCommand (s : State) : Instr → Option State
  | .readHealthSummary => some (replied s (leBytes 8 (State.readHealth s 0) ++ leBytes 8 (State.readHealth s 8)))
  | .readPower => some (replied { s with free := s.free + 1 } (leBytes 4 (Config.powerReading s.free).toNat))
  | .readTemperature => some (replied { s with free := s.free + 1 } ((List.range 5).map (Config.temperatureReading s.free)))
  | .requestReport nonce ctx => some (
      if nonce.length = 32 then
        State.updPkg (replied (State.queueReport s { i3c := true, nonce := nonce, ctx := ctx.toNat, at_ := s.clk }) [])
          (fun p => { p with i3cReady := false })
      else nacked s)
  | .readReport => some (replied s (if s.pkg.i3cReady then s.pkg.i3cBuf else [0]))
  | .setdasa addr => some (State.updPkg s (fun p => { p with i3cAddr := addr }))
  | .unlistedI3cCommand code => some (if code.toNat ∈ [0x10, 0x11, 0x12, 0x20, 0x21, 0x30] then s else nacked s)
  | .setPowerStateP0 => some (State.updPkg (replied s []) (fun p => { p with exiting := p.power != .p0 }))
  | .setPowerStateP1 => some (if Resident s then replied s [] else powered (replied s []) .p1)
  | .setPowerStateP2 => some (if s.ctxs = [] then powered (replied s []) .p2 else replied s [])
  | .setPowerStateOff => some (if s.ctxs = [] then powered (State.lost (replied s [])) .off else replied s [])
  | .setPowerStateOtherByte b => some (if b.toNat ≤ 3 then s else nacked s)
  | _ => none

/-- The package's own changes of power and heat (R19, R20). -/
def powerEvent (s : State) : Instr → Option State
  | .powerStateExitComplete => some (
      if s.pkg.exiting = true ∧ s.pkg.power ≠ .off then State.release (powered s .p0) else s)
  | .enterP1 => some (if State.newelUp s = true ∧ ¬ Resident s then powered s .p1 else s)
  | .thermalSet => some (if LinkUp s then State.updPkg s (fun p => { p with thermal := true }) else s)
  | .thermalClear => some (State.updPkg s (fun p => { p with thermal := false }))
  | .thermalShutdown => some (State.updPkg (powered (State.lost s) .off) (fun p => { p with hot := true }))
  | _ => none

/-- ATTCTL takes a write: bits 31:8 the context, bit 0 GO, the rest reserved; a GO write while a request is pending is ignored, a write
without GO is not (R15). What a nonzero reserved field does beside GO = 0, and that a rejected GO stores no context, is the model's
choice, log entry 43. -/
def attestWrite (s : State) (v : DWord) : State :=
  let good := v.toNat / 2 ^ 32 = 0 ∧ bits v.toNat 1 7 = 0
  if v.getLsbD 0 = false then (if good then State.updPkg s (fun p => { p with attCtx := bits v.toNat 8 24 }) else s)
  else if s.pkg.attStat = 1 then s
  else if good then
    State.queueReport (State.updPkg s (fun p => { p with attCtx := bits v.toNat 8 24, attStat := 1 }))
      { i3c := false, nonce := s.pkg.attNonce, ctx := bits v.toNat 8 24, at_ := s.clk }
  else State.updPkg s (fun p => { p with attStat := 3 })

end Sys2Proof.Machine.Rules

/-- The start, the board and the power states (R12 to R22): every step of the boot extends its measurement register in turn or halts
the boot; each I3C command of a package not in OFF has its effect and its answer, and one in OFF answers none; a state that the
package may not enter is not entered; GO queues a report, a report of the oldest request is given in its buffer. -/
def Obligations.StartBoardAndPowerComplete : Prop :=
  ∀ (s t : State) (i : Instr),
    (startEvent s i = some t → exec i s = .next t) ∧
    (boardCommand s i = some t → exec i s = .next (if s.pkg.power = .off then s else t)) ∧
    (powerEvent s i = some t → exec i s = .next t) ∧
    (∀ v, exec (.attestationGo v) s = .next (if LinkUp s then attestWrite s v else s)) ∧
    (s.pkg.power = .off ∨ s.pkg.attQueue = [] → exec .attestationReportReady s = .next s) ∧
    (∀ r rest, s.pkg.power ≠ .off → s.pkg.attQueue = r :: rest →
      exec .attestationReportReady s = .next (State.updPkg s (fun p =>
        if r.i3c then { p with attQueue := rest, i3cBuf := State.report s r.nonce r.ctx, i3cReady := rest.all (fun x => !x.i3c) }
        else { p with attQueue := rest, attBuf := State.report s r.nonce r.ctx, attStat := 2 })))

/-! ## Contexts, pages, and what the host does to them (R9, R71, R73, R75 to R86, R272, R296, R316, R330, R379) -/

namespace Sys2Proof.Machine.Rules

/-- The driver may create a context here: the number is free and below 256, the root is 16 KiB aligned (R73), and a lockstep mask
is given only with the bridge trained and dies that no block of another context and no other lockstep context uses (R22, R71). -/
abbrev MayCreate (s : State) (c : Nat) (p : CtxParams) : Prop :=
  (s.pkg.bootDone = 4 ∧ (s.pkg.power = .p0 ∨ s.pkg.power = .p1)) ∧ c < 256 ∧ State.ctx? s c = none ∧ p.root % 16384 = 0 ∧
  (p.lockMask = 0 ∨ (s.pkg.paired = true ∧ (∀ b ∈ s.blocks, p.lockMask.getLsbD (dieOfHall b.hall) = false) ∧
    ∀ x ∈ s.ctxs, x.2.lockMask &&& p.lockMask = 0))

/-- A context as the driver gives it: SEQ starts at 1 (R48), each class has 4 ways (R83), nothing else stands in it. -/
def newContext (p : CtxParams) : Ctx :=
  { root := p.root, tbase := 0, checking := p.checking, bounded := p.bounded, lockMask := p.lockMask, pubTable := p.pubTable,
    quotas := [4, 4, 4, 4], sets := [], setCounts := [], nextSeq := 1, pubs := [], traces := [], dbg := Debug.zero, shoot := [],
    lockHalted := false }

/-- What is left of a context when the driver destroys it: its tasks have failed as in a kill, and nothing names it any more. -/
def forgotten (t : State) (c : Nat) : State :=
  { t with
    ctxs := remove t.ctxs c, tasks := t.tasks.filter (fun x => x.ctx != c),
    halls := t.halls.map (fun h => (h.1, { h.2 with
      tlb := h.2.tlb.filter (fun e => e.ctx != c), icache := h.2.icache.filter (fun e => e.ctx != c),
      samples := h.2.samples.filter (fun x => x.1 != c) })),
    pkg := { t.pkg with collectives := t.pkg.collectives.filter (fun x => x.ctx != c) } }

/-- One granule of a mapped resident page gets a tag. -/
def granuleTagged (c : Nat) (tag : BitVec 4) (s : State) (a : Nat) : State :=
  match State.walk s c a with
  | .leaf l _ => if Leaf.v l then
      { s with gtags := if tag = 0 then remove s.gtags (State.physOf s c l true a / 32) else insert s.gtags (State.physOf s c l true a / 32) tag }
    else s
  | .absent => s

/-- The driver's calls about contexts (R71, R73, R82, R83, R296, R316, R330). -/
def contextEvent (s : State) : Instr → Option State
  | .contextCreate c p => some (if MayCreate s c p then
      { s with ctxs := insert s.ctxs c (newContext p) }
      else s)
  | .contextKill c => some (if State.ctx? s c = none then s else State.killContext s c 0x63)
  | .contextDestroy c => some (if State.ctx? s c = none then s else forgotten (State.killContext s c 0x63) c)
  | .setTrapBase c a => some (if a.toNat % 16 = 0 then State.updCtx s c (fun x => { x with tbase := a }) else s)
  | .setWayQuota c w a k o => some (if w + a + k + o ≤ 16 then State.updCtx s c (fun x => { x with quotas := [o, w, a, k] }) else s)
  | .setGranuleTags c va n tag => some (((List.range n).map (fun i => vaOf va / 32 * 32 + 32 * i)).foldl (granuleTagged c tag) s)
  | .defineCollectiveSet c n pkgs => some (
      if State.ctx? s c = none ∨ n > 15 ∨ pkgs.length = 0 ∨ pkgs.length > 512 ∨ pkgs.eraseDups.length ≠ pkgs.length then s
      else if ∃ x ∈ s.pkg.collectives, x.ctx = c ∧ x.set = n ∧ x.st = 0 then State.updPkg s (fun p => { p with fwFault := satInc p.fwFault })
      else State.updPkg (State.updCtx s c (fun x => { x with sets := insert x.sets n pkgs, setCounts := insert x.setCounts n 0 }))
        (fun p => { p with collectives := p.collectives.filter (fun x => !(x.ctx == c && x.set == n)),
                           relayed := p.relayed.filter (fun r => !(r.ctx == c && r.set == n)) }))
  | _ => none

/-- A page of a context may stand at a frame: a lockstep context's pages stay in host memory and on its dies (R71). -/
abbrev FrameOk (s : State) (c frame : Nat) : Prop :=
  State.lockMask s c = 0 ∨ Config.isHostMemory frame = true ∨ (State.lockMask s c).getLsbD (Config.dieOf frame).val = true

/-- A new leaf may stand where a page is not resident (R80): it is absent, or resident with a frame aligned to the page's size and
every other field as the old leaf has it. -/
abbrev NewLeaf (s : State) (c : Nat) (l leaf : DWord) : Prop :=
  leaf = 0 ∨ (Leaf.v leaf = true ∧ Leaf.withFrame (Leaf.clear leaf 0) 0 = Leaf.withFrame (Leaf.clear l 0) 0 ∧
    Leaf.frame leaf % 2 ^ Leaf.offBits l = 0 ∧ FrameOk s c (Leaf.frame leaf))

/-- The tags of a page that is newly mapped with T = 1 are zero (R82). -/
def tagsZeroed (s : State) (l leaf : DWord) : State :=
  if (Leaf.v leaf = true ∧ Leaf.t leaf = true) ∧ ¬ ((Leaf.v l = true ∧ Leaf.t l = true) ∧ Leaf.frame l = Leaf.frame leaf) then
    { s with gtags := s.gtags.filter (fun p =>
        !(decide (Leaf.frame leaf / 32 ≤ p.1) && decide (p.1 < (Leaf.frame leaf + 2 ^ Leaf.offBits leaf) / 32))) }
  else s

/-- Cached and stashed lines of a page go home (R84). -/
def recalled (s : State) (l : DWord) : State :=
  s.blocks.foldl (fun t b => State.flushBlock t b.ctx b.seq b.blk
    (fun x => decide (Leaf.frame l / 128 ≤ x.pa) && decide (x.pa < Leaf.frame l / 128 + 2 ^ Leaf.offBits l / 128)) false)
    s

/-- A page may begin to move: it is resident, not moving, on no S page, with no bounded block of its context resident, and for a
lockstep context only while the packages are paired (R71, R84, R85). -/
abbrev MayStart (s : State) (c : Nat) (l : DWord) : Prop :=
  Leaf.v l = true ∧ Leaf.g l = false ∧ Leaf.s l = false ∧ State.boundedResident s c = false ∧
  (State.lockMask s c ≠ 0 → s.pkg.paired = true)

/-- The events of a page that the walk of its address finds (R77, R80, R84); each repeat of a large page's entry keeps its own A and D
bits. -/
def pageEvent (s : State) (l : DWord) (pte : Nat) : Instr → Option State
  | .shootdownRequest c va leaf => some (
      if Leaf.v l = true ∧ Leaf.g l = false ∧ (Leaf.v leaf = true → FrameOk s c (Leaf.frame leaf)) then
        State.updCtx (tagsZeroed (State.writeLeaf s l pte (fun _ => leaf)) l leaf) c
          (fun x => { x with shoot := x.shoot ++ [pageOf (vaOf va)] })
      else s)
  | .pageResident c va leaf => some (if Leaf.v l = false ∧ NewLeaf s c l leaf then
      let t := State.writeLeaf s l pte (fun x => if leaf = 0 then 0 else Leaf.withFrame (Leaf.set x 0) (Leaf.frame leaf))
      State.release (State.settleLate (State.pageArrived (tagsZeroed t l leaf) c (vaOf va) (Leaf.offBits l)))
      else s)
  | .migrationStart c va => some (if MayStart s c l then
      recalled (State.uncache (State.shootdown (State.writeLeaf s l pte (fun x => Leaf.set x 11)) c (vaOf va))
        (Leaf.frame l) (2 ^ Leaf.offBits l)) l
      else s)
  | _ => none

/-- The context and address of a page's event. -/
def pageNamed : Instr → Option (Nat × DWord)
  | .shootdownRequest c va _ => some (c, va)
  | .pageResident c va _ => some (c, va)
  | .migrationStart c va => some (c, va)
  | .migrationComplete c va _ => some (c, va)
  | _ => none

/-- A page may be moved to a frame: it is being moved, the frame is aligned to its size and below 2^56, and on a die that a lockstep
context may use (R71, R84). -/
abbrev MayMove (s : State) (c : Nat) (l : DWord) (frame : Nat) : Prop :=
  Leaf.g l = true ∧ frame % 2 ^ Leaf.offBits l = 0 ∧ frame < 2 ^ 56 ∧ FrameOk s c frame

/-- The page's bytes, its granule tags and its poison stand at the new frame too; no line there has its tags beside L2 (R82, R84). -/
def pageCopied (s : State) (l : DWord) (frame : Nat) : State :=
  let n := 2 ^ Leaf.offBits l
  let old := Leaf.frame l
  { s with
    mem := if frame = old then s.mem else Memory.copy s.mem old frame n,
    gtags := if frame = old then s.gtags else copyRange s.gtags (old / 32) (frame / 32) (n / 32),
    gpoison := if frame = old then s.gpoison else
      (s.gpoison.filter (fun g => !(decide (frame / 32 ≤ g) && decide (g < (frame + n) / 32)))) ++
      (s.gpoison.filter (fun g => decide (old / 32 ≤ g) && decide (g < (old + n) / 32))).map (fun g => g - old / 32 + frame / 32),
    sideband := s.sideband.filter (fun x => !(decide (frame / 128 ≤ x) && decide (x < (frame + n) / 128))) }

/-- The fills of caches and the homes of slices (R78, R79, R86, R336). -/
def fillEvent (s : State) : Instr → Option State
  | .tlbWalkComplete h c va => some (if h < 384 then State.fillTlb s h c (vaOf va) else s)
  | .packetFetchFill h c va => some (
      if h < 384 ∧ vaOf va % 16 = 0 ∧ (State.hall s h).icache.any (fun l => l.ctx == c && l.va == vaOf va) = false then
        match State.translate s h c (vaOf va) with
        | .absent => s
        | .leaf l _ =>
          if Leaf.x l = true ∧ Leaf.w l = false ∧ (Leaf.s l = true → (State.buffer s c (vaOf va)).isSome = true) ∧
              fetchWaits s c (vaOf va) l = false then
            (State.fillPacket s h c (vaOf va) l).2
          else s
      else s)
  | .tagVerdict line => some { s with sideband := if line ∈ s.sideband then s.sideband else s.sideband ++ [line] }
  | .sliceRehomingDone n => some (
      if (State.unit s n).rehoming = true then State.release (State.updUnit s n (fun x => { x with rehoming := false })) else s)
  | _ => none

/-- The pages of a host access, in the order of its bytes, and how many bytes lie in each. -/
def hostRuns (va : DWord) (n : Nat) : List (DWord × Nat) := splitPages (BitVec.ofNat 64 (vaOf va)) n

/-- A host access to a run of a page must wait: the page is being moved, its home slice rehomed, or a write finds a granule that a
commit has locked (R84, R292, R336). -/
def hostWaits (s : State) (c : Nat) (w : Bool) (p : DWord × Nat) : Bool :=
  match State.walk s c (vaOf p.1) with
  | .leaf l _ => Leaf.v l && (Leaf.g l || State.rehoming s (State.physOf s c l true (vaOf p.1)) p.2 ||
      (w && State.locked s (State.physOf s c l true (vaOf p.1)) p.2))
  | .absent => false

end Sys2Proof.Machine.Rules

/-- Contexts and pages (R9, R71, R73, R75 to R86, R272, R296, R316, R330, R379): what each call of the driver does or that it is
turned away; a page's entry changes at a shootdown's request and no cache names it after; a page that becomes resident releases
what waited for it; a migration sets G and, complete, copies the page with its tags, writes the frame with G clear and lets the waiting
steps go before later ones; a host access reads or writes each page's bytes at their home, and waits while it cannot be
performed. -/
def Obligations.ContextPageAndHostEventsComplete : Prop :=
  ∀ (s t : State) (i : Instr),
    (contextEvent s i = some t → exec i s = .next t) ∧
    (fillEvent s i = some t → exec i s = .next t) ∧
    (∀ c va, pageNamed i = some (c, va) →
      (State.walk s c (vaOf va) = .absent → exec i s = .next s) ∧
      (∀ l pte, State.walk s c (vaOf va) = .leaf l pte → pageEvent s l pte i = some t → exec i s = .next t)) ∧
    (∀ c va frame l pte, State.walk s c (vaOf va) = .leaf l pte →
      (¬ MayMove s c l frame → exec (.migrationComplete c va frame) s = .next s) ∧
      (MayMove s c l frame → ∃ u, exec (.migrationComplete c va frame) s = .next u ∧
        u.mem = (State.writeLeaf (pageCopied s l frame) l pte (fun x => Leaf.withFrame (Leaf.clear x 11) frame)).mem ∧
        u.gtags = (pageCopied s l frame).gtags ∧ u.gpoison = (pageCopied s l frame).gpoison ∧
        u.pkg.waiting = [] ∧ u.events = s.pkg.waiting ++ s.events)) ∧
    (∀ c va, exec (.shootdownComplete c va) s = .next (
      match State.ctx? s c with
      | none => s
      | some x => if pageOf (vaOf va) ∈ x.shoot then
          State.updCtx (State.shootdown s c (vaOf va)) c (fun y => { y with shoot := y.shoot.erase (pageOf (vaOf va)) }) else s)) ∧
    (∀ c va w n bs, exec (.hostAccess c va w n bs) s = .next (
      if (hostRuns va (if w then bs.length else n)).any (hostWaits s c w) = true then waits s (.hostAccess c va w n bs)
      else ((hostRuns va (if w then bs.length else n)).foldl (fun (x : Nat × State) p =>
        (x.1 + p.2, State.hostRun x.2 c (vaOf p.1) w p.2 ((bs.drop x.1).take p.2)))
        (0, if w then s else State.updPkg s (fun p => { p with hostRead := [] }))).2))

/-! ## The debug mailbox (R362 to R374) -/

namespace Sys2Proof.Machine.Rules

/-- A mailbox command is taken (R363): its operation in bits 3:0, nothing in the reserved bits, a hall that exists, a context that
exists, and the debug right where the operation needs it (R364). -/
abbrev Command (s : State) (c : Nat) (v : DWord) (op : Nat) (needsRight : Bool) : Prop :=
  LinkUp s ∧ bits v.toNat 0 4 = op ∧ bits v.toNat 4 10 = 0 ∧ bits v.toNat 32 32 = 0 ∧ bits v.toNat 23 9 < 384 ∧
  ∃ x, State.ctx? s c = some x ∧ (needsRight = true → x.dbg.right = true)

/-- A halt that stands, is owed, or would end a step is gone. -/
def unhalted (g : Group) : Group :=
  if g.halted = true ∨ g.stepping = true ∨ g.haltOwed.isSome = true then
    { g with halted := false, stepping := false, haltOwed := none, skipBreak := true }
  else g

/-- Every group of a context is changed, in its slot or in a save image. -/
def ofContext (s : State) (c : Nat) (f : Group → Group) : State := State.mapCtxGroups s c f

/-- The commands that name a group: the context, the operation, whether it needs the right, and its effect on the group (R365,
R368, R374). -/
def groupCommand (s : State) (g : Group) : Instr → Option (Nat × DWord × Nat × Bool × State)
  | .haltGroup c v => some (c, v, 1, true, if g.halted = true then s else State.haltGroup s g 0)
  | .resumeGroup c v => some (c, v, 2, true, State.updGroup s g.hall g.slot unhalted)
  | .stepGroup c v => some (c, v, 3, true,
      if g.halted = true then State.updGroup s g.hall g.slot (fun x => { x with stepping := true, skipBreak := true }) else s)
  | .traceGroupOn c v => some (c, v, 6, false,
      State.updGroup s g.hall g.slot (fun x => { x with traceOn := true, syncOwed := some 0, fullOwed := true }))
  | .traceGroupOff c v => some (c, v, 7, false,
      State.updGroup s g.hall g.slot (fun x => { x with traceOn := false, syncOwed := none, fullOwed := false }))
  | .selectGroup c v => some (c, v, 8, true,
      State.updDebug s c (fun d => { d with view := some (g.hall, g.slot), viewTile := bits v.toNat 14 4 }))
  | _ => none

/-- The commands about a whole context (R365, R368, R371). -/
def contextCommand (s : State) : Instr → Option (Nat × DWord × Nat × Bool × State)
  | .haltContext c v => some (c, v, 4, true, State.haltContext s c)
  | .resumeContext c v => some (c, v, 5, true,
      State.startCmds (State.updDebug (ofContext s c unhalted) c (fun d => { d with haltAll := false })))
  | .traceAllOn c v => some (c, v, 9, false, State.updDebug
      (ofContext s c (fun x => { x with traceOn := true, syncOwed := some 0, fullOwed := true })) c (fun d => { d with traceAll := true }))
  | .traceAllOff c v => some (c, v, 10, false, State.updDebug
      (ofContext s c (fun x => { x with traceOn := false, syncOwed := none, fullOwed := false })) c (fun d => { d with traceAll := false }))
  | .dump c v => some (c, v, 11, true,
      if ∃ x, State.ctx? s c = some x ∧ x.dbg.dumpBase ≠ 0 then
        { State.updDebug s c (fun d => { d with dumpDue := true }) with events := s.events ++ [.coreDump c] } else s)
  | _ => none

/-- The right is gone: nothing is halted or held, every comparator and watchpoint is off, replay is off (R364). -/
def revoked (s : State) (c : Nat) : State :=
  State.updDebug (ofContext s c (fun g => { unhalted g with replayHold := false })) c (fun d =>
    { d with right := false, haltAll := false, rpMode := 0,
             bps := d.bps.map (fun p => (p.1, { p.2 with en := false })),
             wps := d.wps.map (fun p => (p.1, { p.2 with en := false })) })

/-- A block of the context is resident or saved. -/
abbrev Busy (s : State) (c : Nat) : Prop := (∃ b ∈ s.blocks, b.ctx = c) ∨ ∃ i ∈ s.saved, i.gang.ctx = c

/-- The group that a sample records: the first occupied slot of the context at or above the hall's pointer, in slot order around
the hall (R366). -/
def sampledGroup (s : State) (h c ptr : Nat) : Option Group :=
  ((List.range 32).map (fun k => (ptr + k) % 32)).findSome? (fun t => match State.groupAt? s h t with
    | some g => if State.occupied s c g then some g else none
    | none => none)

/-- The hall's pointer of a context, and how many samples it has fired. -/
def samplePlace (s : State) (h c : Nat) : Nat × Nat :=
  match (State.hall s h).samples.find? (fun p => p.1 == c) with | some p => (p.2.1, p.2.2) | none => (0, 0)

end Sys2Proof.Machine.Rules

/-- The debug mailbox (R362 to R374): a command that is taken acts on the context's group in the slot it names, or on the context,
and any other changes nothing; the right is given and revoked by a supervisor; sampling is set, and a sample records the first
occupied slot from the pointer on; MODE of the replay changes only while no block of the context is resident or saved; an accepted
edit of a halted group sets EDITED; a dump that is due is written. -/
def Obligations.DebugMailboxComplete : Prop :=
  ∀ (s : State) (i : Instr) (c : Nat) (v : DWord) (op : Nat) (right : Bool) (t : State),
    (∀ g, groupCommand s g i = some (c, v, op, right, t) →
      (Command s c v op right → State.groupAt? s (bits v.toNat 23 9) (bits v.toNat 18 5) = some g → g.ctx = c → exec i s = .next t) ∧
      ((¬ Command s c v op right ∨ ∀ x, State.groupAt? s (bits v.toNat 23 9) (bits v.toNat 18 5) = some x → x.ctx ≠ c) →
        exec i s = .next s)) ∧
    (contextCommand s i = some (c, v, op, right, t) → (Command s c v op right → exec i s = .next t) ∧
      (¬ Command s c v op right → exec i s = .next s)) ∧
    (∀ sup, exec (.debugRightWrite c sup v) s = .next (
      if LinkUp s ∧ sup = true ∧ v.toNat < 4 then
        (if v.getLsbD 0 then State.updDebug s c (fun d => { d with right := true }) else revoked s c) else s)) ∧
    exec (.smpcfgWrite c v) s = .next (
      if LinkUp s ∧ v.toNat / 2 ^ 17 = 0 ∧ (v.getLsbD 16 = true → 16 ≤ bits v.toNat 0 16) then
        let u := State.updDebug s c (fun d => { d with smpEn := v.getLsbD 16, smpN := bits v.toNat 0 16, smpSince := s.clk })
        if v.getLsbD 16 then { u with halls := u.halls.map (fun h =>
          (h.1, { h.2 with samples := h.2.samples.map (fun x => if x.1 = c then (x.1, 0, x.2.2) else x) })) } else u
      else s) ∧
    (∀ x, State.ctx? s c = some x → exec (.rpctlWrite c v) s = .next (
      if LinkUp s ∧ x.dbg.right = true ∧ v.toNat / 8 = 0 ∧ bits v.toNat 0 2 ≠ 3 ∧ ¬ Busy s c then
        State.updDebug s c (fun d => if bits v.toNat 0 2 = 1 then
          { d with rpMode := 1, rpFull := false, rpHead := 0, rpGroups := 0, rpLast := [], rpEdges := [] }
          else { d with rpMode := bits v.toNat 0 2 })
      else s)) ∧
    (∀ x, State.ctx? s c = some x →
      exec (.coreDump c) s = .next (if x.dbg.dumpDue = true then
        State.updDebug (State.writeDump s c 0 0 x.lockHalted) c (fun d => { d with dumpDue := false }) else s) ∧
      (∀ e, exec (.groupViewEdit c e) s = .next (
        match State.viewed s x.dbg with
        | none => s
        | some g =>
          if LinkUp s ∧ x.dbg.right = true ∧ g.ctx = c ∧ g.halted = true then
            match State.edit s g x.dbg e with
            | none => s
            | some u => State.updGroup (State.updDebug u c (fun d => { d with edited := true })) g.hall g.slot
                (fun y => { y with syncOwed := some 9 })
          else s)) ∧
      (∀ h, exec (.sampleFire h c) s = .next (
        if State.sampleDue s x.dbg = true then
          match sampledGroup s h c (samplePlace s h c).1 with
          | none => s
          | some g => State.putSample (State.updHall s h (fun y => { y with
                samples := y.samples.filter (fun p => p.1 != c) ++ [(c, (g.slot + 1) % 32, (samplePlace s h c).2 + 1)] })) c x.dbg
              (sampleRecord g (State.queueOf s g.ctx g.seq) (State.sampled s g) ((samplePlace s h c).2 + 1))
        else s))) ∧
    (State.ctx? s c = none → ∀ h e, exec (.rpctlWrite c v) s = .next s ∧ exec (.coreDump c) s = .next s ∧
      exec (.groupViewEdit c e) s = .next s ∧ exec (.sampleFire h c) s = .next s) ∧
    (∀ h n, exec (.replayRelease h n) s = .next (
      match State.groupAt? s h n with
      | none => s
      | some g => if g.replayHold = true ∧ State.replayWaits s g = false then
          State.updGroup s h n (fun x => { x with replayHold := false }) else s))

/-! ## Errors, containment and lockstep (R22, R71, R333 to R341) -/

namespace Sys2Proof.Machine.Rules

/-- The points of an event: a corrected error 1, a matrix mismatch 4, a residue mismatch or a shadow divergence 8 (R335). -/
def points : BitVec 2 → Nat := fun k => match k.toNat with | 0 => 1 | 1 => 4 | _ => 8

/-- A unit in service is charged; at 64 it is fenced for its test: its hall takes no more work, a slice's addresses are rehomed, a
port goes down (R335, R336). -/
def charged (s : State) (u n : Nat) : State :=
  if (State.unit s u).st ≠ 0 then s
  else if (State.unit s u).score + n < 64 then State.updUnit s u (fun x => { x with score := x.score + n })
  else
    let t := State.updUnit s u (fun x => { x with score := 64, st := 1, fencedAt := s.clk, rehoming := decide (9216 ≤ u ∧ u < 9280) })
    if u < 1536 then State.drainHall t (u / 4)
    else if 3072 ≤ u ∧ u < 9216 then State.drainHall t ((u - 3072) / 16)
    else if 9280 ≤ u then
      State.updPkg t (fun p => { p with links := mapIf p.links (fun l => l.port == u - 9280) (fun l => { l with state := 0 }) })
    else t

/-- What a passed or failed test leaves (R336, R339, R340). -/
def tested (s : State) (u : Nat) (pass : Bool) : State :=
  if u < 9296 ∧ (State.unit s u).st = 1 then
    if pass then State.openHall (State.updUnit s u (fun x => { x with st := 0, score := 16, passedAt := s.clk })) u
    else State.askReplace (State.suspect (State.openHall (State.updUnit s u (fun x => { x with st := 2 })) u) u (State.unit s u))
  else s

/-- The place of an uncorrectable error is marked with POISON (R245, R337). -/
def struck (s : State) : ErrPlace → State
  | .granule pa => { s with gpoison := (s.gpoison ++ [pa / 32]).eraseDups }
  | .scratch c seq blk off => State.updBlock s c seq blk (fun b =>
      if off < (State.launchOf s c seq).scratch then { b with scrPoison := (b.scrPoison ++ [off]).eraseDups } else b)
  | .reg h t lane n => State.updGroup s h t (fun g =>
      if lane < 32 ∧ n.toNat < 8 * g.regn then Group.setCell g lane n.toNat { Group.cell g lane n.toNat with tag := .poison } else g)
  | .tile h t k row col => State.updGroup s h t (fun g => match g.tiles[k]? with
      | some x => if col < 8 ∧ 8 * row + col < 256 then
          { g with tiles := g.tiles.set k { x with poison := x.poison ||| (1#256 <<< (8 * row + col)) } } else g
      | none => g)

/-- The state that an event of reliability gives. -/
def reliabilityEvent (s : State) : Instr → Option State
  | .errorCorrected u k => some (if u < 9296 then charged s u (points k) else s)
  | .scoreDecay => some (State.updPkg s (fun p => { p with
      units := p.units.map (fun u => if u.2.st = 0 then (u.1, { u.2 with score := u.2.score - 1 }) else u) }))
  | .unitTestComplete u pass => some (tested s u pass)
  | .uncorrectableError place => some (struck s place)
  | .lockstepDecisionApply (.bind r) => some (if State.lockMask s r.ctx ≠ 0 ∧ s.pkg.paired = true then State.writeBind s r else s)
  | .lockstepDecisionApply (.move c va) => some (
      if State.lockMask s c ≠ 0 ∧ s.pkg.paired = true then State.startMigration s c va else s)
  | .lockstepDivergeClear v => some (
      if ¬ LinkUp s then s
      else if v.toNat / 2 ^ 12 ≠ 0 ∨ bits v.toNat 4 4 ≠ 0 then State.updPkg s (fun p => { p with fwFault := satInc p.fwFault })
      else if v.getLsbD 2 = true then State.updPkg s (fun p => { p with diverged := false }) else s)
  | _ => none

/-- The interval's traffic leaves in its order, each operation performed as it leaves; the engine commands and commits that waited may
write (R341). -/
def trafficLeaves (s : State) (m : BitVec 4) : State :=
  let u := State.letGo s m
  let t := (State.heldTraffic u m).foldl (fun t x => State.leave? t x.1 x.2.1 x.2.2) u
  State.updPkg t (fun p => { p with interval := p.interval + 1, traffic := [] })

/-- The partition has diverged: its contexts halt, the flag is raised with the interval's number, nothing leaves, and a dump is due
for each context with an area (R341, R371). -/
def partitionStops (s : State) (m : BitVec 4) (t : State) : Prop :=
  t.pkg.diverged = true ∧ t.pkg.divint = BitVec.ofNat 32 s.pkg.interval ∧ t.pkg.interval = s.pkg.interval + 1 ∧ t.pkg.traffic = [] ∧
  t.mem = s.mem ∧ t.g = s.g ∧ t.groups = s.groups ∧
  t.ctxs = s.ctxs.map (fun c => if c.2.lockMask = m then
    (c.1, { c.2 with lockHalted := true, dbg := { c.2.dbg with dumpDue := c.2.dbg.dumpBase != 0 } }) else c) ∧
  ∀ c x, (c, x) ∈ t.ctxs → x.lockMask = m → x.dbg.dumpDue = true → .coreDump c ∈ t.events

end Sys2Proof.Machine.Rules

/-- Errors and lockstep (R333 to R341): an error charges its unit, which is fenced at 64; a test returns the unit at 16 or retires it
with a suspect record; an uncorrectable error leaves POISON; where the packages' digests of an interval agree its traffic leaves,
and where they differ nothing leaves and the partition halts. -/
def Obligations.ReliabilityEventsComplete : Prop :=
  ∀ (s t : State) (i : Instr) (c : Nat) (digest : DWord),
    (reliabilityEvent s i = some t → exec i s = .next t) ∧
    (∀ x, State.ctx? s c = some x → x.lockMask ≠ 0 → x.lockHalted = false → s.pkg.paired = true →
      (crc64 s.pkg.traffic = digest → exec (.lockstepIntervalCompare c digest) s = .next (trafficLeaves s x.lockMask)) ∧
      (crc64 s.pkg.traffic ≠ digest →
        ∃ u, exec (.lockstepIntervalCompare c digest) s = .next u ∧ partitionStops s x.lockMask u)) ∧
    ((∀ x, State.ctx? s c = some x → x.lockMask = 0 ∨ x.lockHalted = true ∨ s.pkg.paired = false) →
      exec (.lockstepIntervalCompare c digest) s = .next s)

/-! ## What a group has outstanding completes (R84, R203, R215, R216, R221, R242 to R244, R260, R261, R278, R291 to R293, R320, R341) -/

namespace Sys2Proof.Machine.Rules

/-- The nth operation that a group has outstanding may be performed now, in its parts `ks` of which the event takes k (0: all that
can be): none is held at the edge of a lockstep partition, nothing before them is ordered before them (R220, R261), and no page of
them is being moved (R84). -/
abbrev MayGo (s : State) (h t n k : Nat) (g : Group) (o : Outst) (ks : List Nat) : Prop :=
  State.groupAt? s h t = some g ∧ g.outst[n]? = some o ∧ o.sent = none ∧ ks = State.nextUnits s g n k ∧
  (ks ≠ [] ∨ (o.parts = [] ∧ Group.mayPerform g n = true))

/-- The group in a slot changed. -/
def withGroup (s : State) (g : Group) (f : Group → Group) : State := State.updGroup s g.hall g.slot f

/-- The operation has come as far as `o`. -/
def further (x : Group) (n : Nat) (o : Outst) : Group := { x with outst := x.outst.set n o }

/-- The operation is no longer outstanding. -/
def finished (x : Group) (n : Nat) : Group := { x with outst := dropPlaces x.outst [n] }

/-- The parts of a load are performed, each keeping what it reads; once all are, the registers of its lanes take their values, with
.last the lines it read are discarded (R215, R221), LDCB fills its slot with 16 entries (R165), MMLD its tile row by row (R249), and
lcnt falls (R216). -/
def loaded (s : State) (g : Group) (n : Nat) (o : Outst) (ks : List Nat) : OutOp → Option State
  | .load sc sz d _ _ last =>
    let x := State.takeParts s g o sc ks
    some (if Outst.whole x.1 = true then
        withGroup (if last then (Outst.lines x.1).foldl State.discardLine x.2 else x.2) g
          (fun y => { finished (Group.takeLoad y x.1 sz d) n with lcnt := dec y.lcnt })
      else withGroup x.2 g (fun y => further y n x.1))
  | .ldcb c =>
    let x := State.takeParts s g o false ks
    some (if Outst.whole x.1 = true then
        withGroup x.2 g (fun y => { finished y n with
          codebooks := y.codebooks.set c (codebookOf (Outst.lane x.1 ((x.1.parts.map (fun p => p.lane)).headD 0)).1),
          lcnt := dec y.lcnt })
      else withGroup x.2 g (fun y => further y n x.1))
  | .mmld c =>
    let x := State.takeParts s g o true ks
    some (if Outst.whole x.1 = true then
        withGroup x.2 g (fun y => { finished y n with
          tiles := y.tiles.set c ((Outst.lanes x.1).foldl (fun t l =>
            Tile.loadRow t l ((x.1.parts.filter (fun p => p.lane == l)).map LanePart.seen)) (y.tiles.getD c Tile.zero)) })
      else withGroup x.2 g (fun y => further y n x.1))
  | _ => none

/-- Parts of a store are performed, in the order of their lanes; with the last of them scnt falls, but for an MMST (R216, R220, R249,
R260). -/
def storedParts (s : State) (g : Group) (n : Nat) (o : Outst) (w : StoreWord) (ks : List Nat) : State :=
  withGroup (State.storeWord s g { w with parts := ks.filterMap (fun k => w.parts[k]?) }) g (fun y =>
    if (dropPlaces w.parts ks).isEmpty = true then { finished y n with scnt := if w.tile then y.scnt else dec y.scnt }
    else further y n { o with op := .store { w with parts := dropPlaces w.parts ks } })

/-- An operation of a lockstep partition is held at its edge: it joins the interval's traffic (R341). -/
def heldAtEdge (s : State) (h t n : Nat) (bs : List Byte) : State :=
  State.updPkg (State.updGroup s h t (fun g => match g.outst[n]? with
    | some o => { g with outst := g.outst.set n { o with sent := some s.pkg.traffic.length } }
    | none => g)) (fun p => { p with traffic := p.traffic ++ bs })

/-- What lanes of an atomic answer and leave of the state: each in ascending order reads, computes and writes in one step (R276,
R278); a DEPADD adds to its counters (R157); once all have, vd takes the old values. -/
def atomicDone (s : State) (g : Group) (n : Nat) (o : Outst) (ks : List Nat) : OutOp → Option State
  | .atomic op bytes d _ _ =>
    let x := State.atomicLanes s g o op bytes ks
    let r := Outst.atomicResults x.1 op bytes
    some (withGroup x.2 g (fun y => if Outst.whole x.1 = true then Group.takeResults y n d r.1 r.2 else further y n x.1))
  | .depadd d =>
    let x := State.depLanes s g o ks
    some (withGroup x.2 g (fun y => if Outst.whole x.1 = true then
        Group.takeResults y n d
          (x.1.parts.map (fun p => (p.lane, [BitVec.ofNat 32 (leNat (LanePart.seen p).1)], Tag.i32))) 0
      else further y n x.1))
  | .tkt round opener incr d => some (State.finishTicket s g n o round opener incr d)
  | _ => none

/-- One of the atomics of R273, not a TKT or a DEPADD. -/
def isAtomic : OutOp → Bool
  | .atomic _ _ _ _ _ => true
  | _ => false

/-- A group's waiting RCMT may have its outcome: every access before it is performed, no page of its regions is moved, and the group
is not being drained, or its commit already writes. -/
abbrev CommitDue (s : State) (h t : Nat) (g : Group) (w : WaitRec) : Prop :=
  State.groupAt? s h t = some g ∧ g.wait = some w ∧ w.instr = .rcmt ∧ g.lcnt = 0 ∧ g.scnt = 0 ∧ g.acnt = 0 ∧
  (g.draining = false ∨ Group.writing g = true) ∧ State.commitHeld s g w.mask = false

/-- The lanes of a commit go on, one after another, each once the one before is over, against what memory holds then; at most k
granules are written (0: all) (R291, R292). -/
def committing (s : State) (h t : Nat) (w : WaitRec) (k : Nat) : State :=
  let c : Cur := { mask := w.mask, chainPc := w.chainPc, wordPc := w.wordPc, status := .done, fresh := false, follow := true, srcs := [] }
  (Mask.lanes w.mask).foldl (fun u l =>
    if (Mask.lanes w.mask).any (fun j => decide (j < l) && (Group.lane u.g j).region.isOpen) = true then u
    else State.commitLane u l k w.wordPc) { State.toPort s h t with cur := c }

/-- Some lane of the commit has no outcome yet. -/
def undecided (u : State) (w : WaitRec) : Bool := (Mask.lanes w.mask).any (fun l => (Group.lane u.g l).region.isOpen)

/-- The commit's chain is over: its wait ends, it is traced where the group is traced, the region start record is written if one
began, and the group may issue from the next cycle on. -/
def resumed (u : State) (w : WaitRec) : State :=
  let u := State.unpark u
  let x := State.traceBranch u u.g w.mask w.wordPc .rcmt
  let v := State.updG (State.settleStart x) (fun g => { g with readyAt := max g.readyAt (x.clk + 1) })
  { v with cur := { v.cur with fresh := false } }

/-- A quarter operation's checksum does not match: the array it used is charged, and it is performed again in the first cycle with an
array free; after the third time it is dropped and SHADOW is kept for the group (R237, R244). -/
def mismatched (s : State) (h t : Nat) (g : Group) (n : Nat) (o : MmaOp) : State :=
  let u := match State.arrayUsed s h with
    | some a => charged { s with free := s.free + 1 } (1536 + 4 * h + a) 4
    | none => s
  if o.tries < 2 then
    let free := State.freeCycle u g.hall
    State.updGroup (State.updHall u g.hall (fun x => { x with arrays := x.arrays ++ [(free, 1)] })) g.hall g.slot (fun y =>
      { y with mma := y.mma.set n { o with tries := o.tries + 1,
                                           due := free + State.mqFigure (State.updHall u g.hall (fun x =>
                                             { x with arrays := x.arrays ++ [(free, 1)] })) 12 } })
  else State.updGroup u h t (fun y =>
    { y with mma := dropPlaces y.mma [n], deferred := (y.deferred ++ [Deferred.shadow o.tile]).eraseDups })

end Sys2Proof.Machine.Rules

/-- Completions (R84, R215, R216, R220, R221, R237, R242 to R244, R260, R261, R276, R278, R291 to R293, R320, R341): parts of an
outstanding load, store or atomic that may be performed are performed, and with the last its counter falls; nothing is performed
before what is ordered before it; what leaves a lockstep partition is held first; a waiting RCMT has its outcome lane by lane, and a
lane that has waited 2,048 cycles for locked granules aborts with TIMEOUT; a quarter operation retires into its tile, or is tried
again; a region restarts once its waits are over. -/
def Obligations.CompletionEventsComplete : Prop :=
  ∀ (s t : State) (h p n k : Nat) (g : Group) (o : Outst) (ks : List Nat),
    (MayGo s h p n k g o ks → loaded s g n o ks o.op = some t → exec (.loadReturn h p n k) s = .next t) ∧
    (MayGo s h p n k g o ks → ∀ w, o.op = .store w → exec (.storePerformed h p n k) s = .next (
      if State.trafficOf s g o ks = [] then storedParts s g n o w ks else heldAtEdge s h p n (State.trafficOf s g o ks))) ∧
    (MayGo s h p n k g o ks → atomicDone s g n o ks o.op = some t → exec (.atomicPerformed h p n k) s = .next (
      if State.trafficOf s g o ks ≠ [] ∧ isAtomic o.op = true then heldAtEdge s h p n (State.trafficOf s g o ks) else t)) ∧
    (MayGo s h p n k g o ks → ∀ i ∈ ks, ∃ q, (i, q) ∈ Outst.units o ∧ (∀ a ∈ g.outst.take n, orderedBefore a o q = false) ∧
      State.opHeld s g o q = false) ∧
    ((¬ ∃ x y z, MayGo s h p n k x y z) → exec (.loadReturn h p n k) s = .next s ∧ exec (.storePerformed h p n k) s = .next s ∧
      exec (.atomicPerformed h p n k) s = .next s) ∧
    (∀ w, CommitDue s h p g w → exec (.commitOutcome h p k) s = .next (
      if undecided (committing s h p w k) w = true then committing s h p w k else resumed (committing s h p w k) w)) ∧
    (∀ w l, State.groupAt? s h p = some g → g.wait = some w → exec (.commitTimeout h p l) s = .next (
      let r := (Group.lane g l).region
      if w.instr = .rcmt ∧ w.mask.getLsbD l = true ∧ r.isOpen = true ∧ r.writing = false ∧ 2048 ≤ r.lockWait
        then State.updGroup s h p (fun x => Group.abortLane x l 8 0) else s)) ∧
    (∀ q bad, State.groupAt? s h p = some g → Group.retiring? g s.clk = some n → g.mma[n]? = some q →
      exec (.mmqRetire h p bad) s = .next (
        if q.tries > 0 ∧ State.arraysInService s h = [] then
          State.updGroup s h p (fun x => { x with mma := x.mma.set n { q with due := s.clk } })
        else if bad = true then mismatched s h p g n q
        else State.updGroup s h p (fun x =>
          { Group.updTile x q.tile (fun y => Tile.retire y q) with mma := dropPlaces x.mma [n] }))) ∧
    (State.groupAt? s h p = some g → exec (.regionRestart h p) s = .next (
      if Group.mayRestart g = true ∧ g.draining = false then State.finishRestart (State.toPort s h p) else s))

/-! ## The engines' commands and collectives (R205, R207 to R209, R211 to R215, R229, R230, R233, R298 to R310, R336) -/

namespace Sys2Proof.Machine.Rules

/-- A copy-engine command may be worked on: it has begun, no engine of its context is stopped, no page of it is being moved, nothing
that it writes is locked by a commit, and its group stands in its slot. -/
abbrev Runs (s : State) (h n : Nat) (g : Group) (c : Cmd) : Prop :=
  (State.hall s h).cmds[n]? = some c ∧ c.started = true ∧ State.enginesStopped s c.ctx = false ∧
  (∀ x ∈ CmdKind.sources c.kind ++ [CmdKind.dest c.kind], State.runMigrating s c.ctx x = false) ∧
  State.runLocked s c.ctx (CmdKind.dest c.kind) = false ∧ State.groupAt? s h c.slot = some g

/-- The command has come from c to d: H is cleared on the tiles it has read unless another command holds them, the tiles it has
written become valid (R205). -/
def advanced (s : State) (h n : Nat) (c d : Cmd) : State :=
  let u := State.updHall s h (fun x => { x with cmds := x.cmds.set n d })
  let read := (State.sourceTiles u c).filter (fun t => !(State.sourceTiles u d).contains t)
  let wrote := (State.destTiles u c).filter (fun t => !(State.destTiles u d).contains t)
  State.tagTiles (State.tagTiles u c.ctx c.seq (read.filter (fun t => !State.tileHeld u d t)) (fun t => TileTag.clear t 3))
    c.ctx c.seq wrote (fun t => TileTag.clear (TileTag.set t 0) 3)

/-- The command is done: its entry and ranges are freed, ecnt falls, an error of a row is kept for the group, and what waited for it
begins (R205, R209, R210, R231). -/
def cmdRetired (s : State) (h n : Nat) (c : Cmd) : State :=
  let u := State.updHall s h (fun x => { x with cmds := dropPlaces x.cmds [n], ranges := x.ranges.filter (fun r => !(r.slot == c.slot && r.num == c.num)) })
  State.startCmds (State.updGroup u h c.slot (fun x =>
    { x with ecnt := dec x.ecnt, deferred := x.deferred ++ (match c.deferred with | some d => [d] | none => []) }))

/-- One step of the engine at a command: r more bytes read and w more written, all that is left where both are 0; with all
written it retires, no older command of its group before it (R209). -/
def worked (s : State) (h n : Nat) (g : Group) (c : Cmd) (r w : Nat) : State :=
  let x := State.workCmd s { g := g, lc := c.lc } c r w
  let u := if x.1 = c then x.2 else advanced x.2 h n c x.1
  if (∀ b ∈ (State.hall s h).cmds.take n, b.slot ≠ c.slot) ∧ Cmd.complete x.1 = true then cmdRetired u h n x.1 else u

/-- One more row of a gather is done, with the first error kept (R231). -/
def rowDone (u : State) (h n : Nat) (c : Cmd) (d : Option Deferred) : State :=
  advanced u h n c { c with rows := c.rows + 1, deferred := match c.deferred with | some y => some y | none => d }

/-- A row is read: it is written and the gather goes on, or, where it leaves a lockstep partition, it is held and joins the
interval's traffic (R231, R341). -/
def rowRead (u : State) (h n : Nat) (i : Issuer) (c : Cmd) (place : Place) (rowb : Nat) (bs : List Byte) (bad : List Bool)
    (d : Option Deferred) : State :=
  let held : Cmd := { c with got := (List.range rowb).map (fun k => (bs.getD k 0, bad.getD k false)), hold := 1,
                             deferred := match c.deferred with | some y => some y | none => d }
  if place.scratch = false ∧ State.runLeaves u c.ctx false place.addr rowb = true then
    State.addTraffic (State.updHall u h (fun x => { x with cmds := x.cmds.set n held }))
      (State.leaving u c.ctx false place.addr bs)
  else rowDone (State.engineWrite u i place bs bad false) h n c d

/-- A row of a gather: the index's entry names the row, whose bytes go to their place; a row that may not be read is zeros, and its
error is kept (R231). -/
def gathered (s : State) (h n : Nat) (g : Group) (c : Cmd) (table : DWord) (idx dst : Place) (rowb : Nat) : State :=
  let i : Issuer := { g := g, lc := c.lc }
  let r := State.engineRead s i (Place.add idx (4 * c.rows)) 4
  let p := rowAddr table (leNat r.1) rowb
  let place := Place.add dst (c.rows * rowb)
  match State.classify r.2.2 h c.ctx .load [{ lane := 0, addr := p, len := rowb }] with
  | .ok ps =>
    let q := State.engineRead (State.touch r.2.2 h c.ctx false ps) i { scratch := false, addr := p } rowb
    rowRead q.2.2 h n i c place rowb q.1 q.2.1 none
  | .trap k _ a => rowRead r.2.2 h n i c place rowb (List.replicate rowb 0) [] (some (.gather k a c.ord))
  | .fault _ => s
  | .migrating => s
  | .verdict ls => { s with events := s.events ++ ls.map .tagVerdict }

/-- A held row, once the interval's digests agree, is written, and the gather goes on (R341). -/
def rowLeft (s : State) (h n : Nat) (g : Group) (c : Cmd) (dst : Place) (rowb : Nat) : State :=
  advanced (State.engineWrite s { g := g, lc := c.lc } (Place.add dst (c.rows * rowb)) (c.got.map (fun x => x.1))
    (c.got.map (fun x => x.2)) false) h n c { c with rows := c.rows + 1, got := [], hold := 0 }

/-- A stash command's lines: a flush writes back the dirty ones of its range, a drop lets its map's lines go with the map (R207,
R208). -/
def stashDone (s : State) (b : Block) (c : StashCmd) : State :=
  let u := match c.kind with
    | 0 => s
    | 1 => State.flushBlock s b.ctx b.seq b.blk (fun l => l.dirty && State.lineIn s b.ctx c.map.base c.len l) true
    | _ => State.updBlock s b.ctx b.seq b.blk (fun x =>
        { x with stashLines := x.stashLines.filter (fun l => !State.lineIn s b.ctx c.map.base (1024 * c.map.tiles) l),
                 stashMaps := x.stashMaps.filter (fun m => m != c.map) })
  State.updGroup (State.updBlock u b.ctx b.seq b.blk (fun x => { x with stashCmds := x.stashCmds.erase c })) c.hall c.slot
    (fun g => { g with ecnt := dec g.ecnt })

/-- The hall's stash commands, block by block. -/
def stashWork (s : State) (h : Nat) : List (Block × StashCmd) :=
  (s.blocks.filter (fun b => b.hall == h)).flatMap (fun b => b.stashCmds.map (fun c => (b, c)))

/-- A PUB has nothing outstanding before it: the writes into its buffer that were accepted before, an earlier acquire of its group
(R214, R233). -/
abbrev PubDue (s : State) (c entry : Nat) (x : Ctx) (p : Nat) (q : PubCmd) (e : PubEntry) : Prop :=
  State.ctx? s c = some x ∧ (x.pubs.filter (fun y => y.entry == entry)).findIdx? (fun y => !y.passed) = some p ∧
  (x.pubs.filter (fun y => y.entry == entry)).getD p default = q ∧ State.pubEntry s c entry = some e ∧
  State.writesBefore s c entry p = false ∧ State.enginesStopped s c = false ∧
  ∃ g, State.member? s c q.seq q.blk q.grp = some g ∧ Group.acqBefore g q.after = false

/-- The buffer's other set is its front from now on: GEN is one more and SEL is inverted (R211, R214). -/
def swapped (s : State) (c : Nat) (x : Ctx) (entry : Nat) (e : PubEntry) : State :=
  State.writeVirt (State.writeVirt s c (vaOf x.pubTable + 64 * entry + 0x20) (leBytes 8 (e.gen + 1))) c
    (vaOf x.pubTable + 64 * entry + 0x28) (leBytes 8 (if e.sel then 0 else 1))

end Sys2Proof.Machine.Rules

/-- The engines (R205, R207 to R215, R229 to R233): a command that is worked on reads and writes on, its tiles' tags follow, and it
retires in its group's order once all is written; a gather goes on by a row; a PUB swaps its buffer's sets once nothing before it is
outstanding and retires once the old set is read no more; a stash command is done. Each waits, with nothing changed, while it may not
act. -/
def Obligations.EngineEventsComplete : Prop :=
  ∀ (s : State) (h n c entry r w : Nat),
    (∀ g x, Runs s h n g x → exec (.copyCommandRetire h n r w) s = .next (worked s h n g x r w)) ∧
    ((¬ ∃ g x, Runs s h n g x) → exec (.copyCommandRetire h n r w) s = .next s ∧ exec (.cpygRowGather h n) s = .next s) ∧
    (∀ g x table idx dst count rowb, Runs s h n g x → x.kind = .gather table idx dst count rowb →
      exec (.cpygRowGather h n) s = .next
        (if count ≤ x.rows ∨ x.hold = 1 then s else if x.hold = 2 then rowLeft s h n g x dst rowb
         else gathered s h n g x table idx dst rowb)) ∧
    (∀ x p q e, PubDue s c entry x p q e → exec (.pubInstant c entry) s = .next (
      State.updCtx (swapped s c x entry e) c (fun y => { y with pubs := mapIf y.pubs (fun z => z == q) (fun z =>
        { z with passed := true, loads := (State.readersOf (swapped s c x entry e) c e).1,
                 cmds := (State.readersOf (swapped s c x entry e) c e).2 }) }))) ∧
    ((∀ x p q e, ¬ PubDue s c entry x p q e) → exec (.pubInstant c entry) s = .next s) ∧
    (∀ x q, State.ctx? s c = some x → x.pubs.find? (fun p => p.entry == entry) = some q → exec (.pubRetire c entry) s = .next (
      if q.passed = true ∧ State.readersLeft s c q = false then
        State.startCmds (State.updMember (State.dropPubs s (fun y p => y == c && p == q)) c q.seq q.blk q.grp (fun g => { g with ecnt := dec g.ecnt }))
      else s)) ∧
    (∀ b x, (stashWork s h)[n]? = some (b, x) → exec (.stashCommandDone h n) s = .next (
      if State.enginesStopped s b.ctx = true then s else stashDone s b x)) ∧
    ((stashWork s h)[n]? = none → exec (.stashCommandDone h n) s = .next s)

/-! ## Collectives and links (R21, R296 to R310, R336) -/

namespace Sys2Proof.Machine.Rules

/-- The first COLL that a group has outstanding, with its place, its result register, its number and its descriptor words. -/
abbrev CollWaits (s : State) (h t : Nat) (g : Group) (n : Nat) (o : Outst) (d num : Nat) (w : List Word)
    (tag : Tag) : Prop :=
  State.groupAt? s h t = some g ∧ g.outst.findIdx? (fun o => match o.op with | .coll _ _ _ _ => true | _ => false) = some n ∧
  g.outst[n]? = some o ∧ o.op = .coll d num w tag

/-- The number that the next collective of a set gets (R296). -/
def nextCid (s : State) (c set : Nat) : Nat :=
  match State.ctx? s c with | some y => (lookup y.setCounts set).getD 0 | none => 0

/-- A COLL is accepted: the count of its set goes up, its record stands as running, without PUB its destination holds free bytes from
now on (R304), its lanes get the CID, and the engine begins (R296, R298, R307). -/
def collAccepted (s : State) (h t : Nat) (g : Group) (n : Nat) (o : Outst) (d num : Nat) (tag : Tag) (x : CollDesc)
    (members : List Nat) : State :=
  let status := match o.parts with | p :: _ => p.addr | [] => 0
  let cid := nextCid s g.ctx x.set
  let dn := if x.pub then 0 else destLen x.op x.len members.length
  let r := State.readVirt s g.ctx (vaOf x.dst) dn
  let y := State.newColl r.2 g members cid num status x r.1
  let u := if dn = 0 then r.2 else
    State.engineWrite { r.2 with free := r.2.free + dn } { g := g, lc := o.lc } { scratch := false, addr := x.dst } (freeBytes r.2.free dn) [] false
  let u := State.updCtx u g.ctx (fun z => { z with setCounts := insert z.setCounts x.set ((cid + 1) % 2 ^ 32) })
  let u := State.putColl (State.updPkg u (fun p => { p with collectives := keepColls p.collectives g.ctx x.set cid ++ [y] })) y
  State.runCollectives (State.updGroup u h t (fun g =>
    Group.done ((Mask.lanes o.mask).foldl (fun g l => Group.putWords g l d [(BitVec.ofNat 32 cid, 0)] tag) g) n))

/-- A partial value's place: collective, chunk, tree set, child. -/
def Same (p : Partial) (c set cid chunk tsid child : Nat) : Prop :=
  p.ctx = c ∧ p.set = set ∧ p.cid = cid ∧ p.chunk = chunk ∧ p.tsid = tsid ∧ p.child = child

/-- A broadcast chunk is taken: the collective runs, the tree set is the current one, the chunk is on this package's way, reduced up
here, not yet received, from above, of its length, and no page of it is being moved (R300, R84). -/
abbrev TakesChunk (s : State) (x : Collective) (k : Chunk) (chunk tsid n : Nat) : Prop :=
  x.st = 0 ∧ tsid = s.pkg.tsid ∧ k.on = true ∧ k.acc.isSome = true ∧ k.st = 0 ∧ isRoot (s.pkg.trees.getD k.tree []) me = false ∧
  n = (chunkSpan (Collective.vector x) chunk).2 ∧ State.collMigrating s x = false

/-- The root's word that a chunk is broadcast-done counts at another member: one that has written it, or that receives nothing of it
and has passed its own value on (R301). -/
abbrev TakesWord (s : State) (x : Collective) (k : Chunk) (chunk tsid : Nat) : Prop :=
  x.st = 0 ∧ tsid = s.pkg.tsid ∧ k.on = true ∧ isRoot (s.pkg.trees.getD k.tree []) me = false ∧
  (k.st = 1 ∨ (k.st = 0 ∧ k.acc.isSome = true ∧ Collective.rank x ∉ Collective.receivers x chunk))

/-- An acknowledgement counts: at the root of the chunk's tree, of a receiver, while the chunk is reduced up (R300). -/
abbrev TakesAck (s : State) (x : Collective) (k : Chunk) (chunk tsid rank : Nat) : Prop :=
  x.st = 0 ∧ tsid = s.pkg.tsid ∧ k.on = true ∧ k.st = 1 ∧ isRoot (s.pkg.trees.getD k.tree []) me = true ∧ rank ∈ Collective.receivers x chunk

/-- What the link table holds after an entry and its peer's are written. -/
def linked (s : State) (e : LinkEntry) : State := State.updPkg s (fun p => { p with links := putLink p.links e })

/-- A tree set takes effect: TSID is one more, or 1 for the first, the partial values of the old set are gone, and every running
collective begins its chunks that are not broadcast again (R302). -/
def recomputed (s : State) (trees : List (List TreeNode)) : State :=
  let first := s.pkg.trees.isEmpty
  let tsid := if first then max s.pkg.tsid 1 else (s.pkg.tsid + 1) % 2 ^ 32
  let u := State.updPkg s (fun p =>
    { p with trees := trees, tsid := tsid, partials := [], relayed := [],
             treeLog := (p.treeLog ++ [(tsid, trees)]).drop (p.treeLog.length + 1 - 16) })
  State.runCollectives ((u.pkg.collectives.filter (fun x => x.st == 0)).foldl (fun u x =>
    State.putColl u { x with recomp := if first then x.recomp else x.recomp + 1, chunks := x.chunks.map Chunk.restart }) u)

/-- The links and the trees. -/
def linkEvent (s : State) : Instr → Option State
  | .linkDownDeclare p q => some (match s.pkg.links.find? (fun l => l.pkg == p && l.port == q) with
    | some e => linked s { e with state := 0 }
    | none => s)
  | .linkTableUpdate e => some (if e.state ≤ 2 ∧ LinkEntry.ok e = true ∧ (e.state = 0 ∨ State.portOut s e = false) then linked s e else s)
  | .linkUp e => some (if LinkEntry.ok e = true ∧ State.portOut s e = false then linked s { e with state := 2 } else s)
  | .treeSetRecompute trees => some (if State.treesOk s trees = true then recomputed s trees else s)
  | _ => none

end Sys2Proof.Machine.Rules

/-- Collectives (R296 to R310): an outstanding COLL is accepted with its CID and CSTAT answered, unless the group drains (R324); a partial value of the current tree
set counts once; a broadcast chunk lands; an acknowledgement of a receiver counts at the root, and the root's word that all have come counts at the others; a collective whose every chunk is
broadcast ends as DONE, one that fails ends with its cause; a link's entry and its peer's are one; a tree set takes effect. -/
def Obligations.CollectiveEventsComplete : Prop :=
  ∀ (s t : State) (i : Instr) (h k : Nat) (g : Group),
    (linkEvent s i = some t → exec i s = .next t) ∧
    (∀ n o d num w tag members, CollWaits s h k g n o d num w tag → State.setOf s g.ctx (collDescOf w).set = some members →
      exec (.collAccept h k) s = .next (
        if Group.acqBefore g o.no = false ∧ State.enginesStopped s g.ctx = false ∧ g.draining = false then
          collAccepted s h k g n o d num tag (collDescOf w) members else s)) ∧
    (∀ n o set cid d tag, State.groupAt? s h k = some g → g.outst[n]? = some o → o.op = .cstat set cid d tag →
      exec (.cstatAnswer h k n) s = .next (if g.draining = true then s else State.updGroup s h k (fun y => Group.done (o.parts.foldl (fun y p =>
        Group.putWords y p.lane d [((State.collAnswer s g.ctx set cid).1, if p.priv then 15 else 0),
          ((State.collAnswer s g.ctx set cid).2, if p.priv then 15 else 0)] tag) y) n))) ∧
    (∀ c set cid chunk tsid child data flags head,
      (tsid = s.pkg.tsid → (∀ p ∈ s.pkg.partials, ¬ Same p c set cid chunk tsid child) →
        exec (.partialValueReceive c set cid chunk tsid child data flags head) s =
          .next (State.stepRelay (State.runCollectives (State.updPkg s (fun p =>
            { p with partials := p.partials ++ [⟨c, set, cid, chunk, tsid, child, data, flags, head⟩] }))) head c set cid chunk)) ∧
      ((tsid ≠ s.pkg.tsid ∨ ∃ p ∈ s.pkg.partials, Same p c set cid chunk tsid child) →
        exec (.partialValueReceive c set cid chunk tsid child data flags head) s = .next s)) ∧
    (∀ c set cid chunk tsid, State.coll? s c set cid = none →
      (∀ data flags, exec (.chunkBroadcastReceive c set cid chunk tsid data flags) s =
        .next (State.relayDown s c set cid chunk tsid data flags)) ∧
      (∀ rank, exec (.chunkAck c set cid chunk tsid rank) s = .next (State.relayAck s c set cid chunk tsid rank))) ∧
    (∀ c set cid x, State.coll? s c set cid = some x →
      (∀ chunk tsid data flags y, x.chunks[chunk]? = some y → exec (.chunkBroadcastReceive c set cid chunk tsid data flags) s = .next (
        if TakesChunk s x y chunk tsid data.length then State.landChunk s x chunk data flags false else s)) ∧
      (∀ chunk tsid rank y, x.chunks[chunk]? = some y → exec (.chunkAck c set cid chunk tsid rank) s = .next (
        if TakesAck s x y chunk tsid rank then State.putColl s (Collective.settleAcks
          (Collective.setChunk x chunk (fun z => { z with acks := (z.acks ++ [rank]).eraseDups })) chunk)
        else if TakesWord s x y chunk tsid then State.declared s x chunk else s)) ∧
      exec (.collectiveComplete c set cid) s = .next (if x.st = 0 ∧ Collective.ready x = true then
        State.endColl s { x with st := 1 } else s) ∧
      (∀ cause, exec (.collectiveFail c set cid cause) s = .next (
        if x.st = 0 ∧ 1 ≤ cause.toNat ∧ cause.toNat ≤ 3 ∧ (cause.toNat = 1 → State.partitioned s x = true) then
          State.failColl s x cause.toNat else s)))

/-! ## The newel firmware and the traces (R50 to R54, R62, R66 to R70, R324 to R329, R338, R347, R350 to R353) -/

namespace Sys2Proof.Machine.Rules

/-- A pointer turns to a queue in its turn: the newel is up, the queue is the one that the level's pointer marks, and no higher
level has a unit (R51, R52). -/
abbrev VisitDue (s : State) (q : Nat) : Prop :=
  State.newelUp s = true ∧ State.nextQueue s (State.queue s q).prio = some q ∧ State.highest s (State.queue s q).prio = true

/-- A visit (R52 to R54): the pointer moves on, the queue's settings take effect, the deficit grows by a quantum and never above one,
and a queue in credit dispatches its head unit where it can be placed whole; else, with PRE, the fewest victims that let it be placed
drain. -/
def visited (s : State) (q : Nat) : State :=
  let u := State.updQueue { s with pointers := insert s.pointers (State.queue s q).prio (q + 1) } q Queue.latch
  if State.hasUnit u q = false then State.updQueue u q (fun x => { x with deficit := min x.deficit 0 })
  else
    let d : Int := min ((State.queue u q).deficit + (State.queue u q).quantum) (State.queue u q).quantum
    let v := State.updQueue u q (fun x => { x with deficit := d })
    if d > 0 ∧ State.highest v (State.queue u q).prio = true then
      if State.canPlace v q [] = true then State.dispatchHead v q
      else if (State.queue u q).pre then
        State.drainGangs v (fun g => (State.chooseVictims v q (State.queue u q).prio).contains g)
      else v
    else v

/-- A bind record of a group to be bound (R66, R67): it is accepted, or the slot stays free and the fault is counted. -/
def bound (s : State) (r : BindWrite) : State :=
  let refused := State.updPkg s (fun p => { p with badBind := true, fwFault := satInc p.fwFault })
  if BindWrite.ok r = false then refused
  else match State.bindTarget s r with
    | none => s
    | some (t, y) =>
      if State.bindOk s r t.lr t.ctx t.seq ((List.range r.regN).map (fun j => r.regBase + j)) then State.bindGroup s r t y else refused

/-- A draining gang's image: the groups and blocks are saved and gone from their halls, the stashes written back, and the fences that
waited go on (R324, R325). -/
def savedGang (s : State) (y : Gang) (b : Nat) (gs : List Group) : State :=
  let u := gs.foldl (fun u g => State.flushBlock u y.ctx y.seq g.blk (fun _ => true) false) s
  let i := State.imageOf u y b
  let u := i.blocks.foldl State.closeSpan u
  State.resumeFences { State.takeOut u y b with saved := u.saved ++ [i] } (gs.map (fun g => g.hall)).eraseDups

/-- A block retires: its groups and its block are gone, its queue pays its charge, its figures go to its task, which keeps the die of
the block's instance, its gang goes with its last block (R34, R53, R70). -/
def blockRetired (s : State) (b : Block) (t : Task) : State :=
  let gs := State.groupsOf s b.ctx b.seq b.blk
  let charge := Block.chargeNow b s.clk
  let u := State.killGroups (State.closeSpan s b) (fun g => Group.of g b.ctx b.seq && g.blk == b.blk) false
  let u := State.dropBlocks u (fun x => Block.is x b.ctx b.seq b.blk)
  let u := State.dropGang u b.ctx b.seq (b.blk / LaunchRec.blocksPerGang t.lr) (LaunchRec.blocksPerGang t.lr)
  State.updTask (State.payCharge u b.ctx b.seq charge) b.ctx b.seq (fun k =>
    { k with done := k.done + 1, chainsSum := k.chainsSum ++ [(b.blk, blockFigures gs charge)],
             homes := if LaunchRec.dieBlocks k.lr = 0 then k.homes
                      else insert k.homes (b.blk / LaunchRec.dieBlocks k.lr) (dieOfHall b.hall) })

/-- A queue whose every group waits in SPAWNW into it for the tenth sample running: its overflow ring may hold twice as many, at most
its maximum, or QDEAD is delivered where it may not (R62). -/
def deadSample (s : State) (q : Nat) : State :=
  let x := State.queue s q
  if State.deadNow s q = false then State.updQueue s q (fun x => { x with deadSamples := 0 })
  else if x.deadSamples + 1 < 10 then State.updQueue s q (fun x => { x with deadSamples := x.deadSamples + 1 })
  else
    let u := State.updQueue s q (fun x => { x with deadSamples := 0 })
    if x.ovfCap = x.ovfMax then
      ((State.allGroups u).filter (fun g => Group.parkedOn g q && !g.draining)).foldl (fun u g => State.deliverQdead u g.hall g.slot) u
    else State.updQueue u q (fun x => { x with ovfCap := if x.ovfCap = 0 then 1 else min (2 * x.ovfCap) x.ovfMax })

/-- A gang that consumed poison is killed: with RELAUNCH, at most three times, it begins anew; else its task fails (R338). -/
def gangKilled (s : State) (y : Gang) (t : Task) : State :=
  let z := { Gang.anew y with relaunches := y.relaunches + 1 }
  if t.lr.relaunch = true ∧ y.relaunches < 3 then
    let u := State.clearGang s y (LaunchRec.blocksPerGang t.lr)
    if y.draining then
      { u with gangs := u.gangs.filter (fun g => g != y),
               saved := u.saved ++ [{ gang := z, groups := [], blocks := [], cmds := [], ranges := [], go := false }] }
    else State.updGang u y.ctx y.seq y.idx (fun _ => z)
  else State.failTask s y.ctx y.seq 0x60

/-- PROP's answers in their order, none while the group drains (R324): 2 no trace, 4 a broken one, 1 one that still records or propagates, 0 the propagation begins and
ecnt goes up (R352). -/
def propAnswered (s : State) (h t n d : Nat) (g : Group) (o : Outst) : State :=
  let arena := match o.parts with | p :: _ => p.addr | [] => 0
  let say := fun (s : State) (v : Word) => State.updGroup s h t (fun g =>
    Group.done ((Mask.lanes o.mask).foldl (fun g l => Group.putWords g l d [(v, 0)] .i32) g) n)
  if g.draining then s
  else match State.trace? s g.ctx arena with
  | none => say s 2
  | some x =>
    if x.broken then say s 4
    else if x.st = 1 ∨ x.st = 3 then say s 1
    else if g.ecnt ≥ 255 then s
    else State.updGroup (say (State.updTrace s g.ctx arena (fun x => Trace.startProp x (g.seq, g.blk, g.grp))) 0) h t
      (fun g => { g with ecnt := g.ecnt + 1 })

/-- A stale task may run again and finds an entry: it is READY with its counts at their start (R353). -/
def rerun (s : State) (c seq : Nat) (t : Trace) (k : Task) (e : Option Entry) : State :=
  match e with
  | none => s
  | some e =>
    let u := State.updTrace s c t.arena (fun t => Trace.rerunTask t seq)
    let u := State.updTask u c seq (fun k =>
      { k with rerun := true, spawns := 0, nextKey := k.keylo + 1, dispatched := 0, done := 0, homes := [],
               chainsSum := [], entry := e, acceptAt := u.clk, stopping := false })
    State.fillOverflow (State.setStatus u c seq .ready) c k.queue k.tcb k.lr e

/-- A task's interval is rewritten, in its TCB too (R347). -/
def rekeyed (c : Nat) (s : State) (x : KeyInterval) : State :=
  match State.task? s c x.seq with
  | none => s
  | some k =>
    State.putTcb (State.putTcb (State.updTask s c x.seq (fun k => { k with keylo := x.lo, keyhi := x.hi, nextKey := x.nextKey })) c k.tcb 0x28 8 x.lo.toNat)
      c k.tcb 0x30 8 x.hi.toNat

end Sys2Proof.Machine.Rules

/-- The newel firmware (R50 to R54, R62, R66 to R70, R324 to R329, R338): a visit, a bind record, a pre-emption, a restore, the
retirement of a block and of a task, a deadlock sample and the kill of a gang, each with its effect where it is due and with nothing
changed where it is not. -/
def Obligations.NewelEventsComplete : Prop :=
  ∀ (s : State) (c seq n : Nat),
    (∀ q, exec (.queueVisit q) s = .next (if VisitDue s q then visited s q else s)) ∧
    (∀ r, exec (.bindRecordWrite r) s = .next (bound s r)) ∧
    (∀ q, exec (.queueDeadlockSample q) s = .next (deadSample s q)) ∧
    (∀ t, State.task? s c seq = some t →
      (exec (.taskRetire c seq) s = .next (if Task.complete t = true ∧ State.retireWaits s t = false then State.retireTask s t else s)) ∧
      (∀ b, State.block? s c seq n = some b → b.ctx = c → b.seq = seq → b.blk = n →
        exec (.blockRetire c seq n) s = .next (if State.retiring s b = true then blockRetired s b t else s)) ∧
      (∀ y, State.gang? s c seq n = some y → y.ctx = c → y.seq = seq → y.idx = n →
        exec (.gangKill c seq n) s = .next (if y.stopping = true then gangKilled s y t else s)) ∧
      (∀ i binds bad, s.saved.find? (fun i => i.go && i.gang.ctx == c && i.gang.seq == seq && i.gang.idx == n) = some i →
        exec (.restore c seq n binds bad) s = .next (
          if bad = 2 then State.killContext s c 0x62
          else if bad = 1 then State.loseImage s i t
          else if State.restoreTarget s i t binds = false then s
          else if State.restoreOk s i t binds = true then State.putBack s i binds
          else State.updPkg s (fun p => { p with badBind := true, fwFault := satInc p.fwFault })))) ∧
    (∀ y, State.gang? s c seq n = some y → y.ctx = c → y.seq = seq → y.idx = n →
      exec (.preemptionComplete c seq n) s = .next (
        let b := LaunchRec.blocksPerGang (State.launchOf s c seq)
        let gs := (State.allGroups s).filter (fun g => Group.of g c seq && Group.gang g == n)
        if y.draining = false ∨ y.stopping = true then s
        else if y.bound < y.groups then
          State.resumeFences (State.updGang (State.clearGang s y b) c seq n (fun _ => Gang.anew y)) (gs.map (fun g => g.hall)).eraseDups
        else if gs.all (fun g => g.acnt == 0 && g.mma.isEmpty && !Group.tileMoves g && !Group.writing g && g.outst.all (fun o => !OutOp.isStore o.op && !Outst.begunLast o)) = true then savedGang s y b gs
        else s))

/-- The traces' events (R347, R350 to R353): PROP is answered; a propagation completes once no task runs and none is stale, or one
failed, and ecnt falls for each PROP; a stale task runs again in its turn; the intervals of a launch are rewritten, keeping their order. -/
def Obligations.TraceEventsComplete : Prop :=
  ∀ (s : State) (c : Nat),
    (∀ h t g n o d, State.groupAt? s h t = some g →
      g.outst.findIdx? (fun o => match o.op with | .prop _ => true | _ => false) = some n → g.outst[n]? = some o → o.op = .prop d →
      exec (.propAnswer h t) s = .next (propAnswered s h t n d g o)) ∧
    (∀ arena t, State.trace? s c arena = some t → exec (.propagationComplete c arena) s = .next (
      if t.st = 3 ∧ (∀ x ∈ t.tasks, State.started s c x = false) ∧ (t.failed = true ∨ ∀ x ∈ t.tasks, x.stale = false) then
        t.props.foldl (fun s p => State.updMember s c p.1 p.2.1 p.2.2 (fun g => { g with ecnt := dec g.ecnt }))
          (State.updTrace s c arena (fun t => { t with st := 2, nprop := t.nprop + 1, props := [] }))
      else s)) ∧
    (∀ seq t x k, State.tracedTask s c seq = some (t, x) → State.task? s c seq = some k → exec (.staleTaskRestart c seq) s = .next (
      if State.mayRerun s c t x = true then rerun s c seq t k (State.takeEntry s c k.queue (dieOfQueue k.queue) none) else s)) ∧
    (∀ arena keys, exec (.relabel c arena keys) s = .next (
      if State.relabelOk s c arena keys = true then keys.foldl (rekeyed c) s else s))

/-! ## Encodings, steps, reset, and rules stated whole -/

namespace Sys2Proof.Machine.Rules

/-- The one group of the machine may start a chain in this cycle: nothing of another agent is due, it has started and not exited,
waits for nothing, nothing holds it, no break matches its next chain, and its flight's port is free (R120, R122). -/
structure OnlyGroup (s : State) (a : Word) : Prop where
  noEvent : s.events = []
  cycle : s.closed = false
  alone : s.groups = []
  stands : s.g.valid = true
  started : s.g.started = true
  notGone : s.g.hasExited = false
  noWait : s.g.wait = none
  noHalt : s.g.haltOwed = none
  noWatch : s.g.watchHit = none
  free : State.blockedBy s s.g = none
  idle : s.g.busyUntil ≤ s.clk
  ready : s.g.readyAt ≤ s.clk
  port : State.portFree s s.g = true
  address : Group.issueAddr s.g = some a
  noBreak : State.breakAt s s.g a = none
  noReplay : State.replayWaits s s.g = false

/-- The state in which the chain at an address is fetched: the active mask holds the live lanes that stand there (R109). -/
def atChain (s : State) (a : Word) : State :=
  { s with cur := { mask := Group.activeMask s.g, chainPc := a, wordPc := a, status := .done, fresh := false, follow := false, srcs := [] } }

/-- A chain of one word: its slot, the bits, the instruction they decode to, the packet and the chain as R87 and R88 want them. -/
structure OneWord (ws : List Nat) (a : Word) (w : Nat) (i : Instr) : Prop where
  run : (readChain ws a).words = [(a, w)]
  decodes : decodeWord w = .ok i
  packet : (readChain ws a).packetBad = false
  chain : (readChain ws a).chainBad = false

/-- The issue cycles of the chain: 4, 8 for the words that take 8, and 8 for an MQ word while THERMAL is set (R20, R89). -/
def chainCycles (s : State) (w : Nat) (i : Instr) : Nat :=
  max (if s.pkg.thermal = true ∧ wordPipe w = .mma then 8 else 4) (Instr.issueFigure i)

/-- The word has taken effect; a traced group's branch is recorded, the issue cycles count, and what follows the chain follows (R89,
R93, R120, R368). -/
def chainDone (s u t : State) (a : Word) (ws : List Nat) (w : Nat) (i : Instr) : State :=
  let traced := if (t.cur.status == .done || Status.isParked t.cur.status) && i != .rcmt && Group.at_ t.g s.g.hall s.g.slot then
    State.traceBranch t s.g (Group.activeMask s.g) a i else t
  State.afterChain
    (State.issued traced s.g.hall s.g.slot (chainCycles (State.traceSync u) w i) (readChain ws a).stall (readChain ws a).yield s.g.trapMode) s.g

/-- A packet that is not in the instruction cache: its leaf allows the fetch and stands still, and its home slice is not being rehomed (R81,
R86). -/
structure Fetchable (s : State) (g : Group) (p : DWord) (l : DWord) (pte : Nat) : Prop where
  window : bits p.toNat 60 4 = 0
  miss : (State.hall s g.hall).icache.find? (fun x => x.ctx == g.ctx && x.va == vaOf p) = none
  leaf : State.translate s g.hall g.ctx (vaOf p) = .leaf l pte
  executable : Leaf.x l = true
  notWritable : Leaf.w l = false
  published : Leaf.s l = true → (State.buffer s g.ctx (vaOf p)).isSome = true
  resident : Leaf.v l = true
  still : Leaf.g l = false
  home : State.rehoming s (State.physOf s g.ctx l true (vaOf p)) 16 = false

/-- The four words of a packet, as memory gives them once the walk has filled the TLB and every stash has written back a dirty copy of their
line (R73, R86, R207). -/
def packetRead (s : State) (g : Group) (p : DWord) (l : DWord) : List Nat :=
  let pa := State.physOf s g.ctx l true (vaOf p)
  let u := State.reach (State.recall (State.fillTlb s g.hall g.ctx (vaOf p)) none pa 16 false) (dieOfHall g.hall) g.ctx l pa 16
  [0, 4, 8, 12].map (fun o => Memory.num u.mem (pa + o) 4)

/-- The search of R28 as its procedure goes: lo, hi and what it returns. -/
inductive Search (offset : Nat → Nat) (x : Nat) : Nat → Nat → Option Nat → Prop
  | none (lo hi : Nat) : hi ≤ lo → Search offset x lo hi none
  | found (lo hi : Nat) : lo < hi → offset ((lo + hi) >>> 1) = x → Search offset x lo hi (some ((lo + hi) >>> 1))
  | upper (lo hi : Nat) (r : Option Nat) : lo < hi → offset ((lo + hi) >>> 1) < x → Search offset x ((lo + hi) >>> 1 + 1) hi r →
      Search offset x lo hi r
  | lower (lo hi : Nat) (r : Option Nat) : lo < hi → x < offset ((lo + hi) >>> 1) → Search offset x lo ((lo + hi) >>> 1) r →
      Search offset x lo hi r

end Sys2Proof.Machine.Rules

/-- A step runs the due event of another agent as its instruction, on the state without it; and with none due, and one group that may
start a chain of one word, the step is that word's instruction on the state in which its packet was fetched, followed by what the issue
of a chain does besides (R88, R104, R120). -/
def Obligations.StepRunsTheDecodedInstruction : Prop :=
  (∀ (s : State) (e : Instr) (r : List Instr), s.events = e :: r → step s = exec e { s with events := r }) ∧
  (∀ (s u t : State) (a : Word) (ws : List Nat) (w : Nat) (i : Instr), OnlyGroup s a → OneWord ws a w i →
    State.fetch (atChain s a) s.g a = .packet ws u → State.regWait u i = false → State.wordCheck (State.traceSync u) i = none →
    exec i { State.traceSync u with cur := { (State.traceSync u).cur with wordPc := a, follow := false, status := .done } } = .next t →
    (∀ r, t.cur.status ≠ .stalled r) → step s = .next (chainDone s u t a ws w i)) ∧
  (∀ (s : State) (g : Group) (a : Word) (l : DWord) (pte : Nat), Fetchable s g (State.packetAt s g a) l pte →
    ∃ u, State.fetch s g a = .packet (packetRead s g (State.packetAt s g a) l) u)

/-- For every instruction word, with either chain bit and every operand at every value, decoding its encoding gives it back (R88, R95,
R100 to R103). -/
def Obligations.EncodedWordsDecode : Prop :=
  ∀ (i : Instr) (c : Bool), (∃ w, encode i = some w) →
    ∃ w, encodeChainWord ⟨c, i⟩ = some w ∧ decodeChainWord w = .ok ⟨c, i⟩

/-- Every step from a state whose memory is in canonical form, whatever else it holds, gives a state whose memory is: addresses
strictly rising, no byte listed that an unlisted address reads as. -/
def Obligations.EveryStepKeepsMemoryCanonical : Prop :=
  ∀ (s t : State), Memory.wf s.mem = true → step s = .next t → Memory.wf t.mem = true

/-- The state after reset (R12 to R14, R46, R152, R334): its memory is in canonical form with nothing listed, CLK is 0, no context
exists and nothing is bound, the boot has made no step, the measurement registers are zero, the suspicion scores are zero, the chain is not
complete, and HALLPM is 40. The power state P0 is the model's choice (log entry 5). -/
def Obligations.ResetStateAsStated : Prop :=
  Memory.wf State.reset.mem = true ∧ (∀ a, Memory.read State.reset.mem a = 0) ∧ State.reset.clk = 0 ∧ State.reset.ctxs = [] ∧
  State.reset.g.valid = false ∧ State.reset.groups = [] ∧ State.reset.pkg.bootDone = 0 ∧ State.reset.pkg.chainComplete = false ∧
  State.reset.pkg.meas = List.replicate 4 (List.replicate 48 0) ∧ (∀ u, (State.unit State.reset u).score = 0) ∧
  State.reset.pkg.hallpm = 40 ∧ State.reset.pkg.power = .p0

/-- The worked encodings of the spec's chapters, word by word, decode to the instructions they stand for (R95, R98, R100 to R102). -/
def Obligations.SpecWordsDecode : Prop :=
  decodeChainWord 0x81814307 = .ok ⟨true, .iadd true 5 6 7⟩ ∧ decodeWord 0x40430103 = .ok (.ld 2 12 2 3) ∧
  decodeWord 0x141A37FF = .ok (.iaddi 13 13 0x3FF) ∧ decodeWord 0x0F43860A = .ok (.a64s false 2 14 12 10) ∧
  decodeWord 0x10E24414 = .ok (.shfl true 3 9 8 20) ∧ decodeWord 0x670C0005 = .ok (.rds 6 5) ∧
  decodeWord 0x6A50A801 = .ok (.spawnw 40 42 false) ∧ decodeWord 0x501450B6 = .ok (.tkt 10 20 22 true true) ∧
  decodeWord 0x23A2860E = .ok (.ffma true 1 10 12 14) ∧ decodeWord 0x28420A15 = .ok (.fcmp 2 8 20 21) ∧
  decodeWord 0x2A218380 = .ok (.frsq 6 7) ∧ decodeWord 0x34024605 = .ok (.pk4 0 9 12 5) ∧
  decodeWord 0x35240482 = .ok (.unpk4 16 9 2) ∧ decodeWord 0x3B014283 = .ok (.tagset 5 5 3) ∧
  decodeWord 0x46004101 = .ok (.ldcb 1 2 1) ∧ decodeWord 0x1F000003 = .ok (.cbsel 3) ∧
  decodeWord 0x42428234 = .ok (.ldo 2 10 4 3 1 false) ∧ decodeWord 0x43424328 = .ok (.sto 2 9 6 2 2) ∧
  decodeWord 0x44C50F7E = .ok (.ldl 6 20 30 0x7E) ∧ decodeWord 0x5258B980 = .ok (.cpy 44 46 48 false false) ∧
  decodeWord 0x5600C800 = .ok (.pub 50 false) ∧ decodeWord 0x6B000100 = .ok (.waitc 1 0) ∧
  decodeWord 0x79030A20 = .ok (.mmqCbbf 0 24 40 true) ∧ decodeWord 0x7A320810 = .ok (.mmqE2m1 3 16 32 false true) ∧
  decodeWord 0x7B000000 = .ok (.mmz 0) ∧ decodeWord 0x7C060000 = .ok (.mmrd 0 48) ∧ decodeWord 0x6D00A149 = .ok (.rngw 40 41) ∧
  decodeWord 0x4847C760 = .ok (.aadd 2 31 14 6 0) ∧ decodeWord 0x49650433 = .ok (.amax 3 20 8 3 0 true) ∧
  decodeWord 0x4E84034C = .ok (.acasQ 16 6 4 3) ∧ decodeWord 0x6C0C50A8 = .ok (.phreg 6 20 21) ∧
  decodeWord 0x64100015 = .ok (.rbeg 8 5 1) ∧ decodeWord 0x6E120000 = .ok (.rstat 9) ∧
  decodeWord 0x47450760 = .ok (.modw 2 20 14 6 0) ∧ decodeWord 0x72102800 = .ok (.prop 8 10)

/-- R28: the search in a table of fewer than 2^32 entries goes exactly as the procedure, well formed or not, and gives what it gives. -/
def Obligations.TableSearchIsTheProcedure : Prop :=
  ∀ (offset : Nat → Nat) (x count : Nat), count < 2 ^ 32 → Search offset x 0 count (lookupTable offset x 33 0 count)

/-- R200: TAGRD, where no particle strike disturbs it (R118), writes the code of va's tag, tagged I32, in each active lane 4 cycles later, whatever the tag and the contents: a
POISON va gives 13 with tag I32, and nothing is consumed or passed on. Nothing else changes, but that a lane with an open atomic region has
counted the packet (R290). -/
def Obligations.TagReadReadsTheTagAlone : Prop :=
  ∀ (s u : State) (d a : RegNo), Ready s (.tagrd d a) → s.strike = none → u = State.countPackets s → u.cur.mask ≠ 0 →
    exec (.tagrd d a) s = .next (done (State.landing u 4 d.toNat (lanesOf.map (fun l =>
      if u.cur.mask.getLsbD l then
        some (RegCell.of (BitVec.ofNat 32 (if (Group.cell u.g l a.toNat).tag = .poison then 13 else Tag.code (Group.cell u.g l a.toNat).tag)) .i32)
      else none)) false))

/-! ## What holds of every word: the checks, the sources, regions, traps, the frame -/

namespace Sys2Proof.Machine.Rules

/-- A group stands at the issue port with its next word, which it has not yet begun. -/
def Begins (s : State) : Prop := s.g.valid = true ∧ s.g.wait = none ∧ s.cur.follow = false

/-- Some register of the word is pending (R91); v0 never is. -/
def NamesPending (s : State) (i : Instr) : Prop := ∃ n ∈ Instr.regs i, n ≠ 0 ∧ n ∈ Group.pendingRegs s.g

/-- The word names a register at or past 8 x REGN, or a tile at or past ACCN. -/
def BeyondAllocation (s : State) (i : Instr) : Prop :=
  (∃ n ∈ Instr.regs i, 8 * s.g.regn ≤ n) ∨ (∃ k, Instr.tileOf i = some k ∧ s.g.accN ≤ k)

/-- The group's role does not admit the word's major (R115); no check in trap mode (R317). -/
def WrongRole (s : State) (i : Instr) : Prop := s.g.trapMode = false ∧ Role.admits s.g.role (Instr.major i) = false

/-- With the checking scoreboard on, a register of the word has a fixed-latency write that has not landed (R92). -/
def TooEarly (s : State) (i : Instr) : Prop :=
  State.checking s = true ∧ ∃ x ∈ s.g.landings, x.pend = false ∧ s.clk < x.at_ ∧ x.reg ∈ Instr.regs i

/-- The checks of R104 on a word, in their order. -/
inductive FailsFirst (s : State) (i : Instr) : Cause → Prop
  | illegal : wellFormed i = false → FailsFirst s i .illegal
  | regalloc : wellFormed i = true → BeyondAllocation s i → FailsFirst s i .regalloc
  | role : wellFormed i = true → ¬ BeyondAllocation s i → WrongRole s i → FailsFirst s i .role
  | stall : wellFormed i = true → ¬ BeyondAllocation s i → ¬ WrongRole s i → TooEarly s i → FailsFirst s i .stall

/-- The words of the tables of lane-by-lane words. -/
def laneWordOf (s : State) (i : Instr) : Option LaneWord :=
  (integerWord s i).orElse (fun _ => (logicWord s i).orElse (fun _ => (compareWord s i).orElse (fun _ => acrossWord s i)))

/-- The words that use a source as an address, a condition, a state to write or data that leaves the register file, with their
sources (R117). -/
def consuming : Instr → Option (List Src)
  | .br p _ _ => some [consumed p false []]
  | .brz p _ _ => some [consumed p false []]
  | .jr a u => some [consumed a u [.i32]]
  | .ret a u => some [consumed a u [.i32]]
  | .ld _ _ a _ => some (addrSrcs a)
  | .ldo _ _ a _ _ _ => some (addrSrcs a)
  | .st sz t a _ => some (addrSrcs a ++ dataSrcs t (sizeRegs sz.toNat) [])
  | .sto sz t a _ _ => some (addrSrcs a ++ dataSrcs t (sizeRegs sz.toNat) [])
  | .ldl _ _ a _ => some [consumed a false [.i32]]
  | .stl sz t a _ => some (consumed a false [.i32] :: dataSrcs t (sizeRegs sz.toNat) [])
  | .tkt _ a b ua ub => some (counterSrcs a b ua ub)
  | .depadd _ a b ua ub => some (counterSrcs a b ua ub)
  | i => match atomicOf i with
    | some (op, _, t, a, k, _, _) => some (addrSrcs a ++ dataSrcs t k (atomicTags op))
    | none => none

/-- The words that R286 forbids inside an open atomic region. -/
def forbidden : Instr → Bool
  | .aadd .. | .amin .. | .amax .. | .aand .. | .aor .. | .axor .. | .axch .. | .acas .. | .acasQ .. | .afadd .. => true
  | .tkt .. | .depadd .. | .spawn .. | .spawnw .. | .modw .. | .ldcb .. | .ldl .. | .stl .. => true
  | .ldo _ _ _ _ _ last => last
  | .cpy .. | .cpyt .. | .cpyg .. | .cpyw .. | .disc .. | .pref .. | .pub .. | .smap .. | .sflush .. | .sdrop .. => true
  | .tilev .. | .tilec .. | .tileclr .. | .coll .. | .idem | .regclm .. | .regrel .. | .exit | .waitc .. => true
  | .phreg .. | .phmode .. | .phdrop .. | .phsig .. | .phwait .. | .phnext .. | .rngi .. | .rngw .. | .rngs .. => true
  | .mmqBf16 .. | .mmqF16 .. | .mmqE4m3 .. | .mmqE5m2 .. | .mmqI8 .. | .mmqCb4 .. | .mmqCbbf .. | .mmqE2m1 .. => true
  | .mmz .. | .mmwr .. | .mmst .. | .mmld .. => true
  | _ => false

/-- The MQ words. -/
def mqWordOf : Instr → Bool
  | .mmqBf16 .. | .mmqF16 .. | .mmqE4m3 .. | .mmqE5m2 .. | .mmqI8 .. | .mmqCb4 .. | .mmqCbbf .. | .mmqE2m1 .. => true
  | .mmz .. | .mmrd .. | .mmwr .. | .mmst .. | .mmld .. => true
  | _ => false

/-- The tile of an MQ word. -/
def mqTile : Instr → Nat
  | .mmqBf16 t _ _ _ | .mmqF16 t _ _ _ | .mmqE4m3 t _ _ _ | .mmqE5m2 t _ _ _ | .mmqI8 t _ _ _ | .mmqCb4 t _ _ _ | .mmqCbbf t _ _ _ => t.toNat
  | .mmqE2m1 t _ _ _ _ => t.toNat
  | .mmz t | .mmrd t _ | .mmwr t _ | .mmst t _ | .mmld t _ => t.toNat
  | _ => 0

/-- What comes before the region check: LDCB's codebook slot (R194), the operands of the ring words (R250), and a deferred SHADOW of the tile
of an MQ word (R244, R315). -/
def BeforeRegion (s : State) : Instr → Prop
  | .ldcb t _ _ => State.slotPending s t.toNat = false ∧ t.toNat < s.g.lr.cb
  | .rngi a b => Sound s [named a false [], named b false []] ∧ ringNo s a < 16
  | .rngw a b => Sound s [named a false [], named b false []] ∧ ringNo s a < 16 ∧ ringNo s b < 64
  | .rngs a b => Sound s [named a false [], named b false []] ∧ ringNo s a < 16 ∧ ringNo s b < 64
  | i => mqWordOf i = true → Group.shadowFor s.g (mqTile i) = false

/-- The active lanes of quarter q. -/
def activeOf (s : State) (q : Nat) : List Nat := (List.range 8).filter (fun k => s.cur.mask.getLsbD (8 * q + k))

/-- A quarter with between 1 and 7 active lanes. -/
def Broken (s : State) (q : Nat) : Prop := 1 ≤ (activeOf s q).length ∧ (activeOf s q).length ≤ 7

/-- A group with nothing of it outstanding in lcnt, acnt, the matrix array and the moves of tiles: a trap is entered at once (R243, R316). -/
def Quiet (g : Group) : Prop := g.lcnt = 0 ∧ g.acnt = 0 ∧ g.mma = [] ∧ Group.tileMoves g = false

end Sys2Proof.Machine.Rules

/-- Before it has any effect a word waits for its pending registers (REGDEP, R91), and then is checked: ILLEGAL, REGALLOC, ROLE,
STALL, the first that fails trapping with the active mask and the chain's address (R104, R115). -/
def Obligations.WordChecksComeBeforeAnyEffect : Prop :=
  ∀ (s : State) (i : Instr), (∃ w, encode i = some w) → Begins s →
    (NamesPending s i → exec i s = .next (State.note s (.stalled .regdep))) ∧
    (∀ c, ¬ NamesPending s i → FailsFirst s i c → exec i s = .next (State.takeTrap s c s.cur.mask 0 s.cur.chainPc))

/-- The sources of a word that has passed its checks: poison that is consumed comes first and the chain has no effect (R117); a tag
that the entry does not accept traps FORMAT (R116); a residue that does not match restarts the region, after the checks (R118). -/
def Obligations.SourceChecksInOrder : Prop :=
  (∀ (s : State) (i : Instr) (xs : List Src), consuming i = some xs → Closed s → Ready s i → State.srcPoison s xs = true →
    exec i s = .next (State.consumePoison s)) ∧
  (∀ (s : State) (i : Instr) (w : LaneWord), laneWordOf s i = some w → Closed s → Ready s i →
    (State.srcFormat s w.srcs = true → exec i s = .next (State.takeTrap s .format s.cur.mask 0 s.cur.chainPc)) ∧
    (State.srcFormat s w.srcs = false → State.srcResidue s w.srcs = true → exec i s = .next (State.mismatch s .residue)))

/-- The words that R286 forbids trap ILLEGAL when a lane of the active mask has an open atomic region, the active lanes without one
trapping with it; RBEG traps NESTED with the lanes that have one open. -/
def Obligations.ForbiddenWordsTrapInsideRegions : Prop :=
  ∀ (s u : State) (i : Instr), u = State.countPackets s → ReadyInside s i →
    (∃ l, u.cur.mask.getLsbD l = true ∧ l < 32 ∧ (Group.lane u.g l).region.isOpen = true) →
    (forbidden i = true → BeforeRegion u i → exec i s = .next (State.takeTrap u .illegal u.cur.mask 0 u.cur.chainPc)) ∧
    (∀ p off slot, i = .rbeg p off slot → exec i s = .next (State.takeTrap u .nested
      (maskOf (fun l => u.cur.mask.getLsbD l && (Group.lane u.g l).region.isOpen)) 0 u.cur.chainPc))

/-- In every MQ word each quarter of the group has either all 8 of its lanes active or none; with some quarter between, and no SHADOW
deferred for its tile, the chain traps QUARTER, and TRAPM is the active lanes of every such quarter (R236). -/
def Obligations.MatrixQuartersWhole : Prop :=
  ∀ (s : State) (i : Instr), mqWordOf i = true → Closed s → Ready s i → Group.shadowFor s.g (mqTile i) = false → (∃ q < 4, Broken s q) →
    ∃ m : Mask, exec i s = .next (State.takeTrap s .quarter m 0 s.cur.chainPc) ∧
      ∀ l < 32, (m.getLsbD l = true ↔ s.cur.mask.getLsbD l = true ∧ Broken s (l / 8))

/-- A trap's entry (R316, R317): in trap mode it fails the task with 0x40 plus its code; with no handler it fails the task with its
code; else, the group quiet and no region open, TRAPC, TRAPA, TRAPM and TRAPPC get the cause, the address, the mask and the pc,
trap mode is entered, the buffered stores are held and leave scnt, the record keeps lanes, resume mask
and v1 to v7 with their landings, v1 to v7 are cleared, and every lane is live at 0; a group that is not quiet enters later, the trap pending. Registers from v8 on, memory and every other group stand. -/
def Obligations.TrapEntryAsStated : Prop :=
  ∀ (s : State) (c : Cause) (m : Mask) (x : DWord) (pc : Word), s.g.wait = none → s.cur.fresh = false →
    (s.g.trapMode = true → State.takeTrap s c m x pc = State.note (State.failTask
      (withG s { s.g with trapc := BitVec.ofNat 32 (Cause.code c) }) s.g.ctx s.g.seq (0x40 + Cause.code c)) (.trapped c)) ∧
    (s.g.trapMode = false → State.tbase s = 0 → State.takeTrap s c m x pc = State.note (State.failTask
      (withG s { s.g with trapc := BitVec.ofNat 32 (Cause.code c), trapa := x, trapm := m, trappc := pc })
      s.g.ctx s.g.seq (Cause.code c)) (.trapped c)) ∧
    (s.g.trapMode = false → State.tbase s ≠ 0 → Closed s →
      (Quiet s.g → ∃ g, State.takeTrap s c m x pc = State.note (withG s g) (.trapped c) ∧
        g.trapc = BitVec.ofNat 32 (Cause.code c) ∧ g.trapa = x ∧ g.trapm = m ∧ g.trappc = pc ∧ g.trapMode = true ∧
        g.held = s.g.sbuf ∧ g.sbuf = [] ∧ g.scnt = s.g.scnt - s.g.sbuf.length ∧
        (∀ r, g.trapRec = some r → r.entryPc = pc ∧ r.resume = s.cur.mask ∧
          r.lanes = s.g.lanes.map (fun l => (l.lpc, l.mode)) ∧
          r.bank = (List.range 7).map (fun i =>
            (Group.landRegs s.g (fun n => decide (1 ≤ n) && decide (n < 8))).regs.getD (i + 1) [])) ∧ g.trapRec ≠ none ∧
        (∀ y ∈ g.lanes, y.lpc = 0 ∧ y.mode = .live) ∧
        (∀ n, 1 ≤ n → n < 8 → n < s.g.regs.length → g.regs.getD n [] = List.replicate 32 RegCell.zero) ∧
        (∀ n, 8 ≤ n → g.regs.getD n [] = s.g.regs.getD n [])) ∧
      (¬ Quiet s.g → State.takeTrap s c m x pc =
        State.note (withG s { s.g with pending := some (.trap c m x pc s.cur.mask) }) (.trapped c)))

/-- An abort of a lane (R293): its region closes with its stores, its read set and its constraints dropped, its status word goes to
vp tagged I32 with no symbolic tag, its lpc is the fallback label, RETRIES counts up and saturates; every other register keeps its
value and tag, every other lane keeps everything. -/
def Obligations.AbortOfALane : Prop :=
  ∀ (g h : Group) (l status detail : Nat) (r : LaneRegion), l < 32 → l < g.lanes.length → r = (Group.lane g l).region →
    status < 256 → detail < 256 → h = Group.abortLane g l status detail →
    (let y := (Group.lane h l).region
     let w := y.status
     y.isOpen = false ∧ y.stores = [] ∧ y.reads = [] ∧ y.cons = [] ∧ y.inputs = [] ∧
     bits w.toNat 0 8 = status ∧ bits w.toNat 8 8 = detail ∧
     bits w.toNat 16 16 = (if r.committed then 1 else min 65535 (bits r.status.toNat 16 16 + 1)) ∧
     (Group.lane h l).lpc = r.fallback ∧
     (r.vp ≠ 0 → r.vp.toNat < g.regs.length → (∀ c ∈ g.regs, c.length = 32) →
       Group.cell h l r.vp.toNat = RegCell.of w .i32)) ∧
    (∀ k, k ≠ l → Group.lane h k = Group.lane g k) ∧
    (∀ k n, k ≠ l ∨ n ≠ r.vp.toNat → (Group.cell h k n).val = (Group.cell g k n).val ∧
      (Group.cell h k n).tag = (Group.cell g k n).tag ∧ (k ≠ l → Group.cell h k n = Group.cell g k n))

/-- The frame of the lane-by-lane words: nothing but the group's landings changes, and those it gains are for the destination
registers alone, hold cells for the active lanes alone, and become due L cycles after the issue; v0 is never among them. After the
word the active lanes stand at the next word; no register, flag, special register, accumulator, counter, buffered store or exception
register of the group, and nothing outside it, has changed. -/
def Obligations.ResultWordsFrame : Prop :=
  (∀ (s : State) (w : LaneWord), ∃ new : List Landing,
    writes s w = withG s { s.g with landings := s.g.landings ++ new } ∧
    ∀ x ∈ new, x.reg ≠ 0 ∧ w.dst.toNat ≤ x.reg ∧ x.reg < w.dst.toNat + w.n ∧ x.at_ = s.clk + w.lat ∧ x.pend = false ∧
      ∀ l < 32, s.cur.mask.getLsbD l = false → x.cells[l]? = some none) ∧
  (∀ (s : State) (w : LaneWord), ∃ (g : Group) (c : Cur), done (writes s w) = { s with g := g, cur := c } ∧
    g.regs = s.g.regs ∧ g.fpflags = s.g.fpflags ∧ g.flags = s.g.flags ∧ g.cbs = s.g.cbs ∧ g.codebooks = s.g.codebooks ∧
    g.tiles = s.g.tiles ∧ g.trapMode = s.g.trapMode ∧ g.trapc = s.g.trapc ∧ g.trapa = s.g.trapa ∧ g.trapm = s.g.trapm ∧
    g.trappc = s.g.trappc ∧ g.trapRec = s.g.trapRec ∧ g.phregs = s.g.phregs ∧ g.sbuf = s.g.sbuf ∧ g.held = s.g.held ∧
    g.outst = s.g.outst ∧ g.lcnt = s.g.lcnt ∧ g.scnt = s.g.scnt ∧ g.acnt = s.g.acnt ∧ g.ecnt = s.g.ecnt ∧
    (∀ l < 32, l < s.g.lanes.length → Group.lane g l = (if s.cur.mask.getLsbD l = true then
      { Group.lane s.g l with lpc := nextWord s.cur.wordPc } else Group.lane s.g l)))

/-- Results take effect when they are due (R90): a cell of a register changes only if a due landing names that register and holds a
cell for that lane, and then the last such landing, in issue order, decides; v0 reads as before, zero tagged RAW; of the rest of the
group only FPFLAGS, with its own results, changes. -/
def Obligations.LandedResults : Prop :=
  ∀ (g : Group) (clk l n : Nat), (∀ c ∈ g.regs, c.length = 32) → (∀ x ∈ g.landings, x.cells.length = 32) → l < 32 →
    n ≠ 0 → n < g.regs.length →
    Group.cell (Group.landDue g clk) l 0 = { val := 0, tag := .raw, res := 0, sym := 0 } ∧
    Group.cell (Group.landDue g clk) l n =
      ((((g.landings.filter (fun x => decide (x.at_ ≤ clk) && x.reg == n)).filterMap
        (fun x => x.cells.getD l none)).getLast?).getD (Group.cell g l n)) ∧
    (∃ rs ls fs fp, Group.landDue g clk = { g with regs := rs, landings := ls, flags := fs, fpflags := fp } ∧
      ls = g.landings.filter (fun x => decide (clk < x.at_)))

/-- The issue address is the minimum lpc over the live lanes, and the active mask holds the live lanes that stand there (R109). -/
def Obligations.IssueAddressIsTheLeast : Prop :=
  ∀ g : Group, g.lanes.length = 32 →
    (Group.issueAddr g = none ↔ ∀ l < 32, (Group.lane g l).mode ≠ .live) ∧
    (∀ a, Group.issueAddr g = some a → (∃ l < 32, (Group.lane g l).mode = .live ∧ (Group.lane g l).lpc = a) ∧
      (∀ l < 32, (Group.lane g l).mode = .live → a.toNat ≤ (Group.lane g l).lpc.toNat) ∧
      (∀ l < 32, (Group.activeMask g).getLsbD l = true ↔ (Group.lane g l).mode = .live ∧ (Group.lane g l).lpc = a))

/-! ## Where stores go -/

namespace Sys2Proof.Machine.Rules

/-- No block holds a stash mapping or a stash line: every access goes to its home (R206). -/
def NoStash (s : State) : Prop := ∀ b ∈ s.blocks, b.stashMaps = [] ∧ b.stashLines = []

/-- What pieces of a global store put at a physical address: the byte of the last of them, in lane order, that reaches it (R220, R221,
R260). A piece starts at the physical address that its leaf gives for its virtual address. -/
def storedAt (ps : List StorePart) (a : Nat) : Option Byte :=
  (ps.filterMap (fun p =>
    let b := Leaf.phys p.leaf (vaOf p.addr)
    if b ≤ a ∧ a < b + p.data.length then p.data[a - b]? else none)).getLast?

end Sys2Proof.Machine.Rules

/-- A store, as far as it is performed in a step, writes the bytes of those of its pieces that can go, at their physical addresses, and
every other byte of memory reads as before (R220, R221, R260); a scratchpad store changes no byte of memory. The accesses go to their homes and are not recorded: no stash holds a
mapping or a line, no page of the store is an M page (R343), and the context's runs are not logged (R370). -/
def Obligations.PerformedStoreChangesItsBytesAlone : Prop :=
  ∀ (s : State) (hall slot n k : Nat) (ks : List Nat) (g : Group) (o : Outst) (w : StoreWord), Memory.wf s.mem = true → NoStash s →
    (∀ x, State.ctx? s g.ctx = some x → x.dbg.rpMode ≠ 1) → (∀ p ∈ w.parts, Leaf.m p.leaf = false) →
    State.ready? s hall slot n k = some (g, o, ks) → o.op = .store w → State.trafficOf s g o ks = [] →
    ∃ t, exec (.storePerformed hall slot n k) s = .next t ∧
      (w.scratch = false → ∀ a, Memory.read t.mem a = (storedAt (ks.filterMap (fun j => w.parts[j]?)) a).getD (Memory.read s.mem a)) ∧
      (w.scratch = true → ∀ a, Memory.read t.mem a = Memory.read s.mem a)

/-- A store of lanes with open atomic regions stays private to them (R286, R287): no byte of memory changes but the page table's A and D
bits, no store joins the group's buffer, scnt stands, and nothing is outstanding for it. -/
def Obligations.RegionStoresStayPrivate : Prop :=
  ∀ (s u : State) (i : Instr) (sz : BitVec 3) (t a : RegNo) (off : BitVec 7) (scope : BitVec 3) (ord : BitVec 2) (accs : List Access)
    (ps : List Piece), u = State.countPackets s → ReadyInside s i → AllOpen u →
    Sound u (addrSrcs a ++ dataSrcs t (sizeRegs sz.toNat) []) →
    (i = .st sz t a off ∧ accs = laneAccesses u a (BitVec.signExtend 64 off * BitVec.ofNat 64 (bytesOf sz)) (bytesOf sz) ∨
      i = .sto sz t a scope ord ∧ accs = laneAccesses u a 0 (bytesOf sz) ∧ (ord ≠ 0 → Aligned accs (bytesOf sz))) →
    Accepted u accs u.g.scnt → Classified u .store accs ps → (∀ p ∈ ps, Leaf.s p.leaf = false) →
    ∃ v, exec i s = .next v ∧ v.mem = (touched u accs true ps).mem ∧ v.g.sbuf = u.g.sbuf ∧ v.g.scnt = u.g.scnt ∧ v.g.outst = u.g.outst
end

