-- ==== Sys2Proof/Laws/Values.lean ====
section
/-! SUPPORT. The values of the integer, bit-field and address words in the plain operations on bit vectors. -/

namespace Sys2Proof.Machine

theorem mulHighS_eq (x y : Word) :
    mulHighS x y = (BitVec.signExtend 64 x * BitVec.signExtend 64 y).extractLsb' 32 32 := by
  apply BitVec.eq_of_toNat_eq
  have hx := BitVec.toInt_lt (x := x)
  have hx' := BitVec.le_toInt (x := x)
  have hy := BitVec.toInt_lt (x := y)
  have hy' := BitVec.le_toInt (x := y)
  have h : (BitVec.signExtend 64 x * BitVec.signExtend 64 y) = BitVec.ofInt 64 (x.toInt * y.toInt) := by
    apply BitVec.eq_of_toInt_eq
    rw [BitVec.toInt_mul, BitVec.toInt_signExtend_of_le (by decide), BitVec.toInt_signExtend_of_le (by decide), BitVec.toInt_ofInt]
  rw [h]
  simp only [mulHighS, BitVec.toNat_ofInt, BitVec.extractLsb'_toNat, Nat.shiftRight_eq_div_pow]
  generalize x.toInt * y.toInt = p
  norm_num
  omega

theorem mulHighZ_eq (x y : Word) :
    mulHighZ x y = (BitVec.zeroExtend 64 x * BitVec.zeroExtend 64 y).extractLsb' 32 32 := by
  apply BitVec.eq_of_toNat_eq
  have hx := x.isLt
  have hy := y.isLt
  have h : x.toNat * y.toNat < 2 ^ 64 := by
    calc x.toNat * y.toNat < 2 ^ 32 * 2 ^ 32 := Nat.mul_lt_mul'' hx hy
      _ = 2 ^ 64 := by norm_num
  simp only [mulHighZ, BitVec.toNat_ofNat, BitVec.extractLsb'_toNat, BitVec.toNat_mul, BitVec.toNat_setWidth, BitVec.truncate_eq_setWidth,
    Nat.shiftRight_eq_div_pow]
  rw [Nat.mod_eq_of_lt (a := x.toNat) (by omega), Nat.mod_eq_of_lt (a := y.toNat) (by omega), Nat.mod_eq_of_lt h]

theorem shiftOf_eq (y : Word) : shiftOf y = (y.extractLsb' 0 5).toNat := by
  simp [shiftOf, BitVec.extractLsb'_toNat]

/-- The bits of a mask. -/
theorem maskOf_getLsbD (p : Nat → Bool) (i : Nat) (h : i < 32) : (maskOf p).getLsbD i = p i := by
  have key : ∀ (l : List Nat) (m : BitVec 32), (∀ j ∈ l, j < 32) → l.Nodup →
      (l.foldl (fun m l => if p l then m ||| (1#32 <<< l) else m) m).getLsbD i =
        (m.getLsbD i || (l.contains i && p i)) := by
    intro l
    induction l with
    | nil => intro m _ _; simp
    | cons j l ih =>
      intro m hj hd
      rw [List.foldl_cons, ih _ (fun k hk => hj k (List.mem_cons_of_mem _ hk)) (List.nodup_cons.1 hd).2]
      have hji := hj j (List.mem_cons_self ..)
      by_cases hij : i = j
      · subst hij
        by_cases hp : p i <;> simp [hp, h]
      · have : ((1#32 <<< j).getLsbD i) = false := by
          simp only [BitVec.getLsbD_shiftLeft, h, decide_true, Bool.true_and]
          by_cases hlt : i < j
          · simp [hlt]
          · simp [hlt]; omega
        by_cases hp : p j <;> simp [hp, hij, this]
  have hc : lanesOf.contains i = true := by
    have : ∀ i < 32, lanesOf.contains i = true := by decide
    exact this i h
  rw [maskOf, key lanesOf 0#32 (by decide) (by decide), hc]
  simp

theorem bitReverse_eq (x : Word) : bitReverse x = x.reverse := by
  apply BitVec.eq_of_getLsbD_eq
  intro i hi
  rw [bitReverse, maskOf_getLsbD _ _ hi, BitVec.getLsbD_reverse, BitVec.getMsbD_eq_getLsbD]
  simp [hi]

theorem popcount_eq (x : Word) : popcount x = lanesOf.countP (fun i => x.getLsbD i) := by
  rw [popcount, List.countP_eq_length_filter]

theorem leadingZeros_eq (x : Word) :
    leadingZeros x = (match lanesOf.reverse.find? (fun i => x.getLsbD i) with | some i => 31 - i | none => 32) := by
  have key : ∀ (l : List Nat) (n : Nat), l.foldl (fun n i => if x.getLsbD i then 31 - i else n) n =
      (match l.reverse.find? (fun i => x.getLsbD i) with | some i => 31 - i | none => n) := by
    intro l
    induction l with
    | nil => intro n; rfl
    | cons j l ih =>
      intro n
      rw [List.foldl_cons, ih, List.reverse_cons, List.find?_append]
      cases l.reverse.find? (fun i => x.getLsbD i) with
      | some k => simp
      | none => by_cases h : x.getLsbD j <;> simp [h]
  exact key _ _

theorem extractField_eq (z : Bool) (x y : Word) :
    extractField z x y =
      (let p := (y.extractLsb' 0 5).toNat
       let e := min (p + min (y.extractLsb' 8 6).toNat 32) 32
       if e = p then 0
       else
         let r : Word := (x >>> p) &&& ~~~(0xFFFFFFFF#32 <<< (e - p))
         if z ∧ x.getLsbD (e - 1) = true then r ||| (0xFFFFFFFF#32 <<< (e - p)) else r) := by
  have hp : bits y.toNat 0 5 = (y.extractLsb' 0 5).toNat := by simp [bits, BitVec.extractLsb'_toNat]
  have hw : bits y.toNat 8 6 = (y.extractLsb' 8 6).toNat := by
    simp [bits, BitVec.extractLsb'_toNat, Nat.shiftRight_eq_div_pow]
  have hones : (0xFFFFFFFF#32) = BitVec.allOnes 32 := by decide
  simp only [extractField, fieldOf, hp, hw, hones]
  have hp5 : (y.extractLsb' 0 5).toNat < 32 := (y.extractLsb' 0 5).isLt
  generalize (y.extractLsb' 0 5).toNat = p at *
  generalize (y.extractLsb' 8 6).toNat = w at *
  generalize he : min (p + min w 32) 32 = e
  have hele : e ≤ 32 := by omega
  have hpe : p ≤ e := by omega
  by_cases h : e = p
  · simp [h]
  simp only [if_neg h]
  have hk : e - p ≤ 32 := by omega
  have hk0 : 0 < e - p := by omega
  generalize hkk : e - p = k at *
  have low : (x >>> p) &&& ~~~(BitVec.allOnes 32 <<< k) = BitVec.ofNat 32 (bits x.toNat p k) := by
    apply BitVec.eq_of_getLsbD_eq
    intro i hi
    simp only [BitVec.getLsbD_and, BitVec.getLsbD_ushiftRight, BitVec.getLsbD_not, BitVec.getLsbD_shiftLeft, hi, decide_true,
      Bool.true_and, BitVec.getLsbD_allOnes, BitVec.getLsbD_ofNat, bits, Nat.testBit_mod_two_pow, Nat.testBit_div_two_pow, BitVec.testBit_toNat]
    by_cases hik : i < k
    · simp [hik, Nat.add_comm]
    · have : i - k < 32 := by omega
      simp [hik, this]
  rw [low]
  have hb : bits x.toNat p k < 2 ^ k := Nat.mod_lt _ (by positivity)
  by_cases hs : z = true ∧ x.getLsbD (e - 1) = true
  · simp only [hs.1, hs.2, Bool.and_self, if_true, and_self]
    apply BitVec.eq_of_getLsbD_eq
    intro i hi
    have hpow : 2 ^ k ≤ 2 ^ 32 := Nat.pow_le_pow_right (by decide) hk
    have hnum : bits x.toNat p k + (4294967296 - 2 ^ k) = 2 ^ k * (2 ^ (32 - k) - 1) + bits x.toNat p k := by
      have : 2 ^ k * 2 ^ (32 - k) = 2 ^ 32 := by rw [← Nat.pow_add]; congr 1; omega
      rw [Nat.mul_sub, this]; omega
    rw [hnum]
    simp only [BitVec.getLsbD_ofNat, BitVec.getLsbD_or, BitVec.getLsbD_shiftLeft, hi, decide_true, Bool.true_and, BitVec.getLsbD_allOnes]
    rw [Nat.testBit_two_pow_mul_add _ hb]
    by_cases hik : i < k
    · simp [hik]
    · have h2 : (bits x.toNat p k).testBit i = false :=
        Nat.testBit_lt_two_pow (lt_of_lt_of_le hb (Nat.pow_le_pow_right (by decide) (by omega)))
      have h3 : i - k < 32 := by omega
      simp [hik, h2, h3, Nat.testBit_two_pow_sub_one]
      try omega
  · have : (z && x.getLsbD (e - 1)) = false := by
      cases z <;> simp_all
    simp [hs, this]

theorem insertField_eq (old x y : Word) :
    insertField old x y =
      (let p := (y.extractLsb' 0 5).toNat
       let e := min (p + min (y.extractLsb' 8 6).toNat 32) 32
       maskOf (fun i => if p ≤ i ∧ i < e then x.getLsbD (i - p) else old.getLsbD i)) := by
  have hp : bits y.toNat 0 5 = (y.extractLsb' 0 5).toNat := by simp [bits, BitVec.extractLsb'_toNat]
  have hw : bits y.toNat 8 6 = (y.extractLsb' 8 6).toNat := by
    simp [bits, BitVec.extractLsb'_toNat, Nat.shiftRight_eq_div_pow]
  simp only [insertField, fieldOf, hp, hw]
  have hp5 : (y.extractLsb' 0 5).toNat < 32 := (y.extractLsb' 0 5).isLt
  generalize (y.extractLsb' 0 5).toNat = p at *
  generalize (y.extractLsb' 8 6).toNat = w at *
  generalize he : min (p + min w 32) 32 = e
  have hele : e ≤ 32 := by omega
  have hpe : p ≤ e := by omega
  obtain ⟨n, rfl⟩ : ∃ n, e = p + n := ⟨e - p, by omega⟩
  rw [Nat.add_sub_cancel_left]
  have hold : old.toNat = 2 ^ p * (2 ^ n * (old.toNat / 2 ^ p / 2 ^ n) + bits old.toNat p n) + old.toNat % 2 ^ p := by
    rw [bits, Nat.div_add_mod, Nat.div_add_mod]
  have hval : old.toNat - bits old.toNat p n * 2 ^ p + bits x.toNat 0 n * 2 ^ p =
      2 ^ p * (2 ^ n * (old.toNat / 2 ^ p / 2 ^ n) + bits x.toNat 0 n) + old.toNat % 2 ^ p := by
    have h2 := Nat.mul_add (2 ^ p) (2 ^ n * (old.toNat / 2 ^ p / 2 ^ n)) (bits old.toNat p n)
    have h3 := Nat.mul_add (2 ^ p) (2 ^ n * (old.toNat / 2 ^ p / 2 ^ n)) (bits x.toNat 0 n)
    rw [Nat.mul_comm (bits old.toNat p n), Nat.mul_comm (bits x.toNat 0 n)]
    omega
  apply BitVec.eq_of_getLsbD_eq
  intro i hi
  rw [maskOf_getLsbD _ _ hi, BitVec.getLsbD_ofNat, hval, Nat.testBit_two_pow_mul_add _ (Nat.mod_lt _ (by positivity))]
  have hbn : bits x.toNat 0 n < 2 ^ n := Nat.mod_lt _ (by positivity)
  rw [Nat.testBit_two_pow_mul_add _ hbn]
  simp only [hi, decide_true, Bool.true_and, bits, Nat.testBit_mod_two_pow, Nat.testBit_div_two_pow, BitVec.testBit_toNat]
  by_cases h1 : i < p
  · have : ¬ (p ≤ i ∧ i < p + n) := by omega
    simp [h1, this]
  · by_cases h2 : i - p < n
    · have : p ≤ i ∧ i < p + n := by omega
      simp [h1, h2, this]
    · have : ¬ (p ≤ i ∧ i < p + n) := by omega
      rw [if_neg h1, if_neg h2, if_neg this]
      congr 1; omega

theorem minS_eq (x y : Word) : minS x y = if BitVec.slt y x then y else x := by
  simp [minS, BitVec.slt]
theorem maxS_eq (x y : Word) : maxS x y = if BitVec.slt x y then y else x := by
  simp [maxS, BitVec.slt]
theorem minZ_eq (x y : Word) : minZ x y = if BitVec.ult y x then y else x := by
  simp [minZ, BitVec.ult]
theorem maxZ_eq (x y : Word) : maxZ x y = if BitVec.ult x y then y else x := by
  simp [maxZ, BitVec.ult]

theorem element_eq (x : Word) (i : Nat) : element x i 8 = (x.extractLsb' (8 * i) 8).toNat := by
  simp [element, bits, BitVec.extractLsb'_toNat, Nat.shiftRight_eq_div_pow, Nat.mul_comm]

theorem pair64_eq (lo hi : Word) : pair64 lo hi = hi ++ lo := by
  apply BitVec.eq_of_toNat_eq
  have h1 := lo.isLt
  have h2 := hi.isLt
  rw [pair64, BitVec.toNat_ofNat, BitVec.toNat_append, Nat.shiftLeft_eq, ← Nat.shiftLeft_eq, ← Nat.shiftLeft_add_eq_or_of_lt h1,
    Nat.shiftLeft_eq]
  omega

theorem lo32_eq (x : DWord) : lo32 x = x.extractLsb' 0 32 := by
  apply BitVec.eq_of_toNat_eq
  simp [lo32, BitVec.extractLsb'_toNat]

theorem hi32_eq (x : DWord) : hi32 x = x.extractLsb' 32 32 := by
  apply BitVec.eq_of_toNat_eq
  simp [hi32, BitVec.extractLsb'_toNat, Nat.shiftRight_eq_div_pow]

end Sys2Proof.Machine
end

