-- ==== Sys2Proof/Laws/Access.lean ====
section
/-! SUPPORT. What the classification of an instruction's pages and the TLB fills of an access come to. -/

namespace Sys2Proof.Machine

/-- What translation may change: the page table's memory, the TLBs, and the stash copies that the walk's accesses recall. -/
def Translates (s t : State) : Prop := ∃ m hs bs, t = { s with mem := m, halls := hs, blocks := bs }

theorem Translates.refl (s : State) : Translates s s := ⟨s.mem, s.halls, s.blocks, rfl⟩

theorem Translates.trans {a b c : State} : Translates a b → Translates b c → Translates a c := by
  rintro ⟨m, hs, bs, rfl⟩ ⟨m', hs', bs', rfl⟩
  exact ⟨m', hs', bs', rfl⟩

theorem Translates.foldl {α : Type} (f : State → α → State) (hf : ∀ s x, Translates s (f s x)) :
    ∀ (l : List α) (s : State), Translates s (l.foldl f s)
  | [], s => Translates.refl s
  | x :: l, s => (hf s x).trans (Translates.foldl f hf l (f s x))

theorem State.flushBlock_translates (s : State) (c seq blk : Nat) (p : StashLine → Bool) (keep : Bool) :
    Translates s (State.flushBlock s c seq blk p keep) := by
  unfold State.flushBlock
  split
  · exact Translates.refl s
  · dsimp only
    split
    · exact Translates.refl s
    · exact ⟨_, _, _, rfl⟩

theorem State.recall_translates (s : State) (except : Option (Nat × Nat × Nat)) (pa len : Nat) (write : Bool) :
    Translates s (State.recall s except pa len write) := by
  unfold State.recall
  split
  · exact Translates.refl s
  · refine Translates.foldl _ (fun s b => ?_) _ s
    split
    · exact Translates.refl s
    · exact State.flushBlock_translates ..

theorem State.writePte_translates (s : State) (pte : Nat) (l : DWord) : Translates s (State.writePte s pte l) :=
  (State.recall_translates s none pte 8 true).trans ⟨_, _, _, rfl⟩

theorem State.recallWalk_translates (s : State) (c va : Nat) : Translates s (State.recallWalk s c va) := by
  unfold State.recallWalk
  split
  · exact Translates.refl s
  · split
    · exact Translates.refl s
    · exact Translates.foldl _ (fun s p => State.recall_translates ..) _ s

theorem State.fillTlb_translates (s : State) (h c va : Nat) : Translates s (State.fillTlb s h c va) := by
  unfold State.fillTlb
  split
  · exact Translates.refl s
  · split
    · exact Translates.refl s
    · split
      · exact Translates.refl s
      · refine (State.recallWalk_translates s c va).trans ?_
        dsimp only
        split
        · exact ⟨_, _, _, rfl⟩
        · exact (State.writePte_translates ..).trans ⟨_, _, _, rfl⟩

theorem State.setDirty_translates (s : State) (h c va : Nat) : Translates s (State.setDirty s h c va) := by
  unfold State.setDirty
  split
  · exact Translates.refl s
  · split
    · exact Translates.refl s
    · exact (State.writePte_translates ..).trans ⟨_, _, _, rfl⟩

/-- Looking pages up changes what translation may change alone. -/
theorem State.lookUp_translates (s : State) (h c : Nat) (accs : List (Need × Access)) :
    Translates s (State.lookUp s h c accs) := by
  refine Translates.foldl _ (fun s p => ?_) _ s
  split
  · exact Translates.refl s
  · exact State.fillTlb_translates ..

/-- So do the TLB fills and D bits of a classified word. -/
theorem State.touch_translates (s : State) (h c : Nat) (write : Bool) (ps : List Piece) :
    Translates s (State.touch s h c write ps) := by
  refine Translates.foldl _ (fun s p => ?_) _ s
  dsimp only
  split
  · exact (State.fillTlb_translates ..).trans (State.setDirty_translates ..)
  · exact State.fillTlb_translates ..

@[simp] theorem State.lookUp_g (s : State) (h c : Nat) (accs : List (Need × Access)) :
    (State.lookUp s h c accs).g = s.g := by
  obtain ⟨m, hs, bs, e⟩ := State.lookUp_translates s h c accs; rw [e]
@[simp] theorem State.lookUp_groups (s : State) (h c : Nat) (accs : List (Need × Access)) :
    (State.lookUp s h c accs).groups = s.groups := by
  obtain ⟨m, hs, bs, e⟩ := State.lookUp_translates s h c accs; rw [e]
@[simp] theorem State.lookUp_cur (s : State) (h c : Nat) (accs : List (Need × Access)) :
    (State.lookUp s h c accs).cur = s.cur := by
  obtain ⟨m, hs, bs, e⟩ := State.lookUp_translates s h c accs; rw [e]
@[simp] theorem State.lookUp_clk (s : State) (h c : Nat) (accs : List (Need × Access)) :
    (State.lookUp s h c accs).clk = s.clk := by
  obtain ⟨m, hs, bs, e⟩ := State.lookUp_translates s h c accs; rw [e]
@[simp] theorem State.lookUp_tasks (s : State) (h c : Nat) (accs : List (Need × Access)) :
    (State.lookUp s h c accs).tasks = s.tasks := by
  obtain ⟨m, hs, bs, e⟩ := State.lookUp_translates s h c accs; rw [e]
@[simp] theorem State.lookUp_gangs (s : State) (h c : Nat) (accs : List (Need × Access)) :
    (State.lookUp s h c accs).gangs = s.gangs := by
  obtain ⟨m, hs, bs, e⟩ := State.lookUp_translates s h c accs; rw [e]
@[simp] theorem State.lookUp_pkg (s : State) (h c : Nat) (accs : List (Need × Access)) :
    (State.lookUp s h c accs).pkg = s.pkg := by
  obtain ⟨m, hs, bs, e⟩ := State.lookUp_translates s h c accs; rw [e]
@[simp] theorem State.lookUp_strike (s : State) (h c : Nat) (accs : List (Need × Access)) :
    (State.lookUp s h c accs).strike = s.strike := by
  obtain ⟨m, hs, bs, e⟩ := State.lookUp_translates s h c accs; rw [e]
@[simp] theorem State.touch_g (s : State) (h c : Nat) (write : Bool) (ps : List Piece) :
    (State.touch s h c write ps).g = s.g := by
  obtain ⟨m, hs, bs, e⟩ := State.touch_translates s h c write ps; rw [e]
@[simp] theorem State.touch_groups (s : State) (h c : Nat) (write : Bool) (ps : List Piece) :
    (State.touch s h c write ps).groups = s.groups := by
  obtain ⟨m, hs, bs, e⟩ := State.touch_translates s h c write ps; rw [e]
@[simp] theorem State.touch_cur (s : State) (h c : Nat) (write : Bool) (ps : List Piece) :
    (State.touch s h c write ps).cur = s.cur := by
  obtain ⟨m, hs, bs, e⟩ := State.touch_translates s h c write ps; rw [e]
@[simp] theorem State.touch_clk (s : State) (h c : Nat) (write : Bool) (ps : List Piece) :
    (State.touch s h c write ps).clk = s.clk := by
  obtain ⟨m, hs, bs, e⟩ := State.touch_translates s h c write ps; rw [e]
@[simp] theorem State.touch_tasks (s : State) (h c : Nat) (write : Bool) (ps : List Piece) :
    (State.touch s h c write ps).tasks = s.tasks := by
  obtain ⟨m, hs, bs, e⟩ := State.touch_translates s h c write ps; rw [e]
@[simp] theorem State.touch_gangs (s : State) (h c : Nat) (write : Bool) (ps : List Piece) :
    (State.touch s h c write ps).gangs = s.gangs := by
  obtain ⟨m, hs, bs, e⟩ := State.touch_translates s h c write ps; rw [e]
@[simp] theorem State.touch_pkg (s : State) (h c : Nat) (write : Bool) (ps : List Piece) :
    (State.touch s h c write ps).pkg = s.pkg := by
  obtain ⟨m, hs, bs, e⟩ := State.touch_translates s h c write ps; rw [e]
@[simp] theorem State.touch_strike (s : State) (h c : Nat) (write : Bool) (ps : List Piece) :
    (State.touch s h c write ps).strike = s.strike := by
  obtain ⟨m, hs, bs, e⟩ := State.touch_translates s h c write ps; rw [e]

/-- The pages that are looked up do not depend on what the lanes need of them. -/
theorem State.lookUp_pack (s : State) (h c : Nat) (need : Need) (accs : List Access) :
    State.lookUp s h c (accs.map (fun a => (need, a))) =
      (accs.flatMap Access.pieces).foldl (fun s p =>
        if bits p.1.toNat 60 4 != 0 then s else State.fillTlb s h c (vaOf p.1)) s := by
  unfold State.lookUp
  rw [List.flatMap_map]

/-- A run of some length has a piece. -/
theorem splitPages_ne_nil (a : DWord) (n : Nat) (h : 0 < n) : splitPages a n ≠ [] := by
  unfold splitPages
  rw [show n / 65536 + 2 = (n / 65536 + 1) + 1 from rfl, cutPages]
  rw [if_neg (by omega)]
  dsimp only
  split <;> simp

/-- No page of a list meets a condition when `lanesMeeting` answers none. -/
theorem lanesMeeting_none {js : List (Access × DWord × Nat × Verdict)} {p : Verdict → Bool} (h : lanesMeeting js p = none) :
    ∀ j ∈ js, p j.2.2.2 = false := by
  unfold lanesMeeting at h
  cases hj : js.filter (fun j => p j.2.2.2) with
  | nil =>
    intro j hm
    have := (List.filter_eq_nil_iff.1 hj) j hm
    simpa using this
  | cons a r => rw [hj] at h; simp at h

/-- Waiting for tags names a line. -/
theorem State.judge_tagwait (s : State) (h c : Nat) (need : Need) (tags : Bool) (addr : DWord) (len : Nat) :
    State.judge s h c need tags addr len ≠ .tagwait [] := by
  unfold State.judge
  intro e
  split at e
  · cases e
  · split at e
    · cases e
    · iterate 4 (split at e; · cases e)
      split at e
      · dsimp only at e
        split at e
        · rename_i hm
          injection e with e
          rw [e] at hm
          exact absurd hm (by decide)
        · split at e <;> cases e
      · cases e

/-- The pieces of a classification that lets the word go on: one for each page of each access, in order. -/
theorem State.classifyAll_ok {s : State} {h c : Nat} {accs : List (Need × Access)} {ps : List Piece}
    (hc : State.classifyAll s h c accs = .ok ps) :
    ps.map (fun p => (p.lane, p.addr, p.len)) =
      accs.flatMap (fun a => (Access.pieces a.2).map (fun p => (a.2.lane, p.1, p.2))) := by
  unfold State.classifyAll at hc
  dsimp only at hc
  generalize hjs : (accs.flatMap fun a => (Access.pieces a.2).map fun p => (a.2, p.1, p.2, State.judge s h c a.1 true p.1 p.2)) = js at hc
  have fine : ∀ j ∈ js, ∃ l, j.2.2.2 = Verdict.fine l := by
    split at hc
    · cases hc
    · rename_i h1
      split at hc
      · cases hc
      · rename_i h2
        split at hc
        · cases hc
        · rename_i h3
          split at hc
          · cases hc
          · rename_i h4
            split at hc
            · cases hc
            · rename_i h5
              split at hc
              · cases hc
              · rename_i h6
                intro j hj
                have g1 := lanesMeeting_none h1 j hj
                have g2 := lanesMeeting_none h2 j hj
                have g6 := lanesMeeting_none h6 j hj
                have g3 : (j.2.2.2 == .nonresident) = false := by
                  have := (List.map_eq_nil_iff.1 h3)
                  have := (List.filter_eq_nil_iff.1 this) j hj
                  simpa using this
                have g4 : (j.2.2.2 == .migrating) = false := by
                  have := h4
                  simp only [List.any_eq_true, not_exists, not_and, Bool.not_eq_true] at this
                  exact this j hj
                have g5 := (List.flatMap_eq_nil_iff.1 h5) j hj
                generalize hv : j.2.2.2 = v at *
                cases v with
                | fine l => exact ⟨l, rfl⟩
                | tagwait ls =>
                  exfalso
                  dsimp only at g5
                  have ht : ∃ a, a ∈ accs ∧ ∃ p, p ∈ Access.pieces a.2 ∧ (a.2, p.1, p.2, State.judge s h c a.1 true p.1 p.2) = j := by
                    rw [← hjs] at hj
                    obtain ⟨a, ha, hj⟩ := List.mem_flatMap.1 hj
                    obtain ⟨p, hp, e⟩ := List.mem_map.1 hj
                    exact ⟨a, ha, p, hp, e⟩
                  obtain ⟨a, -, p, -, e⟩ := ht
                  have e2 : State.judge s h c a.1 true p.1 p.2 = .tagwait ls := by rw [← hv, ← e]
                  exact State.judge_tagwait _ _ _ _ _ _ _ (by rw [e2, g5])
                | _ => simp_all
  have hps : ps = js.filterMap (fun j => match j.2.2.2 with
      | .fine l => some { lane := j.1.lane, addr := j.2.1, len := j.2.2.1, leaf := l } | _ => none) := by
    split at hc
    · cases hc
    · split at hc
      · cases hc
      · split at hc
        · cases hc
        · split at hc
          · cases hc
          · split at hc
            · cases hc
            · split at hc
              · cases hc
              · injection hc with hc; exact hc.symm
  have step : ∀ js : List (Access × DWord × Nat × Verdict), (∀ j ∈ js, ∃ l, j.2.2.2 = Verdict.fine l) →
      (js.filterMap (fun j => match j.2.2.2 with
        | .fine l => some ({ lane := j.1.lane, addr := j.2.1, len := j.2.2.1, leaf := l } : Piece) | _ => none)).map
          (fun p => (p.lane, p.addr, p.len)) = js.map (fun j => (j.1.lane, j.2.1, j.2.2.1)) := by
    intro js
    induction js with
    | nil => intro _; rfl
    | cons j js ih =>
      intro hh
      obtain ⟨l, hl⟩ := hh j (List.mem_cons_self ..)
      rw [List.filterMap_cons]
      simp only [hl, List.map_cons]
      rw [ih (fun k hk => hh k (List.mem_cons_of_mem _ hk))]
  rw [hps, step js fine, ← hjs]
  simp [List.map_flatMap, Function.comp_def]

/-- Every piece belongs to one of the accesses. -/
theorem State.classify_lane {s : State} {h c : Nat} {need : Need} {accs : List Access} {ps : List Piece}
    (hc : State.classify s h c need accs = .ok ps) : ∀ p ∈ ps, ∃ x ∈ accs, x.lane = p.lane := by
  intro p hp
  have e := State.classifyAll_ok hc
  have : (p.lane, p.addr, p.len) ∈ ps.map (fun p => (p.lane, p.addr, p.len)) := List.mem_map_of_mem hp
  rw [e] at this
  obtain ⟨a, ha, hj⟩ := List.mem_flatMap.1 this
  obtain ⟨q, -, e2⟩ := List.mem_map.1 hj
  obtain ⟨x, hx, rfl⟩ := List.mem_map.1 ha
  exact ⟨x, hx, by injection e2⟩

/-- Some access of some length gives a piece. -/
theorem State.classify_ne_nil {s : State} {h c : Nat} {need : Need} {accs : List Access} {ps : List Piece}
    (hc : State.classify s h c need accs = .ok ps) (x : Access) (hx : x ∈ accs) (hn : 0 < x.len) : ps ≠ [] := by
  intro hp
  have e := State.classifyAll_ok hc
  rw [hp, List.map_nil] at e
  have := (List.flatMap_eq_nil_iff.1 e.symm) (need, x) (List.mem_map_of_mem hx)
  exact splitPages_ne_nil x.addr x.len hn (List.map_eq_nil_iff.1 this)

/-- No access meets a condition. -/
theorem lanesWhere_none (accs : List Access) (p : Access → Bool) (h : ∀ x ∈ accs, p x = false) : lanesWhere accs p = none := by
  unfold lanesWhere
  rw [List.filter_eq_nil_iff.2 (fun x hx => by simp [h x hx])]

/-- Aligned accesses go on. -/
theorem State.aligned_ok (s : State) (accs : List Access) (n : Nat) (k : Eff) (h : ∀ x ∈ accs, x.addr.toNat % n = 0) :
    State.aligned s accs n k = k := by
  unfold State.aligned
  rw [lanesWhere_none accs _ (fun x hx => by simp [h x hx])]

/-- Legal scratchpad accesses go on. -/
theorem State.inScratch_ok (s : State) (accs : List Access) (k : Eff) (h : ∀ x ∈ accs, (State.scratchPlace s x).isSome = true) :
    State.inScratch s accs k = k := by
  unfold State.inScratch
  rw [lanesWhere_none accs _ (fun x hx => by
    have := h x hx
    cases hh : State.scratchPlace s x <;> simp_all)]

/-- A classification that lets the word go on: its pages are looked up, and it goes on in the state that leaves. -/
theorem State.classified_ok (s : State) (need : Need) (accs : List Access) (k : State → List Piece → Eff) (ps : List Piece)
    (h : State.classify (State.lookUp s s.g.hall s.g.ctx (accs.map (fun a => (need, a)))) s.g.hall s.g.ctx need accs = .ok ps) :
    State.classified s need accs k =
      Eff.wanting (State.fills s s.g.hall s.g.ctx (accs.map (fun a => (need, a))))
        (k (State.lookUp s s.g.hall s.g.ctx (accs.map (fun a => (need, a)))) ps) := by
  unfold State.classified State.classifiedAll
  dsimp only
  rw [show State.classifyAll (State.lookUp s s.g.hall s.g.ctx (accs.map fun a => (need, a))) s.g.hall s.g.ctx
    (accs.map (fun a => (need, a))) = .ok ps from h]

/-- No leaf has the property that would trap. -/
theorem State.leafProt_ok (s : State) (ps : List Piece) (bad : DWord → Bool) (k : Eff) (h : ∀ p ∈ ps, bad p.leaf = false) :
    State.leafProt s ps bad k = k := by
  unfold State.leafProt
  rw [List.filter_eq_nil_iff.2 (fun x hx => by simp [h x hx])]

/-- Nothing holds the access. -/
theorem State.accepted_ok (s : State) (accs : List Access) (counter : Nat) (k : Eff) (h1 : State.rangeHit s accs = false)
    (h2 : State.busyPipe s counter = false) : State.accepted s accs counter k = k := by
  simp [State.accepted, h1, h2]

/-- Outside every region a load leaves nothing in one. -/
theorem State.regionLoads_closed (s : State) (sz : Nat) (scope : BitVec 3) (ps : List Piece) (accs : List Access)
    (h : Group.openLanes s.g = []) (hl : ∀ x ∈ accs, x.lane ∈ lanesOf) :
    accs.foldl (fun s x => State.regionLoad s sz scope ps x) s = s := by
  induction accs with
  | nil => rfl
  | cons x r ih =>
    rw [List.foldl_cons]
    have : State.regionLoad s sz scope ps x = s := by
      simp [State.regionLoad, State.inRegion_closed s x.lane h (hl x (List.mem_cons_self ..))]
    rw [this]
    exact ih (fun y hy => hl y (List.mem_cons_of_mem _ hy))

/-- Nor does a store. -/
theorem State.regionStores_closed (s : State) (t sz : Nat) (scope : BitVec 3) (ps : List Piece) (data : State → Access → List Byte)
    (accs : List Access) (h : Group.openLanes s.g = []) (hl : ∀ x ∈ accs, x.lane ∈ lanesOf) :
    accs.foldl (fun s x => State.regionStore s t sz scope ps x (data s x)) s = s := by
  induction accs with
  | nil => rfl
  | cons x r ih =>
    rw [List.foldl_cons]
    have : State.regionStore s t sz scope ps x (data s x) = s := by
      simp [State.regionStore, State.inRegion_closed s x.lane h (hl x (List.mem_cons_self ..))]
    rw [this]
    exact ih (fun y hy => hl y (List.mem_cons_of_mem _ hy))

/-- The lanes of a mask are those whose bit is set. -/
theorem Mask.of_mem_lanes {m : Mask} {l : Nat} (h : l ∈ Mask.lanes m) : m.getLsbD l = true := (List.mem_filter.1 h).2

theorem Mask.lanes_ne_nil {m : Mask} (h : m ≠ 0) : Mask.lanes m ≠ [] := by
  intro hn
  apply h
  apply BitVec.eq_of_getLsbD_eq
  intro i hi
  have := (List.filter_eq_nil_iff.1 hn) i (by
    have : ∀ i < 32, i ∈ lanesOf := by decide
    exact this i hi)
  rw [show (0 : Mask) = 0#32 from rfl, BitVec.getLsbD_zero]
  simpa using this

/-- A mask is the mask of its own bits. -/
theorem maskOf_self (m : Mask) : maskOf (fun l => m.getLsbD l) = m := by
  apply BitVec.eq_of_getLsbD_eq
  intro i hi
  rw [maskOf_getLsbD _ _ hi]

end Sys2Proof.Machine
end

