-- ==== Sys2Proof/Laws/KeepWords.lean ====
section
/-! SUPPORT. What the words on registers and control flow do to memory -/

namespace Sys2Proof.Machine

set_option Elab.async false
set_option linter.all false
set_option maxRecDepth 4000

@[simp] theorem State.written_wf (s t : State) (hm : Memory.wf t.mem = true) : Eff.wf (State.written s t) := by
  unfold State.written
  dsimp only
  repeat' split
  all_goals first | trivial | exact hm



@[simp] theorem State.withSources_wf (s : State) (xs : List Src) (body : State → Eff) (hm : Memory.wf s.mem = true) (hbbody : ∀ (w0 : State), Memory.wf w0.mem = true → Eff.wf (body w0)) : Eff.wf (State.withSources s xs body) := by
  unfold State.withSources
  have h := hbbody s hm
  split
  · trivial
  · split
    · exact hm
    · cases e : body s <;> rw [e] at h <;> dsimp only <;>
        first | exact h | (split <;> first | trivial | exact h | exact State.written_wf _ _ h)

@[simp] theorem State.exactSources_mem (s : State) (xs : List Src) (p : Nat → Bool) : (State.exactSources s xs p).mem = s.mem := by
  simp [State.exactSources]

@[simp] theorem State.landing_mem (s : State) (lat : Nat) (reg : Nat) (cells : List (Option RegCell)) (pend : Bool) : (State.landing s lat reg cells pend).mem = s.mem := by
  simp [State.landing]

@[simp] theorem State.results_mem (s : State) (xs : List Src) (lat : Nat) (d : Nat) (n : Nat) (f : Nat → List (Word × Tag)) (sym : Nat → Option (BitVec 4)) : (State.results s xs lat d n f sym).mem = s.mem := by
  unfold State.results; simp (maxDischargeDepth := 30) +contextual [State.foldl_mem]

@[simp] theorem State.laneOp_wf (s : State) (xs : List Src) (lat : Nat) (d : Nat) (n : Nat) (f : State → Nat → List (Word × Tag)) (hm : Memory.wf s.mem = true) : Eff.wf (State.laneOp s xs lat d n f) := by
  simp [State.laneOp, hm]

@[simp] theorem State.allLanes_wf (s : State) (xs : List Src) (lat : Nat) (d : Nat) (f : State → Word × Tag) (hm : Memory.wf s.mem = true) : Eff.wf (State.allLanes s xs lat d f) := by
  simp [State.allLanes, hm]

@[simp] theorem State.countPackets_mem (s : State) : (State.countPackets s).mem = s.mem := by
  simp [State.countPackets]

@[simp] theorem State.capacity_mem (s : State) (l : Nat) (detail : Nat) : (State.capacity s l detail).mem = s.mem := by
  rfl

@[simp] theorem State.asIssued_mem (s : State) : (State.asIssued s).mem = s.mem := by
  rfl

@[simp] theorem State.landed_mem (s t : State) : (State.landed s t).mem = t.mem := rfl

theorem Eff.map_wf (f : State → State) (hf : ∀ t, (f t).mem = t.mem) (e : Eff) (h : Eff.wf e) : Eff.wf (Eff.map f e) := by
  cases e <;> simp_all [Eff.map]

@[simp] theorem issue_wf (i : Instr) (body : State → Eff) (s : State) (hm : Memory.wf s.mem = true) (hbbody : ∀ (w0 : State), Memory.wf w0.mem = true → Eff.wf (body w0)) : outWf (issue i body s) := by
  unfold issue
  split
  · exact hm
  · split
    · exact State.finish_wf _ _ hm (Eff.map_wf _ (State.landed_mem s) _ (hbbody _ (by simpa using hm)))
    · split
      · exact State.finish_wf _ _ hm trivial
      · split
        · exact State.finish_wf _ _ hm hm
        · have ht : Memory.wf (State.countPackets s).mem = true := by simpa using hm
          dsimp only
          split
          · exact State.finish_wf _ _ hm ht
          · exact State.finish_wf _ _ hm (hbbody _ ht)

@[simp] theorem State.outside_wf (s : State) (body : State → Eff) (hm : Memory.wf s.mem = true) (hbbody : ∀ (w0 : State), Memory.wf w0.mem = true → Eff.wf (body w0)) : Eff.wf (State.outside s body) := by
  unfold State.outside; repeat' split
  all_goals first | trivial | exact hm | (simp (maxDischargeDepth := 30) +contextual [*, State.foldl_mem, State.foldl_wf]; done)

@[simp] theorem State.raise_mem (s : State) (f : Word) (lat : Nat) : (State.raise s f lat).mem = s.mem := by
  simp [State.raise]

@[simp] theorem State.int2_wf (s : State) (u : Bool) (d : RegNo) (a : RegNo) (b : RegNo) (lat : Nat) (f : Word → Word → Word) (hm : Memory.wf s.mem = true) : Eff.wf (State.int2 s u d a b lat f) := by
  simp [State.int2, hm]

@[simp] theorem State.sum2_wf (s : State) (u : Bool) (d : RegNo) (a : RegNo) (b : RegNo) (f : Word → Word → Word) (both : Bool) (hm : Memory.wf s.mem = true) : Eff.wf (State.sum2 s u d a b f both) := by
  simp [State.sum2, hm]

@[simp] theorem execIadd_wf (u : Bool) (d : RegNo) (a : RegNo) (b : RegNo) (s : State) (hm : Memory.wf s.mem = true) : outWf (execIadd u d a b s) := by
  unfold execIadd; simp (maxDischargeDepth := 30) +contextual [hm, State.foldl_mem, State.foldl_wf]

@[simp] theorem execIsub_wf (u : Bool) (d : RegNo) (a : RegNo) (b : RegNo) (s : State) (hm : Memory.wf s.mem = true) : outWf (execIsub u d a b s) := by
  unfold execIsub; simp (maxDischargeDepth := 30) +contextual [hm, State.foldl_mem, State.foldl_wf]

@[simp] theorem execImul_wf (u : Bool) (d : RegNo) (a : RegNo) (b : RegNo) (s : State) (hm : Memory.wf s.mem = true) : outWf (execImul u d a b s) := by
  unfold execImul; simp (maxDischargeDepth := 30) +contextual [hm, State.foldl_mem, State.foldl_wf]

@[simp] theorem execImulhS_wf (u : Bool) (d : RegNo) (a : RegNo) (b : RegNo) (s : State) (hm : Memory.wf s.mem = true) : outWf (execImulhS u d a b s) := by
  unfold execImulhS; simp (maxDischargeDepth := 30) +contextual [hm, State.foldl_mem, State.foldl_wf]

@[simp] theorem execImulhZ_wf (u : Bool) (d : RegNo) (a : RegNo) (b : RegNo) (s : State) (hm : Memory.wf s.mem = true) : outWf (execImulhZ u d a b s) := by
  unfold execImulhZ; simp (maxDischargeDepth := 30) +contextual [hm, State.foldl_mem, State.foldl_wf]

@[simp] theorem execImad_wf (u : Bool) (d : RegNo) (a : RegNo) (b : RegNo) (s : State) (hm : Memory.wf s.mem = true) : outWf (execImad u d a b s) := by
  unfold execImad; simp (maxDischargeDepth := 30) +contextual [hm, State.foldl_mem, State.foldl_wf]

@[simp] theorem execImin_wf (u : Bool) (z : Bool) (d : RegNo) (a : RegNo) (b : RegNo) (s : State) (hm : Memory.wf s.mem = true) : outWf (execImin u z d a b s) := by
  unfold execImin; simp (maxDischargeDepth := 30) +contextual [hm, State.foldl_mem, State.foldl_wf]

@[simp] theorem execImax_wf (u : Bool) (z : Bool) (d : RegNo) (a : RegNo) (b : RegNo) (s : State) (hm : Memory.wf s.mem = true) : outWf (execImax u z d a b s) := by
  unfold execImax; simp (maxDischargeDepth := 30) +contextual [hm, State.foldl_mem, State.foldl_wf]

@[simp] theorem execIabs_wf (d : RegNo) (a : RegNo) (s : State) (hm : Memory.wf s.mem = true) : outWf (execIabs d a s) := by
  unfold execIabs; simp (maxDischargeDepth := 30) +contextual [hm, State.foldl_mem, State.foldl_wf]

@[simp] theorem State.logic2_wf (s : State) (u : Bool) (d : RegNo) (a : RegNo) (b : RegNo) (lat : Nat) (f : Word → Word → Word) (hm : Memory.wf s.mem = true) : Eff.wf (State.logic2 s u d a b lat f) := by
  simp [State.logic2, hm]

@[simp] theorem State.logic1_wf (s : State) (d : RegNo) (a : RegNo) (lat : Nat) (f : Word → Word) (hm : Memory.wf s.mem = true) : Eff.wf (State.logic1 s d a lat f) := by
  simp [State.logic1, hm]

@[simp] theorem State.count1_wf (s : State) (d : RegNo) (a : RegNo) (f : Word → Nat) (hm : Memory.wf s.mem = true) : Eff.wf (State.count1 s d a f) := by
  simp [State.count1, hm]

@[simp] theorem execAnd_wf (u : Bool) (d : RegNo) (a : RegNo) (b : RegNo) (s : State) (hm : Memory.wf s.mem = true) : outWf (execAnd u d a b s) := by
  unfold execAnd; simp (maxDischargeDepth := 30) +contextual [hm, State.foldl_mem, State.foldl_wf]

@[simp] theorem execOr_wf (u : Bool) (d : RegNo) (a : RegNo) (b : RegNo) (s : State) (hm : Memory.wf s.mem = true) : outWf (execOr u d a b s) := by
  unfold execOr; simp (maxDischargeDepth := 30) +contextual [hm, State.foldl_mem, State.foldl_wf]

@[simp] theorem execXor_wf (u : Bool) (d : RegNo) (a : RegNo) (b : RegNo) (s : State) (hm : Memory.wf s.mem = true) : outWf (execXor u d a b s) := by
  unfold execXor; simp (maxDischargeDepth := 30) +contextual [hm, State.foldl_mem, State.foldl_wf]

@[simp] theorem execAndn_wf (u : Bool) (d : RegNo) (a : RegNo) (b : RegNo) (s : State) (hm : Memory.wf s.mem = true) : outWf (execAndn u d a b s) := by
  unfold execAndn; simp (maxDischargeDepth := 30) +contextual [hm, State.foldl_mem, State.foldl_wf]

@[simp] theorem execShl_wf (u : Bool) (d : RegNo) (a : RegNo) (b : RegNo) (s : State) (hm : Memory.wf s.mem = true) : outWf (execShl u d a b s) := by
  unfold execShl; simp (maxDischargeDepth := 30) +contextual [hm, State.foldl_mem, State.foldl_wf]

@[simp] theorem execShr_wf (u : Bool) (d : RegNo) (a : RegNo) (b : RegNo) (s : State) (hm : Memory.wf s.mem = true) : outWf (execShr u d a b s) := by
  unfold execShr; simp (maxDischargeDepth := 30) +contextual [hm, State.foldl_mem, State.foldl_wf]

@[simp] theorem execSha_wf (u : Bool) (d : RegNo) (a : RegNo) (b : RegNo) (s : State) (hm : Memory.wf s.mem = true) : outWf (execSha u d a b s) := by
  unfold execSha; simp (maxDischargeDepth := 30) +contextual [hm, State.foldl_mem, State.foldl_wf]

@[simp] theorem execPopc_wf (d : RegNo) (a : RegNo) (s : State) (hm : Memory.wf s.mem = true) : outWf (execPopc d a s) := by
  unfold execPopc; simp (maxDischargeDepth := 30) +contextual [hm, State.foldl_mem, State.foldl_wf]

@[simp] theorem execClz_wf (d : RegNo) (a : RegNo) (s : State) (hm : Memory.wf s.mem = true) : outWf (execClz d a s) := by
  unfold execClz; simp (maxDischargeDepth := 30) +contextual [hm, State.foldl_mem, State.foldl_wf]

@[simp] theorem execBrev_wf (d : RegNo) (a : RegNo) (s : State) (hm : Memory.wf s.mem = true) : outWf (execBrev d a s) := by
  unfold execBrev; simp (maxDischargeDepth := 30) +contextual [hm, State.foldl_mem, State.foldl_wf]

@[simp] theorem execBfx_wf (u : Bool) (z : Bool) (d : RegNo) (a : RegNo) (b : RegNo) (s : State) (hm : Memory.wf s.mem = true) : outWf (execBfx u z d a b s) := by
  unfold execBfx; simp (maxDischargeDepth := 30) +contextual [hm, State.foldl_mem, State.foldl_wf]

@[simp] theorem execBfi_wf (u : Bool) (d : RegNo) (a : RegNo) (b : RegNo) (s : State) (hm : Memory.wf s.mem = true) : outWf (execBfi u d a b s) := by
  unfold execBfi; simp (maxDischargeDepth := 30) +contextual [hm, State.foldl_mem, State.foldl_wf]

@[simp] theorem execIaddi_wf (d : RegNo) (a : RegNo) (imm : BitVec 10) (s : State) (hm : Memory.wf s.mem = true) : outWf (execIaddi d a imm s) := by
  unfold execIaddi; simp (maxDischargeDepth := 30) +contextual [hm, State.foldl_mem, State.foldl_wf]

@[simp] theorem execAndi_wf (d : RegNo) (a : RegNo) (imm : BitVec 10) (s : State) (hm : Memory.wf s.mem = true) : outWf (execAndi d a imm s) := by
  unfold execAndi; simp (maxDischargeDepth := 30) +contextual [hm, State.foldl_mem, State.foldl_wf]

@[simp] theorem execOri_wf (d : RegNo) (a : RegNo) (imm : BitVec 10) (s : State) (hm : Memory.wf s.mem = true) : outWf (execOri d a imm s) := by
  unfold execOri; simp (maxDischargeDepth := 30) +contextual [hm, State.foldl_mem, State.foldl_wf]

@[simp] theorem execXori_wf (d : RegNo) (a : RegNo) (imm : BitVec 10) (s : State) (hm : Memory.wf s.mem = true) : outWf (execXori d a imm s) := by
  unfold execXori; simp (maxDischargeDepth := 30) +contextual [hm, State.foldl_mem, State.foldl_wf]

@[simp] theorem execShli_wf (d : RegNo) (a : RegNo) (imm : BitVec 5) (s : State) (hm : Memory.wf s.mem = true) : outWf (execShli d a imm s) := by
  unfold execShli; simp (maxDischargeDepth := 30) +contextual [hm, State.foldl_mem, State.foldl_wf]

@[simp] theorem execShri_wf (d : RegNo) (a : RegNo) (imm : BitVec 5) (s : State) (hm : Memory.wf s.mem = true) : outWf (execShri d a imm s) := by
  unfold execShri; simp (maxDischargeDepth := 30) +contextual [hm, State.foldl_mem, State.foldl_wf]

@[simp] theorem execShai_wf (d : RegNo) (a : RegNo) (imm : BitVec 5) (s : State) (hm : Memory.wf s.mem = true) : outWf (execShai d a imm s) := by
  unfold execShai; simp (maxDischargeDepth := 30) +contextual [hm, State.foldl_mem, State.foldl_wf]

@[simp] theorem execLi_wf (d : RegNo) (imm : BitVec 17) (s : State) (hm : Memory.wf s.mem = true) : outWf (execLi d imm s) := by
  unfold execLi; simp (maxDischargeDepth := 30) +contextual [hm, State.foldl_mem, State.foldl_wf]

@[simp] theorem execLih_wf (d : RegNo) (imm : BitVec 17) (s : State) (hm : Memory.wf s.mem = true) : outWf (execLih d imm s) := by
  unfold execLih; simp (maxDischargeDepth := 30) +contextual [hm, State.foldl_mem, State.foldl_wf]

@[simp] theorem State.constrain_mem (s : State) (l : Nat) (rel : BitVec 3) (x : RegCell) (y : RegCell) : (State.constrain s l rel x y).mem = s.mem := by
  simp [State.constrain]

@[simp] theorem State.compare_wf (s : State) (xs : List Src) (rel : BitVec 3) (d : RegNo) (a : RegNo) (y : State → Nat → RegCell) (hm : Memory.wf s.mem = true) : Eff.wf (State.compare s xs rel d a y) := by
  unfold State.compare; simp (maxDischargeDepth := 30) +contextual [hm, State.foldl_mem, State.foldl_wf]

@[simp] theorem execIcmp_wf (rel : BitVec 3) (d : RegNo) (a : RegNo) (b : RegNo) (s : State) (hm : Memory.wf s.mem = true) : outWf (execIcmp rel d a b s) := by
  unfold execIcmp; simp (maxDischargeDepth := 30) +contextual [hm, State.foldl_mem, State.foldl_wf]

@[simp] theorem execIcmpi_wf (d : RegNo) (a : RegNo) (rel : BitVec 3) (imm : BitVec 7) (s : State) (hm : Memory.wf s.mem = true) : outWf (execIcmpi d a rel imm s) := by
  unfold execIcmpi; simp (maxDischargeDepth := 30) +contextual [hm, State.foldl_mem, State.foldl_wf]

@[simp] theorem execSel_wf (u : Bool) (d : RegNo) (a : RegNo) (b : RegNo) (s : State) (hm : Memory.wf s.mem = true) : outWf (execSel u d a b s) := by
  unfold execSel; simp (maxDischargeDepth := 30) +contextual [hm, State.foldl_mem, State.foldl_wf]

@[simp] theorem execA64_wf (u : Bool) (d : RegNo) (a : RegNo) (b : RegNo) (s : State) (hm : Memory.wf s.mem = true) : outWf (execA64 u d a b s) := by
  unfold execA64; simp (maxDischargeDepth := 30) +contextual [hm, State.foldl_mem, State.foldl_wf]

@[simp] theorem execA64s_wf (u : Bool) (sc : BitVec 2) (d : RegNo) (a : RegNo) (b : RegNo) (s : State) (hm : Memory.wf s.mem = true) : outWf (execA64s u sc d a b s) := by
  unfold execA64s; simp (maxDischargeDepth := 30) +contextual [hm, State.foldl_mem, State.foldl_wf]

@[simp] theorem execA64i_wf (d : RegNo) (a : RegNo) (imm : BitVec 10) (s : State) (hm : Memory.wf s.mem = true) : outWf (execA64i d a imm s) := by
  unfold execA64i; simp (maxDischargeDepth := 30) +contextual [hm, State.foldl_mem, State.foldl_wf]

@[simp] theorem execShfl_wf (u : Bool) (pat : BitVec 2) (d : RegNo) (a : RegNo) (b : RegNo) (s : State) (hm : Memory.wf s.mem = true) : outWf (execShfl u pat d a b s) := by
  unfold execShfl; simp (maxDischargeDepth := 30) +contextual [hm, State.foldl_mem, State.foldl_wf]

@[simp] theorem State.voteOp_wf (s : State) (u : Bool) (d : RegNo) (a : RegNo) (b : RegNo) (f : State → Word) (hm : Memory.wf s.mem = true) : Eff.wf (State.voteOp s u d a b f) := by
  simp [State.voteOp, hm]

@[simp] theorem execVany_wf (u : Bool) (d : RegNo) (a : RegNo) (b : RegNo) (s : State) (hm : Memory.wf s.mem = true) : outWf (execVany u d a b s) := by
  unfold execVany; simp (maxDischargeDepth := 30) +contextual [hm, State.foldl_mem, State.foldl_wf]

@[simp] theorem execVall_wf (u : Bool) (d : RegNo) (a : RegNo) (b : RegNo) (s : State) (hm : Memory.wf s.mem = true) : outWf (execVall u d a b s) := by
  unfold execVall; simp (maxDischargeDepth := 30) +contextual [hm, State.foldl_mem, State.foldl_wf]

@[simp] theorem execVbal_wf (u : Bool) (d : RegNo) (a : RegNo) (b : RegNo) (s : State) (hm : Memory.wf s.mem = true) : outWf (execVbal u d a b s) := by
  unfold execVbal; simp (maxDischargeDepth := 30) +contextual [hm, State.foldl_mem, State.foldl_wf]

@[simp] theorem execRadd_wf (u : Bool) (d : RegNo) (a : RegNo) (b : RegNo) (s : State) (hm : Memory.wf s.mem = true) : outWf (execRadd u d a b s) := by
  unfold execRadd; simp (maxDischargeDepth := 30) +contextual [hm, State.foldl_mem, State.foldl_wf]

@[simp] theorem State.reduce_wf (s : State) (d : RegNo) (a : RegNo) (f : Word → Word → Word) (hm : Memory.wf s.mem = true) : Eff.wf (State.reduce s d a f) := by
  simp [State.reduce, hm]

@[simp] theorem execRmin_wf (d : RegNo) (a : RegNo) (s : State) (hm : Memory.wf s.mem = true) : outWf (execRmin d a s) := by
  unfold execRmin; simp (maxDischargeDepth := 30) +contextual [hm, State.foldl_mem, State.foldl_wf]

@[simp] theorem execRmax_wf (d : RegNo) (a : RegNo) (s : State) (hm : Memory.wf s.mem = true) : outWf (execRmax d a s) := by
  unfold execRmax; simp (maxDischargeDepth := 30) +contextual [hm, State.foldl_mem, State.foldl_wf]

@[simp] theorem State.branch_wf (s : State) (p : RegNo) (off : BitVec 15) (slot : BitVec 2) (taken : Word → Bool) (hm : Memory.wf s.mem = true) : Eff.wf (State.branch s p off slot taken) := by
  unfold State.branch; simp (maxDischargeDepth := 30) +contextual [hm, State.foldl_mem, State.foldl_wf]

@[simp] theorem execBr_wf (p : RegNo) (off : BitVec 15) (slot : BitVec 2) (s : State) (hm : Memory.wf s.mem = true) : outWf (execBr p off slot s) := by
  unfold execBr; simp (maxDischargeDepth := 30) +contextual [hm, State.foldl_mem, State.foldl_wf]

@[simp] theorem execBrz_wf (p : RegNo) (off : BitVec 15) (slot : BitVec 2) (s : State) (hm : Memory.wf s.mem = true) : outWf (execBrz p off slot s) := by
  unfold execBrz; simp (maxDischargeDepth := 30) +contextual [hm, State.foldl_mem, State.foldl_wf]

@[simp] theorem execJmp_wf (off : BitVec 15) (slot : BitVec 2) (s : State) (hm : Memory.wf s.mem = true) : outWf (execJmp off slot s) := by
  simp [execJmp, hm]

@[simp] theorem execCall_wf (p : RegNo) (off : BitVec 15) (slot : BitVec 2) (s : State) (hm : Memory.wf s.mem = true) : outWf (execCall p off slot s) := by
  simp [execCall, hm]

@[simp] theorem State.jumpReg_wf (s : State) (a : RegNo) (ua : Bool) (hm : Memory.wf s.mem = true) : Eff.wf (State.jumpReg s a ua) := by
  unfold State.jumpReg; repeat' split
  all_goals first
    | trivial
    | exact hm
    | (simp (maxDischargeDepth := 30) +contextual [*, State.foldl_mem, State.foldl_wf]; done)
    | (simp_all (maxDischargeDepth := 30) +contextual [State.foldl_mem, State.foldl_wf]; done)

@[simp] theorem execJr_wf (a : RegNo) (ua : Bool) (s : State) (hm : Memory.wf s.mem = true) : outWf (execJr a ua s) := by
  unfold execJr; simp (maxDischargeDepth := 30) +contextual [hm, State.foldl_mem, State.foldl_wf]

@[simp] theorem execRet_wf (a : RegNo) (ua : Bool) (s : State) (hm : Memory.wf s.mem = true) : outWf (execRet a ua s) := by
  unfold execRet; simp (maxDischargeDepth := 30) +contextual [hm, State.foldl_mem, State.foldl_wf]

@[simp] theorem execNop_wf (s : State) (hm : Memory.wf s.mem = true) : outWf (execNop s) := by
  simp [execNop, hm]

@[simp] theorem execYield_wf (s : State) (hm : Memory.wf s.mem = true) : outWf (execYield s) := by
  simp [execYield, hm]

@[simp] theorem State.finalExit_wf (s : State) (hm : Memory.wf s.mem = true) : Eff.wf (State.finalExit s) := by
  unfold State.finalExit; repeat' split
  all_goals first | trivial | exact hm | (simp (maxDischargeDepth := 30) +contextual [*, State.foldl_mem, State.foldl_wf]; done)

@[simp] theorem execExit_wf (s : State) (hm : Memory.wf s.mem = true) : outWf (execExit s) := by
  unfold execExit; repeat' split
  all_goals first
    | trivial
    | exact hm
    | (simp (maxDischargeDepth := 30) +contextual [*, State.foldl_mem, State.foldl_wf]; done)
    | (simp_all (maxDischargeDepth := 30) +contextual [State.foldl_mem, State.foldl_wf]; done)

@[simp] theorem execRds_wf (d : RegNo) (imm : BitVec 10) (s : State) (hm : Memory.wf s.mem = true) : outWf (execRds d imm s) := by
  unfold execRds; repeat' split
  all_goals first
    | trivial
    | exact hm
    | (simp (maxDischargeDepth := 30) +contextual [*, State.foldl_mem, State.foldl_wf]; done)
    | (simp_all (maxDischargeDepth := 30) +contextual [State.foldl_mem, State.foldl_wf]; done)

@[simp] theorem State.writeLpc_wf (s : State) (a : RegNo) (hm : Memory.wf s.mem = true) : Eff.wf (State.writeLpc s a) := by
  unfold State.writeLpc; repeat' split
  all_goals first
    | trivial
    | exact hm
    | (simp (maxDischargeDepth := 30) +contextual [*, State.foldl_mem, State.foldl_wf]; done)
    | (simp_all (maxDischargeDepth := 30) +contextual [State.foldl_mem, State.foldl_wf]; done)

@[simp] theorem execWrs_wf (a : RegNo) (imm : BitVec 10) (s : State) (hm : Memory.wf s.mem = true) : outWf (execWrs a imm s) := by
  unfold execWrs; repeat' split
  all_goals first
    | trivial
    | exact hm
    | (simp (maxDischargeDepth := 30) +contextual [*, State.foldl_mem, State.foldl_wf]; done)
    | (simp_all (maxDischargeDepth := 30) +contextual [State.foldl_mem, State.foldl_wf]; done)

@[simp] theorem State.setPool_mem (s : State) (p : List Nat) : (State.setPool s p).mem = s.mem := by
  rfl

@[simp] theorem execRegrel_wf (n : BitVec 4) (s : State) (hm : Memory.wf s.mem = true) : outWf (execRegrel n s) := by
  unfold execRegrel; repeat' split
  all_goals first
    | trivial
    | exact hm
    | (simp (maxDischargeDepth := 30) +contextual [*, State.foldl_mem, State.foldl_wf]; done)
    | (simp_all (maxDischargeDepth := 30) +contextual [State.foldl_mem, State.foldl_wf]; done)

@[simp] theorem execRegclm_wf (n : BitVec 4) (s : State) (hm : Memory.wf s.mem = true) : outWf (execRegclm n s) := by
  unfold execRegclm; repeat' split
  all_goals first
    | trivial
    | exact hm
    | (simp (maxDischargeDepth := 30) +contextual [*, State.foldl_mem, State.foldl_wf]; done)
    | (simp_all (maxDischargeDepth := 30) +contextual [State.foldl_mem, State.foldl_wf]; done)

@[simp] theorem execIdem_wf (s : State) (hm : Memory.wf s.mem = true) : outWf (execIdem s) := by
  unfold execIdem; simp (maxDischargeDepth := 30) +contextual [hm, State.foldl_mem, State.foldl_wf]

@[simp] theorem State.handlerEnd_wf (s : State) (i : Instr) (body : State → TrapRec → Eff) (hm : Memory.wf s.mem = true) (hbbody : ∀ (w0 : State) (w1 : TrapRec), Memory.wf w0.mem = true → Eff.wf (body w0 w1)) : Eff.wf (State.handlerEnd s i body) := by
  unfold State.handlerEnd; repeat' split
  all_goals first
    | trivial
    | exact hm
    | (simp (maxDischargeDepth := 30) +contextual [*, State.foldl_mem, State.foldl_wf]; done)
    | (simp_all (maxDischargeDepth := 30) +contextual [State.foldl_mem, State.foldl_wf]; done)

@[simp] theorem State.leave_mem (s : State) (g : Group) : (State.leave s g).mem = s.mem := by
  rfl

@[simp] theorem execTret_wf (s : State) (hm : Memory.wf s.mem = true) : outWf (execTret s) := by
  unfold execTret; repeat' split
  all_goals first
    | trivial
    | exact hm
    | (simp (maxDischargeDepth := 30) +contextual [*, State.foldl_mem, State.foldl_wf]; done)
    | (simp_all (maxDischargeDepth := 30) +contextual [State.foldl_mem, State.foldl_wf]; done)

@[simp] theorem execTabn_wf (s : State) (hm : Memory.wf s.mem = true) : outWf (execTabn s) := by
  unfold execTabn; simp (maxDischargeDepth := 30) +contextual [hm, State.foldl_mem, State.foldl_wf]

@[simp] theorem execTkill_wf (s : State) (hm : Memory.wf s.mem = true) : outWf (execTkill s) := by
  unfold execTkill; simp (maxDischargeDepth := 30) +contextual [hm, State.foldl_mem, State.foldl_wf]

@[simp] theorem execTrap_wf (imm : BitVec 10) (s : State) (hm : Memory.wf s.mem = true) : outWf (execTrap imm s) := by
  simp [execTrap, hm]

@[simp] theorem execBrk_wf (imm : BitVec 10) (s : State) (hm : Memory.wf s.mem = true) : outWf (execBrk imm s) := by
  unfold execBrk; repeat' split
  all_goals first
    | trivial
    | exact hm
    | (simp (maxDischargeDepth := 30) +contextual [*, State.foldl_mem, State.foldl_wf]; done)
    | (simp_all (maxDischargeDepth := 30) +contextual [State.foldl_mem, State.foldl_wf]; done)

@[simp] theorem execWaitc_wf (ctr : BitVec 2) (n : BitVec 8) (s : State) (hm : Memory.wf s.mem = true) : outWf (execWaitc ctr n s) := by
  unfold execWaitc
  refine issue_wf _ _ _ hm (fun s hm => State.outside_wf _ _ hm (fun s hm => ?_))
  have h : Memory.wf (if ctr.toNat = 1 ∧ s.g.wait.isNone then State.endRegion s else s).mem = true := by simp [hm]
  revert h
  generalize (if ctr.toNat = 1 ∧ s.g.wait.isNone then State.endRegion s else s) = t
  intro h
  dsimp only
  split
  · generalize (if ctr.toNat = 3 then Group.gatherError t.g n.toNat else none) = e
    cases e with
    | none => dsimp only; split <;> simp [h]
    | some p => simp [h]
  · simp [h]

end Sys2Proof.Machine
end

