-- ==== Sys2Proof/Laws/KeepLoads.lean ====
section
/-! SUPPORT. What the words on floating point, loads, stores and atomics do to memory -/

namespace Sys2Proof.Machine

set_option Elab.async false
set_option linter.all false
set_option maxRecDepth 4000



@[simp] theorem State.fpOp_wf (s : State) (xs : List Src) (ys : List Src) (rawTag : Tag) (lat : Nat) (d : Nat) (n : Nat) (f : State → Tag → Nat → List Word × Tag × Word) (hm : Memory.wf s.mem = true) : Eff.wf (State.fpOp s xs ys rawTag lat d n f) := by
  simp [State.fpOp, hm]

@[simp] theorem State.f32op_wf (s : State) (u : Bool) (z : Bool) (d : RegNo) (a : RegNo) (b : RegNo) (lat : Nat) (f : Nat → Nat → Nat → Nat × Word) (hm : Memory.wf s.mem = true) : Eff.wf (State.f32op s u z d a b lat f) := by
  simp [State.f32op, hm]

@[simp] theorem State.f32un_wf (s : State) (d : RegNo) (a : RegNo) (lat : Nat) (f : Nat → Nat × Word) (hm : Memory.wf s.mem = true) : Eff.wf (State.f32un s d a lat f) := by
  simp [State.f32un, hm]

@[simp] theorem State.shadowed_wf (s : State) (n : Nat) (check : Nat → Nat → Num × List Num) (e : Eff) (hm : Memory.wf s.mem = true) (hbe : Eff.wf (e)) : Eff.wf (State.shadowed s n check e) := by
  unfold State.shadowed; repeat' split
  all_goals first | trivial | exact hm | (simp (maxDischargeDepth := 30) +contextual [*, State.foldl_mem, State.foldl_wf]; done)

@[simp] theorem State.f32checked_wf (s : State) (u : Bool) (z : Bool) (d : RegNo) (a : RegNo) (b : RegNo) (f : Nat → Nat → Nat → Nat × Word) (adds : Num → Num → Num → List Num) (hm : Memory.wf s.mem = true) : Eff.wf (State.f32checked s u z d a b f adds) := by
  simp [State.f32checked, hm]

@[simp] theorem execFadd_wf (u : Bool) (rm : BitVec 2) (d : RegNo) (a : RegNo) (b : RegNo) (s : State) (hm : Memory.wf s.mem = true) : outWf (execFadd u rm d a b s) := by
  unfold execFadd; simp (maxDischargeDepth := 30) +contextual [hm, State.foldl_mem, State.foldl_wf]

@[simp] theorem execFsub_wf (u : Bool) (rm : BitVec 2) (d : RegNo) (a : RegNo) (b : RegNo) (s : State) (hm : Memory.wf s.mem = true) : outWf (execFsub u rm d a b s) := by
  unfold execFsub; simp (maxDischargeDepth := 30) +contextual [hm, State.foldl_mem, State.foldl_wf]

@[simp] theorem execFmul_wf (u : Bool) (rm : BitVec 2) (d : RegNo) (a : RegNo) (b : RegNo) (s : State) (hm : Memory.wf s.mem = true) : outWf (execFmul u rm d a b s) := by
  unfold execFmul; simp (maxDischargeDepth := 30) +contextual [hm, State.foldl_mem, State.foldl_wf]

@[simp] theorem execFfma_wf (u : Bool) (rm : BitVec 2) (d : RegNo) (a : RegNo) (b : RegNo) (s : State) (hm : Memory.wf s.mem = true) : outWf (execFfma u rm d a b s) := by
  unfold execFfma; simp (maxDischargeDepth := 30) +contextual [hm, State.foldl_mem, State.foldl_wf]

@[simp] theorem execFfms_wf (u : Bool) (rm : BitVec 2) (d : RegNo) (a : RegNo) (b : RegNo) (s : State) (hm : Memory.wf s.mem = true) : outWf (execFfms u rm d a b s) := by
  unfold execFfms; simp (maxDischargeDepth := 30) +contextual [hm, State.foldl_mem, State.foldl_wf]

@[simp] theorem execFmin_wf (u : Bool) (d : RegNo) (a : RegNo) (b : RegNo) (s : State) (hm : Memory.wf s.mem = true) : outWf (execFmin u d a b s) := by
  unfold execFmin; simp (maxDischargeDepth := 30) +contextual [hm, State.foldl_mem, State.foldl_wf]

@[simp] theorem execFmax_wf (u : Bool) (d : RegNo) (a : RegNo) (b : RegNo) (s : State) (hm : Memory.wf s.mem = true) : outWf (execFmax u d a b s) := by
  unfold execFmax; simp (maxDischargeDepth := 30) +contextual [hm, State.foldl_mem, State.foldl_wf]

@[simp] theorem execFneg_wf (d : RegNo) (a : RegNo) (s : State) (hm : Memory.wf s.mem = true) : outWf (execFneg d a s) := by
  unfold execFneg; simp (maxDischargeDepth := 30) +contextual [hm, State.foldl_mem, State.foldl_wf]

@[simp] theorem execFabs_wf (d : RegNo) (a : RegNo) (s : State) (hm : Memory.wf s.mem = true) : outWf (execFabs d a s) := by
  unfold execFabs; simp (maxDischargeDepth := 30) +contextual [hm, State.foldl_mem, State.foldl_wf]

@[simp] theorem execFcpsgn_wf (u : Bool) (d : RegNo) (a : RegNo) (b : RegNo) (s : State) (hm : Memory.wf s.mem = true) : outWf (execFcpsgn u d a b s) := by
  unfold execFcpsgn; simp (maxDischargeDepth := 30) +contextual [hm, State.foldl_mem, State.foldl_wf]

@[simp] theorem execFcmp_wf (rel : BitVec 3) (d : RegNo) (a : RegNo) (b : RegNo) (s : State) (hm : Memory.wf s.mem = true) : outWf (execFcmp rel d a b s) := by
  unfold execFcmp; simp (maxDischargeDepth := 30) +contextual [hm, State.foldl_mem, State.foldl_wf]

@[simp] theorem execFsqrt_wf (rm : BitVec 2) (d : RegNo) (a : RegNo) (s : State) (hm : Memory.wf s.mem = true) : outWf (execFsqrt rm d a s) := by
  unfold execFsqrt; simp (maxDischargeDepth := 30) +contextual [hm, State.foldl_mem, State.foldl_wf]

@[simp] theorem execFrcp_wf (d : RegNo) (a : RegNo) (s : State) (hm : Memory.wf s.mem = true) : outWf (execFrcp d a s) := by
  unfold execFrcp; simp (maxDischargeDepth := 30) +contextual [hm, State.foldl_mem, State.foldl_wf]

@[simp] theorem execFrsq_wf (d : RegNo) (a : RegNo) (s : State) (hm : Memory.wf s.mem = true) : outWf (execFrsq d a s) := by
  unfold execFrsq; simp (maxDischargeDepth := 30) +contextual [hm, State.foldl_mem, State.foldl_wf]

@[simp] theorem execFexp2_wf (d : RegNo) (a : RegNo) (s : State) (hm : Memory.wf s.mem = true) : outWf (execFexp2 d a s) := by
  unfold execFexp2; simp (maxDischargeDepth := 30) +contextual [hm, State.foldl_mem, State.foldl_wf]

@[simp] theorem execFlog2_wf (d : RegNo) (a : RegNo) (s : State) (hm : Memory.wf s.mem = true) : outWf (execFlog2 d a s) := by
  unfold execFlog2; simp (maxDischargeDepth := 30) +contextual [hm, State.foldl_mem, State.foldl_wf]

@[simp] theorem execFtanh_wf (d : RegNo) (a : RegNo) (s : State) (hm : Memory.wf s.mem = true) : outWf (execFtanh d a s) := by
  unfold execFtanh; simp (maxDischargeDepth := 30) +contextual [hm, State.foldl_mem, State.foldl_wf]

@[simp] theorem State.halfOp_wf (s : State) (u : Bool) (z : Bool) (d : RegNo) (a : RegNo) (b : RegNo) (lat : Nat) (f : Fmt → Nat → Nat → Nat → Nat × Word) (hm : Memory.wf s.mem = true) : Eff.wf (State.halfOp s u z d a b lat f) := by
  simp [State.halfOp, hm]

@[simp] theorem State.halfChecked_wf (s : State) (u : Bool) (z : Bool) (d : RegNo) (a : RegNo) (b : RegNo) (f : Fmt → Nat → Nat → Nat → Nat × Word) (adds : Num → Num → Num → List Num) (hm : Memory.wf s.mem = true) : Eff.wf (State.halfChecked s u z d a b f adds) := by
  simp [State.halfChecked, hm]

@[simp] theorem execHadd2_wf (u : Bool) (rm : BitVec 2) (d : RegNo) (a : RegNo) (b : RegNo) (s : State) (hm : Memory.wf s.mem = true) : outWf (execHadd2 u rm d a b s) := by
  unfold execHadd2; simp (maxDischargeDepth := 30) +contextual [hm, State.foldl_mem, State.foldl_wf]

@[simp] theorem execHmul2_wf (u : Bool) (rm : BitVec 2) (d : RegNo) (a : RegNo) (b : RegNo) (s : State) (hm : Memory.wf s.mem = true) : outWf (execHmul2 u rm d a b s) := by
  unfold execHmul2; simp (maxDischargeDepth := 30) +contextual [hm, State.foldl_mem, State.foldl_wf]

@[simp] theorem execHfma2_wf (u : Bool) (rm : BitVec 2) (d : RegNo) (a : RegNo) (b : RegNo) (s : State) (hm : Memory.wf s.mem = true) : outWf (execHfma2 u rm d a b s) := by
  unfold execHfma2; simp (maxDischargeDepth := 30) +contextual [hm, State.foldl_mem, State.foldl_wf]

@[simp] theorem execHmax2_wf (u : Bool) (d : RegNo) (a : RegNo) (b : RegNo) (s : State) (hm : Memory.wf s.mem = true) : outWf (execHmax2 u d a b s) := by
  unfold execHmax2; simp (maxDischargeDepth := 30) +contextual [hm, State.foldl_mem, State.foldl_wf]

@[simp] theorem execIdp4_wf (u : Bool) (z : Bool) (d : RegNo) (a : RegNo) (b : RegNo) (s : State) (hm : Memory.wf s.mem = true) : outWf (execIdp4 u z d a b s) := by
  unfold execIdp4; simp (maxDischargeDepth := 30) +contextual [hm, State.foldl_mem, State.foldl_wf]

@[simp] theorem State.convert_wf (s : State) (rm : BitVec 2) (d : RegNo) (a : RegNo) (t : Tag) (accept : List Tag) (rawTag : Tag) (hm : Memory.wf s.mem = true) : Eff.wf (State.convert s rm d a t accept rawTag) := by
  simp [State.convert, hm]

@[simp] theorem execCvtf_wf (rm : BitVec 2) (d : RegNo) (a : RegNo) (tgt : BitVec 4) (s : State) (hm : Memory.wf s.mem = true) : outWf (execCvtf rm d a tgt s) := by
  unfold execCvtf; repeat' split
  all_goals first | trivial | exact hm | (simp (maxDischargeDepth := 30) +contextual [*, State.foldl_mem, State.foldl_wf]; done)

@[simp] theorem execCvti_wf (rm : BitVec 2) (d : RegNo) (a : RegNo) (tgt : BitVec 4) (s : State) (hm : Memory.wf s.mem = true) : outWf (execCvti rm d a tgt s) := by
  unfold execCvti; repeat' split
  all_goals first | trivial | exact hm | (simp (maxDischargeDepth := 30) +contextual [*, State.foldl_mem, State.foldl_wf]; done)

@[simp] theorem execCvtfi_wf (rm : BitVec 2) (d : RegNo) (a : RegNo) (tgt : BitVec 4) (s : State) (hm : Memory.wf s.mem = true) : outWf (execCvtfi rm d a tgt s) := by
  unfold execCvtfi; repeat' split
  all_goals first | trivial | exact hm | (simp (maxDischargeDepth := 30) +contextual [*, State.foldl_mem, State.foldl_wf]; done)

@[simp] theorem State.packRun_wf (s : State) (rm : BitVec 2) (d : RegNo) (a : RegNo) (n : Nat) (t : Tag) (hm : Memory.wf s.mem = true) : Eff.wf (State.packRun s rm d a n t) := by
  simp [State.packRun, hm]

@[simp] theorem execPk2_wf (rm : BitVec 2) (d : RegNo) (a : RegNo) (tgt : BitVec 4) (s : State) (hm : Memory.wf s.mem = true) : outWf (execPk2 rm d a tgt s) := by
  unfold execPk2; simp (maxDischargeDepth := 30) +contextual [hm, State.foldl_mem, State.foldl_wf]

@[simp] theorem execPk4_wf (rm : BitVec 2) (d : RegNo) (a : RegNo) (tgt : BitVec 4) (s : State) (hm : Memory.wf s.mem = true) : outWf (execPk4 rm d a tgt s) := by
  unfold execPk4; simp (maxDischargeDepth := 30) +contextual [hm, State.foldl_mem, State.foldl_wf]

@[simp] theorem State.unpackRun_wf (s : State) (d : RegNo) (a : RegNo) (n : Nat) (t : Tag) (accept : List Tag) (rawTag : Tag) (hm : Memory.wf s.mem = true) : Eff.wf (State.unpackRun s d a n t accept rawTag) := by
  simp [State.unpackRun, hm]

@[simp] theorem execUnpk2_wf (d : RegNo) (a : RegNo) (tgt : BitVec 4) (s : State) (hm : Memory.wf s.mem = true) : outWf (execUnpk2 d a tgt s) := by
  unfold execUnpk2; repeat' split
  all_goals first | trivial | exact hm | (simp (maxDischargeDepth := 30) +contextual [*, State.foldl_mem, State.foldl_wf]; done)

@[simp] theorem execUnpk4_wf (d : RegNo) (a : RegNo) (tgt : BitVec 4) (s : State) (hm : Memory.wf s.mem = true) : outWf (execUnpk4 d a tgt s) := by
  unfold execUnpk4; repeat' split
  all_goals first | trivial | exact hm | (simp (maxDischargeDepth := 30) +contextual [*, State.foldl_mem, State.foldl_wf]; done)

@[simp] theorem State.decodeOp_wf (s : State) (xs : List Src) (rawTag : Tag) (lat : Nat) (d : Nat) (n : Nat) (f : State → Tag → Nat → List Word × Tag × Word) (hm : Memory.wf s.mem = true) : Eff.wf (State.decodeOp s xs rawTag lat d n f) := by
  unfold State.decodeOp
  have h := State.fpOp_wf s xs [] rawTag lat d n f hm
  rw [Eff.wf_ite]
  split
  · trivial
  · cases e : State.fpOp s xs [] rawTag lat d n f <;> rw [e] at h <;> dsimp only <;>
      first | exact h | (split <;> first | exact h | exact hm | trivial)

@[simp] theorem execCbsel_wf (imm : BitVec 3) (s : State) (hm : Memory.wf s.mem = true) : outWf (execCbsel imm s) := by
  simp [execCbsel, hm]

@[simp] theorem execDqcb_wf (rm : BitVec 2) (d : RegNo) (a : RegNo) (tgt : BitVec 4) (s : State) (hm : Memory.wf s.mem = true) : outWf (execDqcb rm d a tgt s) := by
  unfold execDqcb; simp (maxDischargeDepth := 30) +contextual [hm, State.foldl_mem, State.foldl_wf]

@[simp] theorem execQcb_wf (rm : BitVec 2) (d : RegNo) (a : RegNo) (s : State) (hm : Memory.wf s.mem = true) : outWf (execQcb rm d a s) := by
  unfold execQcb; simp (maxDischargeDepth := 30) +contextual [hm, State.foldl_mem, State.foldl_wf]

@[simp] theorem execDqe2_wf (rm : BitVec 2) (d : RegNo) (a : RegNo) (tgt : BitVec 4) (s : State) (hm : Memory.wf s.mem = true) : outWf (execDqe2 rm d a tgt s) := by
  unfold execDqe2; simp (maxDischargeDepth := 30) +contextual [hm, State.foldl_mem, State.foldl_wf]

@[simp] theorem execQe2_wf (rm : BitVec 2) (d : RegNo) (a : RegNo) (s : State) (hm : Memory.wf s.mem = true) : outWf (execQe2 rm d a s) := by
  unfold execQe2; simp (maxDischargeDepth := 30) +contextual [hm, State.foldl_mem, State.foldl_wf]

@[simp] theorem execTagrd_wf (d : RegNo) (a : RegNo) (s : State) (hm : Memory.wf s.mem = true) : outWf (execTagrd d a s) := by
  unfold execTagrd; simp (maxDischargeDepth := 30) +contextual [hm, State.foldl_mem, State.foldl_wf]

@[simp] theorem execTagset_wf (d : RegNo) (a : RegNo) (tgt : BitVec 4) (s : State) (hm : Memory.wf s.mem = true) : outWf (execTagset d a tgt s) := by
  unfold execTagset; simp (maxDischargeDepth := 30) +contextual [hm, State.foldl_mem, State.foldl_wf]

@[simp] theorem State.aligned_wf (s : State) (accs : List Access) (n : Nat) (k : Eff) (hm : Memory.wf s.mem = true) (hbk : Eff.wf (k)) : Eff.wf (State.aligned s accs n k) := by
  unfold State.aligned; repeat' split
  all_goals first | trivial | exact hm | (simp (maxDischargeDepth := 30) +contextual [*, State.foldl_mem, State.foldl_wf]; done)


theorem Eff.wanting_wf (w : List Instr) (e : Eff) (h : Eff.wf e) : Eff.wf (Eff.wanting w e) := by
  cases e <;> exact h

@[simp] theorem State.classifiedAll_wf (s : State) (accs : List (Need × Access)) (k : State → List Piece → Eff) (hm : Memory.wf s.mem = true) (hbk : ∀ (w0 : State) (w1 : List Piece), Memory.wf w0.mem = true → Eff.wf (k w0 w1)) : Eff.wf (State.classifiedAll s accs k) := by
  unfold State.classifiedAll
  dsimp only
  have ht := State.lookUp_wf s s.g.hall s.g.ctx accs hm
  split
  · exact Eff.wanting_wf _ _ (hbk _ _ ht)
  · exact ht
  · exact ht
  · trivial
  · trivial

@[simp] theorem State.classified_wf (s : State) (need : Need) (accs : List Access) (k : State → List Piece → Eff) (hm : Memory.wf s.mem = true) (hbk : ∀ (w0 : State) (w1 : List Piece), Memory.wf w0.mem = true → Eff.wf (k w0 w1)) : Eff.wf (State.classified s need accs k) := by
  unfold State.classified
  repeat' first
    | with_reducible assumption
    | with_reducible exact True.intro
    | simp only [outWf_next, Eff.wf_ok, Eff.wf_jump, Eff.wf_park, Eff.wf_trap, Eff.wf_after, Eff.wf_fault, Eff.wf_stall, Eff.wf_poison, Eff.wf_bad]
    | with_reducible refine issue_wf _ _ _ (by assumption) (fun s hm => ?_)
    | with_reducible refine State.outside_wf _ _ (by assumption) (fun s hm => ?_)
    | with_reducible refine State.withSources_wf _ _ _ (by assumption) (fun s hm => ?_)
    | with_reducible refine State.aligned_wf _ _ _ _ (by assumption) ?_
    | with_reducible refine State.classified_wf _ _ _ _ (by assumption) (fun ps => ?_)
    | with_reducible refine State.classifiedAll_wf _ _ _ (by assumption) (fun ps => ?_)
    | with_reducible refine State.classifiedOnce_wf _ _ _ _ (by assumption) (fun ps => ?_)
    | with_reducible refine State.leafProt_wf _ _ _ _ (by assumption) ?_
    | with_reducible refine State.accepted_wf _ _ _ _ (by assumption) ?_
    | with_reducible refine State.inScratch_wf _ _ _ (by assumption) ?_
    | split
    | (simp (maxDischargeDepth := 30) +contextual [*]; done)
    | with_reducible refine hbk _ _ ?_
    | dsimp only

@[simp] theorem State.classifiedOnce_wf (s : State) (need : Need) (accs : List Access) (k : State → List Piece → Eff) (hm : Memory.wf s.mem = true) (hbk : ∀ (w0 : State) (w1 : List Piece), Memory.wf w0.mem = true → Eff.wf (k w0 w1)) : Eff.wf (State.classifiedOnce s need accs k) := by
  unfold State.classifiedOnce
  repeat' first
    | with_reducible assumption
    | with_reducible exact True.intro
    | simp only [outWf_next, Eff.wf_ok, Eff.wf_jump, Eff.wf_park, Eff.wf_trap, Eff.wf_after, Eff.wf_fault, Eff.wf_stall, Eff.wf_poison, Eff.wf_bad]
    | with_reducible refine issue_wf _ _ _ (by assumption) (fun s hm => ?_)
    | with_reducible refine State.outside_wf _ _ (by assumption) (fun s hm => ?_)
    | with_reducible refine State.withSources_wf _ _ _ (by assumption) (fun s hm => ?_)
    | with_reducible refine State.aligned_wf _ _ _ _ (by assumption) ?_
    | with_reducible refine State.classified_wf _ _ _ _ (by assumption) (fun ps => ?_)
    | with_reducible refine State.classifiedAll_wf _ _ _ (by assumption) (fun ps => ?_)
    | with_reducible refine State.classifiedOnce_wf _ _ _ _ (by assumption) (fun ps => ?_)
    | with_reducible refine State.leafProt_wf _ _ _ _ (by assumption) ?_
    | with_reducible refine State.accepted_wf _ _ _ _ (by assumption) ?_
    | with_reducible refine State.inScratch_wf _ _ _ (by assumption) ?_
    | split
    | (simp (maxDischargeDepth := 30) +contextual [*]; done)
    | with_reducible refine hbk _ _ ?_
    | dsimp only

@[simp] theorem State.leafProt_wf (s : State) (ps : List Piece) (bad : DWord → Bool) (k : Eff) (hm : Memory.wf s.mem = true) (hbk : Eff.wf (k)) : Eff.wf (State.leafProt s ps bad k) := by
  unfold State.leafProt; repeat' split
  all_goals first | trivial | exact hm | (simp (maxDischargeDepth := 30) +contextual [*, State.foldl_mem, State.foldl_wf]; done)

@[simp] theorem State.accepted_wf (s : State) (accs : List Access) (counter : Nat) (k : Eff) (hm : Memory.wf s.mem = true) (hbk : Eff.wf (k)) : Eff.wf (State.accepted s accs counter k) := by
  unfold State.accepted; repeat' split
  all_goals first | trivial | exact hm | (simp (maxDischargeDepth := 30) +contextual [*, State.foldl_mem, State.foldl_wf]; done)

@[simp] theorem State.regionLoad_mem (s : State) (sz : Nat) (scope : BitVec 3) (ps : List Piece) (acc : Access) : (State.regionLoad s sz scope ps acc).mem = s.mem := by
  simp [State.regionLoad]

@[simp] theorem State.regionStore_mem (s : State) (t : Nat) (sz : Nat) (scope : BitVec 3) (ps : List Piece) (acc : Access) (data : List Byte) : (State.regionStore s t sz scope ps acc data).mem = s.mem := by
  simp [State.regionStore]

@[simp] theorem State.globalLoad_wf (s : State) (sz : BitVec 3) (t : RegNo) (a : RegNo) (off : DWord) (scope : BitVec 3) (ord : BitVec 2) (last : Bool) (hm : Memory.wf s.mem = true) : Eff.wf (State.globalLoad s sz t a off scope ord last) := by
  unfold State.globalLoad; simp (maxDischargeDepth := 30) +contextual [hm, State.foldl_mem, State.foldl_wf]

@[simp] theorem execLd_wf (sz : BitVec 3) (t : RegNo) (a : RegNo) (off : BitVec 7) (s : State) (hm : Memory.wf s.mem = true) : outWf (execLd sz t a off s) := by
  unfold execLd; simp (maxDischargeDepth := 30) +contextual [hm, State.foldl_mem, State.foldl_wf]

@[simp] theorem execLdo_wf (sz : BitVec 3) (t : RegNo) (a : RegNo) (scope : BitVec 3) (ord : BitVec 2) (last : Bool) (s : State) (hm : Memory.wf s.mem = true) : outWf (execLdo sz t a scope ord last s) := by
  unfold execLdo; simp (maxDischargeDepth := 30) +contextual [hm, State.foldl_mem, State.foldl_wf]

@[simp] theorem State.globalStore_wf (s : State) (sz : BitVec 3) (t : RegNo) (a : RegNo) (off : DWord) (scope : BitVec 3) (ord : BitVec 2) (modw : Bool) (hm : Memory.wf s.mem = true) : Eff.wf (State.globalStore s sz t a off scope ord modw) := by
  unfold State.globalStore; simp (maxDischargeDepth := 30) +contextual [hm, State.foldl_mem, State.foldl_wf]

@[simp] theorem execSt_wf (sz : BitVec 3) (t : RegNo) (a : RegNo) (off : BitVec 7) (s : State) (hm : Memory.wf s.mem = true) : outWf (execSt sz t a off s) := by
  unfold execSt; simp (maxDischargeDepth := 30) +contextual [hm, State.foldl_mem, State.foldl_wf]

@[simp] theorem execSto_wf (sz : BitVec 3) (t : RegNo) (a : RegNo) (scope : BitVec 3) (ord : BitVec 2) (s : State) (hm : Memory.wf s.mem = true) : outWf (execSto sz t a scope ord s) := by
  unfold execSto; simp (maxDischargeDepth := 30) +contextual [hm, State.foldl_mem, State.foldl_wf]

@[simp] theorem execModw_wf (sz : BitVec 3) (t : RegNo) (a : RegNo) (scope : BitVec 3) (ord : BitVec 2) (s : State) (hm : Memory.wf s.mem = true) : outWf (execModw sz t a scope ord s) := by
  unfold execModw; simp (maxDischargeDepth := 30) +contextual [hm, State.foldl_mem, State.foldl_wf]

@[simp] theorem State.inScratch_wf (s : State) (accs : List Access) (k : Eff) (hm : Memory.wf s.mem = true) (hbk : Eff.wf (k)) : Eff.wf (State.inScratch s accs k) := by
  unfold State.inScratch; repeat' split
  all_goals first | trivial | exact hm | (simp (maxDischargeDepth := 30) +contextual [*, State.foldl_mem, State.foldl_wf]; done)

@[simp] theorem State.scratchChecks_wf (s : State) (accs : List Access) (n : Nat) (wait : BitVec 5 → Bool) (counter : Nat) (k : Eff) (hm : Memory.wf s.mem = true) (hbk : Eff.wf (k)) : Eff.wf (State.scratchChecks s accs n wait counter k) := by
  unfold State.scratchChecks; repeat' split
  all_goals first | trivial | exact hm | (simp (maxDischargeDepth := 30) +contextual [*, State.foldl_mem, State.foldl_wf]; done)

@[simp] theorem execLdl_wf (sz : BitVec 3) (t : RegNo) (a : RegNo) (off : BitVec 7) (s : State) (hm : Memory.wf s.mem = true) : outWf (execLdl sz t a off s) := by
  unfold execLdl; simp (maxDischargeDepth := 30) +contextual [hm, State.foldl_mem, State.foldl_wf]

@[simp] theorem execStl_wf (sz : BitVec 3) (t : RegNo) (a : RegNo) (off : BitVec 7) (s : State) (hm : Memory.wf s.mem = true) : outWf (execStl sz t a off s) := by
  unfold execStl; simp (maxDischargeDepth := 30) +contextual [hm, State.foldl_mem, State.foldl_wf]

@[simp] theorem execLdcb_wf (t : RegNo) (a : RegNo) (off : BitVec 7) (s : State) (hm : Memory.wf s.mem = true) : outWf (execLdcb t a off s) := by
  unfold execLdcb
  repeat' first
    | with_reducible assumption
    | with_reducible exact True.intro
    | simp only [outWf_next, Eff.wf_ok, Eff.wf_jump, Eff.wf_park, Eff.wf_trap, Eff.wf_after, Eff.wf_fault, Eff.wf_stall, Eff.wf_poison, Eff.wf_bad]
    | with_reducible refine issue_wf _ _ _ (by assumption) (fun s hm => ?_)
    | with_reducible refine State.outside_wf _ _ (by assumption) (fun s hm => ?_)
    | with_reducible refine State.withSources_wf _ _ _ (by assumption) (fun s hm => ?_)
    | with_reducible refine State.aligned_wf _ _ _ _ (by assumption) ?_
    | with_reducible refine State.classified_wf _ _ _ _ (by assumption) (fun ps => ?_)
    | with_reducible refine State.classifiedAll_wf _ _ _ (by assumption) (fun ps => ?_)
    | with_reducible refine State.classifiedOnce_wf _ _ _ _ (by assumption) (fun ps => ?_)
    | with_reducible refine State.leafProt_wf _ _ _ _ (by assumption) ?_
    | with_reducible refine State.accepted_wf _ _ _ _ (by assumption) ?_
    | with_reducible refine State.inScratch_wf _ _ _ (by assumption) ?_
    | split
    | (simp (maxDischargeDepth := 30) +contextual [*]; done)
    | dsimp only

@[simp] theorem State.atomicWord_wf (s : State) (op : AtomicOp) (n : Nat) (t : RegNo) (a : RegNo) (k : Nat) (scope : BitVec 3) (ord : BitVec 2) (hm : Memory.wf s.mem = true) : Eff.wf (State.atomicWord s op n t a k scope ord) := by
  unfold State.atomicWord
  repeat' first
    | with_reducible assumption
    | with_reducible exact True.intro
    | simp only [outWf_next, Eff.wf_ok, Eff.wf_jump, Eff.wf_park, Eff.wf_trap, Eff.wf_after, Eff.wf_fault, Eff.wf_stall, Eff.wf_poison, Eff.wf_bad]
    | with_reducible refine issue_wf _ _ _ (by assumption) (fun s hm => ?_)
    | with_reducible refine State.outside_wf _ _ (by assumption) (fun s hm => ?_)
    | with_reducible refine State.withSources_wf _ _ _ (by assumption) (fun s hm => ?_)
    | with_reducible refine State.aligned_wf _ _ _ _ (by assumption) ?_
    | with_reducible refine State.classified_wf _ _ _ _ (by assumption) (fun ps => ?_)
    | with_reducible refine State.classifiedAll_wf _ _ _ (by assumption) (fun ps => ?_)
    | with_reducible refine State.classifiedOnce_wf _ _ _ _ (by assumption) (fun ps => ?_)
    | with_reducible refine State.leafProt_wf _ _ _ _ (by assumption) ?_
    | with_reducible refine State.accepted_wf _ _ _ _ (by assumption) ?_
    | with_reducible refine State.inScratch_wf _ _ _ (by assumption) ?_
    | split
    | (simp (maxDischargeDepth := 30) +contextual [*]; done)
    | dsimp only

@[simp] theorem State.atomicSame_wf (s : State) (op : AtomicOp) (sz : BitVec 3) (t : RegNo) (a : RegNo) (scope : BitVec 3) (ord : BitVec 2) (hm : Memory.wf s.mem = true) : Eff.wf (State.atomicSame s op sz t a scope ord) := by
  simp [State.atomicSame, hm]

@[simp] theorem execAadd_wf (sz : BitVec 3) (t : RegNo) (a : RegNo) (scope : BitVec 3) (ord : BitVec 2) (s : State) (hm : Memory.wf s.mem = true) : outWf (execAadd sz t a scope ord s) := by
  unfold execAadd; simp (maxDischargeDepth := 30) +contextual [hm, State.foldl_mem, State.foldl_wf]

@[simp] theorem execAmin_wf (sz : BitVec 3) (t : RegNo) (a : RegNo) (scope : BitVec 3) (ord : BitVec 2) (z : Bool) (s : State) (hm : Memory.wf s.mem = true) : outWf (execAmin sz t a scope ord z s) := by
  unfold execAmin; simp (maxDischargeDepth := 30) +contextual [hm, State.foldl_mem, State.foldl_wf]

@[simp] theorem execAmax_wf (sz : BitVec 3) (t : RegNo) (a : RegNo) (scope : BitVec 3) (ord : BitVec 2) (z : Bool) (s : State) (hm : Memory.wf s.mem = true) : outWf (execAmax sz t a scope ord z s) := by
  unfold execAmax; simp (maxDischargeDepth := 30) +contextual [hm, State.foldl_mem, State.foldl_wf]

@[simp] theorem execAand_wf (sz : BitVec 3) (t : RegNo) (a : RegNo) (scope : BitVec 3) (ord : BitVec 2) (s : State) (hm : Memory.wf s.mem = true) : outWf (execAand sz t a scope ord s) := by
  unfold execAand; simp (maxDischargeDepth := 30) +contextual [hm, State.foldl_mem, State.foldl_wf]

@[simp] theorem execAor_wf (sz : BitVec 3) (t : RegNo) (a : RegNo) (scope : BitVec 3) (ord : BitVec 2) (s : State) (hm : Memory.wf s.mem = true) : outWf (execAor sz t a scope ord s) := by
  unfold execAor; simp (maxDischargeDepth := 30) +contextual [hm, State.foldl_mem, State.foldl_wf]

@[simp] theorem execAxor_wf (sz : BitVec 3) (t : RegNo) (a : RegNo) (scope : BitVec 3) (ord : BitVec 2) (s : State) (hm : Memory.wf s.mem = true) : outWf (execAxor sz t a scope ord s) := by
  unfold execAxor; simp (maxDischargeDepth := 30) +contextual [hm, State.foldl_mem, State.foldl_wf]

@[simp] theorem execAxch_wf (sz : BitVec 3) (t : RegNo) (a : RegNo) (scope : BitVec 3) (ord : BitVec 2) (s : State) (hm : Memory.wf s.mem = true) : outWf (execAxch sz t a scope ord s) := by
  unfold execAxch; simp (maxDischargeDepth := 30) +contextual [hm, State.foldl_mem, State.foldl_wf]

@[simp] theorem execAcas_wf (sz : Bool) (t : RegNo) (a : RegNo) (scope : BitVec 3) (ord : BitVec 2) (s : State) (hm : Memory.wf s.mem = true) : outWf (execAcas sz t a scope ord s) := by
  unfold execAcas; simp (maxDischargeDepth := 30) +contextual [hm, State.foldl_mem, State.foldl_wf]

@[simp] theorem execAcasQ_wf (t : RegNo) (a : RegNo) (scope : BitVec 3) (ord : BitVec 2) (s : State) (hm : Memory.wf s.mem = true) : outWf (execAcasQ t a scope ord s) := by
  unfold execAcasQ; simp (maxDischargeDepth := 30) +contextual [hm, State.foldl_mem, State.foldl_wf]

@[simp] theorem execAfadd_wf (t : RegNo) (a : RegNo) (scope : BitVec 3) (ord : BitVec 2) (s : State) (hm : Memory.wf s.mem = true) : outWf (execAfadd t a scope ord s) := by
  unfold execAfadd; simp (maxDischargeDepth := 30) +contextual [hm, State.foldl_mem, State.foldl_wf]

@[simp] theorem State.updMyGang_mem (s : State) (f : Gang → Gang) : (State.updMyGang s f).mem = s.mem := by
  rfl

@[simp] theorem State.takeRound_wf (s : State) (d : RegNo) (n : Nat) (opener : Bool) (addr : DWord) (incr : DWord) (ps : List Piece) (hm : Memory.wf s.mem = true) : Eff.wf (State.takeRound s d n opener addr incr ps) := by
  simp [State.takeRound, hm]

@[simp] theorem execTkt_wf (d : RegNo) (a : RegNo) (b : RegNo) (ua : Bool) (ub : Bool) (s : State) (hm : Memory.wf s.mem = true) : outWf (execTkt d a b ua ub s) := by
  unfold execTkt
  repeat' first
    | with_reducible assumption
    | with_reducible exact True.intro
    | simp only [outWf_next, Eff.wf_ok, Eff.wf_jump, Eff.wf_park, Eff.wf_trap, Eff.wf_after, Eff.wf_fault, Eff.wf_stall, Eff.wf_poison, Eff.wf_bad]
    | with_reducible refine issue_wf _ _ _ (by assumption) (fun s hm => ?_)
    | with_reducible refine State.outside_wf _ _ (by assumption) (fun s hm => ?_)
    | with_reducible refine State.withSources_wf _ _ _ (by assumption) (fun s hm => ?_)
    | with_reducible refine State.aligned_wf _ _ _ _ (by assumption) ?_
    | with_reducible refine State.classified_wf _ _ _ _ (by assumption) (fun ps => ?_)
    | with_reducible refine State.classifiedAll_wf _ _ _ (by assumption) (fun ps => ?_)
    | with_reducible refine State.classifiedOnce_wf _ _ _ _ (by assumption) (fun ps => ?_)
    | with_reducible refine State.leafProt_wf _ _ _ _ (by assumption) ?_
    | with_reducible refine State.accepted_wf _ _ _ _ (by assumption) ?_
    | with_reducible refine State.inScratch_wf _ _ _ (by assumption) ?_
    | split
    | (simp (maxDischargeDepth := 30) +contextual [*]; done)
    | dsimp only

@[simp] theorem execDepadd_wf (d : RegNo) (a : RegNo) (b : RegNo) (ua : Bool) (ub : Bool) (s : State) (hm : Memory.wf s.mem = true) : outWf (execDepadd d a b ua ub s) := by
  unfold execDepadd
  repeat' first
    | with_reducible assumption
    | with_reducible exact True.intro
    | simp only [outWf_next, Eff.wf_ok, Eff.wf_jump, Eff.wf_park, Eff.wf_trap, Eff.wf_after, Eff.wf_fault, Eff.wf_stall, Eff.wf_poison, Eff.wf_bad]
    | with_reducible refine issue_wf _ _ _ (by assumption) (fun s hm => ?_)
    | with_reducible refine State.outside_wf _ _ (by assumption) (fun s hm => ?_)
    | with_reducible refine State.withSources_wf _ _ _ (by assumption) (fun s hm => ?_)
    | with_reducible refine State.aligned_wf _ _ _ _ (by assumption) ?_
    | with_reducible refine State.classified_wf _ _ _ _ (by assumption) (fun ps => ?_)
    | with_reducible refine State.classifiedAll_wf _ _ _ (by assumption) (fun ps => ?_)
    | with_reducible refine State.classifiedOnce_wf _ _ _ _ (by assumption) (fun ps => ?_)
    | with_reducible refine State.leafProt_wf _ _ _ _ (by assumption) ?_
    | with_reducible refine State.accepted_wf _ _ _ _ (by assumption) ?_
    | with_reducible refine State.inScratch_wf _ _ _ (by assumption) ?_
    | dsimp only
    | split
    | (simp (maxDischargeDepth := 30) +contextual [*]; done)

@[simp] theorem execRbeg_wf (p : RegNo) (off : BitVec 15) (slot : BitVec 2) (s : State) (hm : Memory.wf s.mem = true) : outWf (execRbeg p off slot s) := by
  unfold execRbeg; simp (maxDischargeDepth := 30) +contextual [hm, State.foldl_mem, State.foldl_wf]

@[simp] theorem execRabt_wf (s : State) (hm : Memory.wf s.mem = true) : outWf (execRabt s) := by
  simp [execRabt, hm]

@[simp] theorem execRstat_wf (d : RegNo) (s : State) (hm : Memory.wf s.mem = true) : outWf (execRstat d s) := by
  unfold execRstat; simp (maxDischargeDepth := 30) +contextual [hm, State.foldl_mem, State.foldl_wf]

end Sys2Proof.Machine
end

