-- ==== Sys2Proof/Laws/KeepTasks.lean ====
section
/-! SUPPORT. What the acceptance of tasks does to memory -/

namespace Sys2Proof.Machine

set_option Elab.async false
set_option linter.all false
set_option maxRecDepth 4000



@[simp] theorem State.fillOverflow_wf (s : State) (c : Nat) (q : Nat) (tcb : DWord) (r : LaunchRec) (e : Entry) (hm : Memory.wf s.mem = true) : Memory.wf (State.fillOverflow s c q tcb r e).mem = true := by
  unfold State.fillOverflow
  repeat' first
    | with_reducible exact hm
    | dsimp only
    | split
    | (simp (maxDischargeDepth := 30) +contextual [*, State.foldl_mem, State.foldl_wf]; done)

@[simp] theorem State.accept_wf (s : State) (c : Nat) (q : Nat) (tcb : DWord) (entry : Entry) (sp : Option Spawned) (hm : Memory.wf s.mem = true) : Memory.wf (State.accept s c q tcb entry sp).mem = true := by
  unfold State.accept
  split
  · exact hm
  · extract_lets f seq lrec argp arglen lr hashable hash root keylo keyhi arena ord task s1 s2 s3 s4 s5 s6 cell s7 cause
    have h1 : Memory.wf s1.mem = true := (congrArg Memory.wf (State.updCtx_mem _ _ _)).trans hm
    have h3 : Memory.wf s3.mem = true := State.putTcb_wf _ _ _ _ _ _ h1
    have h4 : Memory.wf s4.mem = true := by
      show Memory.wf (State.mem (ite _ _ _)) = true
      split
      · exact State.putTcb_wf _ _ _ _ _ _ h3
      · exact h3
    have h5 : Memory.wf s5.mem = true := by
      show Memory.wf (State.mem (ite _ _ _)) = true
      split
      · exact State.putTcb_wf _ _ _ _ _ _ (State.putTcb_wf _ _ _ _ _ _ h4)
      · exact h4
    have h6 : Memory.wf s6.mem = true := by
      cases sp with
      | none => exact h5
      | some p => exact State.putTcb_wf _ _ _ _ _ _ (State.putTcb_wf _ _ _ _ _ _ h5)
    have h7 : Memory.wf s7.mem = true := by
      show Memory.wf (State.mem (ite _ _ _)) = true
      split
      · exact h6
      · exact State.updTrace_wf _ _ _ _ h6
    split
    · exact State.endTask_wf _ _ _ _ _ h7
    · exact State.fillOverflow_wf _ _ _ _ _ _ (State.setStatus_wf _ _ _ _ h7)

@[simp] theorem State.depError_mem (s : State) (q : Nat) : (State.depError s q).mem = s.mem := by
  rfl

@[simp] theorem State.changePred_wf (s : State) (c : Nat) (tcb : DWord) (x : Int) (hm : Memory.wf s.mem = true) : Memory.wf (State.changePred s c tcb x).2.mem = true := by
  unfold State.changePred
  repeat' first
    | with_reducible exact hm
    | dsimp only
    | split
    | (simp (maxDischargeDepth := 30) +contextual [*, State.foldl_mem, State.foldl_wf]; done)

@[simp] theorem State.addPred_wf (s : State) (c : Nat) (tcb : DWord) (x : Int) (hm : Memory.wf s.mem = true) : Memory.wf (State.addPred s c tcb x).2.mem = true := by
  unfold State.addPred; repeat' split
  all_goals first | exact hm | (simp (maxDischargeDepth := 30) +contextual [*, State.foldl_mem, State.foldl_wf]; done)

@[simp] theorem State.settleLate_wf (s : State) (hm : Memory.wf s.mem = true) : Memory.wf (State.settleLate s).mem = true := by
  unfold State.settleLate
  refine State.settleOwed_wf _ (State.foldl_wf _ _ (fun s x h => ?_) _ hm)
  split
  · exact h
  · split
    · exact State.changePred_wf _ _ _ _ h
    · exact State.writeVirt_wf _ _ _ _ h

@[simp] theorem State.walkEntries_wf (s : State) (c : Nat) (q : Nat) (succ : Nat) (y0 : Nat) (y1 : Nat) (hm : Memory.wf s.mem = true) : Memory.wf (State.walkEntries s c q succ y0 y1).mem = true := by
  induction y0 generalizing s y1 with
  | zero => exact hm
  | succ k ih =>
    unfold State.walkEntries
    dsimp only
    split
    · exact (congrArg Memory.wf (State.depError_mem _ _)).trans hm
    · split
      · exact (congrArg Memory.wf (State.depError_mem _ _)).trans hm
      · exact ih _ _ (State.addPred_wf _ _ _ _ hm)

@[simp] theorem State.walkSuccessors_wf (s : State) (c : Nat) (q : Nat) (succp : DWord) (hm : Memory.wf s.mem = true) : Memory.wf (State.walkSuccessors s c q succp).mem = true := by
  simp [State.walkSuccessors, hm]

@[simp] theorem State.restoreGranule_wf (s : State) (c : Nat) (arena : DWord) (w : TraceWrite) (hm : Memory.wf s.mem = true) : Memory.wf (State.restoreGranule s c arena w).mem = true := by
  simp [State.restoreGranule, hm]

@[simp] theorem State.retractOne_wf (s : State) (c : Nat) (arena : DWord) (seq : Nat) (hm : Memory.wf s.mem = true) : Memory.wf (State.retractOne s c arena seq).mem = true := by
  unfold State.retractOne; repeat' split
  all_goals first | exact hm | (simp (maxDischargeDepth := 30) +contextual [*, State.foldl_mem, State.foldl_wf]; done)

@[simp] theorem State.retract_wf (s : State) (c : Nat) (arena : DWord) (roots : List Nat) (hm : Memory.wf s.mem = true) : Memory.wf (State.retract s c arena roots).mem = true := by
  unfold State.retract; repeat' split
  all_goals first | exact hm | (simp (maxDischargeDepth := 30) +contextual [*, State.foldl_mem, State.foldl_wf]; done)

@[simp] theorem State.answer_mem (s : State) (d : RegNo) (f : Nat → Word) (t : Tag) : (State.answer s d f t).mem = s.mem := by
  simp [State.answer]

@[simp] theorem State.splice_wf (s : State) (c : Nat) (k : Task) (child : TraceTask) (tcb : DWord) (rerun : Bool) (hm : Memory.wf s.mem = true) : Memory.wf (State.splice s c k child tcb rerun).mem = true := by
  unfold State.splice
  split
  · exact hm
  · extract_lets f here s1 p s2 s3 s4 s5
    have h1 : Memory.wf s1.mem = true := (congrArg Memory.wf (State.updTask_mem _ _ _ _)).trans hm
    have h2 : Memory.wf s2.mem = true :=
      State.putTcb_wf _ _ _ _ _ _ (State.putTcb_wf _ _ _ _ _ _ (State.putTcb_wf _ _ _ _ _ _ h1))
    have h3 : Memory.wf s3.mem = true :=
      State.putTcb_wf _ _ _ _ _ _ (State.putTcb_wf _ _ _ _ _ _ (State.putTcb_wf _ _ _ _ _ _ h2))
    have h4 : Memory.wf s4.mem = true := State.updTrace_wf _ _ _ _ h3
    have h5 : Memory.wf s5.mem = true := (congrArg Memory.wf (State.updTask_mem _ _ _ _)).trans h4
    split
    · exact h5
    · exact State.completion_wf _ _ _ _ _ (State.walkSuccessors_wf _ _ _ _ (State.setStatus_wf _ _ _ _ h5))

@[simp] theorem State.spawnNew_wf (s : State) (k : Task) (tcb : DWord) (q : Nat) (e : Entry) (lo : DWord) (hi : DWord) (hm : Memory.wf s.mem = true) : Memory.wf (State.spawnNew s k tcb q e lo hi).mem = true := by
  simp [State.spawnNew, hm]

@[simp] theorem State.spawnNow_wf (s : State) (w : Bool) (d : RegNo) (a : RegNo) (ua : Bool) (tcb : DWord) (hm : Memory.wf s.mem = true) : Eff.wf (State.spawnNow s w d a ua tcb) := by
  unfold State.spawnNow
  extract_lets c q page dn lrec argp arglen me entry since
  have hd : ∀ (t : State) (v : Word), Memory.wf t.mem = true → Eff.wf (dn t v) := fun t v h => by
    show Memory.wf (State.answer _ _ _ _).mem = true
    rw [State.answer_mem, State.unpark_mem]; exact h
  have hp : ∀ i n a r, Memory.wf (State.park s i n a r).mem = true := fun i n a r =>
    (congrArg Memory.wf (State.park_mem _ _ _ _ _)).trans hm
  clear_value dn entry since
  split
  · exact hm
  split
  · exact hd _ _ hm
  cases State.task? s c s.g.seq with
  | none => exact hd _ _ hm
  | some k =>
    dsimp only
    generalize (match State.recordedChild s k with
      | some x => x.lrec == lrec && State.capsuleOk s c argp arglen && x.hash == State.argHash s c argp arglen
      | none => false) = same
    generalize State.recordedChild s k = child
    cases child <;> cases same <;> cases entry <;> dsimp only <;> repeat' split
    all_goals first
      | exact hm
      | exact hd _ _ hm
      | exact hp _ _ _ _
      | exact hd _ _ (State.splice_wf _ _ _ _ _ _ hm)
      | exact hd _ _ (State.spawnNew_wf _ _ _ _ _ _ _ (State.retract_wf _ _ _ _ hm))
      | exact hd _ _ (State.spawnNew_wf _ _ _ _ _ _ _ hm)

@[simp] theorem State.spawnWord_wf (s : State) (w : Bool) (d : RegNo) (a : RegNo) (ua : Bool) (hm : Memory.wf s.mem = true) : Eff.wf (State.spawnWord s w d a ua) := by
  unfold State.spawnWord; simp (maxDischargeDepth := 30) +contextual [hm, State.foldl_mem, State.foldl_wf]

@[simp] theorem execSpawn_wf (d : RegNo) (a : RegNo) (ua : Bool) (s : State) (hm : Memory.wf s.mem = true) : outWf (execSpawn d a ua s) := by
  unfold execSpawn; simp (maxDischargeDepth := 30) +contextual [hm, State.foldl_mem, State.foldl_wf]

@[simp] theorem execSpawnw_wf (d : RegNo) (a : RegNo) (ua : Bool) (s : State) (hm : Memory.wf s.mem = true) : outWf (execSpawnw d a ua s) := by
  unfold execSpawnw; simp (maxDischargeDepth := 30) +contextual [hm, State.foldl_mem, State.foldl_wf]

end Sys2Proof.Machine
end

