-- ==== Sys2Proof/Laws/KeepTiles.lean ====
section
/-! SUPPORT. What the matrix engine, rings and phasers do to memory -/

namespace Sys2Proof.Machine

set_option Elab.async false
set_option linter.all false
set_option maxRecDepth 4000



@[simp] theorem State.mqWord_wf (s : State) (k : Nat) (inside : Bool) (body : State → List Nat → Eff) (hm : Memory.wf s.mem = true) (hbbody : ∀ (w0 : State) (w1 : List Nat), Memory.wf w0.mem = true → Eff.wf (body w0 w1)) : Eff.wf (State.mqWord s k inside body) := by
  unfold State.mqWord
  repeat' first
    | with_reducible assumption
    | with_reducible exact True.intro
    | simp only [Eff.wf_ok, Eff.wf_jump, Eff.wf_park, Eff.wf_trap, Eff.wf_after, Eff.wf_fault, Eff.wf_stall, Eff.wf_poison, Eff.wf_bad]
    | with_reducible refine issue_wf _ _ _ (by assumption) (fun s hm => ?_)
    | with_reducible refine State.outside_wf _ _ (by assumption) (fun s hm => ?_)
    | with_reducible refine State.withSources_wf _ _ _ (by assumption) (fun s hm => ?_)
    | with_reducible refine State.aligned_wf _ _ _ _ (by assumption) ?_
    | with_reducible refine State.classified_wf _ _ _ _ (by assumption) (fun ps => ?_)
    | with_reducible refine State.classifiedOnce_wf _ _ _ _ (by assumption) (fun ps => ?_)
    | with_reducible refine State.leafProt_wf _ _ _ _ (by assumption) ?_
    | with_reducible refine State.accepted_wf _ _ _ _ (by assumption) ?_
    | with_reducible refine State.inScratch_wf _ _ _ (by assumption) ?_
    | with_reducible refine State.mqWord_wf _ _ _ _ (by assumption) (fun s qs hm => ?_)
    | with_reducible refine State.phaserWord_wf _ _ _ _ (by assumption) (fun s h hm => ?_)
    | split
    | (simp (maxDischargeDepth := 30) +contextual [*]; done)
    | with_reducible refine hbbody _ _ ?_
    | dsimp only

theorem Eff.wf_if (c : Prop) [Decidable c] (a b : Eff) (ha : Eff.wf a) (hb : Eff.wf b) : Eff.wf (if c then a else b) := by
  split
  · exact ha
  · exact hb

@[simp] theorem State.mmq_wf (s : State) (f : MmaForm) (tile : BitVec 4) (a : RegNo) (b : RegNo) (sb : Bool) (ol : Bool) (hm : Memory.wf s.mem = true) : Eff.wf (State.mmq s f tile a b sb ol) := by
  unfold State.mmq
  refine State.mqWord_wf _ _ _ _ hm (fun s qs hm => ?_)
  dsimp only
  repeat' first
    | exact trivial
    | exact hm
    | refine Eff.wf_if _ _ _ ?_ ?_
    | split

@[simp] theorem execMmqBf16_wf (tile : BitVec 4) (a : RegNo) (b : RegNo) (sb : Bool) (s : State) (hm : Memory.wf s.mem = true) : outWf (execMmqBf16 tile a b sb s) := by
  unfold execMmqBf16
  repeat' first
    | with_reducible assumption
    | with_reducible exact True.intro
    | simp only [Eff.wf_ok, Eff.wf_jump, Eff.wf_park, Eff.wf_trap, Eff.wf_after, Eff.wf_fault, Eff.wf_stall, Eff.wf_poison, Eff.wf_bad]
    | with_reducible refine issue_wf _ _ _ (by assumption) (fun s hm => ?_)
    | with_reducible refine State.outside_wf _ _ (by assumption) (fun s hm => ?_)
    | with_reducible refine State.withSources_wf _ _ _ (by assumption) (fun s hm => ?_)
    | with_reducible refine State.aligned_wf _ _ _ _ (by assumption) ?_
    | with_reducible refine State.classified_wf _ _ _ _ (by assumption) (fun ps => ?_)
    | with_reducible refine State.classifiedOnce_wf _ _ _ _ (by assumption) (fun ps => ?_)
    | with_reducible refine State.leafProt_wf _ _ _ _ (by assumption) ?_
    | with_reducible refine State.accepted_wf _ _ _ _ (by assumption) ?_
    | with_reducible refine State.inScratch_wf _ _ _ (by assumption) ?_
    | with_reducible refine State.mqWord_wf _ _ _ _ (by assumption) (fun s qs hm => ?_)
    | with_reducible refine State.phaserWord_wf _ _ _ _ (by assumption) (fun s h hm => ?_)
    | split
    | (simp (maxDischargeDepth := 30) +contextual [*]; done)
    | dsimp only

@[simp] theorem execMmqF16_wf (tile : BitVec 4) (a : RegNo) (b : RegNo) (sb : Bool) (s : State) (hm : Memory.wf s.mem = true) : outWf (execMmqF16 tile a b sb s) := by
  unfold execMmqF16
  repeat' first
    | with_reducible assumption
    | with_reducible exact True.intro
    | simp only [Eff.wf_ok, Eff.wf_jump, Eff.wf_park, Eff.wf_trap, Eff.wf_after, Eff.wf_fault, Eff.wf_stall, Eff.wf_poison, Eff.wf_bad]
    | with_reducible refine issue_wf _ _ _ (by assumption) (fun s hm => ?_)
    | with_reducible refine State.outside_wf _ _ (by assumption) (fun s hm => ?_)
    | with_reducible refine State.withSources_wf _ _ _ (by assumption) (fun s hm => ?_)
    | with_reducible refine State.aligned_wf _ _ _ _ (by assumption) ?_
    | with_reducible refine State.classified_wf _ _ _ _ (by assumption) (fun ps => ?_)
    | with_reducible refine State.classifiedOnce_wf _ _ _ _ (by assumption) (fun ps => ?_)
    | with_reducible refine State.leafProt_wf _ _ _ _ (by assumption) ?_
    | with_reducible refine State.accepted_wf _ _ _ _ (by assumption) ?_
    | with_reducible refine State.inScratch_wf _ _ _ (by assumption) ?_
    | with_reducible refine State.mqWord_wf _ _ _ _ (by assumption) (fun s qs hm => ?_)
    | with_reducible refine State.phaserWord_wf _ _ _ _ (by assumption) (fun s h hm => ?_)
    | split
    | (simp (maxDischargeDepth := 30) +contextual [*]; done)
    | dsimp only

@[simp] theorem execMmqE4m3_wf (tile : BitVec 4) (a : RegNo) (b : RegNo) (sb : Bool) (s : State) (hm : Memory.wf s.mem = true) : outWf (execMmqE4m3 tile a b sb s) := by
  unfold execMmqE4m3
  repeat' first
    | with_reducible assumption
    | with_reducible exact True.intro
    | simp only [Eff.wf_ok, Eff.wf_jump, Eff.wf_park, Eff.wf_trap, Eff.wf_after, Eff.wf_fault, Eff.wf_stall, Eff.wf_poison, Eff.wf_bad]
    | with_reducible refine issue_wf _ _ _ (by assumption) (fun s hm => ?_)
    | with_reducible refine State.outside_wf _ _ (by assumption) (fun s hm => ?_)
    | with_reducible refine State.withSources_wf _ _ _ (by assumption) (fun s hm => ?_)
    | with_reducible refine State.aligned_wf _ _ _ _ (by assumption) ?_
    | with_reducible refine State.classified_wf _ _ _ _ (by assumption) (fun ps => ?_)
    | with_reducible refine State.classifiedOnce_wf _ _ _ _ (by assumption) (fun ps => ?_)
    | with_reducible refine State.leafProt_wf _ _ _ _ (by assumption) ?_
    | with_reducible refine State.accepted_wf _ _ _ _ (by assumption) ?_
    | with_reducible refine State.inScratch_wf _ _ _ (by assumption) ?_
    | with_reducible refine State.mqWord_wf _ _ _ _ (by assumption) (fun s qs hm => ?_)
    | with_reducible refine State.phaserWord_wf _ _ _ _ (by assumption) (fun s h hm => ?_)
    | split
    | (simp (maxDischargeDepth := 30) +contextual [*]; done)
    | dsimp only

@[simp] theorem execMmqE5m2_wf (tile : BitVec 4) (a : RegNo) (b : RegNo) (sb : Bool) (s : State) (hm : Memory.wf s.mem = true) : outWf (execMmqE5m2 tile a b sb s) := by
  unfold execMmqE5m2
  repeat' first
    | with_reducible assumption
    | with_reducible exact True.intro
    | simp only [Eff.wf_ok, Eff.wf_jump, Eff.wf_park, Eff.wf_trap, Eff.wf_after, Eff.wf_fault, Eff.wf_stall, Eff.wf_poison, Eff.wf_bad]
    | with_reducible refine issue_wf _ _ _ (by assumption) (fun s hm => ?_)
    | with_reducible refine State.outside_wf _ _ (by assumption) (fun s hm => ?_)
    | with_reducible refine State.withSources_wf _ _ _ (by assumption) (fun s hm => ?_)
    | with_reducible refine State.aligned_wf _ _ _ _ (by assumption) ?_
    | with_reducible refine State.classified_wf _ _ _ _ (by assumption) (fun ps => ?_)
    | with_reducible refine State.classifiedOnce_wf _ _ _ _ (by assumption) (fun ps => ?_)
    | with_reducible refine State.leafProt_wf _ _ _ _ (by assumption) ?_
    | with_reducible refine State.accepted_wf _ _ _ _ (by assumption) ?_
    | with_reducible refine State.inScratch_wf _ _ _ (by assumption) ?_
    | with_reducible refine State.mqWord_wf _ _ _ _ (by assumption) (fun s qs hm => ?_)
    | with_reducible refine State.phaserWord_wf _ _ _ _ (by assumption) (fun s h hm => ?_)
    | split
    | (simp (maxDischargeDepth := 30) +contextual [*]; done)
    | dsimp only

@[simp] theorem execMmqI8_wf (tile : BitVec 4) (a : RegNo) (b : RegNo) (sb : Bool) (s : State) (hm : Memory.wf s.mem = true) : outWf (execMmqI8 tile a b sb s) := by
  unfold execMmqI8
  repeat' first
    | with_reducible assumption
    | with_reducible exact True.intro
    | simp only [Eff.wf_ok, Eff.wf_jump, Eff.wf_park, Eff.wf_trap, Eff.wf_after, Eff.wf_fault, Eff.wf_stall, Eff.wf_poison, Eff.wf_bad]
    | with_reducible refine issue_wf _ _ _ (by assumption) (fun s hm => ?_)
    | with_reducible refine State.outside_wf _ _ (by assumption) (fun s hm => ?_)
    | with_reducible refine State.withSources_wf _ _ _ (by assumption) (fun s hm => ?_)
    | with_reducible refine State.aligned_wf _ _ _ _ (by assumption) ?_
    | with_reducible refine State.classified_wf _ _ _ _ (by assumption) (fun ps => ?_)
    | with_reducible refine State.classifiedOnce_wf _ _ _ _ (by assumption) (fun ps => ?_)
    | with_reducible refine State.leafProt_wf _ _ _ _ (by assumption) ?_
    | with_reducible refine State.accepted_wf _ _ _ _ (by assumption) ?_
    | with_reducible refine State.inScratch_wf _ _ _ (by assumption) ?_
    | with_reducible refine State.mqWord_wf _ _ _ _ (by assumption) (fun s qs hm => ?_)
    | with_reducible refine State.phaserWord_wf _ _ _ _ (by assumption) (fun s h hm => ?_)
    | split
    | (simp (maxDischargeDepth := 30) +contextual [*]; done)
    | dsimp only

@[simp] theorem execMmqCb4_wf (tile : BitVec 4) (a : RegNo) (b : RegNo) (sb : Bool) (s : State) (hm : Memory.wf s.mem = true) : outWf (execMmqCb4 tile a b sb s) := by
  unfold execMmqCb4
  repeat' first
    | with_reducible assumption
    | with_reducible exact True.intro
    | simp only [Eff.wf_ok, Eff.wf_jump, Eff.wf_park, Eff.wf_trap, Eff.wf_after, Eff.wf_fault, Eff.wf_stall, Eff.wf_poison, Eff.wf_bad]
    | with_reducible refine issue_wf _ _ _ (by assumption) (fun s hm => ?_)
    | with_reducible refine State.outside_wf _ _ (by assumption) (fun s hm => ?_)
    | with_reducible refine State.withSources_wf _ _ _ (by assumption) (fun s hm => ?_)
    | with_reducible refine State.aligned_wf _ _ _ _ (by assumption) ?_
    | with_reducible refine State.classified_wf _ _ _ _ (by assumption) (fun ps => ?_)
    | with_reducible refine State.classifiedOnce_wf _ _ _ _ (by assumption) (fun ps => ?_)
    | with_reducible refine State.leafProt_wf _ _ _ _ (by assumption) ?_
    | with_reducible refine State.accepted_wf _ _ _ _ (by assumption) ?_
    | with_reducible refine State.inScratch_wf _ _ _ (by assumption) ?_
    | with_reducible refine State.mqWord_wf _ _ _ _ (by assumption) (fun s qs hm => ?_)
    | with_reducible refine State.phaserWord_wf _ _ _ _ (by assumption) (fun s h hm => ?_)
    | split
    | (simp (maxDischargeDepth := 30) +contextual [*]; done)
    | dsimp only

@[simp] theorem execMmqCbbf_wf (tile : BitVec 4) (a : RegNo) (b : RegNo) (sb : Bool) (s : State) (hm : Memory.wf s.mem = true) : outWf (execMmqCbbf tile a b sb s) := by
  unfold execMmqCbbf
  repeat' first
    | with_reducible assumption
    | with_reducible exact True.intro
    | simp only [Eff.wf_ok, Eff.wf_jump, Eff.wf_park, Eff.wf_trap, Eff.wf_after, Eff.wf_fault, Eff.wf_stall, Eff.wf_poison, Eff.wf_bad]
    | with_reducible refine issue_wf _ _ _ (by assumption) (fun s hm => ?_)
    | with_reducible refine State.outside_wf _ _ (by assumption) (fun s hm => ?_)
    | with_reducible refine State.withSources_wf _ _ _ (by assumption) (fun s hm => ?_)
    | with_reducible refine State.aligned_wf _ _ _ _ (by assumption) ?_
    | with_reducible refine State.classified_wf _ _ _ _ (by assumption) (fun ps => ?_)
    | with_reducible refine State.classifiedOnce_wf _ _ _ _ (by assumption) (fun ps => ?_)
    | with_reducible refine State.leafProt_wf _ _ _ _ (by assumption) ?_
    | with_reducible refine State.accepted_wf _ _ _ _ (by assumption) ?_
    | with_reducible refine State.inScratch_wf _ _ _ (by assumption) ?_
    | with_reducible refine State.mqWord_wf _ _ _ _ (by assumption) (fun s qs hm => ?_)
    | with_reducible refine State.phaserWord_wf _ _ _ _ (by assumption) (fun s h hm => ?_)
    | split
    | (simp (maxDischargeDepth := 30) +contextual [*]; done)
    | dsimp only

@[simp] theorem execMmqE2m1_wf (tile : BitVec 4) (a : RegNo) (b : RegNo) (sb : Bool) (ol : Bool) (s : State) (hm : Memory.wf s.mem = true) : outWf (execMmqE2m1 tile a b sb ol s) := by
  unfold execMmqE2m1
  repeat' first
    | with_reducible assumption
    | with_reducible exact True.intro
    | simp only [Eff.wf_ok, Eff.wf_jump, Eff.wf_park, Eff.wf_trap, Eff.wf_after, Eff.wf_fault, Eff.wf_stall, Eff.wf_poison, Eff.wf_bad]
    | with_reducible refine issue_wf _ _ _ (by assumption) (fun s hm => ?_)
    | with_reducible refine State.outside_wf _ _ (by assumption) (fun s hm => ?_)
    | with_reducible refine State.withSources_wf _ _ _ (by assumption) (fun s hm => ?_)
    | with_reducible refine State.aligned_wf _ _ _ _ (by assumption) ?_
    | with_reducible refine State.classified_wf _ _ _ _ (by assumption) (fun ps => ?_)
    | with_reducible refine State.classifiedOnce_wf _ _ _ _ (by assumption) (fun ps => ?_)
    | with_reducible refine State.leafProt_wf _ _ _ _ (by assumption) ?_
    | with_reducible refine State.accepted_wf _ _ _ _ (by assumption) ?_
    | with_reducible refine State.inScratch_wf _ _ _ (by assumption) ?_
    | with_reducible refine State.mqWord_wf _ _ _ _ (by assumption) (fun s qs hm => ?_)
    | with_reducible refine State.phaserWord_wf _ _ _ _ (by assumption) (fun s h hm => ?_)
    | split
    | (simp (maxDischargeDepth := 30) +contextual [*]; done)
    | dsimp only

@[simp] theorem execMmz_wf (tile : BitVec 4) (s : State) (hm : Memory.wf s.mem = true) : outWf (execMmz tile s) := by
  unfold execMmz
  repeat' first
    | with_reducible assumption
    | with_reducible exact True.intro
    | simp only [Eff.wf_ok, Eff.wf_jump, Eff.wf_park, Eff.wf_trap, Eff.wf_after, Eff.wf_fault, Eff.wf_stall, Eff.wf_poison, Eff.wf_bad]
    | with_reducible refine issue_wf _ _ _ (by assumption) (fun s hm => ?_)
    | with_reducible refine State.outside_wf _ _ (by assumption) (fun s hm => ?_)
    | with_reducible refine State.withSources_wf _ _ _ (by assumption) (fun s hm => ?_)
    | with_reducible refine State.aligned_wf _ _ _ _ (by assumption) ?_
    | with_reducible refine State.classified_wf _ _ _ _ (by assumption) (fun ps => ?_)
    | with_reducible refine State.classifiedOnce_wf _ _ _ _ (by assumption) (fun ps => ?_)
    | with_reducible refine State.leafProt_wf _ _ _ _ (by assumption) ?_
    | with_reducible refine State.accepted_wf _ _ _ _ (by assumption) ?_
    | with_reducible refine State.inScratch_wf _ _ _ (by assumption) ?_
    | with_reducible refine State.mqWord_wf _ _ _ _ (by assumption) (fun s qs hm => ?_)
    | with_reducible refine State.phaserWord_wf _ _ _ _ (by assumption) (fun s h hm => ?_)
    | split
    | (simp (maxDischargeDepth := 30) +contextual [*]; done)
    | dsimp only

@[simp] theorem execMmrd_wf (tile : BitVec 4) (a : RegNo) (s : State) (hm : Memory.wf s.mem = true) : outWf (execMmrd tile a s) := by
  unfold execMmrd; simp (maxDischargeDepth := 30) +contextual [hm, State.foldl_mem, State.foldl_wf]

@[simp] theorem execMmwr_wf (tile : BitVec 4) (a : RegNo) (s : State) (hm : Memory.wf s.mem = true) : outWf (execMmwr tile a s) := by
  unfold execMmwr
  repeat' first
    | with_reducible assumption
    | with_reducible exact True.intro
    | simp only [Eff.wf_ok, Eff.wf_jump, Eff.wf_park, Eff.wf_trap, Eff.wf_after, Eff.wf_fault, Eff.wf_stall, Eff.wf_poison, Eff.wf_bad]
    | with_reducible refine issue_wf _ _ _ (by assumption) (fun s hm => ?_)
    | with_reducible refine State.outside_wf _ _ (by assumption) (fun s hm => ?_)
    | with_reducible refine State.withSources_wf _ _ _ (by assumption) (fun s hm => ?_)
    | with_reducible refine State.aligned_wf _ _ _ _ (by assumption) ?_
    | with_reducible refine State.classified_wf _ _ _ _ (by assumption) (fun ps => ?_)
    | with_reducible refine State.classifiedOnce_wf _ _ _ _ (by assumption) (fun ps => ?_)
    | with_reducible refine State.leafProt_wf _ _ _ _ (by assumption) ?_
    | with_reducible refine State.accepted_wf _ _ _ _ (by assumption) ?_
    | with_reducible refine State.inScratch_wf _ _ _ (by assumption) ?_
    | with_reducible refine State.mqWord_wf _ _ _ _ (by assumption) (fun s qs hm => ?_)
    | with_reducible refine State.phaserWord_wf _ _ _ _ (by assumption) (fun s h hm => ?_)
    | split
    | (simp (maxDischargeDepth := 30) +contextual [*]; done)
    | dsimp only

@[simp] theorem State.tileMove_wf (s : State) (k : Nat) (a : RegNo) (wait : BitVec 5 → Bool) (consume : Bool) (op : State → List Access → OutOp) (parts : List Access → List LanePart) (hm : Memory.wf s.mem = true) : Eff.wf (State.tileMove s k a wait consume op parts) := by
  unfold State.tileMove
  repeat' first
    | with_reducible assumption
    | with_reducible exact True.intro
    | simp only [Eff.wf_ok, Eff.wf_jump, Eff.wf_park, Eff.wf_trap, Eff.wf_after, Eff.wf_fault, Eff.wf_stall, Eff.wf_poison, Eff.wf_bad]
    | with_reducible refine issue_wf _ _ _ (by assumption) (fun s hm => ?_)
    | with_reducible refine State.outside_wf _ _ (by assumption) (fun s hm => ?_)
    | with_reducible refine State.withSources_wf _ _ _ (by assumption) (fun s hm => ?_)
    | with_reducible refine State.aligned_wf _ _ _ _ (by assumption) ?_
    | with_reducible refine State.classified_wf _ _ _ _ (by assumption) (fun ps => ?_)
    | with_reducible refine State.classifiedOnce_wf _ _ _ _ (by assumption) (fun ps => ?_)
    | with_reducible refine State.leafProt_wf _ _ _ _ (by assumption) ?_
    | with_reducible refine State.accepted_wf _ _ _ _ (by assumption) ?_
    | with_reducible refine State.inScratch_wf _ _ _ (by assumption) ?_
    | with_reducible refine State.mqWord_wf _ _ _ _ (by assumption) (fun s qs hm => ?_)
    | with_reducible refine State.phaserWord_wf _ _ _ _ (by assumption) (fun s h hm => ?_)
    | split
    | (simp (maxDischargeDepth := 30) +contextual [*]; done)
    | with_reducible refine hbgo _ _ ?_
    | dsimp only

@[simp] theorem execMmst_wf (tile : BitVec 4) (a : RegNo) (s : State) (hm : Memory.wf s.mem = true) : outWf (execMmst tile a s) := by
  unfold execMmst
  repeat' first
    | with_reducible assumption
    | with_reducible exact True.intro
    | simp only [Eff.wf_ok, Eff.wf_jump, Eff.wf_park, Eff.wf_trap, Eff.wf_after, Eff.wf_fault, Eff.wf_stall, Eff.wf_poison, Eff.wf_bad]
    | with_reducible refine issue_wf _ _ _ (by assumption) (fun s hm => ?_)
    | with_reducible refine State.outside_wf _ _ (by assumption) (fun s hm => ?_)
    | with_reducible refine State.withSources_wf _ _ _ (by assumption) (fun s hm => ?_)
    | with_reducible refine State.aligned_wf _ _ _ _ (by assumption) ?_
    | with_reducible refine State.classified_wf _ _ _ _ (by assumption) (fun ps => ?_)
    | with_reducible refine State.classifiedOnce_wf _ _ _ _ (by assumption) (fun ps => ?_)
    | with_reducible refine State.leafProt_wf _ _ _ _ (by assumption) ?_
    | with_reducible refine State.accepted_wf _ _ _ _ (by assumption) ?_
    | with_reducible refine State.inScratch_wf _ _ _ (by assumption) ?_
    | with_reducible refine State.mqWord_wf _ _ _ _ (by assumption) (fun s qs hm => ?_)
    | with_reducible refine State.phaserWord_wf _ _ _ _ (by assumption) (fun s h hm => ?_)
    | split
    | (simp (maxDischargeDepth := 30) +contextual [*]; done)
    | dsimp only

@[simp] theorem execMmld_wf (tile : BitVec 4) (a : RegNo) (s : State) (hm : Memory.wf s.mem = true) : outWf (execMmld tile a s) := by
  unfold execMmld; simp (maxDischargeDepth := 30) +contextual [hm, State.foldl_mem, State.foldl_wf]

@[simp] theorem State.retry_mem (s : State) (g : Group) (n : Nat) (o : MmaOp) : (State.retry s g n o).mem = s.mem := by
  rfl

@[simp] theorem execMmqRetire_wf (hall : Nat) (slot : Nat) (mismatch : Bool) (s : State) (hm : Memory.wf s.mem = true) : outWf (execMmqRetire hall slot mismatch s) := by
  unfold execMmqRetire
  repeat' first
    | with_reducible assumption
    | with_reducible exact True.intro
    | simp only [Eff.wf_ok, Eff.wf_jump, Eff.wf_park, Eff.wf_trap, Eff.wf_after, Eff.wf_fault, Eff.wf_stall, Eff.wf_poison, Eff.wf_bad]
    | with_reducible refine issue_wf _ _ _ (by assumption) (fun s hm => ?_)
    | with_reducible refine State.outside_wf _ _ (by assumption) (fun s hm => ?_)
    | with_reducible refine State.withSources_wf _ _ _ (by assumption) (fun s hm => ?_)
    | with_reducible refine State.aligned_wf _ _ _ _ (by assumption) ?_
    | with_reducible refine State.classified_wf _ _ _ _ (by assumption) (fun ps => ?_)
    | with_reducible refine State.classifiedOnce_wf _ _ _ _ (by assumption) (fun ps => ?_)
    | with_reducible refine State.leafProt_wf _ _ _ _ (by assumption) ?_
    | with_reducible refine State.accepted_wf _ _ _ _ (by assumption) ?_
    | with_reducible refine State.inScratch_wf _ _ _ (by assumption) ?_
    | with_reducible refine State.mqWord_wf _ _ _ _ (by assumption) (fun s qs hm => ?_)
    | with_reducible refine State.phaserWord_wf _ _ _ _ (by assumption) (fun s h hm => ?_)
    | split
    | (simp (maxDischargeDepth := 30) +contextual [*]; done)
    | dsimp only

@[simp] theorem State.setTiles_mem (s : State) (c : Nat) (seq : Nat) (blk : Nat) (first : Nat) (n : Nat) (f : BitVec 5 → BitVec 5) : (State.setTiles s c seq blk first n f).mem = s.mem := by
  rfl

@[simp] theorem State.tileWord_wf (s : State) (i : Instr) (a : RegNo) (b : RegNo) (ua : Bool) (ub : Bool) (f : BitVec 5 → BitVec 5) (hm : Memory.wf s.mem = true) : Eff.wf (State.tileWord s i a b ua ub f) := by
  unfold State.tileWord
  repeat' first
    | with_reducible assumption
    | with_reducible exact True.intro
    | simp only [Eff.wf_ok, Eff.wf_jump, Eff.wf_park, Eff.wf_trap, Eff.wf_after, Eff.wf_fault, Eff.wf_stall, Eff.wf_poison, Eff.wf_bad]
    | with_reducible refine issue_wf _ _ _ (by assumption) (fun s hm => ?_)
    | with_reducible refine State.outside_wf _ _ (by assumption) (fun s hm => ?_)
    | with_reducible refine State.withSources_wf _ _ _ (by assumption) (fun s hm => ?_)
    | with_reducible refine State.aligned_wf _ _ _ _ (by assumption) ?_
    | with_reducible refine State.classified_wf _ _ _ _ (by assumption) (fun ps => ?_)
    | with_reducible refine State.classifiedOnce_wf _ _ _ _ (by assumption) (fun ps => ?_)
    | with_reducible refine State.leafProt_wf _ _ _ _ (by assumption) ?_
    | with_reducible refine State.accepted_wf _ _ _ _ (by assumption) ?_
    | with_reducible refine State.inScratch_wf _ _ _ (by assumption) ?_
    | with_reducible refine State.mqWord_wf _ _ _ _ (by assumption) (fun s qs hm => ?_)
    | with_reducible refine State.phaserWord_wf _ _ _ _ (by assumption) (fun s h hm => ?_)
    | split
    | (simp (maxDischargeDepth := 30) +contextual [*]; done)
    | dsimp only

@[simp] theorem execTilev_wf (a : RegNo) (b : RegNo) (ua : Bool) (ub : Bool) (s : State) (hm : Memory.wf s.mem = true) : outWf (execTilev a b ua ub s) := by
  unfold execTilev
  repeat' first
    | with_reducible assumption
    | with_reducible exact True.intro
    | simp only [Eff.wf_ok, Eff.wf_jump, Eff.wf_park, Eff.wf_trap, Eff.wf_after, Eff.wf_fault, Eff.wf_stall, Eff.wf_poison, Eff.wf_bad]
    | with_reducible refine issue_wf _ _ _ (by assumption) (fun s hm => ?_)
    | with_reducible refine State.outside_wf _ _ (by assumption) (fun s hm => ?_)
    | with_reducible refine State.withSources_wf _ _ _ (by assumption) (fun s hm => ?_)
    | with_reducible refine State.aligned_wf _ _ _ _ (by assumption) ?_
    | with_reducible refine State.classified_wf _ _ _ _ (by assumption) (fun ps => ?_)
    | with_reducible refine State.classifiedOnce_wf _ _ _ _ (by assumption) (fun ps => ?_)
    | with_reducible refine State.leafProt_wf _ _ _ _ (by assumption) ?_
    | with_reducible refine State.accepted_wf _ _ _ _ (by assumption) ?_
    | with_reducible refine State.inScratch_wf _ _ _ (by assumption) ?_
    | with_reducible refine State.mqWord_wf _ _ _ _ (by assumption) (fun s qs hm => ?_)
    | with_reducible refine State.phaserWord_wf _ _ _ _ (by assumption) (fun s h hm => ?_)
    | split
    | (simp (maxDischargeDepth := 30) +contextual [*]; done)
    | dsimp only

@[simp] theorem execTilec_wf (a : RegNo) (b : RegNo) (ua : Bool) (ub : Bool) (s : State) (hm : Memory.wf s.mem = true) : outWf (execTilec a b ua ub s) := by
  unfold execTilec
  repeat' first
    | with_reducible assumption
    | with_reducible exact True.intro
    | simp only [Eff.wf_ok, Eff.wf_jump, Eff.wf_park, Eff.wf_trap, Eff.wf_after, Eff.wf_fault, Eff.wf_stall, Eff.wf_poison, Eff.wf_bad]
    | with_reducible refine issue_wf _ _ _ (by assumption) (fun s hm => ?_)
    | with_reducible refine State.outside_wf _ _ (by assumption) (fun s hm => ?_)
    | with_reducible refine State.withSources_wf _ _ _ (by assumption) (fun s hm => ?_)
    | with_reducible refine State.aligned_wf _ _ _ _ (by assumption) ?_
    | with_reducible refine State.classified_wf _ _ _ _ (by assumption) (fun ps => ?_)
    | with_reducible refine State.classifiedOnce_wf _ _ _ _ (by assumption) (fun ps => ?_)
    | with_reducible refine State.leafProt_wf _ _ _ _ (by assumption) ?_
    | with_reducible refine State.accepted_wf _ _ _ _ (by assumption) ?_
    | with_reducible refine State.inScratch_wf _ _ _ (by assumption) ?_
    | with_reducible refine State.mqWord_wf _ _ _ _ (by assumption) (fun s qs hm => ?_)
    | with_reducible refine State.phaserWord_wf _ _ _ _ (by assumption) (fun s h hm => ?_)
    | split
    | (simp (maxDischargeDepth := 30) +contextual [*]; done)
    | dsimp only

@[simp] theorem execTileclr_wf (a : RegNo) (b : RegNo) (ua : Bool) (ub : Bool) (s : State) (hm : Memory.wf s.mem = true) : outWf (execTileclr a b ua ub s) := by
  unfold execTileclr
  repeat' first
    | with_reducible assumption
    | with_reducible exact True.intro
    | simp only [Eff.wf_ok, Eff.wf_jump, Eff.wf_park, Eff.wf_trap, Eff.wf_after, Eff.wf_fault, Eff.wf_stall, Eff.wf_poison, Eff.wf_bad]
    | with_reducible refine issue_wf _ _ _ (by assumption) (fun s hm => ?_)
    | with_reducible refine State.outside_wf _ _ (by assumption) (fun s hm => ?_)
    | with_reducible refine State.withSources_wf _ _ _ (by assumption) (fun s hm => ?_)
    | with_reducible refine State.aligned_wf _ _ _ _ (by assumption) ?_
    | with_reducible refine State.classified_wf _ _ _ _ (by assumption) (fun ps => ?_)
    | with_reducible refine State.classifiedOnce_wf _ _ _ _ (by assumption) (fun ps => ?_)
    | with_reducible refine State.leafProt_wf _ _ _ _ (by assumption) ?_
    | with_reducible refine State.accepted_wf _ _ _ _ (by assumption) ?_
    | with_reducible refine State.inScratch_wf _ _ _ (by assumption) ?_
    | with_reducible refine State.mqWord_wf _ _ _ _ (by assumption) (fun s qs hm => ?_)
    | with_reducible refine State.phaserWord_wf _ _ _ _ (by assumption) (fun s h hm => ?_)
    | split
    | (simp (maxDischargeDepth := 30) +contextual [*]; done)
    | dsimp only

@[simp] theorem State.ringBad_wf (s : State) (hm : Memory.wf s.mem = true) : Eff.wf (State.ringBad s) := by
  simp [State.ringBad, hm]

@[simp] theorem execRngi_wf (a : RegNo) (b : RegNo) (s : State) (hm : Memory.wf s.mem = true) : outWf (execRngi a b s) := by
  unfold execRngi
  repeat' first
    | with_reducible assumption
    | with_reducible exact True.intro
    | simp only [Eff.wf_ok, Eff.wf_jump, Eff.wf_park, Eff.wf_trap, Eff.wf_after, Eff.wf_fault, Eff.wf_stall, Eff.wf_poison, Eff.wf_bad]
    | with_reducible refine issue_wf _ _ _ (by assumption) (fun s hm => ?_)
    | with_reducible refine State.outside_wf _ _ (by assumption) (fun s hm => ?_)
    | with_reducible refine State.withSources_wf _ _ _ (by assumption) (fun s hm => ?_)
    | with_reducible refine State.aligned_wf _ _ _ _ (by assumption) ?_
    | with_reducible refine State.classified_wf _ _ _ _ (by assumption) (fun ps => ?_)
    | with_reducible refine State.classifiedOnce_wf _ _ _ _ (by assumption) (fun ps => ?_)
    | with_reducible refine State.leafProt_wf _ _ _ _ (by assumption) ?_
    | with_reducible refine State.accepted_wf _ _ _ _ (by assumption) ?_
    | with_reducible refine State.inScratch_wf _ _ _ (by assumption) ?_
    | with_reducible refine State.mqWord_wf _ _ _ _ (by assumption) (fun s qs hm => ?_)
    | with_reducible refine State.phaserWord_wf _ _ _ _ (by assumption) (fun s h hm => ?_)
    | split
    | (simp (maxDischargeDepth := 30) +contextual [*]; done)
    | dsimp only

@[simp] theorem execRngw_wf (a : RegNo) (b : RegNo) (s : State) (hm : Memory.wf s.mem = true) : outWf (execRngw a b s) := by
  unfold execRngw
  repeat' first
    | with_reducible assumption
    | with_reducible exact True.intro
    | simp only [Eff.wf_ok, Eff.wf_jump, Eff.wf_park, Eff.wf_trap, Eff.wf_after, Eff.wf_fault, Eff.wf_stall, Eff.wf_poison, Eff.wf_bad]
    | with_reducible refine issue_wf _ _ _ (by assumption) (fun s hm => ?_)
    | with_reducible refine State.outside_wf _ _ (by assumption) (fun s hm => ?_)
    | with_reducible refine State.withSources_wf _ _ _ (by assumption) (fun s hm => ?_)
    | with_reducible refine State.aligned_wf _ _ _ _ (by assumption) ?_
    | with_reducible refine State.classified_wf _ _ _ _ (by assumption) (fun ps => ?_)
    | with_reducible refine State.classifiedOnce_wf _ _ _ _ (by assumption) (fun ps => ?_)
    | with_reducible refine State.leafProt_wf _ _ _ _ (by assumption) ?_
    | with_reducible refine State.accepted_wf _ _ _ _ (by assumption) ?_
    | with_reducible refine State.inScratch_wf _ _ _ (by assumption) ?_
    | with_reducible refine State.mqWord_wf _ _ _ _ (by assumption) (fun s qs hm => ?_)
    | with_reducible refine State.phaserWord_wf _ _ _ _ (by assumption) (fun s h hm => ?_)
    | split
    | (simp (maxDischargeDepth := 30) +contextual [*]; done)
    | dsimp only

@[simp] theorem execRngs_wf (a : RegNo) (b : RegNo) (s : State) (hm : Memory.wf s.mem = true) : outWf (execRngs a b s) := by
  unfold execRngs
  repeat' first
    | with_reducible assumption
    | with_reducible exact True.intro
    | simp only [Eff.wf_ok, Eff.wf_jump, Eff.wf_park, Eff.wf_trap, Eff.wf_after, Eff.wf_fault, Eff.wf_stall, Eff.wf_poison, Eff.wf_bad]
    | with_reducible refine issue_wf _ _ _ (by assumption) (fun s hm => ?_)
    | with_reducible refine State.outside_wf _ _ (by assumption) (fun s hm => ?_)
    | with_reducible refine State.withSources_wf _ _ _ (by assumption) (fun s hm => ?_)
    | with_reducible refine State.aligned_wf _ _ _ _ (by assumption) ?_
    | with_reducible refine State.classified_wf _ _ _ _ (by assumption) (fun ps => ?_)
    | with_reducible refine State.classifiedOnce_wf _ _ _ _ (by assumption) (fun ps => ?_)
    | with_reducible refine State.leafProt_wf _ _ _ _ (by assumption) ?_
    | with_reducible refine State.accepted_wf _ _ _ _ (by assumption) ?_
    | with_reducible refine State.inScratch_wf _ _ _ (by assumption) ?_
    | with_reducible refine State.mqWord_wf _ _ _ _ (by assumption) (fun s qs hm => ?_)
    | with_reducible refine State.phaserWord_wf _ _ _ _ (by assumption) (fun s h hm => ?_)
    | split
    | (simp (maxDischargeDepth := 30) +contextual [*]; done)
    | dsimp only

@[simp] theorem State.phaserWord_wf (s : State) (a : RegNo) (extra : List Src) (body : State → DWord → Eff) (hm : Memory.wf s.mem = true) (hbbody : ∀ (w0 : State) (w1 : DWord), Memory.wf w0.mem = true → Eff.wf (body w0 w1)) : Eff.wf (State.phaserWord s a extra body) := by
  unfold State.phaserWord
  repeat' first
    | with_reducible assumption
    | with_reducible exact True.intro
    | simp only [Eff.wf_ok, Eff.wf_jump, Eff.wf_park, Eff.wf_trap, Eff.wf_after, Eff.wf_fault, Eff.wf_stall, Eff.wf_poison, Eff.wf_bad]
    | with_reducible refine issue_wf _ _ _ (by assumption) (fun s hm => ?_)
    | with_reducible refine State.outside_wf _ _ (by assumption) (fun s hm => ?_)
    | with_reducible refine State.withSources_wf _ _ _ (by assumption) (fun s hm => ?_)
    | with_reducible refine State.aligned_wf _ _ _ _ (by assumption) ?_
    | with_reducible refine State.classified_wf _ _ _ _ (by assumption) (fun ps => ?_)
    | with_reducible refine State.classifiedOnce_wf _ _ _ _ (by assumption) (fun ps => ?_)
    | with_reducible refine State.leafProt_wf _ _ _ _ (by assumption) ?_
    | with_reducible refine State.accepted_wf _ _ _ _ (by assumption) ?_
    | with_reducible refine State.inScratch_wf _ _ _ (by assumption) ?_
    | with_reducible refine State.mqWord_wf _ _ _ _ (by assumption) (fun s qs hm => ?_)
    | with_reducible refine State.phaserWord_wf _ _ _ _ (by assumption) (fun s h hm => ?_)
    | split
    | (simp (maxDischargeDepth := 30) +contextual [*]; done)
    | with_reducible refine hbbody _ _ ?_
    | dsimp only

@[simp] theorem State.phaseAnswer_wf (s : State) (d : RegNo) (v : Word) (hm : Memory.wf s.mem = true) : Eff.wf (State.phaseAnswer s d v) := by
  simp [State.phaseAnswer, hm]

@[simp] theorem State.signal_wf (s : State) (i : Instr) (h : DWord) (k : State → Word → Eff) (hm : Memory.wf s.mem = true) (hbk : ∀ (w0 : State) (w1 : Word), Memory.wf w0.mem = true → Eff.wf (k w0 w1)) : Eff.wf (State.signal s i h k) := by
  unfold State.signal
  repeat' first
    | with_reducible assumption
    | with_reducible exact True.intro
    | simp only [Eff.wf_ok, Eff.wf_jump, Eff.wf_park, Eff.wf_trap, Eff.wf_after, Eff.wf_fault, Eff.wf_stall, Eff.wf_poison, Eff.wf_bad]
    | with_reducible refine issue_wf _ _ _ (by assumption) (fun s hm => ?_)
    | with_reducible refine State.outside_wf _ _ (by assumption) (fun s hm => ?_)
    | with_reducible refine State.withSources_wf _ _ _ (by assumption) (fun s hm => ?_)
    | with_reducible refine State.aligned_wf _ _ _ _ (by assumption) ?_
    | with_reducible refine State.classified_wf _ _ _ _ (by assumption) (fun ps => ?_)
    | with_reducible refine State.classifiedOnce_wf _ _ _ _ (by assumption) (fun ps => ?_)
    | with_reducible refine State.leafProt_wf _ _ _ _ (by assumption) ?_
    | with_reducible refine State.accepted_wf _ _ _ _ (by assumption) ?_
    | with_reducible refine State.inScratch_wf _ _ _ (by assumption) ?_
    | with_reducible refine State.mqWord_wf _ _ _ _ (by assumption) (fun s qs hm => ?_)
    | with_reducible refine State.phaserWord_wf _ _ _ _ (by assumption) (fun s h hm => ?_)
    | split
    | (simp (maxDischargeDepth := 30) +contextual [*]; done)
    | with_reducible refine hbk _ _ ?_
    | dsimp only

@[simp] theorem State.await_wf (s : State) (i : Instr) (d : RegNo) (h : DWord) (hm : Memory.wf s.mem = true) : Eff.wf (State.await s i d h) := by
  unfold State.await
  repeat' first
    | with_reducible assumption
    | with_reducible exact True.intro
    | simp only [Eff.wf_ok, Eff.wf_jump, Eff.wf_park, Eff.wf_trap, Eff.wf_after, Eff.wf_fault, Eff.wf_stall, Eff.wf_poison, Eff.wf_bad]
    | with_reducible refine issue_wf _ _ _ (by assumption) (fun s hm => ?_)
    | with_reducible refine State.outside_wf _ _ (by assumption) (fun s hm => ?_)
    | with_reducible refine State.withSources_wf _ _ _ (by assumption) (fun s hm => ?_)
    | with_reducible refine State.aligned_wf _ _ _ _ (by assumption) ?_
    | with_reducible refine State.classified_wf _ _ _ _ (by assumption) (fun ps => ?_)
    | with_reducible refine State.classifiedOnce_wf _ _ _ _ (by assumption) (fun ps => ?_)
    | with_reducible refine State.leafProt_wf _ _ _ _ (by assumption) ?_
    | with_reducible refine State.accepted_wf _ _ _ _ (by assumption) ?_
    | with_reducible refine State.inScratch_wf _ _ _ (by assumption) ?_
    | with_reducible refine State.mqWord_wf _ _ _ _ (by assumption) (fun s qs hm => ?_)
    | with_reducible refine State.phaserWord_wf _ _ _ _ (by assumption) (fun s h hm => ?_)
    | split
    | (simp (maxDischargeDepth := 30) +contextual [*]; done)
    | dsimp only

@[simp] theorem execPhreg_wf (d : RegNo) (a : RegNo) (b : RegNo) (s : State) (hm : Memory.wf s.mem = true) : outWf (execPhreg d a b s) := by
  unfold execPhreg
  repeat' first
    | with_reducible assumption
    | with_reducible exact True.intro
    | simp only [Eff.wf_ok, Eff.wf_jump, Eff.wf_park, Eff.wf_trap, Eff.wf_after, Eff.wf_fault, Eff.wf_stall, Eff.wf_poison, Eff.wf_bad]
    | with_reducible refine issue_wf _ _ _ (by assumption) (fun s hm => ?_)
    | with_reducible refine State.outside_wf _ _ (by assumption) (fun s hm => ?_)
    | with_reducible refine State.withSources_wf _ _ _ (by assumption) (fun s hm => ?_)
    | with_reducible refine State.aligned_wf _ _ _ _ (by assumption) ?_
    | with_reducible refine State.classified_wf _ _ _ _ (by assumption) (fun ps => ?_)
    | with_reducible refine State.classifiedOnce_wf _ _ _ _ (by assumption) (fun ps => ?_)
    | with_reducible refine State.leafProt_wf _ _ _ _ (by assumption) ?_
    | with_reducible refine State.accepted_wf _ _ _ _ (by assumption) ?_
    | with_reducible refine State.inScratch_wf _ _ _ (by assumption) ?_
    | with_reducible refine State.mqWord_wf _ _ _ _ (by assumption) (fun s qs hm => ?_)
    | with_reducible refine State.phaserWord_wf _ _ _ _ (by assumption) (fun s h hm => ?_)
    | split
    | (simp (maxDischargeDepth := 30) +contextual [*]; done)
    | dsimp only

@[simp] theorem execPhmode_wf (d : RegNo) (a : RegNo) (b : RegNo) (s : State) (hm : Memory.wf s.mem = true) : outWf (execPhmode d a b s) := by
  unfold execPhmode
  repeat' first
    | with_reducible assumption
    | with_reducible exact True.intro
    | simp only [Eff.wf_ok, Eff.wf_jump, Eff.wf_park, Eff.wf_trap, Eff.wf_after, Eff.wf_fault, Eff.wf_stall, Eff.wf_poison, Eff.wf_bad]
    | with_reducible refine issue_wf _ _ _ (by assumption) (fun s hm => ?_)
    | with_reducible refine State.outside_wf _ _ (by assumption) (fun s hm => ?_)
    | with_reducible refine State.withSources_wf _ _ _ (by assumption) (fun s hm => ?_)
    | with_reducible refine State.aligned_wf _ _ _ _ (by assumption) ?_
    | with_reducible refine State.classified_wf _ _ _ _ (by assumption) (fun ps => ?_)
    | with_reducible refine State.classifiedOnce_wf _ _ _ _ (by assumption) (fun ps => ?_)
    | with_reducible refine State.leafProt_wf _ _ _ _ (by assumption) ?_
    | with_reducible refine State.accepted_wf _ _ _ _ (by assumption) ?_
    | with_reducible refine State.inScratch_wf _ _ _ (by assumption) ?_
    | with_reducible refine State.mqWord_wf _ _ _ _ (by assumption) (fun s qs hm => ?_)
    | with_reducible refine State.phaserWord_wf _ _ _ _ (by assumption) (fun s h hm => ?_)
    | split
    | (simp (maxDischargeDepth := 30) +contextual [*]; done)
    | dsimp only

@[simp] theorem execPhdrop_wf (d : RegNo) (a : RegNo) (s : State) (hm : Memory.wf s.mem = true) : outWf (execPhdrop d a s) := by
  unfold execPhdrop
  repeat' first
    | with_reducible assumption
    | with_reducible exact True.intro
    | simp only [Eff.wf_ok, Eff.wf_jump, Eff.wf_park, Eff.wf_trap, Eff.wf_after, Eff.wf_fault, Eff.wf_stall, Eff.wf_poison, Eff.wf_bad]
    | with_reducible refine issue_wf _ _ _ (by assumption) (fun s hm => ?_)
    | with_reducible refine State.outside_wf _ _ (by assumption) (fun s hm => ?_)
    | with_reducible refine State.withSources_wf _ _ _ (by assumption) (fun s hm => ?_)
    | with_reducible refine State.aligned_wf _ _ _ _ (by assumption) ?_
    | with_reducible refine State.classified_wf _ _ _ _ (by assumption) (fun ps => ?_)
    | with_reducible refine State.classifiedOnce_wf _ _ _ _ (by assumption) (fun ps => ?_)
    | with_reducible refine State.leafProt_wf _ _ _ _ (by assumption) ?_
    | with_reducible refine State.accepted_wf _ _ _ _ (by assumption) ?_
    | with_reducible refine State.inScratch_wf _ _ _ (by assumption) ?_
    | with_reducible refine State.mqWord_wf _ _ _ _ (by assumption) (fun s qs hm => ?_)
    | with_reducible refine State.phaserWord_wf _ _ _ _ (by assumption) (fun s h hm => ?_)
    | split
    | (simp (maxDischargeDepth := 30) +contextual [*]; done)
    | dsimp only

@[simp] theorem execPhsig_wf (d : RegNo) (a : RegNo) (s : State) (hm : Memory.wf s.mem = true) : outWf (execPhsig d a s) := by
  unfold execPhsig
  repeat' first
    | with_reducible assumption
    | with_reducible exact True.intro
    | simp only [Eff.wf_ok, Eff.wf_jump, Eff.wf_park, Eff.wf_trap, Eff.wf_after, Eff.wf_fault, Eff.wf_stall, Eff.wf_poison, Eff.wf_bad]
    | with_reducible refine issue_wf _ _ _ (by assumption) (fun s hm => ?_)
    | with_reducible refine State.outside_wf _ _ (by assumption) (fun s hm => ?_)
    | with_reducible refine State.withSources_wf _ _ _ (by assumption) (fun s hm => ?_)
    | with_reducible refine State.aligned_wf _ _ _ _ (by assumption) ?_
    | with_reducible refine State.classified_wf _ _ _ _ (by assumption) (fun ps => ?_)
    | with_reducible refine State.classifiedOnce_wf _ _ _ _ (by assumption) (fun ps => ?_)
    | with_reducible refine State.leafProt_wf _ _ _ _ (by assumption) ?_
    | with_reducible refine State.accepted_wf _ _ _ _ (by assumption) ?_
    | with_reducible refine State.inScratch_wf _ _ _ (by assumption) ?_
    | with_reducible refine State.mqWord_wf _ _ _ _ (by assumption) (fun s qs hm => ?_)
    | with_reducible refine State.phaserWord_wf _ _ _ _ (by assumption) (fun s h hm => ?_)
    | split
    | (simp (maxDischargeDepth := 30) +contextual [*]; done)
    | dsimp only

@[simp] theorem execPhwait_wf (d : RegNo) (a : RegNo) (s : State) (hm : Memory.wf s.mem = true) : outWf (execPhwait d a s) := by
  unfold execPhwait
  repeat' first
    | with_reducible assumption
    | with_reducible exact True.intro
    | simp only [Eff.wf_ok, Eff.wf_jump, Eff.wf_park, Eff.wf_trap, Eff.wf_after, Eff.wf_fault, Eff.wf_stall, Eff.wf_poison, Eff.wf_bad]
    | with_reducible refine issue_wf _ _ _ (by assumption) (fun s hm => ?_)
    | with_reducible refine State.outside_wf _ _ (by assumption) (fun s hm => ?_)
    | with_reducible refine State.withSources_wf _ _ _ (by assumption) (fun s hm => ?_)
    | with_reducible refine State.aligned_wf _ _ _ _ (by assumption) ?_
    | with_reducible refine State.classified_wf _ _ _ _ (by assumption) (fun ps => ?_)
    | with_reducible refine State.classifiedOnce_wf _ _ _ _ (by assumption) (fun ps => ?_)
    | with_reducible refine State.leafProt_wf _ _ _ _ (by assumption) ?_
    | with_reducible refine State.accepted_wf _ _ _ _ (by assumption) ?_
    | with_reducible refine State.inScratch_wf _ _ _ (by assumption) ?_
    | with_reducible refine State.mqWord_wf _ _ _ _ (by assumption) (fun s qs hm => ?_)
    | with_reducible refine State.phaserWord_wf _ _ _ _ (by assumption) (fun s h hm => ?_)
    | split
    | (simp (maxDischargeDepth := 30) +contextual [*]; done)
    | dsimp only

@[simp] theorem execPhnext_wf (d : RegNo) (a : RegNo) (s : State) (hm : Memory.wf s.mem = true) : outWf (execPhnext d a s) := by
  unfold execPhnext
  repeat' first
    | with_reducible assumption
    | with_reducible exact True.intro
    | simp only [Eff.wf_ok, Eff.wf_jump, Eff.wf_park, Eff.wf_trap, Eff.wf_after, Eff.wf_fault, Eff.wf_stall, Eff.wf_poison, Eff.wf_bad]
    | with_reducible refine issue_wf _ _ _ (by assumption) (fun s hm => ?_)
    | with_reducible refine State.outside_wf _ _ (by assumption) (fun s hm => ?_)
    | with_reducible refine State.withSources_wf _ _ _ (by assumption) (fun s hm => ?_)
    | with_reducible refine State.aligned_wf _ _ _ _ (by assumption) ?_
    | with_reducible refine State.classified_wf _ _ _ _ (by assumption) (fun ps => ?_)
    | with_reducible refine State.classifiedOnce_wf _ _ _ _ (by assumption) (fun ps => ?_)
    | with_reducible refine State.leafProt_wf _ _ _ _ (by assumption) ?_
    | with_reducible refine State.accepted_wf _ _ _ _ (by assumption) ?_
    | with_reducible refine State.inScratch_wf _ _ _ (by assumption) ?_
    | with_reducible refine State.mqWord_wf _ _ _ _ (by assumption) (fun s qs hm => ?_)
    | with_reducible refine State.phaserWord_wf _ _ _ _ (by assumption) (fun s h hm => ?_)
    | split
    | (simp (maxDischargeDepth := 30) +contextual [*]; done)
    | dsimp only

end Sys2Proof.Machine
end

