-- ==== Sys2Proof/Laws/KeepEngines.lean ====
section
/-! SUPPORT. What the completions and the engines do to memory -/

namespace Sys2Proof.Machine

set_option Elab.async false
set_option linter.all false
set_option maxRecDepth 4000



@[simp] theorem State.addTraffic_mem (s : State) (bs : List Byte) : (State.addTraffic s bs).mem = s.mem := by
  simp [State.addTraffic]

@[simp] theorem State.holdTraffic_mem (s : State) (hall : Nat) (slot : Nat) (n : Nat) (bs : List Byte) : (State.holdTraffic s hall slot n bs).mem = s.mem := by
  rfl

@[simp] theorem State.discardLine_wf (s : State) (line : Nat) (hm : Memory.wf s.mem = true) : Memory.wf (State.discardLine s line).mem = true := by
  simp [State.discardLine, hm]

@[simp] theorem State.finishLoad_wf (s : State) (g : Group) (n : Nat) (o : Outst) (hm : Memory.wf s.mem = true) : Memory.wf (State.finishLoad s g n o).mem = true := by
  unfold State.finishLoad
  repeat' first
    | with_reducible exact hm
    | dsimp only
    | split
    | (simp (maxDischargeDepth := 30) +contextual [*, State.foldl_mem, State.foldl_wf]; done)

@[simp] theorem execLoadReturn_wf (hall : Nat) (slot : Nat) (n : Nat) (k : Nat) (s : State) (hm : Memory.wf s.mem = true) : outWf (execLoadReturn hall slot n k s) := by
  unfold execLoadReturn
  repeat' first
    | with_reducible assumption
    | with_reducible exact True.intro
    | simp only [outWf_next, Eff.wf_ok, Eff.wf_jump, Eff.wf_park, Eff.wf_trap, Eff.wf_after, Eff.wf_fault, Eff.wf_stall, Eff.wf_poison, Eff.wf_bad]
    | with_reducible refine issue_wf _ _ _ (by assumption) (fun s hm => ?_)
    | with_reducible refine State.outside_wf _ _ (by assumption) (fun s hm => ?_)
    | with_reducible refine State.withSources_wf _ _ _ (by assumption) (fun s hm => ?_)
    | with_reducible refine State.aligned_wf _ _ _ _ (by assumption) ?_
    | with_reducible refine State.classified_wf _ _ _ _ (by assumption) (fun ps => ?_)
    | with_reducible refine State.classifiedAll_wf _ _ _ (by assumption) (fun ps => ?_)
    | with_reducible refine State.classifiedOnce_wf _ _ _ _ (by assumption) (fun ps => ?_)
    | with_reducible refine State.leafProt_wf _ _ _ _ (by assumption) ?_
    | with_reducible refine State.accepted_wf _ _ _ _ (by assumption) ?_
    | with_reducible refine State.inScratch_wf _ _ _ (by assumption) ?_
    | split
    | (simp (maxDischargeDepth := 30) +contextual [*]; done)
    | dsimp only

@[simp] theorem State.finishStore_wf (s : State) (g : Group) (n : Nat) (o : Outst) (ks : List Nat) (hm : Memory.wf s.mem = true) : Memory.wf (State.finishStore s g n o ks).mem = true := by
  unfold State.finishStore; repeat' split
  all_goals first | exact hm | (simp (maxDischargeDepth := 30) +contextual [*, State.foldl_mem, State.foldl_wf]; done)

@[simp] theorem execStorePerformed_wf (hall : Nat) (slot : Nat) (n : Nat) (k : Nat) (s : State) (hm : Memory.wf s.mem = true) : outWf (execStorePerformed hall slot n k s) := by
  unfold execStorePerformed
  repeat' first
    | with_reducible assumption
    | with_reducible exact True.intro
    | simp only [outWf_next, Eff.wf_ok, Eff.wf_jump, Eff.wf_park, Eff.wf_trap, Eff.wf_after, Eff.wf_fault, Eff.wf_stall, Eff.wf_poison, Eff.wf_bad]
    | with_reducible refine issue_wf _ _ _ (by assumption) (fun s hm => ?_)
    | with_reducible refine State.outside_wf _ _ (by assumption) (fun s hm => ?_)
    | with_reducible refine State.withSources_wf _ _ _ (by assumption) (fun s hm => ?_)
    | with_reducible refine State.aligned_wf _ _ _ _ (by assumption) ?_
    | with_reducible refine State.classified_wf _ _ _ _ (by assumption) (fun ps => ?_)
    | with_reducible refine State.classifiedAll_wf _ _ _ (by assumption) (fun ps => ?_)
    | with_reducible refine State.classifiedOnce_wf _ _ _ _ (by assumption) (fun ps => ?_)
    | with_reducible refine State.leafProt_wf _ _ _ _ (by assumption) ?_
    | with_reducible refine State.accepted_wf _ _ _ _ (by assumption) ?_
    | with_reducible refine State.inScratch_wf _ _ _ (by assumption) ?_
    | split
    | (simp (maxDischargeDepth := 30) +contextual [*]; done)
    | dsimp only

@[simp] theorem State.atomicPart_wf (s : State) (g : Group) (o : Outst) (op : AtomicOp) (n : Nat) (p : LanePart) (hm : Memory.wf s.mem = true) : Memory.wf (State.atomicPart s g o op n p).2.2.2.mem = true := by
  unfold State.atomicPart; repeat' split
  all_goals first | exact hm | (simp (maxDischargeDepth := 30) +contextual [*, State.foldl_mem, State.foldl_wf]; done)

@[simp] theorem State.atomicLanes_wf (s : State) (g : Group) (o : Outst) (op : AtomicOp) (n : Nat) (ks : List Nat) (hm : Memory.wf s.mem = true) : Memory.wf (State.atomicLanes s g o op n ks).2.mem = true := by
  unfold State.atomicLanes
  refine State.foldl_pair_wf (fun x : Outst × State => x.2) _ _ (fun r p h => ?_) _ hm
  dsimp only
  split
  · exact State.atomicPart_wf _ _ _ _ _ _ h
  · exact h

@[simp] theorem State.openRound_wf (s : State) (g : Group) (round : Nat) (o : Outst) (incr : DWord) (hm : Memory.wf s.mem = true) : Memory.wf (State.openRound s g round o incr).mem = true := by
  unfold State.openRound
  repeat' first
    | with_reducible exact hm
    | dsimp only
    | split
    | (simp (maxDischargeDepth := 30) +contextual [*, State.foldl_mem, State.foldl_wf]; done)

@[simp] theorem State.closeRounds_mem (s : State) (c : Nat) (seq : Nat) (i : Nat) : (State.closeRounds s c seq i).mem = s.mem := by
  rfl

@[simp] theorem State.finishTicket_wf (s : State) (g : Group) (n : Nat) (o : Outst) (round : Nat) (opener : Bool) (incr : DWord) (d : Nat) (hm : Memory.wf s.mem = true) : Memory.wf (State.finishTicket s g n o round opener incr d).mem = true := by
  unfold State.finishTicket
  repeat' first
    | with_reducible exact hm
    | dsimp only
    | split
    | (simp (maxDischargeDepth := 30) +contextual [*, State.foldl_mem, State.foldl_wf]; done)

@[simp] theorem State.depLanes_wf (s : State) (g : Group) (o : Outst) (ks : List Nat) (hm : Memory.wf s.mem = true) : Memory.wf (State.depLanes s g o ks).2.mem = true := by
  unfold State.depLanes
  refine State.foldl_pair_wf (fun x : Outst × State => x.2) _ _ (fun r p h => ?_) _ hm
  dsimp only
  split
  · exact State.addPred_wf _ _ _ _ h
  · exact h

@[simp] theorem State.finishLanes_mem (s : State) (g : Group) (n : Nat) (d : Nat) (o : Outst) (rs : LaneWords × Word) : (State.finishLanes s g n d o rs).mem = s.mem := by
  rfl

@[simp] theorem State.finishAtomic_wf (s : State) (g : Group) (n : Nat) (o : Outst) (ks : List Nat) (hm : Memory.wf s.mem = true) : Memory.wf (State.finishAtomic s g n o ks).mem = true := by
  unfold State.finishAtomic
  repeat' first
    | with_reducible exact hm
    | dsimp only
    | split
    | (simp (maxDischargeDepth := 30) +contextual [*, State.foldl_mem, State.foldl_wf]; done)

@[simp] theorem State.leave_wf (s : State) (hall : Nat) (slot : Nat) (no : Nat) (hm : Memory.wf s.mem = true) : Memory.wf (State.leave? s hall slot no).mem = true := by
  unfold State.leave?; repeat' split
  all_goals first | exact hm | (simp (maxDischargeDepth := 30) +contextual [*, State.foldl_mem, State.foldl_wf]; done)

@[simp] theorem execAtomicPerformed_wf (hall : Nat) (slot : Nat) (n : Nat) (k : Nat) (s : State) (hm : Memory.wf s.mem = true) : outWf (execAtomicPerformed hall slot n k s) := by
  unfold execAtomicPerformed
  repeat' first
    | with_reducible assumption
    | with_reducible exact True.intro
    | simp only [outWf_next, Eff.wf_ok, Eff.wf_jump, Eff.wf_park, Eff.wf_trap, Eff.wf_after, Eff.wf_fault, Eff.wf_stall, Eff.wf_poison, Eff.wf_bad]
    | with_reducible refine issue_wf _ _ _ (by assumption) (fun s hm => ?_)
    | with_reducible refine State.outside_wf _ _ (by assumption) (fun s hm => ?_)
    | with_reducible refine State.withSources_wf _ _ _ (by assumption) (fun s hm => ?_)
    | with_reducible refine State.aligned_wf _ _ _ _ (by assumption) ?_
    | with_reducible refine State.classified_wf _ _ _ _ (by assumption) (fun ps => ?_)
    | with_reducible refine State.classifiedAll_wf _ _ _ (by assumption) (fun ps => ?_)
    | with_reducible refine State.classifiedOnce_wf _ _ _ _ (by assumption) (fun ps => ?_)
    | with_reducible refine State.leafProt_wf _ _ _ _ (by assumption) ?_
    | with_reducible refine State.accepted_wf _ _ _ _ (by assumption) ?_
    | with_reducible refine State.inScratch_wf _ _ _ (by assumption) ?_
    | split
    | (simp (maxDischargeDepth := 30) +contextual [*]; done)
    | dsimp only

@[simp] theorem State.tagTiles_mem (s : State) (c : Nat) (seq : Nat) (ts : List (Nat × Nat)) (f : BitVec 5 → BitVec 5) : (State.tagTiles s c seq ts f).mem = s.mem := by
  unfold State.tagTiles; simp (maxDischargeDepth := 30) +contextual [State.foldl_mem]

@[simp] theorem State.startHall_mem (s : State) (h : Nat) : (State.startHall s h).mem = s.mem := by
  unfold State.startHall
  refine State.foldl_mem _ _ (fun s n => ?_) s
  generalize (State.hall _ h).cmds[n]? = o
  cases o with
  | none => rfl
  | some c => dsimp only; split <;> simp

@[simp] theorem State.startCmds_mem (s : State) : (State.startCmds s).mem = s.mem := by
  unfold State.startCmds; simp (maxDischargeDepth := 30) +contextual [State.foldl_mem]

@[simp] theorem State.acceptCmd_mem (s : State) (k : CmdKind) (behind : Nat) : (State.acceptCmd s k behind).mem = s.mem := by
  simp [State.acceptCmd]

@[simp] theorem State.enqueue_wf (s : State) (k : CmdKind) (behind : Nat) (hm : Memory.wf s.mem = true) : Eff.wf (State.enqueue s k behind) := by
  simp [State.enqueue, hm]

@[simp] theorem State.touchAll_wf (s : State) (ps : List Piece) (dst : List (Place × Nat)) (hm : Memory.wf s.mem = true) : Memory.wf (State.touchAll s ps dst).mem = true := by
  simp [State.touchAll, hm]

@[simp] theorem State.descBad_wf (s : State) (hm : Memory.wf s.mem = true) : Eff.wf (State.descBad s) := by
  simp [State.descBad, hm]

@[simp] theorem State.atCommand_mem (s : State) : (State.atCommand s).mem = s.mem := by
  rfl

@[simp] theorem State.engineWord_wf (s : State) (k : CmdKind) (src : List (Place × Nat)) (prot : List Piece → Option (Mask × DWord)) (behind : Nat) (hm : Memory.wf s.mem = true) : Eff.wf (State.engineWord s k src prot behind) := by
  unfold State.engineWord
  dsimp only
  split
  · exact State.descBad_wf _ hm
  · generalize hE : State.classifiedAll s _ _ = E
    have h : Eff.wf E := by
      rw [← hE]
      refine State.classifiedAll_wf _ _ _ hm (fun t ps ht => ?_)
      split
      · exact ht
      · exact State.enqueue_wf _ _ _ (State.touchAll_wf _ _ _ ht)
    cases E <;> first | exact h | (simpa using h)

@[simp] theorem State.copyWord_wf (s : State) (w : Bool) (d : RegNo) (a : RegNo) (b : RegNo) (ua : Bool) (ub : Bool) (hm : Memory.wf s.mem = true) : Eff.wf (State.copyWord s w d a b ua ub) := by
  unfold State.copyWord
  repeat' first
    | with_reducible assumption
    | with_reducible exact True.intro
    | simp only [outWf_next, Eff.wf_ok, Eff.wf_jump, Eff.wf_park, Eff.wf_trap, Eff.wf_after, Eff.wf_fault, Eff.wf_stall, Eff.wf_poison, Eff.wf_bad]
    | with_reducible refine issue_wf _ _ _ (by assumption) (fun s hm => ?_)
    | with_reducible refine State.outside_wf _ _ (by assumption) (fun s hm => ?_)
    | with_reducible refine State.withSources_wf _ _ _ (by assumption) (fun s hm => ?_)
    | with_reducible refine State.aligned_wf _ _ _ _ (by assumption) ?_
    | with_reducible refine State.classified_wf _ _ _ _ (by assumption) (fun ps => ?_)
    | with_reducible refine State.classifiedAll_wf _ _ _ (by assumption) (fun ps => ?_)
    | with_reducible refine State.classifiedOnce_wf _ _ _ _ (by assumption) (fun ps => ?_)
    | with_reducible refine State.leafProt_wf _ _ _ _ (by assumption) ?_
    | with_reducible refine State.accepted_wf _ _ _ _ (by assumption) ?_
    | with_reducible refine State.inScratch_wf _ _ _ (by assumption) ?_
    | split
    | (simp (maxDischargeDepth := 30) +contextual [*]; done)
    | dsimp only

@[simp] theorem execCpy_wf (d : RegNo) (a : RegNo) (b : RegNo) (ua : Bool) (ub : Bool) (s : State) (hm : Memory.wf s.mem = true) : outWf (execCpy d a b ua ub s) := by
  unfold execCpy
  repeat' first
    | with_reducible assumption
    | with_reducible exact True.intro
    | simp only [outWf_next, Eff.wf_ok, Eff.wf_jump, Eff.wf_park, Eff.wf_trap, Eff.wf_after, Eff.wf_fault, Eff.wf_stall, Eff.wf_poison, Eff.wf_bad]
    | with_reducible refine issue_wf _ _ _ (by assumption) (fun s hm => ?_)
    | with_reducible refine State.outside_wf _ _ (by assumption) (fun s hm => ?_)
    | with_reducible refine State.withSources_wf _ _ _ (by assumption) (fun s hm => ?_)
    | with_reducible refine State.aligned_wf _ _ _ _ (by assumption) ?_
    | with_reducible refine State.classified_wf _ _ _ _ (by assumption) (fun ps => ?_)
    | with_reducible refine State.classifiedAll_wf _ _ _ (by assumption) (fun ps => ?_)
    | with_reducible refine State.classifiedOnce_wf _ _ _ _ (by assumption) (fun ps => ?_)
    | with_reducible refine State.leafProt_wf _ _ _ _ (by assumption) ?_
    | with_reducible refine State.accepted_wf _ _ _ _ (by assumption) ?_
    | with_reducible refine State.inScratch_wf _ _ _ (by assumption) ?_
    | split
    | (simp (maxDischargeDepth := 30) +contextual [*]; done)
    | dsimp only

@[simp] theorem execCpyw_wf (d : RegNo) (a : RegNo) (b : RegNo) (ua : Bool) (ub : Bool) (s : State) (hm : Memory.wf s.mem = true) : outWf (execCpyw d a b ua ub s) := by
  unfold execCpyw
  repeat' first
    | with_reducible assumption
    | with_reducible exact True.intro
    | simp only [outWf_next, Eff.wf_ok, Eff.wf_jump, Eff.wf_park, Eff.wf_trap, Eff.wf_after, Eff.wf_fault, Eff.wf_stall, Eff.wf_poison, Eff.wf_bad]
    | with_reducible refine issue_wf _ _ _ (by assumption) (fun s hm => ?_)
    | with_reducible refine State.outside_wf _ _ (by assumption) (fun s hm => ?_)
    | with_reducible refine State.withSources_wf _ _ _ (by assumption) (fun s hm => ?_)
    | with_reducible refine State.aligned_wf _ _ _ _ (by assumption) ?_
    | with_reducible refine State.classified_wf _ _ _ _ (by assumption) (fun ps => ?_)
    | with_reducible refine State.classifiedAll_wf _ _ _ (by assumption) (fun ps => ?_)
    | with_reducible refine State.classifiedOnce_wf _ _ _ _ (by assumption) (fun ps => ?_)
    | with_reducible refine State.leafProt_wf _ _ _ _ (by assumption) ?_
    | with_reducible refine State.accepted_wf _ _ _ _ (by assumption) ?_
    | with_reducible refine State.inScratch_wf _ _ _ (by assumption) ?_
    | split
    | (simp (maxDischargeDepth := 30) +contextual [*]; done)
    | dsimp only

@[simp] theorem execCpyt_wf (d : RegNo) (a : RegNo) (b : RegNo) (ua : Bool) (ub : Bool) (s : State) (hm : Memory.wf s.mem = true) : outWf (execCpyt d a b ua ub s) := by
  unfold execCpyt
  repeat' first
    | with_reducible assumption
    | with_reducible exact True.intro
    | simp only [outWf_next, Eff.wf_ok, Eff.wf_jump, Eff.wf_park, Eff.wf_trap, Eff.wf_after, Eff.wf_fault, Eff.wf_stall, Eff.wf_poison, Eff.wf_bad]
    | with_reducible refine issue_wf _ _ _ (by assumption) (fun s hm => ?_)
    | with_reducible refine State.outside_wf _ _ (by assumption) (fun s hm => ?_)
    | with_reducible refine State.withSources_wf _ _ _ (by assumption) (fun s hm => ?_)
    | with_reducible refine State.aligned_wf _ _ _ _ (by assumption) ?_
    | with_reducible refine State.classified_wf _ _ _ _ (by assumption) (fun ps => ?_)
    | with_reducible refine State.classifiedAll_wf _ _ _ (by assumption) (fun ps => ?_)
    | with_reducible refine State.classifiedOnce_wf _ _ _ _ (by assumption) (fun ps => ?_)
    | with_reducible refine State.leafProt_wf _ _ _ _ (by assumption) ?_
    | with_reducible refine State.accepted_wf _ _ _ _ (by assumption) ?_
    | with_reducible refine State.inScratch_wf _ _ _ (by assumption) ?_
    | split
    | (simp (maxDischargeDepth := 30) +contextual [*]; done)
    | dsimp only

@[simp] theorem execCpyg_wf (d : RegNo) (a : RegNo) (b : RegNo) (ua : Bool) (ub : Bool) (s : State) (hm : Memory.wf s.mem = true) : outWf (execCpyg d a b ua ub s) := by
  unfold execCpyg
  repeat' first
    | with_reducible assumption
    | with_reducible exact True.intro
    | simp only [outWf_next, Eff.wf_ok, Eff.wf_jump, Eff.wf_park, Eff.wf_trap, Eff.wf_after, Eff.wf_fault, Eff.wf_stall, Eff.wf_poison, Eff.wf_bad]
    | with_reducible refine issue_wf _ _ _ (by assumption) (fun s hm => ?_)
    | with_reducible refine State.outside_wf _ _ (by assumption) (fun s hm => ?_)
    | with_reducible refine State.withSources_wf _ _ _ (by assumption) (fun s hm => ?_)
    | with_reducible refine State.aligned_wf _ _ _ _ (by assumption) ?_
    | with_reducible refine State.classified_wf _ _ _ _ (by assumption) (fun ps => ?_)
    | with_reducible refine State.classifiedAll_wf _ _ _ (by assumption) (fun ps => ?_)
    | with_reducible refine State.classifiedOnce_wf _ _ _ _ (by assumption) (fun ps => ?_)
    | with_reducible refine State.leafProt_wf _ _ _ _ (by assumption) ?_
    | with_reducible refine State.accepted_wf _ _ _ _ (by assumption) ?_
    | with_reducible refine State.inScratch_wf _ _ _ (by assumption) ?_
    | split
    | (simp (maxDischargeDepth := 30) +contextual [*]; done)
    | dsimp only

@[simp] theorem execDisc_wf (a : RegNo) (b : RegNo) (ua : Bool) (ub : Bool) (s : State) (hm : Memory.wf s.mem = true) : outWf (execDisc a b ua ub s) := by
  unfold execDisc
  repeat' first
    | with_reducible assumption
    | with_reducible exact True.intro
    | simp only [outWf_next, Eff.wf_ok, Eff.wf_jump, Eff.wf_park, Eff.wf_trap, Eff.wf_after, Eff.wf_fault, Eff.wf_stall, Eff.wf_poison, Eff.wf_bad]
    | with_reducible refine issue_wf _ _ _ (by assumption) (fun s hm => ?_)
    | with_reducible refine State.outside_wf _ _ (by assumption) (fun s hm => ?_)
    | with_reducible refine State.withSources_wf _ _ _ (by assumption) (fun s hm => ?_)
    | with_reducible refine State.aligned_wf _ _ _ _ (by assumption) ?_
    | with_reducible refine State.classified_wf _ _ _ _ (by assumption) (fun ps => ?_)
    | with_reducible refine State.classifiedAll_wf _ _ _ (by assumption) (fun ps => ?_)
    | with_reducible refine State.classifiedOnce_wf _ _ _ _ (by assumption) (fun ps => ?_)
    | with_reducible refine State.leafProt_wf _ _ _ _ (by assumption) ?_
    | with_reducible refine State.accepted_wf _ _ _ _ (by assumption) ?_
    | with_reducible refine State.inScratch_wf _ _ _ (by assumption) ?_
    | split
    | (simp (maxDischargeDepth := 30) +contextual [*]; done)
    | dsimp only

@[simp] theorem execPref_wf (a : RegNo) (b : RegNo) (ua : Bool) (ub : Bool) (s : State) (hm : Memory.wf s.mem = true) : outWf (execPref a b ua ub s) := by
  unfold execPref
  repeat' first
    | with_reducible assumption
    | with_reducible exact True.intro
    | simp only [outWf_next, Eff.wf_ok, Eff.wf_jump, Eff.wf_park, Eff.wf_trap, Eff.wf_after, Eff.wf_fault, Eff.wf_stall, Eff.wf_poison, Eff.wf_bad]
    | with_reducible refine issue_wf _ _ _ (by assumption) (fun s hm => ?_)
    | with_reducible refine State.outside_wf _ _ (by assumption) (fun s hm => ?_)
    | with_reducible refine State.withSources_wf _ _ _ (by assumption) (fun s hm => ?_)
    | with_reducible refine State.aligned_wf _ _ _ _ (by assumption) ?_
    | with_reducible refine State.classified_wf _ _ _ _ (by assumption) (fun ps => ?_)
    | with_reducible refine State.classifiedAll_wf _ _ _ (by assumption) (fun ps => ?_)
    | with_reducible refine State.classifiedOnce_wf _ _ _ _ (by assumption) (fun ps => ?_)
    | with_reducible refine State.leafProt_wf _ _ _ _ (by assumption) ?_
    | with_reducible refine State.accepted_wf _ _ _ _ (by assumption) ?_
    | with_reducible refine State.inScratch_wf _ _ _ (by assumption) ?_
    | split
    | (simp (maxDischargeDepth := 30) +contextual [*]; done)
    | dsimp only

@[simp] theorem State.engineRead_wf (s : State) (i : Issuer) (p : Place) (len : Nat) (hm : Memory.wf s.mem = true) : Memory.wf (State.engineRead s i p len).2.2.mem = true := by
  unfold State.engineRead
  dsimp only
  split
  · split
    · exact hm
    · simp (maxDischargeDepth := 30) [hm]
  · refine (congrArg Memory.wf (State.watch_mem _ _ _ _ _ _ _ _ _)).trans ?_
    refine State.foldl_pair_wf (fun x : List Byte × List Bool × State => x.2.2) _ _ (fun x q h => ?_) _ hm
    try dsimp only
    split
    · exact h
    · simp (maxDischargeDepth := 30) [h]

@[simp] theorem State.engineWrite_wf (s : State) (i : Issuer) (p : Place) (bs : List Byte) (bad : List Bool) (shadow : Bool) (hm : Memory.wf s.mem = true) : Memory.wf (State.engineWrite s i p bs bad shadow).mem = true := by
  unfold State.engineWrite
  dsimp only
  split
  · split
    · exact hm
    · simp (maxDischargeDepth := 30) [hm]
  · refine (congrArg Memory.wf (State.watch_mem _ _ _ _ _ _ _ _ _)).trans ?_
    refine State.foldl_pair_wf (fun x : Nat × State => x.2) _ _ (fun x q h => ?_) _ hm
    try dsimp only
    split
    · exact h
    · simp (maxDischargeDepth := 30) [h]

@[simp] theorem State.readStream_wf (s : State) (i : Issuer) (k : CmdKind) (off : Nat) (n : Nat) (hm : Memory.wf s.mem = true) : Memory.wf (State.readStream s i k off n).2.mem = true := by
  unfold State.readStream
  refine State.foldl_pair_wf (fun x : List (Byte × Bool) × State => x.2) _ _ (fun r p h => ?_) _ hm
  dsimp only
  split
  · exact h
  · exact State.engineRead_wf _ _ _ _ h

@[simp] theorem State.discardRun_wf (s : State) (i : Issuer) (a : DWord) (n : Nat) (hm : Memory.wf s.mem = true) : Memory.wf (State.discardRun s i a n).mem = true := by
  unfold State.discardRun
  dsimp only
  rw [State.watch_mem]
  refine State.foldl_wf _ _ (fun s q h => ?_) _ hm
  split
  · exact h
  · exact State.foldl_wf _ _ (fun s n h => State.discardLine_wf _ _ h) _ h

@[simp] theorem State.workCmd_wf (s : State) (i : Issuer) (c : Cmd) (r : Nat) (w : Nat) (hm : Memory.wf s.mem = true) : Memory.wf (State.workCmd s i c r w).2.mem = true := by
  unfold State.workCmd
  have hr := fun k off n => State.readStream_wf s i k off n hm
  dsimp only
  split
  · exact hm
  · split <;> (split <;> first | exact hm | exact State.discardRun_wf _ _ _ _ hm)
  · repeat' split
    all_goals simp only [State.addTraffic_mem]
    all_goals first | exact hr _ _ _ | exact State.engineWrite_wf _ _ _ _ _ _ (hr _ _ _)

@[simp] theorem State.stepCmd_mem (s : State) (hall : Nat) (n : Nat) (c : Cmd) (c' : Cmd) : (State.stepCmd s hall n c c').mem = s.mem := by
  simp [State.stepCmd]

@[simp] theorem State.retireCmd_mem (s : State) (hall : Nat) (n : Nat) (c : Cmd) : (State.retireCmd s hall n c).mem = s.mem := by
  simp [State.retireCmd]

@[simp] theorem execCopyCommandRetire_wf (hall : Nat) (n : Nat) (r : Nat) (w : Nat) (s : State) (hm : Memory.wf s.mem = true) : outWf (execCopyCommandRetire hall n r w s) := by
  unfold execCopyCommandRetire
  repeat' first
    | with_reducible assumption
    | with_reducible exact True.intro
    | simp only [outWf_next, Eff.wf_ok, Eff.wf_jump, Eff.wf_park, Eff.wf_trap, Eff.wf_after, Eff.wf_fault, Eff.wf_stall, Eff.wf_poison, Eff.wf_bad]
    | with_reducible refine issue_wf _ _ _ (by assumption) (fun s hm => ?_)
    | with_reducible refine State.outside_wf _ _ (by assumption) (fun s hm => ?_)
    | with_reducible refine State.withSources_wf _ _ _ (by assumption) (fun s hm => ?_)
    | with_reducible refine State.aligned_wf _ _ _ _ (by assumption) ?_
    | with_reducible refine State.classified_wf _ _ _ _ (by assumption) (fun ps => ?_)
    | with_reducible refine State.classifiedAll_wf _ _ _ (by assumption) (fun ps => ?_)
    | with_reducible refine State.classifiedOnce_wf _ _ _ _ (by assumption) (fun ps => ?_)
    | with_reducible refine State.leafProt_wf _ _ _ _ (by assumption) ?_
    | with_reducible refine State.accepted_wf _ _ _ _ (by assumption) ?_
    | with_reducible refine State.inScratch_wf _ _ _ (by assumption) ?_
    | split
    | (simp (maxDischargeDepth := 30) +contextual [*]; done)
    | dsimp only

@[simp] theorem execCpygRowGather_wf (hall : Nat) (n : Nat) (s : State) (hm : Memory.wf s.mem = true) : outWf (execCpygRowGather hall n s) := by
  unfold execCpygRowGather
  repeat' first
    | with_reducible assumption
    | with_reducible exact True.intro
    | simp only [outWf_next, Eff.wf_ok, Eff.wf_jump, Eff.wf_park, Eff.wf_trap, Eff.wf_after, Eff.wf_fault, Eff.wf_stall, Eff.wf_poison, Eff.wf_bad]
    | with_reducible refine issue_wf _ _ _ (by assumption) (fun s hm => ?_)
    | with_reducible refine State.outside_wf _ _ (by assumption) (fun s hm => ?_)
    | with_reducible refine State.withSources_wf _ _ _ (by assumption) (fun s hm => ?_)
    | with_reducible refine State.aligned_wf _ _ _ _ (by assumption) ?_
    | with_reducible refine State.classified_wf _ _ _ _ (by assumption) (fun ps => ?_)
    | with_reducible refine State.classifiedAll_wf _ _ _ (by assumption) (fun ps => ?_)
    | with_reducible refine State.classifiedOnce_wf _ _ _ _ (by assumption) (fun ps => ?_)
    | with_reducible refine State.leafProt_wf _ _ _ _ (by assumption) ?_
    | with_reducible refine State.accepted_wf _ _ _ _ (by assumption) ?_
    | with_reducible refine State.inScratch_wf _ _ _ (by assumption) ?_
    | split
    | (simp (maxDischargeDepth := 30) +contextual [*]; done)
    | dsimp only

@[simp] theorem execPub_wf (a : RegNo) (ua : Bool) (s : State) (hm : Memory.wf s.mem = true) : outWf (execPub a ua s) := by
  unfold execPub
  repeat' first
    | with_reducible assumption
    | with_reducible exact True.intro
    | simp only [outWf_next, Eff.wf_ok, Eff.wf_jump, Eff.wf_park, Eff.wf_trap, Eff.wf_after, Eff.wf_fault, Eff.wf_stall, Eff.wf_poison, Eff.wf_bad]
    | with_reducible refine issue_wf _ _ _ (by assumption) (fun s hm => ?_)
    | with_reducible refine State.outside_wf _ _ (by assumption) (fun s hm => ?_)
    | with_reducible refine State.withSources_wf _ _ _ (by assumption) (fun s hm => ?_)
    | with_reducible refine State.aligned_wf _ _ _ _ (by assumption) ?_
    | with_reducible refine State.classified_wf _ _ _ _ (by assumption) (fun ps => ?_)
    | with_reducible refine State.classifiedAll_wf _ _ _ (by assumption) (fun ps => ?_)
    | with_reducible refine State.classifiedOnce_wf _ _ _ _ (by assumption) (fun ps => ?_)
    | with_reducible refine State.leafProt_wf _ _ _ _ (by assumption) ?_
    | with_reducible refine State.accepted_wf _ _ _ _ (by assumption) ?_
    | with_reducible refine State.inScratch_wf _ _ _ (by assumption) ?_
    | split
    | (simp (maxDischargeDepth := 30) +contextual [*]; done)
    | dsimp only

@[simp] theorem execPubInstant_wf (ctx : Nat) (entry : Nat) (s : State) (hm : Memory.wf s.mem = true) : outWf (execPubInstant ctx entry s) := by
  unfold execPubInstant
  repeat' first
    | with_reducible assumption
    | with_reducible exact True.intro
    | simp only [outWf_next, Eff.wf_ok, Eff.wf_jump, Eff.wf_park, Eff.wf_trap, Eff.wf_after, Eff.wf_fault, Eff.wf_stall, Eff.wf_poison, Eff.wf_bad]
    | with_reducible refine issue_wf _ _ _ (by assumption) (fun s hm => ?_)
    | with_reducible refine State.outside_wf _ _ (by assumption) (fun s hm => ?_)
    | with_reducible refine State.withSources_wf _ _ _ (by assumption) (fun s hm => ?_)
    | with_reducible refine State.aligned_wf _ _ _ _ (by assumption) ?_
    | with_reducible refine State.classified_wf _ _ _ _ (by assumption) (fun ps => ?_)
    | with_reducible refine State.classifiedAll_wf _ _ _ (by assumption) (fun ps => ?_)
    | with_reducible refine State.classifiedOnce_wf _ _ _ _ (by assumption) (fun ps => ?_)
    | with_reducible refine State.leafProt_wf _ _ _ _ (by assumption) ?_
    | with_reducible refine State.accepted_wf _ _ _ _ (by assumption) ?_
    | with_reducible refine State.inScratch_wf _ _ _ (by assumption) ?_
    | split
    | (simp (maxDischargeDepth := 30) +contextual [*]; done)
    | dsimp only

@[simp] theorem execPubRetire_wf (ctx : Nat) (entry : Nat) (s : State) (hm : Memory.wf s.mem = true) : outWf (execPubRetire ctx entry s) := by
  unfold execPubRetire
  repeat' first
    | with_reducible assumption
    | with_reducible exact True.intro
    | simp only [outWf_next, Eff.wf_ok, Eff.wf_jump, Eff.wf_park, Eff.wf_trap, Eff.wf_after, Eff.wf_fault, Eff.wf_stall, Eff.wf_poison, Eff.wf_bad]
    | with_reducible refine issue_wf _ _ _ (by assumption) (fun s hm => ?_)
    | with_reducible refine State.outside_wf _ _ (by assumption) (fun s hm => ?_)
    | with_reducible refine State.withSources_wf _ _ _ (by assumption) (fun s hm => ?_)
    | with_reducible refine State.aligned_wf _ _ _ _ (by assumption) ?_
    | with_reducible refine State.classified_wf _ _ _ _ (by assumption) (fun ps => ?_)
    | with_reducible refine State.classifiedAll_wf _ _ _ (by assumption) (fun ps => ?_)
    | with_reducible refine State.classifiedOnce_wf _ _ _ _ (by assumption) (fun ps => ?_)
    | with_reducible refine State.leafProt_wf _ _ _ _ (by assumption) ?_
    | with_reducible refine State.accepted_wf _ _ _ _ (by assumption) ?_
    | with_reducible refine State.inScratch_wf _ _ _ (by assumption) ?_
    | split
    | (simp (maxDischargeDepth := 30) +contextual [*]; done)
    | dsimp only

@[simp] theorem State.stashCommand_mem (s : State) (kind : Nat) (m : StashMap) (len : Nat) : (State.stashCommand s kind m len).mem = s.mem := by
  rfl

@[simp] theorem execSmap_wf (a : RegNo) (b : RegNo) (ua : Bool) (ub : Bool) (s : State) (hm : Memory.wf s.mem = true) : outWf (execSmap a b ua ub s) := by
  unfold execSmap
  repeat' first
    | with_reducible assumption
    | with_reducible exact True.intro
    | simp only [outWf_next, Eff.wf_ok, Eff.wf_jump, Eff.wf_park, Eff.wf_trap, Eff.wf_after, Eff.wf_fault, Eff.wf_stall, Eff.wf_poison, Eff.wf_bad]
    | with_reducible refine issue_wf _ _ _ (by assumption) (fun s hm => ?_)
    | with_reducible refine State.outside_wf _ _ (by assumption) (fun s hm => ?_)
    | with_reducible refine State.withSources_wf _ _ _ (by assumption) (fun s hm => ?_)
    | with_reducible refine State.aligned_wf _ _ _ _ (by assumption) ?_
    | with_reducible refine State.classified_wf _ _ _ _ (by assumption) (fun ps => ?_)
    | with_reducible refine State.classifiedAll_wf _ _ _ (by assumption) (fun ps => ?_)
    | with_reducible refine State.classifiedOnce_wf _ _ _ _ (by assumption) (fun ps => ?_)
    | with_reducible refine State.leafProt_wf _ _ _ _ (by assumption) ?_
    | with_reducible refine State.accepted_wf _ _ _ _ (by assumption) ?_
    | with_reducible refine State.inScratch_wf _ _ _ (by assumption) ?_
    | split
    | (simp (maxDischargeDepth := 30) +contextual [*]; done)
    | dsimp only

@[simp] theorem execSflush_wf (a : RegNo) (b : RegNo) (ua : Bool) (ub : Bool) (s : State) (hm : Memory.wf s.mem = true) : outWf (execSflush a b ua ub s) := by
  unfold execSflush
  repeat' first
    | with_reducible assumption
    | with_reducible exact True.intro
    | simp only [outWf_next, Eff.wf_ok, Eff.wf_jump, Eff.wf_park, Eff.wf_trap, Eff.wf_after, Eff.wf_fault, Eff.wf_stall, Eff.wf_poison, Eff.wf_bad]
    | with_reducible refine issue_wf _ _ _ (by assumption) (fun s hm => ?_)
    | with_reducible refine State.outside_wf _ _ (by assumption) (fun s hm => ?_)
    | with_reducible refine State.withSources_wf _ _ _ (by assumption) (fun s hm => ?_)
    | with_reducible refine State.aligned_wf _ _ _ _ (by assumption) ?_
    | with_reducible refine State.classified_wf _ _ _ _ (by assumption) (fun ps => ?_)
    | with_reducible refine State.classifiedAll_wf _ _ _ (by assumption) (fun ps => ?_)
    | with_reducible refine State.classifiedOnce_wf _ _ _ _ (by assumption) (fun ps => ?_)
    | with_reducible refine State.leafProt_wf _ _ _ _ (by assumption) ?_
    | with_reducible refine State.accepted_wf _ _ _ _ (by assumption) ?_
    | with_reducible refine State.inScratch_wf _ _ _ (by assumption) ?_
    | split
    | (simp (maxDischargeDepth := 30) +contextual [*]; done)
    | dsimp only

@[simp] theorem execSdrop_wf (a : RegNo) (ua : Bool) (s : State) (hm : Memory.wf s.mem = true) : outWf (execSdrop a ua s) := by
  unfold execSdrop
  repeat' first
    | with_reducible assumption
    | with_reducible exact True.intro
    | simp only [outWf_next, Eff.wf_ok, Eff.wf_jump, Eff.wf_park, Eff.wf_trap, Eff.wf_after, Eff.wf_fault, Eff.wf_stall, Eff.wf_poison, Eff.wf_bad]
    | with_reducible refine issue_wf _ _ _ (by assumption) (fun s hm => ?_)
    | with_reducible refine State.outside_wf _ _ (by assumption) (fun s hm => ?_)
    | with_reducible refine State.withSources_wf _ _ _ (by assumption) (fun s hm => ?_)
    | with_reducible refine State.aligned_wf _ _ _ _ (by assumption) ?_
    | with_reducible refine State.classified_wf _ _ _ _ (by assumption) (fun ps => ?_)
    | with_reducible refine State.classifiedAll_wf _ _ _ (by assumption) (fun ps => ?_)
    | with_reducible refine State.classifiedOnce_wf _ _ _ _ (by assumption) (fun ps => ?_)
    | with_reducible refine State.leafProt_wf _ _ _ _ (by assumption) ?_
    | with_reducible refine State.accepted_wf _ _ _ _ (by assumption) ?_
    | with_reducible refine State.inScratch_wf _ _ _ (by assumption) ?_
    | split
    | (simp (maxDischargeDepth := 30) +contextual [*]; done)
    | dsimp only

@[simp] theorem execStashCommandDone_wf (hall : Nat) (n : Nat) (s : State) (hm : Memory.wf s.mem = true) : outWf (execStashCommandDone hall n s) := by
  unfold execStashCommandDone
  repeat' first
    | with_reducible assumption
    | with_reducible exact True.intro
    | simp only [outWf_next, Eff.wf_ok, Eff.wf_jump, Eff.wf_park, Eff.wf_trap, Eff.wf_after, Eff.wf_fault, Eff.wf_stall, Eff.wf_poison, Eff.wf_bad]
    | with_reducible refine issue_wf _ _ _ (by assumption) (fun s hm => ?_)
    | with_reducible refine State.outside_wf _ _ (by assumption) (fun s hm => ?_)
    | with_reducible refine State.withSources_wf _ _ _ (by assumption) (fun s hm => ?_)
    | with_reducible refine State.aligned_wf _ _ _ _ (by assumption) ?_
    | with_reducible refine State.classified_wf _ _ _ _ (by assumption) (fun ps => ?_)
    | with_reducible refine State.classifiedAll_wf _ _ _ (by assumption) (fun ps => ?_)
    | with_reducible refine State.classifiedOnce_wf _ _ _ _ (by assumption) (fun ps => ?_)
    | with_reducible refine State.leafProt_wf _ _ _ _ (by assumption) ?_
    | with_reducible refine State.accepted_wf _ _ _ _ (by assumption) ?_
    | with_reducible refine State.inScratch_wf _ _ _ (by assumption) ?_
    | split
    | (simp (maxDischargeDepth := 30) +contextual [*]; done)
    | dsimp only

end Sys2Proof.Machine
end

