-- ==== Sys2Proof/Laws/KeepTraces.lean ====
section
/-! SUPPORT. What fetching, observation, commits and propagation do to memory -/

namespace Sys2Proof.Machine

set_option Elab.async false
set_option linter.all false
set_option maxRecDepth 4000



@[simp] theorem State.ringWrite_wf (s : State) (c : Nat) (base : Nat) (size : Nat) (at_ : Nat) (bs : List Byte) (hm : Memory.wf s.mem = true) : Memory.wf (State.ringWrite s c base size at_ bs).mem = true := by
  simp [State.ringWrite, hm]

@[simp] theorem State.traceRecord_wf (s : State) (bs : List Byte) (hm : Memory.wf s.mem = true) : Memory.wf (State.traceRecord s bs).mem = true := by
  unfold State.traceRecord; repeat' split
  all_goals first | exact hm | (simp (maxDischargeDepth := 30) +contextual [*, State.foldl_mem, State.foldl_wf]; done)

@[simp] theorem State.traceSync_wf (s : State) (hm : Memory.wf s.mem = true) : Memory.wf (State.traceSync s).mem = true := by
  unfold State.traceSync; repeat' split
  all_goals first | exact hm | (simp (maxDischargeDepth := 30) +contextual [*, State.foldl_mem, State.foldl_wf]; done)

@[simp] theorem State.traceBranch_wf (s : State) (g : Group) (m : Mask) (pc : Word) (i : Instr) (hm : Memory.wf s.mem = true) : Memory.wf (State.traceBranch s g m pc i).mem = true := by
  unfold State.traceBranch
  split
  · exact hm
  · extract_lets branch indirect
    have hb : ∀ w, Memory.wf (branch w).mem = true := fun w => by
      show Memory.wf (State.mem (ite _ _ _)) = true
      split
      · exact State.traceRecord_wf _ _ hm
      · exact State.traceRecord_wf _ _ hm
    have hi : ∀ a u r, Memory.wf (indirect a u r).mem = true := fun a u r => State.traceRecord_wf _ _ hm
    clear_value branch indirect
    cases i <;> first | exact hm | exact hb _ | exact hi _ _ _ | exact State.traceRecord_wf _ _ hm

@[simp] theorem State.putSample_wf (s : State) (c : Nat) (d : Debug) (bs : List Byte) (hm : Memory.wf s.mem = true) : Memory.wf (State.putSample s c d bs).mem = true := by
  simp [State.putSample, hm]

@[simp] theorem execRcmt_wf (s : State) (hm : Memory.wf s.mem = true) : outWf (execRcmt s) := by
  unfold execRcmt
  repeat' first
    | with_reducible assumption
    | with_reducible exact True.intro
    | simp only [outWf_next, Eff.wf_ok, Eff.wf_jump, Eff.wf_park, Eff.wf_trap, Eff.wf_after, Eff.wf_fault, Eff.wf_stall, Eff.wf_poison, Eff.wf_bad]
    | with_reducible refine issue_wf _ _ _ (by assumption) (fun s hm => ?_)
    | with_reducible refine State.outside_wf _ _ (by assumption) (fun s hm => ?_)
    | with_reducible refine State.withSources_wf _ _ _ (by assumption) (fun s hm => ?_)
    | with_reducible refine State.aligned_wf _ _ _ _ (by assumption) ?_
    | with_reducible refine State.classified_wf _ _ _ _ (by assumption) (fun ps => ?_)
    | with_reducible refine State.classifiedAll_wf _ _ _ (by assumption) (fun ps => ?_)
    | with_reducible refine State.classifiedOnce_wf _ _ _ _ (by assumption) (fun ps => ?_)
    | with_reducible refine State.leafProt_wf _ _ _ _ (by assumption) ?_
    | with_reducible refine State.accepted_wf _ _ _ _ (by assumption) ?_
    | with_reducible refine State.inScratch_wf _ _ _ (by assumption) ?_
    | split
    | (simp (maxDischargeDepth := 30) +contextual [*]; done)
    | dsimp only

@[simp] theorem State.freshBytes_wf (s : State) (g : Group) (va : Nat) (n : Nat) (hm : Memory.wf s.mem = true) : Memory.wf (State.freshBytes s g va n).2.mem = true := by
  unfold State.freshBytes; repeat' split
  all_goals first | exact hm | (simp (maxDischargeDepth := 30) +contextual [*, State.foldl_mem, State.foldl_wf]; done)

@[simp] theorem State.writeOn_wf (s : State) (l : Nat) (k : Nat) (pc : Word) (hm : Memory.wf s.mem = true) : Memory.wf (State.writeOn s l k pc).mem = true := by
  simp [State.writeOn, hm]

@[simp] theorem State.commitLane_wf (s : State) (l : Nat) (k : Nat) (pc : Word) (hm : Memory.wf s.mem = true) : Memory.wf (State.commitLane s l k pc).mem = true := by
  unfold State.commitLane
  repeat' first
    | with_reducible exact hm
    | dsimp only
    | split
    | (simp (maxDischargeDepth := 30) +contextual [*, State.foldl_mem, State.foldl_wf]; done)

@[simp] theorem execCommitOutcome_wf (hall : Nat) (slot : Nat) (k : Nat) (s : State) (hm : Memory.wf s.mem = true) : outWf (execCommitOutcome hall slot k s) := by
  unfold execCommitOutcome; repeat' split
  all_goals first | trivial | exact hm | (simp (maxDischargeDepth := 30) +contextual [*, State.foldl_mem, State.foldl_wf]; done)

@[simp] theorem execCommitTimeout_wf (hall : Nat) (slot : Nat) (lane : Nat) (s : State) (hm : Memory.wf s.mem = true) : outWf (execCommitTimeout hall slot lane s) := by
  unfold execCommitTimeout
  repeat' first
    | with_reducible assumption
    | with_reducible exact True.intro
    | simp only [outWf_next, Eff.wf_ok, Eff.wf_jump, Eff.wf_park, Eff.wf_trap, Eff.wf_after, Eff.wf_fault, Eff.wf_stall, Eff.wf_poison, Eff.wf_bad]
    | with_reducible refine issue_wf _ _ _ (by assumption) (fun s hm => ?_)
    | with_reducible refine State.outside_wf _ _ (by assumption) (fun s hm => ?_)
    | with_reducible refine State.withSources_wf _ _ _ (by assumption) (fun s hm => ?_)
    | with_reducible refine State.aligned_wf _ _ _ _ (by assumption) ?_
    | with_reducible refine State.classified_wf _ _ _ _ (by assumption) (fun ps => ?_)
    | with_reducible refine State.classifiedAll_wf _ _ _ (by assumption) (fun ps => ?_)
    | with_reducible refine State.classifiedOnce_wf _ _ _ _ (by assumption) (fun ps => ?_)
    | with_reducible refine State.leafProt_wf _ _ _ _ (by assumption) ?_
    | with_reducible refine State.accepted_wf _ _ _ _ (by assumption) ?_
    | with_reducible refine State.inScratch_wf _ _ _ (by assumption) ?_
    | split
    | (simp (maxDischargeDepth := 30) +contextual [*]; done)
    | dsimp only

@[simp] theorem State.arenaWord_wf (s : State) (a : RegNo) (more : List Src) (k : State → Nat → DWord → Eff) (hm : Memory.wf s.mem = true) (hbk : ∀ (w0 : State) (w1 : Nat) (w2 : DWord), Memory.wf w0.mem = true → Eff.wf (k w0 w1 w2)) : Eff.wf (State.arenaWord s a more k) := by
  unfold State.arenaWord
  repeat' first
    | with_reducible assumption
    | with_reducible exact True.intro
    | simp only [outWf_next, Eff.wf_ok, Eff.wf_jump, Eff.wf_park, Eff.wf_trap, Eff.wf_after, Eff.wf_fault, Eff.wf_stall, Eff.wf_poison, Eff.wf_bad]
    | with_reducible refine issue_wf _ _ _ (by assumption) (fun s hm => ?_)
    | with_reducible refine State.outside_wf _ _ (by assumption) (fun s hm => ?_)
    | with_reducible refine State.withSources_wf _ _ _ (by assumption) (fun s hm => ?_)
    | with_reducible refine State.aligned_wf _ _ _ _ (by assumption) ?_
    | with_reducible refine State.classified_wf _ _ _ _ (by assumption) (fun ps => ?_)
    | with_reducible refine State.classifiedAll_wf _ _ _ (by assumption) (fun ps => ?_)
    | with_reducible refine State.classifiedOnce_wf _ _ _ _ (by assumption) (fun ps => ?_)
    | with_reducible refine State.leafProt_wf _ _ _ _ (by assumption) ?_
    | with_reducible refine State.accepted_wf _ _ _ _ (by assumption) ?_
    | with_reducible refine State.inScratch_wf _ _ _ (by assumption) ?_
    | split
    | (simp (maxDischargeDepth := 30) +contextual [*]; done)
    | with_reducible refine hbk _ _ _ ?_
    | dsimp only

@[simp] theorem execProp_wf (d : RegNo) (a : RegNo) (s : State) (hm : Memory.wf s.mem = true) : outWf (execProp d a s) := by
  unfold execProp
  repeat' first
    | with_reducible assumption
    | with_reducible exact True.intro
    | simp only [outWf_next, Eff.wf_ok, Eff.wf_jump, Eff.wf_park, Eff.wf_trap, Eff.wf_after, Eff.wf_fault, Eff.wf_stall, Eff.wf_poison, Eff.wf_bad]
    | with_reducible refine issue_wf _ _ _ (by assumption) (fun s hm => ?_)
    | with_reducible refine State.outside_wf _ _ (by assumption) (fun s hm => ?_)
    | with_reducible refine State.withSources_wf _ _ _ (by assumption) (fun s hm => ?_)
    | with_reducible refine State.aligned_wf _ _ _ _ (by assumption) ?_
    | with_reducible refine State.classified_wf _ _ _ _ (by assumption) (fun ps => ?_)
    | with_reducible refine State.classifiedAll_wf _ _ _ (by assumption) (fun ps => ?_)
    | with_reducible refine State.classifiedOnce_wf _ _ _ _ (by assumption) (fun ps => ?_)
    | with_reducible refine State.leafProt_wf _ _ _ _ (by assumption) ?_
    | with_reducible refine State.accepted_wf _ _ _ _ (by assumption) ?_
    | with_reducible refine State.inScratch_wf _ _ _ (by assumption) ?_
    | split
    | (simp (maxDischargeDepth := 30) +contextual [*]; done)
    | dsimp only

@[simp] theorem execPropAnswer_wf (hall : Nat) (slot : Nat) (s : State) (hm : Memory.wf s.mem = true) : outWf (execPropAnswer hall slot s) := by
  unfold execPropAnswer
  repeat' first
    | with_reducible assumption
    | with_reducible exact True.intro
    | simp only [outWf_next, Eff.wf_ok, Eff.wf_jump, Eff.wf_park, Eff.wf_trap, Eff.wf_after, Eff.wf_fault, Eff.wf_stall, Eff.wf_poison, Eff.wf_bad]
    | with_reducible refine issue_wf _ _ _ (by assumption) (fun s hm => ?_)
    | with_reducible refine State.outside_wf _ _ (by assumption) (fun s hm => ?_)
    | with_reducible refine State.withSources_wf _ _ _ (by assumption) (fun s hm => ?_)
    | with_reducible refine State.aligned_wf _ _ _ _ (by assumption) ?_
    | with_reducible refine State.classified_wf _ _ _ _ (by assumption) (fun ps => ?_)
    | with_reducible refine State.classifiedAll_wf _ _ _ (by assumption) (fun ps => ?_)
    | with_reducible refine State.classifiedOnce_wf _ _ _ _ (by assumption) (fun ps => ?_)
    | with_reducible refine State.leafProt_wf _ _ _ _ (by assumption) ?_
    | with_reducible refine State.accepted_wf _ _ _ _ (by assumption) ?_
    | with_reducible refine State.inScratch_wf _ _ _ (by assumption) ?_
    | split
    | (simp (maxDischargeDepth := 30) +contextual [*]; done)
    | dsimp only

@[simp] theorem execPropagationComplete_wf (ctx : Nat) (arena : DWord) (s : State) (hm : Memory.wf s.mem = true) : outWf (execPropagationComplete ctx arena s) := by
  unfold execPropagationComplete; repeat' split
  all_goals first | trivial | exact hm | (simp (maxDischargeDepth := 30) +contextual [*, State.foldl_mem, State.foldl_wf]; done)

@[simp] theorem execStaleTaskRestart_wf (ctx : Nat) (seq : Nat) (s : State) (hm : Memory.wf s.mem = true) : outWf (execStaleTaskRestart ctx seq s) := by
  unfold execStaleTaskRestart
  repeat' first
    | with_reducible assumption
    | with_reducible exact True.intro
    | simp only [outWf_next, Eff.wf_ok, Eff.wf_jump, Eff.wf_park, Eff.wf_trap, Eff.wf_after, Eff.wf_fault, Eff.wf_stall, Eff.wf_poison, Eff.wf_bad]
    | with_reducible refine issue_wf _ _ _ (by assumption) (fun s hm => ?_)
    | with_reducible refine State.outside_wf _ _ (by assumption) (fun s hm => ?_)
    | with_reducible refine State.withSources_wf _ _ _ (by assumption) (fun s hm => ?_)
    | with_reducible refine State.aligned_wf _ _ _ _ (by assumption) ?_
    | with_reducible refine State.classified_wf _ _ _ _ (by assumption) (fun ps => ?_)
    | with_reducible refine State.classifiedAll_wf _ _ _ (by assumption) (fun ps => ?_)
    | with_reducible refine State.classifiedOnce_wf _ _ _ _ (by assumption) (fun ps => ?_)
    | with_reducible refine State.leafProt_wf _ _ _ _ (by assumption) ?_
    | with_reducible refine State.accepted_wf _ _ _ _ (by assumption) ?_
    | with_reducible refine State.inScratch_wf _ _ _ (by assumption) ?_
    | split
    | (simp (maxDischargeDepth := 30) +contextual [*]; done)
    | dsimp only

@[simp] theorem State.enableTrace_wf (s : State) (c : Nat) (arena : DWord) (hm : Memory.wf s.mem = true) : Memory.wf (State.enableTrace s c arena).2.mem = true := by
  unfold State.enableTrace; repeat' split
  all_goals first | exact hm | (simp (maxDischargeDepth := 30) +contextual [*, State.foldl_mem, State.foldl_wf]; done)

@[simp] theorem State.freeTrace_mem (s : State) (c : Nat) (arena : DWord) : (State.freeTrace s c arena).2.mem = s.mem := by
  unfold State.freeTrace; repeat' split
  all_goals first | rfl | (simp (maxDischargeDepth := 30) +contextual [*, State.foldl_mem]; done)

@[simp] theorem execTrctl_wf (d : RegNo) (a : RegNo) (b : RegNo) (s : State) (hm : Memory.wf s.mem = true) : outWf (execTrctl d a b s) := by
  unfold execTrctl
  refine issue_wf _ _ _ hm (fun s hm => State.arenaWord_wf _ _ _ _ hm (fun s l0 arena hm => ?_))
  dsimp only
  split
  · exact hm
  · refine State.classified_wf _ _ _ _ hm (fun t ps ht => ?_)
    have h : Memory.wf (State.endRegion (State.touch t t.g.hall t.g.ctx true ps)).mem = true := by simp [ht]
    revert h
    generalize State.endRegion (State.touch t t.g.hall t.g.ctx true ps) = u
    intro h
    split
    · exact ht
    · split
      · simp [h]
      · split <;> simp [h]

@[simp] theorem execTkey_wf (d : RegNo) (s : State) (hm : Memory.wf s.mem = true) : outWf (execTkey d s) := by
  unfold execTkey
  repeat' first
    | with_reducible assumption
    | with_reducible exact True.intro
    | simp only [outWf_next, Eff.wf_ok, Eff.wf_jump, Eff.wf_park, Eff.wf_trap, Eff.wf_after, Eff.wf_fault, Eff.wf_stall, Eff.wf_poison, Eff.wf_bad]
    | with_reducible refine issue_wf _ _ _ (by assumption) (fun s hm => ?_)
    | with_reducible refine State.outside_wf _ _ (by assumption) (fun s hm => ?_)
    | with_reducible refine State.withSources_wf _ _ _ (by assumption) (fun s hm => ?_)
    | with_reducible refine State.aligned_wf _ _ _ _ (by assumption) ?_
    | with_reducible refine State.classified_wf _ _ _ _ (by assumption) (fun ps => ?_)
    | with_reducible refine State.classifiedAll_wf _ _ _ (by assumption) (fun ps => ?_)
    | with_reducible refine State.classifiedOnce_wf _ _ _ _ (by assumption) (fun ps => ?_)
    | with_reducible refine State.leafProt_wf _ _ _ _ (by assumption) ?_
    | with_reducible refine State.accepted_wf _ _ _ _ (by assumption) ?_
    | with_reducible refine State.inScratch_wf _ _ _ (by assumption) ?_
    | split
    | (simp (maxDischargeDepth := 30) +contextual [*]; done)
    | dsimp only

@[simp] theorem execRelabel_wf (ctx : Nat) (arena : DWord) (keys : List KeyInterval) (s : State) (hm : Memory.wf s.mem = true) : outWf (execRelabel ctx arena keys s) := by
  unfold execRelabel
  split
  · exact hm
  · refine (outWf_next _).2 (State.foldl_wf _ _ (fun s x h => ?_) _ hm)
    cases State.task? s ctx x.seq with
    | none => exact h
    | some k =>
      exact State.putTcb_wf _ _ _ _ _ _ (State.putTcb_wf _ _ _ _ _ _
        ((congrArg Memory.wf (State.updTask_mem _ _ _ _)).trans h))

end Sys2Proof.Machine
end

