-- ==== Sys2Proof/Laws/KeepCollective.lean ====
section
/-! SUPPORT. What collectives do to memory -/

namespace Sys2Proof.Machine

set_option Elab.async false
set_option linter.all false
set_option maxRecDepth 4000



@[simp] theorem State.putColl_wf (s : State) (x : Collective) (hm : Memory.wf s.mem = true) : Memory.wf (State.putColl s x).mem = true := by
  simp [State.putColl, hm]

@[simp] theorem State.ownInput_wf (s : State) (x : Collective) (i : Nat) (hm : Memory.wf s.mem = true) : Memory.wf (State.ownInput s x i).2.mem = true := by
  unfold State.ownInput
  repeat' first
    | with_reducible exact hm
    | dsimp only
    | split
    | (simp (maxDischargeDepth := 30) +contextual [*, State.foldl_mem, State.foldl_wf]; done)

@[simp] theorem State.dropPartials_mem (s : State) (ps : List Partial) : (State.dropPartials s ps).mem = s.mem := by
  rfl

@[simp] theorem State.writeChunk_wf (s : State) (x : Collective) (i : Nat) (res : List Byte) (hm : Memory.wf s.mem = true) : Memory.wf (State.writeChunk s x i res).mem = true := by
  simp [State.writeChunk, hm]

@[simp] theorem State.landChunk_wf (s : State) (x : Collective) (i : Nat) (res : List Byte) (f : BitVec 5) (root : Bool) (hm : Memory.wf s.mem = true) : Memory.wf (State.landChunk s x i res f root).mem = true := by
  simp [State.landChunk, hm]

@[simp] theorem State.stepChunk_wf (s : State) (c : Nat) (set : Nat) (cid : Nat) (i : Nat) (hm : Memory.wf s.mem = true) : Memory.wf (State.stepChunk s c set cid i).mem = true := by
  unfold State.stepChunk
  repeat' first
    | with_reducible exact hm
    | dsimp only
    | split
    | (simp (maxDischargeDepth := 30) +contextual [*, State.foldl_mem, State.foldl_wf]; done)

@[simp] theorem State.updRelay_mem (s : State) (h : CollHead) (c : Nat) (set : Nat) (cid : Nat) (i : Nat) (f : Relay → Relay) : (State.updRelay s h c set cid i f).mem = s.mem := by
  rfl

@[simp] theorem State.stepRelay_mem (s : State) (h : CollHead) (c : Nat) (set : Nat) (cid : Nat) (i : Nat) : (State.stepRelay s h c set cid i).mem = s.mem := by
  unfold State.stepRelay
  repeat' first
    | with_reducible rfl
    | dsimp only
    | split
    | (simp (maxDischargeDepth := 30) +contextual [*, State.foldl_mem]; done)

@[simp] theorem State.startChunks_wf (s : State) (c : Nat) (set : Nat) (cid : Nat) (hm : Memory.wf s.mem = true) : Memory.wf (State.startChunks s c set cid).mem = true := by
  unfold State.startChunks; repeat' split
  all_goals first | exact hm | (simp (maxDischargeDepth := 30) +contextual [*, State.foldl_mem, State.foldl_wf]; done)

@[simp] theorem State.runCollectives_wf (s : State) (hm : Memory.wf s.mem = true) : Memory.wf (State.runCollectives s).mem = true := by
  unfold State.runCollectives; simp (maxDischargeDepth := 30) +contextual [hm, State.foldl_mem, State.foldl_wf]

@[simp] theorem State.collChecks_wf (s : State) (l0 : Nat) (status : DWord) (d : CollDesc) (k : State → List Piece → Eff) (hm : Memory.wf s.mem = true) (hbk : ∀ (w0 : State) (w1 : List Piece), Memory.wf w0.mem = true → Eff.wf (k w0 w1)) : Eff.wf (State.collChecks s l0 status d k) := by
  unfold State.collChecks
  split
  · split
    · exact hm
    · exact State.descBad_wf _ hm
  · split
    · exact hm
    · split
      · exact State.descBad_wf _ hm
      · dsimp only
        refine State.classifiedAll_wf _ _ _ hm (fun t ps ht => ?_)
        repeat' split
        all_goals first | exact ht | exact hbk _ _ ht

@[simp] theorem execColl_wf (d : RegNo) (a : RegNo) (b : RegNo) (ua : Bool) (ub : Bool) (s : State) (hm : Memory.wf s.mem = true) : outWf (execColl d a b ua ub s) := by
  unfold execColl
  repeat' first
    | with_reducible assumption
    | with_reducible exact True.intro
    | simp only [outWf_next, Eff.wf_ok, Eff.wf_jump, Eff.wf_park, Eff.wf_trap, Eff.wf_after, Eff.wf_fault, Eff.wf_stall, Eff.wf_poison, Eff.wf_bad]
    | with_reducible refine issue_wf _ _ _ (by assumption) (fun s hm => ?_)
    | with_reducible refine State.outside_wf _ _ (by assumption) (fun s hm => ?_)
    | with_reducible refine State.withSources_wf _ _ _ (by assumption) (fun s hm => ?_)
    | with_reducible refine State.aligned_wf _ _ _ _ (by assumption) ?_
    | with_reducible refine State.classified_wf _ _ _ _ (by assumption) (fun ps => ?_)
    | with_reducible refine State.classifiedAll_wf _ _ _ (by assumption) (fun ps => ?_)
    | with_reducible refine State.classifiedOnce_wf _ _ _ _ (by assumption) (fun ps => ?_)
    | with_reducible refine State.leafProt_wf _ _ _ _ (by assumption) ?_
    | with_reducible refine State.accepted_wf _ _ _ _ (by assumption) ?_
    | with_reducible refine State.inScratch_wf _ _ _ (by assumption) ?_
    | split
    | (simp (maxDischargeDepth := 30) +contextual [*]; done)
    | dsimp only

@[simp] theorem execCollAccept_wf (hall : Nat) (slot : Nat) (s : State) (hm : Memory.wf s.mem = true) : outWf (execCollAccept hall slot s) := by
  unfold execCollAccept
  split
  · exact hm
  · split
    · exact hm
    · split
      · exact hm
      · split
        · dsimp only
          split
          · exact hm
          · split
            · exact hm
            · have hr := fun c va len => State.readVirt_wf s c va len hm
              refine State.runCollectives_wf _ ?_
              rw [State.updGroup_mem]
              refine State.putColl_wf _ _ ?_
              rw [State.updPkg_mem, State.updCtx_mem]
              refine State.wf_if _ _ _ ?_ ?_
              · exact hr _ _ _
              · exact State.engineWrite_wf _ _ _ _ _ _ (hr _ _ _)
        · exact hm

@[simp] theorem execCstat_wf (d : RegNo) (a : RegNo) (b : RegNo) (ua : Bool) (ub : Bool) (s : State) (hm : Memory.wf s.mem = true) : outWf (execCstat d a b ua ub s) := by
  unfold execCstat
  repeat' first
    | with_reducible assumption
    | with_reducible exact True.intro
    | simp only [outWf_next, Eff.wf_ok, Eff.wf_jump, Eff.wf_park, Eff.wf_trap, Eff.wf_after, Eff.wf_fault, Eff.wf_stall, Eff.wf_poison, Eff.wf_bad]
    | with_reducible refine issue_wf _ _ _ (by assumption) (fun s hm => ?_)
    | with_reducible refine State.outside_wf _ _ (by assumption) (fun s hm => ?_)
    | with_reducible refine State.withSources_wf _ _ _ (by assumption) (fun s hm => ?_)
    | with_reducible refine State.aligned_wf _ _ _ _ (by assumption) ?_
    | with_reducible refine State.classified_wf _ _ _ _ (by assumption) (fun ps => ?_)
    | with_reducible refine State.classifiedAll_wf _ _ _ (by assumption) (fun ps => ?_)
    | with_reducible refine State.classifiedOnce_wf _ _ _ _ (by assumption) (fun ps => ?_)
    | with_reducible refine State.leafProt_wf _ _ _ _ (by assumption) ?_
    | with_reducible refine State.accepted_wf _ _ _ _ (by assumption) ?_
    | with_reducible refine State.inScratch_wf _ _ _ (by assumption) ?_
    | split
    | (simp (maxDischargeDepth := 30) +contextual [*]; done)
    | dsimp only

@[simp] theorem execCstatAnswer_wf (hall : Nat) (slot : Nat) (n : Nat) (s : State) (hm : Memory.wf s.mem = true) : outWf (execCstatAnswer hall slot n s) := by
  unfold execCstatAnswer
  repeat' first
    | with_reducible assumption
    | with_reducible exact True.intro
    | simp only [outWf_next, Eff.wf_ok, Eff.wf_jump, Eff.wf_park, Eff.wf_trap, Eff.wf_after, Eff.wf_fault, Eff.wf_stall, Eff.wf_poison, Eff.wf_bad]
    | with_reducible refine issue_wf _ _ _ (by assumption) (fun s hm => ?_)
    | with_reducible refine State.outside_wf _ _ (by assumption) (fun s hm => ?_)
    | with_reducible refine State.withSources_wf _ _ _ (by assumption) (fun s hm => ?_)
    | with_reducible refine State.aligned_wf _ _ _ _ (by assumption) ?_
    | with_reducible refine State.classified_wf _ _ _ _ (by assumption) (fun ps => ?_)
    | with_reducible refine State.classifiedAll_wf _ _ _ (by assumption) (fun ps => ?_)
    | with_reducible refine State.classifiedOnce_wf _ _ _ _ (by assumption) (fun ps => ?_)
    | with_reducible refine State.leafProt_wf _ _ _ _ (by assumption) ?_
    | with_reducible refine State.accepted_wf _ _ _ _ (by assumption) ?_
    | with_reducible refine State.inScratch_wf _ _ _ (by assumption) ?_
    | split
    | (simp (maxDischargeDepth := 30) +contextual [*]; done)
    | dsimp only

@[simp] theorem execPartialValueReceive_wf (ctx : Nat) (set : Nat) (cid : Nat) (chunk : Nat) (tsid : Nat) (child : Nat) (data : List Byte) (flags : BitVec 5) (head : CollHead) (s : State) (hm : Memory.wf s.mem = true) : outWf (execPartialValueReceive ctx set cid chunk tsid child data flags head s) := by
  simp [execPartialValueReceive, hm]

@[simp] theorem State.relayDown_mem (s : State) (c : Nat) (set : Nat) (cid : Nat) (chunk : Nat) (tsid : Nat) (data : List Byte) (flags : BitVec 5) : (State.relayDown s c set cid chunk tsid data flags).mem = s.mem := by
  unfold State.relayDown; repeat' split
  all_goals first | rfl | (simp (maxDischargeDepth := 30) +contextual [*, State.foldl_mem]; done)

@[simp] theorem execChunkBroadcastReceive_wf (ctx : Nat) (set : Nat) (cid : Nat) (chunk : Nat) (tsid : Nat) (data : List Byte) (flags : BitVec 5) (s : State) (hm : Memory.wf s.mem = true) : outWf (execChunkBroadcastReceive ctx set cid chunk tsid data flags s) := by
  unfold execChunkBroadcastReceive
  repeat' first
    | with_reducible assumption
    | with_reducible exact True.intro
    | simp only [outWf_next, Eff.wf_ok, Eff.wf_jump, Eff.wf_park, Eff.wf_trap, Eff.wf_after, Eff.wf_fault, Eff.wf_stall, Eff.wf_poison, Eff.wf_bad]
    | with_reducible refine issue_wf _ _ _ (by assumption) (fun s hm => ?_)
    | with_reducible refine State.outside_wf _ _ (by assumption) (fun s hm => ?_)
    | with_reducible refine State.withSources_wf _ _ _ (by assumption) (fun s hm => ?_)
    | with_reducible refine State.aligned_wf _ _ _ _ (by assumption) ?_
    | with_reducible refine State.classified_wf _ _ _ _ (by assumption) (fun ps => ?_)
    | with_reducible refine State.classifiedAll_wf _ _ _ (by assumption) (fun ps => ?_)
    | with_reducible refine State.classifiedOnce_wf _ _ _ _ (by assumption) (fun ps => ?_)
    | with_reducible refine State.leafProt_wf _ _ _ _ (by assumption) ?_
    | with_reducible refine State.accepted_wf _ _ _ _ (by assumption) ?_
    | with_reducible refine State.inScratch_wf _ _ _ (by assumption) ?_
    | split
    | (simp (maxDischargeDepth := 30) +contextual [*]; done)
    | dsimp only

@[simp] theorem State.relayAck_mem (s : State) (c : Nat) (set : Nat) (cid : Nat) (chunk : Nat) (tsid : Nat) (rank : Nat) : (State.relayAck s c set cid chunk tsid rank).mem = s.mem := by
  unfold State.relayAck; repeat' split
  all_goals first | rfl | (simp (maxDischargeDepth := 30) +contextual [*, State.foldl_mem]; done)

@[simp] theorem State.declared_wf (s : State) (x : Collective) (chunk : Nat) (hm : Memory.wf s.mem = true) : Memory.wf (State.declared s x chunk).mem = true := by
  simp [State.declared, hm]

@[simp] theorem execChunkAck_wf (ctx : Nat) (set : Nat) (cid : Nat) (chunk : Nat) (tsid : Nat) (rank : Nat) (s : State) (hm : Memory.wf s.mem = true) : outWf (execChunkAck ctx set cid chunk tsid rank s) := by
  unfold execChunkAck
  repeat' first
    | with_reducible assumption
    | with_reducible exact True.intro
    | simp only [outWf_next, Eff.wf_ok, Eff.wf_jump, Eff.wf_park, Eff.wf_trap, Eff.wf_after, Eff.wf_fault, Eff.wf_stall, Eff.wf_poison, Eff.wf_bad]
    | with_reducible refine issue_wf _ _ _ (by assumption) (fun s hm => ?_)
    | with_reducible refine State.outside_wf _ _ (by assumption) (fun s hm => ?_)
    | with_reducible refine State.withSources_wf _ _ _ (by assumption) (fun s hm => ?_)
    | with_reducible refine State.aligned_wf _ _ _ _ (by assumption) ?_
    | with_reducible refine State.classified_wf _ _ _ _ (by assumption) (fun ps => ?_)
    | with_reducible refine State.classifiedAll_wf _ _ _ (by assumption) (fun ps => ?_)
    | with_reducible refine State.classifiedOnce_wf _ _ _ _ (by assumption) (fun ps => ?_)
    | with_reducible refine State.leafProt_wf _ _ _ _ (by assumption) ?_
    | with_reducible refine State.accepted_wf _ _ _ _ (by assumption) ?_
    | with_reducible refine State.inScratch_wf _ _ _ (by assumption) ?_
    | split
    | (simp (maxDischargeDepth := 30) +contextual [*]; done)
    | dsimp only

@[simp] theorem State.endColl_wf (s : State) (x : Collective) (hm : Memory.wf s.mem = true) : Memory.wf (State.endColl s x).mem = true := by
  simp [State.endColl, hm]

@[simp] theorem execCollectiveComplete_wf (ctx : Nat) (set : Nat) (cid : Nat) (s : State) (hm : Memory.wf s.mem = true) : outWf (execCollectiveComplete ctx set cid s) := by
  unfold execCollectiveComplete
  repeat' first
    | with_reducible assumption
    | with_reducible exact True.intro
    | simp only [outWf_next, Eff.wf_ok, Eff.wf_jump, Eff.wf_park, Eff.wf_trap, Eff.wf_after, Eff.wf_fault, Eff.wf_stall, Eff.wf_poison, Eff.wf_bad]
    | with_reducible refine issue_wf _ _ _ (by assumption) (fun s hm => ?_)
    | with_reducible refine State.outside_wf _ _ (by assumption) (fun s hm => ?_)
    | with_reducible refine State.withSources_wf _ _ _ (by assumption) (fun s hm => ?_)
    | with_reducible refine State.aligned_wf _ _ _ _ (by assumption) ?_
    | with_reducible refine State.classified_wf _ _ _ _ (by assumption) (fun ps => ?_)
    | with_reducible refine State.classifiedAll_wf _ _ _ (by assumption) (fun ps => ?_)
    | with_reducible refine State.classifiedOnce_wf _ _ _ _ (by assumption) (fun ps => ?_)
    | with_reducible refine State.leafProt_wf _ _ _ _ (by assumption) ?_
    | with_reducible refine State.accepted_wf _ _ _ _ (by assumption) ?_
    | with_reducible refine State.inScratch_wf _ _ _ (by assumption) ?_
    | split
    | (simp (maxDischargeDepth := 30) +contextual [*]; done)
    | dsimp only

@[simp] theorem State.failColl_wf (s : State) (x : Collective) (cause : Nat) (hm : Memory.wf s.mem = true) : Memory.wf (State.failColl s x cause).mem = true := by
  simp [State.failColl, hm]

@[simp] theorem execCollectiveFail_wf (ctx : Nat) (set : Nat) (cid : Nat) (cause : BitVec 8) (s : State) (hm : Memory.wf s.mem = true) : outWf (execCollectiveFail ctx set cid cause s) := by
  unfold execCollectiveFail
  repeat' first
    | with_reducible assumption
    | with_reducible exact True.intro
    | simp only [outWf_next, Eff.wf_ok, Eff.wf_jump, Eff.wf_park, Eff.wf_trap, Eff.wf_after, Eff.wf_fault, Eff.wf_stall, Eff.wf_poison, Eff.wf_bad]
    | with_reducible refine issue_wf _ _ _ (by assumption) (fun s hm => ?_)
    | with_reducible refine State.outside_wf _ _ (by assumption) (fun s hm => ?_)
    | with_reducible refine State.withSources_wf _ _ _ (by assumption) (fun s hm => ?_)
    | with_reducible refine State.aligned_wf _ _ _ _ (by assumption) ?_
    | with_reducible refine State.classified_wf _ _ _ _ (by assumption) (fun ps => ?_)
    | with_reducible refine State.classifiedAll_wf _ _ _ (by assumption) (fun ps => ?_)
    | with_reducible refine State.classifiedOnce_wf _ _ _ _ (by assumption) (fun ps => ?_)
    | with_reducible refine State.leafProt_wf _ _ _ _ (by assumption) ?_
    | with_reducible refine State.accepted_wf _ _ _ _ (by assumption) ?_
    | with_reducible refine State.inScratch_wf _ _ _ (by assumption) ?_
    | split
    | (simp (maxDischargeDepth := 30) +contextual [*]; done)
    | dsimp only

@[simp] theorem execLinkDownDeclare_wf (pkg : Nat) (port : Nat) (s : State) (hm : Memory.wf s.mem = true) : outWf (execLinkDownDeclare pkg port s) := by
  unfold execLinkDownDeclare
  repeat' first
    | with_reducible assumption
    | with_reducible exact True.intro
    | simp only [outWf_next, Eff.wf_ok, Eff.wf_jump, Eff.wf_park, Eff.wf_trap, Eff.wf_after, Eff.wf_fault, Eff.wf_stall, Eff.wf_poison, Eff.wf_bad]
    | with_reducible refine issue_wf _ _ _ (by assumption) (fun s hm => ?_)
    | with_reducible refine State.outside_wf _ _ (by assumption) (fun s hm => ?_)
    | with_reducible refine State.withSources_wf _ _ _ (by assumption) (fun s hm => ?_)
    | with_reducible refine State.aligned_wf _ _ _ _ (by assumption) ?_
    | with_reducible refine State.classified_wf _ _ _ _ (by assumption) (fun ps => ?_)
    | with_reducible refine State.classifiedAll_wf _ _ _ (by assumption) (fun ps => ?_)
    | with_reducible refine State.classifiedOnce_wf _ _ _ _ (by assumption) (fun ps => ?_)
    | with_reducible refine State.leafProt_wf _ _ _ _ (by assumption) ?_
    | with_reducible refine State.accepted_wf _ _ _ _ (by assumption) ?_
    | with_reducible refine State.inScratch_wf _ _ _ (by assumption) ?_
    | split
    | (simp (maxDischargeDepth := 30) +contextual [*]; done)
    | dsimp only

@[simp] theorem execLinkTableUpdate_wf (e : LinkEntry) (s : State) (hm : Memory.wf s.mem = true) : outWf (execLinkTableUpdate e s) := by
  simp [execLinkTableUpdate, hm]

@[simp] theorem execLinkUp_wf (e : LinkEntry) (s : State) (hm : Memory.wf s.mem = true) : outWf (execLinkUp e s) := by
  simp [execLinkUp, hm]

@[simp] theorem execTreeSetRecompute_wf (trees : List (List TreeNode)) (s : State) (hm : Memory.wf s.mem = true) : outWf (execTreeSetRecompute trees s) := by
  unfold execTreeSetRecompute; simp (maxDischargeDepth := 30) +contextual [hm, State.foldl_mem, State.foldl_wf]

@[simp] theorem execDefineCollectiveSet_wf (ctx : Nat) (set : Nat) (pkgs : List Nat) (s : State) (hm : Memory.wf s.mem = true) : outWf (execDefineCollectiveSet ctx set pkgs s) := by
  simp [execDefineCollectiveSet, hm]

end Sys2Proof.Machine
end

