-- ==== Sys2Proof/Laws/KeepNewel.lean ====
section
/-! SUPPORT. What the newel firmware does to memory -/

namespace Sys2Proof.Machine

set_option Elab.async false
set_option linter.all false
set_option maxRecDepth 4000



@[simp] theorem State.markStart_wf (s : State) (t : Task) (hm : Memory.wf s.mem = true) : Memory.wf (State.markStart s t).mem = true := by
  unfold State.markStart; repeat' split
  all_goals first | exact hm | (simp (maxDischargeDepth := 30) +contextual [*, State.foldl_mem, State.foldl_wf]; done)

@[simp] theorem State.dispatchTask_wf (s : State) (t : Task) (hm : Memory.wf s.mem = true) : Memory.wf (State.dispatchTask s t).mem = true := by
  simp [State.dispatchTask, hm]

@[simp] theorem State.dispatchHead_wf (s : State) (q : Nat) (hm : Memory.wf s.mem = true) : Memory.wf (State.dispatchHead s q).mem = true := by
  unfold State.dispatchHead; repeat' split
  all_goals first | exact hm | (simp (maxDischargeDepth := 30) +contextual [*, State.foldl_mem, State.foldl_wf]; done)

@[simp] theorem execQueueVisit_wf (q : Nat) (s : State) (hm : Memory.wf s.mem = true) : outWf (execQueueVisit q s) := by
  simp [execQueueVisit, hm]

@[simp] theorem State.bindFault_mem (s : State) : (State.bindFault s).mem = s.mem := by
  rfl

@[simp] theorem State.numberGroup_wf (s : State) (c : Nat) (seq : Nat) (blk : Nat) (grp : Nat) (hm : Memory.wf s.mem = true) : Memory.wf (State.numberGroup s c seq blk grp).2.mem = true := by
  unfold State.numberGroup; repeat' split
  all_goals first | exact hm | (simp (maxDischargeDepth := 30) +contextual [*, State.foldl_mem, State.foldl_wf]; done)

@[simp] theorem State.startGang_mem (s : State) (c : Nat) (seq : Nat) (i : Nat) : (State.startGang s c seq i).mem = s.mem := by
  unfold State.startGang; repeat' split
  all_goals first | rfl | (simp (maxDischargeDepth := 30) +contextual [*, State.foldl_mem]; done)

@[simp] theorem State.addGroup_mem (s : State) (g : Group) : (State.addGroup s g).mem = s.mem := by
  simp [State.addGroup]

@[simp] theorem State.bindGroup_wf (s : State) (r : BindWrite) (t : Task) (y : Gang) (hm : Memory.wf s.mem = true) : Memory.wf (State.bindGroup s r t y).mem = true := by
  simp [State.bindGroup, hm]

@[simp] theorem State.writeBind_wf (s : State) (r : BindWrite) (hm : Memory.wf s.mem = true) : Memory.wf (State.writeBind s r).mem = true := by
  unfold State.writeBind; repeat' split
  all_goals first | exact hm | (simp (maxDischargeDepth := 30) +contextual [*, State.foldl_mem, State.foldl_wf]; done)

@[simp] theorem execBindRecordWrite_wf (r : BindWrite) (s : State) (hm : Memory.wf s.mem = true) : outWf (execBindRecordWrite r s) := by
  simp [execBindRecordWrite, hm]

@[simp] theorem State.dropGang_mem (s : State) (c : Nat) (seq : Nat) (i : Nat) (b : Nat) : (State.dropGang s c seq i b).mem = s.mem := by
  simp [State.dropGang]

@[simp] theorem State.closeSpan_mem (s : State) (b : Block) : (State.closeSpan s b).mem = s.mem := by
  rfl

@[simp] theorem execBlockRetire_wf (ctx : Nat) (seq : Nat) (blk : Nat) (s : State) (hm : Memory.wf s.mem = true) : outWf (execBlockRetire ctx seq blk s) := by
  unfold execBlockRetire
  repeat' first
    | with_reducible assumption
    | with_reducible exact True.intro
    | simp only [outWf_next, Eff.wf_ok, Eff.wf_jump, Eff.wf_park, Eff.wf_trap, Eff.wf_after, Eff.wf_fault, Eff.wf_stall, Eff.wf_poison, Eff.wf_bad]
    | with_reducible refine issue_wf _ _ _ (by assumption) (fun s hm => ?_)
    | with_reducible refine State.outside_wf _ _ (by assumption) (fun s hm => ?_)
    | with_reducible refine State.withSources_wf _ _ _ (by assumption) (fun s hm => ?_)
    | with_reducible refine State.aligned_wf _ _ _ _ (by assumption) ?_
    | with_reducible refine State.classified_wf _ _ _ _ (by assumption) (fun ps => ?_)
    | with_reducible refine State.classifiedAll_wf _ _ _ (by assumption) (fun ps => ?_)
    | with_reducible refine State.classifiedOnce_wf _ _ _ _ (by assumption) (fun ps => ?_)
    | with_reducible refine State.leafProt_wf _ _ _ _ (by assumption) ?_
    | with_reducible refine State.accepted_wf _ _ _ _ (by assumption) ?_
    | with_reducible refine State.inScratch_wf _ _ _ (by assumption) ?_
    | split
    | (simp (maxDischargeDepth := 30) +contextual [*]; done)
    | dsimp only

@[simp] theorem State.finishRecords_wf (s : State) (t : Task) (hm : Memory.wf s.mem = true) : Memory.wf (State.finishRecords s t).mem = true := by
  unfold State.finishRecords; repeat' split
  all_goals first | exact hm | (simp (maxDischargeDepth := 30) +contextual [*, State.foldl_mem, State.foldl_wf]; done)

@[simp] theorem State.writeBlockRecords_wf (s : State) (t : Task) (hm : Memory.wf s.mem = true) : Memory.wf (State.writeBlockRecords s t).mem = true := by
  unfold State.writeBlockRecords; simp (maxDischargeDepth := 30) +contextual [hm, State.foldl_mem, State.foldl_wf]

@[simp] theorem State.retireTask_wf (s : State) (t : Task) (hm : Memory.wf s.mem = true) : Memory.wf (State.retireTask s t).mem = true := by
  unfold State.retireTask; simp (maxDischargeDepth := 30) +contextual [hm, State.foldl_mem, State.foldl_wf]

@[simp] theorem execTaskRetire_wf (ctx : Nat) (seq : Nat) (s : State) (hm : Memory.wf s.mem = true) : outWf (execTaskRetire ctx seq s) := by
  unfold execTaskRetire
  repeat' first
    | with_reducible assumption
    | with_reducible exact True.intro
    | simp only [outWf_next, Eff.wf_ok, Eff.wf_jump, Eff.wf_park, Eff.wf_trap, Eff.wf_after, Eff.wf_fault, Eff.wf_stall, Eff.wf_poison, Eff.wf_bad]
    | with_reducible refine issue_wf _ _ _ (by assumption) (fun s hm => ?_)
    | with_reducible refine State.outside_wf _ _ (by assumption) (fun s hm => ?_)
    | with_reducible refine State.withSources_wf _ _ _ (by assumption) (fun s hm => ?_)
    | with_reducible refine State.aligned_wf _ _ _ _ (by assumption) ?_
    | with_reducible refine State.classified_wf _ _ _ _ (by assumption) (fun ps => ?_)
    | with_reducible refine State.classifiedAll_wf _ _ _ (by assumption) (fun ps => ?_)
    | with_reducible refine State.classifiedOnce_wf _ _ _ _ (by assumption) (fun ps => ?_)
    | with_reducible refine State.leafProt_wf _ _ _ _ (by assumption) ?_
    | with_reducible refine State.accepted_wf _ _ _ _ (by assumption) ?_
    | with_reducible refine State.inScratch_wf _ _ _ (by assumption) ?_
    | split
    | (simp (maxDischargeDepth := 30) +contextual [*]; done)
    | dsimp only

@[simp] theorem State.deliverQdead_wf (s : State) (hall : Nat) (slot : Nat) (hm : Memory.wf s.mem = true) : Memory.wf (State.deliverQdead s hall slot).mem = true := by
  unfold State.deliverQdead
  repeat' first
    | with_reducible exact hm
    | dsimp only
    | split
    | (simp (maxDischargeDepth := 30) +contextual [*, State.foldl_mem, State.foldl_wf]; done)

@[simp] theorem execQueueDeadlockSample_wf (q : Nat) (s : State) (hm : Memory.wf s.mem = true) : outWf (execQueueDeadlockSample q s) := by
  unfold execQueueDeadlockSample; simp (maxDischargeDepth := 30) +contextual [hm, State.foldl_mem, State.foldl_wf]

@[simp] theorem State.clearGang_wf (s : State) (y : Gang) (b : Nat) (hm : Memory.wf s.mem = true) : Memory.wf (State.clearGang s y b).mem = true := by
  unfold State.clearGang; simp (maxDischargeDepth := 30) +contextual [hm, State.foldl_mem, State.foldl_wf]

@[simp] theorem execGangKill_wf (ctx : Nat) (seq : Nat) (gang : Nat) (s : State) (hm : Memory.wf s.mem = true) : outWf (execGangKill ctx seq gang s) := by
  unfold execGangKill
  repeat' first
    | with_reducible assumption
    | with_reducible exact True.intro
    | simp only [outWf_next, Eff.wf_ok, Eff.wf_jump, Eff.wf_park, Eff.wf_trap, Eff.wf_after, Eff.wf_fault, Eff.wf_stall, Eff.wf_poison, Eff.wf_bad]
    | with_reducible refine issue_wf _ _ _ (by assumption) (fun s hm => ?_)
    | with_reducible refine State.outside_wf _ _ (by assumption) (fun s hm => ?_)
    | with_reducible refine State.withSources_wf _ _ _ (by assumption) (fun s hm => ?_)
    | with_reducible refine State.aligned_wf _ _ _ _ (by assumption) ?_
    | with_reducible refine State.classified_wf _ _ _ _ (by assumption) (fun ps => ?_)
    | with_reducible refine State.classifiedAll_wf _ _ _ (by assumption) (fun ps => ?_)
    | with_reducible refine State.classifiedOnce_wf _ _ _ _ (by assumption) (fun ps => ?_)
    | with_reducible refine State.leafProt_wf _ _ _ _ (by assumption) ?_
    | with_reducible refine State.accepted_wf _ _ _ _ (by assumption) ?_
    | with_reducible refine State.inScratch_wf _ _ _ (by assumption) ?_
    | split
    | (simp (maxDischargeDepth := 30) +contextual [*]; done)
    | dsimp only

@[simp] theorem execRegionRestart_wf (hall : Nat) (slot : Nat) (s : State) (hm : Memory.wf s.mem = true) : outWf (execRegionRestart hall slot s) := by
  unfold execRegionRestart
  repeat' first
    | with_reducible assumption
    | with_reducible exact True.intro
    | simp only [outWf_next, Eff.wf_ok, Eff.wf_jump, Eff.wf_park, Eff.wf_trap, Eff.wf_after, Eff.wf_fault, Eff.wf_stall, Eff.wf_poison, Eff.wf_bad]
    | with_reducible refine issue_wf _ _ _ (by assumption) (fun s hm => ?_)
    | with_reducible refine State.outside_wf _ _ (by assumption) (fun s hm => ?_)
    | with_reducible refine State.withSources_wf _ _ _ (by assumption) (fun s hm => ?_)
    | with_reducible refine State.aligned_wf _ _ _ _ (by assumption) ?_
    | with_reducible refine State.classified_wf _ _ _ _ (by assumption) (fun ps => ?_)
    | with_reducible refine State.classifiedAll_wf _ _ _ (by assumption) (fun ps => ?_)
    | with_reducible refine State.classifiedOnce_wf _ _ _ _ (by assumption) (fun ps => ?_)
    | with_reducible refine State.leafProt_wf _ _ _ _ (by assumption) ?_
    | with_reducible refine State.accepted_wf _ _ _ _ (by assumption) ?_
    | with_reducible refine State.inScratch_wf _ _ _ (by assumption) ?_
    | split
    | (simp (maxDischargeDepth := 30) +contextual [*]; done)
    | dsimp only

@[simp] theorem State.takeOut_mem (s : State) (y : Gang) (b : Nat) : (State.takeOut s y b).mem = s.mem := by
  rfl

@[simp] theorem State.resumeFences_mem (s : State) (hs : List Nat) : (State.resumeFences s hs).mem = s.mem := by
  unfold State.resumeFences; simp (maxDischargeDepth := 30) +contextual [State.foldl_mem]

@[simp] theorem execPreemptionComplete_wf (ctx : Nat) (seq : Nat) (gang : Nat) (s : State) (hm : Memory.wf s.mem = true) : outWf (execPreemptionComplete ctx seq gang s) := by
  unfold execPreemptionComplete; repeat' split
  all_goals first | trivial | exact hm | (simp (maxDischargeDepth := 30) +contextual [*, State.foldl_mem, State.foldl_wf]; done)

@[simp] theorem State.performSome_wf (s : State) (g : Group) (hm : Memory.wf s.mem = true) : Memory.wf (State.performSome s g).mem = true := by
  unfold State.performSome
  refine State.foldl_pair_wf (fun x : List Outst × State => x.2) _ _ (fun x o h => ?_) _ hm
  dsimp only
  split
  · rename_i w _
    refine State.foldl_pair_wf (fun y : List StorePart × State => y.2) _ _ (fun y p hy => ?_) _ h
    repeat' split
    all_goals first | exact hy | exact State.storePart_wf _ _ _ _ hy
  · exact h

@[simp] theorem State.gatherRow_wf (s : State) (i : Issuer) (table : DWord) (idx : Place) (dst : Place) (rowb : Nat) (k : Nat) (hm : Memory.wf s.mem = true) : Memory.wf (State.gatherRow s i table idx dst rowb k).mem = true := by
  unfold State.gatherRow
  repeat' first
    | with_reducible exact hm
    | dsimp only
    | split
    | (simp (maxDischargeDepth := 30) +contextual [*, State.foldl_mem, State.foldl_wf]; done)

@[simp] theorem State.finishCmd_wf (s : State) (i : Issuer) (c : Cmd) (hm : Memory.wf s.mem = true) : Memory.wf (State.finishCmd s i c).mem = true := by
  unfold State.finishCmd; repeat' split
  all_goals first | exact hm | (simp (maxDischargeDepth := 30) +contextual [*, State.foldl_mem, State.foldl_wf]; done)

@[simp] theorem State.halfDone_wf (s : State) (g : Group) (c : Cmd) (hm : Memory.wf s.mem = true) : Memory.wf (State.halfDone s g c).mem = true := by
  unfold State.halfDone
  exact Memory.wf_foldl _ _ (fun m p h => Memory.wf_write _ _ h)
    (State.finishCmd_wf _ _ _ (State.foldl_wf _ _ (fun s r h => State.recall_wf _ _ _ _ _ h) _ hm))

@[simp] theorem State.abandon_wf (s : State) (c : Nat) (hm : Memory.wf s.mem = true) : Memory.wf (State.abandon s c).mem = true := by
  unfold State.abandon
  refine State.foldl_wf _ _ (fun s x h => ?_) _ ?_
  · split
    · exact State.halfDone_wf _ _ _ h
    · exact h
  · refine (congrArg Memory.wf (State.mapGroups_mem _ _ _)).trans ?_
    exact State.foldl_wf _ _ (fun s g h => State.performSome_wf _ _ h) _ hm

@[simp] theorem State.killContext_wf (s : State) (c : Nat) (cause : Nat) (hm : Memory.wf s.mem = true) : Memory.wf (State.killContext s c cause).mem = true := by
  unfold State.killContext; simp (maxDischargeDepth := 30) +contextual [hm, State.foldl_mem, State.foldl_wf]

@[simp] theorem State.restoreGroup_mem (s : State) (binds : List BindWrite) (g : Group) : (State.restoreGroup s binds g).mem = s.mem := by
  unfold State.restoreGroup; repeat' split
  all_goals first | rfl | (simp (maxDischargeDepth := 30) +contextual [*, State.foldl_mem]; done)

@[simp] theorem State.restoreCmd_mem (s : State) (i : Image) (binds : List BindWrite) (c : Cmd) : (State.restoreCmd s i binds c).mem = s.mem := by
  rfl

@[simp] theorem State.putBack_mem (s : State) (i : Image) (binds : List BindWrite) : (State.putBack s i binds).mem = s.mem := by
  unfold State.putBack; simp (maxDischargeDepth := 30) +contextual [State.foldl_mem]

@[simp] theorem State.loseImage_wf (s : State) (i : Image) (t : Task) (hm : Memory.wf s.mem = true) : Memory.wf (State.loseImage s i t).mem = true := by
  unfold State.loseImage; simp (maxDischargeDepth := 30) +contextual [hm, State.foldl_mem, State.foldl_wf]

@[simp] theorem execRestore_wf (ctx : Nat) (seq : Nat) (gang : Nat) (binds : List BindWrite) (bad : BitVec 2) (s : State) (hm : Memory.wf s.mem = true) : outWf (execRestore ctx seq gang binds bad s) := by
  unfold execRestore
  repeat' first
    | with_reducible assumption
    | with_reducible exact True.intro
    | simp only [outWf_next, Eff.wf_ok, Eff.wf_jump, Eff.wf_park, Eff.wf_trap, Eff.wf_after, Eff.wf_fault, Eff.wf_stall, Eff.wf_poison, Eff.wf_bad]
    | with_reducible refine issue_wf _ _ _ (by assumption) (fun s hm => ?_)
    | with_reducible refine State.outside_wf _ _ (by assumption) (fun s hm => ?_)
    | with_reducible refine State.withSources_wf _ _ _ (by assumption) (fun s hm => ?_)
    | with_reducible refine State.aligned_wf _ _ _ _ (by assumption) ?_
    | with_reducible refine State.classified_wf _ _ _ _ (by assumption) (fun ps => ?_)
    | with_reducible refine State.classifiedAll_wf _ _ _ (by assumption) (fun ps => ?_)
    | with_reducible refine State.classifiedOnce_wf _ _ _ _ (by assumption) (fun ps => ?_)
    | with_reducible refine State.leafProt_wf _ _ _ _ (by assumption) ?_
    | with_reducible refine State.accepted_wf _ _ _ _ (by assumption) ?_
    | with_reducible refine State.inScratch_wf _ _ _ (by assumption) ?_
    | split
    | (simp (maxDischargeDepth := 30) +contextual [*]; done)
    | dsimp only

end Sys2Proof.Machine
end

