-- ==== Sys2Proof/Laws/KeepDriver.lean ====
section
/-! SUPPORT. What the driver, the board, errors and the debugger do to memory -/

namespace Sys2Proof.Machine

set_option Elab.async false
set_option linter.all false
set_option maxRecDepth 4000



@[simp] theorem State.releaseIf_mem (s : State) (p : Instr → Bool) : (State.releaseIf s p).mem = s.mem := by
  rfl

@[simp] theorem State.release_mem (s : State) : (State.release s).mem = s.mem := by
  rfl

@[simp] theorem State.hold_mem (s : State) (i : Instr) : (State.hold s i).mem = s.mem := by
  rfl

@[simp] theorem execContextCreate_wf (ctx : Nat) (p : CtxParams) (s : State) (hm : Memory.wf s.mem = true) : outWf (execContextCreate ctx p s) := by
  simp [execContextCreate, hm]

@[simp] theorem execContextKill_wf (ctx : Nat) (s : State) (hm : Memory.wf s.mem = true) : outWf (execContextKill ctx s) := by
  unfold execContextKill
  repeat' first
    | with_reducible assumption
    | with_reducible exact True.intro
    | simp only [outWf_next, Eff.wf_ok, Eff.wf_jump, Eff.wf_park, Eff.wf_trap, Eff.wf_after, Eff.wf_fault, Eff.wf_stall, Eff.wf_poison, Eff.wf_bad]
    | with_reducible refine issue_wf _ _ _ (by assumption) (fun s hm => ?_)
    | with_reducible refine State.outside_wf _ _ (by assumption) (fun s hm => ?_)
    | with_reducible refine State.withSources_wf _ _ _ (by assumption) (fun s hm => ?_)
    | with_reducible refine State.aligned_wf _ _ _ _ (by assumption) ?_
    | with_reducible refine State.classified_wf _ _ _ _ (by assumption) (fun ps => ?_)
    | with_reducible refine State.classifiedAll_wf _ _ _ (by assumption) (fun ps => ?_)
    | with_reducible refine State.classifiedOnce_wf _ _ _ _ (by assumption) (fun ps => ?_)
    | with_reducible refine State.leafProt_wf _ _ _ _ (by assumption) ?_
    | with_reducible refine State.accepted_wf _ _ _ _ (by assumption) ?_
    | with_reducible refine State.inScratch_wf _ _ _ (by assumption) ?_
    | split
    | (simp (maxDischargeDepth := 30) +contextual [*]; done)
    | dsimp only

@[simp] theorem execContextDestroy_wf (ctx : Nat) (s : State) (hm : Memory.wf s.mem = true) : outWf (execContextDestroy ctx s) := by
  unfold execContextDestroy
  repeat' first
    | with_reducible assumption
    | with_reducible exact True.intro
    | simp only [outWf_next, Eff.wf_ok, Eff.wf_jump, Eff.wf_park, Eff.wf_trap, Eff.wf_after, Eff.wf_fault, Eff.wf_stall, Eff.wf_poison, Eff.wf_bad]
    | with_reducible refine issue_wf _ _ _ (by assumption) (fun s hm => ?_)
    | with_reducible refine State.outside_wf _ _ (by assumption) (fun s hm => ?_)
    | with_reducible refine State.withSources_wf _ _ _ (by assumption) (fun s hm => ?_)
    | with_reducible refine State.aligned_wf _ _ _ _ (by assumption) ?_
    | with_reducible refine State.classified_wf _ _ _ _ (by assumption) (fun ps => ?_)
    | with_reducible refine State.classifiedAll_wf _ _ _ (by assumption) (fun ps => ?_)
    | with_reducible refine State.classifiedOnce_wf _ _ _ _ (by assumption) (fun ps => ?_)
    | with_reducible refine State.leafProt_wf _ _ _ _ (by assumption) ?_
    | with_reducible refine State.accepted_wf _ _ _ _ (by assumption) ?_
    | with_reducible refine State.inScratch_wf _ _ _ (by assumption) ?_
    | split
    | (simp (maxDischargeDepth := 30) +contextual [*]; done)
    | dsimp only

@[simp] theorem execSetTrapBase_wf (ctx : Nat) (tbase : DWord) (s : State) (hm : Memory.wf s.mem = true) : outWf (execSetTrapBase ctx tbase s) := by
  simp [execSetTrapBase, hm]

@[simp] theorem execSetWayQuota_wf (ctx : Nat) (w : Nat) (a : Nat) (k : Nat) (o : Nat) (s : State) (hm : Memory.wf s.mem = true) : outWf (execSetWayQuota ctx w a k o s) := by
  simp [execSetWayQuota, hm]

@[simp] theorem State.setTag_mem (s : State) (gr : Nat) (tag : BitVec 4) : (State.setTag s gr tag).mem = s.mem := by
  rfl

@[simp] theorem execSetGranuleTags_wf (ctx : Nat) (va : DWord) (n : Nat) (tag : BitVec 4) (s : State) (hm : Memory.wf s.mem = true) : outWf (execSetGranuleTags ctx va n tag s) := by
  unfold execSetGranuleTags
  refine (outWf_next _).2 (State.foldl_wf _ _ (fun s i h => ?_) _ hm)
  dsimp only
  split
  · split
    · exact (congrArg Memory.wf (State.setTag_mem _ _ _)).trans h
    · exact h
  · exact h

@[simp] theorem State.writeLeaf_wf (s : State) (old : DWord) (pte : Nat) (f : DWord → DWord) (hm : Memory.wf s.mem = true) : Memory.wf (State.writeLeaf s old pte f).mem = true := by
  unfold State.writeLeaf; simp (maxDischargeDepth := 30) +contextual [hm, State.foldl_mem, State.foldl_wf]

@[simp] theorem State.zeroTags_mem (s : State) (frame : Nat) (n : Nat) : (State.zeroTags s frame n).mem = s.mem := by
  rfl

@[simp] theorem State.newlyMapped_mem (s : State) (old : DWord) (new : DWord) : (State.newlyMapped s old new).mem = s.mem := by
  simp [State.newlyMapped]

@[simp] theorem State.shootdown_mem (s : State) (c : Nat) (va : Nat) : (State.shootdown s c va).mem = s.mem := by
  rfl

@[simp] theorem execShootdownRequest_wf (ctx : Nat) (va : DWord) (leaf : DWord) (s : State) (hm : Memory.wf s.mem = true) : outWf (execShootdownRequest ctx va leaf s) := by
  unfold execShootdownRequest
  repeat' first
    | with_reducible assumption
    | with_reducible exact True.intro
    | simp only [outWf_next, Eff.wf_ok, Eff.wf_jump, Eff.wf_park, Eff.wf_trap, Eff.wf_after, Eff.wf_fault, Eff.wf_stall, Eff.wf_poison, Eff.wf_bad]
    | with_reducible refine issue_wf _ _ _ (by assumption) (fun s hm => ?_)
    | with_reducible refine State.outside_wf _ _ (by assumption) (fun s hm => ?_)
    | with_reducible refine State.withSources_wf _ _ _ (by assumption) (fun s hm => ?_)
    | with_reducible refine State.aligned_wf _ _ _ _ (by assumption) ?_
    | with_reducible refine State.classified_wf _ _ _ _ (by assumption) (fun ps => ?_)
    | with_reducible refine State.classifiedAll_wf _ _ _ (by assumption) (fun ps => ?_)
    | with_reducible refine State.classifiedOnce_wf _ _ _ _ (by assumption) (fun ps => ?_)
    | with_reducible refine State.leafProt_wf _ _ _ _ (by assumption) ?_
    | with_reducible refine State.accepted_wf _ _ _ _ (by assumption) ?_
    | with_reducible refine State.inScratch_wf _ _ _ (by assumption) ?_
    | split
    | (simp (maxDischargeDepth := 30) +contextual [*]; done)
    | dsimp only

@[simp] theorem execShootdownComplete_wf (ctx : Nat) (va : DWord) (s : State) (hm : Memory.wf s.mem = true) : outWf (execShootdownComplete ctx va s) := by
  unfold execShootdownComplete
  repeat' first
    | with_reducible assumption
    | with_reducible exact True.intro
    | simp only [outWf_next, Eff.wf_ok, Eff.wf_jump, Eff.wf_park, Eff.wf_trap, Eff.wf_after, Eff.wf_fault, Eff.wf_stall, Eff.wf_poison, Eff.wf_bad]
    | with_reducible refine issue_wf _ _ _ (by assumption) (fun s hm => ?_)
    | with_reducible refine State.outside_wf _ _ (by assumption) (fun s hm => ?_)
    | with_reducible refine State.withSources_wf _ _ _ (by assumption) (fun s hm => ?_)
    | with_reducible refine State.aligned_wf _ _ _ _ (by assumption) ?_
    | with_reducible refine State.classified_wf _ _ _ _ (by assumption) (fun ps => ?_)
    | with_reducible refine State.classifiedAll_wf _ _ _ (by assumption) (fun ps => ?_)
    | with_reducible refine State.classifiedOnce_wf _ _ _ _ (by assumption) (fun ps => ?_)
    | with_reducible refine State.leafProt_wf _ _ _ _ (by assumption) ?_
    | with_reducible refine State.accepted_wf _ _ _ _ (by assumption) ?_
    | with_reducible refine State.inScratch_wf _ _ _ (by assumption) ?_
    | split
    | (simp (maxDischargeDepth := 30) +contextual [*]; done)
    | dsimp only

@[simp] theorem State.pageArrived_mem (s : State) (c : Nat) (va : Nat) (n : Nat) : (State.pageArrived s c va n).mem = s.mem := by
  rfl

@[simp] theorem execPageResident_wf (ctx : Nat) (va : DWord) (leaf : DWord) (s : State) (hm : Memory.wf s.mem = true) : outWf (execPageResident ctx va leaf s) := by
  unfold execPageResident
  repeat' first
    | with_reducible assumption
    | with_reducible exact True.intro
    | simp only [outWf_next, Eff.wf_ok, Eff.wf_jump, Eff.wf_park, Eff.wf_trap, Eff.wf_after, Eff.wf_fault, Eff.wf_stall, Eff.wf_poison, Eff.wf_bad]
    | with_reducible refine issue_wf _ _ _ (by assumption) (fun s hm => ?_)
    | with_reducible refine State.outside_wf _ _ (by assumption) (fun s hm => ?_)
    | with_reducible refine State.withSources_wf _ _ _ (by assumption) (fun s hm => ?_)
    | with_reducible refine State.aligned_wf _ _ _ _ (by assumption) ?_
    | with_reducible refine State.classified_wf _ _ _ _ (by assumption) (fun ps => ?_)
    | with_reducible refine State.classifiedAll_wf _ _ _ (by assumption) (fun ps => ?_)
    | with_reducible refine State.classifiedOnce_wf _ _ _ _ (by assumption) (fun ps => ?_)
    | with_reducible refine State.leafProt_wf _ _ _ _ (by assumption) ?_
    | with_reducible refine State.accepted_wf _ _ _ _ (by assumption) ?_
    | with_reducible refine State.inScratch_wf _ _ _ (by assumption) ?_
    | split
    | (simp (maxDischargeDepth := 30) +contextual [*]; done)
    | dsimp only

@[simp] theorem State.moveCounts_mem (s : State) (from_ : Nat) (to_ : Nat) (n : Nat) : (State.moveCounts s from_ to_ n).mem = s.mem := by
  rfl

@[simp] theorem State.startMigration_wf (s : State) (ctx : Nat) (va : DWord) (hm : Memory.wf s.mem = true) : Memory.wf (State.startMigration s ctx va).mem = true := by
  unfold State.startMigration; repeat' split
  all_goals first | exact hm | (simp (maxDischargeDepth := 30) +contextual [*, State.foldl_mem, State.foldl_wf]; done)

@[simp] theorem execMigrationStart_wf (ctx : Nat) (va : DWord) (s : State) (hm : Memory.wf s.mem = true) : outWf (execMigrationStart ctx va s) := by
  unfold execMigrationStart; repeat' split
  all_goals first | trivial | exact hm | (simp (maxDischargeDepth := 30) +contextual [*, State.foldl_mem, State.foldl_wf]; done)

@[simp] theorem execMigrationComplete_wf (ctx : Nat) (va : DWord) (frame : Nat) (s : State) (hm : Memory.wf s.mem = true) : outWf (execMigrationComplete ctx va frame s) := by
  unfold execMigrationComplete
  split
  · exact hm
  · dsimp only
    split
    · exact hm
    · simp only [outWf_next, State.release_mem, State.updDebug_mem, State.mapGroups_mem]
      have hw : ∀ (u : State) l pte f, Memory.wf u.mem = true → Memory.wf (State.writeLeaf u l pte f).mem = true :=
        fun u l pte f h => State.writeLeaf_wf _ _ _ _ h
      refine State.wf_if _ _ _ ?_ (?_ : Memory.wf (State.moveCounts _ _ _ _).mem = true) <;> try rw [State.moveCounts_mem]
      all_goals
        refine hw _ _ _ _ ?_
        dsimp only
        split
        · exact hm
        · unfold Memory.copy
          refine Memory.wf_foldl _ _ (fun m p h => Memory.wf_write _ _ h) ?_
          exact Memory.wf_foldl _ _ (fun m p h => Memory.wf_write _ _ h) hm

@[simp] theorem execTlbWalkComplete_wf (hall : Nat) (ctx : Nat) (va : DWord) (s : State) (hm : Memory.wf s.mem = true) : outWf (execTlbWalkComplete hall ctx va s) := by
  simp [execTlbWalkComplete, hm]

@[simp] theorem State.fillPacket_wf (s : State) (h c va : Nat) (l : DWord) (hm : Memory.wf s.mem = true) :
    Memory.wf (State.fillPacket s h c va l).2.mem = true := by
  unfold State.fillPacket
  dsimp only
  rw [State.updHall_mem, State.reach_mem]
  exact State.recall_wf _ _ _ _ _ (State.fillTlb_wf _ _ _ _ hm)

@[simp] theorem execPacketFetchFill_wf (hall : Nat) (ctx : Nat) (va : DWord) (s : State) (hm : Memory.wf s.mem = true) : outWf (execPacketFetchFill hall ctx va s) := by
  unfold execPacketFetchFill
  split
  · exact hm
  · split
    · exact hm
    · split
      · exact hm
      · exact State.fillPacket_wf _ _ _ _ _ hm

@[simp] theorem execTagVerdict_wf (line : Nat) (s : State) (hm : Memory.wf s.mem = true) : outWf (execTagVerdict line s) := by
  simp [execTagVerdict, hm]

@[simp] theorem execSliceRehomingDone_wf (unit : Nat) (s : State) (hm : Memory.wf s.mem = true) : outWf (execSliceRehomingDone unit s) := by
  simp [execSliceRehomingDone, hm]

@[simp] theorem State.hostMapped_mem (s : State) (before : Memory) (pa : Nat) (n : Nat) : (State.hostMapped s before pa n).mem = s.mem := by
  unfold State.hostMapped; simp (maxDischargeDepth := 30) +contextual [State.foldl_mem]

@[simp] theorem State.hostRun_wf (s : State) (c : Nat) (va : Nat) (write : Bool) (n : Nat) (bs : List Byte) (hm : Memory.wf s.mem = true) : Memory.wf (State.hostRun s c va write n bs).mem = true := by
  unfold State.hostRun; repeat' split
  all_goals first | exact hm | (simp (maxDischargeDepth := 30) +contextual [*, State.foldl_mem, State.foldl_wf]; done)

@[simp] theorem execHostAccess_wf (ctx : Nat) (va : DWord) (write : Bool) (len : Nat) (data : List Byte) (s : State) (hm : Memory.wf s.mem = true) : outWf (execHostAccess ctx va write len data s) := by
  unfold execHostAccess
  dsimp only
  split
  · exact (congrArg Memory.wf (State.hold_mem _ _)).trans hm
  · refine (outWf_next _).2 (State.foldl_pair_wf (fun x : Nat × State => x.2) _ _ (fun x p h => State.hostRun_wf _ _ _ _ _ _ h) _ ?_)
    split <;> exact hm

@[simp] theorem State.askReplace_mem (s : State) : (State.askReplace s).mem = s.mem := by
  simp [State.askReplace]

@[simp] theorem State.postError_mem (s : State) (q : Nat) : (State.postError s q).mem = s.mem := by
  rfl

@[simp] theorem State.queueWrite_wf (s : State) (q : Nat) (sup : Bool) (bad : Bool) (f : Queue → Queue) (hm : Memory.wf s.mem = true) : outWf (State.queueWrite s q sup bad f) := by
  simp [State.queueWrite, hm]

@[simp] theorem execQcfgWrite_wf (q : Nat) (sup : Bool) (v : DWord) (s : State) (hm : Memory.wf s.mem = true) : outWf (execQcfgWrite q sup v s) := by
  simp [execQcfgWrite, hm]

@[simp] theorem execQovfbaseWrite_wf (q : Nat) (sup : Bool) (v : DWord) (s : State) (hm : Memory.wf s.mem = true) : outWf (execQovfbaseWrite q sup v s) := by
  simp [execQovfbaseWrite, hm]

@[simp] theorem execQovfszWrite_wf (q : Nat) (sup : Bool) (v : DWord) (s : State) (hm : Memory.wf s.mem = true) : outWf (execQovfszWrite q sup v s) := by
  simp [execQovfszWrite, hm]

@[simp] theorem execQrbaseWrite_wf (q : Nat) (sup : Bool) (v : DWord) (s : State) (hm : Memory.wf s.mem = true) : outWf (execQrbaseWrite q sup v s) := by
  simp [execQrbaseWrite, hm]

@[simp] theorem State.postTcb_wf (s : State) (q : Nat) (tcb : DWord) (hm : Memory.wf s.mem = true) : Memory.wf (State.postTcb s q tcb).mem = true := by
  unfold State.postTcb
  repeat' first
    | with_reducible exact hm
    | dsimp only
    | split
    | (simp (maxDischargeDepth := 30) +contextual [*, State.foldl_mem, State.foldl_wf]; done)

@[simp] theorem execPost_wf (q : Nat) (width : Nat) (v : DWord) (s : State) (hm : Memory.wf s.mem = true) : outWf (execPost q width v s) := by
  simp [execPost, hm]

@[simp] theorem State.writeHealth_mem (s : State) (off : Nat) (v : Nat) : (State.writeHealth s off v).mem = s.mem := by
  simp [State.writeHealth]

@[simp] theorem State.writeAttest_mem (s : State) (off : Nat) (v : Nat) : (State.writeAttest s off v).mem = s.mem := by
  simp [State.writeAttest]

@[simp] theorem State.lost_wf (s : State) (hm : Memory.wf s.mem = true) : Memory.wf (State.lost s).mem = true := by
  unfold State.lost lostMemory
  refine Memory.wf_foldl _ _ (fun m p h => ?_) (show Memory.wf [] = true from rfl)
  split
  · exact Memory.wf_write _ _ h
  · exact Memory.wf_write _ _ h

@[simp] theorem execPackageReset_wf (s : State) (hm : Memory.wf s.mem = true) : outWf (execPackageReset s) := by
  simp [execPackageReset, hm]

@[simp] theorem State.bootLoad_mem (s : State) (n : Nat) (loaded : Bool) (image : List Byte) : (State.bootLoad s n loaded image).mem = s.mem := by
  simp [State.bootLoad]

@[simp] theorem execBootLoadFirstStage_wf (loaded : Bool) (image : List Byte) (s : State) (hm : Memory.wf s.mem = true) : outWf (execBootLoadFirstStage loaded image s) := by
  simp [execBootLoadFirstStage, hm]

@[simp] theorem execBootLoadNewelFirmware_wf (loaded : Bool) (image : List Byte) (s : State) (hm : Memory.wf s.mem = true) : outWf (execBootLoadNewelFirmware loaded image s) := by
  simp [execBootLoadNewelFirmware, hm]

@[simp] theorem execBootLoadCollectiveMicrocode_wf (loaded : Bool) (image : List Byte) (s : State) (hm : Memory.wf s.mem = true) : outWf (execBootLoadCollectiveMicrocode loaded image s) := by
  simp [execBootLoadCollectiveMicrocode, hm]

@[simp] theorem execBootRelease_wf (links : List LinkEntry) (s : State) (hm : Memory.wf s.mem = true) : outWf (execBootRelease links s) := by
  simp [execBootRelease, hm]

@[simp] theorem execFirmwareReload_wf (image : List Byte) (s : State) (hm : Memory.wf s.mem = true) : outWf (execFirmwareReload image s) := by
  simp [execFirmwareReload, hm]

@[simp] theorem State.queueReport_mem (s : State) (r : AttReq) : (State.queueReport s r).mem = s.mem := by
  rfl

@[simp] theorem execAttestationGo_wf (v : DWord) (s : State) (hm : Memory.wf s.mem = true) : outWf (execAttestationGo v s) := by
  simp [execAttestationGo, hm]

@[simp] theorem execAttestationReportReady_wf (s : State) (hm : Memory.wf s.mem = true) : outWf (execAttestationReportReady s) := by
  unfold execAttestationReportReady
  repeat' first
    | with_reducible assumption
    | with_reducible exact True.intro
    | simp only [outWf_next, Eff.wf_ok, Eff.wf_jump, Eff.wf_park, Eff.wf_trap, Eff.wf_after, Eff.wf_fault, Eff.wf_stall, Eff.wf_poison, Eff.wf_bad]
    | with_reducible refine issue_wf _ _ _ (by assumption) (fun s hm => ?_)
    | with_reducible refine State.outside_wf _ _ (by assumption) (fun s hm => ?_)
    | with_reducible refine State.withSources_wf _ _ _ (by assumption) (fun s hm => ?_)
    | with_reducible refine State.aligned_wf _ _ _ _ (by assumption) ?_
    | with_reducible refine State.classified_wf _ _ _ _ (by assumption) (fun ps => ?_)
    | with_reducible refine State.classifiedAll_wf _ _ _ (by assumption) (fun ps => ?_)
    | with_reducible refine State.classifiedOnce_wf _ _ _ _ (by assumption) (fun ps => ?_)
    | with_reducible refine State.leafProt_wf _ _ _ _ (by assumption) ?_
    | with_reducible refine State.accepted_wf _ _ _ _ (by assumption) ?_
    | with_reducible refine State.inScratch_wf _ _ _ (by assumption) ?_
    | split
    | (simp (maxDischargeDepth := 30) +contextual [*]; done)
    | dsimp only

@[simp] theorem State.i3c_mem (s : State) (reply : List Byte) : (State.i3c s reply).mem = s.mem := by
  rfl

@[simp] theorem State.i3cRefuse_mem (s : State) : (State.i3cRefuse s).mem = s.mem := by
  rfl

@[simp] theorem State.asBoard_wf (s t : State) (hm : Memory.wf s.mem = true) (ht : Memory.wf t.mem = true) :
    outWf (State.asBoard s t) := by
  unfold State.asBoard
  split
  · exact hm
  · exact ht

@[simp] theorem execReadHealthSummary_wf (s : State) (hm : Memory.wf s.mem = true) : outWf (execReadHealthSummary s) := by
  simp [execReadHealthSummary, hm]

@[simp] theorem execReadPower_wf (s : State) (hm : Memory.wf s.mem = true) : outWf (execReadPower s) := by
  simp [execReadPower, hm]

@[simp] theorem execReadTemperature_wf (s : State) (hm : Memory.wf s.mem = true) : outWf (execReadTemperature s) := by
  simp [execReadTemperature, hm]

@[simp] theorem execRequestReport_wf (nonce : List Byte) (ctx : Byte) (s : State) (hm : Memory.wf s.mem = true) : outWf (execRequestReport nonce ctx s) := by
  simp [execRequestReport, hm]

@[simp] theorem execReadReport_wf (s : State) (hm : Memory.wf s.mem = true) : outWf (execReadReport s) := by
  simp [execReadReport, hm]

@[simp] theorem execSetdasa_wf (addr : BitVec 7) (s : State) (hm : Memory.wf s.mem = true) : outWf (execSetdasa addr s) := by
  simp [execSetdasa, hm]

@[simp] theorem execUnlistedI3cCommand_wf (code : Byte) (s : State) (hm : Memory.wf s.mem = true) : outWf (execUnlistedI3cCommand code s) := by
  simp [execUnlistedI3cCommand, hm]

@[simp] theorem State.enter_mem (s : State) (x : Power) : (State.enter s x).mem = s.mem := by
  rfl

@[simp] theorem execSetPowerStateP0_wf (s : State) (hm : Memory.wf s.mem = true) : outWf (execSetPowerStateP0 s) := by
  simp [execSetPowerStateP0, hm]

@[simp] theorem execSetPowerStateP1_wf (s : State) (hm : Memory.wf s.mem = true) : outWf (execSetPowerStateP1 s) := by
  simp [execSetPowerStateP1, hm]

@[simp] theorem execSetPowerStateP2_wf (s : State) (hm : Memory.wf s.mem = true) : outWf (execSetPowerStateP2 s) := by
  simp [execSetPowerStateP2, hm]

@[simp] theorem execSetPowerStateOff_wf (s : State) (hm : Memory.wf s.mem = true) : outWf (execSetPowerStateOff s) := by
  simp [execSetPowerStateOff, hm]

@[simp] theorem execSetPowerStateOtherByte_wf (b : Byte) (s : State) (hm : Memory.wf s.mem = true) : outWf (execSetPowerStateOtherByte b s) := by
  simp [execSetPowerStateOtherByte, hm]

@[simp] theorem execPowerStateExitComplete_wf (s : State) (hm : Memory.wf s.mem = true) : outWf (execPowerStateExitComplete s) := by
  simp [execPowerStateExitComplete, hm]

@[simp] theorem execEnterP1_wf (s : State) (hm : Memory.wf s.mem = true) : outWf (execEnterP1 s) := by
  simp [execEnterP1, hm]

@[simp] theorem execThermalSet_wf (s : State) (hm : Memory.wf s.mem = true) : outWf (execThermalSet s) := by
  simp [execThermalSet, hm]

@[simp] theorem execThermalClear_wf (s : State) (hm : Memory.wf s.mem = true) : outWf (execThermalClear s) := by
  simp [execThermalClear, hm]

@[simp] theorem execThermalShutdown_wf (s : State) (hm : Memory.wf s.mem = true) : outWf (execThermalShutdown s) := by
  simp [execThermalShutdown, hm]

@[simp] theorem execLockstepBridgeTrained_wf (s : State) (hm : Memory.wf s.mem = true) : outWf (execLockstepBridgeTrained s) := by
  simp [execLockstepBridgeTrained, hm]

@[simp] theorem execLockstepBridgeLost_wf (s : State) (hm : Memory.wf s.mem = true) : outWf (execLockstepBridgeLost s) := by
  simp [execLockstepBridgeLost, hm]

@[simp] theorem execErrorCorrected_wf (unit : Nat) (kind : BitVec 2) (s : State) (hm : Memory.wf s.mem = true) : outWf (execErrorCorrected unit kind s) := by
  simp [execErrorCorrected, hm]

@[simp] theorem execScoreDecay_wf (s : State) (hm : Memory.wf s.mem = true) : outWf (execScoreDecay s) := by
  simp [execScoreDecay, hm]

@[simp] theorem State.openHall_mem (s : State) (u : Nat) : (State.openHall s u).mem = s.mem := by
  unfold State.openHall; repeat' split
  all_goals first | rfl | (simp (maxDischargeDepth := 30) +contextual [*, State.foldl_mem]; done)

@[simp] theorem State.suspect_mem (s : State) (u : Nat) (x : UnitSt) : (State.suspect s u x).mem = s.mem := by
  rfl

@[simp] theorem execUnitTestComplete_wf (unit : Nat) (pass : Bool) (s : State) (hm : Memory.wf s.mem = true) : outWf (execUnitTestComplete unit pass s) := by
  simp [execUnitTestComplete, hm]

@[simp] theorem execUncorrectableError_wf (place : ErrPlace) (s : State) (hm : Memory.wf s.mem = true) : outWf (execUncorrectableError place s) := by
  unfold execUncorrectableError
  repeat' first
    | with_reducible assumption
    | with_reducible exact True.intro
    | simp only [outWf_next, Eff.wf_ok, Eff.wf_jump, Eff.wf_park, Eff.wf_trap, Eff.wf_after, Eff.wf_fault, Eff.wf_stall, Eff.wf_poison, Eff.wf_bad]
    | with_reducible refine issue_wf _ _ _ (by assumption) (fun s hm => ?_)
    | with_reducible refine State.outside_wf _ _ (by assumption) (fun s hm => ?_)
    | with_reducible refine State.withSources_wf _ _ _ (by assumption) (fun s hm => ?_)
    | with_reducible refine State.aligned_wf _ _ _ _ (by assumption) ?_
    | with_reducible refine State.classified_wf _ _ _ _ (by assumption) (fun ps => ?_)
    | with_reducible refine State.classifiedAll_wf _ _ _ (by assumption) (fun ps => ?_)
    | with_reducible refine State.classifiedOnce_wf _ _ _ _ (by assumption) (fun ps => ?_)
    | with_reducible refine State.leafProt_wf _ _ _ _ (by assumption) ?_
    | with_reducible refine State.accepted_wf _ _ _ _ (by assumption) ?_
    | with_reducible refine State.inScratch_wf _ _ _ (by assumption) ?_
    | split
    | (simp (maxDischargeDepth := 30) +contextual [*]; done)
    | dsimp only

@[simp] theorem State.letGo_mem (s : State) (m : BitVec 4) : (State.letGo s m).mem = s.mem := by
  simp [State.letGo]

@[simp] theorem State.passInterval_wf (s : State) (m : BitVec 4) (hm : Memory.wf s.mem = true) : Memory.wf (State.passInterval s m).mem = true := by
  unfold State.passInterval; simp (maxDischargeDepth := 30) +contextual [hm, State.foldl_mem, State.foldl_wf]

@[simp] theorem State.diverge_mem (s : State) (m : BitVec 4) : (State.diverge s m).mem = s.mem := by
  rfl

@[simp] theorem execLockstepIntervalCompare_wf (ctx : Nat) (digest : DWord) (s : State) (hm : Memory.wf s.mem = true) : outWf (execLockstepIntervalCompare ctx digest s) := by
  unfold execLockstepIntervalCompare
  repeat' first
    | with_reducible assumption
    | with_reducible exact True.intro
    | simp only [outWf_next, Eff.wf_ok, Eff.wf_jump, Eff.wf_park, Eff.wf_trap, Eff.wf_after, Eff.wf_fault, Eff.wf_stall, Eff.wf_poison, Eff.wf_bad]
    | with_reducible refine issue_wf _ _ _ (by assumption) (fun s hm => ?_)
    | with_reducible refine State.outside_wf _ _ (by assumption) (fun s hm => ?_)
    | with_reducible refine State.withSources_wf _ _ _ (by assumption) (fun s hm => ?_)
    | with_reducible refine State.aligned_wf _ _ _ _ (by assumption) ?_
    | with_reducible refine State.classified_wf _ _ _ _ (by assumption) (fun ps => ?_)
    | with_reducible refine State.classifiedAll_wf _ _ _ (by assumption) (fun ps => ?_)
    | with_reducible refine State.classifiedOnce_wf _ _ _ _ (by assumption) (fun ps => ?_)
    | with_reducible refine State.leafProt_wf _ _ _ _ (by assumption) ?_
    | with_reducible refine State.accepted_wf _ _ _ _ (by assumption) ?_
    | with_reducible refine State.inScratch_wf _ _ _ (by assumption) ?_
    | split
    | (simp (maxDischargeDepth := 30) +contextual [*]; done)
    | dsimp only

@[simp] theorem execLockstepDecisionApply_wf (d : Decision) (s : State) (hm : Memory.wf s.mem = true) : outWf (execLockstepDecisionApply d s) := by
  unfold execLockstepDecisionApply
  repeat' first
    | with_reducible assumption
    | with_reducible exact True.intro
    | simp only [outWf_next, Eff.wf_ok, Eff.wf_jump, Eff.wf_park, Eff.wf_trap, Eff.wf_after, Eff.wf_fault, Eff.wf_stall, Eff.wf_poison, Eff.wf_bad]
    | with_reducible refine issue_wf _ _ _ (by assumption) (fun s hm => ?_)
    | with_reducible refine State.outside_wf _ _ (by assumption) (fun s hm => ?_)
    | with_reducible refine State.withSources_wf _ _ _ (by assumption) (fun s hm => ?_)
    | with_reducible refine State.aligned_wf _ _ _ _ (by assumption) ?_
    | with_reducible refine State.classified_wf _ _ _ _ (by assumption) (fun ps => ?_)
    | with_reducible refine State.classifiedAll_wf _ _ _ (by assumption) (fun ps => ?_)
    | with_reducible refine State.classifiedOnce_wf _ _ _ _ (by assumption) (fun ps => ?_)
    | with_reducible refine State.leafProt_wf _ _ _ _ (by assumption) ?_
    | with_reducible refine State.accepted_wf _ _ _ _ (by assumption) ?_
    | with_reducible refine State.inScratch_wf _ _ _ (by assumption) ?_
    | split
    | (simp (maxDischargeDepth := 30) +contextual [*]; done)
    | dsimp only

@[simp] theorem execLockstepDivergeClear_wf (v : Word) (s : State) (hm : Memory.wf s.mem = true) : outWf (execLockstepDivergeClear v s) := by
  simp [execLockstepDivergeClear, hm]

@[simp] theorem State.mapCtxGroups_mem (s : State) (c : Nat) (f : Group → Group) : (State.mapCtxGroups s c f).mem = s.mem := by
  rfl

@[simp] theorem State.revoke_mem (s : State) (c : Nat) : (State.revoke s c).mem = s.mem := by
  simp [State.revoke]

@[simp] theorem execDebugRightWrite_wf (ctx : Nat) (sup : Bool) (v : DWord) (s : State) (hm : Memory.wf s.mem = true) : outWf (execDebugRightWrite ctx sup v s) := by
  simp [execDebugRightWrite, hm]

@[simp] theorem State.onGroup_wf (s : State) (c : Nat) (v : DWord) (op : Nat) (right : Bool) (f : Group → State)
    (hm : Memory.wf s.mem = true) (hf : ∀ g, Memory.wf (f g).mem = true) : outWf (State.onGroup s c v op right f) := by
  unfold State.onGroup
  split
  · split
    · split
      · exact hf _
      · exact hm
    · exact hm
  · exact hm

@[simp] theorem execHaltGroup_wf (ctx : Nat) (v : DWord) (s : State) (hm : Memory.wf s.mem = true) : outWf (execHaltGroup ctx v s) := by
  simp [execHaltGroup, hm]

@[simp] theorem execResumeGroup_wf (ctx : Nat) (v : DWord) (s : State) (hm : Memory.wf s.mem = true) : outWf (execResumeGroup ctx v s) := by
  simp [execResumeGroup, hm]

@[simp] theorem execStepGroup_wf (ctx : Nat) (v : DWord) (s : State) (hm : Memory.wf s.mem = true) : outWf (execStepGroup ctx v s) := by
  simp [execStepGroup, hm]

@[simp] theorem State.haltContext_mem (s : State) (c : Nat) : (State.haltContext s c).mem = s.mem := by
  unfold State.haltContext
  repeat' first
    | with_reducible rfl
    | dsimp only
    | split
    | (simp (maxDischargeDepth := 30) +contextual [*, State.foldl_mem]; done)

@[simp] theorem execHaltContext_wf (ctx : Nat) (v : DWord) (s : State) (hm : Memory.wf s.mem = true) : outWf (execHaltContext ctx v s) := by
  simp [execHaltContext, hm]

@[simp] theorem execResumeContext_wf (ctx : Nat) (v : DWord) (s : State) (hm : Memory.wf s.mem = true) : outWf (execResumeContext ctx v s) := by
  simp [execResumeContext, hm]

@[simp] theorem execTraceGroupOn_wf (ctx : Nat) (v : DWord) (s : State) (hm : Memory.wf s.mem = true) : outWf (execTraceGroupOn ctx v s) := by
  simp [execTraceGroupOn, hm]

@[simp] theorem execTraceGroupOff_wf (ctx : Nat) (v : DWord) (s : State) (hm : Memory.wf s.mem = true) : outWf (execTraceGroupOff ctx v s) := by
  simp [execTraceGroupOff, hm]

@[simp] theorem execTraceAllOn_wf (ctx : Nat) (v : DWord) (s : State) (hm : Memory.wf s.mem = true) : outWf (execTraceAllOn ctx v s) := by
  simp [execTraceAllOn, hm]

@[simp] theorem execTraceAllOff_wf (ctx : Nat) (v : DWord) (s : State) (hm : Memory.wf s.mem = true) : outWf (execTraceAllOff ctx v s) := by
  simp [execTraceAllOff, hm]

@[simp] theorem execDump_wf (ctx : Nat) (v : DWord) (s : State) (hm : Memory.wf s.mem = true) : outWf (execDump ctx v s) := by
  unfold execDump
  repeat' first
    | with_reducible assumption
    | with_reducible exact True.intro
    | simp only [outWf_next, Eff.wf_ok, Eff.wf_jump, Eff.wf_park, Eff.wf_trap, Eff.wf_after, Eff.wf_fault, Eff.wf_stall, Eff.wf_poison, Eff.wf_bad]
    | with_reducible refine issue_wf _ _ _ (by assumption) (fun s hm => ?_)
    | with_reducible refine State.outside_wf _ _ (by assumption) (fun s hm => ?_)
    | with_reducible refine State.withSources_wf _ _ _ (by assumption) (fun s hm => ?_)
    | with_reducible refine State.aligned_wf _ _ _ _ (by assumption) ?_
    | with_reducible refine State.classified_wf _ _ _ _ (by assumption) (fun ps => ?_)
    | with_reducible refine State.classifiedAll_wf _ _ _ (by assumption) (fun ps => ?_)
    | with_reducible refine State.classifiedOnce_wf _ _ _ _ (by assumption) (fun ps => ?_)
    | with_reducible refine State.leafProt_wf _ _ _ _ (by assumption) ?_
    | with_reducible refine State.accepted_wf _ _ _ _ (by assumption) ?_
    | with_reducible refine State.inScratch_wf _ _ _ (by assumption) ?_
    | split
    | (simp (maxDischargeDepth := 30) +contextual [*]; done)
    | dsimp only

@[simp] theorem execCoreDump_wf (ctx : Nat) (s : State) (hm : Memory.wf s.mem = true) : outWf (execCoreDump ctx s) := by
  unfold execCoreDump
  repeat' first
    | with_reducible assumption
    | with_reducible exact True.intro
    | simp only [outWf_next, Eff.wf_ok, Eff.wf_jump, Eff.wf_park, Eff.wf_trap, Eff.wf_after, Eff.wf_fault, Eff.wf_stall, Eff.wf_poison, Eff.wf_bad]
    | with_reducible refine issue_wf _ _ _ (by assumption) (fun s hm => ?_)
    | with_reducible refine State.outside_wf _ _ (by assumption) (fun s hm => ?_)
    | with_reducible refine State.withSources_wf _ _ _ (by assumption) (fun s hm => ?_)
    | with_reducible refine State.aligned_wf _ _ _ _ (by assumption) ?_
    | with_reducible refine State.classified_wf _ _ _ _ (by assumption) (fun ps => ?_)
    | with_reducible refine State.classifiedAll_wf _ _ _ (by assumption) (fun ps => ?_)
    | with_reducible refine State.classifiedOnce_wf _ _ _ _ (by assumption) (fun ps => ?_)
    | with_reducible refine State.leafProt_wf _ _ _ _ (by assumption) ?_
    | with_reducible refine State.accepted_wf _ _ _ _ (by assumption) ?_
    | with_reducible refine State.inScratch_wf _ _ _ (by assumption) ?_
    | split
    | (simp (maxDischargeDepth := 30) +contextual [*]; done)
    | dsimp only

@[simp] theorem execSelectGroup_wf (ctx : Nat) (v : DWord) (s : State) (hm : Memory.wf s.mem = true) : outWf (execSelectGroup ctx v s) := by
  simp [execSelectGroup, hm]

@[simp] theorem State.edit_wf (s : State) (g : Group) (d : Debug) (e : ViewEdit) (hm : Memory.wf s.mem = true) : ∀ t ∈ State.edit s g d e, Memory.wf t.mem = true := by
  unfold State.edit; repeat' split
  all_goals first | trivial | exact hm | (simp (maxDischargeDepth := 30) +contextual [*, State.foldl_mem, State.foldl_wf]; done)

@[simp] theorem execGroupViewEdit_wf (ctx : Nat) (e : ViewEdit) (s : State) (hm : Memory.wf s.mem = true) : outWf (execGroupViewEdit ctx e s) := by
  unfold execGroupViewEdit
  split
  · exact hm
  · split
    · exact hm
    · split
      · exact hm
      · split
        · exact hm
        · rename_i t ht
          refine (outWf_next _).2 ((congrArg Memory.wf (State.updGroup_mem _ _ _ _)).trans
            ((congrArg Memory.wf (State.updDebug_mem _ _ _)).trans ?_))
          exact State.edit_wf _ _ _ _ hm _ ht

@[simp] theorem execSmpcfgWrite_wf (ctx : Nat) (v : DWord) (s : State) (hm : Memory.wf s.mem = true) : outWf (execSmpcfgWrite ctx v s) := by
  simp [execSmpcfgWrite, hm]

@[simp] theorem execSampleFire_wf (hall : Nat) (ctx : Nat) (s : State) (hm : Memory.wf s.mem = true) : outWf (execSampleFire hall ctx s) := by
  unfold execSampleFire
  repeat' first
    | with_reducible assumption
    | with_reducible exact True.intro
    | simp only [outWf_next, Eff.wf_ok, Eff.wf_jump, Eff.wf_park, Eff.wf_trap, Eff.wf_after, Eff.wf_fault, Eff.wf_stall, Eff.wf_poison, Eff.wf_bad]
    | with_reducible refine issue_wf _ _ _ (by assumption) (fun s hm => ?_)
    | with_reducible refine State.outside_wf _ _ (by assumption) (fun s hm => ?_)
    | with_reducible refine State.withSources_wf _ _ _ (by assumption) (fun s hm => ?_)
    | with_reducible refine State.aligned_wf _ _ _ _ (by assumption) ?_
    | with_reducible refine State.classified_wf _ _ _ _ (by assumption) (fun ps => ?_)
    | with_reducible refine State.classifiedAll_wf _ _ _ (by assumption) (fun ps => ?_)
    | with_reducible refine State.classifiedOnce_wf _ _ _ _ (by assumption) (fun ps => ?_)
    | with_reducible refine State.leafProt_wf _ _ _ _ (by assumption) ?_
    | with_reducible refine State.accepted_wf _ _ _ _ (by assumption) ?_
    | with_reducible refine State.inScratch_wf _ _ _ (by assumption) ?_
    | split
    | (simp (maxDischargeDepth := 30) +contextual [*]; done)
    | dsimp only

@[simp] theorem execRpctlWrite_wf (ctx : Nat) (v : DWord) (s : State) (hm : Memory.wf s.mem = true) : outWf (execRpctlWrite ctx v s) := by
  unfold execRpctlWrite
  repeat' first
    | with_reducible assumption
    | with_reducible exact True.intro
    | simp only [outWf_next, Eff.wf_ok, Eff.wf_jump, Eff.wf_park, Eff.wf_trap, Eff.wf_after, Eff.wf_fault, Eff.wf_stall, Eff.wf_poison, Eff.wf_bad]
    | with_reducible refine issue_wf _ _ _ (by assumption) (fun s hm => ?_)
    | with_reducible refine State.outside_wf _ _ (by assumption) (fun s hm => ?_)
    | with_reducible refine State.withSources_wf _ _ _ (by assumption) (fun s hm => ?_)
    | with_reducible refine State.aligned_wf _ _ _ _ (by assumption) ?_
    | with_reducible refine State.classified_wf _ _ _ _ (by assumption) (fun ps => ?_)
    | with_reducible refine State.classifiedAll_wf _ _ _ (by assumption) (fun ps => ?_)
    | with_reducible refine State.classifiedOnce_wf _ _ _ _ (by assumption) (fun ps => ?_)
    | with_reducible refine State.leafProt_wf _ _ _ _ (by assumption) ?_
    | with_reducible refine State.accepted_wf _ _ _ _ (by assumption) ?_
    | with_reducible refine State.inScratch_wf _ _ _ (by assumption) ?_
    | split
    | (simp (maxDischargeDepth := 30) +contextual [*]; done)
    | dsimp only

@[simp] theorem execReplayRelease_wf (hall : Nat) (slot : Nat) (s : State) (hm : Memory.wf s.mem = true) : outWf (execReplayRelease hall slot s) := by
  unfold execReplayRelease
  repeat' first
    | with_reducible assumption
    | with_reducible exact True.intro
    | simp only [outWf_next, Eff.wf_ok, Eff.wf_jump, Eff.wf_park, Eff.wf_trap, Eff.wf_after, Eff.wf_fault, Eff.wf_stall, Eff.wf_poison, Eff.wf_bad]
    | with_reducible refine issue_wf _ _ _ (by assumption) (fun s hm => ?_)
    | with_reducible refine State.outside_wf _ _ (by assumption) (fun s hm => ?_)
    | with_reducible refine State.withSources_wf _ _ _ (by assumption) (fun s hm => ?_)
    | with_reducible refine State.aligned_wf _ _ _ _ (by assumption) ?_
    | with_reducible refine State.classified_wf _ _ _ _ (by assumption) (fun ps => ?_)
    | with_reducible refine State.classifiedAll_wf _ _ _ (by assumption) (fun ps => ?_)
    | with_reducible refine State.classifiedOnce_wf _ _ _ _ (by assumption) (fun ps => ?_)
    | with_reducible refine State.leafProt_wf _ _ _ _ (by assumption) ?_
    | with_reducible refine State.accepted_wf _ _ _ _ (by assumption) ?_
    | with_reducible refine State.inScratch_wf _ _ _ (by assumption) ?_
    | split
    | (simp (maxDischargeDepth := 30) +contextual [*]; done)
    | dsimp only

@[simp] theorem execDebugCommand_wf (c : Nat) (v : DWord) (s : State) (hm : Memory.wf s.mem = true) : outWf (execDebugCommand c v s) := by
  unfold execDebugCommand
  repeat' first
    | with_reducible assumption
    | with_reducible exact True.intro
    | simp only [outWf_next, Eff.wf_ok, Eff.wf_jump, Eff.wf_park, Eff.wf_trap, Eff.wf_after, Eff.wf_fault, Eff.wf_stall, Eff.wf_poison, Eff.wf_bad]
    | with_reducible refine issue_wf _ _ _ (by assumption) (fun s hm => ?_)
    | with_reducible refine State.outside_wf _ _ (by assumption) (fun s hm => ?_)
    | with_reducible refine State.withSources_wf _ _ _ (by assumption) (fun s hm => ?_)
    | with_reducible refine State.aligned_wf _ _ _ _ (by assumption) ?_
    | with_reducible refine State.classified_wf _ _ _ _ (by assumption) (fun ps => ?_)
    | with_reducible refine State.classifiedAll_wf _ _ _ (by assumption) (fun ps => ?_)
    | with_reducible refine State.classifiedOnce_wf _ _ _ _ (by assumption) (fun ps => ?_)
    | with_reducible refine State.leafProt_wf _ _ _ _ (by assumption) ?_
    | with_reducible refine State.accepted_wf _ _ _ _ (by assumption) ?_
    | with_reducible refine State.inScratch_wf _ _ _ (by assumption) ?_
    | split
    | (simp (maxDischargeDepth := 30) +contextual [*]; done)
    | dsimp only

@[simp] theorem State.writeMailboxWord_wf (s : State) (c : Nat) (o : Nat) (sup : Bool) (v : DWord) (hm : Memory.wf s.mem = true) : outWf (State.writeMailboxWord s c o sup v) := by
  unfold State.writeMailboxWord
  repeat' first
    | with_reducible assumption
    | with_reducible exact True.intro
    | simp only [outWf_next, Eff.wf_ok, Eff.wf_jump, Eff.wf_park, Eff.wf_trap, Eff.wf_after, Eff.wf_fault, Eff.wf_stall, Eff.wf_poison, Eff.wf_bad]
    | with_reducible refine issue_wf _ _ _ (by assumption) (fun s hm => ?_)
    | with_reducible refine State.outside_wf _ _ (by assumption) (fun s hm => ?_)
    | with_reducible refine State.withSources_wf _ _ _ (by assumption) (fun s hm => ?_)
    | with_reducible refine State.aligned_wf _ _ _ _ (by assumption) ?_
    | with_reducible refine State.classified_wf _ _ _ _ (by assumption) (fun ps => ?_)
    | with_reducible refine State.classifiedAll_wf _ _ _ (by assumption) (fun ps => ?_)
    | with_reducible refine State.classifiedOnce_wf _ _ _ _ (by assumption) (fun ps => ?_)
    | with_reducible refine State.leafProt_wf _ _ _ _ (by assumption) ?_
    | with_reducible refine State.accepted_wf _ _ _ _ (by assumption) ?_
    | with_reducible refine State.inScratch_wf _ _ _ (by assumption) ?_
    | split
    | (simp (maxDischargeDepth := 30) +contextual [*]; done)
    | dsimp only

@[simp] theorem State.writeQueueWord_wf (s : State) (q : Nat) (o : Nat) (sup : Bool) (v : DWord) (hm : Memory.wf s.mem = true) : outWf (State.writeQueueWord s q o sup v) := by
  unfold State.writeQueueWord
  repeat' first
    | with_reducible assumption
    | with_reducible exact True.intro
    | simp only [outWf_next, Eff.wf_ok, Eff.wf_jump, Eff.wf_park, Eff.wf_trap, Eff.wf_after, Eff.wf_fault, Eff.wf_stall, Eff.wf_poison, Eff.wf_bad]
    | with_reducible refine issue_wf _ _ _ (by assumption) (fun s hm => ?_)
    | with_reducible refine State.outside_wf _ _ (by assumption) (fun s hm => ?_)
    | with_reducible refine State.withSources_wf _ _ _ (by assumption) (fun s hm => ?_)
    | with_reducible refine State.aligned_wf _ _ _ _ (by assumption) ?_
    | with_reducible refine State.classified_wf _ _ _ _ (by assumption) (fun ps => ?_)
    | with_reducible refine State.classifiedAll_wf _ _ _ (by assumption) (fun ps => ?_)
    | with_reducible refine State.classifiedOnce_wf _ _ _ _ (by assumption) (fun ps => ?_)
    | with_reducible refine State.leafProt_wf _ _ _ _ (by assumption) ?_
    | with_reducible refine State.accepted_wf _ _ _ _ (by assumption) ?_
    | with_reducible refine State.inScratch_wf _ _ _ (by assumption) ?_
    | split
    | (simp (maxDischargeDepth := 30) +contextual [*]; done)
    | dsimp only

@[simp] theorem State.writeWord_wf (s : State) (page : Nat) (o : Nat) (sup : Bool) (w : Nat) (hm : Memory.wf s.mem = true) : outWf (State.writeWord s page o sup w) := by
  simp [State.writeWord, hm]

@[simp] theorem execRegisterWrite_wf (off : Nat) (width : Nat) (sup : Bool) (v : DWord) (s : State) (hm : Memory.wf s.mem = true) : outWf (execRegisterWrite off width sup v s) := by
  simp [execRegisterWrite, hm]

end Sys2Proof.Machine
end

