-- ==== Sys2Proof/Laws/KeepStep.lean ====
section
/-! SUPPORT. Every step keeps the canonical form of memory: the meanings one by one, then the choice of a step. -/

namespace Sys2Proof.Machine

set_option Elab.async false
set_option maxRecDepth 4000

/-- Every instruction keeps the canonical form of memory. -/
theorem exec_wf (i : Instr) (s : State) (hm : Memory.wf s.mem = true) : outWf (exec i s) := by
  cases i with
  | nop => exact execNop_wf s hm
  | iadd u d a b => exact execIadd_wf u d a b s hm
  | isub u d a b => exact execIsub_wf u d a b s hm
  | imul u d a b => exact execImul_wf u d a b s hm
  | imulhS u d a b => exact execImulhS_wf u d a b s hm
  | imulhZ u d a b => exact execImulhZ_wf u d a b s hm
  | imad u d a b => exact execImad_wf u d a b s hm
  | imin u z d a b => exact execImin_wf u z d a b s hm
  | imax u z d a b => exact execImax_wf u z d a b s hm
  | iabs d a => exact execIabs_wf d a s hm
  | and u d a b => exact execAnd_wf u d a b s hm
  | or u d a b => exact execOr_wf u d a b s hm
  | xor u d a b => exact execXor_wf u d a b s hm
  | andn u d a b => exact execAndn_wf u d a b s hm
  | shl u d a b => exact execShl_wf u d a b s hm
  | shr u d a b => exact execShr_wf u d a b s hm
  | sha u d a b => exact execSha_wf u d a b s hm
  | popc d a => exact execPopc_wf d a s hm
  | clz d a => exact execClz_wf d a s hm
  | brev d a => exact execBrev_wf d a s hm
  | bfx u z d a b => exact execBfx_wf u z d a b s hm
  | bfi u d a b => exact execBfi_wf u d a b s hm
  | icmp rel d a b => exact execIcmp_wf rel d a b s hm
  | sel u d a b => exact execSel_wf u d a b s hm
  | a64 u d a b => exact execA64_wf u d a b s hm
  | a64s u sc d a b => exact execA64s_wf u sc d a b s hm
  | shfl u pat d a b => exact execShfl_wf u pat d a b s hm
  | vany u d a b => exact execVany_wf u d a b s hm
  | vall u d a b => exact execVall_wf u d a b s hm
  | vbal u d a b => exact execVbal_wf u d a b s hm
  | radd u d a b => exact execRadd_wf u d a b s hm
  | rmin d a => exact execRmin_wf d a s hm
  | rmax d a => exact execRmax_wf d a s hm
  | idp4 u z d a b => exact execIdp4_wf u z d a b s hm
  | iaddi d a imm => exact execIaddi_wf d a imm s hm
  | andi d a imm => exact execAndi_wf d a imm s hm
  | ori d a imm => exact execOri_wf d a imm s hm
  | xori d a imm => exact execXori_wf d a imm s hm
  | shli d a imm => exact execShli_wf d a imm s hm
  | shri d a imm => exact execShri_wf d a imm s hm
  | shai d a imm => exact execShai_wf d a imm s hm
  | icmpi d a rel imm => exact execIcmpi_wf d a rel imm s hm
  | a64i d a imm => exact execA64i_wf d a imm s hm
  | li d imm => exact execLi_wf d imm s hm
  | lih d imm => exact execLih_wf d imm s hm
  | cbsel imm => exact execCbsel_wf imm s hm
  | fadd u rm d a b => exact execFadd_wf u rm d a b s hm
  | fsub u rm d a b => exact execFsub_wf u rm d a b s hm
  | fmul u rm d a b => exact execFmul_wf u rm d a b s hm
  | ffma u rm d a b => exact execFfma_wf u rm d a b s hm
  | ffms u rm d a b => exact execFfms_wf u rm d a b s hm
  | fmin u d a b => exact execFmin_wf u d a b s hm
  | fmax u d a b => exact execFmax_wf u d a b s hm
  | fneg d a => exact execFneg_wf d a s hm
  | fabs d a => exact execFabs_wf d a s hm
  | fcpsgn u d a b => exact execFcpsgn_wf u d a b s hm
  | fcmp rel d a b => exact execFcmp_wf rel d a b s hm
  | fsqrt rm d a => exact execFsqrt_wf rm d a s hm
  | frcp d a => exact execFrcp_wf d a s hm
  | frsq d a => exact execFrsq_wf d a s hm
  | fexp2 d a => exact execFexp2_wf d a s hm
  | flog2 d a => exact execFlog2_wf d a s hm
  | ftanh d a => exact execFtanh_wf d a s hm
  | hadd2 u rm d a b => exact execHadd2_wf u rm d a b s hm
  | hmul2 u rm d a b => exact execHmul2_wf u rm d a b s hm
  | hfma2 u rm d a b => exact execHfma2_wf u rm d a b s hm
  | hmax2 u d a b => exact execHmax2_wf u d a b s hm
  | cvtf rm d a tgt => exact execCvtf_wf rm d a tgt s hm
  | cvti rm d a tgt => exact execCvti_wf rm d a tgt s hm
  | cvtfi rm d a tgt => exact execCvtfi_wf rm d a tgt s hm
  | pk2 rm d a tgt => exact execPk2_wf rm d a tgt s hm
  | pk4 rm d a tgt => exact execPk4_wf rm d a tgt s hm
  | unpk2 d a tgt => exact execUnpk2_wf d a tgt s hm
  | unpk4 d a tgt => exact execUnpk4_wf d a tgt s hm
  | dqcb rm d a tgt => exact execDqcb_wf rm d a tgt s hm
  | dqe2 rm d a tgt => exact execDqe2_wf rm d a tgt s hm
  | qcb rm d a => exact execQcb_wf rm d a s hm
  | qe2 rm d a => exact execQe2_wf rm d a s hm
  | tagrd d a => exact execTagrd_wf d a s hm
  | tagset d a tgt => exact execTagset_wf d a tgt s hm
  | ld sz t a off => exact execLd_wf sz t a off s hm
  | st sz t a off => exact execSt_wf sz t a off s hm
  | ldo sz t a scope ord last => exact execLdo_wf sz t a scope ord last s hm
  | sto sz t a scope ord => exact execSto_wf sz t a scope ord s hm
  | ldl sz t a off => exact execLdl_wf sz t a off s hm
  | stl sz t a off => exact execStl_wf sz t a off s hm
  | ldcb t a off => exact execLdcb_wf t a off s hm
  | modw sz t a scope ord => exact execModw_wf sz t a scope ord s hm
  | aadd sz t a scope ord => exact execAadd_wf sz t a scope ord s hm
  | amin sz t a scope ord z => exact execAmin_wf sz t a scope ord z s hm
  | amax sz t a scope ord z => exact execAmax_wf sz t a scope ord z s hm
  | aand sz t a scope ord => exact execAand_wf sz t a scope ord s hm
  | aor sz t a scope ord => exact execAor_wf sz t a scope ord s hm
  | axor sz t a scope ord => exact execAxor_wf sz t a scope ord s hm
  | axch sz t a scope ord => exact execAxch_wf sz t a scope ord s hm
  | acas sz t a scope ord => exact execAcas_wf sz t a scope ord s hm
  | acasQ t a scope ord => exact execAcasQ_wf t a scope ord s hm
  | afadd t a scope ord => exact execAfadd_wf t a scope ord s hm
  | tkt d a b ua ub => exact execTkt_wf d a b ua ub s hm
  | depadd d a b ua ub => exact execDepadd_wf d a b ua ub s hm
  | cpy d a b ua ub => exact execCpy_wf d a b ua ub s hm
  | cpyt d a b ua ub => exact execCpyt_wf d a b ua ub s hm
  | cpyg d a b ua ub => exact execCpyg_wf d a b ua ub s hm
  | cpyw d a b ua ub => exact execCpyw_wf d a b ua ub s hm
  | pub a ua => exact execPub_wf a ua s hm
  | disc a b ua ub => exact execDisc_wf a b ua ub s hm
  | pref a b ua ub => exact execPref_wf a b ua ub s hm
  | smap a b ua ub => exact execSmap_wf a b ua ub s hm
  | sflush a b ua ub => exact execSflush_wf a b ua ub s hm
  | sdrop a ua => exact execSdrop_wf a ua s hm
  | tilev a b ua ub => exact execTilev_wf a b ua ub s hm
  | tilec a b ua ub => exact execTilec_wf a b ua ub s hm
  | tileclr a b ua ub => exact execTileclr_wf a b ua ub s hm
  | coll d a b ua ub => exact execColl_wf d a b ua ub s hm
  | br p off slot => exact execBr_wf p off slot s hm
  | brz p off slot => exact execBrz_wf p off slot s hm
  | jmp off slot => exact execJmp_wf off slot s hm
  | call p off slot => exact execCall_wf p off slot s hm
  | rbeg p off slot => exact execRbeg_wf p off slot s hm
  | jr a ua => exact execJr_wf a ua s hm
  | ret a ua => exact execRet_wf a ua s hm
  | exit => exact execExit_wf s hm
  | yield => exact execYield_wf s hm
  | idem => exact execIdem_wf s hm
  | tret => exact execTret_wf s hm
  | tabn => exact execTabn_wf s hm
  | tkill => exact execTkill_wf s hm
  | rcmt => exact execRcmt_wf s hm
  | rabt => exact execRabt_wf s hm
  | rds d imm => exact execRds_wf d imm s hm
  | wrs a imm => exact execWrs_wf a imm s hm
  | regclm n => exact execRegclm_wf n s hm
  | regrel n => exact execRegrel_wf n s hm
  | spawn d a ua => exact execSpawn_wf d a ua s hm
  | spawnw d a ua => exact execSpawnw_wf d a ua s hm
  | waitc ctr n => exact execWaitc_wf ctr n s hm
  | phreg d a b => exact execPhreg_wf d a b s hm
  | phmode d a b => exact execPhmode_wf d a b s hm
  | phdrop d a => exact execPhdrop_wf d a s hm
  | phsig d a => exact execPhsig_wf d a s hm
  | phwait d a => exact execPhwait_wf d a s hm
  | phnext d a => exact execPhnext_wf d a s hm
  | rngi a b => exact execRngi_wf a b s hm
  | rngw a b => exact execRngw_wf a b s hm
  | rngs a b => exact execRngs_wf a b s hm
  | rstat d => exact execRstat_wf d s hm
  | cstat d a b ua ub => exact execCstat_wf d a b ua ub s hm
  | trap imm => exact execTrap_wf imm s hm
  | brk imm => exact execBrk_wf imm s hm
  | prop d a => exact execProp_wf d a s hm
  | trctl d a b => exact execTrctl_wf d a b s hm
  | tkey d => exact execTkey_wf d s hm
  | mmqBf16 tile a b sb => exact execMmqBf16_wf tile a b sb s hm
  | mmqF16 tile a b sb => exact execMmqF16_wf tile a b sb s hm
  | mmqE4m3 tile a b sb => exact execMmqE4m3_wf tile a b sb s hm
  | mmqE5m2 tile a b sb => exact execMmqE5m2_wf tile a b sb s hm
  | mmqI8 tile a b sb => exact execMmqI8_wf tile a b sb s hm
  | mmqCb4 tile a b sb => exact execMmqCb4_wf tile a b sb s hm
  | mmqCbbf tile a b sb => exact execMmqCbbf_wf tile a b sb s hm
  | mmqE2m1 tile a b sb ol => exact execMmqE2m1_wf tile a b sb ol s hm
  | mmz tile => exact execMmz_wf tile s hm
  | mmrd tile a => exact execMmrd_wf tile a s hm
  | mmwr tile a => exact execMmwr_wf tile a s hm
  | mmst tile a => exact execMmst_wf tile a s hm
  | mmld tile a => exact execMmld_wf tile a s hm
  | post q width v => exact execPost_wf q width v s hm
  | qcfgWrite q sup v => exact execQcfgWrite_wf q sup v s hm
  | qovfbaseWrite q sup v => exact execQovfbaseWrite_wf q sup v s hm
  | qovfszWrite q sup v => exact execQovfszWrite_wf q sup v s hm
  | qrbaseWrite q sup v => exact execQrbaseWrite_wf q sup v s hm
  | registerWrite off width sup v => exact execRegisterWrite_wf off width sup v s hm
  | attestationGo v => exact execAttestationGo_wf v s hm
  | attestationReportReady => exact execAttestationReportReady_wf s hm
  | readHealthSummary => exact execReadHealthSummary_wf s hm
  | readPower => exact execReadPower_wf s hm
  | readTemperature => exact execReadTemperature_wf s hm
  | requestReport nonce ctx => exact execRequestReport_wf nonce ctx s hm
  | readReport => exact execReadReport_wf s hm
  | setPowerStateP0 => exact execSetPowerStateP0_wf s hm
  | setPowerStateP1 => exact execSetPowerStateP1_wf s hm
  | setPowerStateP2 => exact execSetPowerStateP2_wf s hm
  | setPowerStateOff => exact execSetPowerStateOff_wf s hm
  | setdasa addr => exact execSetdasa_wf addr s hm
  | powerStateExitComplete => exact execPowerStateExitComplete_wf s hm
  | enterP1 => exact execEnterP1_wf s hm
  | packageReset => exact execPackageReset_wf s hm
  | bootLoadFirstStage loaded image => exact execBootLoadFirstStage_wf loaded image s hm
  | bootLoadNewelFirmware loaded image => exact execBootLoadNewelFirmware_wf loaded image s hm
  | bootLoadCollectiveMicrocode loaded image => exact execBootLoadCollectiveMicrocode_wf loaded image s hm
  | bootRelease links => exact execBootRelease_wf links s hm
  | firmwareReload image => exact execFirmwareReload_wf image s hm
  | thermalSet => exact execThermalSet_wf s hm
  | thermalClear => exact execThermalClear_wf s hm
  | thermalShutdown => exact execThermalShutdown_wf s hm
  | contextCreate ctx p => exact execContextCreate_wf ctx p s hm
  | setTrapBase ctx tbase => exact execSetTrapBase_wf ctx tbase s hm
  | setWayQuota ctx w a k o => exact execSetWayQuota_wf ctx w a k o s hm
  | defineCollectiveSet ctx set pkgs => exact execDefineCollectiveSet_wf ctx set pkgs s hm
  | setGranuleTags ctx va n tag => exact execSetGranuleTags_wf ctx va n tag s hm
  | shootdownRequest ctx va leaf => exact execShootdownRequest_wf ctx va leaf s hm
  | shootdownComplete ctx va => exact execShootdownComplete_wf ctx va s hm
  | contextKill ctx => exact execContextKill_wf ctx s hm
  | queueVisit q => exact execQueueVisit_wf q s hm
  | bindRecordWrite r => exact execBindRecordWrite_wf r s hm
  | preemptionComplete ctx seq gang => exact execPreemptionComplete_wf ctx seq gang s hm
  | restore ctx seq gang binds bad => exact execRestore_wf ctx seq gang binds bad s hm
  | blockRetire ctx seq blk => exact execBlockRetire_wf ctx seq blk s hm
  | taskRetire ctx seq => exact execTaskRetire_wf ctx seq s hm
  | queueDeadlockSample q => exact execQueueDeadlockSample_wf q s hm
  | packetFetchFill hall ctx va => exact execPacketFetchFill_wf hall ctx va s hm
  | tlbWalkComplete hall ctx va => exact execTlbWalkComplete_wf hall ctx va s hm
  | pageResident ctx va leaf => exact execPageResident_wf ctx va leaf s hm
  | migrationStart ctx va => exact execMigrationStart_wf ctx va s hm
  | migrationComplete ctx va frame => exact execMigrationComplete_wf ctx va frame s hm
  | loadReturn hall slot n k => exact execLoadReturn_wf hall slot n k s hm
  | storePerformed hall slot n k => exact execStorePerformed_wf hall slot n k s hm
  | atomicPerformed hall slot n k => exact execAtomicPerformed_wf hall slot n k s hm
  | copyCommandRetire hall n r w => exact execCopyCommandRetire_wf hall n r w s hm
  | cpygRowGather hall n => exact execCpygRowGather_wf hall n s hm
  | pubInstant ctx entry => exact execPubInstant_wf ctx entry s hm
  | pubRetire ctx entry => exact execPubRetire_wf ctx entry s hm
  | mmqRetire hall slot mismatch => exact execMmqRetire_wf hall slot mismatch s hm
  | regionRestart hall slot => exact execRegionRestart_wf hall slot s hm
  | commitTimeout hall slot lane => exact execCommitTimeout_wf hall slot lane s hm
  | relabel ctx arena keys => exact execRelabel_wf ctx arena keys s hm
  | staleTaskRestart ctx seq => exact execStaleTaskRestart_wf ctx seq s hm
  | propagationComplete ctx arena => exact execPropagationComplete_wf ctx arena s hm
  | partialValueReceive ctx set cid chunk tsid child data flags head => exact execPartialValueReceive_wf ctx set cid chunk tsid child data flags head s hm
  | chunkAck ctx set cid chunk tsid rank => exact execChunkAck_wf ctx set cid chunk tsid rank s hm
  | collectiveComplete ctx set cid => exact execCollectiveComplete_wf ctx set cid s hm
  | collectiveFail ctx set cid cause => exact execCollectiveFail_wf ctx set cid cause s hm
  | linkDownDeclare pkg port => exact execLinkDownDeclare_wf pkg port s hm
  | linkTableUpdate entry => exact execLinkTableUpdate_wf entry s hm
  | treeSetRecompute trees => exact execTreeSetRecompute_wf trees s hm
  | lockstepIntervalCompare ctx digest => exact execLockstepIntervalCompare_wf ctx digest s hm
  | lockstepDecisionApply d => exact execLockstepDecisionApply_wf d s hm
  | errorCorrected unit kind => exact execErrorCorrected_wf unit kind s hm
  | scoreDecay => exact execScoreDecay_wf s hm
  | unitTestComplete unit pass => exact execUnitTestComplete_wf unit pass s hm
  | uncorrectableError place => exact execUncorrectableError_wf place s hm
  | gangKill ctx seq gang => exact execGangKill_wf ctx seq gang s hm
  | lockstepDivergeClear v => exact execLockstepDivergeClear_wf v s hm
  | debugRightWrite ctx sup v => exact execDebugRightWrite_wf ctx sup v s hm
  | haltGroup ctx v => exact execHaltGroup_wf ctx v s hm
  | resumeGroup ctx v => exact execResumeGroup_wf ctx v s hm
  | stepGroup ctx v => exact execStepGroup_wf ctx v s hm
  | haltContext ctx v => exact execHaltContext_wf ctx v s hm
  | resumeContext ctx v => exact execResumeContext_wf ctx v s hm
  | traceGroupOn ctx v => exact execTraceGroupOn_wf ctx v s hm
  | traceGroupOff ctx v => exact execTraceGroupOff_wf ctx v s hm
  | selectGroup ctx v => exact execSelectGroup_wf ctx v s hm
  | traceAllOn ctx v => exact execTraceAllOn_wf ctx v s hm
  | traceAllOff ctx v => exact execTraceAllOff_wf ctx v s hm
  | dump ctx v => exact execDump_wf ctx v s hm
  | coreDump ctx => exact execCoreDump_wf ctx s hm
  | groupViewEdit ctx e => exact execGroupViewEdit_wf ctx e s hm
  | smpcfgWrite ctx v => exact execSmpcfgWrite_wf ctx v s hm
  | sampleFire hall ctx => exact execSampleFire_wf hall ctx s hm
  | rpctlWrite ctx v => exact execRpctlWrite_wf ctx v s hm
  | replayRelease hall slot => exact execReplayRelease_wf hall slot s hm
  | unlistedI3cCommand code => exact execUnlistedI3cCommand_wf code s hm
  | setPowerStateOtherByte b => exact execSetPowerStateOtherByte_wf b s hm
  | linkUp entry => exact execLinkUp_wf entry s hm
  | lockstepBridgeTrained => exact execLockstepBridgeTrained_wf s hm
  | lockstepBridgeLost => exact execLockstepBridgeLost_wf s hm
  | contextDestroy ctx => exact execContextDestroy_wf ctx s hm
  | hostAccess ctx va write len data => exact execHostAccess_wf ctx va write len data s hm
  | tagVerdict line => exact execTagVerdict_wf line s hm
  | collAccept hall slot => exact execCollAccept_wf hall slot s hm
  | cstatAnswer hall slot n => exact execCstatAnswer_wf hall slot n s hm
  | propAnswer hall slot => exact execPropAnswer_wf hall slot s hm
  | commitOutcome hall slot k => exact execCommitOutcome_wf hall slot k s hm
  | stashCommandDone hall n => exact execStashCommandDone_wf hall n s hm
  | sliceRehomingDone unit => exact execSliceRehomingDone_wf unit s hm
  | chunkBroadcastReceive ctx set cid chunk tsid data flags => exact execChunkBroadcastReceive_wf ctx set cid chunk tsid data flags s hm

/-- An attempt to issue keeps the canonical form of memory. -/
def attemptWf : Attempt → Prop
  | .go o => outWf o
  | _ => True

/-- So does a fetch. -/
def fetchedWf : Fetched → Prop
  | .packet _ s => Memory.wf s.mem = true
  | _ => True

theorem State.runWord_wf (s : State) (w : Word × Instr) (follow : Bool) (hm : Memory.wf s.mem = true) :
    outWf (State.runWord s w follow) := exec_wf _ _ hm

theorem runAll_wf (cbs : BitVec 3) (ws : List (Word × Instr)) (follow : Bool) (s : State) (hm : Memory.wf s.mem = true) :
    outWf (runAll cbs ws follow s) := by
  induction ws generalizing follow s with
  | nil => exact hm
  | cons w r ih =>
    unfold runAll
    have h := State.runWord_wf (State.updG s (fun g => { g with cbs := cbs })) w follow (by simpa using hm)
    generalize State.runWord _ w follow = o at h
    cases o with
    | next t =>
      refine ih _ _ ?_
      split
      · exact h
      · simpa using h
    | fault r => exact h
    | refused r => exact h

theorem runParking_wf (s : State) (p q : List (Word × Instr)) (hm : Memory.wf s.mem = true) : outWf (runParking s p q) := by
  unfold runParking
  cases q with
  | nil => exact runAll_wf _ _ _ _ hm
  | cons w r =>
    dsimp only
    split
    · have h2 := State.runWord_wf s w false hm
      generalize State.runWord s w false = o2 at h2
      cases o2 with
      | next u => simpa using h2
      | fault r => exact h2
      | refused r => exact h2
    · have h := runAll_wf s.g.cbs p false s hm
      generalize runAll s.g.cbs p false s = o at h
      cases o with
      | next t =>
        have h2 := State.runWord_wf t w (!p.isEmpty) h
        dsimp only
        generalize State.runWord t w (!p.isEmpty) = o2 at h2
        cases o2 with
        | next u => simpa using h2
        | fault r => exact h2
        | refused r => exact h2
      | fault r => exact h
      | refused r => exact h

/-- The stall that is chosen is one of the attempts. -/
theorem firstStall_mem (tries : List ((Word × Instr) × Out)) : ∀ x ∈ firstStall tries, x ∈ tries := by
  unfold firstStall
  have key : ∀ (l : List ((Word × Instr) × Out)) (r : Option ((Word × Instr) × Out)),
      (∀ x ∈ l, x ∈ tries) → (∀ x ∈ r, x ∈ tries) →
      ∀ x ∈ (l.foldl (fun (r : Option ((Word × Instr) × Out)) t =>
        match r with
        | none => some t
        | some u => if stallRank t.2 < stallRank u.2 then some t else some u) r), x ∈ tries := by
    intro l
    induction l with
    | nil => intro r _ hr; exact hr
    | cons a l ih =>
      intro r hl hr
      refine ih _ (fun x hx => hl x (List.mem_cons_of_mem _ hx)) ?_
      have ha := hl a (List.mem_cons_self ..)
      intro x hx
      dsimp only at hx
      split at hx
      · cases hx; exact ha
      · rename_i u
        split at hx
        · cases hx; exact ha
        · cases hx; exact hr _ rfl
  exact key _ none (fun x hx => List.mem_of_mem_filter hx) (fun x hx => by cases hx)

theorem runChain_wf (ws : List (Word × Instr)) (s : State) (hm : Memory.wf s.mem = true) : outWf (runChain ws s) := by
  have hin : ∀ x ∈ ws.map (fun w => (w, State.runWord s w false)), outWf x.2 := by
    intro x h
    obtain ⟨w, _, rfl⟩ := List.mem_map.1 h
    exact State.runWord_wf _ _ _ hm
  have hall : ∀ p x, (ws.map (fun w => (w, State.runWord s w false))).find? p = some x → outWf x.2 :=
    fun p x h => hin x (List.mem_of_find?_eq_some h)
  unfold runChain
  split
  · exact State.runWord_wf _ _ _ hm
  · dsimp only
    split
    · rename_i h; exact hin _ (firstStall_mem _ _ h)
    · split
      · rename_i h; exact hall _ _ h
      · split
        · rename_i h; exact hall _ _ h
        · split
          · exact runAll_wf _ _ _ _ hm
          · exact runParking_wf _ _ _ hm

theorem State.fetch_wf (s : State) (g : Group) (pc : Word) (hm : Memory.wf s.mem = true) : fetchedWf (State.fetch s g pc) := by
  unfold State.fetch
  dsimp only
  repeat' split
  all_goals first | trivial | exact hm | exact State.fillPacket_wf _ _ _ _ _ hm

@[simp] theorem State.issued_mem (s : State) (h k f n : Nat) (y m : Bool) : (State.issued s h k f n y m).mem = s.mem := by
  unfold State.issued
  dsimp only
  split <;> simp

theorem State.afterChain_wf (s : State) (g : Group) (hm : Memory.wf s.mem = true) : Memory.wf (State.afterChain s g).mem = true := by
  unfold State.afterChain
  split
  · exact hm
  · split
    · exact (congrArg Memory.wf (State.haltHere_mem _ _)).trans hm
    · exact hm

theorem State.watchStop_wf (s : State) (hm : Memory.wf s.mem = true) : ∀ t ∈ State.watchStop s, Memory.wf t.mem = true := by
  intro t ht
  unfold State.watchStop at ht
  split at ht
  · cases ht
  · dsimp only at ht
    split at ht
    · cases ht; simpa using hm
    · cases ht; exact State.takeTrap_wf _ _ _ _ _ hm

theorem State.waitOf_wf (s : State) (is : List (Word × Instr)) : attemptWf (State.waitOf s is) := by
  unfold State.waitOf
  dsimp only
  repeat' split
  all_goals trivial

theorem State.attempt_wf (s : State) (hm : Memory.wf s.mem = true) : attemptWf (State.attempt s) := by
  unfold State.attempt
  dsimp only
  split
  · trivial
  · rename_i a ha
    split
    · exact (congrArg Memory.wf (State.haltHere_mem _ _)).trans hm
    · split
      · exact (congrArg Memory.wf (State.updG_mem _ _)).trans hm
      · have hf := State.fetch_wf
          { s with cur := { mask := Group.activeMask s.g, chainPc := a, wordPc := a, status := .done, fresh := false, follow := false, srcs := [] } }
          s.g a hm
        split
        · trivial
        · exact State.afterChain_wf _ _ ((congrArg Memory.wf (State.issued_mem _ _ _ _ _ _ _)).trans (State.takeTrap_wf _ _ _ _ _ hm))
        · rename_i ws s1 he
          rw [he] at hf
          have h1 : Memory.wf s1.mem = true := hf
          split
          · exact State.waitOf_wf _ _
          · have h2 := State.traceSync_wf s1 h1
            generalize State.traceSync s1 = s2 at h2
            split
            · exact State.afterChain_wf _ _ ((congrArg Memory.wf (State.issued_mem _ _ _ _ _ _ _)).trans (State.takeTrap_wf _ _ _ _ _ h2))
            · have h3 := runChain_wf ((Chain.instrs (readChain ws a)).getD []) s2 h2
              generalize runChain _ s2 = o at h3
              cases o with
              | next t =>
                dsimp only
                split
                · split
                  · trivial
                  · exact h3
                · refine State.afterChain_wf _ _ ((congrArg Memory.wf (State.issued_mem _ _ _ _ _ _ _)).trans ?_)
                  split
                  · split
                    · exact State.traceBranch_wf _ _ _ _ _ h3
                    · exact h3
                  · exact h3
              | fault r => exact h3
              | refused r => exact h3

theorem runEach_wf (cbs : BitVec 3) (ws : List (Word × Instr)) (s : State) (hm : Memory.wf s.mem = true) :
    outWf (runEach cbs ws s) := by
  induction ws generalizing s with
  | nil => exact hm
  | cons w r ih =>
    unfold runEach
    have h := runAll_wf cbs [w] true s hm
    generalize runAll cbs [w] true s = o at h
    cases o with
    | next t =>
      dsimp only
      split
      · exact ih t h
      · exact h
    | fault r => exact h
    | refused r => exact h

theorem runRest_wf (s0 : State) (w : WaitRec) (ws : List (Word × Instr)) (t : State) (h0 : Memory.wf s0.mem = true)
    (hm : Memory.wf t.mem = true) : outWf (runRest s0 w ws t) := by
  induction ws generalizing t with
  | nil => simpa [runRest] using hm
  | cons r rs ih =>
    unfold runRest
    have h := State.runWord_wf t r true hm
    generalize State.runWord t r true = o at h
    cases o with
    | next u =>
      dsimp only
      split
      · exact ih u h
      · simpa using h0
      · simpa using h
      · exact h
    | fault r => exact h
    | refused r => exact h

theorem State.retest_wf (s : State) (hm : Memory.wf s.mem = true) : ∀ o ∈ State.retest s, outWf o := by
  intro o ho
  unfold State.retest at ho
  cases hw : s.g.wait with
  | none => rw [hw] at ho; cases ho
  | some w =>
    rw [hw] at ho
    dsimp only at ho
    have key : ∀ x : Out, outWf x → (∀ y ∈ (match x with
        | .next t => if ((Status.isParked t.cur.status || Status.isStalled t.cur.status) && t.g == s.g && t.events == s.events) = true
            then none else some (Host.Outcome.next t)
        | o => some o : Option Out), outWf y) := by
      intro x hx y hy
      cases x with
      | next t =>
        dsimp only at hy
        split at hy
        · cases hy
        · cases hy; exact hx
      | fault r => cases hy; exact hx
      | refused r => cases hy; exact hx
    refine key _ ?_ o ho
    generalize hs : ({ s with cur := _ } : State) = s0
    have h0 : Memory.wf s0.mem = true := by rw [← hs]; exact hm
    have hx : outWf (if w.sat = true then Host.Outcome.next s0 else State.runWord s0 (w.wordPc, w.instr) true) := by
      split
      · exact h0
      · exact State.runWord_wf _ _ _ h0
    generalize (if w.sat = true then Host.Outcome.next s0 else State.runWord s0 (w.wordPc, w.instr) true : Out) = e at hx
    cases e with
    | fault r => exact hx
    | refused r => exact hx
    | next t =>
      dsimp only
      split
      · exact hx
      · have h1 := runEach_wf s.g.cbs w.plain s0 h0
        generalize runEach s.g.cbs w.plain s0 = e1 at h1
        cases e1 with
        | fault r => exact h1
        | refused r => exact h1
        | next t0 =>
          dsimp only
          split
          · exact h1
          · generalize hE : (if w.sat = true then Host.Outcome.next _ else State.runWord _ (w.wordPc, w.instr) true : Out) = e2
            have h3 : outWf e2 := by
              rw [← hE]
              split
              · simpa using h1
              · exact State.runWord_wf _ _ _ h1
            cases e2 with
            | fault r => exact h3
            | refused r => exact h3
            | next u =>
              dsimp only
              split
              · exact runRest_wf _ _ _ _ h0 h3
              · exact h3

theorem State.serve_wf (s : State) (g : Group) (hm : Memory.wf s.mem = true) : ∀ o ∈ State.serve s g, outWf o := by
  intro o ho
  unfold State.serve at ho
  have hp : Memory.wf (State.toPort s g.hall g.slot).mem = true := (congrArg Memory.wf (State.toPort_mem _ _ _)).trans hm
  dsimp only at ho
  generalize State.toPort s g.hall g.slot = p at hp ho
  have hh : ∀ k, Memory.wf (State.haltHere p k).mem = true := fun k => (congrArg Memory.wf (State.haltHere_mem _ _)).trans hp
  split at ho
  · cases ho
  · split at ho
    · rename_i t ht
      cases ho
      split at ht
      · split at ht
        · cases ht; exact hh _
        · cases ht
      · cases ht
    · split at ho
      · rename_i t ht
        cases ho
        split at ht
        · cases ht
        · exact State.watchStop_wf p hp t ht
      · split at ho
        · split at ho
          · exact State.retest_wf p hp o ho
          · cases ho
        · cases ho

theorem State.tryGroup_wf (s : State) (g : Group) (hm : Memory.wf s.mem = true) : attemptWf (State.tryGroup s g) := by
  unfold State.tryGroup
  split
  · trivial
  · split
    · trivial
    · have h := State.attempt_wf (State.toPort s g.hall g.slot) ((congrArg Memory.wf (State.toPort_mem _ _ _)).trans hm)
      generalize State.attempt _ = e at h
      cases e with
      | idle => trivial
      | blocked r w => dsimp only; split <;> trivial
      | go o =>
        dsimp only
        split
        · trivial
        · exact h

theorem State.able_wf (s : State) (hm : Memory.wf s.mem = true) : ∀ x ∈ State.able s, outWf x.2 := by
  intro x hx
  obtain ⟨g, _, hg⟩ := List.mem_filterMap.1 hx
  split at hg
  · have h := State.tryGroup_wf s g hm
    generalize State.tryGroup s g = e at h hg
    cases e with
    | idle => cases hg
    | blocked r w => cases hg
    | go o => cases hg; exact h
  · cases hg

theorem State.choose_wf (s : State) (hm : Memory.wf s.mem = true) :
    ∀ x ∈ State.choose s (choices (State.able s)), outWf x.2 := by
  intro x hx
  unfold State.choose at hx
  exact State.able_wf s hm x (List.mem_of_mem_filter (List.mem_of_find?_eq_some hx))

@[simp] theorem State.refuse_mem (s t : State) (x : Group × Out) (cs : List (Group × Out)) : (State.refuse s t x cs).mem = t.mem := by
  unfold State.refuse
  split
  · rfl
  · refine State.foldl_mem _ _ (fun t y => ?_) t
    split <;> simp

theorem State.pass_wf (s : State) (hm : Memory.wf s.mem = true) : Memory.wf (State.pass s).mem = true :=
  (congrArg Memory.wf (State.settleStores_mem _)).trans
    (State.runCollectives_wf _ ((congrArg Memory.wf (State.startCmds_mem _)).trans hm))

theorem State.tick_wf (s : State) (hm : Memory.wf s.mem = true) : Memory.wf (State.tick s).mem = true := by
  have h := State.pass_wf s hm
  unfold State.tick
  generalize State.pass s = t at h
  exact h

end Sys2Proof.Machine
end

