-- ==== Sys2Proof/Laws/PerInstr.lean ====
section
/-! SUPPORT. The per-instruction lemmas of the family RoundTrip: the word of an instruction, with either chain bit and every
operand at every value, decodes to that instruction (R88, R95, R100 to R103). -/

namespace Sys2Proof.Laws.RoundTrip

set_option Elab.async false

/-- The words of an instruction decode to it. -/
def Statement (i : Instr) : Prop :=
  ∀ (c : Bool) (w : Nat), encodeChainWord ⟨c, i⟩ = some w → decodeChainWord w = .ok ⟨c, i⟩

theorem bitOf_lt (b : Bool) : bitOf b < 2 := by cases b <;> decide
theorem bitOf_beq (b : Bool) : (bitOf b == 1) = b := by cases b <;> rfl

/-! Fields of a word in place notation: the lowest field, and a field above it. -/

theorem low1 {q x : Nat} (h : x < 2) : bits (q * 2 + x) 0 1 = x := by simp only [bits]; omega
theorem up1 {q x k n : Nat} (h : x < 2) : bits (q * 2 + x) (k + 1) n = bits q k n := by
  simp only [bits, Nat.pow_add]; rw [Nat.mul_comm (2 ^ k), ← Nat.div_div_eq_div_mul]; congr 3; omega
theorem low2 {q x : Nat} (h : x < 4) : bits (q * 4 + x) 0 2 = x := by simp only [bits]; omega
theorem up2 {q x k n : Nat} (h : x < 4) : bits (q * 4 + x) (k + 2) n = bits q k n := by
  simp only [bits, Nat.pow_add]; rw [Nat.mul_comm (2 ^ k), ← Nat.div_div_eq_div_mul]; congr 3; omega
theorem low3 {q x : Nat} (h : x < 8) : bits (q * 8 + x) 0 3 = x := by simp only [bits]; omega
theorem up3 {q x k n : Nat} (h : x < 8) : bits (q * 8 + x) (k + 3) n = bits q k n := by
  simp only [bits, Nat.pow_add]; rw [Nat.mul_comm (2 ^ k), ← Nat.div_div_eq_div_mul]; congr 3; omega
theorem low4 {q x : Nat} (h : x < 16) : bits (q * 16 + x) 0 4 = x := by simp only [bits]; omega
theorem up4 {q x k n : Nat} (h : x < 16) : bits (q * 16 + x) (k + 4) n = bits q k n := by
  simp only [bits, Nat.pow_add]; rw [Nat.mul_comm (2 ^ k), ← Nat.div_div_eq_div_mul]; congr 3; omega
theorem low5 {q x : Nat} (h : x < 32) : bits (q * 32 + x) 0 5 = x := by simp only [bits]; omega
theorem up5 {q x k n : Nat} (h : x < 32) : bits (q * 32 + x) (k + 5) n = bits q k n := by
  simp only [bits, Nat.pow_add]; rw [Nat.mul_comm (2 ^ k), ← Nat.div_div_eq_div_mul]; congr 3; omega
theorem low7 {q x : Nat} (h : x < 128) : bits (q * 128 + x) 0 7 = x := by simp only [bits]; omega
theorem up7 {q x k n : Nat} (h : x < 128) : bits (q * 128 + x) (k + 7) n = bits q k n := by
  simp only [bits, Nat.pow_add]; rw [Nat.mul_comm (2 ^ k), ← Nat.div_div_eq_div_mul]; congr 3; omega
theorem low8 {q x : Nat} (h : x < 256) : bits (q * 256 + x) 0 8 = x := by simp only [bits]; omega
theorem up8 {q x k n : Nat} (h : x < 256) : bits (q * 256 + x) (k + 8) n = bits q k n := by
  simp only [bits, Nat.pow_add]; rw [Nat.mul_comm (2 ^ k), ← Nat.div_div_eq_div_mul]; congr 3; omega
theorem low10 {q x : Nat} (h : x < 1024) : bits (q * 1024 + x) 0 10 = x := by simp only [bits]; omega
theorem up10 {q x k n : Nat} (h : x < 1024) : bits (q * 1024 + x) (k + 10) n = bits q k n := by
  simp only [bits, Nat.pow_add]; rw [Nat.mul_comm (2 ^ k), ← Nat.div_div_eq_div_mul]; congr 3; omega
theorem low13 {q x : Nat} (h : x < 8192) : bits (q * 8192 + x) 0 13 = x := by simp only [bits]; omega
theorem up13 {q x k n : Nat} (h : x < 8192) : bits (q * 8192 + x) (k + 13) n = bits q k n := by
  simp only [bits, Nat.pow_add]; rw [Nat.mul_comm (2 ^ k), ← Nat.div_div_eq_div_mul]; congr 3; omega
theorem low14 {q x : Nat} (h : x < 16384) : bits (q * 16384 + x) 0 14 = x := by simp only [bits]; omega
theorem up14 {q x k n : Nat} (h : x < 16384) : bits (q * 16384 + x) (k + 14) n = bits q k n := by
  simp only [bits, Nat.pow_add]; rw [Nat.mul_comm (2 ^ k), ← Nat.div_div_eq_div_mul]; congr 3; omega
theorem low15 {q x : Nat} (h : x < 32768) : bits (q * 32768 + x) 0 15 = x := by simp only [bits]; omega
theorem up15 {q x k n : Nat} (h : x < 32768) : bits (q * 32768 + x) (k + 15) n = bits q k n := by
  simp only [bits, Nat.pow_add]; rw [Nat.mul_comm (2 ^ k), ← Nat.div_div_eq_div_mul]; congr 3; omega
theorem low17 {q x : Nat} (h : x < 131072) : bits (q * 131072 + x) 0 17 = x := by simp only [bits]; omega
theorem up17 {q x k n : Nat} (h : x < 131072) : bits (q * 131072 + x) (k + 17) n = bits q k n := by
  simp only [bits, Nat.pow_add]; rw [Nat.mul_comm (2 ^ k), ← Nat.div_div_eq_div_mul]; congr 3; omega
theorem low20 {q x : Nat} (h : x < 1048576) : bits (q * 1048576 + x) 0 20 = x := by simp only [bits]; omega
theorem up20 {q x k n : Nat} (h : x < 1048576) : bits (q * 1048576 + x) (k + 20) n = bits q k n := by
  simp only [bits, Nat.pow_add]; rw [Nat.mul_comm (2 ^ k), ← Nat.div_div_eq_div_mul]; congr 3; omega
theorem low21 {q x : Nat} (h : x < 2097152) : bits (q * 2097152 + x) 0 21 = x := by simp only [bits]; omega
theorem up21 {q x k n : Nat} (h : x < 2097152) : bits (q * 2097152 + x) (k + 21) n = bits q k n := by
  simp only [bits, Nat.pow_add]; rw [Nat.mul_comm (2 ^ k), ← Nat.div_div_eq_div_mul]; congr 3; omega
theorem low24 {q x : Nat} (h : x < 16777216) : bits (q * 16777216 + x) 0 24 = x := by simp only [bits]; omega
theorem up24 {q x k n : Nat} (h : x < 16777216) : bits (q * 16777216 + x) (k + 24) n = bits q k n := by
  simp only [bits, Nat.pow_add]; rw [Nat.mul_comm (2 ^ k), ← Nat.div_div_eq_div_mul]; congr 3; omega
theorem top1 {x : Nat} (h : x < 2) : bits x 0 1 = x := by simp only [bits]; omega

theorem nop : Statement (.nop) := by
  intro ch w h
  simp only [encodeChainWord, encode, Option.map_some, Option.some.injEq] at h
  have hc := bitOf_lt ch
  have hw : w = (((bitOf ch) * 8 + 0) * 16 + 0) * 16777216 + 0 := by omega
  have eH : bits w 28 3 = 0 := hw ▸ (up24 (by decide)).trans ((up4 (by decide)).trans (low3 (by decide)))
  have eM : bits w 24 4 = 0 := hw ▸ (up24 (by decide)).trans (low4 (by decide))
  have eC : bits w 31 1 = bitOf ch := hw ▸ (up24 (by decide)).trans ((up4 (by decide)).trans ((up3 (by decide)).trans (top1 hc)))
  have x1 : bits w 0 24 = 0 := hw ▸ low24 (by decide)
  simp [decodeChainWord, decodeWord, decodeRow0, eH, eM, eC, x1, bitOf_beq]

theorem iadd (u : Bool) (d : BitVec 7) (a : BitVec 7) (b : BitVec 7) : Statement (.iadd u d a b) := by
  intro ch w h
  simp only [encodeChainWord, encode, Option.map_some, Option.some.injEq] at h
  have hc := bitOf_lt ch
  have h_u := bitOf_lt u
  have h_d : d.toNat < 128 := d.isLt
  have h_a : a.toNat < 128 := a.isLt
  have h_b : b.toNat < 128 := b.isLt
  have hw : w = (((((((bitOf ch) * 8 + 0) * 16 + 1) * 2 + bitOf u) * 4 + 0) * 128 + d.toNat) * 128 + a.toNat) * 128 + b.toNat := by omega
  have eH : bits w 28 3 = 0 := hw ▸ (up7 h_b).trans ((up7 h_a).trans ((up7 h_d).trans ((up2 (by decide)).trans ((up1 h_u).trans ((up4 (by decide)).trans (low3 (by decide)))))))
  have eM : bits w 24 4 = 1 := hw ▸ (up7 h_b).trans ((up7 h_a).trans ((up7 h_d).trans ((up2 (by decide)).trans ((up1 h_u).trans (low4 (by decide))))))
  have eC : bits w 31 1 = bitOf ch := hw ▸ (up7 h_b).trans ((up7 h_a).trans ((up7 h_d).trans ((up2 (by decide)).trans ((up1 h_u).trans ((up4 (by decide)).trans ((up3 (by decide)).trans (top1 hc)))))))
  have e_u : bits w 23 1 = bitOf u := hw ▸ (up7 h_b).trans ((up7 h_a).trans ((up7 h_d).trans ((up2 (by decide)).trans (low1 h_u))))
  have e_d : bits w 14 7 = d.toNat := hw ▸ (up7 h_b).trans ((up7 h_a).trans (low7 h_d))
  have e_a : bits w 7 7 = a.toNat := hw ▸ (up7 h_b).trans (low7 h_a)
  have e_b : bits w 0 7 = b.toNat := hw ▸ low7 h_b
  have x1 : bits w 21 2 = 0 := hw ▸ (up7 h_b).trans ((up7 h_a).trans ((up7 h_d).trans (low2 (by decide))))
  simp [decodeChainWord, decodeWord, decodeRow0, eH, eM, eC, e_u, e_d, e_a, e_b, x1, bitOf_beq]

theorem isub (u : Bool) (d : BitVec 7) (a : BitVec 7) (b : BitVec 7) : Statement (.isub u d a b) := by
  intro ch w h
  simp only [encodeChainWord, encode, Option.map_some, Option.some.injEq] at h
  have hc := bitOf_lt ch
  have h_u := bitOf_lt u
  have h_d : d.toNat < 128 := d.isLt
  have h_a : a.toNat < 128 := a.isLt
  have h_b : b.toNat < 128 := b.isLt
  have hw : w = (((((((bitOf ch) * 8 + 0) * 16 + 2) * 2 + bitOf u) * 4 + 0) * 128 + d.toNat) * 128 + a.toNat) * 128 + b.toNat := by omega
  have eH : bits w 28 3 = 0 := hw ▸ (up7 h_b).trans ((up7 h_a).trans ((up7 h_d).trans ((up2 (by decide)).trans ((up1 h_u).trans ((up4 (by decide)).trans (low3 (by decide)))))))
  have eM : bits w 24 4 = 2 := hw ▸ (up7 h_b).trans ((up7 h_a).trans ((up7 h_d).trans ((up2 (by decide)).trans ((up1 h_u).trans (low4 (by decide))))))
  have eC : bits w 31 1 = bitOf ch := hw ▸ (up7 h_b).trans ((up7 h_a).trans ((up7 h_d).trans ((up2 (by decide)).trans ((up1 h_u).trans ((up4 (by decide)).trans ((up3 (by decide)).trans (top1 hc)))))))
  have e_u : bits w 23 1 = bitOf u := hw ▸ (up7 h_b).trans ((up7 h_a).trans ((up7 h_d).trans ((up2 (by decide)).trans (low1 h_u))))
  have e_d : bits w 14 7 = d.toNat := hw ▸ (up7 h_b).trans ((up7 h_a).trans (low7 h_d))
  have e_a : bits w 7 7 = a.toNat := hw ▸ (up7 h_b).trans (low7 h_a)
  have e_b : bits w 0 7 = b.toNat := hw ▸ low7 h_b
  have x1 : bits w 21 2 = 0 := hw ▸ (up7 h_b).trans ((up7 h_a).trans ((up7 h_d).trans (low2 (by decide))))
  simp [decodeChainWord, decodeWord, decodeRow0, eH, eM, eC, e_u, e_d, e_a, e_b, x1, bitOf_beq]

theorem imul (u : Bool) (d : BitVec 7) (a : BitVec 7) (b : BitVec 7) : Statement (.imul u d a b) := by
  intro ch w h
  simp only [encodeChainWord, encode, Option.map_some, Option.some.injEq] at h
  have hc := bitOf_lt ch
  have h_u := bitOf_lt u
  have h_d : d.toNat < 128 := d.isLt
  have h_a : a.toNat < 128 := a.isLt
  have h_b : b.toNat < 128 := b.isLt
  have hw : w = (((((((bitOf ch) * 8 + 0) * 16 + 3) * 2 + bitOf u) * 4 + 0) * 128 + d.toNat) * 128 + a.toNat) * 128 + b.toNat := by omega
  have eH : bits w 28 3 = 0 := hw ▸ (up7 h_b).trans ((up7 h_a).trans ((up7 h_d).trans ((up2 (by decide)).trans ((up1 h_u).trans ((up4 (by decide)).trans (low3 (by decide)))))))
  have eM : bits w 24 4 = 3 := hw ▸ (up7 h_b).trans ((up7 h_a).trans ((up7 h_d).trans ((up2 (by decide)).trans ((up1 h_u).trans (low4 (by decide))))))
  have eC : bits w 31 1 = bitOf ch := hw ▸ (up7 h_b).trans ((up7 h_a).trans ((up7 h_d).trans ((up2 (by decide)).trans ((up1 h_u).trans ((up4 (by decide)).trans ((up3 (by decide)).trans (top1 hc)))))))
  have e_u : bits w 23 1 = bitOf u := hw ▸ (up7 h_b).trans ((up7 h_a).trans ((up7 h_d).trans ((up2 (by decide)).trans (low1 h_u))))
  have e_d : bits w 14 7 = d.toNat := hw ▸ (up7 h_b).trans ((up7 h_a).trans (low7 h_d))
  have e_a : bits w 7 7 = a.toNat := hw ▸ (up7 h_b).trans (low7 h_a)
  have e_b : bits w 0 7 = b.toNat := hw ▸ low7 h_b
  have x1 : bits w 21 2 = 0 := hw ▸ (up7 h_b).trans ((up7 h_a).trans ((up7 h_d).trans (low2 (by decide))))
  simp [decodeChainWord, decodeWord, decodeRow0, eH, eM, eC, e_u, e_d, e_a, e_b, x1, bitOf_beq]

theorem imulhS (u : Bool) (d : BitVec 7) (a : BitVec 7) (b : BitVec 7) : Statement (.imulhS u d a b) := by
  intro ch w h
  simp only [encodeChainWord, encode, Option.map_some, Option.some.injEq] at h
  have hc := bitOf_lt ch
  have h_u := bitOf_lt u
  have h_d : d.toNat < 128 := d.isLt
  have h_a : a.toNat < 128 := a.isLt
  have h_b : b.toNat < 128 := b.isLt
  have hw : w = (((((((bitOf ch) * 8 + 0) * 16 + 3) * 2 + bitOf u) * 4 + 1) * 128 + d.toNat) * 128 + a.toNat) * 128 + b.toNat := by omega
  have eH : bits w 28 3 = 0 := hw ▸ (up7 h_b).trans ((up7 h_a).trans ((up7 h_d).trans ((up2 (by decide)).trans ((up1 h_u).trans ((up4 (by decide)).trans (low3 (by decide)))))))
  have eM : bits w 24 4 = 3 := hw ▸ (up7 h_b).trans ((up7 h_a).trans ((up7 h_d).trans ((up2 (by decide)).trans ((up1 h_u).trans (low4 (by decide))))))
  have eC : bits w 31 1 = bitOf ch := hw ▸ (up7 h_b).trans ((up7 h_a).trans ((up7 h_d).trans ((up2 (by decide)).trans ((up1 h_u).trans ((up4 (by decide)).trans ((up3 (by decide)).trans (top1 hc)))))))
  have e_u : bits w 23 1 = bitOf u := hw ▸ (up7 h_b).trans ((up7 h_a).trans ((up7 h_d).trans ((up2 (by decide)).trans (low1 h_u))))
  have e_d : bits w 14 7 = d.toNat := hw ▸ (up7 h_b).trans ((up7 h_a).trans (low7 h_d))
  have e_a : bits w 7 7 = a.toNat := hw ▸ (up7 h_b).trans (low7 h_a)
  have e_b : bits w 0 7 = b.toNat := hw ▸ low7 h_b
  have x1 : bits w 21 2 = 1 := hw ▸ (up7 h_b).trans ((up7 h_a).trans ((up7 h_d).trans (low2 (by decide))))
  simp [decodeChainWord, decodeWord, decodeRow0, eH, eM, eC, e_u, e_d, e_a, e_b, x1, bitOf_beq]

theorem imulhZ (u : Bool) (d : BitVec 7) (a : BitVec 7) (b : BitVec 7) : Statement (.imulhZ u d a b) := by
  intro ch w h
  simp only [encodeChainWord, encode, Option.map_some, Option.some.injEq] at h
  have hc := bitOf_lt ch
  have h_u := bitOf_lt u
  have h_d : d.toNat < 128 := d.isLt
  have h_a : a.toNat < 128 := a.isLt
  have h_b : b.toNat < 128 := b.isLt
  have hw : w = (((((((bitOf ch) * 8 + 0) * 16 + 3) * 2 + bitOf u) * 4 + 2) * 128 + d.toNat) * 128 + a.toNat) * 128 + b.toNat := by omega
  have eH : bits w 28 3 = 0 := hw ▸ (up7 h_b).trans ((up7 h_a).trans ((up7 h_d).trans ((up2 (by decide)).trans ((up1 h_u).trans ((up4 (by decide)).trans (low3 (by decide)))))))
  have eM : bits w 24 4 = 3 := hw ▸ (up7 h_b).trans ((up7 h_a).trans ((up7 h_d).trans ((up2 (by decide)).trans ((up1 h_u).trans (low4 (by decide))))))
  have eC : bits w 31 1 = bitOf ch := hw ▸ (up7 h_b).trans ((up7 h_a).trans ((up7 h_d).trans ((up2 (by decide)).trans ((up1 h_u).trans ((up4 (by decide)).trans ((up3 (by decide)).trans (top1 hc)))))))
  have e_u : bits w 23 1 = bitOf u := hw ▸ (up7 h_b).trans ((up7 h_a).trans ((up7 h_d).trans ((up2 (by decide)).trans (low1 h_u))))
  have e_d : bits w 14 7 = d.toNat := hw ▸ (up7 h_b).trans ((up7 h_a).trans (low7 h_d))
  have e_a : bits w 7 7 = a.toNat := hw ▸ (up7 h_b).trans (low7 h_a)
  have e_b : bits w 0 7 = b.toNat := hw ▸ low7 h_b
  have x1 : bits w 21 2 = 2 := hw ▸ (up7 h_b).trans ((up7 h_a).trans ((up7 h_d).trans (low2 (by decide))))
  simp [decodeChainWord, decodeWord, decodeRow0, eH, eM, eC, e_u, e_d, e_a, e_b, x1, bitOf_beq]

theorem imad (u : Bool) (d : BitVec 7) (a : BitVec 7) (b : BitVec 7) : Statement (.imad u d a b) := by
  intro ch w h
  simp only [encodeChainWord, encode, Option.map_some, Option.some.injEq] at h
  have hc := bitOf_lt ch
  have h_u := bitOf_lt u
  have h_d : d.toNat < 128 := d.isLt
  have h_a : a.toNat < 128 := a.isLt
  have h_b : b.toNat < 128 := b.isLt
  have hw : w = (((((((bitOf ch) * 8 + 0) * 16 + 4) * 2 + bitOf u) * 4 + 0) * 128 + d.toNat) * 128 + a.toNat) * 128 + b.toNat := by omega
  have eH : bits w 28 3 = 0 := hw ▸ (up7 h_b).trans ((up7 h_a).trans ((up7 h_d).trans ((up2 (by decide)).trans ((up1 h_u).trans ((up4 (by decide)).trans (low3 (by decide)))))))
  have eM : bits w 24 4 = 4 := hw ▸ (up7 h_b).trans ((up7 h_a).trans ((up7 h_d).trans ((up2 (by decide)).trans ((up1 h_u).trans (low4 (by decide))))))
  have eC : bits w 31 1 = bitOf ch := hw ▸ (up7 h_b).trans ((up7 h_a).trans ((up7 h_d).trans ((up2 (by decide)).trans ((up1 h_u).trans ((up4 (by decide)).trans ((up3 (by decide)).trans (top1 hc)))))))
  have e_u : bits w 23 1 = bitOf u := hw ▸ (up7 h_b).trans ((up7 h_a).trans ((up7 h_d).trans ((up2 (by decide)).trans (low1 h_u))))
  have e_d : bits w 14 7 = d.toNat := hw ▸ (up7 h_b).trans ((up7 h_a).trans (low7 h_d))
  have e_a : bits w 7 7 = a.toNat := hw ▸ (up7 h_b).trans (low7 h_a)
  have e_b : bits w 0 7 = b.toNat := hw ▸ low7 h_b
  have x1 : bits w 21 2 = 0 := hw ▸ (up7 h_b).trans ((up7 h_a).trans ((up7 h_d).trans (low2 (by decide))))
  simp [decodeChainWord, decodeWord, decodeRow0, eH, eM, eC, e_u, e_d, e_a, e_b, x1, bitOf_beq]

theorem imin (u : Bool) (z : Bool) (d : BitVec 7) (a : BitVec 7) (b : BitVec 7) : Statement (.imin u z d a b) := by
  intro ch w h
  simp only [encodeChainWord, encode, Option.map_some, Option.some.injEq] at h
  have hc := bitOf_lt ch
  have h_u := bitOf_lt u
  have h_z := bitOf_lt z
  have h_d : d.toNat < 128 := d.isLt
  have h_a : a.toNat < 128 := a.isLt
  have h_b : b.toNat < 128 := b.isLt
  have hw : w = ((((((((bitOf ch) * 8 + 0) * 16 + 5) * 2 + bitOf u) * 2 + bitOf z) * 2 + 0) * 128 + d.toNat) * 128 + a.toNat) * 128 + b.toNat := by omega
  have eH : bits w 28 3 = 0 := hw ▸ (up7 h_b).trans ((up7 h_a).trans ((up7 h_d).trans ((up1 (by decide)).trans ((up1 h_z).trans ((up1 h_u).trans ((up4 (by decide)).trans (low3 (by decide))))))))
  have eM : bits w 24 4 = 5 := hw ▸ (up7 h_b).trans ((up7 h_a).trans ((up7 h_d).trans ((up1 (by decide)).trans ((up1 h_z).trans ((up1 h_u).trans (low4 (by decide)))))))
  have eC : bits w 31 1 = bitOf ch := hw ▸ (up7 h_b).trans ((up7 h_a).trans ((up7 h_d).trans ((up1 (by decide)).trans ((up1 h_z).trans ((up1 h_u).trans ((up4 (by decide)).trans ((up3 (by decide)).trans (top1 hc))))))))
  have e_u : bits w 23 1 = bitOf u := hw ▸ (up7 h_b).trans ((up7 h_a).trans ((up7 h_d).trans ((up1 (by decide)).trans ((up1 h_z).trans (low1 h_u)))))
  have e_z : bits w 22 1 = bitOf z := hw ▸ (up7 h_b).trans ((up7 h_a).trans ((up7 h_d).trans ((up1 (by decide)).trans (low1 h_z))))
  have e_d : bits w 14 7 = d.toNat := hw ▸ (up7 h_b).trans ((up7 h_a).trans (low7 h_d))
  have e_a : bits w 7 7 = a.toNat := hw ▸ (up7 h_b).trans (low7 h_a)
  have e_b : bits w 0 7 = b.toNat := hw ▸ low7 h_b
  have x1 : bits w 21 1 = 0 := hw ▸ (up7 h_b).trans ((up7 h_a).trans ((up7 h_d).trans (low1 (by decide))))
  simp [decodeChainWord, decodeWord, decodeRow0, eH, eM, eC, e_u, e_z, e_d, e_a, e_b, x1, bitOf_beq]

theorem imax (u : Bool) (z : Bool) (d : BitVec 7) (a : BitVec 7) (b : BitVec 7) : Statement (.imax u z d a b) := by
  intro ch w h
  simp only [encodeChainWord, encode, Option.map_some, Option.some.injEq] at h
  have hc := bitOf_lt ch
  have h_u := bitOf_lt u
  have h_z := bitOf_lt z
  have h_d : d.toNat < 128 := d.isLt
  have h_a : a.toNat < 128 := a.isLt
  have h_b : b.toNat < 128 := b.isLt
  have hw : w = ((((((((bitOf ch) * 8 + 0) * 16 + 5) * 2 + bitOf u) * 2 + bitOf z) * 2 + 1) * 128 + d.toNat) * 128 + a.toNat) * 128 + b.toNat := by omega
  have eH : bits w 28 3 = 0 := hw ▸ (up7 h_b).trans ((up7 h_a).trans ((up7 h_d).trans ((up1 (by decide)).trans ((up1 h_z).trans ((up1 h_u).trans ((up4 (by decide)).trans (low3 (by decide))))))))
  have eM : bits w 24 4 = 5 := hw ▸ (up7 h_b).trans ((up7 h_a).trans ((up7 h_d).trans ((up1 (by decide)).trans ((up1 h_z).trans ((up1 h_u).trans (low4 (by decide)))))))
  have eC : bits w 31 1 = bitOf ch := hw ▸ (up7 h_b).trans ((up7 h_a).trans ((up7 h_d).trans ((up1 (by decide)).trans ((up1 h_z).trans ((up1 h_u).trans ((up4 (by decide)).trans ((up3 (by decide)).trans (top1 hc))))))))
  have e_u : bits w 23 1 = bitOf u := hw ▸ (up7 h_b).trans ((up7 h_a).trans ((up7 h_d).trans ((up1 (by decide)).trans ((up1 h_z).trans (low1 h_u)))))
  have e_z : bits w 22 1 = bitOf z := hw ▸ (up7 h_b).trans ((up7 h_a).trans ((up7 h_d).trans ((up1 (by decide)).trans (low1 h_z))))
  have e_d : bits w 14 7 = d.toNat := hw ▸ (up7 h_b).trans ((up7 h_a).trans (low7 h_d))
  have e_a : bits w 7 7 = a.toNat := hw ▸ (up7 h_b).trans (low7 h_a)
  have e_b : bits w 0 7 = b.toNat := hw ▸ low7 h_b
  have x1 : bits w 21 1 = 1 := hw ▸ (up7 h_b).trans ((up7 h_a).trans ((up7 h_d).trans (low1 (by decide))))
  simp [decodeChainWord, decodeWord, decodeRow0, eH, eM, eC, e_u, e_z, e_d, e_a, e_b, x1, bitOf_beq]

theorem iabs (d : BitVec 7) (a : BitVec 7) : Statement (.iabs d a) := by
  intro ch w h
  simp only [encodeChainWord, encode, Option.map_some, Option.some.injEq] at h
  have hc := bitOf_lt ch
  have h_d : d.toNat < 128 := d.isLt
  have h_a : a.toNat < 128 := a.isLt
  have hw : w = ((((((bitOf ch) * 8 + 0) * 16 + 6) * 8 + 0) * 128 + d.toNat) * 128 + a.toNat) * 128 + 0 := by omega
  have eH : bits w 28 3 = 0 := hw ▸ (up7 (by decide)).trans ((up7 h_a).trans ((up7 h_d).trans ((up3 (by decide)).trans ((up4 (by decide)).trans (low3 (by decide))))))
  have eM : bits w 24 4 = 6 := hw ▸ (up7 (by decide)).trans ((up7 h_a).trans ((up7 h_d).trans ((up3 (by decide)).trans (low4 (by decide)))))
  have eC : bits w 31 1 = bitOf ch := hw ▸ (up7 (by decide)).trans ((up7 h_a).trans ((up7 h_d).trans ((up3 (by decide)).trans ((up4 (by decide)).trans ((up3 (by decide)).trans (top1 hc))))))
  have e_d : bits w 14 7 = d.toNat := hw ▸ (up7 (by decide)).trans ((up7 h_a).trans (low7 h_d))
  have e_a : bits w 7 7 = a.toNat := hw ▸ (up7 (by decide)).trans (low7 h_a)
  have x1 : bits w 0 7 = 0 := hw ▸ low7 (by decide)
  have x2 : bits w 21 3 = 0 := hw ▸ (up7 (by decide)).trans ((up7 h_a).trans ((up7 h_d).trans (low3 (by decide))))
  simp [decodeChainWord, decodeWord, decodeRow0, eH, eM, eC, e_d, e_a, x1, x2, bitOf_beq]

theorem and (u : Bool) (d : BitVec 7) (a : BitVec 7) (b : BitVec 7) : Statement (.and u d a b) := by
  intro ch w h
  simp only [encodeChainWord, encode, Option.map_some, Option.some.injEq] at h
  have hc := bitOf_lt ch
  have h_u := bitOf_lt u
  have h_d : d.toNat < 128 := d.isLt
  have h_a : a.toNat < 128 := a.isLt
  have h_b : b.toNat < 128 := b.isLt
  have hw : w = (((((((bitOf ch) * 8 + 0) * 16 + 7) * 2 + bitOf u) * 4 + 0) * 128 + d.toNat) * 128 + a.toNat) * 128 + b.toNat := by omega
  have eH : bits w 28 3 = 0 := hw ▸ (up7 h_b).trans ((up7 h_a).trans ((up7 h_d).trans ((up2 (by decide)).trans ((up1 h_u).trans ((up4 (by decide)).trans (low3 (by decide)))))))
  have eM : bits w 24 4 = 7 := hw ▸ (up7 h_b).trans ((up7 h_a).trans ((up7 h_d).trans ((up2 (by decide)).trans ((up1 h_u).trans (low4 (by decide))))))
  have eC : bits w 31 1 = bitOf ch := hw ▸ (up7 h_b).trans ((up7 h_a).trans ((up7 h_d).trans ((up2 (by decide)).trans ((up1 h_u).trans ((up4 (by decide)).trans ((up3 (by decide)).trans (top1 hc)))))))
  have e_u : bits w 23 1 = bitOf u := hw ▸ (up7 h_b).trans ((up7 h_a).trans ((up7 h_d).trans ((up2 (by decide)).trans (low1 h_u))))
  have e_d : bits w 14 7 = d.toNat := hw ▸ (up7 h_b).trans ((up7 h_a).trans (low7 h_d))
  have e_a : bits w 7 7 = a.toNat := hw ▸ (up7 h_b).trans (low7 h_a)
  have e_b : bits w 0 7 = b.toNat := hw ▸ low7 h_b
  have x1 : bits w 21 2 = 0 := hw ▸ (up7 h_b).trans ((up7 h_a).trans ((up7 h_d).trans (low2 (by decide))))
  simp [decodeChainWord, decodeWord, decodeRow0, eH, eM, eC, e_u, e_d, e_a, e_b, x1, bitOf_beq]

theorem or (u : Bool) (d : BitVec 7) (a : BitVec 7) (b : BitVec 7) : Statement (.or u d a b) := by
  intro ch w h
  simp only [encodeChainWord, encode, Option.map_some, Option.some.injEq] at h
  have hc := bitOf_lt ch
  have h_u := bitOf_lt u
  have h_d : d.toNat < 128 := d.isLt
  have h_a : a.toNat < 128 := a.isLt
  have h_b : b.toNat < 128 := b.isLt
  have hw : w = (((((((bitOf ch) * 8 + 0) * 16 + 7) * 2 + bitOf u) * 4 + 1) * 128 + d.toNat) * 128 + a.toNat) * 128 + b.toNat := by omega
  have eH : bits w 28 3 = 0 := hw ▸ (up7 h_b).trans ((up7 h_a).trans ((up7 h_d).trans ((up2 (by decide)).trans ((up1 h_u).trans ((up4 (by decide)).trans (low3 (by decide)))))))
  have eM : bits w 24 4 = 7 := hw ▸ (up7 h_b).trans ((up7 h_a).trans ((up7 h_d).trans ((up2 (by decide)).trans ((up1 h_u).trans (low4 (by decide))))))
  have eC : bits w 31 1 = bitOf ch := hw ▸ (up7 h_b).trans ((up7 h_a).trans ((up7 h_d).trans ((up2 (by decide)).trans ((up1 h_u).trans ((up4 (by decide)).trans ((up3 (by decide)).trans (top1 hc)))))))
  have e_u : bits w 23 1 = bitOf u := hw ▸ (up7 h_b).trans ((up7 h_a).trans ((up7 h_d).trans ((up2 (by decide)).trans (low1 h_u))))
  have e_d : bits w 14 7 = d.toNat := hw ▸ (up7 h_b).trans ((up7 h_a).trans (low7 h_d))
  have e_a : bits w 7 7 = a.toNat := hw ▸ (up7 h_b).trans (low7 h_a)
  have e_b : bits w 0 7 = b.toNat := hw ▸ low7 h_b
  have x1 : bits w 21 2 = 1 := hw ▸ (up7 h_b).trans ((up7 h_a).trans ((up7 h_d).trans (low2 (by decide))))
  simp [decodeChainWord, decodeWord, decodeRow0, eH, eM, eC, e_u, e_d, e_a, e_b, x1, bitOf_beq]

theorem xor (u : Bool) (d : BitVec 7) (a : BitVec 7) (b : BitVec 7) : Statement (.xor u d a b) := by
  intro ch w h
  simp only [encodeChainWord, encode, Option.map_some, Option.some.injEq] at h
  have hc := bitOf_lt ch
  have h_u := bitOf_lt u
  have h_d : d.toNat < 128 := d.isLt
  have h_a : a.toNat < 128 := a.isLt
  have h_b : b.toNat < 128 := b.isLt
  have hw : w = (((((((bitOf ch) * 8 + 0) * 16 + 7) * 2 + bitOf u) * 4 + 2) * 128 + d.toNat) * 128 + a.toNat) * 128 + b.toNat := by omega
  have eH : bits w 28 3 = 0 := hw ▸ (up7 h_b).trans ((up7 h_a).trans ((up7 h_d).trans ((up2 (by decide)).trans ((up1 h_u).trans ((up4 (by decide)).trans (low3 (by decide)))))))
  have eM : bits w 24 4 = 7 := hw ▸ (up7 h_b).trans ((up7 h_a).trans ((up7 h_d).trans ((up2 (by decide)).trans ((up1 h_u).trans (low4 (by decide))))))
  have eC : bits w 31 1 = bitOf ch := hw ▸ (up7 h_b).trans ((up7 h_a).trans ((up7 h_d).trans ((up2 (by decide)).trans ((up1 h_u).trans ((up4 (by decide)).trans ((up3 (by decide)).trans (top1 hc)))))))
  have e_u : bits w 23 1 = bitOf u := hw ▸ (up7 h_b).trans ((up7 h_a).trans ((up7 h_d).trans ((up2 (by decide)).trans (low1 h_u))))
  have e_d : bits w 14 7 = d.toNat := hw ▸ (up7 h_b).trans ((up7 h_a).trans (low7 h_d))
  have e_a : bits w 7 7 = a.toNat := hw ▸ (up7 h_b).trans (low7 h_a)
  have e_b : bits w 0 7 = b.toNat := hw ▸ low7 h_b
  have x1 : bits w 21 2 = 2 := hw ▸ (up7 h_b).trans ((up7 h_a).trans ((up7 h_d).trans (low2 (by decide))))
  simp [decodeChainWord, decodeWord, decodeRow0, eH, eM, eC, e_u, e_d, e_a, e_b, x1, bitOf_beq]

theorem andn (u : Bool) (d : BitVec 7) (a : BitVec 7) (b : BitVec 7) : Statement (.andn u d a b) := by
  intro ch w h
  simp only [encodeChainWord, encode, Option.map_some, Option.some.injEq] at h
  have hc := bitOf_lt ch
  have h_u := bitOf_lt u
  have h_d : d.toNat < 128 := d.isLt
  have h_a : a.toNat < 128 := a.isLt
  have h_b : b.toNat < 128 := b.isLt
  have hw : w = (((((((bitOf ch) * 8 + 0) * 16 + 7) * 2 + bitOf u) * 4 + 3) * 128 + d.toNat) * 128 + a.toNat) * 128 + b.toNat := by omega
  have eH : bits w 28 3 = 0 := hw ▸ (up7 h_b).trans ((up7 h_a).trans ((up7 h_d).trans ((up2 (by decide)).trans ((up1 h_u).trans ((up4 (by decide)).trans (low3 (by decide)))))))
  have eM : bits w 24 4 = 7 := hw ▸ (up7 h_b).trans ((up7 h_a).trans ((up7 h_d).trans ((up2 (by decide)).trans ((up1 h_u).trans (low4 (by decide))))))
  have eC : bits w 31 1 = bitOf ch := hw ▸ (up7 h_b).trans ((up7 h_a).trans ((up7 h_d).trans ((up2 (by decide)).trans ((up1 h_u).trans ((up4 (by decide)).trans ((up3 (by decide)).trans (top1 hc)))))))
  have e_u : bits w 23 1 = bitOf u := hw ▸ (up7 h_b).trans ((up7 h_a).trans ((up7 h_d).trans ((up2 (by decide)).trans (low1 h_u))))
  have e_d : bits w 14 7 = d.toNat := hw ▸ (up7 h_b).trans ((up7 h_a).trans (low7 h_d))
  have e_a : bits w 7 7 = a.toNat := hw ▸ (up7 h_b).trans (low7 h_a)
  have e_b : bits w 0 7 = b.toNat := hw ▸ low7 h_b
  have x1 : bits w 21 2 = 3 := hw ▸ (up7 h_b).trans ((up7 h_a).trans ((up7 h_d).trans (low2 (by decide))))
  simp [decodeChainWord, decodeWord, decodeRow0, eH, eM, eC, e_u, e_d, e_a, e_b, x1, bitOf_beq]

theorem shl (u : Bool) (d : BitVec 7) (a : BitVec 7) (b : BitVec 7) : Statement (.shl u d a b) := by
  intro ch w h
  simp only [encodeChainWord, encode, Option.map_some, Option.some.injEq] at h
  have hc := bitOf_lt ch
  have h_u := bitOf_lt u
  have h_d : d.toNat < 128 := d.isLt
  have h_a : a.toNat < 128 := a.isLt
  have h_b : b.toNat < 128 := b.isLt
  have hw : w = (((((((bitOf ch) * 8 + 0) * 16 + 8) * 2 + bitOf u) * 4 + 0) * 128 + d.toNat) * 128 + a.toNat) * 128 + b.toNat := by omega
  have eH : bits w 28 3 = 0 := hw ▸ (up7 h_b).trans ((up7 h_a).trans ((up7 h_d).trans ((up2 (by decide)).trans ((up1 h_u).trans ((up4 (by decide)).trans (low3 (by decide)))))))
  have eM : bits w 24 4 = 8 := hw ▸ (up7 h_b).trans ((up7 h_a).trans ((up7 h_d).trans ((up2 (by decide)).trans ((up1 h_u).trans (low4 (by decide))))))
  have eC : bits w 31 1 = bitOf ch := hw ▸ (up7 h_b).trans ((up7 h_a).trans ((up7 h_d).trans ((up2 (by decide)).trans ((up1 h_u).trans ((up4 (by decide)).trans ((up3 (by decide)).trans (top1 hc)))))))
  have e_u : bits w 23 1 = bitOf u := hw ▸ (up7 h_b).trans ((up7 h_a).trans ((up7 h_d).trans ((up2 (by decide)).trans (low1 h_u))))
  have e_d : bits w 14 7 = d.toNat := hw ▸ (up7 h_b).trans ((up7 h_a).trans (low7 h_d))
  have e_a : bits w 7 7 = a.toNat := hw ▸ (up7 h_b).trans (low7 h_a)
  have e_b : bits w 0 7 = b.toNat := hw ▸ low7 h_b
  have x1 : bits w 21 2 = 0 := hw ▸ (up7 h_b).trans ((up7 h_a).trans ((up7 h_d).trans (low2 (by decide))))
  simp [decodeChainWord, decodeWord, decodeRow0, eH, eM, eC, e_u, e_d, e_a, e_b, x1, bitOf_beq]

theorem shr (u : Bool) (d : BitVec 7) (a : BitVec 7) (b : BitVec 7) : Statement (.shr u d a b) := by
  intro ch w h
  simp only [encodeChainWord, encode, Option.map_some, Option.some.injEq] at h
  have hc := bitOf_lt ch
  have h_u := bitOf_lt u
  have h_d : d.toNat < 128 := d.isLt
  have h_a : a.toNat < 128 := a.isLt
  have h_b : b.toNat < 128 := b.isLt
  have hw : w = (((((((bitOf ch) * 8 + 0) * 16 + 8) * 2 + bitOf u) * 4 + 1) * 128 + d.toNat) * 128 + a.toNat) * 128 + b.toNat := by omega
  have eH : bits w 28 3 = 0 := hw ▸ (up7 h_b).trans ((up7 h_a).trans ((up7 h_d).trans ((up2 (by decide)).trans ((up1 h_u).trans ((up4 (by decide)).trans (low3 (by decide)))))))
  have eM : bits w 24 4 = 8 := hw ▸ (up7 h_b).trans ((up7 h_a).trans ((up7 h_d).trans ((up2 (by decide)).trans ((up1 h_u).trans (low4 (by decide))))))
  have eC : bits w 31 1 = bitOf ch := hw ▸ (up7 h_b).trans ((up7 h_a).trans ((up7 h_d).trans ((up2 (by decide)).trans ((up1 h_u).trans ((up4 (by decide)).trans ((up3 (by decide)).trans (top1 hc)))))))
  have e_u : bits w 23 1 = bitOf u := hw ▸ (up7 h_b).trans ((up7 h_a).trans ((up7 h_d).trans ((up2 (by decide)).trans (low1 h_u))))
  have e_d : bits w 14 7 = d.toNat := hw ▸ (up7 h_b).trans ((up7 h_a).trans (low7 h_d))
  have e_a : bits w 7 7 = a.toNat := hw ▸ (up7 h_b).trans (low7 h_a)
  have e_b : bits w 0 7 = b.toNat := hw ▸ low7 h_b
  have x1 : bits w 21 2 = 1 := hw ▸ (up7 h_b).trans ((up7 h_a).trans ((up7 h_d).trans (low2 (by decide))))
  simp [decodeChainWord, decodeWord, decodeRow0, eH, eM, eC, e_u, e_d, e_a, e_b, x1, bitOf_beq]

theorem sha (u : Bool) (d : BitVec 7) (a : BitVec 7) (b : BitVec 7) : Statement (.sha u d a b) := by
  intro ch w h
  simp only [encodeChainWord, encode, Option.map_some, Option.some.injEq] at h
  have hc := bitOf_lt ch
  have h_u := bitOf_lt u
  have h_d : d.toNat < 128 := d.isLt
  have h_a : a.toNat < 128 := a.isLt
  have h_b : b.toNat < 128 := b.isLt
  have hw : w = (((((((bitOf ch) * 8 + 0) * 16 + 8) * 2 + bitOf u) * 4 + 2) * 128 + d.toNat) * 128 + a.toNat) * 128 + b.toNat := by omega
  have eH : bits w 28 3 = 0 := hw ▸ (up7 h_b).trans ((up7 h_a).trans ((up7 h_d).trans ((up2 (by decide)).trans ((up1 h_u).trans ((up4 (by decide)).trans (low3 (by decide)))))))
  have eM : bits w 24 4 = 8 := hw ▸ (up7 h_b).trans ((up7 h_a).trans ((up7 h_d).trans ((up2 (by decide)).trans ((up1 h_u).trans (low4 (by decide))))))
  have eC : bits w 31 1 = bitOf ch := hw ▸ (up7 h_b).trans ((up7 h_a).trans ((up7 h_d).trans ((up2 (by decide)).trans ((up1 h_u).trans ((up4 (by decide)).trans ((up3 (by decide)).trans (top1 hc)))))))
  have e_u : bits w 23 1 = bitOf u := hw ▸ (up7 h_b).trans ((up7 h_a).trans ((up7 h_d).trans ((up2 (by decide)).trans (low1 h_u))))
  have e_d : bits w 14 7 = d.toNat := hw ▸ (up7 h_b).trans ((up7 h_a).trans (low7 h_d))
  have e_a : bits w 7 7 = a.toNat := hw ▸ (up7 h_b).trans (low7 h_a)
  have e_b : bits w 0 7 = b.toNat := hw ▸ low7 h_b
  have x1 : bits w 21 2 = 2 := hw ▸ (up7 h_b).trans ((up7 h_a).trans ((up7 h_d).trans (low2 (by decide))))
  simp [decodeChainWord, decodeWord, decodeRow0, eH, eM, eC, e_u, e_d, e_a, e_b, x1, bitOf_beq]

theorem popc (d : BitVec 7) (a : BitVec 7) : Statement (.popc d a) := by
  intro ch w h
  simp only [encodeChainWord, encode, Option.map_some, Option.some.injEq] at h
  have hc := bitOf_lt ch
  have h_d : d.toNat < 128 := d.isLt
  have h_a : a.toNat < 128 := a.isLt
  have hw : w = ((((((bitOf ch) * 8 + 0) * 16 + 9) * 8 + 0) * 128 + d.toNat) * 128 + a.toNat) * 128 + 0 := by omega
  have eH : bits w 28 3 = 0 := hw ▸ (up7 (by decide)).trans ((up7 h_a).trans ((up7 h_d).trans ((up3 (by decide)).trans ((up4 (by decide)).trans (low3 (by decide))))))
  have eM : bits w 24 4 = 9 := hw ▸ (up7 (by decide)).trans ((up7 h_a).trans ((up7 h_d).trans ((up3 (by decide)).trans (low4 (by decide)))))
  have eC : bits w 31 1 = bitOf ch := hw ▸ (up7 (by decide)).trans ((up7 h_a).trans ((up7 h_d).trans ((up3 (by decide)).trans ((up4 (by decide)).trans ((up3 (by decide)).trans (top1 hc))))))
  have e_d : bits w 14 7 = d.toNat := hw ▸ (up7 (by decide)).trans ((up7 h_a).trans (low7 h_d))
  have e_a : bits w 7 7 = a.toNat := hw ▸ (up7 (by decide)).trans (low7 h_a)
  have x1 : bits w 0 7 = 0 := hw ▸ low7 (by decide)
  have x2 : bits w 21 3 = 0 := hw ▸ (up7 (by decide)).trans ((up7 h_a).trans ((up7 h_d).trans (low3 (by decide))))
  simp [decodeChainWord, decodeWord, decodeRow0, eH, eM, eC, e_d, e_a, x1, x2, bitOf_beq]

theorem clz (d : BitVec 7) (a : BitVec 7) : Statement (.clz d a) := by
  intro ch w h
  simp only [encodeChainWord, encode, Option.map_some, Option.some.injEq] at h
  have hc := bitOf_lt ch
  have h_d : d.toNat < 128 := d.isLt
  have h_a : a.toNat < 128 := a.isLt
  have hw : w = ((((((bitOf ch) * 8 + 0) * 16 + 9) * 8 + 1) * 128 + d.toNat) * 128 + a.toNat) * 128 + 0 := by omega
  have eH : bits w 28 3 = 0 := hw ▸ (up7 (by decide)).trans ((up7 h_a).trans ((up7 h_d).trans ((up3 (by decide)).trans ((up4 (by decide)).trans (low3 (by decide))))))
  have eM : bits w 24 4 = 9 := hw ▸ (up7 (by decide)).trans ((up7 h_a).trans ((up7 h_d).trans ((up3 (by decide)).trans (low4 (by decide)))))
  have eC : bits w 31 1 = bitOf ch := hw ▸ (up7 (by decide)).trans ((up7 h_a).trans ((up7 h_d).trans ((up3 (by decide)).trans ((up4 (by decide)).trans ((up3 (by decide)).trans (top1 hc))))))
  have e_d : bits w 14 7 = d.toNat := hw ▸ (up7 (by decide)).trans ((up7 h_a).trans (low7 h_d))
  have e_a : bits w 7 7 = a.toNat := hw ▸ (up7 (by decide)).trans (low7 h_a)
  have x1 : bits w 0 7 = 0 := hw ▸ low7 (by decide)
  have x2 : bits w 21 3 = 1 := hw ▸ (up7 (by decide)).trans ((up7 h_a).trans ((up7 h_d).trans (low3 (by decide))))
  simp [decodeChainWord, decodeWord, decodeRow0, eH, eM, eC, e_d, e_a, x1, x2, bitOf_beq]

theorem brev (d : BitVec 7) (a : BitVec 7) : Statement (.brev d a) := by
  intro ch w h
  simp only [encodeChainWord, encode, Option.map_some, Option.some.injEq] at h
  have hc := bitOf_lt ch
  have h_d : d.toNat < 128 := d.isLt
  have h_a : a.toNat < 128 := a.isLt
  have hw : w = ((((((bitOf ch) * 8 + 0) * 16 + 9) * 8 + 2) * 128 + d.toNat) * 128 + a.toNat) * 128 + 0 := by omega
  have eH : bits w 28 3 = 0 := hw ▸ (up7 (by decide)).trans ((up7 h_a).trans ((up7 h_d).trans ((up3 (by decide)).trans ((up4 (by decide)).trans (low3 (by decide))))))
  have eM : bits w 24 4 = 9 := hw ▸ (up7 (by decide)).trans ((up7 h_a).trans ((up7 h_d).trans ((up3 (by decide)).trans (low4 (by decide)))))
  have eC : bits w 31 1 = bitOf ch := hw ▸ (up7 (by decide)).trans ((up7 h_a).trans ((up7 h_d).trans ((up3 (by decide)).trans ((up4 (by decide)).trans ((up3 (by decide)).trans (top1 hc))))))
  have e_d : bits w 14 7 = d.toNat := hw ▸ (up7 (by decide)).trans ((up7 h_a).trans (low7 h_d))
  have e_a : bits w 7 7 = a.toNat := hw ▸ (up7 (by decide)).trans (low7 h_a)
  have x1 : bits w 0 7 = 0 := hw ▸ low7 (by decide)
  have x2 : bits w 21 3 = 2 := hw ▸ (up7 (by decide)).trans ((up7 h_a).trans ((up7 h_d).trans (low3 (by decide))))
  simp [decodeChainWord, decodeWord, decodeRow0, eH, eM, eC, e_d, e_a, x1, x2, bitOf_beq]

theorem bfx (u : Bool) (z : Bool) (d : BitVec 7) (a : BitVec 7) (b : BitVec 7) : Statement (.bfx u z d a b) := by
  intro ch w h
  simp only [encodeChainWord, encode, Option.map_some, Option.some.injEq] at h
  have hc := bitOf_lt ch
  have h_u := bitOf_lt u
  have h_z := bitOf_lt z
  have h_d : d.toNat < 128 := d.isLt
  have h_a : a.toNat < 128 := a.isLt
  have h_b : b.toNat < 128 := b.isLt
  have hw : w = ((((((((bitOf ch) * 8 + 0) * 16 + 10) * 2 + bitOf u) * 2 + 0) * 2 + bitOf z) * 128 + d.toNat) * 128 + a.toNat) * 128 + b.toNat := by omega
  have eH : bits w 28 3 = 0 := hw ▸ (up7 h_b).trans ((up7 h_a).trans ((up7 h_d).trans ((up1 h_z).trans ((up1 (by decide)).trans ((up1 h_u).trans ((up4 (by decide)).trans (low3 (by decide))))))))
  have eM : bits w 24 4 = 10 := hw ▸ (up7 h_b).trans ((up7 h_a).trans ((up7 h_d).trans ((up1 h_z).trans ((up1 (by decide)).trans ((up1 h_u).trans (low4 (by decide)))))))
  have eC : bits w 31 1 = bitOf ch := hw ▸ (up7 h_b).trans ((up7 h_a).trans ((up7 h_d).trans ((up1 h_z).trans ((up1 (by decide)).trans ((up1 h_u).trans ((up4 (by decide)).trans ((up3 (by decide)).trans (top1 hc))))))))
  have e_u : bits w 23 1 = bitOf u := hw ▸ (up7 h_b).trans ((up7 h_a).trans ((up7 h_d).trans ((up1 h_z).trans ((up1 (by decide)).trans (low1 h_u)))))
  have e_z : bits w 21 1 = bitOf z := hw ▸ (up7 h_b).trans ((up7 h_a).trans ((up7 h_d).trans (low1 h_z)))
  have e_d : bits w 14 7 = d.toNat := hw ▸ (up7 h_b).trans ((up7 h_a).trans (low7 h_d))
  have e_a : bits w 7 7 = a.toNat := hw ▸ (up7 h_b).trans (low7 h_a)
  have e_b : bits w 0 7 = b.toNat := hw ▸ low7 h_b
  have x1 : bits w 22 1 = 0 := hw ▸ (up7 h_b).trans ((up7 h_a).trans ((up7 h_d).trans ((up1 h_z).trans (low1 (by decide)))))
  simp [decodeChainWord, decodeWord, decodeRow0, eH, eM, eC, e_u, e_z, e_d, e_a, e_b, x1, bitOf_beq]

theorem bfi (u : Bool) (d : BitVec 7) (a : BitVec 7) (b : BitVec 7) : Statement (.bfi u d a b) := by
  intro ch w h
  simp only [encodeChainWord, encode, Option.map_some, Option.some.injEq] at h
  have hc := bitOf_lt ch
  have h_u := bitOf_lt u
  have h_d : d.toNat < 128 := d.isLt
  have h_a : a.toNat < 128 := a.isLt
  have h_b : b.toNat < 128 := b.isLt
  have hw : w = (((((((bitOf ch) * 8 + 0) * 16 + 11) * 2 + bitOf u) * 4 + 0) * 128 + d.toNat) * 128 + a.toNat) * 128 + b.toNat := by omega
  have eH : bits w 28 3 = 0 := hw ▸ (up7 h_b).trans ((up7 h_a).trans ((up7 h_d).trans ((up2 (by decide)).trans ((up1 h_u).trans ((up4 (by decide)).trans (low3 (by decide)))))))
  have eM : bits w 24 4 = 11 := hw ▸ (up7 h_b).trans ((up7 h_a).trans ((up7 h_d).trans ((up2 (by decide)).trans ((up1 h_u).trans (low4 (by decide))))))
  have eC : bits w 31 1 = bitOf ch := hw ▸ (up7 h_b).trans ((up7 h_a).trans ((up7 h_d).trans ((up2 (by decide)).trans ((up1 h_u).trans ((up4 (by decide)).trans ((up3 (by decide)).trans (top1 hc)))))))
  have e_u : bits w 23 1 = bitOf u := hw ▸ (up7 h_b).trans ((up7 h_a).trans ((up7 h_d).trans ((up2 (by decide)).trans (low1 h_u))))
  have e_d : bits w 14 7 = d.toNat := hw ▸ (up7 h_b).trans ((up7 h_a).trans (low7 h_d))
  have e_a : bits w 7 7 = a.toNat := hw ▸ (up7 h_b).trans (low7 h_a)
  have e_b : bits w 0 7 = b.toNat := hw ▸ low7 h_b
  have x1 : bits w 21 2 = 0 := hw ▸ (up7 h_b).trans ((up7 h_a).trans ((up7 h_d).trans (low2 (by decide))))
  simp [decodeChainWord, decodeWord, decodeRow0, eH, eM, eC, e_u, e_d, e_a, e_b, x1, bitOf_beq]

theorem icmp (rel : BitVec 3) (d : BitVec 7) (a : BitVec 7) (b : BitVec 7) : Statement (.icmp rel d a b) := by
  intro ch w h
  simp only [encodeChainWord, encode, Option.map_some, Option.some.injEq] at h
  have hc := bitOf_lt ch
  have h_rel : rel.toNat < 8 := rel.isLt
  have h_d : d.toNat < 128 := d.isLt
  have h_a : a.toNat < 128 := a.isLt
  have h_b : b.toNat < 128 := b.isLt
  have hw : w = ((((((bitOf ch) * 8 + 0) * 16 + 12) * 8 + rel.toNat) * 128 + d.toNat) * 128 + a.toNat) * 128 + b.toNat := by omega
  have eH : bits w 28 3 = 0 := hw ▸ (up7 h_b).trans ((up7 h_a).trans ((up7 h_d).trans ((up3 h_rel).trans ((up4 (by decide)).trans (low3 (by decide))))))
  have eM : bits w 24 4 = 12 := hw ▸ (up7 h_b).trans ((up7 h_a).trans ((up7 h_d).trans ((up3 h_rel).trans (low4 (by decide)))))
  have eC : bits w 31 1 = bitOf ch := hw ▸ (up7 h_b).trans ((up7 h_a).trans ((up7 h_d).trans ((up3 h_rel).trans ((up4 (by decide)).trans ((up3 (by decide)).trans (top1 hc))))))
  have e_rel : bits w 21 3 = rel.toNat := hw ▸ (up7 h_b).trans ((up7 h_a).trans ((up7 h_d).trans (low3 h_rel)))
  have e_d : bits w 14 7 = d.toNat := hw ▸ (up7 h_b).trans ((up7 h_a).trans (low7 h_d))
  have e_a : bits w 7 7 = a.toNat := hw ▸ (up7 h_b).trans (low7 h_a)
  have e_b : bits w 0 7 = b.toNat := hw ▸ low7 h_b
  simp [decodeChainWord, decodeWord, decodeRow0, eH, eM, eC, e_rel, e_d, e_a, e_b, bitOf_beq]

theorem sel (u : Bool) (d : BitVec 7) (a : BitVec 7) (b : BitVec 7) : Statement (.sel u d a b) := by
  intro ch w h
  simp only [encodeChainWord, encode, Option.map_some, Option.some.injEq] at h
  have hc := bitOf_lt ch
  have h_u := bitOf_lt u
  have h_d : d.toNat < 128 := d.isLt
  have h_a : a.toNat < 128 := a.isLt
  have h_b : b.toNat < 128 := b.isLt
  have hw : w = (((((((bitOf ch) * 8 + 0) * 16 + 13) * 2 + bitOf u) * 4 + 0) * 128 + d.toNat) * 128 + a.toNat) * 128 + b.toNat := by omega
  have eH : bits w 28 3 = 0 := hw ▸ (up7 h_b).trans ((up7 h_a).trans ((up7 h_d).trans ((up2 (by decide)).trans ((up1 h_u).trans ((up4 (by decide)).trans (low3 (by decide)))))))
  have eM : bits w 24 4 = 13 := hw ▸ (up7 h_b).trans ((up7 h_a).trans ((up7 h_d).trans ((up2 (by decide)).trans ((up1 h_u).trans (low4 (by decide))))))
  have eC : bits w 31 1 = bitOf ch := hw ▸ (up7 h_b).trans ((up7 h_a).trans ((up7 h_d).trans ((up2 (by decide)).trans ((up1 h_u).trans ((up4 (by decide)).trans ((up3 (by decide)).trans (top1 hc)))))))
  have e_u : bits w 23 1 = bitOf u := hw ▸ (up7 h_b).trans ((up7 h_a).trans ((up7 h_d).trans ((up2 (by decide)).trans (low1 h_u))))
  have e_d : bits w 14 7 = d.toNat := hw ▸ (up7 h_b).trans ((up7 h_a).trans (low7 h_d))
  have e_a : bits w 7 7 = a.toNat := hw ▸ (up7 h_b).trans (low7 h_a)
  have e_b : bits w 0 7 = b.toNat := hw ▸ low7 h_b
  have x1 : bits w 21 2 = 0 := hw ▸ (up7 h_b).trans ((up7 h_a).trans ((up7 h_d).trans (low2 (by decide))))
  simp [decodeChainWord, decodeWord, decodeRow0, eH, eM, eC, e_u, e_d, e_a, e_b, x1, bitOf_beq]

theorem a64 (u : Bool) (d : BitVec 7) (a : BitVec 7) (b : BitVec 7) : Statement (.a64 u d a b) := by
  intro ch w h
  simp only [encodeChainWord, encode, Option.map_some, Option.some.injEq] at h
  have hc := bitOf_lt ch
  have h_u := bitOf_lt u
  have h_d : d.toNat < 128 := d.isLt
  have h_a : a.toNat < 128 := a.isLt
  have h_b : b.toNat < 128 := b.isLt
  have hw : w = (((((((bitOf ch) * 8 + 0) * 16 + 14) * 2 + bitOf u) * 4 + 0) * 128 + d.toNat) * 128 + a.toNat) * 128 + b.toNat := by omega
  have eH : bits w 28 3 = 0 := hw ▸ (up7 h_b).trans ((up7 h_a).trans ((up7 h_d).trans ((up2 (by decide)).trans ((up1 h_u).trans ((up4 (by decide)).trans (low3 (by decide)))))))
  have eM : bits w 24 4 = 14 := hw ▸ (up7 h_b).trans ((up7 h_a).trans ((up7 h_d).trans ((up2 (by decide)).trans ((up1 h_u).trans (low4 (by decide))))))
  have eC : bits w 31 1 = bitOf ch := hw ▸ (up7 h_b).trans ((up7 h_a).trans ((up7 h_d).trans ((up2 (by decide)).trans ((up1 h_u).trans ((up4 (by decide)).trans ((up3 (by decide)).trans (top1 hc)))))))
  have e_u : bits w 23 1 = bitOf u := hw ▸ (up7 h_b).trans ((up7 h_a).trans ((up7 h_d).trans ((up2 (by decide)).trans (low1 h_u))))
  have e_d : bits w 14 7 = d.toNat := hw ▸ (up7 h_b).trans ((up7 h_a).trans (low7 h_d))
  have e_a : bits w 7 7 = a.toNat := hw ▸ (up7 h_b).trans (low7 h_a)
  have e_b : bits w 0 7 = b.toNat := hw ▸ low7 h_b
  have x1 : bits w 21 2 = 0 := hw ▸ (up7 h_b).trans ((up7 h_a).trans ((up7 h_d).trans (low2 (by decide))))
  simp [decodeChainWord, decodeWord, decodeRow0, eH, eM, eC, e_u, e_d, e_a, e_b, x1, bitOf_beq]

theorem a64s (u : Bool) (sc : BitVec 2) (d : BitVec 7) (a : BitVec 7) (b : BitVec 7) : Statement (.a64s u sc d a b) := by
  intro ch w h
  simp only [encodeChainWord, encode, Option.map_some, Option.some.injEq] at h
  have hc := bitOf_lt ch
  have h_u := bitOf_lt u
  have h_sc : sc.toNat < 4 := sc.isLt
  have h_d : d.toNat < 128 := d.isLt
  have h_a : a.toNat < 128 := a.isLt
  have h_b : b.toNat < 128 := b.isLt
  have hw : w = (((((((bitOf ch) * 8 + 0) * 16 + 15) * 2 + bitOf u) * 4 + sc.toNat) * 128 + d.toNat) * 128 + a.toNat) * 128 + b.toNat := by omega
  have eH : bits w 28 3 = 0 := hw ▸ (up7 h_b).trans ((up7 h_a).trans ((up7 h_d).trans ((up2 h_sc).trans ((up1 h_u).trans ((up4 (by decide)).trans (low3 (by decide)))))))
  have eM : bits w 24 4 = 15 := hw ▸ (up7 h_b).trans ((up7 h_a).trans ((up7 h_d).trans ((up2 h_sc).trans ((up1 h_u).trans (low4 (by decide))))))
  have eC : bits w 31 1 = bitOf ch := hw ▸ (up7 h_b).trans ((up7 h_a).trans ((up7 h_d).trans ((up2 h_sc).trans ((up1 h_u).trans ((up4 (by decide)).trans ((up3 (by decide)).trans (top1 hc)))))))
  have e_u : bits w 23 1 = bitOf u := hw ▸ (up7 h_b).trans ((up7 h_a).trans ((up7 h_d).trans ((up2 h_sc).trans (low1 h_u))))
  have e_sc : bits w 21 2 = sc.toNat := hw ▸ (up7 h_b).trans ((up7 h_a).trans ((up7 h_d).trans (low2 h_sc)))
  have e_d : bits w 14 7 = d.toNat := hw ▸ (up7 h_b).trans ((up7 h_a).trans (low7 h_d))
  have e_a : bits w 7 7 = a.toNat := hw ▸ (up7 h_b).trans (low7 h_a)
  have e_b : bits w 0 7 = b.toNat := hw ▸ low7 h_b
  simp [decodeChainWord, decodeWord, decodeRow0, eH, eM, eC, e_u, e_sc, e_d, e_a, e_b, bitOf_beq]

theorem shfl (u : Bool) (pat : BitVec 2) (d : BitVec 7) (a : BitVec 7) (b : BitVec 7) : Statement (.shfl u pat d a b) := by
  intro ch w h
  simp only [encodeChainWord, encode, Option.map_some, Option.some.injEq] at h
  have hc := bitOf_lt ch
  have h_u := bitOf_lt u
  have h_pat : pat.toNat < 4 := pat.isLt
  have h_d : d.toNat < 128 := d.isLt
  have h_a : a.toNat < 128 := a.isLt
  have h_b : b.toNat < 128 := b.isLt
  have hw : w = (((((((bitOf ch) * 8 + 1) * 16 + 0) * 2 + bitOf u) * 4 + pat.toNat) * 128 + d.toNat) * 128 + a.toNat) * 128 + b.toNat := by omega
  have eH : bits w 28 3 = 1 := hw ▸ (up7 h_b).trans ((up7 h_a).trans ((up7 h_d).trans ((up2 h_pat).trans ((up1 h_u).trans ((up4 (by decide)).trans (low3 (by decide)))))))
  have eM : bits w 24 4 = 0 := hw ▸ (up7 h_b).trans ((up7 h_a).trans ((up7 h_d).trans ((up2 h_pat).trans ((up1 h_u).trans (low4 (by decide))))))
  have eC : bits w 31 1 = bitOf ch := hw ▸ (up7 h_b).trans ((up7 h_a).trans ((up7 h_d).trans ((up2 h_pat).trans ((up1 h_u).trans ((up4 (by decide)).trans ((up3 (by decide)).trans (top1 hc)))))))
  have e_u : bits w 23 1 = bitOf u := hw ▸ (up7 h_b).trans ((up7 h_a).trans ((up7 h_d).trans ((up2 h_pat).trans (low1 h_u))))
  have e_pat : bits w 21 2 = pat.toNat := hw ▸ (up7 h_b).trans ((up7 h_a).trans ((up7 h_d).trans (low2 h_pat)))
  have e_d : bits w 14 7 = d.toNat := hw ▸ (up7 h_b).trans ((up7 h_a).trans (low7 h_d))
  have e_a : bits w 7 7 = a.toNat := hw ▸ (up7 h_b).trans (low7 h_a)
  have e_b : bits w 0 7 = b.toNat := hw ▸ low7 h_b
  simp [decodeChainWord, decodeWord, decodeRow1, eH, eM, eC, e_u, e_pat, e_d, e_a, e_b, bitOf_beq]

theorem vany (u : Bool) (d : BitVec 7) (a : BitVec 7) (b : BitVec 7) : Statement (.vany u d a b) := by
  intro ch w h
  simp only [encodeChainWord, encode, Option.map_some, Option.some.injEq] at h
  have hc := bitOf_lt ch
  have h_u := bitOf_lt u
  have h_d : d.toNat < 128 := d.isLt
  have h_a : a.toNat < 128 := a.isLt
  have h_b : b.toNat < 128 := b.isLt
  have hw : w = (((((((bitOf ch) * 8 + 1) * 16 + 1) * 2 + bitOf u) * 4 + 0) * 128 + d.toNat) * 128 + a.toNat) * 128 + b.toNat := by omega
  have eH : bits w 28 3 = 1 := hw ▸ (up7 h_b).trans ((up7 h_a).trans ((up7 h_d).trans ((up2 (by decide)).trans ((up1 h_u).trans ((up4 (by decide)).trans (low3 (by decide)))))))
  have eM : bits w 24 4 = 1 := hw ▸ (up7 h_b).trans ((up7 h_a).trans ((up7 h_d).trans ((up2 (by decide)).trans ((up1 h_u).trans (low4 (by decide))))))
  have eC : bits w 31 1 = bitOf ch := hw ▸ (up7 h_b).trans ((up7 h_a).trans ((up7 h_d).trans ((up2 (by decide)).trans ((up1 h_u).trans ((up4 (by decide)).trans ((up3 (by decide)).trans (top1 hc)))))))
  have e_u : bits w 23 1 = bitOf u := hw ▸ (up7 h_b).trans ((up7 h_a).trans ((up7 h_d).trans ((up2 (by decide)).trans (low1 h_u))))
  have e_d : bits w 14 7 = d.toNat := hw ▸ (up7 h_b).trans ((up7 h_a).trans (low7 h_d))
  have e_a : bits w 7 7 = a.toNat := hw ▸ (up7 h_b).trans (low7 h_a)
  have e_b : bits w 0 7 = b.toNat := hw ▸ low7 h_b
  have x1 : bits w 21 2 = 0 := hw ▸ (up7 h_b).trans ((up7 h_a).trans ((up7 h_d).trans (low2 (by decide))))
  simp [decodeChainWord, decodeWord, decodeRow1, eH, eM, eC, e_u, e_d, e_a, e_b, x1, bitOf_beq]

theorem vall (u : Bool) (d : BitVec 7) (a : BitVec 7) (b : BitVec 7) : Statement (.vall u d a b) := by
  intro ch w h
  simp only [encodeChainWord, encode, Option.map_some, Option.some.injEq] at h
  have hc := bitOf_lt ch
  have h_u := bitOf_lt u
  have h_d : d.toNat < 128 := d.isLt
  have h_a : a.toNat < 128 := a.isLt
  have h_b : b.toNat < 128 := b.isLt
  have hw : w = (((((((bitOf ch) * 8 + 1) * 16 + 1) * 2 + bitOf u) * 4 + 1) * 128 + d.toNat) * 128 + a.toNat) * 128 + b.toNat := by omega
  have eH : bits w 28 3 = 1 := hw ▸ (up7 h_b).trans ((up7 h_a).trans ((up7 h_d).trans ((up2 (by decide)).trans ((up1 h_u).trans ((up4 (by decide)).trans (low3 (by decide)))))))
  have eM : bits w 24 4 = 1 := hw ▸ (up7 h_b).trans ((up7 h_a).trans ((up7 h_d).trans ((up2 (by decide)).trans ((up1 h_u).trans (low4 (by decide))))))
  have eC : bits w 31 1 = bitOf ch := hw ▸ (up7 h_b).trans ((up7 h_a).trans ((up7 h_d).trans ((up2 (by decide)).trans ((up1 h_u).trans ((up4 (by decide)).trans ((up3 (by decide)).trans (top1 hc)))))))
  have e_u : bits w 23 1 = bitOf u := hw ▸ (up7 h_b).trans ((up7 h_a).trans ((up7 h_d).trans ((up2 (by decide)).trans (low1 h_u))))
  have e_d : bits w 14 7 = d.toNat := hw ▸ (up7 h_b).trans ((up7 h_a).trans (low7 h_d))
  have e_a : bits w 7 7 = a.toNat := hw ▸ (up7 h_b).trans (low7 h_a)
  have e_b : bits w 0 7 = b.toNat := hw ▸ low7 h_b
  have x1 : bits w 21 2 = 1 := hw ▸ (up7 h_b).trans ((up7 h_a).trans ((up7 h_d).trans (low2 (by decide))))
  simp [decodeChainWord, decodeWord, decodeRow1, eH, eM, eC, e_u, e_d, e_a, e_b, x1, bitOf_beq]

theorem vbal (u : Bool) (d : BitVec 7) (a : BitVec 7) (b : BitVec 7) : Statement (.vbal u d a b) := by
  intro ch w h
  simp only [encodeChainWord, encode, Option.map_some, Option.some.injEq] at h
  have hc := bitOf_lt ch
  have h_u := bitOf_lt u
  have h_d : d.toNat < 128 := d.isLt
  have h_a : a.toNat < 128 := a.isLt
  have h_b : b.toNat < 128 := b.isLt
  have hw : w = (((((((bitOf ch) * 8 + 1) * 16 + 1) * 2 + bitOf u) * 4 + 2) * 128 + d.toNat) * 128 + a.toNat) * 128 + b.toNat := by omega
  have eH : bits w 28 3 = 1 := hw ▸ (up7 h_b).trans ((up7 h_a).trans ((up7 h_d).trans ((up2 (by decide)).trans ((up1 h_u).trans ((up4 (by decide)).trans (low3 (by decide)))))))
  have eM : bits w 24 4 = 1 := hw ▸ (up7 h_b).trans ((up7 h_a).trans ((up7 h_d).trans ((up2 (by decide)).trans ((up1 h_u).trans (low4 (by decide))))))
  have eC : bits w 31 1 = bitOf ch := hw ▸ (up7 h_b).trans ((up7 h_a).trans ((up7 h_d).trans ((up2 (by decide)).trans ((up1 h_u).trans ((up4 (by decide)).trans ((up3 (by decide)).trans (top1 hc)))))))
  have e_u : bits w 23 1 = bitOf u := hw ▸ (up7 h_b).trans ((up7 h_a).trans ((up7 h_d).trans ((up2 (by decide)).trans (low1 h_u))))
  have e_d : bits w 14 7 = d.toNat := hw ▸ (up7 h_b).trans ((up7 h_a).trans (low7 h_d))
  have e_a : bits w 7 7 = a.toNat := hw ▸ (up7 h_b).trans (low7 h_a)
  have e_b : bits w 0 7 = b.toNat := hw ▸ low7 h_b
  have x1 : bits w 21 2 = 2 := hw ▸ (up7 h_b).trans ((up7 h_a).trans ((up7 h_d).trans (low2 (by decide))))
  simp [decodeChainWord, decodeWord, decodeRow1, eH, eM, eC, e_u, e_d, e_a, e_b, x1, bitOf_beq]

theorem radd (u : Bool) (d : BitVec 7) (a : BitVec 7) (b : BitVec 7) : Statement (.radd u d a b) := by
  intro ch w h
  simp only [encodeChainWord, encode, Option.map_some, Option.some.injEq] at h
  have hc := bitOf_lt ch
  have h_u := bitOf_lt u
  have h_d : d.toNat < 128 := d.isLt
  have h_a : a.toNat < 128 := a.isLt
  have h_b : b.toNat < 128 := b.isLt
  have hw : w = (((((((bitOf ch) * 8 + 1) * 16 + 2) * 2 + bitOf u) * 4 + 0) * 128 + d.toNat) * 128 + a.toNat) * 128 + b.toNat := by omega
  have eH : bits w 28 3 = 1 := hw ▸ (up7 h_b).trans ((up7 h_a).trans ((up7 h_d).trans ((up2 (by decide)).trans ((up1 h_u).trans ((up4 (by decide)).trans (low3 (by decide)))))))
  have eM : bits w 24 4 = 2 := hw ▸ (up7 h_b).trans ((up7 h_a).trans ((up7 h_d).trans ((up2 (by decide)).trans ((up1 h_u).trans (low4 (by decide))))))
  have eC : bits w 31 1 = bitOf ch := hw ▸ (up7 h_b).trans ((up7 h_a).trans ((up7 h_d).trans ((up2 (by decide)).trans ((up1 h_u).trans ((up4 (by decide)).trans ((up3 (by decide)).trans (top1 hc)))))))
  have e_u : bits w 23 1 = bitOf u := hw ▸ (up7 h_b).trans ((up7 h_a).trans ((up7 h_d).trans ((up2 (by decide)).trans (low1 h_u))))
  have e_d : bits w 14 7 = d.toNat := hw ▸ (up7 h_b).trans ((up7 h_a).trans (low7 h_d))
  have e_a : bits w 7 7 = a.toNat := hw ▸ (up7 h_b).trans (low7 h_a)
  have e_b : bits w 0 7 = b.toNat := hw ▸ low7 h_b
  have x1 : bits w 21 2 = 0 := hw ▸ (up7 h_b).trans ((up7 h_a).trans ((up7 h_d).trans (low2 (by decide))))
  simp [decodeChainWord, decodeWord, decodeRow1, eH, eM, eC, e_u, e_d, e_a, e_b, x1, bitOf_beq]

theorem rmin (d : BitVec 7) (a : BitVec 7) : Statement (.rmin d a) := by
  intro ch w h
  simp only [encodeChainWord, encode, Option.map_some, Option.some.injEq] at h
  have hc := bitOf_lt ch
  have h_d : d.toNat < 128 := d.isLt
  have h_a : a.toNat < 128 := a.isLt
  have hw : w = ((((((bitOf ch) * 8 + 1) * 16 + 2) * 8 + 1) * 128 + d.toNat) * 128 + a.toNat) * 128 + 0 := by omega
  have eH : bits w 28 3 = 1 := hw ▸ (up7 (by decide)).trans ((up7 h_a).trans ((up7 h_d).trans ((up3 (by decide)).trans ((up4 (by decide)).trans (low3 (by decide))))))
  have eM : bits w 24 4 = 2 := hw ▸ (up7 (by decide)).trans ((up7 h_a).trans ((up7 h_d).trans ((up3 (by decide)).trans (low4 (by decide)))))
  have eC : bits w 31 1 = bitOf ch := hw ▸ (up7 (by decide)).trans ((up7 h_a).trans ((up7 h_d).trans ((up3 (by decide)).trans ((up4 (by decide)).trans ((up3 (by decide)).trans (top1 hc))))))
  have e_d : bits w 14 7 = d.toNat := hw ▸ (up7 (by decide)).trans ((up7 h_a).trans (low7 h_d))
  have e_a : bits w 7 7 = a.toNat := hw ▸ (up7 (by decide)).trans (low7 h_a)
  have x1 : bits w 0 7 = 0 := hw ▸ low7 (by decide)
  have x2 : bits w 21 3 = 1 := hw ▸ (up7 (by decide)).trans ((up7 h_a).trans ((up7 h_d).trans (low3 (by decide))))
  have n0 : ¬ (bits w 21 2 = 0) := by simp only [bits]; omega
  simp [decodeChainWord, decodeWord, decodeRow1, eH, eM, eC, e_d, e_a, n0, x1, x2, bitOf_beq]

theorem rmax (d : BitVec 7) (a : BitVec 7) : Statement (.rmax d a) := by
  intro ch w h
  simp only [encodeChainWord, encode, Option.map_some, Option.some.injEq] at h
  have hc := bitOf_lt ch
  have h_d : d.toNat < 128 := d.isLt
  have h_a : a.toNat < 128 := a.isLt
  have hw : w = ((((((bitOf ch) * 8 + 1) * 16 + 2) * 8 + 2) * 128 + d.toNat) * 128 + a.toNat) * 128 + 0 := by omega
  have eH : bits w 28 3 = 1 := hw ▸ (up7 (by decide)).trans ((up7 h_a).trans ((up7 h_d).trans ((up3 (by decide)).trans ((up4 (by decide)).trans (low3 (by decide))))))
  have eM : bits w 24 4 = 2 := hw ▸ (up7 (by decide)).trans ((up7 h_a).trans ((up7 h_d).trans ((up3 (by decide)).trans (low4 (by decide)))))
  have eC : bits w 31 1 = bitOf ch := hw ▸ (up7 (by decide)).trans ((up7 h_a).trans ((up7 h_d).trans ((up3 (by decide)).trans ((up4 (by decide)).trans ((up3 (by decide)).trans (top1 hc))))))
  have e_d : bits w 14 7 = d.toNat := hw ▸ (up7 (by decide)).trans ((up7 h_a).trans (low7 h_d))
  have e_a : bits w 7 7 = a.toNat := hw ▸ (up7 (by decide)).trans (low7 h_a)
  have x1 : bits w 0 7 = 0 := hw ▸ low7 (by decide)
  have x2 : bits w 21 3 = 2 := hw ▸ (up7 (by decide)).trans ((up7 h_a).trans ((up7 h_d).trans (low3 (by decide))))
  have n0 : ¬ (bits w 21 2 = 0) := by simp only [bits]; omega
  simp [decodeChainWord, decodeWord, decodeRow1, eH, eM, eC, e_d, e_a, n0, x1, x2, bitOf_beq]

theorem idp4 (u : Bool) (z : Bool) (d : BitVec 7) (a : BitVec 7) (b : BitVec 7) : Statement (.idp4 u z d a b) := by
  intro ch w h
  simp only [encodeChainWord, encode, Option.map_some, Option.some.injEq] at h
  have hc := bitOf_lt ch
  have h_u := bitOf_lt u
  have h_z := bitOf_lt z
  have h_d : d.toNat < 128 := d.isLt
  have h_a : a.toNat < 128 := a.isLt
  have h_b : b.toNat < 128 := b.isLt
  have hw : w = ((((((((bitOf ch) * 8 + 1) * 16 + 3) * 2 + bitOf u) * 2 + 0) * 2 + bitOf z) * 128 + d.toNat) * 128 + a.toNat) * 128 + b.toNat := by omega
  have eH : bits w 28 3 = 1 := hw ▸ (up7 h_b).trans ((up7 h_a).trans ((up7 h_d).trans ((up1 h_z).trans ((up1 (by decide)).trans ((up1 h_u).trans ((up4 (by decide)).trans (low3 (by decide))))))))
  have eM : bits w 24 4 = 3 := hw ▸ (up7 h_b).trans ((up7 h_a).trans ((up7 h_d).trans ((up1 h_z).trans ((up1 (by decide)).trans ((up1 h_u).trans (low4 (by decide)))))))
  have eC : bits w 31 1 = bitOf ch := hw ▸ (up7 h_b).trans ((up7 h_a).trans ((up7 h_d).trans ((up1 h_z).trans ((up1 (by decide)).trans ((up1 h_u).trans ((up4 (by decide)).trans ((up3 (by decide)).trans (top1 hc))))))))
  have e_u : bits w 23 1 = bitOf u := hw ▸ (up7 h_b).trans ((up7 h_a).trans ((up7 h_d).trans ((up1 h_z).trans ((up1 (by decide)).trans (low1 h_u)))))
  have e_z : bits w 21 1 = bitOf z := hw ▸ (up7 h_b).trans ((up7 h_a).trans ((up7 h_d).trans (low1 h_z)))
  have e_d : bits w 14 7 = d.toNat := hw ▸ (up7 h_b).trans ((up7 h_a).trans (low7 h_d))
  have e_a : bits w 7 7 = a.toNat := hw ▸ (up7 h_b).trans (low7 h_a)
  have e_b : bits w 0 7 = b.toNat := hw ▸ low7 h_b
  have x1 : bits w 22 1 = 0 := hw ▸ (up7 h_b).trans ((up7 h_a).trans ((up7 h_d).trans ((up1 h_z).trans (low1 (by decide)))))
  simp [decodeChainWord, decodeWord, decodeRow1, eH, eM, eC, e_u, e_z, e_d, e_a, e_b, x1, bitOf_beq]

theorem iaddi (d : BitVec 7) (a : BitVec 7) (imm : BitVec 10) : Statement (.iaddi d a imm) := by
  intro ch w h
  simp only [encodeChainWord, encode, Option.map_some, Option.some.injEq] at h
  have hc := bitOf_lt ch
  have h_d : d.toNat < 128 := d.isLt
  have h_a : a.toNat < 128 := a.isLt
  have h_imm : imm.toNat < 1024 := imm.isLt
  have hw : w = (((((bitOf ch) * 8 + 1) * 16 + 4) * 128 + d.toNat) * 128 + a.toNat) * 1024 + imm.toNat := by omega
  have eH : bits w 28 3 = 1 := hw ▸ (up10 h_imm).trans ((up7 h_a).trans ((up7 h_d).trans ((up4 (by decide)).trans (low3 (by decide)))))
  have eM : bits w 24 4 = 4 := hw ▸ (up10 h_imm).trans ((up7 h_a).trans ((up7 h_d).trans (low4 (by decide))))
  have eC : bits w 31 1 = bitOf ch := hw ▸ (up10 h_imm).trans ((up7 h_a).trans ((up7 h_d).trans ((up4 (by decide)).trans ((up3 (by decide)).trans (top1 hc)))))
  have e_d : bits w 17 7 = d.toNat := hw ▸ (up10 h_imm).trans ((up7 h_a).trans (low7 h_d))
  have e_a : bits w 10 7 = a.toNat := hw ▸ (up10 h_imm).trans (low7 h_a)
  have e_imm : bits w 0 10 = imm.toNat := hw ▸ low10 h_imm
  simp [decodeChainWord, decodeWord, decodeRow1, eH, eM, eC, e_d, e_a, e_imm, bitOf_beq]

theorem andi (d : BitVec 7) (a : BitVec 7) (imm : BitVec 10) : Statement (.andi d a imm) := by
  intro ch w h
  simp only [encodeChainWord, encode, Option.map_some, Option.some.injEq] at h
  have hc := bitOf_lt ch
  have h_d : d.toNat < 128 := d.isLt
  have h_a : a.toNat < 128 := a.isLt
  have h_imm : imm.toNat < 1024 := imm.isLt
  have hw : w = (((((bitOf ch) * 8 + 1) * 16 + 5) * 128 + d.toNat) * 128 + a.toNat) * 1024 + imm.toNat := by omega
  have eH : bits w 28 3 = 1 := hw ▸ (up10 h_imm).trans ((up7 h_a).trans ((up7 h_d).trans ((up4 (by decide)).trans (low3 (by decide)))))
  have eM : bits w 24 4 = 5 := hw ▸ (up10 h_imm).trans ((up7 h_a).trans ((up7 h_d).trans (low4 (by decide))))
  have eC : bits w 31 1 = bitOf ch := hw ▸ (up10 h_imm).trans ((up7 h_a).trans ((up7 h_d).trans ((up4 (by decide)).trans ((up3 (by decide)).trans (top1 hc)))))
  have e_d : bits w 17 7 = d.toNat := hw ▸ (up10 h_imm).trans ((up7 h_a).trans (low7 h_d))
  have e_a : bits w 10 7 = a.toNat := hw ▸ (up10 h_imm).trans (low7 h_a)
  have e_imm : bits w 0 10 = imm.toNat := hw ▸ low10 h_imm
  simp [decodeChainWord, decodeWord, decodeRow1, eH, eM, eC, e_d, e_a, e_imm, bitOf_beq]

theorem ori (d : BitVec 7) (a : BitVec 7) (imm : BitVec 10) : Statement (.ori d a imm) := by
  intro ch w h
  simp only [encodeChainWord, encode, Option.map_some, Option.some.injEq] at h
  have hc := bitOf_lt ch
  have h_d : d.toNat < 128 := d.isLt
  have h_a : a.toNat < 128 := a.isLt
  have h_imm : imm.toNat < 1024 := imm.isLt
  have hw : w = (((((bitOf ch) * 8 + 1) * 16 + 6) * 128 + d.toNat) * 128 + a.toNat) * 1024 + imm.toNat := by omega
  have eH : bits w 28 3 = 1 := hw ▸ (up10 h_imm).trans ((up7 h_a).trans ((up7 h_d).trans ((up4 (by decide)).trans (low3 (by decide)))))
  have eM : bits w 24 4 = 6 := hw ▸ (up10 h_imm).trans ((up7 h_a).trans ((up7 h_d).trans (low4 (by decide))))
  have eC : bits w 31 1 = bitOf ch := hw ▸ (up10 h_imm).trans ((up7 h_a).trans ((up7 h_d).trans ((up4 (by decide)).trans ((up3 (by decide)).trans (top1 hc)))))
  have e_d : bits w 17 7 = d.toNat := hw ▸ (up10 h_imm).trans ((up7 h_a).trans (low7 h_d))
  have e_a : bits w 10 7 = a.toNat := hw ▸ (up10 h_imm).trans (low7 h_a)
  have e_imm : bits w 0 10 = imm.toNat := hw ▸ low10 h_imm
  simp [decodeChainWord, decodeWord, decodeRow1, eH, eM, eC, e_d, e_a, e_imm, bitOf_beq]

theorem xori (d : BitVec 7) (a : BitVec 7) (imm : BitVec 10) : Statement (.xori d a imm) := by
  intro ch w h
  simp only [encodeChainWord, encode, Option.map_some, Option.some.injEq] at h
  have hc := bitOf_lt ch
  have h_d : d.toNat < 128 := d.isLt
  have h_a : a.toNat < 128 := a.isLt
  have h_imm : imm.toNat < 1024 := imm.isLt
  have hw : w = (((((bitOf ch) * 8 + 1) * 16 + 7) * 128 + d.toNat) * 128 + a.toNat) * 1024 + imm.toNat := by omega
  have eH : bits w 28 3 = 1 := hw ▸ (up10 h_imm).trans ((up7 h_a).trans ((up7 h_d).trans ((up4 (by decide)).trans (low3 (by decide)))))
  have eM : bits w 24 4 = 7 := hw ▸ (up10 h_imm).trans ((up7 h_a).trans ((up7 h_d).trans (low4 (by decide))))
  have eC : bits w 31 1 = bitOf ch := hw ▸ (up10 h_imm).trans ((up7 h_a).trans ((up7 h_d).trans ((up4 (by decide)).trans ((up3 (by decide)).trans (top1 hc)))))
  have e_d : bits w 17 7 = d.toNat := hw ▸ (up10 h_imm).trans ((up7 h_a).trans (low7 h_d))
  have e_a : bits w 10 7 = a.toNat := hw ▸ (up10 h_imm).trans (low7 h_a)
  have e_imm : bits w 0 10 = imm.toNat := hw ▸ low10 h_imm
  simp [decodeChainWord, decodeWord, decodeRow1, eH, eM, eC, e_d, e_a, e_imm, bitOf_beq]

theorem shli (d : BitVec 7) (a : BitVec 7) (imm : BitVec 5) : Statement (.shli d a imm) := by
  intro ch w h
  simp only [encodeChainWord, encode, Option.map_some, Option.some.injEq] at h
  have hc := bitOf_lt ch
  have h_d : d.toNat < 128 := d.isLt
  have h_a : a.toNat < 128 := a.isLt
  have h_imm : imm.toNat < 32 := imm.isLt
  have hw : w = ((((((bitOf ch) * 8 + 1) * 16 + 8) * 128 + d.toNat) * 128 + a.toNat) * 32 + 0) * 32 + imm.toNat := by omega
  have eH : bits w 28 3 = 1 := hw ▸ (up5 h_imm).trans ((up5 (by decide)).trans ((up7 h_a).trans ((up7 h_d).trans ((up4 (by decide)).trans (low3 (by decide))))))
  have eM : bits w 24 4 = 8 := hw ▸ (up5 h_imm).trans ((up5 (by decide)).trans ((up7 h_a).trans ((up7 h_d).trans (low4 (by decide)))))
  have eC : bits w 31 1 = bitOf ch := hw ▸ (up5 h_imm).trans ((up5 (by decide)).trans ((up7 h_a).trans ((up7 h_d).trans ((up4 (by decide)).trans ((up3 (by decide)).trans (top1 hc))))))
  have e_d : bits w 17 7 = d.toNat := hw ▸ (up5 h_imm).trans ((up5 (by decide)).trans ((up7 h_a).trans (low7 h_d)))
  have e_a : bits w 10 7 = a.toNat := hw ▸ (up5 h_imm).trans ((up5 (by decide)).trans (low7 h_a))
  have e_imm : bits w 0 5 = imm.toNat := hw ▸ low5 h_imm
  have x1 : bits w 5 5 = 0 := hw ▸ (up5 h_imm).trans (low5 (by decide))
  simp [decodeChainWord, decodeWord, decodeRow1, eH, eM, eC, e_d, e_a, e_imm, x1, bitOf_beq]

theorem shri (d : BitVec 7) (a : BitVec 7) (imm : BitVec 5) : Statement (.shri d a imm) := by
  intro ch w h
  simp only [encodeChainWord, encode, Option.map_some, Option.some.injEq] at h
  have hc := bitOf_lt ch
  have h_d : d.toNat < 128 := d.isLt
  have h_a : a.toNat < 128 := a.isLt
  have h_imm : imm.toNat < 32 := imm.isLt
  have hw : w = ((((((bitOf ch) * 8 + 1) * 16 + 9) * 128 + d.toNat) * 128 + a.toNat) * 32 + 0) * 32 + imm.toNat := by omega
  have eH : bits w 28 3 = 1 := hw ▸ (up5 h_imm).trans ((up5 (by decide)).trans ((up7 h_a).trans ((up7 h_d).trans ((up4 (by decide)).trans (low3 (by decide))))))
  have eM : bits w 24 4 = 9 := hw ▸ (up5 h_imm).trans ((up5 (by decide)).trans ((up7 h_a).trans ((up7 h_d).trans (low4 (by decide)))))
  have eC : bits w 31 1 = bitOf ch := hw ▸ (up5 h_imm).trans ((up5 (by decide)).trans ((up7 h_a).trans ((up7 h_d).trans ((up4 (by decide)).trans ((up3 (by decide)).trans (top1 hc))))))
  have e_d : bits w 17 7 = d.toNat := hw ▸ (up5 h_imm).trans ((up5 (by decide)).trans ((up7 h_a).trans (low7 h_d)))
  have e_a : bits w 10 7 = a.toNat := hw ▸ (up5 h_imm).trans ((up5 (by decide)).trans (low7 h_a))
  have e_imm : bits w 0 5 = imm.toNat := hw ▸ low5 h_imm
  have x1 : bits w 5 5 = 0 := hw ▸ (up5 h_imm).trans (low5 (by decide))
  simp [decodeChainWord, decodeWord, decodeRow1, eH, eM, eC, e_d, e_a, e_imm, x1, bitOf_beq]

theorem shai (d : BitVec 7) (a : BitVec 7) (imm : BitVec 5) : Statement (.shai d a imm) := by
  intro ch w h
  simp only [encodeChainWord, encode, Option.map_some, Option.some.injEq] at h
  have hc := bitOf_lt ch
  have h_d : d.toNat < 128 := d.isLt
  have h_a : a.toNat < 128 := a.isLt
  have h_imm : imm.toNat < 32 := imm.isLt
  have hw : w = ((((((bitOf ch) * 8 + 1) * 16 + 10) * 128 + d.toNat) * 128 + a.toNat) * 32 + 0) * 32 + imm.toNat := by omega
  have eH : bits w 28 3 = 1 := hw ▸ (up5 h_imm).trans ((up5 (by decide)).trans ((up7 h_a).trans ((up7 h_d).trans ((up4 (by decide)).trans (low3 (by decide))))))
  have eM : bits w 24 4 = 10 := hw ▸ (up5 h_imm).trans ((up5 (by decide)).trans ((up7 h_a).trans ((up7 h_d).trans (low4 (by decide)))))
  have eC : bits w 31 1 = bitOf ch := hw ▸ (up5 h_imm).trans ((up5 (by decide)).trans ((up7 h_a).trans ((up7 h_d).trans ((up4 (by decide)).trans ((up3 (by decide)).trans (top1 hc))))))
  have e_d : bits w 17 7 = d.toNat := hw ▸ (up5 h_imm).trans ((up5 (by decide)).trans ((up7 h_a).trans (low7 h_d)))
  have e_a : bits w 10 7 = a.toNat := hw ▸ (up5 h_imm).trans ((up5 (by decide)).trans (low7 h_a))
  have e_imm : bits w 0 5 = imm.toNat := hw ▸ low5 h_imm
  have x1 : bits w 5 5 = 0 := hw ▸ (up5 h_imm).trans (low5 (by decide))
  simp [decodeChainWord, decodeWord, decodeRow1, eH, eM, eC, e_d, e_a, e_imm, x1, bitOf_beq]

theorem icmpi (d : BitVec 7) (a : BitVec 7) (rel : BitVec 3) (imm : BitVec 7) : Statement (.icmpi d a rel imm) := by
  intro ch w h
  simp only [encodeChainWord, encode, Option.map_some, Option.some.injEq] at h
  have hc := bitOf_lt ch
  have h_d : d.toNat < 128 := d.isLt
  have h_a : a.toNat < 128 := a.isLt
  have h_rel : rel.toNat < 8 := rel.isLt
  have h_imm : imm.toNat < 128 := imm.isLt
  have hw : w = ((((((bitOf ch) * 8 + 1) * 16 + 11) * 128 + d.toNat) * 128 + a.toNat) * 8 + rel.toNat) * 128 + imm.toNat := by omega
  have eH : bits w 28 3 = 1 := hw ▸ (up7 h_imm).trans ((up3 h_rel).trans ((up7 h_a).trans ((up7 h_d).trans ((up4 (by decide)).trans (low3 (by decide))))))
  have eM : bits w 24 4 = 11 := hw ▸ (up7 h_imm).trans ((up3 h_rel).trans ((up7 h_a).trans ((up7 h_d).trans (low4 (by decide)))))
  have eC : bits w 31 1 = bitOf ch := hw ▸ (up7 h_imm).trans ((up3 h_rel).trans ((up7 h_a).trans ((up7 h_d).trans ((up4 (by decide)).trans ((up3 (by decide)).trans (top1 hc))))))
  have e_d : bits w 17 7 = d.toNat := hw ▸ (up7 h_imm).trans ((up3 h_rel).trans ((up7 h_a).trans (low7 h_d)))
  have e_a : bits w 10 7 = a.toNat := hw ▸ (up7 h_imm).trans ((up3 h_rel).trans (low7 h_a))
  have e_rel : bits w 7 3 = rel.toNat := hw ▸ (up7 h_imm).trans (low3 h_rel)
  have e_imm : bits w 0 7 = imm.toNat := hw ▸ low7 h_imm
  simp [decodeChainWord, decodeWord, decodeRow1, eH, eM, eC, e_d, e_a, e_rel, e_imm, bitOf_beq]

theorem a64i (d : BitVec 7) (a : BitVec 7) (imm : BitVec 10) : Statement (.a64i d a imm) := by
  intro ch w h
  simp only [encodeChainWord, encode, Option.map_some, Option.some.injEq] at h
  have hc := bitOf_lt ch
  have h_d : d.toNat < 128 := d.isLt
  have h_a : a.toNat < 128 := a.isLt
  have h_imm : imm.toNat < 1024 := imm.isLt
  have hw : w = (((((bitOf ch) * 8 + 1) * 16 + 12) * 128 + d.toNat) * 128 + a.toNat) * 1024 + imm.toNat := by omega
  have eH : bits w 28 3 = 1 := hw ▸ (up10 h_imm).trans ((up7 h_a).trans ((up7 h_d).trans ((up4 (by decide)).trans (low3 (by decide)))))
  have eM : bits w 24 4 = 12 := hw ▸ (up10 h_imm).trans ((up7 h_a).trans ((up7 h_d).trans (low4 (by decide))))
  have eC : bits w 31 1 = bitOf ch := hw ▸ (up10 h_imm).trans ((up7 h_a).trans ((up7 h_d).trans ((up4 (by decide)).trans ((up3 (by decide)).trans (top1 hc)))))
  have e_d : bits w 17 7 = d.toNat := hw ▸ (up10 h_imm).trans ((up7 h_a).trans (low7 h_d))
  have e_a : bits w 10 7 = a.toNat := hw ▸ (up10 h_imm).trans (low7 h_a)
  have e_imm : bits w 0 10 = imm.toNat := hw ▸ low10 h_imm
  simp [decodeChainWord, decodeWord, decodeRow1, eH, eM, eC, e_d, e_a, e_imm, bitOf_beq]

theorem li (d : BitVec 7) (imm : BitVec 17) : Statement (.li d imm) := by
  intro ch w h
  simp only [encodeChainWord, encode, Option.map_some, Option.some.injEq] at h
  have hc := bitOf_lt ch
  have h_d : d.toNat < 128 := d.isLt
  have h_imm : imm.toNat < 131072 := imm.isLt
  have hw : w = ((((bitOf ch) * 8 + 1) * 16 + 13) * 128 + d.toNat) * 131072 + imm.toNat := by omega
  have eH : bits w 28 3 = 1 := hw ▸ (up17 h_imm).trans ((up7 h_d).trans ((up4 (by decide)).trans (low3 (by decide))))
  have eM : bits w 24 4 = 13 := hw ▸ (up17 h_imm).trans ((up7 h_d).trans (low4 (by decide)))
  have eC : bits w 31 1 = bitOf ch := hw ▸ (up17 h_imm).trans ((up7 h_d).trans ((up4 (by decide)).trans ((up3 (by decide)).trans (top1 hc))))
  have e_d : bits w 17 7 = d.toNat := hw ▸ (up17 h_imm).trans (low7 h_d)
  have e_imm : bits w 0 17 = imm.toNat := hw ▸ low17 h_imm
  simp [decodeChainWord, decodeWord, decodeRow1, eH, eM, eC, e_d, e_imm, bitOf_beq]

theorem lih (d : BitVec 7) (imm : BitVec 17) : Statement (.lih d imm) := by
  intro ch w h
  simp only [encodeChainWord, encode, Option.map_some, Option.some.injEq] at h
  have hc := bitOf_lt ch
  have h_d : d.toNat < 128 := d.isLt
  have h_imm : imm.toNat < 131072 := imm.isLt
  have hw : w = ((((bitOf ch) * 8 + 1) * 16 + 14) * 128 + d.toNat) * 131072 + imm.toNat := by omega
  have eH : bits w 28 3 = 1 := hw ▸ (up17 h_imm).trans ((up7 h_d).trans ((up4 (by decide)).trans (low3 (by decide))))
  have eM : bits w 24 4 = 14 := hw ▸ (up17 h_imm).trans ((up7 h_d).trans (low4 (by decide)))
  have eC : bits w 31 1 = bitOf ch := hw ▸ (up17 h_imm).trans ((up7 h_d).trans ((up4 (by decide)).trans ((up3 (by decide)).trans (top1 hc))))
  have e_d : bits w 17 7 = d.toNat := hw ▸ (up17 h_imm).trans (low7 h_d)
  have e_imm : bits w 0 17 = imm.toNat := hw ▸ low17 h_imm
  simp [decodeChainWord, decodeWord, decodeRow1, eH, eM, eC, e_d, e_imm, bitOf_beq]

theorem cbsel (imm : BitVec 3) : Statement (.cbsel imm) := by
  intro ch w h
  simp only [encodeChainWord, encode, Option.map_some, Option.some.injEq] at h
  have hc := bitOf_lt ch
  have h_imm : imm.toNat < 8 := imm.isLt
  have hw : w = ((((bitOf ch) * 8 + 1) * 16 + 15) * 2097152 + 0) * 8 + imm.toNat := by omega
  have eH : bits w 28 3 = 1 := hw ▸ (up3 h_imm).trans ((up21 (by decide)).trans ((up4 (by decide)).trans (low3 (by decide))))
  have eM : bits w 24 4 = 15 := hw ▸ (up3 h_imm).trans ((up21 (by decide)).trans (low4 (by decide)))
  have eC : bits w 31 1 = bitOf ch := hw ▸ (up3 h_imm).trans ((up21 (by decide)).trans ((up4 (by decide)).trans ((up3 (by decide)).trans (top1 hc))))
  have e_imm : bits w 0 3 = imm.toNat := hw ▸ low3 h_imm
  have x1 : bits w 3 21 = 0 := hw ▸ (up3 h_imm).trans (low21 (by decide))
  simp [decodeChainWord, decodeWord, decodeRow1, eH, eM, eC, e_imm, x1, bitOf_beq]

theorem fadd (u : Bool) (rm : BitVec 2) (d : BitVec 7) (a : BitVec 7) (b : BitVec 7) : Statement (.fadd u rm d a b) := by
  intro ch w h
  simp only [encodeChainWord, encode, Option.map_some, Option.some.injEq] at h
  have hc := bitOf_lt ch
  have h_u := bitOf_lt u
  have h_rm : rm.toNat < 4 := rm.isLt
  have h_d : d.toNat < 128 := d.isLt
  have h_a : a.toNat < 128 := a.isLt
  have h_b : b.toNat < 128 := b.isLt
  have hw : w = (((((((bitOf ch) * 8 + 2) * 16 + 0) * 2 + bitOf u) * 4 + rm.toNat) * 128 + d.toNat) * 128 + a.toNat) * 128 + b.toNat := by omega
  have eH : bits w 28 3 = 2 := hw ▸ (up7 h_b).trans ((up7 h_a).trans ((up7 h_d).trans ((up2 h_rm).trans ((up1 h_u).trans ((up4 (by decide)).trans (low3 (by decide)))))))
  have eM : bits w 24 4 = 0 := hw ▸ (up7 h_b).trans ((up7 h_a).trans ((up7 h_d).trans ((up2 h_rm).trans ((up1 h_u).trans (low4 (by decide))))))
  have eC : bits w 31 1 = bitOf ch := hw ▸ (up7 h_b).trans ((up7 h_a).trans ((up7 h_d).trans ((up2 h_rm).trans ((up1 h_u).trans ((up4 (by decide)).trans ((up3 (by decide)).trans (top1 hc)))))))
  have e_u : bits w 23 1 = bitOf u := hw ▸ (up7 h_b).trans ((up7 h_a).trans ((up7 h_d).trans ((up2 h_rm).trans (low1 h_u))))
  have e_rm : bits w 21 2 = rm.toNat := hw ▸ (up7 h_b).trans ((up7 h_a).trans ((up7 h_d).trans (low2 h_rm)))
  have e_d : bits w 14 7 = d.toNat := hw ▸ (up7 h_b).trans ((up7 h_a).trans (low7 h_d))
  have e_a : bits w 7 7 = a.toNat := hw ▸ (up7 h_b).trans (low7 h_a)
  have e_b : bits w 0 7 = b.toNat := hw ▸ low7 h_b
  simp [decodeChainWord, decodeWord, decodeRow2, eH, eM, eC, e_u, e_rm, e_d, e_a, e_b, bitOf_beq]

theorem fsub (u : Bool) (rm : BitVec 2) (d : BitVec 7) (a : BitVec 7) (b : BitVec 7) : Statement (.fsub u rm d a b) := by
  intro ch w h
  simp only [encodeChainWord, encode, Option.map_some, Option.some.injEq] at h
  have hc := bitOf_lt ch
  have h_u := bitOf_lt u
  have h_rm : rm.toNat < 4 := rm.isLt
  have h_d : d.toNat < 128 := d.isLt
  have h_a : a.toNat < 128 := a.isLt
  have h_b : b.toNat < 128 := b.isLt
  have hw : w = (((((((bitOf ch) * 8 + 2) * 16 + 1) * 2 + bitOf u) * 4 + rm.toNat) * 128 + d.toNat) * 128 + a.toNat) * 128 + b.toNat := by omega
  have eH : bits w 28 3 = 2 := hw ▸ (up7 h_b).trans ((up7 h_a).trans ((up7 h_d).trans ((up2 h_rm).trans ((up1 h_u).trans ((up4 (by decide)).trans (low3 (by decide)))))))
  have eM : bits w 24 4 = 1 := hw ▸ (up7 h_b).trans ((up7 h_a).trans ((up7 h_d).trans ((up2 h_rm).trans ((up1 h_u).trans (low4 (by decide))))))
  have eC : bits w 31 1 = bitOf ch := hw ▸ (up7 h_b).trans ((up7 h_a).trans ((up7 h_d).trans ((up2 h_rm).trans ((up1 h_u).trans ((up4 (by decide)).trans ((up3 (by decide)).trans (top1 hc)))))))
  have e_u : bits w 23 1 = bitOf u := hw ▸ (up7 h_b).trans ((up7 h_a).trans ((up7 h_d).trans ((up2 h_rm).trans (low1 h_u))))
  have e_rm : bits w 21 2 = rm.toNat := hw ▸ (up7 h_b).trans ((up7 h_a).trans ((up7 h_d).trans (low2 h_rm)))
  have e_d : bits w 14 7 = d.toNat := hw ▸ (up7 h_b).trans ((up7 h_a).trans (low7 h_d))
  have e_a : bits w 7 7 = a.toNat := hw ▸ (up7 h_b).trans (low7 h_a)
  have e_b : bits w 0 7 = b.toNat := hw ▸ low7 h_b
  simp [decodeChainWord, decodeWord, decodeRow2, eH, eM, eC, e_u, e_rm, e_d, e_a, e_b, bitOf_beq]

theorem fmul (u : Bool) (rm : BitVec 2) (d : BitVec 7) (a : BitVec 7) (b : BitVec 7) : Statement (.fmul u rm d a b) := by
  intro ch w h
  simp only [encodeChainWord, encode, Option.map_some, Option.some.injEq] at h
  have hc := bitOf_lt ch
  have h_u := bitOf_lt u
  have h_rm : rm.toNat < 4 := rm.isLt
  have h_d : d.toNat < 128 := d.isLt
  have h_a : a.toNat < 128 := a.isLt
  have h_b : b.toNat < 128 := b.isLt
  have hw : w = (((((((bitOf ch) * 8 + 2) * 16 + 2) * 2 + bitOf u) * 4 + rm.toNat) * 128 + d.toNat) * 128 + a.toNat) * 128 + b.toNat := by omega
  have eH : bits w 28 3 = 2 := hw ▸ (up7 h_b).trans ((up7 h_a).trans ((up7 h_d).trans ((up2 h_rm).trans ((up1 h_u).trans ((up4 (by decide)).trans (low3 (by decide)))))))
  have eM : bits w 24 4 = 2 := hw ▸ (up7 h_b).trans ((up7 h_a).trans ((up7 h_d).trans ((up2 h_rm).trans ((up1 h_u).trans (low4 (by decide))))))
  have eC : bits w 31 1 = bitOf ch := hw ▸ (up7 h_b).trans ((up7 h_a).trans ((up7 h_d).trans ((up2 h_rm).trans ((up1 h_u).trans ((up4 (by decide)).trans ((up3 (by decide)).trans (top1 hc)))))))
  have e_u : bits w 23 1 = bitOf u := hw ▸ (up7 h_b).trans ((up7 h_a).trans ((up7 h_d).trans ((up2 h_rm).trans (low1 h_u))))
  have e_rm : bits w 21 2 = rm.toNat := hw ▸ (up7 h_b).trans ((up7 h_a).trans ((up7 h_d).trans (low2 h_rm)))
  have e_d : bits w 14 7 = d.toNat := hw ▸ (up7 h_b).trans ((up7 h_a).trans (low7 h_d))
  have e_a : bits w 7 7 = a.toNat := hw ▸ (up7 h_b).trans (low7 h_a)
  have e_b : bits w 0 7 = b.toNat := hw ▸ low7 h_b
  simp [decodeChainWord, decodeWord, decodeRow2, eH, eM, eC, e_u, e_rm, e_d, e_a, e_b, bitOf_beq]

theorem ffma (u : Bool) (rm : BitVec 2) (d : BitVec 7) (a : BitVec 7) (b : BitVec 7) : Statement (.ffma u rm d a b) := by
  intro ch w h
  simp only [encodeChainWord, encode, Option.map_some, Option.some.injEq] at h
  have hc := bitOf_lt ch
  have h_u := bitOf_lt u
  have h_rm : rm.toNat < 4 := rm.isLt
  have h_d : d.toNat < 128 := d.isLt
  have h_a : a.toNat < 128 := a.isLt
  have h_b : b.toNat < 128 := b.isLt
  have hw : w = (((((((bitOf ch) * 8 + 2) * 16 + 3) * 2 + bitOf u) * 4 + rm.toNat) * 128 + d.toNat) * 128 + a.toNat) * 128 + b.toNat := by omega
  have eH : bits w 28 3 = 2 := hw ▸ (up7 h_b).trans ((up7 h_a).trans ((up7 h_d).trans ((up2 h_rm).trans ((up1 h_u).trans ((up4 (by decide)).trans (low3 (by decide)))))))
  have eM : bits w 24 4 = 3 := hw ▸ (up7 h_b).trans ((up7 h_a).trans ((up7 h_d).trans ((up2 h_rm).trans ((up1 h_u).trans (low4 (by decide))))))
  have eC : bits w 31 1 = bitOf ch := hw ▸ (up7 h_b).trans ((up7 h_a).trans ((up7 h_d).trans ((up2 h_rm).trans ((up1 h_u).trans ((up4 (by decide)).trans ((up3 (by decide)).trans (top1 hc)))))))
  have e_u : bits w 23 1 = bitOf u := hw ▸ (up7 h_b).trans ((up7 h_a).trans ((up7 h_d).trans ((up2 h_rm).trans (low1 h_u))))
  have e_rm : bits w 21 2 = rm.toNat := hw ▸ (up7 h_b).trans ((up7 h_a).trans ((up7 h_d).trans (low2 h_rm)))
  have e_d : bits w 14 7 = d.toNat := hw ▸ (up7 h_b).trans ((up7 h_a).trans (low7 h_d))
  have e_a : bits w 7 7 = a.toNat := hw ▸ (up7 h_b).trans (low7 h_a)
  have e_b : bits w 0 7 = b.toNat := hw ▸ low7 h_b
  simp [decodeChainWord, decodeWord, decodeRow2, eH, eM, eC, e_u, e_rm, e_d, e_a, e_b, bitOf_beq]

theorem ffms (u : Bool) (rm : BitVec 2) (d : BitVec 7) (a : BitVec 7) (b : BitVec 7) : Statement (.ffms u rm d a b) := by
  intro ch w h
  simp only [encodeChainWord, encode, Option.map_some, Option.some.injEq] at h
  have hc := bitOf_lt ch
  have h_u := bitOf_lt u
  have h_rm : rm.toNat < 4 := rm.isLt
  have h_d : d.toNat < 128 := d.isLt
  have h_a : a.toNat < 128 := a.isLt
  have h_b : b.toNat < 128 := b.isLt
  have hw : w = (((((((bitOf ch) * 8 + 2) * 16 + 4) * 2 + bitOf u) * 4 + rm.toNat) * 128 + d.toNat) * 128 + a.toNat) * 128 + b.toNat := by omega
  have eH : bits w 28 3 = 2 := hw ▸ (up7 h_b).trans ((up7 h_a).trans ((up7 h_d).trans ((up2 h_rm).trans ((up1 h_u).trans ((up4 (by decide)).trans (low3 (by decide)))))))
  have eM : bits w 24 4 = 4 := hw ▸ (up7 h_b).trans ((up7 h_a).trans ((up7 h_d).trans ((up2 h_rm).trans ((up1 h_u).trans (low4 (by decide))))))
  have eC : bits w 31 1 = bitOf ch := hw ▸ (up7 h_b).trans ((up7 h_a).trans ((up7 h_d).trans ((up2 h_rm).trans ((up1 h_u).trans ((up4 (by decide)).trans ((up3 (by decide)).trans (top1 hc)))))))
  have e_u : bits w 23 1 = bitOf u := hw ▸ (up7 h_b).trans ((up7 h_a).trans ((up7 h_d).trans ((up2 h_rm).trans (low1 h_u))))
  have e_rm : bits w 21 2 = rm.toNat := hw ▸ (up7 h_b).trans ((up7 h_a).trans ((up7 h_d).trans (low2 h_rm)))
  have e_d : bits w 14 7 = d.toNat := hw ▸ (up7 h_b).trans ((up7 h_a).trans (low7 h_d))
  have e_a : bits w 7 7 = a.toNat := hw ▸ (up7 h_b).trans (low7 h_a)
  have e_b : bits w 0 7 = b.toNat := hw ▸ low7 h_b
  simp [decodeChainWord, decodeWord, decodeRow2, eH, eM, eC, e_u, e_rm, e_d, e_a, e_b, bitOf_beq]

theorem fmin (u : Bool) (d : BitVec 7) (a : BitVec 7) (b : BitVec 7) : Statement (.fmin u d a b) := by
  intro ch w h
  simp only [encodeChainWord, encode, Option.map_some, Option.some.injEq] at h
  have hc := bitOf_lt ch
  have h_u := bitOf_lt u
  have h_d : d.toNat < 128 := d.isLt
  have h_a : a.toNat < 128 := a.isLt
  have h_b : b.toNat < 128 := b.isLt
  have hw : w = (((((((bitOf ch) * 8 + 2) * 16 + 5) * 2 + bitOf u) * 4 + 0) * 128 + d.toNat) * 128 + a.toNat) * 128 + b.toNat := by omega
  have eH : bits w 28 3 = 2 := hw ▸ (up7 h_b).trans ((up7 h_a).trans ((up7 h_d).trans ((up2 (by decide)).trans ((up1 h_u).trans ((up4 (by decide)).trans (low3 (by decide)))))))
  have eM : bits w 24 4 = 5 := hw ▸ (up7 h_b).trans ((up7 h_a).trans ((up7 h_d).trans ((up2 (by decide)).trans ((up1 h_u).trans (low4 (by decide))))))
  have eC : bits w 31 1 = bitOf ch := hw ▸ (up7 h_b).trans ((up7 h_a).trans ((up7 h_d).trans ((up2 (by decide)).trans ((up1 h_u).trans ((up4 (by decide)).trans ((up3 (by decide)).trans (top1 hc)))))))
  have e_u : bits w 23 1 = bitOf u := hw ▸ (up7 h_b).trans ((up7 h_a).trans ((up7 h_d).trans ((up2 (by decide)).trans (low1 h_u))))
  have e_d : bits w 14 7 = d.toNat := hw ▸ (up7 h_b).trans ((up7 h_a).trans (low7 h_d))
  have e_a : bits w 7 7 = a.toNat := hw ▸ (up7 h_b).trans (low7 h_a)
  have e_b : bits w 0 7 = b.toNat := hw ▸ low7 h_b
  have x1 : bits w 21 2 = 0 := hw ▸ (up7 h_b).trans ((up7 h_a).trans ((up7 h_d).trans (low2 (by decide))))
  simp [decodeChainWord, decodeWord, decodeRow2, eH, eM, eC, e_u, e_d, e_a, e_b, x1, bitOf_beq]

theorem fmax (u : Bool) (d : BitVec 7) (a : BitVec 7) (b : BitVec 7) : Statement (.fmax u d a b) := by
  intro ch w h
  simp only [encodeChainWord, encode, Option.map_some, Option.some.injEq] at h
  have hc := bitOf_lt ch
  have h_u := bitOf_lt u
  have h_d : d.toNat < 128 := d.isLt
  have h_a : a.toNat < 128 := a.isLt
  have h_b : b.toNat < 128 := b.isLt
  have hw : w = (((((((bitOf ch) * 8 + 2) * 16 + 5) * 2 + bitOf u) * 4 + 1) * 128 + d.toNat) * 128 + a.toNat) * 128 + b.toNat := by omega
  have eH : bits w 28 3 = 2 := hw ▸ (up7 h_b).trans ((up7 h_a).trans ((up7 h_d).trans ((up2 (by decide)).trans ((up1 h_u).trans ((up4 (by decide)).trans (low3 (by decide)))))))
  have eM : bits w 24 4 = 5 := hw ▸ (up7 h_b).trans ((up7 h_a).trans ((up7 h_d).trans ((up2 (by decide)).trans ((up1 h_u).trans (low4 (by decide))))))
  have eC : bits w 31 1 = bitOf ch := hw ▸ (up7 h_b).trans ((up7 h_a).trans ((up7 h_d).trans ((up2 (by decide)).trans ((up1 h_u).trans ((up4 (by decide)).trans ((up3 (by decide)).trans (top1 hc)))))))
  have e_u : bits w 23 1 = bitOf u := hw ▸ (up7 h_b).trans ((up7 h_a).trans ((up7 h_d).trans ((up2 (by decide)).trans (low1 h_u))))
  have e_d : bits w 14 7 = d.toNat := hw ▸ (up7 h_b).trans ((up7 h_a).trans (low7 h_d))
  have e_a : bits w 7 7 = a.toNat := hw ▸ (up7 h_b).trans (low7 h_a)
  have e_b : bits w 0 7 = b.toNat := hw ▸ low7 h_b
  have x1 : bits w 21 2 = 1 := hw ▸ (up7 h_b).trans ((up7 h_a).trans ((up7 h_d).trans (low2 (by decide))))
  simp [decodeChainWord, decodeWord, decodeRow2, eH, eM, eC, e_u, e_d, e_a, e_b, x1, bitOf_beq]

theorem fneg (d : BitVec 7) (a : BitVec 7) : Statement (.fneg d a) := by
  intro ch w h
  simp only [encodeChainWord, encode, Option.map_some, Option.some.injEq] at h
  have hc := bitOf_lt ch
  have h_d : d.toNat < 128 := d.isLt
  have h_a : a.toNat < 128 := a.isLt
  have hw : w = ((((((bitOf ch) * 8 + 2) * 16 + 6) * 8 + 0) * 128 + d.toNat) * 128 + a.toNat) * 128 + 0 := by omega
  have eH : bits w 28 3 = 2 := hw ▸ (up7 (by decide)).trans ((up7 h_a).trans ((up7 h_d).trans ((up3 (by decide)).trans ((up4 (by decide)).trans (low3 (by decide))))))
  have eM : bits w 24 4 = 6 := hw ▸ (up7 (by decide)).trans ((up7 h_a).trans ((up7 h_d).trans ((up3 (by decide)).trans (low4 (by decide)))))
  have eC : bits w 31 1 = bitOf ch := hw ▸ (up7 (by decide)).trans ((up7 h_a).trans ((up7 h_d).trans ((up3 (by decide)).trans ((up4 (by decide)).trans ((up3 (by decide)).trans (top1 hc))))))
  have e_d : bits w 14 7 = d.toNat := hw ▸ (up7 (by decide)).trans ((up7 h_a).trans (low7 h_d))
  have e_a : bits w 7 7 = a.toNat := hw ▸ (up7 (by decide)).trans (low7 h_a)
  have x1 : bits w 0 7 = 0 := hw ▸ low7 (by decide)
  have x2 : bits w 21 3 = 0 := hw ▸ (up7 (by decide)).trans ((up7 h_a).trans ((up7 h_d).trans (low3 (by decide))))
  simp [decodeChainWord, decodeWord, decodeRow2, eH, eM, eC, e_d, e_a, x1, x2, bitOf_beq]

theorem fabs (d : BitVec 7) (a : BitVec 7) : Statement (.fabs d a) := by
  intro ch w h
  simp only [encodeChainWord, encode, Option.map_some, Option.some.injEq] at h
  have hc := bitOf_lt ch
  have h_d : d.toNat < 128 := d.isLt
  have h_a : a.toNat < 128 := a.isLt
  have hw : w = ((((((bitOf ch) * 8 + 2) * 16 + 6) * 8 + 1) * 128 + d.toNat) * 128 + a.toNat) * 128 + 0 := by omega
  have eH : bits w 28 3 = 2 := hw ▸ (up7 (by decide)).trans ((up7 h_a).trans ((up7 h_d).trans ((up3 (by decide)).trans ((up4 (by decide)).trans (low3 (by decide))))))
  have eM : bits w 24 4 = 6 := hw ▸ (up7 (by decide)).trans ((up7 h_a).trans ((up7 h_d).trans ((up3 (by decide)).trans (low4 (by decide)))))
  have eC : bits w 31 1 = bitOf ch := hw ▸ (up7 (by decide)).trans ((up7 h_a).trans ((up7 h_d).trans ((up3 (by decide)).trans ((up4 (by decide)).trans ((up3 (by decide)).trans (top1 hc))))))
  have e_d : bits w 14 7 = d.toNat := hw ▸ (up7 (by decide)).trans ((up7 h_a).trans (low7 h_d))
  have e_a : bits w 7 7 = a.toNat := hw ▸ (up7 (by decide)).trans (low7 h_a)
  have x1 : bits w 0 7 = 0 := hw ▸ low7 (by decide)
  have x2 : bits w 21 3 = 1 := hw ▸ (up7 (by decide)).trans ((up7 h_a).trans ((up7 h_d).trans (low3 (by decide))))
  simp [decodeChainWord, decodeWord, decodeRow2, eH, eM, eC, e_d, e_a, x1, x2, bitOf_beq]

theorem fcpsgn (u : Bool) (d : BitVec 7) (a : BitVec 7) (b : BitVec 7) : Statement (.fcpsgn u d a b) := by
  intro ch w h
  simp only [encodeChainWord, encode, Option.map_some, Option.some.injEq] at h
  have hc := bitOf_lt ch
  have h_u := bitOf_lt u
  have h_d : d.toNat < 128 := d.isLt
  have h_a : a.toNat < 128 := a.isLt
  have h_b : b.toNat < 128 := b.isLt
  have hw : w = (((((((bitOf ch) * 8 + 2) * 16 + 7) * 2 + bitOf u) * 4 + 0) * 128 + d.toNat) * 128 + a.toNat) * 128 + b.toNat := by omega
  have eH : bits w 28 3 = 2 := hw ▸ (up7 h_b).trans ((up7 h_a).trans ((up7 h_d).trans ((up2 (by decide)).trans ((up1 h_u).trans ((up4 (by decide)).trans (low3 (by decide)))))))
  have eM : bits w 24 4 = 7 := hw ▸ (up7 h_b).trans ((up7 h_a).trans ((up7 h_d).trans ((up2 (by decide)).trans ((up1 h_u).trans (low4 (by decide))))))
  have eC : bits w 31 1 = bitOf ch := hw ▸ (up7 h_b).trans ((up7 h_a).trans ((up7 h_d).trans ((up2 (by decide)).trans ((up1 h_u).trans ((up4 (by decide)).trans ((up3 (by decide)).trans (top1 hc)))))))
  have e_u : bits w 23 1 = bitOf u := hw ▸ (up7 h_b).trans ((up7 h_a).trans ((up7 h_d).trans ((up2 (by decide)).trans (low1 h_u))))
  have e_d : bits w 14 7 = d.toNat := hw ▸ (up7 h_b).trans ((up7 h_a).trans (low7 h_d))
  have e_a : bits w 7 7 = a.toNat := hw ▸ (up7 h_b).trans (low7 h_a)
  have e_b : bits w 0 7 = b.toNat := hw ▸ low7 h_b
  have x1 : bits w 21 2 = 0 := hw ▸ (up7 h_b).trans ((up7 h_a).trans ((up7 h_d).trans (low2 (by decide))))
  simp [decodeChainWord, decodeWord, decodeRow2, eH, eM, eC, e_u, e_d, e_a, e_b, x1, bitOf_beq]

theorem fcmp (rel : BitVec 3) (d : BitVec 7) (a : BitVec 7) (b : BitVec 7) : Statement (.fcmp rel d a b) := by
  intro ch w h
  simp only [encodeChainWord, encode, Option.map_some, Option.some.injEq] at h
  have hc := bitOf_lt ch
  have h_rel : rel.toNat < 8 := rel.isLt
  have h_d : d.toNat < 128 := d.isLt
  have h_a : a.toNat < 128 := a.isLt
  have h_b : b.toNat < 128 := b.isLt
  have hw : w = ((((((bitOf ch) * 8 + 2) * 16 + 8) * 8 + rel.toNat) * 128 + d.toNat) * 128 + a.toNat) * 128 + b.toNat := by omega
  have eH : bits w 28 3 = 2 := hw ▸ (up7 h_b).trans ((up7 h_a).trans ((up7 h_d).trans ((up3 h_rel).trans ((up4 (by decide)).trans (low3 (by decide))))))
  have eM : bits w 24 4 = 8 := hw ▸ (up7 h_b).trans ((up7 h_a).trans ((up7 h_d).trans ((up3 h_rel).trans (low4 (by decide)))))
  have eC : bits w 31 1 = bitOf ch := hw ▸ (up7 h_b).trans ((up7 h_a).trans ((up7 h_d).trans ((up3 h_rel).trans ((up4 (by decide)).trans ((up3 (by decide)).trans (top1 hc))))))
  have e_rel : bits w 21 3 = rel.toNat := hw ▸ (up7 h_b).trans ((up7 h_a).trans ((up7 h_d).trans (low3 h_rel)))
  have e_d : bits w 14 7 = d.toNat := hw ▸ (up7 h_b).trans ((up7 h_a).trans (low7 h_d))
  have e_a : bits w 7 7 = a.toNat := hw ▸ (up7 h_b).trans (low7 h_a)
  have e_b : bits w 0 7 = b.toNat := hw ▸ low7 h_b
  simp [decodeChainWord, decodeWord, decodeRow2, eH, eM, eC, e_rel, e_d, e_a, e_b, bitOf_beq]

theorem fsqrt (rm : BitVec 2) (d : BitVec 7) (a : BitVec 7) : Statement (.fsqrt rm d a) := by
  intro ch w h
  simp only [encodeChainWord, encode, Option.map_some, Option.some.injEq] at h
  have hc := bitOf_lt ch
  have h_rm : rm.toNat < 4 := rm.isLt
  have h_d : d.toNat < 128 := d.isLt
  have h_a : a.toNat < 128 := a.isLt
  have hw : w = (((((((bitOf ch) * 8 + 2) * 16 + 9) * 2 + 0) * 4 + rm.toNat) * 128 + d.toNat) * 128 + a.toNat) * 128 + 0 := by omega
  have eH : bits w 28 3 = 2 := hw ▸ (up7 (by decide)).trans ((up7 h_a).trans ((up7 h_d).trans ((up2 h_rm).trans ((up1 (by decide)).trans ((up4 (by decide)).trans (low3 (by decide)))))))
  have eM : bits w 24 4 = 9 := hw ▸ (up7 (by decide)).trans ((up7 h_a).trans ((up7 h_d).trans ((up2 h_rm).trans ((up1 (by decide)).trans (low4 (by decide))))))
  have eC : bits w 31 1 = bitOf ch := hw ▸ (up7 (by decide)).trans ((up7 h_a).trans ((up7 h_d).trans ((up2 h_rm).trans ((up1 (by decide)).trans ((up4 (by decide)).trans ((up3 (by decide)).trans (top1 hc)))))))
  have e_rm : bits w 21 2 = rm.toNat := hw ▸ (up7 (by decide)).trans ((up7 h_a).trans ((up7 h_d).trans (low2 h_rm)))
  have e_d : bits w 14 7 = d.toNat := hw ▸ (up7 (by decide)).trans ((up7 h_a).trans (low7 h_d))
  have e_a : bits w 7 7 = a.toNat := hw ▸ (up7 (by decide)).trans (low7 h_a)
  have x1 : bits w 0 7 = 0 := hw ▸ low7 (by decide)
  have x2 : bits w 23 1 = 0 := hw ▸ (up7 (by decide)).trans ((up7 h_a).trans ((up7 h_d).trans ((up2 h_rm).trans (low1 (by decide)))))
  simp [decodeChainWord, decodeWord, decodeRow2, eH, eM, eC, e_rm, e_d, e_a, x1, x2, bitOf_beq]

theorem frcp (d : BitVec 7) (a : BitVec 7) : Statement (.frcp d a) := by
  intro ch w h
  simp only [encodeChainWord, encode, Option.map_some, Option.some.injEq] at h
  have hc := bitOf_lt ch
  have h_d : d.toNat < 128 := d.isLt
  have h_a : a.toNat < 128 := a.isLt
  have hw : w = ((((((bitOf ch) * 8 + 2) * 16 + 10) * 8 + 0) * 128 + d.toNat) * 128 + a.toNat) * 128 + 0 := by omega
  have eH : bits w 28 3 = 2 := hw ▸ (up7 (by decide)).trans ((up7 h_a).trans ((up7 h_d).trans ((up3 (by decide)).trans ((up4 (by decide)).trans (low3 (by decide))))))
  have eM : bits w 24 4 = 10 := hw ▸ (up7 (by decide)).trans ((up7 h_a).trans ((up7 h_d).trans ((up3 (by decide)).trans (low4 (by decide)))))
  have eC : bits w 31 1 = bitOf ch := hw ▸ (up7 (by decide)).trans ((up7 h_a).trans ((up7 h_d).trans ((up3 (by decide)).trans ((up4 (by decide)).trans ((up3 (by decide)).trans (top1 hc))))))
  have e_d : bits w 14 7 = d.toNat := hw ▸ (up7 (by decide)).trans ((up7 h_a).trans (low7 h_d))
  have e_a : bits w 7 7 = a.toNat := hw ▸ (up7 (by decide)).trans (low7 h_a)
  have x1 : bits w 0 7 = 0 := hw ▸ low7 (by decide)
  have x2 : bits w 21 3 = 0 := hw ▸ (up7 (by decide)).trans ((up7 h_a).trans ((up7 h_d).trans (low3 (by decide))))
  simp [decodeChainWord, decodeWord, decodeRow2, eH, eM, eC, e_d, e_a, x1, x2, bitOf_beq]

theorem frsq (d : BitVec 7) (a : BitVec 7) : Statement (.frsq d a) := by
  intro ch w h
  simp only [encodeChainWord, encode, Option.map_some, Option.some.injEq] at h
  have hc := bitOf_lt ch
  have h_d : d.toNat < 128 := d.isLt
  have h_a : a.toNat < 128 := a.isLt
  have hw : w = ((((((bitOf ch) * 8 + 2) * 16 + 10) * 8 + 1) * 128 + d.toNat) * 128 + a.toNat) * 128 + 0 := by omega
  have eH : bits w 28 3 = 2 := hw ▸ (up7 (by decide)).trans ((up7 h_a).trans ((up7 h_d).trans ((up3 (by decide)).trans ((up4 (by decide)).trans (low3 (by decide))))))
  have eM : bits w 24 4 = 10 := hw ▸ (up7 (by decide)).trans ((up7 h_a).trans ((up7 h_d).trans ((up3 (by decide)).trans (low4 (by decide)))))
  have eC : bits w 31 1 = bitOf ch := hw ▸ (up7 (by decide)).trans ((up7 h_a).trans ((up7 h_d).trans ((up3 (by decide)).trans ((up4 (by decide)).trans ((up3 (by decide)).trans (top1 hc))))))
  have e_d : bits w 14 7 = d.toNat := hw ▸ (up7 (by decide)).trans ((up7 h_a).trans (low7 h_d))
  have e_a : bits w 7 7 = a.toNat := hw ▸ (up7 (by decide)).trans (low7 h_a)
  have x1 : bits w 0 7 = 0 := hw ▸ low7 (by decide)
  have x2 : bits w 21 3 = 1 := hw ▸ (up7 (by decide)).trans ((up7 h_a).trans ((up7 h_d).trans (low3 (by decide))))
  simp [decodeChainWord, decodeWord, decodeRow2, eH, eM, eC, e_d, e_a, x1, x2, bitOf_beq]

theorem fexp2 (d : BitVec 7) (a : BitVec 7) : Statement (.fexp2 d a) := by
  intro ch w h
  simp only [encodeChainWord, encode, Option.map_some, Option.some.injEq] at h
  have hc := bitOf_lt ch
  have h_d : d.toNat < 128 := d.isLt
  have h_a : a.toNat < 128 := a.isLt
  have hw : w = ((((((bitOf ch) * 8 + 2) * 16 + 10) * 8 + 2) * 128 + d.toNat) * 128 + a.toNat) * 128 + 0 := by omega
  have eH : bits w 28 3 = 2 := hw ▸ (up7 (by decide)).trans ((up7 h_a).trans ((up7 h_d).trans ((up3 (by decide)).trans ((up4 (by decide)).trans (low3 (by decide))))))
  have eM : bits w 24 4 = 10 := hw ▸ (up7 (by decide)).trans ((up7 h_a).trans ((up7 h_d).trans ((up3 (by decide)).trans (low4 (by decide)))))
  have eC : bits w 31 1 = bitOf ch := hw ▸ (up7 (by decide)).trans ((up7 h_a).trans ((up7 h_d).trans ((up3 (by decide)).trans ((up4 (by decide)).trans ((up3 (by decide)).trans (top1 hc))))))
  have e_d : bits w 14 7 = d.toNat := hw ▸ (up7 (by decide)).trans ((up7 h_a).trans (low7 h_d))
  have e_a : bits w 7 7 = a.toNat := hw ▸ (up7 (by decide)).trans (low7 h_a)
  have x1 : bits w 0 7 = 0 := hw ▸ low7 (by decide)
  have x2 : bits w 21 3 = 2 := hw ▸ (up7 (by decide)).trans ((up7 h_a).trans ((up7 h_d).trans (low3 (by decide))))
  simp [decodeChainWord, decodeWord, decodeRow2, eH, eM, eC, e_d, e_a, x1, x2, bitOf_beq]

theorem flog2 (d : BitVec 7) (a : BitVec 7) : Statement (.flog2 d a) := by
  intro ch w h
  simp only [encodeChainWord, encode, Option.map_some, Option.some.injEq] at h
  have hc := bitOf_lt ch
  have h_d : d.toNat < 128 := d.isLt
  have h_a : a.toNat < 128 := a.isLt
  have hw : w = ((((((bitOf ch) * 8 + 2) * 16 + 10) * 8 + 3) * 128 + d.toNat) * 128 + a.toNat) * 128 + 0 := by omega
  have eH : bits w 28 3 = 2 := hw ▸ (up7 (by decide)).trans ((up7 h_a).trans ((up7 h_d).trans ((up3 (by decide)).trans ((up4 (by decide)).trans (low3 (by decide))))))
  have eM : bits w 24 4 = 10 := hw ▸ (up7 (by decide)).trans ((up7 h_a).trans ((up7 h_d).trans ((up3 (by decide)).trans (low4 (by decide)))))
  have eC : bits w 31 1 = bitOf ch := hw ▸ (up7 (by decide)).trans ((up7 h_a).trans ((up7 h_d).trans ((up3 (by decide)).trans ((up4 (by decide)).trans ((up3 (by decide)).trans (top1 hc))))))
  have e_d : bits w 14 7 = d.toNat := hw ▸ (up7 (by decide)).trans ((up7 h_a).trans (low7 h_d))
  have e_a : bits w 7 7 = a.toNat := hw ▸ (up7 (by decide)).trans (low7 h_a)
  have x1 : bits w 0 7 = 0 := hw ▸ low7 (by decide)
  have x2 : bits w 21 3 = 3 := hw ▸ (up7 (by decide)).trans ((up7 h_a).trans ((up7 h_d).trans (low3 (by decide))))
  simp [decodeChainWord, decodeWord, decodeRow2, eH, eM, eC, e_d, e_a, x1, x2, bitOf_beq]

theorem ftanh (d : BitVec 7) (a : BitVec 7) : Statement (.ftanh d a) := by
  intro ch w h
  simp only [encodeChainWord, encode, Option.map_some, Option.some.injEq] at h
  have hc := bitOf_lt ch
  have h_d : d.toNat < 128 := d.isLt
  have h_a : a.toNat < 128 := a.isLt
  have hw : w = ((((((bitOf ch) * 8 + 2) * 16 + 11) * 8 + 0) * 128 + d.toNat) * 128 + a.toNat) * 128 + 0 := by omega
  have eH : bits w 28 3 = 2 := hw ▸ (up7 (by decide)).trans ((up7 h_a).trans ((up7 h_d).trans ((up3 (by decide)).trans ((up4 (by decide)).trans (low3 (by decide))))))
  have eM : bits w 24 4 = 11 := hw ▸ (up7 (by decide)).trans ((up7 h_a).trans ((up7 h_d).trans ((up3 (by decide)).trans (low4 (by decide)))))
  have eC : bits w 31 1 = bitOf ch := hw ▸ (up7 (by decide)).trans ((up7 h_a).trans ((up7 h_d).trans ((up3 (by decide)).trans ((up4 (by decide)).trans ((up3 (by decide)).trans (top1 hc))))))
  have e_d : bits w 14 7 = d.toNat := hw ▸ (up7 (by decide)).trans ((up7 h_a).trans (low7 h_d))
  have e_a : bits w 7 7 = a.toNat := hw ▸ (up7 (by decide)).trans (low7 h_a)
  have x1 : bits w 0 7 = 0 := hw ▸ low7 (by decide)
  have x2 : bits w 21 3 = 0 := hw ▸ (up7 (by decide)).trans ((up7 h_a).trans ((up7 h_d).trans (low3 (by decide))))
  simp [decodeChainWord, decodeWord, decodeRow2, eH, eM, eC, e_d, e_a, x1, x2, bitOf_beq]

theorem hadd2 (u : Bool) (rm : BitVec 2) (d : BitVec 7) (a : BitVec 7) (b : BitVec 7) : Statement (.hadd2 u rm d a b) := by
  intro ch w h
  simp only [encodeChainWord, encode, Option.map_some, Option.some.injEq] at h
  have hc := bitOf_lt ch
  have h_u := bitOf_lt u
  have h_rm : rm.toNat < 4 := rm.isLt
  have h_d : d.toNat < 128 := d.isLt
  have h_a : a.toNat < 128 := a.isLt
  have h_b : b.toNat < 128 := b.isLt
  have hw : w = (((((((bitOf ch) * 8 + 2) * 16 + 12) * 2 + bitOf u) * 4 + rm.toNat) * 128 + d.toNat) * 128 + a.toNat) * 128 + b.toNat := by omega
  have eH : bits w 28 3 = 2 := hw ▸ (up7 h_b).trans ((up7 h_a).trans ((up7 h_d).trans ((up2 h_rm).trans ((up1 h_u).trans ((up4 (by decide)).trans (low3 (by decide)))))))
  have eM : bits w 24 4 = 12 := hw ▸ (up7 h_b).trans ((up7 h_a).trans ((up7 h_d).trans ((up2 h_rm).trans ((up1 h_u).trans (low4 (by decide))))))
  have eC : bits w 31 1 = bitOf ch := hw ▸ (up7 h_b).trans ((up7 h_a).trans ((up7 h_d).trans ((up2 h_rm).trans ((up1 h_u).trans ((up4 (by decide)).trans ((up3 (by decide)).trans (top1 hc)))))))
  have e_u : bits w 23 1 = bitOf u := hw ▸ (up7 h_b).trans ((up7 h_a).trans ((up7 h_d).trans ((up2 h_rm).trans (low1 h_u))))
  have e_rm : bits w 21 2 = rm.toNat := hw ▸ (up7 h_b).trans ((up7 h_a).trans ((up7 h_d).trans (low2 h_rm)))
  have e_d : bits w 14 7 = d.toNat := hw ▸ (up7 h_b).trans ((up7 h_a).trans (low7 h_d))
  have e_a : bits w 7 7 = a.toNat := hw ▸ (up7 h_b).trans (low7 h_a)
  have e_b : bits w 0 7 = b.toNat := hw ▸ low7 h_b
  simp [decodeChainWord, decodeWord, decodeRow2, eH, eM, eC, e_u, e_rm, e_d, e_a, e_b, bitOf_beq]

theorem hmul2 (u : Bool) (rm : BitVec 2) (d : BitVec 7) (a : BitVec 7) (b : BitVec 7) : Statement (.hmul2 u rm d a b) := by
  intro ch w h
  simp only [encodeChainWord, encode, Option.map_some, Option.some.injEq] at h
  have hc := bitOf_lt ch
  have h_u := bitOf_lt u
  have h_rm : rm.toNat < 4 := rm.isLt
  have h_d : d.toNat < 128 := d.isLt
  have h_a : a.toNat < 128 := a.isLt
  have h_b : b.toNat < 128 := b.isLt
  have hw : w = (((((((bitOf ch) * 8 + 2) * 16 + 13) * 2 + bitOf u) * 4 + rm.toNat) * 128 + d.toNat) * 128 + a.toNat) * 128 + b.toNat := by omega
  have eH : bits w 28 3 = 2 := hw ▸ (up7 h_b).trans ((up7 h_a).trans ((up7 h_d).trans ((up2 h_rm).trans ((up1 h_u).trans ((up4 (by decide)).trans (low3 (by decide)))))))
  have eM : bits w 24 4 = 13 := hw ▸ (up7 h_b).trans ((up7 h_a).trans ((up7 h_d).trans ((up2 h_rm).trans ((up1 h_u).trans (low4 (by decide))))))
  have eC : bits w 31 1 = bitOf ch := hw ▸ (up7 h_b).trans ((up7 h_a).trans ((up7 h_d).trans ((up2 h_rm).trans ((up1 h_u).trans ((up4 (by decide)).trans ((up3 (by decide)).trans (top1 hc)))))))
  have e_u : bits w 23 1 = bitOf u := hw ▸ (up7 h_b).trans ((up7 h_a).trans ((up7 h_d).trans ((up2 h_rm).trans (low1 h_u))))
  have e_rm : bits w 21 2 = rm.toNat := hw ▸ (up7 h_b).trans ((up7 h_a).trans ((up7 h_d).trans (low2 h_rm)))
  have e_d : bits w 14 7 = d.toNat := hw ▸ (up7 h_b).trans ((up7 h_a).trans (low7 h_d))
  have e_a : bits w 7 7 = a.toNat := hw ▸ (up7 h_b).trans (low7 h_a)
  have e_b : bits w 0 7 = b.toNat := hw ▸ low7 h_b
  simp [decodeChainWord, decodeWord, decodeRow2, eH, eM, eC, e_u, e_rm, e_d, e_a, e_b, bitOf_beq]

theorem hfma2 (u : Bool) (rm : BitVec 2) (d : BitVec 7) (a : BitVec 7) (b : BitVec 7) : Statement (.hfma2 u rm d a b) := by
  intro ch w h
  simp only [encodeChainWord, encode, Option.map_some, Option.some.injEq] at h
  have hc := bitOf_lt ch
  have h_u := bitOf_lt u
  have h_rm : rm.toNat < 4 := rm.isLt
  have h_d : d.toNat < 128 := d.isLt
  have h_a : a.toNat < 128 := a.isLt
  have h_b : b.toNat < 128 := b.isLt
  have hw : w = (((((((bitOf ch) * 8 + 2) * 16 + 14) * 2 + bitOf u) * 4 + rm.toNat) * 128 + d.toNat) * 128 + a.toNat) * 128 + b.toNat := by omega
  have eH : bits w 28 3 = 2 := hw ▸ (up7 h_b).trans ((up7 h_a).trans ((up7 h_d).trans ((up2 h_rm).trans ((up1 h_u).trans ((up4 (by decide)).trans (low3 (by decide)))))))
  have eM : bits w 24 4 = 14 := hw ▸ (up7 h_b).trans ((up7 h_a).trans ((up7 h_d).trans ((up2 h_rm).trans ((up1 h_u).trans (low4 (by decide))))))
  have eC : bits w 31 1 = bitOf ch := hw ▸ (up7 h_b).trans ((up7 h_a).trans ((up7 h_d).trans ((up2 h_rm).trans ((up1 h_u).trans ((up4 (by decide)).trans ((up3 (by decide)).trans (top1 hc)))))))
  have e_u : bits w 23 1 = bitOf u := hw ▸ (up7 h_b).trans ((up7 h_a).trans ((up7 h_d).trans ((up2 h_rm).trans (low1 h_u))))
  have e_rm : bits w 21 2 = rm.toNat := hw ▸ (up7 h_b).trans ((up7 h_a).trans ((up7 h_d).trans (low2 h_rm)))
  have e_d : bits w 14 7 = d.toNat := hw ▸ (up7 h_b).trans ((up7 h_a).trans (low7 h_d))
  have e_a : bits w 7 7 = a.toNat := hw ▸ (up7 h_b).trans (low7 h_a)
  have e_b : bits w 0 7 = b.toNat := hw ▸ low7 h_b
  simp [decodeChainWord, decodeWord, decodeRow2, eH, eM, eC, e_u, e_rm, e_d, e_a, e_b, bitOf_beq]

theorem hmax2 (u : Bool) (d : BitVec 7) (a : BitVec 7) (b : BitVec 7) : Statement (.hmax2 u d a b) := by
  intro ch w h
  simp only [encodeChainWord, encode, Option.map_some, Option.some.injEq] at h
  have hc := bitOf_lt ch
  have h_u := bitOf_lt u
  have h_d : d.toNat < 128 := d.isLt
  have h_a : a.toNat < 128 := a.isLt
  have h_b : b.toNat < 128 := b.isLt
  have hw : w = (((((((bitOf ch) * 8 + 2) * 16 + 15) * 2 + bitOf u) * 4 + 0) * 128 + d.toNat) * 128 + a.toNat) * 128 + b.toNat := by omega
  have eH : bits w 28 3 = 2 := hw ▸ (up7 h_b).trans ((up7 h_a).trans ((up7 h_d).trans ((up2 (by decide)).trans ((up1 h_u).trans ((up4 (by decide)).trans (low3 (by decide)))))))
  have eM : bits w 24 4 = 15 := hw ▸ (up7 h_b).trans ((up7 h_a).trans ((up7 h_d).trans ((up2 (by decide)).trans ((up1 h_u).trans (low4 (by decide))))))
  have eC : bits w 31 1 = bitOf ch := hw ▸ (up7 h_b).trans ((up7 h_a).trans ((up7 h_d).trans ((up2 (by decide)).trans ((up1 h_u).trans ((up4 (by decide)).trans ((up3 (by decide)).trans (top1 hc)))))))
  have e_u : bits w 23 1 = bitOf u := hw ▸ (up7 h_b).trans ((up7 h_a).trans ((up7 h_d).trans ((up2 (by decide)).trans (low1 h_u))))
  have e_d : bits w 14 7 = d.toNat := hw ▸ (up7 h_b).trans ((up7 h_a).trans (low7 h_d))
  have e_a : bits w 7 7 = a.toNat := hw ▸ (up7 h_b).trans (low7 h_a)
  have e_b : bits w 0 7 = b.toNat := hw ▸ low7 h_b
  have x1 : bits w 21 2 = 0 := hw ▸ (up7 h_b).trans ((up7 h_a).trans ((up7 h_d).trans (low2 (by decide))))
  simp [decodeChainWord, decodeWord, decodeRow2, eH, eM, eC, e_u, e_d, e_a, e_b, x1, bitOf_beq]

theorem cvtf (rm : BitVec 2) (d : BitVec 7) (a : BitVec 7) (tgt : BitVec 4) : Statement (.cvtf rm d a tgt) := by
  intro ch w h
  simp only [encodeChainWord, encode, Option.map_some, Option.some.injEq] at h
  have hc := bitOf_lt ch
  have h_rm : rm.toNat < 4 := rm.isLt
  have h_d : d.toNat < 128 := d.isLt
  have h_a : a.toNat < 128 := a.isLt
  have h_tgt : tgt.toNat < 16 := tgt.isLt
  have hw : w = ((((((((bitOf ch) * 8 + 3) * 16 + 0) * 2 + 0) * 4 + rm.toNat) * 128 + d.toNat) * 128 + a.toNat) * 8 + 0) * 16 + tgt.toNat := by omega
  have eH : bits w 28 3 = 3 := hw ▸ (up4 h_tgt).trans ((up3 (by decide)).trans ((up7 h_a).trans ((up7 h_d).trans ((up2 h_rm).trans ((up1 (by decide)).trans ((up4 (by decide)).trans (low3 (by decide))))))))
  have eM : bits w 24 4 = 0 := hw ▸ (up4 h_tgt).trans ((up3 (by decide)).trans ((up7 h_a).trans ((up7 h_d).trans ((up2 h_rm).trans ((up1 (by decide)).trans (low4 (by decide)))))))
  have eC : bits w 31 1 = bitOf ch := hw ▸ (up4 h_tgt).trans ((up3 (by decide)).trans ((up7 h_a).trans ((up7 h_d).trans ((up2 h_rm).trans ((up1 (by decide)).trans ((up4 (by decide)).trans ((up3 (by decide)).trans (top1 hc))))))))
  have e_rm : bits w 21 2 = rm.toNat := hw ▸ (up4 h_tgt).trans ((up3 (by decide)).trans ((up7 h_a).trans ((up7 h_d).trans (low2 h_rm))))
  have e_d : bits w 14 7 = d.toNat := hw ▸ (up4 h_tgt).trans ((up3 (by decide)).trans ((up7 h_a).trans (low7 h_d)))
  have e_a : bits w 7 7 = a.toNat := hw ▸ (up4 h_tgt).trans ((up3 (by decide)).trans (low7 h_a))
  have e_tgt : bits w 0 4 = tgt.toNat := hw ▸ low4 h_tgt
  have x1 : bits w 4 3 = 0 := hw ▸ (up4 h_tgt).trans (low3 (by decide))
  have x2 : bits w 23 1 = 0 := hw ▸ (up4 h_tgt).trans ((up3 (by decide)).trans ((up7 h_a).trans ((up7 h_d).trans ((up2 h_rm).trans (low1 (by decide))))))
  simp [decodeChainWord, decodeWord, decodeRow3, eH, eM, eC, e_rm, e_d, e_a, e_tgt, x1, x2, bitOf_beq]

theorem cvti (rm : BitVec 2) (d : BitVec 7) (a : BitVec 7) (tgt : BitVec 4) : Statement (.cvti rm d a tgt) := by
  intro ch w h
  simp only [encodeChainWord, encode, Option.map_some, Option.some.injEq] at h
  have hc := bitOf_lt ch
  have h_rm : rm.toNat < 4 := rm.isLt
  have h_d : d.toNat < 128 := d.isLt
  have h_a : a.toNat < 128 := a.isLt
  have h_tgt : tgt.toNat < 16 := tgt.isLt
  have hw : w = ((((((((bitOf ch) * 8 + 3) * 16 + 1) * 2 + 0) * 4 + rm.toNat) * 128 + d.toNat) * 128 + a.toNat) * 8 + 0) * 16 + tgt.toNat := by omega
  have eH : bits w 28 3 = 3 := hw ▸ (up4 h_tgt).trans ((up3 (by decide)).trans ((up7 h_a).trans ((up7 h_d).trans ((up2 h_rm).trans ((up1 (by decide)).trans ((up4 (by decide)).trans (low3 (by decide))))))))
  have eM : bits w 24 4 = 1 := hw ▸ (up4 h_tgt).trans ((up3 (by decide)).trans ((up7 h_a).trans ((up7 h_d).trans ((up2 h_rm).trans ((up1 (by decide)).trans (low4 (by decide)))))))
  have eC : bits w 31 1 = bitOf ch := hw ▸ (up4 h_tgt).trans ((up3 (by decide)).trans ((up7 h_a).trans ((up7 h_d).trans ((up2 h_rm).trans ((up1 (by decide)).trans ((up4 (by decide)).trans ((up3 (by decide)).trans (top1 hc))))))))
  have e_rm : bits w 21 2 = rm.toNat := hw ▸ (up4 h_tgt).trans ((up3 (by decide)).trans ((up7 h_a).trans ((up7 h_d).trans (low2 h_rm))))
  have e_d : bits w 14 7 = d.toNat := hw ▸ (up4 h_tgt).trans ((up3 (by decide)).trans ((up7 h_a).trans (low7 h_d)))
  have e_a : bits w 7 7 = a.toNat := hw ▸ (up4 h_tgt).trans ((up3 (by decide)).trans (low7 h_a))
  have e_tgt : bits w 0 4 = tgt.toNat := hw ▸ low4 h_tgt
  have x1 : bits w 4 3 = 0 := hw ▸ (up4 h_tgt).trans (low3 (by decide))
  have x2 : bits w 23 1 = 0 := hw ▸ (up4 h_tgt).trans ((up3 (by decide)).trans ((up7 h_a).trans ((up7 h_d).trans ((up2 h_rm).trans (low1 (by decide))))))
  simp [decodeChainWord, decodeWord, decodeRow3, eH, eM, eC, e_rm, e_d, e_a, e_tgt, x1, x2, bitOf_beq]

theorem cvtfi (rm : BitVec 2) (d : BitVec 7) (a : BitVec 7) (tgt : BitVec 4) : Statement (.cvtfi rm d a tgt) := by
  intro ch w h
  simp only [encodeChainWord, encode, Option.map_some, Option.some.injEq] at h
  have hc := bitOf_lt ch
  have h_rm : rm.toNat < 4 := rm.isLt
  have h_d : d.toNat < 128 := d.isLt
  have h_a : a.toNat < 128 := a.isLt
  have h_tgt : tgt.toNat < 16 := tgt.isLt
  have hw : w = ((((((((bitOf ch) * 8 + 3) * 16 + 2) * 2 + 0) * 4 + rm.toNat) * 128 + d.toNat) * 128 + a.toNat) * 8 + 0) * 16 + tgt.toNat := by omega
  have eH : bits w 28 3 = 3 := hw ▸ (up4 h_tgt).trans ((up3 (by decide)).trans ((up7 h_a).trans ((up7 h_d).trans ((up2 h_rm).trans ((up1 (by decide)).trans ((up4 (by decide)).trans (low3 (by decide))))))))
  have eM : bits w 24 4 = 2 := hw ▸ (up4 h_tgt).trans ((up3 (by decide)).trans ((up7 h_a).trans ((up7 h_d).trans ((up2 h_rm).trans ((up1 (by decide)).trans (low4 (by decide)))))))
  have eC : bits w 31 1 = bitOf ch := hw ▸ (up4 h_tgt).trans ((up3 (by decide)).trans ((up7 h_a).trans ((up7 h_d).trans ((up2 h_rm).trans ((up1 (by decide)).trans ((up4 (by decide)).trans ((up3 (by decide)).trans (top1 hc))))))))
  have e_rm : bits w 21 2 = rm.toNat := hw ▸ (up4 h_tgt).trans ((up3 (by decide)).trans ((up7 h_a).trans ((up7 h_d).trans (low2 h_rm))))
  have e_d : bits w 14 7 = d.toNat := hw ▸ (up4 h_tgt).trans ((up3 (by decide)).trans ((up7 h_a).trans (low7 h_d)))
  have e_a : bits w 7 7 = a.toNat := hw ▸ (up4 h_tgt).trans ((up3 (by decide)).trans (low7 h_a))
  have e_tgt : bits w 0 4 = tgt.toNat := hw ▸ low4 h_tgt
  have x1 : bits w 4 3 = 0 := hw ▸ (up4 h_tgt).trans (low3 (by decide))
  have x2 : bits w 23 1 = 0 := hw ▸ (up4 h_tgt).trans ((up3 (by decide)).trans ((up7 h_a).trans ((up7 h_d).trans ((up2 h_rm).trans (low1 (by decide))))))
  simp [decodeChainWord, decodeWord, decodeRow3, eH, eM, eC, e_rm, e_d, e_a, e_tgt, x1, x2, bitOf_beq]

theorem pk2 (rm : BitVec 2) (d : BitVec 7) (a : BitVec 7) (tgt : BitVec 4) : Statement (.pk2 rm d a tgt) := by
  intro ch w h
  simp only [encodeChainWord, encode, Option.map_some, Option.some.injEq] at h
  have hc := bitOf_lt ch
  have h_rm : rm.toNat < 4 := rm.isLt
  have h_d : d.toNat < 128 := d.isLt
  have h_a : a.toNat < 128 := a.isLt
  have h_tgt : tgt.toNat < 16 := tgt.isLt
  have hw : w = ((((((((bitOf ch) * 8 + 3) * 16 + 3) * 2 + 0) * 4 + rm.toNat) * 128 + d.toNat) * 128 + a.toNat) * 8 + 0) * 16 + tgt.toNat := by omega
  have eH : bits w 28 3 = 3 := hw ▸ (up4 h_tgt).trans ((up3 (by decide)).trans ((up7 h_a).trans ((up7 h_d).trans ((up2 h_rm).trans ((up1 (by decide)).trans ((up4 (by decide)).trans (low3 (by decide))))))))
  have eM : bits w 24 4 = 3 := hw ▸ (up4 h_tgt).trans ((up3 (by decide)).trans ((up7 h_a).trans ((up7 h_d).trans ((up2 h_rm).trans ((up1 (by decide)).trans (low4 (by decide)))))))
  have eC : bits w 31 1 = bitOf ch := hw ▸ (up4 h_tgt).trans ((up3 (by decide)).trans ((up7 h_a).trans ((up7 h_d).trans ((up2 h_rm).trans ((up1 (by decide)).trans ((up4 (by decide)).trans ((up3 (by decide)).trans (top1 hc))))))))
  have e_rm : bits w 21 2 = rm.toNat := hw ▸ (up4 h_tgt).trans ((up3 (by decide)).trans ((up7 h_a).trans ((up7 h_d).trans (low2 h_rm))))
  have e_d : bits w 14 7 = d.toNat := hw ▸ (up4 h_tgt).trans ((up3 (by decide)).trans ((up7 h_a).trans (low7 h_d)))
  have e_a : bits w 7 7 = a.toNat := hw ▸ (up4 h_tgt).trans ((up3 (by decide)).trans (low7 h_a))
  have e_tgt : bits w 0 4 = tgt.toNat := hw ▸ low4 h_tgt
  have x1 : bits w 4 3 = 0 := hw ▸ (up4 h_tgt).trans (low3 (by decide))
  have x2 : bits w 23 1 = 0 := hw ▸ (up4 h_tgt).trans ((up3 (by decide)).trans ((up7 h_a).trans ((up7 h_d).trans ((up2 h_rm).trans (low1 (by decide))))))
  simp [decodeChainWord, decodeWord, decodeRow3, eH, eM, eC, e_rm, e_d, e_a, e_tgt, x1, x2, bitOf_beq]

theorem pk4 (rm : BitVec 2) (d : BitVec 7) (a : BitVec 7) (tgt : BitVec 4) : Statement (.pk4 rm d a tgt) := by
  intro ch w h
  simp only [encodeChainWord, encode, Option.map_some, Option.some.injEq] at h
  have hc := bitOf_lt ch
  have h_rm : rm.toNat < 4 := rm.isLt
  have h_d : d.toNat < 128 := d.isLt
  have h_a : a.toNat < 128 := a.isLt
  have h_tgt : tgt.toNat < 16 := tgt.isLt
  have hw : w = ((((((((bitOf ch) * 8 + 3) * 16 + 4) * 2 + 0) * 4 + rm.toNat) * 128 + d.toNat) * 128 + a.toNat) * 8 + 0) * 16 + tgt.toNat := by omega
  have eH : bits w 28 3 = 3 := hw ▸ (up4 h_tgt).trans ((up3 (by decide)).trans ((up7 h_a).trans ((up7 h_d).trans ((up2 h_rm).trans ((up1 (by decide)).trans ((up4 (by decide)).trans (low3 (by decide))))))))
  have eM : bits w 24 4 = 4 := hw ▸ (up4 h_tgt).trans ((up3 (by decide)).trans ((up7 h_a).trans ((up7 h_d).trans ((up2 h_rm).trans ((up1 (by decide)).trans (low4 (by decide)))))))
  have eC : bits w 31 1 = bitOf ch := hw ▸ (up4 h_tgt).trans ((up3 (by decide)).trans ((up7 h_a).trans ((up7 h_d).trans ((up2 h_rm).trans ((up1 (by decide)).trans ((up4 (by decide)).trans ((up3 (by decide)).trans (top1 hc))))))))
  have e_rm : bits w 21 2 = rm.toNat := hw ▸ (up4 h_tgt).trans ((up3 (by decide)).trans ((up7 h_a).trans ((up7 h_d).trans (low2 h_rm))))
  have e_d : bits w 14 7 = d.toNat := hw ▸ (up4 h_tgt).trans ((up3 (by decide)).trans ((up7 h_a).trans (low7 h_d)))
  have e_a : bits w 7 7 = a.toNat := hw ▸ (up4 h_tgt).trans ((up3 (by decide)).trans (low7 h_a))
  have e_tgt : bits w 0 4 = tgt.toNat := hw ▸ low4 h_tgt
  have x1 : bits w 4 3 = 0 := hw ▸ (up4 h_tgt).trans (low3 (by decide))
  have x2 : bits w 23 1 = 0 := hw ▸ (up4 h_tgt).trans ((up3 (by decide)).trans ((up7 h_a).trans ((up7 h_d).trans ((up2 h_rm).trans (low1 (by decide))))))
  simp [decodeChainWord, decodeWord, decodeRow3, eH, eM, eC, e_rm, e_d, e_a, e_tgt, x1, x2, bitOf_beq]

theorem unpk2 (d : BitVec 7) (a : BitVec 7) (tgt : BitVec 4) : Statement (.unpk2 d a tgt) := by
  intro ch w h
  simp only [encodeChainWord, encode, Option.map_some, Option.some.injEq] at h
  have hc := bitOf_lt ch
  have h_d : d.toNat < 128 := d.isLt
  have h_a : a.toNat < 128 := a.isLt
  have h_tgt : tgt.toNat < 16 := tgt.isLt
  have hw : w = (((((((bitOf ch) * 8 + 3) * 16 + 5) * 8 + 0) * 128 + d.toNat) * 128 + a.toNat) * 8 + 0) * 16 + tgt.toNat := by omega
  have eH : bits w 28 3 = 3 := hw ▸ (up4 h_tgt).trans ((up3 (by decide)).trans ((up7 h_a).trans ((up7 h_d).trans ((up3 (by decide)).trans ((up4 (by decide)).trans (low3 (by decide)))))))
  have eM : bits w 24 4 = 5 := hw ▸ (up4 h_tgt).trans ((up3 (by decide)).trans ((up7 h_a).trans ((up7 h_d).trans ((up3 (by decide)).trans (low4 (by decide))))))
  have eC : bits w 31 1 = bitOf ch := hw ▸ (up4 h_tgt).trans ((up3 (by decide)).trans ((up7 h_a).trans ((up7 h_d).trans ((up3 (by decide)).trans ((up4 (by decide)).trans ((up3 (by decide)).trans (top1 hc)))))))
  have e_d : bits w 14 7 = d.toNat := hw ▸ (up4 h_tgt).trans ((up3 (by decide)).trans ((up7 h_a).trans (low7 h_d)))
  have e_a : bits w 7 7 = a.toNat := hw ▸ (up4 h_tgt).trans ((up3 (by decide)).trans (low7 h_a))
  have e_tgt : bits w 0 4 = tgt.toNat := hw ▸ low4 h_tgt
  have x1 : bits w 4 3 = 0 := hw ▸ (up4 h_tgt).trans (low3 (by decide))
  have x2 : bits w 21 3 = 0 := hw ▸ (up4 h_tgt).trans ((up3 (by decide)).trans ((up7 h_a).trans ((up7 h_d).trans (low3 (by decide)))))
  simp [decodeChainWord, decodeWord, decodeRow3, eH, eM, eC, e_d, e_a, e_tgt, x1, x2, bitOf_beq]

theorem unpk4 (d : BitVec 7) (a : BitVec 7) (tgt : BitVec 4) : Statement (.unpk4 d a tgt) := by
  intro ch w h
  simp only [encodeChainWord, encode, Option.map_some, Option.some.injEq] at h
  have hc := bitOf_lt ch
  have h_d : d.toNat < 128 := d.isLt
  have h_a : a.toNat < 128 := a.isLt
  have h_tgt : tgt.toNat < 16 := tgt.isLt
  have hw : w = (((((((bitOf ch) * 8 + 3) * 16 + 5) * 8 + 1) * 128 + d.toNat) * 128 + a.toNat) * 8 + 0) * 16 + tgt.toNat := by omega
  have eH : bits w 28 3 = 3 := hw ▸ (up4 h_tgt).trans ((up3 (by decide)).trans ((up7 h_a).trans ((up7 h_d).trans ((up3 (by decide)).trans ((up4 (by decide)).trans (low3 (by decide)))))))
  have eM : bits w 24 4 = 5 := hw ▸ (up4 h_tgt).trans ((up3 (by decide)).trans ((up7 h_a).trans ((up7 h_d).trans ((up3 (by decide)).trans (low4 (by decide))))))
  have eC : bits w 31 1 = bitOf ch := hw ▸ (up4 h_tgt).trans ((up3 (by decide)).trans ((up7 h_a).trans ((up7 h_d).trans ((up3 (by decide)).trans ((up4 (by decide)).trans ((up3 (by decide)).trans (top1 hc)))))))
  have e_d : bits w 14 7 = d.toNat := hw ▸ (up4 h_tgt).trans ((up3 (by decide)).trans ((up7 h_a).trans (low7 h_d)))
  have e_a : bits w 7 7 = a.toNat := hw ▸ (up4 h_tgt).trans ((up3 (by decide)).trans (low7 h_a))
  have e_tgt : bits w 0 4 = tgt.toNat := hw ▸ low4 h_tgt
  have x1 : bits w 4 3 = 0 := hw ▸ (up4 h_tgt).trans (low3 (by decide))
  have x2 : bits w 21 3 = 1 := hw ▸ (up4 h_tgt).trans ((up3 (by decide)).trans ((up7 h_a).trans ((up7 h_d).trans (low3 (by decide)))))
  simp [decodeChainWord, decodeWord, decodeRow3, eH, eM, eC, e_d, e_a, e_tgt, x1, x2, bitOf_beq]

theorem dqcb (rm : BitVec 2) (d : BitVec 7) (a : BitVec 7) (tgt : BitVec 4) : Statement (.dqcb rm d a tgt) := by
  intro ch w h
  simp only [encodeChainWord, encode, Option.map_some, Option.some.injEq] at h
  have hc := bitOf_lt ch
  have h_rm : rm.toNat < 4 := rm.isLt
  have h_d : d.toNat < 128 := d.isLt
  have h_a : a.toNat < 128 := a.isLt
  have h_tgt : tgt.toNat < 16 := tgt.isLt
  have hw : w = ((((((((bitOf ch) * 8 + 3) * 16 + 6) * 2 + 0) * 4 + rm.toNat) * 128 + d.toNat) * 128 + a.toNat) * 8 + 0) * 16 + tgt.toNat := by omega
  have eH : bits w 28 3 = 3 := hw ▸ (up4 h_tgt).trans ((up3 (by decide)).trans ((up7 h_a).trans ((up7 h_d).trans ((up2 h_rm).trans ((up1 (by decide)).trans ((up4 (by decide)).trans (low3 (by decide))))))))
  have eM : bits w 24 4 = 6 := hw ▸ (up4 h_tgt).trans ((up3 (by decide)).trans ((up7 h_a).trans ((up7 h_d).trans ((up2 h_rm).trans ((up1 (by decide)).trans (low4 (by decide)))))))
  have eC : bits w 31 1 = bitOf ch := hw ▸ (up4 h_tgt).trans ((up3 (by decide)).trans ((up7 h_a).trans ((up7 h_d).trans ((up2 h_rm).trans ((up1 (by decide)).trans ((up4 (by decide)).trans ((up3 (by decide)).trans (top1 hc))))))))
  have e_rm : bits w 21 2 = rm.toNat := hw ▸ (up4 h_tgt).trans ((up3 (by decide)).trans ((up7 h_a).trans ((up7 h_d).trans (low2 h_rm))))
  have e_d : bits w 14 7 = d.toNat := hw ▸ (up4 h_tgt).trans ((up3 (by decide)).trans ((up7 h_a).trans (low7 h_d)))
  have e_a : bits w 7 7 = a.toNat := hw ▸ (up4 h_tgt).trans ((up3 (by decide)).trans (low7 h_a))
  have e_tgt : bits w 0 4 = tgt.toNat := hw ▸ low4 h_tgt
  have x1 : bits w 4 3 = 0 := hw ▸ (up4 h_tgt).trans (low3 (by decide))
  have x2 : bits w 23 1 = 0 := hw ▸ (up4 h_tgt).trans ((up3 (by decide)).trans ((up7 h_a).trans ((up7 h_d).trans ((up2 h_rm).trans (low1 (by decide))))))
  simp [decodeChainWord, decodeWord, decodeRow3, eH, eM, eC, e_rm, e_d, e_a, e_tgt, x1, x2, bitOf_beq]

theorem dqe2 (rm : BitVec 2) (d : BitVec 7) (a : BitVec 7) (tgt : BitVec 4) : Statement (.dqe2 rm d a tgt) := by
  intro ch w h
  simp only [encodeChainWord, encode, Option.map_some, Option.some.injEq] at h
  have hc := bitOf_lt ch
  have h_rm : rm.toNat < 4 := rm.isLt
  have h_d : d.toNat < 128 := d.isLt
  have h_a : a.toNat < 128 := a.isLt
  have h_tgt : tgt.toNat < 16 := tgt.isLt
  have hw : w = ((((((((bitOf ch) * 8 + 3) * 16 + 7) * 2 + 0) * 4 + rm.toNat) * 128 + d.toNat) * 128 + a.toNat) * 8 + 0) * 16 + tgt.toNat := by omega
  have eH : bits w 28 3 = 3 := hw ▸ (up4 h_tgt).trans ((up3 (by decide)).trans ((up7 h_a).trans ((up7 h_d).trans ((up2 h_rm).trans ((up1 (by decide)).trans ((up4 (by decide)).trans (low3 (by decide))))))))
  have eM : bits w 24 4 = 7 := hw ▸ (up4 h_tgt).trans ((up3 (by decide)).trans ((up7 h_a).trans ((up7 h_d).trans ((up2 h_rm).trans ((up1 (by decide)).trans (low4 (by decide)))))))
  have eC : bits w 31 1 = bitOf ch := hw ▸ (up4 h_tgt).trans ((up3 (by decide)).trans ((up7 h_a).trans ((up7 h_d).trans ((up2 h_rm).trans ((up1 (by decide)).trans ((up4 (by decide)).trans ((up3 (by decide)).trans (top1 hc))))))))
  have e_rm : bits w 21 2 = rm.toNat := hw ▸ (up4 h_tgt).trans ((up3 (by decide)).trans ((up7 h_a).trans ((up7 h_d).trans (low2 h_rm))))
  have e_d : bits w 14 7 = d.toNat := hw ▸ (up4 h_tgt).trans ((up3 (by decide)).trans ((up7 h_a).trans (low7 h_d)))
  have e_a : bits w 7 7 = a.toNat := hw ▸ (up4 h_tgt).trans ((up3 (by decide)).trans (low7 h_a))
  have e_tgt : bits w 0 4 = tgt.toNat := hw ▸ low4 h_tgt
  have x1 : bits w 4 3 = 0 := hw ▸ (up4 h_tgt).trans (low3 (by decide))
  have x2 : bits w 23 1 = 0 := hw ▸ (up4 h_tgt).trans ((up3 (by decide)).trans ((up7 h_a).trans ((up7 h_d).trans ((up2 h_rm).trans (low1 (by decide))))))
  simp [decodeChainWord, decodeWord, decodeRow3, eH, eM, eC, e_rm, e_d, e_a, e_tgt, x1, x2, bitOf_beq]

theorem qcb (rm : BitVec 2) (d : BitVec 7) (a : BitVec 7) : Statement (.qcb rm d a) := by
  intro ch w h
  simp only [encodeChainWord, encode, Option.map_some, Option.some.injEq] at h
  have hc := bitOf_lt ch
  have h_rm : rm.toNat < 4 := rm.isLt
  have h_d : d.toNat < 128 := d.isLt
  have h_a : a.toNat < 128 := a.isLt
  have hw : w = (((((((bitOf ch) * 8 + 3) * 16 + 8) * 2 + 0) * 4 + rm.toNat) * 128 + d.toNat) * 128 + a.toNat) * 128 + 8 := by omega
  have eH : bits w 28 3 = 3 := hw ▸ (up7 (by decide)).trans ((up7 h_a).trans ((up7 h_d).trans ((up2 h_rm).trans ((up1 (by decide)).trans ((up4 (by decide)).trans (low3 (by decide)))))))
  have eM : bits w 24 4 = 8 := hw ▸ (up7 (by decide)).trans ((up7 h_a).trans ((up7 h_d).trans ((up2 h_rm).trans ((up1 (by decide)).trans (low4 (by decide))))))
  have eC : bits w 31 1 = bitOf ch := hw ▸ (up7 (by decide)).trans ((up7 h_a).trans ((up7 h_d).trans ((up2 h_rm).trans ((up1 (by decide)).trans ((up4 (by decide)).trans ((up3 (by decide)).trans (top1 hc)))))))
  have e_rm : bits w 21 2 = rm.toNat := hw ▸ (up7 (by decide)).trans ((up7 h_a).trans ((up7 h_d).trans (low2 h_rm)))
  have e_d : bits w 14 7 = d.toNat := hw ▸ (up7 (by decide)).trans ((up7 h_a).trans (low7 h_d))
  have e_a : bits w 7 7 = a.toNat := hw ▸ (up7 (by decide)).trans (low7 h_a)
  have x1 : bits w 0 7 = 8 := hw ▸ low7 (by decide)
  have x2 : bits w 23 1 = 0 := hw ▸ (up7 (by decide)).trans ((up7 h_a).trans ((up7 h_d).trans ((up2 h_rm).trans (low1 (by decide)))))
  simp [decodeChainWord, decodeWord, decodeRow3, eH, eM, eC, e_rm, e_d, e_a, x1, x2, bitOf_beq]

theorem qe2 (rm : BitVec 2) (d : BitVec 7) (a : BitVec 7) : Statement (.qe2 rm d a) := by
  intro ch w h
  simp only [encodeChainWord, encode, Option.map_some, Option.some.injEq] at h
  have hc := bitOf_lt ch
  have h_rm : rm.toNat < 4 := rm.isLt
  have h_d : d.toNat < 128 := d.isLt
  have h_a : a.toNat < 128 := a.isLt
  have hw : w = (((((((bitOf ch) * 8 + 3) * 16 + 9) * 2 + 0) * 4 + rm.toNat) * 128 + d.toNat) * 128 + a.toNat) * 128 + 7 := by omega
  have eH : bits w 28 3 = 3 := hw ▸ (up7 (by decide)).trans ((up7 h_a).trans ((up7 h_d).trans ((up2 h_rm).trans ((up1 (by decide)).trans ((up4 (by decide)).trans (low3 (by decide)))))))
  have eM : bits w 24 4 = 9 := hw ▸ (up7 (by decide)).trans ((up7 h_a).trans ((up7 h_d).trans ((up2 h_rm).trans ((up1 (by decide)).trans (low4 (by decide))))))
  have eC : bits w 31 1 = bitOf ch := hw ▸ (up7 (by decide)).trans ((up7 h_a).trans ((up7 h_d).trans ((up2 h_rm).trans ((up1 (by decide)).trans ((up4 (by decide)).trans ((up3 (by decide)).trans (top1 hc)))))))
  have e_rm : bits w 21 2 = rm.toNat := hw ▸ (up7 (by decide)).trans ((up7 h_a).trans ((up7 h_d).trans (low2 h_rm)))
  have e_d : bits w 14 7 = d.toNat := hw ▸ (up7 (by decide)).trans ((up7 h_a).trans (low7 h_d))
  have e_a : bits w 7 7 = a.toNat := hw ▸ (up7 (by decide)).trans (low7 h_a)
  have x1 : bits w 0 7 = 7 := hw ▸ low7 (by decide)
  have x2 : bits w 23 1 = 0 := hw ▸ (up7 (by decide)).trans ((up7 h_a).trans ((up7 h_d).trans ((up2 h_rm).trans (low1 (by decide)))))
  simp [decodeChainWord, decodeWord, decodeRow3, eH, eM, eC, e_rm, e_d, e_a, x1, x2, bitOf_beq]

theorem tagrd (d : BitVec 7) (a : BitVec 7) : Statement (.tagrd d a) := by
  intro ch w h
  simp only [encodeChainWord, encode, Option.map_some, Option.some.injEq] at h
  have hc := bitOf_lt ch
  have h_d : d.toNat < 128 := d.isLt
  have h_a : a.toNat < 128 := a.isLt
  have hw : w = ((((((bitOf ch) * 8 + 3) * 16 + 10) * 8 + 0) * 128 + d.toNat) * 128 + a.toNat) * 128 + 0 := by omega
  have eH : bits w 28 3 = 3 := hw ▸ (up7 (by decide)).trans ((up7 h_a).trans ((up7 h_d).trans ((up3 (by decide)).trans ((up4 (by decide)).trans (low3 (by decide))))))
  have eM : bits w 24 4 = 10 := hw ▸ (up7 (by decide)).trans ((up7 h_a).trans ((up7 h_d).trans ((up3 (by decide)).trans (low4 (by decide)))))
  have eC : bits w 31 1 = bitOf ch := hw ▸ (up7 (by decide)).trans ((up7 h_a).trans ((up7 h_d).trans ((up3 (by decide)).trans ((up4 (by decide)).trans ((up3 (by decide)).trans (top1 hc))))))
  have e_d : bits w 14 7 = d.toNat := hw ▸ (up7 (by decide)).trans ((up7 h_a).trans (low7 h_d))
  have e_a : bits w 7 7 = a.toNat := hw ▸ (up7 (by decide)).trans (low7 h_a)
  have x1 : bits w 0 7 = 0 := hw ▸ low7 (by decide)
  have x2 : bits w 21 3 = 0 := hw ▸ (up7 (by decide)).trans ((up7 h_a).trans ((up7 h_d).trans (low3 (by decide))))
  simp [decodeChainWord, decodeWord, decodeRow3, eH, eM, eC, e_d, e_a, x1, x2, bitOf_beq]

theorem tagset (d : BitVec 7) (a : BitVec 7) (tgt : BitVec 4) : Statement (.tagset d a tgt) := by
  intro ch w h
  simp only [encodeChainWord, encode, Option.map_some, Option.some.injEq] at h
  have hc := bitOf_lt ch
  have h_d : d.toNat < 128 := d.isLt
  have h_a : a.toNat < 128 := a.isLt
  have h_tgt : tgt.toNat < 16 := tgt.isLt
  have hw : w = (((((((bitOf ch) * 8 + 3) * 16 + 11) * 8 + 0) * 128 + d.toNat) * 128 + a.toNat) * 8 + 0) * 16 + tgt.toNat := by omega
  have eH : bits w 28 3 = 3 := hw ▸ (up4 h_tgt).trans ((up3 (by decide)).trans ((up7 h_a).trans ((up7 h_d).trans ((up3 (by decide)).trans ((up4 (by decide)).trans (low3 (by decide)))))))
  have eM : bits w 24 4 = 11 := hw ▸ (up4 h_tgt).trans ((up3 (by decide)).trans ((up7 h_a).trans ((up7 h_d).trans ((up3 (by decide)).trans (low4 (by decide))))))
  have eC : bits w 31 1 = bitOf ch := hw ▸ (up4 h_tgt).trans ((up3 (by decide)).trans ((up7 h_a).trans ((up7 h_d).trans ((up3 (by decide)).trans ((up4 (by decide)).trans ((up3 (by decide)).trans (top1 hc)))))))
  have e_d : bits w 14 7 = d.toNat := hw ▸ (up4 h_tgt).trans ((up3 (by decide)).trans ((up7 h_a).trans (low7 h_d)))
  have e_a : bits w 7 7 = a.toNat := hw ▸ (up4 h_tgt).trans ((up3 (by decide)).trans (low7 h_a))
  have e_tgt : bits w 0 4 = tgt.toNat := hw ▸ low4 h_tgt
  have x1 : bits w 4 3 = 0 := hw ▸ (up4 h_tgt).trans (low3 (by decide))
  have x2 : bits w 21 3 = 0 := hw ▸ (up4 h_tgt).trans ((up3 (by decide)).trans ((up7 h_a).trans ((up7 h_d).trans (low3 (by decide)))))
  simp [decodeChainWord, decodeWord, decodeRow3, eH, eM, eC, e_d, e_a, e_tgt, x1, x2, bitOf_beq]

theorem ld (sz : BitVec 3) (t : BitVec 7) (a : BitVec 7) (off : BitVec 7) : Statement (.ld sz t a off) := by
  intro ch w h
  simp only [encodeChainWord, encode, Option.map_some, Option.some.injEq] at h
  have hc := bitOf_lt ch
  have h_sz : sz.toNat < 8 := sz.isLt
  have h_t : t.toNat < 128 := t.isLt
  have h_a : a.toNat < 128 := a.isLt
  have h_off : off.toNat < 128 := off.isLt
  have hw : w = ((((((bitOf ch) * 8 + 4) * 16 + 0) * 8 + sz.toNat) * 128 + t.toNat) * 128 + a.toNat) * 128 + off.toNat := by omega
  have eH : bits w 28 3 = 4 := hw ▸ (up7 h_off).trans ((up7 h_a).trans ((up7 h_t).trans ((up3 h_sz).trans ((up4 (by decide)).trans (low3 (by decide))))))
  have eM : bits w 24 4 = 0 := hw ▸ (up7 h_off).trans ((up7 h_a).trans ((up7 h_t).trans ((up3 h_sz).trans (low4 (by decide)))))
  have eC : bits w 31 1 = bitOf ch := hw ▸ (up7 h_off).trans ((up7 h_a).trans ((up7 h_t).trans ((up3 h_sz).trans ((up4 (by decide)).trans ((up3 (by decide)).trans (top1 hc))))))
  have e_sz : bits w 21 3 = sz.toNat := hw ▸ (up7 h_off).trans ((up7 h_a).trans ((up7 h_t).trans (low3 h_sz)))
  have e_t : bits w 14 7 = t.toNat := hw ▸ (up7 h_off).trans ((up7 h_a).trans (low7 h_t))
  have e_a : bits w 7 7 = a.toNat := hw ▸ (up7 h_off).trans (low7 h_a)
  have e_off : bits w 0 7 = off.toNat := hw ▸ low7 h_off
  simp [decodeChainWord, decodeWord, decodeRow4, eH, eM, eC, e_sz, e_t, e_a, e_off, bitOf_beq]

theorem st (sz : BitVec 3) (t : BitVec 7) (a : BitVec 7) (off : BitVec 7) : Statement (.st sz t a off) := by
  intro ch w h
  simp only [encodeChainWord, encode, Option.map_some, Option.some.injEq] at h
  have hc := bitOf_lt ch
  have h_sz : sz.toNat < 8 := sz.isLt
  have h_t : t.toNat < 128 := t.isLt
  have h_a : a.toNat < 128 := a.isLt
  have h_off : off.toNat < 128 := off.isLt
  have hw : w = ((((((bitOf ch) * 8 + 4) * 16 + 1) * 8 + sz.toNat) * 128 + t.toNat) * 128 + a.toNat) * 128 + off.toNat := by omega
  have eH : bits w 28 3 = 4 := hw ▸ (up7 h_off).trans ((up7 h_a).trans ((up7 h_t).trans ((up3 h_sz).trans ((up4 (by decide)).trans (low3 (by decide))))))
  have eM : bits w 24 4 = 1 := hw ▸ (up7 h_off).trans ((up7 h_a).trans ((up7 h_t).trans ((up3 h_sz).trans (low4 (by decide)))))
  have eC : bits w 31 1 = bitOf ch := hw ▸ (up7 h_off).trans ((up7 h_a).trans ((up7 h_t).trans ((up3 h_sz).trans ((up4 (by decide)).trans ((up3 (by decide)).trans (top1 hc))))))
  have e_sz : bits w 21 3 = sz.toNat := hw ▸ (up7 h_off).trans ((up7 h_a).trans ((up7 h_t).trans (low3 h_sz)))
  have e_t : bits w 14 7 = t.toNat := hw ▸ (up7 h_off).trans ((up7 h_a).trans (low7 h_t))
  have e_a : bits w 7 7 = a.toNat := hw ▸ (up7 h_off).trans (low7 h_a)
  have e_off : bits w 0 7 = off.toNat := hw ▸ low7 h_off
  simp [decodeChainWord, decodeWord, decodeRow4, eH, eM, eC, e_sz, e_t, e_a, e_off, bitOf_beq]

theorem ldo (sz : BitVec 3) (t : BitVec 7) (a : BitVec 7) (scope : BitVec 3) (ord : BitVec 2) (last : Bool) : Statement (.ldo sz t a scope ord last) := by
  intro ch w h
  simp only [encodeChainWord, encode, Option.map_some, Option.some.injEq] at h
  have hc := bitOf_lt ch
  have h_sz : sz.toNat < 8 := sz.isLt
  have h_t : t.toNat < 128 := t.isLt
  have h_a : a.toNat < 128 := a.isLt
  have h_scope : scope.toNat < 8 := scope.isLt
  have h_ord : ord.toNat < 4 := ord.isLt
  have h_last := bitOf_lt last
  have hw : w = (((((((((bitOf ch) * 8 + 4) * 16 + 2) * 8 + sz.toNat) * 128 + t.toNat) * 128 + a.toNat) * 8 + scope.toNat) * 4 + ord.toNat) * 2 + 0) * 2 + bitOf last := by omega
  have eH : bits w 28 3 = 4 := hw ▸ (up1 h_last).trans ((up1 (by decide)).trans ((up2 h_ord).trans ((up3 h_scope).trans ((up7 h_a).trans ((up7 h_t).trans ((up3 h_sz).trans ((up4 (by decide)).trans (low3 (by decide)))))))))
  have eM : bits w 24 4 = 2 := hw ▸ (up1 h_last).trans ((up1 (by decide)).trans ((up2 h_ord).trans ((up3 h_scope).trans ((up7 h_a).trans ((up7 h_t).trans ((up3 h_sz).trans (low4 (by decide))))))))
  have eC : bits w 31 1 = bitOf ch := hw ▸ (up1 h_last).trans ((up1 (by decide)).trans ((up2 h_ord).trans ((up3 h_scope).trans ((up7 h_a).trans ((up7 h_t).trans ((up3 h_sz).trans ((up4 (by decide)).trans ((up3 (by decide)).trans (top1 hc)))))))))
  have e_sz : bits w 21 3 = sz.toNat := hw ▸ (up1 h_last).trans ((up1 (by decide)).trans ((up2 h_ord).trans ((up3 h_scope).trans ((up7 h_a).trans ((up7 h_t).trans (low3 h_sz))))))
  have e_t : bits w 14 7 = t.toNat := hw ▸ (up1 h_last).trans ((up1 (by decide)).trans ((up2 h_ord).trans ((up3 h_scope).trans ((up7 h_a).trans (low7 h_t)))))
  have e_a : bits w 7 7 = a.toNat := hw ▸ (up1 h_last).trans ((up1 (by decide)).trans ((up2 h_ord).trans ((up3 h_scope).trans (low7 h_a))))
  have e_scope : bits w 4 3 = scope.toNat := hw ▸ (up1 h_last).trans ((up1 (by decide)).trans ((up2 h_ord).trans (low3 h_scope)))
  have e_ord : bits w 2 2 = ord.toNat := hw ▸ (up1 h_last).trans ((up1 (by decide)).trans (low2 h_ord))
  have e_last : bits w 0 1 = bitOf last := hw ▸ low1 h_last
  have x1 : bits w 1 1 = 0 := hw ▸ (up1 h_last).trans (low1 (by decide))
  simp [decodeChainWord, decodeWord, decodeRow4, eH, eM, eC, e_sz, e_t, e_a, e_scope, e_ord, e_last, x1, bitOf_beq]

theorem sto (sz : BitVec 3) (t : BitVec 7) (a : BitVec 7) (scope : BitVec 3) (ord : BitVec 2) : Statement (.sto sz t a scope ord) := by
  intro ch w h
  simp only [encodeChainWord, encode, Option.map_some, Option.some.injEq] at h
  have hc := bitOf_lt ch
  have h_sz : sz.toNat < 8 := sz.isLt
  have h_t : t.toNat < 128 := t.isLt
  have h_a : a.toNat < 128 := a.isLt
  have h_scope : scope.toNat < 8 := scope.isLt
  have h_ord : ord.toNat < 4 := ord.isLt
  have hw : w = ((((((((bitOf ch) * 8 + 4) * 16 + 3) * 8 + sz.toNat) * 128 + t.toNat) * 128 + a.toNat) * 8 + scope.toNat) * 4 + ord.toNat) * 4 + 0 := by omega
  have eH : bits w 28 3 = 4 := hw ▸ (up2 (by decide)).trans ((up2 h_ord).trans ((up3 h_scope).trans ((up7 h_a).trans ((up7 h_t).trans ((up3 h_sz).trans ((up4 (by decide)).trans (low3 (by decide))))))))
  have eM : bits w 24 4 = 3 := hw ▸ (up2 (by decide)).trans ((up2 h_ord).trans ((up3 h_scope).trans ((up7 h_a).trans ((up7 h_t).trans ((up3 h_sz).trans (low4 (by decide)))))))
  have eC : bits w 31 1 = bitOf ch := hw ▸ (up2 (by decide)).trans ((up2 h_ord).trans ((up3 h_scope).trans ((up7 h_a).trans ((up7 h_t).trans ((up3 h_sz).trans ((up4 (by decide)).trans ((up3 (by decide)).trans (top1 hc))))))))
  have e_sz : bits w 21 3 = sz.toNat := hw ▸ (up2 (by decide)).trans ((up2 h_ord).trans ((up3 h_scope).trans ((up7 h_a).trans ((up7 h_t).trans (low3 h_sz)))))
  have e_t : bits w 14 7 = t.toNat := hw ▸ (up2 (by decide)).trans ((up2 h_ord).trans ((up3 h_scope).trans ((up7 h_a).trans (low7 h_t))))
  have e_a : bits w 7 7 = a.toNat := hw ▸ (up2 (by decide)).trans ((up2 h_ord).trans ((up3 h_scope).trans (low7 h_a)))
  have e_scope : bits w 4 3 = scope.toNat := hw ▸ (up2 (by decide)).trans ((up2 h_ord).trans (low3 h_scope))
  have e_ord : bits w 2 2 = ord.toNat := hw ▸ (up2 (by decide)).trans (low2 h_ord)
  have x1 : bits w 0 2 = 0 := hw ▸ low2 (by decide)
  simp [decodeChainWord, decodeWord, decodeRow4, eH, eM, eC, e_sz, e_t, e_a, e_scope, e_ord, x1, bitOf_beq]

theorem ldl (sz : BitVec 3) (t : BitVec 7) (a : BitVec 7) (off : BitVec 7) : Statement (.ldl sz t a off) := by
  intro ch w h
  simp only [encodeChainWord, encode, Option.map_some, Option.some.injEq] at h
  have hc := bitOf_lt ch
  have h_sz : sz.toNat < 8 := sz.isLt
  have h_t : t.toNat < 128 := t.isLt
  have h_a : a.toNat < 128 := a.isLt
  have h_off : off.toNat < 128 := off.isLt
  have hw : w = ((((((bitOf ch) * 8 + 4) * 16 + 4) * 8 + sz.toNat) * 128 + t.toNat) * 128 + a.toNat) * 128 + off.toNat := by omega
  have eH : bits w 28 3 = 4 := hw ▸ (up7 h_off).trans ((up7 h_a).trans ((up7 h_t).trans ((up3 h_sz).trans ((up4 (by decide)).trans (low3 (by decide))))))
  have eM : bits w 24 4 = 4 := hw ▸ (up7 h_off).trans ((up7 h_a).trans ((up7 h_t).trans ((up3 h_sz).trans (low4 (by decide)))))
  have eC : bits w 31 1 = bitOf ch := hw ▸ (up7 h_off).trans ((up7 h_a).trans ((up7 h_t).trans ((up3 h_sz).trans ((up4 (by decide)).trans ((up3 (by decide)).trans (top1 hc))))))
  have e_sz : bits w 21 3 = sz.toNat := hw ▸ (up7 h_off).trans ((up7 h_a).trans ((up7 h_t).trans (low3 h_sz)))
  have e_t : bits w 14 7 = t.toNat := hw ▸ (up7 h_off).trans ((up7 h_a).trans (low7 h_t))
  have e_a : bits w 7 7 = a.toNat := hw ▸ (up7 h_off).trans (low7 h_a)
  have e_off : bits w 0 7 = off.toNat := hw ▸ low7 h_off
  simp [decodeChainWord, decodeWord, decodeRow4, eH, eM, eC, e_sz, e_t, e_a, e_off, bitOf_beq]

theorem stl (sz : BitVec 3) (t : BitVec 7) (a : BitVec 7) (off : BitVec 7) : Statement (.stl sz t a off) := by
  intro ch w h
  simp only [encodeChainWord, encode, Option.map_some, Option.some.injEq] at h
  have hc := bitOf_lt ch
  have h_sz : sz.toNat < 8 := sz.isLt
  have h_t : t.toNat < 128 := t.isLt
  have h_a : a.toNat < 128 := a.isLt
  have h_off : off.toNat < 128 := off.isLt
  have hw : w = ((((((bitOf ch) * 8 + 4) * 16 + 5) * 8 + sz.toNat) * 128 + t.toNat) * 128 + a.toNat) * 128 + off.toNat := by omega
  have eH : bits w 28 3 = 4 := hw ▸ (up7 h_off).trans ((up7 h_a).trans ((up7 h_t).trans ((up3 h_sz).trans ((up4 (by decide)).trans (low3 (by decide))))))
  have eM : bits w 24 4 = 5 := hw ▸ (up7 h_off).trans ((up7 h_a).trans ((up7 h_t).trans ((up3 h_sz).trans (low4 (by decide)))))
  have eC : bits w 31 1 = bitOf ch := hw ▸ (up7 h_off).trans ((up7 h_a).trans ((up7 h_t).trans ((up3 h_sz).trans ((up4 (by decide)).trans ((up3 (by decide)).trans (top1 hc))))))
  have e_sz : bits w 21 3 = sz.toNat := hw ▸ (up7 h_off).trans ((up7 h_a).trans ((up7 h_t).trans (low3 h_sz)))
  have e_t : bits w 14 7 = t.toNat := hw ▸ (up7 h_off).trans ((up7 h_a).trans (low7 h_t))
  have e_a : bits w 7 7 = a.toNat := hw ▸ (up7 h_off).trans (low7 h_a)
  have e_off : bits w 0 7 = off.toNat := hw ▸ low7 h_off
  simp [decodeChainWord, decodeWord, decodeRow4, eH, eM, eC, e_sz, e_t, e_a, e_off, bitOf_beq]

theorem ldcb (t : BitVec 7) (a : BitVec 7) (off : BitVec 7) : Statement (.ldcb t a off) := by
  intro ch w h
  simp only [encodeChainWord, encode, Option.map_some, Option.some.injEq] at h
  have hc := bitOf_lt ch
  have h_t : t.toNat < 128 := t.isLt
  have h_a : a.toNat < 128 := a.isLt
  have h_off : off.toNat < 128 := off.isLt
  have hw : w = ((((((bitOf ch) * 8 + 4) * 16 + 6) * 8 + 0) * 128 + t.toNat) * 128 + a.toNat) * 128 + off.toNat := by omega
  have eH : bits w 28 3 = 4 := hw ▸ (up7 h_off).trans ((up7 h_a).trans ((up7 h_t).trans ((up3 (by decide)).trans ((up4 (by decide)).trans (low3 (by decide))))))
  have eM : bits w 24 4 = 6 := hw ▸ (up7 h_off).trans ((up7 h_a).trans ((up7 h_t).trans ((up3 (by decide)).trans (low4 (by decide)))))
  have eC : bits w 31 1 = bitOf ch := hw ▸ (up7 h_off).trans ((up7 h_a).trans ((up7 h_t).trans ((up3 (by decide)).trans ((up4 (by decide)).trans ((up3 (by decide)).trans (top1 hc))))))
  have e_t : bits w 14 7 = t.toNat := hw ▸ (up7 h_off).trans ((up7 h_a).trans (low7 h_t))
  have e_a : bits w 7 7 = a.toNat := hw ▸ (up7 h_off).trans (low7 h_a)
  have e_off : bits w 0 7 = off.toNat := hw ▸ low7 h_off
  have x1 : bits w 21 3 = 0 := hw ▸ (up7 h_off).trans ((up7 h_a).trans ((up7 h_t).trans (low3 (by decide))))
  simp [decodeChainWord, decodeWord, decodeRow4, eH, eM, eC, e_t, e_a, e_off, x1, bitOf_beq]

theorem modw (sz : BitVec 3) (t : BitVec 7) (a : BitVec 7) (scope : BitVec 3) (ord : BitVec 2) : Statement (.modw sz t a scope ord) := by
  intro ch w h
  simp only [encodeChainWord, encode, Option.map_some, Option.some.injEq] at h
  have hc := bitOf_lt ch
  have h_sz : sz.toNat < 8 := sz.isLt
  have h_t : t.toNat < 128 := t.isLt
  have h_a : a.toNat < 128 := a.isLt
  have h_scope : scope.toNat < 8 := scope.isLt
  have h_ord : ord.toNat < 4 := ord.isLt
  have hw : w = ((((((((bitOf ch) * 8 + 4) * 16 + 7) * 8 + sz.toNat) * 128 + t.toNat) * 128 + a.toNat) * 8 + scope.toNat) * 4 + ord.toNat) * 4 + 0 := by omega
  have eH : bits w 28 3 = 4 := hw ▸ (up2 (by decide)).trans ((up2 h_ord).trans ((up3 h_scope).trans ((up7 h_a).trans ((up7 h_t).trans ((up3 h_sz).trans ((up4 (by decide)).trans (low3 (by decide))))))))
  have eM : bits w 24 4 = 7 := hw ▸ (up2 (by decide)).trans ((up2 h_ord).trans ((up3 h_scope).trans ((up7 h_a).trans ((up7 h_t).trans ((up3 h_sz).trans (low4 (by decide)))))))
  have eC : bits w 31 1 = bitOf ch := hw ▸ (up2 (by decide)).trans ((up2 h_ord).trans ((up3 h_scope).trans ((up7 h_a).trans ((up7 h_t).trans ((up3 h_sz).trans ((up4 (by decide)).trans ((up3 (by decide)).trans (top1 hc))))))))
  have e_sz : bits w 21 3 = sz.toNat := hw ▸ (up2 (by decide)).trans ((up2 h_ord).trans ((up3 h_scope).trans ((up7 h_a).trans ((up7 h_t).trans (low3 h_sz)))))
  have e_t : bits w 14 7 = t.toNat := hw ▸ (up2 (by decide)).trans ((up2 h_ord).trans ((up3 h_scope).trans ((up7 h_a).trans (low7 h_t))))
  have e_a : bits w 7 7 = a.toNat := hw ▸ (up2 (by decide)).trans ((up2 h_ord).trans ((up3 h_scope).trans (low7 h_a)))
  have e_scope : bits w 4 3 = scope.toNat := hw ▸ (up2 (by decide)).trans ((up2 h_ord).trans (low3 h_scope))
  have e_ord : bits w 2 2 = ord.toNat := hw ▸ (up2 (by decide)).trans (low2 h_ord)
  have x1 : bits w 0 2 = 0 := hw ▸ low2 (by decide)
  simp [decodeChainWord, decodeWord, decodeRow4, eH, eM, eC, e_sz, e_t, e_a, e_scope, e_ord, x1, bitOf_beq]

theorem aadd (sz : BitVec 3) (t : BitVec 7) (a : BitVec 7) (scope : BitVec 3) (ord : BitVec 2) : Statement (.aadd sz t a scope ord) := by
  intro ch w h
  simp only [encodeChainWord, encode, Option.map_some, Option.some.injEq] at h
  have hc := bitOf_lt ch
  have h_sz : sz.toNat < 8 := sz.isLt
  have h_t : t.toNat < 128 := t.isLt
  have h_a : a.toNat < 128 := a.isLt
  have h_scope : scope.toNat < 8 := scope.isLt
  have h_ord : ord.toNat < 4 := ord.isLt
  have hw : w = ((((((((bitOf ch) * 8 + 4) * 16 + 8) * 8 + sz.toNat) * 128 + t.toNat) * 128 + a.toNat) * 8 + scope.toNat) * 4 + ord.toNat) * 4 + 0 := by omega
  have eH : bits w 28 3 = 4 := hw ▸ (up2 (by decide)).trans ((up2 h_ord).trans ((up3 h_scope).trans ((up7 h_a).trans ((up7 h_t).trans ((up3 h_sz).trans ((up4 (by decide)).trans (low3 (by decide))))))))
  have eM : bits w 24 4 = 8 := hw ▸ (up2 (by decide)).trans ((up2 h_ord).trans ((up3 h_scope).trans ((up7 h_a).trans ((up7 h_t).trans ((up3 h_sz).trans (low4 (by decide)))))))
  have eC : bits w 31 1 = bitOf ch := hw ▸ (up2 (by decide)).trans ((up2 h_ord).trans ((up3 h_scope).trans ((up7 h_a).trans ((up7 h_t).trans ((up3 h_sz).trans ((up4 (by decide)).trans ((up3 (by decide)).trans (top1 hc))))))))
  have e_sz : bits w 21 3 = sz.toNat := hw ▸ (up2 (by decide)).trans ((up2 h_ord).trans ((up3 h_scope).trans ((up7 h_a).trans ((up7 h_t).trans (low3 h_sz)))))
  have e_t : bits w 14 7 = t.toNat := hw ▸ (up2 (by decide)).trans ((up2 h_ord).trans ((up3 h_scope).trans ((up7 h_a).trans (low7 h_t))))
  have e_a : bits w 7 7 = a.toNat := hw ▸ (up2 (by decide)).trans ((up2 h_ord).trans ((up3 h_scope).trans (low7 h_a)))
  have e_scope : bits w 4 3 = scope.toNat := hw ▸ (up2 (by decide)).trans ((up2 h_ord).trans (low3 h_scope))
  have e_ord : bits w 2 2 = ord.toNat := hw ▸ (up2 (by decide)).trans (low2 h_ord)
  have x1 : bits w 0 2 = 0 := hw ▸ low2 (by decide)
  simp [decodeChainWord, decodeWord, decodeRow4, eH, eM, eC, e_sz, e_t, e_a, e_scope, e_ord, x1, bitOf_beq]

theorem amin (sz : BitVec 3) (t : BitVec 7) (a : BitVec 7) (scope : BitVec 3) (ord : BitVec 2) (z : Bool) : Statement (.amin sz t a scope ord z) := by
  intro ch w h
  simp only [encodeChainWord, encode, Option.map_some, Option.some.injEq] at h
  have hc := bitOf_lt ch
  have h_sz : sz.toNat < 8 := sz.isLt
  have h_t : t.toNat < 128 := t.isLt
  have h_a : a.toNat < 128 := a.isLt
  have h_scope : scope.toNat < 8 := scope.isLt
  have h_ord : ord.toNat < 4 := ord.isLt
  have h_z := bitOf_lt z
  have hw : w = (((((((((bitOf ch) * 8 + 4) * 16 + 9) * 8 + sz.toNat) * 128 + t.toNat) * 128 + a.toNat) * 8 + scope.toNat) * 4 + ord.toNat) * 2 + 0) * 2 + bitOf z := by omega
  have eH : bits w 28 3 = 4 := hw ▸ (up1 h_z).trans ((up1 (by decide)).trans ((up2 h_ord).trans ((up3 h_scope).trans ((up7 h_a).trans ((up7 h_t).trans ((up3 h_sz).trans ((up4 (by decide)).trans (low3 (by decide)))))))))
  have eM : bits w 24 4 = 9 := hw ▸ (up1 h_z).trans ((up1 (by decide)).trans ((up2 h_ord).trans ((up3 h_scope).trans ((up7 h_a).trans ((up7 h_t).trans ((up3 h_sz).trans (low4 (by decide))))))))
  have eC : bits w 31 1 = bitOf ch := hw ▸ (up1 h_z).trans ((up1 (by decide)).trans ((up2 h_ord).trans ((up3 h_scope).trans ((up7 h_a).trans ((up7 h_t).trans ((up3 h_sz).trans ((up4 (by decide)).trans ((up3 (by decide)).trans (top1 hc)))))))))
  have e_sz : bits w 21 3 = sz.toNat := hw ▸ (up1 h_z).trans ((up1 (by decide)).trans ((up2 h_ord).trans ((up3 h_scope).trans ((up7 h_a).trans ((up7 h_t).trans (low3 h_sz))))))
  have e_t : bits w 14 7 = t.toNat := hw ▸ (up1 h_z).trans ((up1 (by decide)).trans ((up2 h_ord).trans ((up3 h_scope).trans ((up7 h_a).trans (low7 h_t)))))
  have e_a : bits w 7 7 = a.toNat := hw ▸ (up1 h_z).trans ((up1 (by decide)).trans ((up2 h_ord).trans ((up3 h_scope).trans (low7 h_a))))
  have e_scope : bits w 4 3 = scope.toNat := hw ▸ (up1 h_z).trans ((up1 (by decide)).trans ((up2 h_ord).trans (low3 h_scope)))
  have e_ord : bits w 2 2 = ord.toNat := hw ▸ (up1 h_z).trans ((up1 (by decide)).trans (low2 h_ord))
  have e_z : bits w 0 1 = bitOf z := hw ▸ low1 h_z
  have x1 : bits w 1 1 = 0 := hw ▸ (up1 h_z).trans (low1 (by decide))
  simp [decodeChainWord, decodeWord, decodeRow4, eH, eM, eC, e_sz, e_t, e_a, e_scope, e_ord, e_z, x1, bitOf_beq]

theorem amax (sz : BitVec 3) (t : BitVec 7) (a : BitVec 7) (scope : BitVec 3) (ord : BitVec 2) (z : Bool) : Statement (.amax sz t a scope ord z) := by
  intro ch w h
  simp only [encodeChainWord, encode, Option.map_some, Option.some.injEq] at h
  have hc := bitOf_lt ch
  have h_sz : sz.toNat < 8 := sz.isLt
  have h_t : t.toNat < 128 := t.isLt
  have h_a : a.toNat < 128 := a.isLt
  have h_scope : scope.toNat < 8 := scope.isLt
  have h_ord : ord.toNat < 4 := ord.isLt
  have h_z := bitOf_lt z
  have hw : w = (((((((((bitOf ch) * 8 + 4) * 16 + 9) * 8 + sz.toNat) * 128 + t.toNat) * 128 + a.toNat) * 8 + scope.toNat) * 4 + ord.toNat) * 2 + 1) * 2 + bitOf z := by omega
  have eH : bits w 28 3 = 4 := hw ▸ (up1 h_z).trans ((up1 (by decide)).trans ((up2 h_ord).trans ((up3 h_scope).trans ((up7 h_a).trans ((up7 h_t).trans ((up3 h_sz).trans ((up4 (by decide)).trans (low3 (by decide)))))))))
  have eM : bits w 24 4 = 9 := hw ▸ (up1 h_z).trans ((up1 (by decide)).trans ((up2 h_ord).trans ((up3 h_scope).trans ((up7 h_a).trans ((up7 h_t).trans ((up3 h_sz).trans (low4 (by decide))))))))
  have eC : bits w 31 1 = bitOf ch := hw ▸ (up1 h_z).trans ((up1 (by decide)).trans ((up2 h_ord).trans ((up3 h_scope).trans ((up7 h_a).trans ((up7 h_t).trans ((up3 h_sz).trans ((up4 (by decide)).trans ((up3 (by decide)).trans (top1 hc)))))))))
  have e_sz : bits w 21 3 = sz.toNat := hw ▸ (up1 h_z).trans ((up1 (by decide)).trans ((up2 h_ord).trans ((up3 h_scope).trans ((up7 h_a).trans ((up7 h_t).trans (low3 h_sz))))))
  have e_t : bits w 14 7 = t.toNat := hw ▸ (up1 h_z).trans ((up1 (by decide)).trans ((up2 h_ord).trans ((up3 h_scope).trans ((up7 h_a).trans (low7 h_t)))))
  have e_a : bits w 7 7 = a.toNat := hw ▸ (up1 h_z).trans ((up1 (by decide)).trans ((up2 h_ord).trans ((up3 h_scope).trans (low7 h_a))))
  have e_scope : bits w 4 3 = scope.toNat := hw ▸ (up1 h_z).trans ((up1 (by decide)).trans ((up2 h_ord).trans (low3 h_scope)))
  have e_ord : bits w 2 2 = ord.toNat := hw ▸ (up1 h_z).trans ((up1 (by decide)).trans (low2 h_ord))
  have e_z : bits w 0 1 = bitOf z := hw ▸ low1 h_z
  have x1 : bits w 1 1 = 1 := hw ▸ (up1 h_z).trans (low1 (by decide))
  simp [decodeChainWord, decodeWord, decodeRow4, eH, eM, eC, e_sz, e_t, e_a, e_scope, e_ord, e_z, x1, bitOf_beq]

theorem aand (sz : BitVec 3) (t : BitVec 7) (a : BitVec 7) (scope : BitVec 3) (ord : BitVec 2) : Statement (.aand sz t a scope ord) := by
  intro ch w h
  simp only [encodeChainWord, encode, Option.map_some, Option.some.injEq] at h
  have hc := bitOf_lt ch
  have h_sz : sz.toNat < 8 := sz.isLt
  have h_t : t.toNat < 128 := t.isLt
  have h_a : a.toNat < 128 := a.isLt
  have h_scope : scope.toNat < 8 := scope.isLt
  have h_ord : ord.toNat < 4 := ord.isLt
  have hw : w = ((((((((bitOf ch) * 8 + 4) * 16 + 10) * 8 + sz.toNat) * 128 + t.toNat) * 128 + a.toNat) * 8 + scope.toNat) * 4 + ord.toNat) * 4 + 0 := by omega
  have eH : bits w 28 3 = 4 := hw ▸ (up2 (by decide)).trans ((up2 h_ord).trans ((up3 h_scope).trans ((up7 h_a).trans ((up7 h_t).trans ((up3 h_sz).trans ((up4 (by decide)).trans (low3 (by decide))))))))
  have eM : bits w 24 4 = 10 := hw ▸ (up2 (by decide)).trans ((up2 h_ord).trans ((up3 h_scope).trans ((up7 h_a).trans ((up7 h_t).trans ((up3 h_sz).trans (low4 (by decide)))))))
  have eC : bits w 31 1 = bitOf ch := hw ▸ (up2 (by decide)).trans ((up2 h_ord).trans ((up3 h_scope).trans ((up7 h_a).trans ((up7 h_t).trans ((up3 h_sz).trans ((up4 (by decide)).trans ((up3 (by decide)).trans (top1 hc))))))))
  have e_sz : bits w 21 3 = sz.toNat := hw ▸ (up2 (by decide)).trans ((up2 h_ord).trans ((up3 h_scope).trans ((up7 h_a).trans ((up7 h_t).trans (low3 h_sz)))))
  have e_t : bits w 14 7 = t.toNat := hw ▸ (up2 (by decide)).trans ((up2 h_ord).trans ((up3 h_scope).trans ((up7 h_a).trans (low7 h_t))))
  have e_a : bits w 7 7 = a.toNat := hw ▸ (up2 (by decide)).trans ((up2 h_ord).trans ((up3 h_scope).trans (low7 h_a)))
  have e_scope : bits w 4 3 = scope.toNat := hw ▸ (up2 (by decide)).trans ((up2 h_ord).trans (low3 h_scope))
  have e_ord : bits w 2 2 = ord.toNat := hw ▸ (up2 (by decide)).trans (low2 h_ord)
  have x1 : bits w 0 2 = 0 := hw ▸ low2 (by decide)
  simp [decodeChainWord, decodeWord, decodeRow4, eH, eM, eC, e_sz, e_t, e_a, e_scope, e_ord, x1, bitOf_beq]

theorem aor (sz : BitVec 3) (t : BitVec 7) (a : BitVec 7) (scope : BitVec 3) (ord : BitVec 2) : Statement (.aor sz t a scope ord) := by
  intro ch w h
  simp only [encodeChainWord, encode, Option.map_some, Option.some.injEq] at h
  have hc := bitOf_lt ch
  have h_sz : sz.toNat < 8 := sz.isLt
  have h_t : t.toNat < 128 := t.isLt
  have h_a : a.toNat < 128 := a.isLt
  have h_scope : scope.toNat < 8 := scope.isLt
  have h_ord : ord.toNat < 4 := ord.isLt
  have hw : w = ((((((((bitOf ch) * 8 + 4) * 16 + 11) * 8 + sz.toNat) * 128 + t.toNat) * 128 + a.toNat) * 8 + scope.toNat) * 4 + ord.toNat) * 4 + 0 := by omega
  have eH : bits w 28 3 = 4 := hw ▸ (up2 (by decide)).trans ((up2 h_ord).trans ((up3 h_scope).trans ((up7 h_a).trans ((up7 h_t).trans ((up3 h_sz).trans ((up4 (by decide)).trans (low3 (by decide))))))))
  have eM : bits w 24 4 = 11 := hw ▸ (up2 (by decide)).trans ((up2 h_ord).trans ((up3 h_scope).trans ((up7 h_a).trans ((up7 h_t).trans ((up3 h_sz).trans (low4 (by decide)))))))
  have eC : bits w 31 1 = bitOf ch := hw ▸ (up2 (by decide)).trans ((up2 h_ord).trans ((up3 h_scope).trans ((up7 h_a).trans ((up7 h_t).trans ((up3 h_sz).trans ((up4 (by decide)).trans ((up3 (by decide)).trans (top1 hc))))))))
  have e_sz : bits w 21 3 = sz.toNat := hw ▸ (up2 (by decide)).trans ((up2 h_ord).trans ((up3 h_scope).trans ((up7 h_a).trans ((up7 h_t).trans (low3 h_sz)))))
  have e_t : bits w 14 7 = t.toNat := hw ▸ (up2 (by decide)).trans ((up2 h_ord).trans ((up3 h_scope).trans ((up7 h_a).trans (low7 h_t))))
  have e_a : bits w 7 7 = a.toNat := hw ▸ (up2 (by decide)).trans ((up2 h_ord).trans ((up3 h_scope).trans (low7 h_a)))
  have e_scope : bits w 4 3 = scope.toNat := hw ▸ (up2 (by decide)).trans ((up2 h_ord).trans (low3 h_scope))
  have e_ord : bits w 2 2 = ord.toNat := hw ▸ (up2 (by decide)).trans (low2 h_ord)
  have x1 : bits w 0 2 = 0 := hw ▸ low2 (by decide)
  simp [decodeChainWord, decodeWord, decodeRow4, eH, eM, eC, e_sz, e_t, e_a, e_scope, e_ord, x1, bitOf_beq]

theorem axor (sz : BitVec 3) (t : BitVec 7) (a : BitVec 7) (scope : BitVec 3) (ord : BitVec 2) : Statement (.axor sz t a scope ord) := by
  intro ch w h
  simp only [encodeChainWord, encode, Option.map_some, Option.some.injEq] at h
  have hc := bitOf_lt ch
  have h_sz : sz.toNat < 8 := sz.isLt
  have h_t : t.toNat < 128 := t.isLt
  have h_a : a.toNat < 128 := a.isLt
  have h_scope : scope.toNat < 8 := scope.isLt
  have h_ord : ord.toNat < 4 := ord.isLt
  have hw : w = ((((((((bitOf ch) * 8 + 4) * 16 + 12) * 8 + sz.toNat) * 128 + t.toNat) * 128 + a.toNat) * 8 + scope.toNat) * 4 + ord.toNat) * 4 + 0 := by omega
  have eH : bits w 28 3 = 4 := hw ▸ (up2 (by decide)).trans ((up2 h_ord).trans ((up3 h_scope).trans ((up7 h_a).trans ((up7 h_t).trans ((up3 h_sz).trans ((up4 (by decide)).trans (low3 (by decide))))))))
  have eM : bits w 24 4 = 12 := hw ▸ (up2 (by decide)).trans ((up2 h_ord).trans ((up3 h_scope).trans ((up7 h_a).trans ((up7 h_t).trans ((up3 h_sz).trans (low4 (by decide)))))))
  have eC : bits w 31 1 = bitOf ch := hw ▸ (up2 (by decide)).trans ((up2 h_ord).trans ((up3 h_scope).trans ((up7 h_a).trans ((up7 h_t).trans ((up3 h_sz).trans ((up4 (by decide)).trans ((up3 (by decide)).trans (top1 hc))))))))
  have e_sz : bits w 21 3 = sz.toNat := hw ▸ (up2 (by decide)).trans ((up2 h_ord).trans ((up3 h_scope).trans ((up7 h_a).trans ((up7 h_t).trans (low3 h_sz)))))
  have e_t : bits w 14 7 = t.toNat := hw ▸ (up2 (by decide)).trans ((up2 h_ord).trans ((up3 h_scope).trans ((up7 h_a).trans (low7 h_t))))
  have e_a : bits w 7 7 = a.toNat := hw ▸ (up2 (by decide)).trans ((up2 h_ord).trans ((up3 h_scope).trans (low7 h_a)))
  have e_scope : bits w 4 3 = scope.toNat := hw ▸ (up2 (by decide)).trans ((up2 h_ord).trans (low3 h_scope))
  have e_ord : bits w 2 2 = ord.toNat := hw ▸ (up2 (by decide)).trans (low2 h_ord)
  have x1 : bits w 0 2 = 0 := hw ▸ low2 (by decide)
  simp [decodeChainWord, decodeWord, decodeRow4, eH, eM, eC, e_sz, e_t, e_a, e_scope, e_ord, x1, bitOf_beq]

theorem axch (sz : BitVec 3) (t : BitVec 7) (a : BitVec 7) (scope : BitVec 3) (ord : BitVec 2) : Statement (.axch sz t a scope ord) := by
  intro ch w h
  simp only [encodeChainWord, encode, Option.map_some, Option.some.injEq] at h
  have hc := bitOf_lt ch
  have h_sz : sz.toNat < 8 := sz.isLt
  have h_t : t.toNat < 128 := t.isLt
  have h_a : a.toNat < 128 := a.isLt
  have h_scope : scope.toNat < 8 := scope.isLt
  have h_ord : ord.toNat < 4 := ord.isLt
  have hw : w = ((((((((bitOf ch) * 8 + 4) * 16 + 13) * 8 + sz.toNat) * 128 + t.toNat) * 128 + a.toNat) * 8 + scope.toNat) * 4 + ord.toNat) * 4 + 0 := by omega
  have eH : bits w 28 3 = 4 := hw ▸ (up2 (by decide)).trans ((up2 h_ord).trans ((up3 h_scope).trans ((up7 h_a).trans ((up7 h_t).trans ((up3 h_sz).trans ((up4 (by decide)).trans (low3 (by decide))))))))
  have eM : bits w 24 4 = 13 := hw ▸ (up2 (by decide)).trans ((up2 h_ord).trans ((up3 h_scope).trans ((up7 h_a).trans ((up7 h_t).trans ((up3 h_sz).trans (low4 (by decide)))))))
  have eC : bits w 31 1 = bitOf ch := hw ▸ (up2 (by decide)).trans ((up2 h_ord).trans ((up3 h_scope).trans ((up7 h_a).trans ((up7 h_t).trans ((up3 h_sz).trans ((up4 (by decide)).trans ((up3 (by decide)).trans (top1 hc))))))))
  have e_sz : bits w 21 3 = sz.toNat := hw ▸ (up2 (by decide)).trans ((up2 h_ord).trans ((up3 h_scope).trans ((up7 h_a).trans ((up7 h_t).trans (low3 h_sz)))))
  have e_t : bits w 14 7 = t.toNat := hw ▸ (up2 (by decide)).trans ((up2 h_ord).trans ((up3 h_scope).trans ((up7 h_a).trans (low7 h_t))))
  have e_a : bits w 7 7 = a.toNat := hw ▸ (up2 (by decide)).trans ((up2 h_ord).trans ((up3 h_scope).trans (low7 h_a)))
  have e_scope : bits w 4 3 = scope.toNat := hw ▸ (up2 (by decide)).trans ((up2 h_ord).trans (low3 h_scope))
  have e_ord : bits w 2 2 = ord.toNat := hw ▸ (up2 (by decide)).trans (low2 h_ord)
  have x1 : bits w 0 2 = 0 := hw ▸ low2 (by decide)
  simp [decodeChainWord, decodeWord, decodeRow4, eH, eM, eC, e_sz, e_t, e_a, e_scope, e_ord, x1, bitOf_beq]

theorem acas (sz : Bool) (t : BitVec 7) (a : BitVec 7) (scope : BitVec 3) (ord : BitVec 2) : Statement (.acas sz t a scope ord) := by
  intro ch w h
  simp only [encodeChainWord, encode, Option.map_some, Option.some.injEq] at h
  have hc := bitOf_lt ch
  have h_sz := bitOf_lt sz
  have h_t : t.toNat < 128 := t.isLt
  have h_a : a.toNat < 128 := a.isLt
  have h_scope : scope.toNat < 8 := scope.isLt
  have h_ord : ord.toNat < 4 := ord.isLt
  have hw : w = (((((((((bitOf ch) * 8 + 4) * 16 + 14) * 4 + 1) * 2 + bitOf sz) * 128 + t.toNat) * 128 + a.toNat) * 8 + scope.toNat) * 4 + ord.toNat) * 4 + 0 := by omega
  have eH : bits w 28 3 = 4 := hw ▸ (up2 (by decide)).trans ((up2 h_ord).trans ((up3 h_scope).trans ((up7 h_a).trans ((up7 h_t).trans ((up1 h_sz).trans ((up2 (by decide)).trans ((up4 (by decide)).trans (low3 (by decide)))))))))
  have eM : bits w 24 4 = 14 := hw ▸ (up2 (by decide)).trans ((up2 h_ord).trans ((up3 h_scope).trans ((up7 h_a).trans ((up7 h_t).trans ((up1 h_sz).trans ((up2 (by decide)).trans (low4 (by decide))))))))
  have eC : bits w 31 1 = bitOf ch := hw ▸ (up2 (by decide)).trans ((up2 h_ord).trans ((up3 h_scope).trans ((up7 h_a).trans ((up7 h_t).trans ((up1 h_sz).trans ((up2 (by decide)).trans ((up4 (by decide)).trans ((up3 (by decide)).trans (top1 hc)))))))))
  have e_sz : bits w 21 1 = bitOf sz := hw ▸ (up2 (by decide)).trans ((up2 h_ord).trans ((up3 h_scope).trans ((up7 h_a).trans ((up7 h_t).trans (low1 h_sz)))))
  have e_t : bits w 14 7 = t.toNat := hw ▸ (up2 (by decide)).trans ((up2 h_ord).trans ((up3 h_scope).trans ((up7 h_a).trans (low7 h_t))))
  have e_a : bits w 7 7 = a.toNat := hw ▸ (up2 (by decide)).trans ((up2 h_ord).trans ((up3 h_scope).trans (low7 h_a)))
  have e_scope : bits w 4 3 = scope.toNat := hw ▸ (up2 (by decide)).trans ((up2 h_ord).trans (low3 h_scope))
  have e_ord : bits w 2 2 = ord.toNat := hw ▸ (up2 (by decide)).trans (low2 h_ord)
  have x1 : bits w 0 2 = 0 := hw ▸ low2 (by decide)
  have x2 : bits w 22 2 = 1 := hw ▸ (up2 (by decide)).trans ((up2 h_ord).trans ((up3 h_scope).trans ((up7 h_a).trans ((up7 h_t).trans ((up1 h_sz).trans (low2 (by decide)))))))
  simp [decodeChainWord, decodeWord, decodeRow4, eH, eM, eC, e_sz, e_t, e_a, e_scope, e_ord, x1, x2, bitOf_beq]

theorem acasQ (t : BitVec 7) (a : BitVec 7) (scope : BitVec 3) (ord : BitVec 2) : Statement (.acasQ t a scope ord) := by
  intro ch w h
  simp only [encodeChainWord, encode, Option.map_some, Option.some.injEq] at h
  have hc := bitOf_lt ch
  have h_t : t.toNat < 128 := t.isLt
  have h_a : a.toNat < 128 := a.isLt
  have h_scope : scope.toNat < 8 := scope.isLt
  have h_ord : ord.toNat < 4 := ord.isLt
  have hw : w = ((((((((bitOf ch) * 8 + 4) * 16 + 14) * 8 + 4) * 128 + t.toNat) * 128 + a.toNat) * 8 + scope.toNat) * 4 + ord.toNat) * 4 + 0 := by omega
  have eH : bits w 28 3 = 4 := hw ▸ (up2 (by decide)).trans ((up2 h_ord).trans ((up3 h_scope).trans ((up7 h_a).trans ((up7 h_t).trans ((up3 (by decide)).trans ((up4 (by decide)).trans (low3 (by decide))))))))
  have eM : bits w 24 4 = 14 := hw ▸ (up2 (by decide)).trans ((up2 h_ord).trans ((up3 h_scope).trans ((up7 h_a).trans ((up7 h_t).trans ((up3 (by decide)).trans (low4 (by decide)))))))
  have eC : bits w 31 1 = bitOf ch := hw ▸ (up2 (by decide)).trans ((up2 h_ord).trans ((up3 h_scope).trans ((up7 h_a).trans ((up7 h_t).trans ((up3 (by decide)).trans ((up4 (by decide)).trans ((up3 (by decide)).trans (top1 hc))))))))
  have e_t : bits w 14 7 = t.toNat := hw ▸ (up2 (by decide)).trans ((up2 h_ord).trans ((up3 h_scope).trans ((up7 h_a).trans (low7 h_t))))
  have e_a : bits w 7 7 = a.toNat := hw ▸ (up2 (by decide)).trans ((up2 h_ord).trans ((up3 h_scope).trans (low7 h_a)))
  have e_scope : bits w 4 3 = scope.toNat := hw ▸ (up2 (by decide)).trans ((up2 h_ord).trans (low3 h_scope))
  have e_ord : bits w 2 2 = ord.toNat := hw ▸ (up2 (by decide)).trans (low2 h_ord)
  have x1 : bits w 0 2 = 0 := hw ▸ low2 (by decide)
  have x2 : bits w 21 3 = 4 := hw ▸ (up2 (by decide)).trans ((up2 h_ord).trans ((up3 h_scope).trans ((up7 h_a).trans ((up7 h_t).trans (low3 (by decide))))))
  have n0 : ¬ (bits w 22 2 = 1) := by simp only [bits]; omega
  simp [decodeChainWord, decodeWord, decodeRow4, eH, eM, eC, e_t, e_a, e_scope, e_ord, x1, n0, x2, bitOf_beq]

theorem afadd (t : BitVec 7) (a : BitVec 7) (scope : BitVec 3) (ord : BitVec 2) : Statement (.afadd t a scope ord) := by
  intro ch w h
  simp only [encodeChainWord, encode, Option.map_some, Option.some.injEq] at h
  have hc := bitOf_lt ch
  have h_t : t.toNat < 128 := t.isLt
  have h_a : a.toNat < 128 := a.isLt
  have h_scope : scope.toNat < 8 := scope.isLt
  have h_ord : ord.toNat < 4 := ord.isLt
  have hw : w = ((((((((bitOf ch) * 8 + 4) * 16 + 15) * 8 + 2) * 128 + t.toNat) * 128 + a.toNat) * 8 + scope.toNat) * 4 + ord.toNat) * 4 + 0 := by omega
  have eH : bits w 28 3 = 4 := hw ▸ (up2 (by decide)).trans ((up2 h_ord).trans ((up3 h_scope).trans ((up7 h_a).trans ((up7 h_t).trans ((up3 (by decide)).trans ((up4 (by decide)).trans (low3 (by decide))))))))
  have eM : bits w 24 4 = 15 := hw ▸ (up2 (by decide)).trans ((up2 h_ord).trans ((up3 h_scope).trans ((up7 h_a).trans ((up7 h_t).trans ((up3 (by decide)).trans (low4 (by decide)))))))
  have eC : bits w 31 1 = bitOf ch := hw ▸ (up2 (by decide)).trans ((up2 h_ord).trans ((up3 h_scope).trans ((up7 h_a).trans ((up7 h_t).trans ((up3 (by decide)).trans ((up4 (by decide)).trans ((up3 (by decide)).trans (top1 hc))))))))
  have e_t : bits w 14 7 = t.toNat := hw ▸ (up2 (by decide)).trans ((up2 h_ord).trans ((up3 h_scope).trans ((up7 h_a).trans (low7 h_t))))
  have e_a : bits w 7 7 = a.toNat := hw ▸ (up2 (by decide)).trans ((up2 h_ord).trans ((up3 h_scope).trans (low7 h_a)))
  have e_scope : bits w 4 3 = scope.toNat := hw ▸ (up2 (by decide)).trans ((up2 h_ord).trans (low3 h_scope))
  have e_ord : bits w 2 2 = ord.toNat := hw ▸ (up2 (by decide)).trans (low2 h_ord)
  have x1 : bits w 0 2 = 0 := hw ▸ low2 (by decide)
  have x2 : bits w 21 3 = 2 := hw ▸ (up2 (by decide)).trans ((up2 h_ord).trans ((up3 h_scope).trans ((up7 h_a).trans ((up7 h_t).trans (low3 (by decide))))))
  simp [decodeChainWord, decodeWord, decodeRow4, eH, eM, eC, e_t, e_a, e_scope, e_ord, x1, x2, bitOf_beq]

theorem tkt (d : BitVec 7) (a : BitVec 7) (b : BitVec 7) (ua : Bool) (ub : Bool) : Statement (.tkt d a b ua ub) := by
  intro ch w h
  simp only [encodeChainWord, encode, Option.map_some, Option.some.injEq] at h
  have hc := bitOf_lt ch
  have h_d : d.toNat < 128 := d.isLt
  have h_a : a.toNat < 128 := a.isLt
  have h_b : b.toNat < 128 := b.isLt
  have h_ua := bitOf_lt ua
  have h_ub := bitOf_lt ub
  have hw : w = ((((((((bitOf ch) * 8 + 5) * 16 + 0) * 128 + d.toNat) * 128 + a.toNat) * 128 + b.toNat) * 2 + bitOf ua) * 2 + bitOf ub) * 2 + 0 := by omega
  have eH : bits w 28 3 = 5 := hw ▸ (up1 (by decide)).trans ((up1 h_ub).trans ((up1 h_ua).trans ((up7 h_b).trans ((up7 h_a).trans ((up7 h_d).trans ((up4 (by decide)).trans (low3 (by decide))))))))
  have eM : bits w 24 4 = 0 := hw ▸ (up1 (by decide)).trans ((up1 h_ub).trans ((up1 h_ua).trans ((up7 h_b).trans ((up7 h_a).trans ((up7 h_d).trans (low4 (by decide)))))))
  have eC : bits w 31 1 = bitOf ch := hw ▸ (up1 (by decide)).trans ((up1 h_ub).trans ((up1 h_ua).trans ((up7 h_b).trans ((up7 h_a).trans ((up7 h_d).trans ((up4 (by decide)).trans ((up3 (by decide)).trans (top1 hc))))))))
  have e_d : bits w 17 7 = d.toNat := hw ▸ (up1 (by decide)).trans ((up1 h_ub).trans ((up1 h_ua).trans ((up7 h_b).trans ((up7 h_a).trans (low7 h_d)))))
  have e_a : bits w 10 7 = a.toNat := hw ▸ (up1 (by decide)).trans ((up1 h_ub).trans ((up1 h_ua).trans ((up7 h_b).trans (low7 h_a))))
  have e_b : bits w 3 7 = b.toNat := hw ▸ (up1 (by decide)).trans ((up1 h_ub).trans ((up1 h_ua).trans (low7 h_b)))
  have e_ua : bits w 2 1 = bitOf ua := hw ▸ (up1 (by decide)).trans ((up1 h_ub).trans (low1 h_ua))
  have e_ub : bits w 1 1 = bitOf ub := hw ▸ (up1 (by decide)).trans (low1 h_ub)
  have x1 : bits w 0 1 = 0 := hw ▸ low1 (by decide)
  simp [decodeChainWord, decodeWord, decodeRow5, eH, eM, eC, e_d, e_a, e_b, e_ua, e_ub, x1, bitOf_beq]

theorem depadd (d : BitVec 7) (a : BitVec 7) (b : BitVec 7) (ua : Bool) (ub : Bool) : Statement (.depadd d a b ua ub) := by
  intro ch w h
  simp only [encodeChainWord, encode, Option.map_some, Option.some.injEq] at h
  have hc := bitOf_lt ch
  have h_d : d.toNat < 128 := d.isLt
  have h_a : a.toNat < 128 := a.isLt
  have h_b : b.toNat < 128 := b.isLt
  have h_ua := bitOf_lt ua
  have h_ub := bitOf_lt ub
  have hw : w = ((((((((bitOf ch) * 8 + 5) * 16 + 1) * 128 + d.toNat) * 128 + a.toNat) * 128 + b.toNat) * 2 + bitOf ua) * 2 + bitOf ub) * 2 + 0 := by omega
  have eH : bits w 28 3 = 5 := hw ▸ (up1 (by decide)).trans ((up1 h_ub).trans ((up1 h_ua).trans ((up7 h_b).trans ((up7 h_a).trans ((up7 h_d).trans ((up4 (by decide)).trans (low3 (by decide))))))))
  have eM : bits w 24 4 = 1 := hw ▸ (up1 (by decide)).trans ((up1 h_ub).trans ((up1 h_ua).trans ((up7 h_b).trans ((up7 h_a).trans ((up7 h_d).trans (low4 (by decide)))))))
  have eC : bits w 31 1 = bitOf ch := hw ▸ (up1 (by decide)).trans ((up1 h_ub).trans ((up1 h_ua).trans ((up7 h_b).trans ((up7 h_a).trans ((up7 h_d).trans ((up4 (by decide)).trans ((up3 (by decide)).trans (top1 hc))))))))
  have e_d : bits w 17 7 = d.toNat := hw ▸ (up1 (by decide)).trans ((up1 h_ub).trans ((up1 h_ua).trans ((up7 h_b).trans ((up7 h_a).trans (low7 h_d)))))
  have e_a : bits w 10 7 = a.toNat := hw ▸ (up1 (by decide)).trans ((up1 h_ub).trans ((up1 h_ua).trans ((up7 h_b).trans (low7 h_a))))
  have e_b : bits w 3 7 = b.toNat := hw ▸ (up1 (by decide)).trans ((up1 h_ub).trans ((up1 h_ua).trans (low7 h_b)))
  have e_ua : bits w 2 1 = bitOf ua := hw ▸ (up1 (by decide)).trans ((up1 h_ub).trans (low1 h_ua))
  have e_ub : bits w 1 1 = bitOf ub := hw ▸ (up1 (by decide)).trans (low1 h_ub)
  have x1 : bits w 0 1 = 0 := hw ▸ low1 (by decide)
  simp [decodeChainWord, decodeWord, decodeRow5, eH, eM, eC, e_d, e_a, e_b, e_ua, e_ub, x1, bitOf_beq]

theorem cpy (d : BitVec 7) (a : BitVec 7) (b : BitVec 7) (ua : Bool) (ub : Bool) : Statement (.cpy d a b ua ub) := by
  intro ch w h
  simp only [encodeChainWord, encode, Option.map_some, Option.some.injEq] at h
  have hc := bitOf_lt ch
  have h_d : d.toNat < 128 := d.isLt
  have h_a : a.toNat < 128 := a.isLt
  have h_b : b.toNat < 128 := b.isLt
  have h_ua := bitOf_lt ua
  have h_ub := bitOf_lt ub
  have hw : w = ((((((((bitOf ch) * 8 + 5) * 16 + 2) * 128 + d.toNat) * 128 + a.toNat) * 128 + b.toNat) * 2 + bitOf ua) * 2 + bitOf ub) * 2 + 0 := by omega
  have eH : bits w 28 3 = 5 := hw ▸ (up1 (by decide)).trans ((up1 h_ub).trans ((up1 h_ua).trans ((up7 h_b).trans ((up7 h_a).trans ((up7 h_d).trans ((up4 (by decide)).trans (low3 (by decide))))))))
  have eM : bits w 24 4 = 2 := hw ▸ (up1 (by decide)).trans ((up1 h_ub).trans ((up1 h_ua).trans ((up7 h_b).trans ((up7 h_a).trans ((up7 h_d).trans (low4 (by decide)))))))
  have eC : bits w 31 1 = bitOf ch := hw ▸ (up1 (by decide)).trans ((up1 h_ub).trans ((up1 h_ua).trans ((up7 h_b).trans ((up7 h_a).trans ((up7 h_d).trans ((up4 (by decide)).trans ((up3 (by decide)).trans (top1 hc))))))))
  have e_d : bits w 17 7 = d.toNat := hw ▸ (up1 (by decide)).trans ((up1 h_ub).trans ((up1 h_ua).trans ((up7 h_b).trans ((up7 h_a).trans (low7 h_d)))))
  have e_a : bits w 10 7 = a.toNat := hw ▸ (up1 (by decide)).trans ((up1 h_ub).trans ((up1 h_ua).trans ((up7 h_b).trans (low7 h_a))))
  have e_b : bits w 3 7 = b.toNat := hw ▸ (up1 (by decide)).trans ((up1 h_ub).trans ((up1 h_ua).trans (low7 h_b)))
  have e_ua : bits w 2 1 = bitOf ua := hw ▸ (up1 (by decide)).trans ((up1 h_ub).trans (low1 h_ua))
  have e_ub : bits w 1 1 = bitOf ub := hw ▸ (up1 (by decide)).trans (low1 h_ub)
  have x1 : bits w 0 1 = 0 := hw ▸ low1 (by decide)
  simp [decodeChainWord, decodeWord, decodeRow5, eH, eM, eC, e_d, e_a, e_b, e_ua, e_ub, x1, bitOf_beq]

theorem cpyt (d : BitVec 7) (a : BitVec 7) (b : BitVec 7) (ua : Bool) (ub : Bool) : Statement (.cpyt d a b ua ub) := by
  intro ch w h
  simp only [encodeChainWord, encode, Option.map_some, Option.some.injEq] at h
  have hc := bitOf_lt ch
  have h_d : d.toNat < 128 := d.isLt
  have h_a : a.toNat < 128 := a.isLt
  have h_b : b.toNat < 128 := b.isLt
  have h_ua := bitOf_lt ua
  have h_ub := bitOf_lt ub
  have hw : w = ((((((((bitOf ch) * 8 + 5) * 16 + 3) * 128 + d.toNat) * 128 + a.toNat) * 128 + b.toNat) * 2 + bitOf ua) * 2 + bitOf ub) * 2 + 0 := by omega
  have eH : bits w 28 3 = 5 := hw ▸ (up1 (by decide)).trans ((up1 h_ub).trans ((up1 h_ua).trans ((up7 h_b).trans ((up7 h_a).trans ((up7 h_d).trans ((up4 (by decide)).trans (low3 (by decide))))))))
  have eM : bits w 24 4 = 3 := hw ▸ (up1 (by decide)).trans ((up1 h_ub).trans ((up1 h_ua).trans ((up7 h_b).trans ((up7 h_a).trans ((up7 h_d).trans (low4 (by decide)))))))
  have eC : bits w 31 1 = bitOf ch := hw ▸ (up1 (by decide)).trans ((up1 h_ub).trans ((up1 h_ua).trans ((up7 h_b).trans ((up7 h_a).trans ((up7 h_d).trans ((up4 (by decide)).trans ((up3 (by decide)).trans (top1 hc))))))))
  have e_d : bits w 17 7 = d.toNat := hw ▸ (up1 (by decide)).trans ((up1 h_ub).trans ((up1 h_ua).trans ((up7 h_b).trans ((up7 h_a).trans (low7 h_d)))))
  have e_a : bits w 10 7 = a.toNat := hw ▸ (up1 (by decide)).trans ((up1 h_ub).trans ((up1 h_ua).trans ((up7 h_b).trans (low7 h_a))))
  have e_b : bits w 3 7 = b.toNat := hw ▸ (up1 (by decide)).trans ((up1 h_ub).trans ((up1 h_ua).trans (low7 h_b)))
  have e_ua : bits w 2 1 = bitOf ua := hw ▸ (up1 (by decide)).trans ((up1 h_ub).trans (low1 h_ua))
  have e_ub : bits w 1 1 = bitOf ub := hw ▸ (up1 (by decide)).trans (low1 h_ub)
  have x1 : bits w 0 1 = 0 := hw ▸ low1 (by decide)
  simp [decodeChainWord, decodeWord, decodeRow5, eH, eM, eC, e_d, e_a, e_b, e_ua, e_ub, x1, bitOf_beq]

theorem cpyg (d : BitVec 7) (a : BitVec 7) (b : BitVec 7) (ua : Bool) (ub : Bool) : Statement (.cpyg d a b ua ub) := by
  intro ch w h
  simp only [encodeChainWord, encode, Option.map_some, Option.some.injEq] at h
  have hc := bitOf_lt ch
  have h_d : d.toNat < 128 := d.isLt
  have h_a : a.toNat < 128 := a.isLt
  have h_b : b.toNat < 128 := b.isLt
  have h_ua := bitOf_lt ua
  have h_ub := bitOf_lt ub
  have hw : w = ((((((((bitOf ch) * 8 + 5) * 16 + 4) * 128 + d.toNat) * 128 + a.toNat) * 128 + b.toNat) * 2 + bitOf ua) * 2 + bitOf ub) * 2 + 0 := by omega
  have eH : bits w 28 3 = 5 := hw ▸ (up1 (by decide)).trans ((up1 h_ub).trans ((up1 h_ua).trans ((up7 h_b).trans ((up7 h_a).trans ((up7 h_d).trans ((up4 (by decide)).trans (low3 (by decide))))))))
  have eM : bits w 24 4 = 4 := hw ▸ (up1 (by decide)).trans ((up1 h_ub).trans ((up1 h_ua).trans ((up7 h_b).trans ((up7 h_a).trans ((up7 h_d).trans (low4 (by decide)))))))
  have eC : bits w 31 1 = bitOf ch := hw ▸ (up1 (by decide)).trans ((up1 h_ub).trans ((up1 h_ua).trans ((up7 h_b).trans ((up7 h_a).trans ((up7 h_d).trans ((up4 (by decide)).trans ((up3 (by decide)).trans (top1 hc))))))))
  have e_d : bits w 17 7 = d.toNat := hw ▸ (up1 (by decide)).trans ((up1 h_ub).trans ((up1 h_ua).trans ((up7 h_b).trans ((up7 h_a).trans (low7 h_d)))))
  have e_a : bits w 10 7 = a.toNat := hw ▸ (up1 (by decide)).trans ((up1 h_ub).trans ((up1 h_ua).trans ((up7 h_b).trans (low7 h_a))))
  have e_b : bits w 3 7 = b.toNat := hw ▸ (up1 (by decide)).trans ((up1 h_ub).trans ((up1 h_ua).trans (low7 h_b)))
  have e_ua : bits w 2 1 = bitOf ua := hw ▸ (up1 (by decide)).trans ((up1 h_ub).trans (low1 h_ua))
  have e_ub : bits w 1 1 = bitOf ub := hw ▸ (up1 (by decide)).trans (low1 h_ub)
  have x1 : bits w 0 1 = 0 := hw ▸ low1 (by decide)
  simp [decodeChainWord, decodeWord, decodeRow5, eH, eM, eC, e_d, e_a, e_b, e_ua, e_ub, x1, bitOf_beq]

theorem cpyw (d : BitVec 7) (a : BitVec 7) (b : BitVec 7) (ua : Bool) (ub : Bool) : Statement (.cpyw d a b ua ub) := by
  intro ch w h
  simp only [encodeChainWord, encode, Option.map_some, Option.some.injEq] at h
  have hc := bitOf_lt ch
  have h_d : d.toNat < 128 := d.isLt
  have h_a : a.toNat < 128 := a.isLt
  have h_b : b.toNat < 128 := b.isLt
  have h_ua := bitOf_lt ua
  have h_ub := bitOf_lt ub
  have hw : w = ((((((((bitOf ch) * 8 + 5) * 16 + 5) * 128 + d.toNat) * 128 + a.toNat) * 128 + b.toNat) * 2 + bitOf ua) * 2 + bitOf ub) * 2 + 0 := by omega
  have eH : bits w 28 3 = 5 := hw ▸ (up1 (by decide)).trans ((up1 h_ub).trans ((up1 h_ua).trans ((up7 h_b).trans ((up7 h_a).trans ((up7 h_d).trans ((up4 (by decide)).trans (low3 (by decide))))))))
  have eM : bits w 24 4 = 5 := hw ▸ (up1 (by decide)).trans ((up1 h_ub).trans ((up1 h_ua).trans ((up7 h_b).trans ((up7 h_a).trans ((up7 h_d).trans (low4 (by decide)))))))
  have eC : bits w 31 1 = bitOf ch := hw ▸ (up1 (by decide)).trans ((up1 h_ub).trans ((up1 h_ua).trans ((up7 h_b).trans ((up7 h_a).trans ((up7 h_d).trans ((up4 (by decide)).trans ((up3 (by decide)).trans (top1 hc))))))))
  have e_d : bits w 17 7 = d.toNat := hw ▸ (up1 (by decide)).trans ((up1 h_ub).trans ((up1 h_ua).trans ((up7 h_b).trans ((up7 h_a).trans (low7 h_d)))))
  have e_a : bits w 10 7 = a.toNat := hw ▸ (up1 (by decide)).trans ((up1 h_ub).trans ((up1 h_ua).trans ((up7 h_b).trans (low7 h_a))))
  have e_b : bits w 3 7 = b.toNat := hw ▸ (up1 (by decide)).trans ((up1 h_ub).trans ((up1 h_ua).trans (low7 h_b)))
  have e_ua : bits w 2 1 = bitOf ua := hw ▸ (up1 (by decide)).trans ((up1 h_ub).trans (low1 h_ua))
  have e_ub : bits w 1 1 = bitOf ub := hw ▸ (up1 (by decide)).trans (low1 h_ub)
  have x1 : bits w 0 1 = 0 := hw ▸ low1 (by decide)
  simp [decodeChainWord, decodeWord, decodeRow5, eH, eM, eC, e_d, e_a, e_b, e_ua, e_ub, x1, bitOf_beq]

theorem pub (a : BitVec 7) (ua : Bool) : Statement (.pub a ua) := by
  intro ch w h
  simp only [encodeChainWord, encode, Option.map_some, Option.some.injEq] at h
  have hc := bitOf_lt ch
  have h_a : a.toNat < 128 := a.isLt
  have h_ua := bitOf_lt ua
  have hw : w = (((((((bitOf ch) * 8 + 5) * 16 + 6) * 128 + 0) * 128 + a.toNat) * 128 + 0) * 2 + bitOf ua) * 4 + 0 := by omega
  have eH : bits w 28 3 = 5 := hw ▸ (up2 (by decide)).trans ((up1 h_ua).trans ((up7 (by decide)).trans ((up7 h_a).trans ((up7 (by decide)).trans ((up4 (by decide)).trans (low3 (by decide)))))))
  have eM : bits w 24 4 = 6 := hw ▸ (up2 (by decide)).trans ((up1 h_ua).trans ((up7 (by decide)).trans ((up7 h_a).trans ((up7 (by decide)).trans (low4 (by decide))))))
  have eC : bits w 31 1 = bitOf ch := hw ▸ (up2 (by decide)).trans ((up1 h_ua).trans ((up7 (by decide)).trans ((up7 h_a).trans ((up7 (by decide)).trans ((up4 (by decide)).trans ((up3 (by decide)).trans (top1 hc)))))))
  have e_a : bits w 10 7 = a.toNat := hw ▸ (up2 (by decide)).trans ((up1 h_ua).trans ((up7 (by decide)).trans (low7 h_a)))
  have e_ua : bits w 2 1 = bitOf ua := hw ▸ (up2 (by decide)).trans (low1 h_ua)
  have x1 : bits w 0 2 = 0 := hw ▸ low2 (by decide)
  have x2 : bits w 3 7 = 0 := hw ▸ (up2 (by decide)).trans ((up1 h_ua).trans (low7 (by decide)))
  have x3 : bits w 17 7 = 0 := hw ▸ (up2 (by decide)).trans ((up1 h_ua).trans ((up7 (by decide)).trans ((up7 h_a).trans (low7 (by decide)))))
  simp [decodeChainWord, decodeWord, decodeRow5, eH, eM, eC, e_a, e_ua, x1, x2, x3, bitOf_beq]

theorem disc (a : BitVec 7) (b : BitVec 7) (ua : Bool) (ub : Bool) : Statement (.disc a b ua ub) := by
  intro ch w h
  simp only [encodeChainWord, encode, Option.map_some, Option.some.injEq] at h
  have hc := bitOf_lt ch
  have h_a : a.toNat < 128 := a.isLt
  have h_b : b.toNat < 128 := b.isLt
  have h_ua := bitOf_lt ua
  have h_ub := bitOf_lt ub
  have hw : w = ((((((((bitOf ch) * 8 + 5) * 16 + 7) * 128 + 0) * 128 + a.toNat) * 128 + b.toNat) * 2 + bitOf ua) * 2 + bitOf ub) * 2 + 0 := by omega
  have eH : bits w 28 3 = 5 := hw ▸ (up1 (by decide)).trans ((up1 h_ub).trans ((up1 h_ua).trans ((up7 h_b).trans ((up7 h_a).trans ((up7 (by decide)).trans ((up4 (by decide)).trans (low3 (by decide))))))))
  have eM : bits w 24 4 = 7 := hw ▸ (up1 (by decide)).trans ((up1 h_ub).trans ((up1 h_ua).trans ((up7 h_b).trans ((up7 h_a).trans ((up7 (by decide)).trans (low4 (by decide)))))))
  have eC : bits w 31 1 = bitOf ch := hw ▸ (up1 (by decide)).trans ((up1 h_ub).trans ((up1 h_ua).trans ((up7 h_b).trans ((up7 h_a).trans ((up7 (by decide)).trans ((up4 (by decide)).trans ((up3 (by decide)).trans (top1 hc))))))))
  have e_a : bits w 10 7 = a.toNat := hw ▸ (up1 (by decide)).trans ((up1 h_ub).trans ((up1 h_ua).trans ((up7 h_b).trans (low7 h_a))))
  have e_b : bits w 3 7 = b.toNat := hw ▸ (up1 (by decide)).trans ((up1 h_ub).trans ((up1 h_ua).trans (low7 h_b)))
  have e_ua : bits w 2 1 = bitOf ua := hw ▸ (up1 (by decide)).trans ((up1 h_ub).trans (low1 h_ua))
  have e_ub : bits w 1 1 = bitOf ub := hw ▸ (up1 (by decide)).trans (low1 h_ub)
  have x1 : bits w 0 1 = 0 := hw ▸ low1 (by decide)
  have x2 : bits w 17 7 = 0 := hw ▸ (up1 (by decide)).trans ((up1 h_ub).trans ((up1 h_ua).trans ((up7 h_b).trans ((up7 h_a).trans (low7 (by decide))))))
  simp [decodeChainWord, decodeWord, decodeRow5, eH, eM, eC, e_a, e_b, e_ua, e_ub, x1, x2, bitOf_beq]

theorem pref (a : BitVec 7) (b : BitVec 7) (ua : Bool) (ub : Bool) : Statement (.pref a b ua ub) := by
  intro ch w h
  simp only [encodeChainWord, encode, Option.map_some, Option.some.injEq] at h
  have hc := bitOf_lt ch
  have h_a : a.toNat < 128 := a.isLt
  have h_b : b.toNat < 128 := b.isLt
  have h_ua := bitOf_lt ua
  have h_ub := bitOf_lt ub
  have hw : w = ((((((((bitOf ch) * 8 + 5) * 16 + 8) * 128 + 0) * 128 + a.toNat) * 128 + b.toNat) * 2 + bitOf ua) * 2 + bitOf ub) * 2 + 0 := by omega
  have eH : bits w 28 3 = 5 := hw ▸ (up1 (by decide)).trans ((up1 h_ub).trans ((up1 h_ua).trans ((up7 h_b).trans ((up7 h_a).trans ((up7 (by decide)).trans ((up4 (by decide)).trans (low3 (by decide))))))))
  have eM : bits w 24 4 = 8 := hw ▸ (up1 (by decide)).trans ((up1 h_ub).trans ((up1 h_ua).trans ((up7 h_b).trans ((up7 h_a).trans ((up7 (by decide)).trans (low4 (by decide)))))))
  have eC : bits w 31 1 = bitOf ch := hw ▸ (up1 (by decide)).trans ((up1 h_ub).trans ((up1 h_ua).trans ((up7 h_b).trans ((up7 h_a).trans ((up7 (by decide)).trans ((up4 (by decide)).trans ((up3 (by decide)).trans (top1 hc))))))))
  have e_a : bits w 10 7 = a.toNat := hw ▸ (up1 (by decide)).trans ((up1 h_ub).trans ((up1 h_ua).trans ((up7 h_b).trans (low7 h_a))))
  have e_b : bits w 3 7 = b.toNat := hw ▸ (up1 (by decide)).trans ((up1 h_ub).trans ((up1 h_ua).trans (low7 h_b)))
  have e_ua : bits w 2 1 = bitOf ua := hw ▸ (up1 (by decide)).trans ((up1 h_ub).trans (low1 h_ua))
  have e_ub : bits w 1 1 = bitOf ub := hw ▸ (up1 (by decide)).trans (low1 h_ub)
  have x1 : bits w 0 1 = 0 := hw ▸ low1 (by decide)
  have x2 : bits w 17 7 = 0 := hw ▸ (up1 (by decide)).trans ((up1 h_ub).trans ((up1 h_ua).trans ((up7 h_b).trans ((up7 h_a).trans (low7 (by decide))))))
  simp [decodeChainWord, decodeWord, decodeRow5, eH, eM, eC, e_a, e_b, e_ua, e_ub, x1, x2, bitOf_beq]

theorem smap (a : BitVec 7) (b : BitVec 7) (ua : Bool) (ub : Bool) : Statement (.smap a b ua ub) := by
  intro ch w h
  simp only [encodeChainWord, encode, Option.map_some, Option.some.injEq] at h
  have hc := bitOf_lt ch
  have h_a : a.toNat < 128 := a.isLt
  have h_b : b.toNat < 128 := b.isLt
  have h_ua := bitOf_lt ua
  have h_ub := bitOf_lt ub
  have hw : w = ((((((((bitOf ch) * 8 + 5) * 16 + 9) * 128 + 0) * 128 + a.toNat) * 128 + b.toNat) * 2 + bitOf ua) * 2 + bitOf ub) * 2 + 0 := by omega
  have eH : bits w 28 3 = 5 := hw ▸ (up1 (by decide)).trans ((up1 h_ub).trans ((up1 h_ua).trans ((up7 h_b).trans ((up7 h_a).trans ((up7 (by decide)).trans ((up4 (by decide)).trans (low3 (by decide))))))))
  have eM : bits w 24 4 = 9 := hw ▸ (up1 (by decide)).trans ((up1 h_ub).trans ((up1 h_ua).trans ((up7 h_b).trans ((up7 h_a).trans ((up7 (by decide)).trans (low4 (by decide)))))))
  have eC : bits w 31 1 = bitOf ch := hw ▸ (up1 (by decide)).trans ((up1 h_ub).trans ((up1 h_ua).trans ((up7 h_b).trans ((up7 h_a).trans ((up7 (by decide)).trans ((up4 (by decide)).trans ((up3 (by decide)).trans (top1 hc))))))))
  have e_a : bits w 10 7 = a.toNat := hw ▸ (up1 (by decide)).trans ((up1 h_ub).trans ((up1 h_ua).trans ((up7 h_b).trans (low7 h_a))))
  have e_b : bits w 3 7 = b.toNat := hw ▸ (up1 (by decide)).trans ((up1 h_ub).trans ((up1 h_ua).trans (low7 h_b)))
  have e_ua : bits w 2 1 = bitOf ua := hw ▸ (up1 (by decide)).trans ((up1 h_ub).trans (low1 h_ua))
  have e_ub : bits w 1 1 = bitOf ub := hw ▸ (up1 (by decide)).trans (low1 h_ub)
  have x1 : bits w 0 1 = 0 := hw ▸ low1 (by decide)
  have x2 : bits w 17 7 = 0 := hw ▸ (up1 (by decide)).trans ((up1 h_ub).trans ((up1 h_ua).trans ((up7 h_b).trans ((up7 h_a).trans (low7 (by decide))))))
  simp [decodeChainWord, decodeWord, decodeRow5, eH, eM, eC, e_a, e_b, e_ua, e_ub, x1, x2, bitOf_beq]

theorem sflush (a : BitVec 7) (b : BitVec 7) (ua : Bool) (ub : Bool) : Statement (.sflush a b ua ub) := by
  intro ch w h
  simp only [encodeChainWord, encode, Option.map_some, Option.some.injEq] at h
  have hc := bitOf_lt ch
  have h_a : a.toNat < 128 := a.isLt
  have h_b : b.toNat < 128 := b.isLt
  have h_ua := bitOf_lt ua
  have h_ub := bitOf_lt ub
  have hw : w = ((((((((bitOf ch) * 8 + 5) * 16 + 10) * 128 + 0) * 128 + a.toNat) * 128 + b.toNat) * 2 + bitOf ua) * 2 + bitOf ub) * 2 + 0 := by omega
  have eH : bits w 28 3 = 5 := hw ▸ (up1 (by decide)).trans ((up1 h_ub).trans ((up1 h_ua).trans ((up7 h_b).trans ((up7 h_a).trans ((up7 (by decide)).trans ((up4 (by decide)).trans (low3 (by decide))))))))
  have eM : bits w 24 4 = 10 := hw ▸ (up1 (by decide)).trans ((up1 h_ub).trans ((up1 h_ua).trans ((up7 h_b).trans ((up7 h_a).trans ((up7 (by decide)).trans (low4 (by decide)))))))
  have eC : bits w 31 1 = bitOf ch := hw ▸ (up1 (by decide)).trans ((up1 h_ub).trans ((up1 h_ua).trans ((up7 h_b).trans ((up7 h_a).trans ((up7 (by decide)).trans ((up4 (by decide)).trans ((up3 (by decide)).trans (top1 hc))))))))
  have e_a : bits w 10 7 = a.toNat := hw ▸ (up1 (by decide)).trans ((up1 h_ub).trans ((up1 h_ua).trans ((up7 h_b).trans (low7 h_a))))
  have e_b : bits w 3 7 = b.toNat := hw ▸ (up1 (by decide)).trans ((up1 h_ub).trans ((up1 h_ua).trans (low7 h_b)))
  have e_ua : bits w 2 1 = bitOf ua := hw ▸ (up1 (by decide)).trans ((up1 h_ub).trans (low1 h_ua))
  have e_ub : bits w 1 1 = bitOf ub := hw ▸ (up1 (by decide)).trans (low1 h_ub)
  have x1 : bits w 0 1 = 0 := hw ▸ low1 (by decide)
  have x2 : bits w 17 7 = 0 := hw ▸ (up1 (by decide)).trans ((up1 h_ub).trans ((up1 h_ua).trans ((up7 h_b).trans ((up7 h_a).trans (low7 (by decide))))))
  simp [decodeChainWord, decodeWord, decodeRow5, eH, eM, eC, e_a, e_b, e_ua, e_ub, x1, x2, bitOf_beq]

theorem sdrop (a : BitVec 7) (ua : Bool) : Statement (.sdrop a ua) := by
  intro ch w h
  simp only [encodeChainWord, encode, Option.map_some, Option.some.injEq] at h
  have hc := bitOf_lt ch
  have h_a : a.toNat < 128 := a.isLt
  have h_ua := bitOf_lt ua
  have hw : w = (((((((bitOf ch) * 8 + 5) * 16 + 11) * 128 + 0) * 128 + a.toNat) * 128 + 0) * 2 + bitOf ua) * 4 + 0 := by omega
  have eH : bits w 28 3 = 5 := hw ▸ (up2 (by decide)).trans ((up1 h_ua).trans ((up7 (by decide)).trans ((up7 h_a).trans ((up7 (by decide)).trans ((up4 (by decide)).trans (low3 (by decide)))))))
  have eM : bits w 24 4 = 11 := hw ▸ (up2 (by decide)).trans ((up1 h_ua).trans ((up7 (by decide)).trans ((up7 h_a).trans ((up7 (by decide)).trans (low4 (by decide))))))
  have eC : bits w 31 1 = bitOf ch := hw ▸ (up2 (by decide)).trans ((up1 h_ua).trans ((up7 (by decide)).trans ((up7 h_a).trans ((up7 (by decide)).trans ((up4 (by decide)).trans ((up3 (by decide)).trans (top1 hc)))))))
  have e_a : bits w 10 7 = a.toNat := hw ▸ (up2 (by decide)).trans ((up1 h_ua).trans ((up7 (by decide)).trans (low7 h_a)))
  have e_ua : bits w 2 1 = bitOf ua := hw ▸ (up2 (by decide)).trans (low1 h_ua)
  have x1 : bits w 0 2 = 0 := hw ▸ low2 (by decide)
  have x2 : bits w 3 7 = 0 := hw ▸ (up2 (by decide)).trans ((up1 h_ua).trans (low7 (by decide)))
  have x3 : bits w 17 7 = 0 := hw ▸ (up2 (by decide)).trans ((up1 h_ua).trans ((up7 (by decide)).trans ((up7 h_a).trans (low7 (by decide)))))
  simp [decodeChainWord, decodeWord, decodeRow5, eH, eM, eC, e_a, e_ua, x1, x2, x3, bitOf_beq]

theorem tilev (a : BitVec 7) (b : BitVec 7) (ua : Bool) (ub : Bool) : Statement (.tilev a b ua ub) := by
  intro ch w h
  simp only [encodeChainWord, encode, Option.map_some, Option.some.injEq] at h
  have hc := bitOf_lt ch
  have h_a : a.toNat < 128 := a.isLt
  have h_b : b.toNat < 128 := b.isLt
  have h_ua := bitOf_lt ua
  have h_ub := bitOf_lt ub
  have hw : w = ((((((((bitOf ch) * 8 + 5) * 16 + 12) * 128 + 0) * 128 + a.toNat) * 128 + b.toNat) * 2 + bitOf ua) * 2 + bitOf ub) * 2 + 0 := by omega
  have eH : bits w 28 3 = 5 := hw ▸ (up1 (by decide)).trans ((up1 h_ub).trans ((up1 h_ua).trans ((up7 h_b).trans ((up7 h_a).trans ((up7 (by decide)).trans ((up4 (by decide)).trans (low3 (by decide))))))))
  have eM : bits w 24 4 = 12 := hw ▸ (up1 (by decide)).trans ((up1 h_ub).trans ((up1 h_ua).trans ((up7 h_b).trans ((up7 h_a).trans ((up7 (by decide)).trans (low4 (by decide)))))))
  have eC : bits w 31 1 = bitOf ch := hw ▸ (up1 (by decide)).trans ((up1 h_ub).trans ((up1 h_ua).trans ((up7 h_b).trans ((up7 h_a).trans ((up7 (by decide)).trans ((up4 (by decide)).trans ((up3 (by decide)).trans (top1 hc))))))))
  have e_a : bits w 10 7 = a.toNat := hw ▸ (up1 (by decide)).trans ((up1 h_ub).trans ((up1 h_ua).trans ((up7 h_b).trans (low7 h_a))))
  have e_b : bits w 3 7 = b.toNat := hw ▸ (up1 (by decide)).trans ((up1 h_ub).trans ((up1 h_ua).trans (low7 h_b)))
  have e_ua : bits w 2 1 = bitOf ua := hw ▸ (up1 (by decide)).trans ((up1 h_ub).trans (low1 h_ua))
  have e_ub : bits w 1 1 = bitOf ub := hw ▸ (up1 (by decide)).trans (low1 h_ub)
  have x1 : bits w 0 1 = 0 := hw ▸ low1 (by decide)
  have x2 : bits w 17 7 = 0 := hw ▸ (up1 (by decide)).trans ((up1 h_ub).trans ((up1 h_ua).trans ((up7 h_b).trans ((up7 h_a).trans (low7 (by decide))))))
  simp [decodeChainWord, decodeWord, decodeRow5, eH, eM, eC, e_a, e_b, e_ua, e_ub, x1, x2, bitOf_beq]

theorem tilec (a : BitVec 7) (b : BitVec 7) (ua : Bool) (ub : Bool) : Statement (.tilec a b ua ub) := by
  intro ch w h
  simp only [encodeChainWord, encode, Option.map_some, Option.some.injEq] at h
  have hc := bitOf_lt ch
  have h_a : a.toNat < 128 := a.isLt
  have h_b : b.toNat < 128 := b.isLt
  have h_ua := bitOf_lt ua
  have h_ub := bitOf_lt ub
  have hw : w = ((((((((bitOf ch) * 8 + 5) * 16 + 13) * 128 + 0) * 128 + a.toNat) * 128 + b.toNat) * 2 + bitOf ua) * 2 + bitOf ub) * 2 + 0 := by omega
  have eH : bits w 28 3 = 5 := hw ▸ (up1 (by decide)).trans ((up1 h_ub).trans ((up1 h_ua).trans ((up7 h_b).trans ((up7 h_a).trans ((up7 (by decide)).trans ((up4 (by decide)).trans (low3 (by decide))))))))
  have eM : bits w 24 4 = 13 := hw ▸ (up1 (by decide)).trans ((up1 h_ub).trans ((up1 h_ua).trans ((up7 h_b).trans ((up7 h_a).trans ((up7 (by decide)).trans (low4 (by decide)))))))
  have eC : bits w 31 1 = bitOf ch := hw ▸ (up1 (by decide)).trans ((up1 h_ub).trans ((up1 h_ua).trans ((up7 h_b).trans ((up7 h_a).trans ((up7 (by decide)).trans ((up4 (by decide)).trans ((up3 (by decide)).trans (top1 hc))))))))
  have e_a : bits w 10 7 = a.toNat := hw ▸ (up1 (by decide)).trans ((up1 h_ub).trans ((up1 h_ua).trans ((up7 h_b).trans (low7 h_a))))
  have e_b : bits w 3 7 = b.toNat := hw ▸ (up1 (by decide)).trans ((up1 h_ub).trans ((up1 h_ua).trans (low7 h_b)))
  have e_ua : bits w 2 1 = bitOf ua := hw ▸ (up1 (by decide)).trans ((up1 h_ub).trans (low1 h_ua))
  have e_ub : bits w 1 1 = bitOf ub := hw ▸ (up1 (by decide)).trans (low1 h_ub)
  have x1 : bits w 0 1 = 0 := hw ▸ low1 (by decide)
  have x2 : bits w 17 7 = 0 := hw ▸ (up1 (by decide)).trans ((up1 h_ub).trans ((up1 h_ua).trans ((up7 h_b).trans ((up7 h_a).trans (low7 (by decide))))))
  simp [decodeChainWord, decodeWord, decodeRow5, eH, eM, eC, e_a, e_b, e_ua, e_ub, x1, x2, bitOf_beq]

theorem tileclr (a : BitVec 7) (b : BitVec 7) (ua : Bool) (ub : Bool) : Statement (.tileclr a b ua ub) := by
  intro ch w h
  simp only [encodeChainWord, encode, Option.map_some, Option.some.injEq] at h
  have hc := bitOf_lt ch
  have h_a : a.toNat < 128 := a.isLt
  have h_b : b.toNat < 128 := b.isLt
  have h_ua := bitOf_lt ua
  have h_ub := bitOf_lt ub
  have hw : w = ((((((((bitOf ch) * 8 + 5) * 16 + 14) * 128 + 0) * 128 + a.toNat) * 128 + b.toNat) * 2 + bitOf ua) * 2 + bitOf ub) * 2 + 0 := by omega
  have eH : bits w 28 3 = 5 := hw ▸ (up1 (by decide)).trans ((up1 h_ub).trans ((up1 h_ua).trans ((up7 h_b).trans ((up7 h_a).trans ((up7 (by decide)).trans ((up4 (by decide)).trans (low3 (by decide))))))))
  have eM : bits w 24 4 = 14 := hw ▸ (up1 (by decide)).trans ((up1 h_ub).trans ((up1 h_ua).trans ((up7 h_b).trans ((up7 h_a).trans ((up7 (by decide)).trans (low4 (by decide)))))))
  have eC : bits w 31 1 = bitOf ch := hw ▸ (up1 (by decide)).trans ((up1 h_ub).trans ((up1 h_ua).trans ((up7 h_b).trans ((up7 h_a).trans ((up7 (by decide)).trans ((up4 (by decide)).trans ((up3 (by decide)).trans (top1 hc))))))))
  have e_a : bits w 10 7 = a.toNat := hw ▸ (up1 (by decide)).trans ((up1 h_ub).trans ((up1 h_ua).trans ((up7 h_b).trans (low7 h_a))))
  have e_b : bits w 3 7 = b.toNat := hw ▸ (up1 (by decide)).trans ((up1 h_ub).trans ((up1 h_ua).trans (low7 h_b)))
  have e_ua : bits w 2 1 = bitOf ua := hw ▸ (up1 (by decide)).trans ((up1 h_ub).trans (low1 h_ua))
  have e_ub : bits w 1 1 = bitOf ub := hw ▸ (up1 (by decide)).trans (low1 h_ub)
  have x1 : bits w 0 1 = 0 := hw ▸ low1 (by decide)
  have x2 : bits w 17 7 = 0 := hw ▸ (up1 (by decide)).trans ((up1 h_ub).trans ((up1 h_ua).trans ((up7 h_b).trans ((up7 h_a).trans (low7 (by decide))))))
  simp [decodeChainWord, decodeWord, decodeRow5, eH, eM, eC, e_a, e_b, e_ua, e_ub, x1, x2, bitOf_beq]

theorem coll (d : BitVec 7) (a : BitVec 7) (b : BitVec 7) (ua : Bool) (ub : Bool) : Statement (.coll d a b ua ub) := by
  intro ch w h
  simp only [encodeChainWord, encode, Option.map_some, Option.some.injEq] at h
  have hc := bitOf_lt ch
  have h_d : d.toNat < 128 := d.isLt
  have h_a : a.toNat < 128 := a.isLt
  have h_b : b.toNat < 128 := b.isLt
  have h_ua := bitOf_lt ua
  have h_ub := bitOf_lt ub
  have hw : w = ((((((((bitOf ch) * 8 + 5) * 16 + 15) * 128 + d.toNat) * 128 + a.toNat) * 128 + b.toNat) * 2 + bitOf ua) * 2 + bitOf ub) * 2 + 0 := by omega
  have eH : bits w 28 3 = 5 := hw ▸ (up1 (by decide)).trans ((up1 h_ub).trans ((up1 h_ua).trans ((up7 h_b).trans ((up7 h_a).trans ((up7 h_d).trans ((up4 (by decide)).trans (low3 (by decide))))))))
  have eM : bits w 24 4 = 15 := hw ▸ (up1 (by decide)).trans ((up1 h_ub).trans ((up1 h_ua).trans ((up7 h_b).trans ((up7 h_a).trans ((up7 h_d).trans (low4 (by decide)))))))
  have eC : bits w 31 1 = bitOf ch := hw ▸ (up1 (by decide)).trans ((up1 h_ub).trans ((up1 h_ua).trans ((up7 h_b).trans ((up7 h_a).trans ((up7 h_d).trans ((up4 (by decide)).trans ((up3 (by decide)).trans (top1 hc))))))))
  have e_d : bits w 17 7 = d.toNat := hw ▸ (up1 (by decide)).trans ((up1 h_ub).trans ((up1 h_ua).trans ((up7 h_b).trans ((up7 h_a).trans (low7 h_d)))))
  have e_a : bits w 10 7 = a.toNat := hw ▸ (up1 (by decide)).trans ((up1 h_ub).trans ((up1 h_ua).trans ((up7 h_b).trans (low7 h_a))))
  have e_b : bits w 3 7 = b.toNat := hw ▸ (up1 (by decide)).trans ((up1 h_ub).trans ((up1 h_ua).trans (low7 h_b)))
  have e_ua : bits w 2 1 = bitOf ua := hw ▸ (up1 (by decide)).trans ((up1 h_ub).trans (low1 h_ua))
  have e_ub : bits w 1 1 = bitOf ub := hw ▸ (up1 (by decide)).trans (low1 h_ub)
  have x1 : bits w 0 1 = 0 := hw ▸ low1 (by decide)
  simp [decodeChainWord, decodeWord, decodeRow5, eH, eM, eC, e_d, e_a, e_b, e_ua, e_ub, x1, bitOf_beq]

theorem br (p : BitVec 7) (off : BitVec 15) (slot : BitVec 2) : Statement (.br p off slot) := by
  intro ch w h
  simp only [encodeChainWord, encode, Option.map_some, Option.some.injEq] at h
  have hc := bitOf_lt ch
  have h_p : p.toNat < 128 := p.isLt
  have h_off : off.toNat < 32768 := off.isLt
  have h_slot : slot.toNat < 4 := slot.isLt
  have hw : w = (((((bitOf ch) * 8 + 6) * 16 + 0) * 128 + p.toNat) * 32768 + off.toNat) * 4 + slot.toNat := by omega
  have eH : bits w 28 3 = 6 := hw ▸ (up2 h_slot).trans ((up15 h_off).trans ((up7 h_p).trans ((up4 (by decide)).trans (low3 (by decide)))))
  have eM : bits w 24 4 = 0 := hw ▸ (up2 h_slot).trans ((up15 h_off).trans ((up7 h_p).trans (low4 (by decide))))
  have eC : bits w 31 1 = bitOf ch := hw ▸ (up2 h_slot).trans ((up15 h_off).trans ((up7 h_p).trans ((up4 (by decide)).trans ((up3 (by decide)).trans (top1 hc)))))
  have e_p : bits w 17 7 = p.toNat := hw ▸ (up2 h_slot).trans ((up15 h_off).trans (low7 h_p))
  have e_off : bits w 2 15 = off.toNat := hw ▸ (up2 h_slot).trans (low15 h_off)
  have e_slot : bits w 0 2 = slot.toNat := hw ▸ low2 h_slot
  simp [decodeChainWord, decodeWord, decodeRow6, eH, eM, eC, e_p, e_off, e_slot, bitOf_beq]

theorem brz (p : BitVec 7) (off : BitVec 15) (slot : BitVec 2) : Statement (.brz p off slot) := by
  intro ch w h
  simp only [encodeChainWord, encode, Option.map_some, Option.some.injEq] at h
  have hc := bitOf_lt ch
  have h_p : p.toNat < 128 := p.isLt
  have h_off : off.toNat < 32768 := off.isLt
  have h_slot : slot.toNat < 4 := slot.isLt
  have hw : w = (((((bitOf ch) * 8 + 6) * 16 + 1) * 128 + p.toNat) * 32768 + off.toNat) * 4 + slot.toNat := by omega
  have eH : bits w 28 3 = 6 := hw ▸ (up2 h_slot).trans ((up15 h_off).trans ((up7 h_p).trans ((up4 (by decide)).trans (low3 (by decide)))))
  have eM : bits w 24 4 = 1 := hw ▸ (up2 h_slot).trans ((up15 h_off).trans ((up7 h_p).trans (low4 (by decide))))
  have eC : bits w 31 1 = bitOf ch := hw ▸ (up2 h_slot).trans ((up15 h_off).trans ((up7 h_p).trans ((up4 (by decide)).trans ((up3 (by decide)).trans (top1 hc)))))
  have e_p : bits w 17 7 = p.toNat := hw ▸ (up2 h_slot).trans ((up15 h_off).trans (low7 h_p))
  have e_off : bits w 2 15 = off.toNat := hw ▸ (up2 h_slot).trans (low15 h_off)
  have e_slot : bits w 0 2 = slot.toNat := hw ▸ low2 h_slot
  simp [decodeChainWord, decodeWord, decodeRow6, eH, eM, eC, e_p, e_off, e_slot, bitOf_beq]

theorem jmp (off : BitVec 15) (slot : BitVec 2) : Statement (.jmp off slot) := by
  intro ch w h
  simp only [encodeChainWord, encode, Option.map_some, Option.some.injEq] at h
  have hc := bitOf_lt ch
  have h_off : off.toNat < 32768 := off.isLt
  have h_slot : slot.toNat < 4 := slot.isLt
  have hw : w = (((((bitOf ch) * 8 + 6) * 16 + 2) * 128 + 0) * 32768 + off.toNat) * 4 + slot.toNat := by omega
  have eH : bits w 28 3 = 6 := hw ▸ (up2 h_slot).trans ((up15 h_off).trans ((up7 (by decide)).trans ((up4 (by decide)).trans (low3 (by decide)))))
  have eM : bits w 24 4 = 2 := hw ▸ (up2 h_slot).trans ((up15 h_off).trans ((up7 (by decide)).trans (low4 (by decide))))
  have eC : bits w 31 1 = bitOf ch := hw ▸ (up2 h_slot).trans ((up15 h_off).trans ((up7 (by decide)).trans ((up4 (by decide)).trans ((up3 (by decide)).trans (top1 hc)))))
  have e_off : bits w 2 15 = off.toNat := hw ▸ (up2 h_slot).trans (low15 h_off)
  have e_slot : bits w 0 2 = slot.toNat := hw ▸ low2 h_slot
  have x1 : bits w 17 7 = 0 := hw ▸ (up2 h_slot).trans ((up15 h_off).trans (low7 (by decide)))
  simp [decodeChainWord, decodeWord, decodeRow6, eH, eM, eC, e_off, e_slot, x1, bitOf_beq]

theorem call (p : BitVec 7) (off : BitVec 15) (slot : BitVec 2) : Statement (.call p off slot) := by
  intro ch w h
  simp only [encodeChainWord, encode, Option.map_some, Option.some.injEq] at h
  have hc := bitOf_lt ch
  have h_p : p.toNat < 128 := p.isLt
  have h_off : off.toNat < 32768 := off.isLt
  have h_slot : slot.toNat < 4 := slot.isLt
  have hw : w = (((((bitOf ch) * 8 + 6) * 16 + 3) * 128 + p.toNat) * 32768 + off.toNat) * 4 + slot.toNat := by omega
  have eH : bits w 28 3 = 6 := hw ▸ (up2 h_slot).trans ((up15 h_off).trans ((up7 h_p).trans ((up4 (by decide)).trans (low3 (by decide)))))
  have eM : bits w 24 4 = 3 := hw ▸ (up2 h_slot).trans ((up15 h_off).trans ((up7 h_p).trans (low4 (by decide))))
  have eC : bits w 31 1 = bitOf ch := hw ▸ (up2 h_slot).trans ((up15 h_off).trans ((up7 h_p).trans ((up4 (by decide)).trans ((up3 (by decide)).trans (top1 hc)))))
  have e_p : bits w 17 7 = p.toNat := hw ▸ (up2 h_slot).trans ((up15 h_off).trans (low7 h_p))
  have e_off : bits w 2 15 = off.toNat := hw ▸ (up2 h_slot).trans (low15 h_off)
  have e_slot : bits w 0 2 = slot.toNat := hw ▸ low2 h_slot
  simp [decodeChainWord, decodeWord, decodeRow6, eH, eM, eC, e_p, e_off, e_slot, bitOf_beq]

theorem rbeg (p : BitVec 7) (off : BitVec 15) (slot : BitVec 2) : Statement (.rbeg p off slot) := by
  intro ch w h
  simp only [encodeChainWord, encode, Option.map_some, Option.some.injEq] at h
  have hc := bitOf_lt ch
  have h_p : p.toNat < 128 := p.isLt
  have h_off : off.toNat < 32768 := off.isLt
  have h_slot : slot.toNat < 4 := slot.isLt
  have hw : w = (((((bitOf ch) * 8 + 6) * 16 + 4) * 128 + p.toNat) * 32768 + off.toNat) * 4 + slot.toNat := by omega
  have eH : bits w 28 3 = 6 := hw ▸ (up2 h_slot).trans ((up15 h_off).trans ((up7 h_p).trans ((up4 (by decide)).trans (low3 (by decide)))))
  have eM : bits w 24 4 = 4 := hw ▸ (up2 h_slot).trans ((up15 h_off).trans ((up7 h_p).trans (low4 (by decide))))
  have eC : bits w 31 1 = bitOf ch := hw ▸ (up2 h_slot).trans ((up15 h_off).trans ((up7 h_p).trans ((up4 (by decide)).trans ((up3 (by decide)).trans (top1 hc)))))
  have e_p : bits w 17 7 = p.toNat := hw ▸ (up2 h_slot).trans ((up15 h_off).trans (low7 h_p))
  have e_off : bits w 2 15 = off.toNat := hw ▸ (up2 h_slot).trans (low15 h_off)
  have e_slot : bits w 0 2 = slot.toNat := hw ▸ low2 h_slot
  simp [decodeChainWord, decodeWord, decodeRow6, eH, eM, eC, e_p, e_off, e_slot, bitOf_beq]

theorem jr (a : BitVec 7) (ua : Bool) : Statement (.jr a ua) := by
  intro ch w h
  simp only [encodeChainWord, encode, Option.map_some, Option.some.injEq] at h
  have hc := bitOf_lt ch
  have h_a : a.toNat < 128 := a.isLt
  have h_ua := bitOf_lt ua
  have hw : w = (((((((bitOf ch) * 8 + 6) * 16 + 5) * 128 + 0) * 128 + a.toNat) * 128 + 0) * 2 + bitOf ua) * 4 + 0 := by omega
  have eH : bits w 28 3 = 6 := hw ▸ (up2 (by decide)).trans ((up1 h_ua).trans ((up7 (by decide)).trans ((up7 h_a).trans ((up7 (by decide)).trans ((up4 (by decide)).trans (low3 (by decide)))))))
  have eM : bits w 24 4 = 5 := hw ▸ (up2 (by decide)).trans ((up1 h_ua).trans ((up7 (by decide)).trans ((up7 h_a).trans ((up7 (by decide)).trans (low4 (by decide))))))
  have eC : bits w 31 1 = bitOf ch := hw ▸ (up2 (by decide)).trans ((up1 h_ua).trans ((up7 (by decide)).trans ((up7 h_a).trans ((up7 (by decide)).trans ((up4 (by decide)).trans ((up3 (by decide)).trans (top1 hc)))))))
  have e_a : bits w 10 7 = a.toNat := hw ▸ (up2 (by decide)).trans ((up1 h_ua).trans ((up7 (by decide)).trans (low7 h_a)))
  have e_ua : bits w 2 1 = bitOf ua := hw ▸ (up2 (by decide)).trans (low1 h_ua)
  have x1 : bits w 0 2 = 0 := hw ▸ low2 (by decide)
  have x2 : bits w 3 7 = 0 := hw ▸ (up2 (by decide)).trans ((up1 h_ua).trans (low7 (by decide)))
  have x3 : bits w 17 7 = 0 := hw ▸ (up2 (by decide)).trans ((up1 h_ua).trans ((up7 (by decide)).trans ((up7 h_a).trans (low7 (by decide)))))
  simp [decodeChainWord, decodeWord, decodeRow6, eH, eM, eC, e_a, e_ua, x1, x2, x3, bitOf_beq]

theorem ret (a : BitVec 7) (ua : Bool) : Statement (.ret a ua) := by
  intro ch w h
  simp only [encodeChainWord, encode, Option.map_some, Option.some.injEq] at h
  have hc := bitOf_lt ch
  have h_a : a.toNat < 128 := a.isLt
  have h_ua := bitOf_lt ua
  have hw : w = (((((((bitOf ch) * 8 + 6) * 16 + 5) * 128 + 0) * 128 + a.toNat) * 128 + 0) * 2 + bitOf ua) * 4 + 1 := by omega
  have eH : bits w 28 3 = 6 := hw ▸ (up2 (by decide)).trans ((up1 h_ua).trans ((up7 (by decide)).trans ((up7 h_a).trans ((up7 (by decide)).trans ((up4 (by decide)).trans (low3 (by decide)))))))
  have eM : bits w 24 4 = 5 := hw ▸ (up2 (by decide)).trans ((up1 h_ua).trans ((up7 (by decide)).trans ((up7 h_a).trans ((up7 (by decide)).trans (low4 (by decide))))))
  have eC : bits w 31 1 = bitOf ch := hw ▸ (up2 (by decide)).trans ((up1 h_ua).trans ((up7 (by decide)).trans ((up7 h_a).trans ((up7 (by decide)).trans ((up4 (by decide)).trans ((up3 (by decide)).trans (top1 hc)))))))
  have e_a : bits w 10 7 = a.toNat := hw ▸ (up2 (by decide)).trans ((up1 h_ua).trans ((up7 (by decide)).trans (low7 h_a)))
  have e_ua : bits w 2 1 = bitOf ua := hw ▸ (up2 (by decide)).trans (low1 h_ua)
  have x1 : bits w 0 2 = 1 := hw ▸ low2 (by decide)
  have x2 : bits w 3 7 = 0 := hw ▸ (up2 (by decide)).trans ((up1 h_ua).trans (low7 (by decide)))
  have x3 : bits w 17 7 = 0 := hw ▸ (up2 (by decide)).trans ((up1 h_ua).trans ((up7 (by decide)).trans ((up7 h_a).trans (low7 (by decide)))))
  simp [decodeChainWord, decodeWord, decodeRow6, eH, eM, eC, e_a, e_ua, x1, x2, x3, bitOf_beq]

theorem exit : Statement (.exit) := by
  intro ch w h
  simp only [encodeChainWord, encode, Option.map_some, Option.some.injEq] at h
  have hc := bitOf_lt ch
  have hw : w = (((bitOf ch) * 8 + 6) * 16 + 6) * 16777216 + 0 := by omega
  have eH : bits w 28 3 = 6 := hw ▸ (up24 (by decide)).trans ((up4 (by decide)).trans (low3 (by decide)))
  have eM : bits w 24 4 = 6 := hw ▸ (up24 (by decide)).trans (low4 (by decide))
  have eC : bits w 31 1 = bitOf ch := hw ▸ (up24 (by decide)).trans ((up4 (by decide)).trans ((up3 (by decide)).trans (top1 hc)))
  have x1 : bits w 0 24 = 0 := hw ▸ low24 (by decide)
  simp [decodeChainWord, decodeWord, decodeRow6, eH, eM, eC, x1, bitOf_beq]

theorem yield : Statement (.yield) := by
  intro ch w h
  simp only [encodeChainWord, encode, Option.map_some, Option.some.injEq] at h
  have hc := bitOf_lt ch
  have hw : w = (((bitOf ch) * 8 + 6) * 16 + 6) * 16777216 + 1 := by omega
  have eH : bits w 28 3 = 6 := hw ▸ (up24 (by decide)).trans ((up4 (by decide)).trans (low3 (by decide)))
  have eM : bits w 24 4 = 6 := hw ▸ (up24 (by decide)).trans (low4 (by decide))
  have eC : bits w 31 1 = bitOf ch := hw ▸ (up24 (by decide)).trans ((up4 (by decide)).trans ((up3 (by decide)).trans (top1 hc)))
  have x1 : bits w 0 24 = 1 := hw ▸ low24 (by decide)
  simp [decodeChainWord, decodeWord, decodeRow6, eH, eM, eC, x1, bitOf_beq]

theorem idem : Statement (.idem) := by
  intro ch w h
  simp only [encodeChainWord, encode, Option.map_some, Option.some.injEq] at h
  have hc := bitOf_lt ch
  have hw : w = (((bitOf ch) * 8 + 6) * 16 + 6) * 16777216 + 2 := by omega
  have eH : bits w 28 3 = 6 := hw ▸ (up24 (by decide)).trans ((up4 (by decide)).trans (low3 (by decide)))
  have eM : bits w 24 4 = 6 := hw ▸ (up24 (by decide)).trans (low4 (by decide))
  have eC : bits w 31 1 = bitOf ch := hw ▸ (up24 (by decide)).trans ((up4 (by decide)).trans ((up3 (by decide)).trans (top1 hc)))
  have x1 : bits w 0 24 = 2 := hw ▸ low24 (by decide)
  simp [decodeChainWord, decodeWord, decodeRow6, eH, eM, eC, x1, bitOf_beq]

theorem tret : Statement (.tret) := by
  intro ch w h
  simp only [encodeChainWord, encode, Option.map_some, Option.some.injEq] at h
  have hc := bitOf_lt ch
  have hw : w = (((bitOf ch) * 8 + 6) * 16 + 6) * 16777216 + 3 := by omega
  have eH : bits w 28 3 = 6 := hw ▸ (up24 (by decide)).trans ((up4 (by decide)).trans (low3 (by decide)))
  have eM : bits w 24 4 = 6 := hw ▸ (up24 (by decide)).trans (low4 (by decide))
  have eC : bits w 31 1 = bitOf ch := hw ▸ (up24 (by decide)).trans ((up4 (by decide)).trans ((up3 (by decide)).trans (top1 hc)))
  have x1 : bits w 0 24 = 3 := hw ▸ low24 (by decide)
  simp [decodeChainWord, decodeWord, decodeRow6, eH, eM, eC, x1, bitOf_beq]

theorem tabn : Statement (.tabn) := by
  intro ch w h
  simp only [encodeChainWord, encode, Option.map_some, Option.some.injEq] at h
  have hc := bitOf_lt ch
  have hw : w = (((bitOf ch) * 8 + 6) * 16 + 6) * 16777216 + 4 := by omega
  have eH : bits w 28 3 = 6 := hw ▸ (up24 (by decide)).trans ((up4 (by decide)).trans (low3 (by decide)))
  have eM : bits w 24 4 = 6 := hw ▸ (up24 (by decide)).trans (low4 (by decide))
  have eC : bits w 31 1 = bitOf ch := hw ▸ (up24 (by decide)).trans ((up4 (by decide)).trans ((up3 (by decide)).trans (top1 hc)))
  have x1 : bits w 0 24 = 4 := hw ▸ low24 (by decide)
  simp [decodeChainWord, decodeWord, decodeRow6, eH, eM, eC, x1, bitOf_beq]

theorem tkill : Statement (.tkill) := by
  intro ch w h
  simp only [encodeChainWord, encode, Option.map_some, Option.some.injEq] at h
  have hc := bitOf_lt ch
  have hw : w = (((bitOf ch) * 8 + 6) * 16 + 6) * 16777216 + 5 := by omega
  have eH : bits w 28 3 = 6 := hw ▸ (up24 (by decide)).trans ((up4 (by decide)).trans (low3 (by decide)))
  have eM : bits w 24 4 = 6 := hw ▸ (up24 (by decide)).trans (low4 (by decide))
  have eC : bits w 31 1 = bitOf ch := hw ▸ (up24 (by decide)).trans ((up4 (by decide)).trans ((up3 (by decide)).trans (top1 hc)))
  have x1 : bits w 0 24 = 5 := hw ▸ low24 (by decide)
  simp [decodeChainWord, decodeWord, decodeRow6, eH, eM, eC, x1, bitOf_beq]

theorem rcmt : Statement (.rcmt) := by
  intro ch w h
  simp only [encodeChainWord, encode, Option.map_some, Option.some.injEq] at h
  have hc := bitOf_lt ch
  have hw : w = (((bitOf ch) * 8 + 6) * 16 + 6) * 16777216 + 6 := by omega
  have eH : bits w 28 3 = 6 := hw ▸ (up24 (by decide)).trans ((up4 (by decide)).trans (low3 (by decide)))
  have eM : bits w 24 4 = 6 := hw ▸ (up24 (by decide)).trans (low4 (by decide))
  have eC : bits w 31 1 = bitOf ch := hw ▸ (up24 (by decide)).trans ((up4 (by decide)).trans ((up3 (by decide)).trans (top1 hc)))
  have x1 : bits w 0 24 = 6 := hw ▸ low24 (by decide)
  simp [decodeChainWord, decodeWord, decodeRow6, eH, eM, eC, x1, bitOf_beq]

theorem rabt : Statement (.rabt) := by
  intro ch w h
  simp only [encodeChainWord, encode, Option.map_some, Option.some.injEq] at h
  have hc := bitOf_lt ch
  have hw : w = (((bitOf ch) * 8 + 6) * 16 + 6) * 16777216 + 7 := by omega
  have eH : bits w 28 3 = 6 := hw ▸ (up24 (by decide)).trans ((up4 (by decide)).trans (low3 (by decide)))
  have eM : bits w 24 4 = 6 := hw ▸ (up24 (by decide)).trans (low4 (by decide))
  have eC : bits w 31 1 = bitOf ch := hw ▸ (up24 (by decide)).trans ((up4 (by decide)).trans ((up3 (by decide)).trans (top1 hc)))
  have x1 : bits w 0 24 = 7 := hw ▸ low24 (by decide)
  simp [decodeChainWord, decodeWord, decodeRow6, eH, eM, eC, x1, bitOf_beq]

theorem rds (d : BitVec 7) (imm : BitVec 10) : Statement (.rds d imm) := by
  intro ch w h
  simp only [encodeChainWord, encode, Option.map_some, Option.some.injEq] at h
  have hc := bitOf_lt ch
  have h_d : d.toNat < 128 := d.isLt
  have h_imm : imm.toNat < 1024 := imm.isLt
  have hw : w = (((((bitOf ch) * 8 + 6) * 16 + 7) * 128 + d.toNat) * 128 + 0) * 1024 + imm.toNat := by omega
  have eH : bits w 28 3 = 6 := hw ▸ (up10 h_imm).trans ((up7 (by decide)).trans ((up7 h_d).trans ((up4 (by decide)).trans (low3 (by decide)))))
  have eM : bits w 24 4 = 7 := hw ▸ (up10 h_imm).trans ((up7 (by decide)).trans ((up7 h_d).trans (low4 (by decide))))
  have eC : bits w 31 1 = bitOf ch := hw ▸ (up10 h_imm).trans ((up7 (by decide)).trans ((up7 h_d).trans ((up4 (by decide)).trans ((up3 (by decide)).trans (top1 hc)))))
  have e_d : bits w 17 7 = d.toNat := hw ▸ (up10 h_imm).trans ((up7 (by decide)).trans (low7 h_d))
  have e_imm : bits w 0 10 = imm.toNat := hw ▸ low10 h_imm
  have x1 : bits w 10 7 = 0 := hw ▸ (up10 h_imm).trans (low7 (by decide))
  simp [decodeChainWord, decodeWord, decodeRow6, eH, eM, eC, e_d, e_imm, x1, bitOf_beq]

theorem wrs (a : BitVec 7) (imm : BitVec 10) : Statement (.wrs a imm) := by
  intro ch w h
  simp only [encodeChainWord, encode, Option.map_some, Option.some.injEq] at h
  have hc := bitOf_lt ch
  have h_a : a.toNat < 128 := a.isLt
  have h_imm : imm.toNat < 1024 := imm.isLt
  have hw : w = (((((bitOf ch) * 8 + 6) * 16 + 8) * 128 + 0) * 128 + a.toNat) * 1024 + imm.toNat := by omega
  have eH : bits w 28 3 = 6 := hw ▸ (up10 h_imm).trans ((up7 h_a).trans ((up7 (by decide)).trans ((up4 (by decide)).trans (low3 (by decide)))))
  have eM : bits w 24 4 = 8 := hw ▸ (up10 h_imm).trans ((up7 h_a).trans ((up7 (by decide)).trans (low4 (by decide))))
  have eC : bits w 31 1 = bitOf ch := hw ▸ (up10 h_imm).trans ((up7 h_a).trans ((up7 (by decide)).trans ((up4 (by decide)).trans ((up3 (by decide)).trans (top1 hc)))))
  have e_a : bits w 10 7 = a.toNat := hw ▸ (up10 h_imm).trans (low7 h_a)
  have e_imm : bits w 0 10 = imm.toNat := hw ▸ low10 h_imm
  have x1 : bits w 17 7 = 0 := hw ▸ (up10 h_imm).trans ((up7 h_a).trans (low7 (by decide)))
  simp [decodeChainWord, decodeWord, decodeRow6, eH, eM, eC, e_a, e_imm, x1, bitOf_beq]

theorem regclm (n : BitVec 4) : Statement (.regclm n) := by
  intro ch w h
  simp only [encodeChainWord, encode, Option.map_some, Option.some.injEq] at h
  have hc := bitOf_lt ch
  have h_n : n.toNat < 16 := n.isLt
  have hw : w = ((((bitOf ch) * 8 + 6) * 16 + 9) * 1048576 + 0) * 16 + n.toNat := by omega
  have eH : bits w 28 3 = 6 := hw ▸ (up4 h_n).trans ((up20 (by decide)).trans ((up4 (by decide)).trans (low3 (by decide))))
  have eM : bits w 24 4 = 9 := hw ▸ (up4 h_n).trans ((up20 (by decide)).trans (low4 (by decide)))
  have eC : bits w 31 1 = bitOf ch := hw ▸ (up4 h_n).trans ((up20 (by decide)).trans ((up4 (by decide)).trans ((up3 (by decide)).trans (top1 hc))))
  have e_n : bits w 0 4 = n.toNat := hw ▸ low4 h_n
  have x1 : bits w 4 20 = 0 := hw ▸ (up4 h_n).trans (low20 (by decide))
  simp [decodeChainWord, decodeWord, decodeRow6, eH, eM, eC, e_n, x1, bitOf_beq]

theorem regrel (n : BitVec 4) : Statement (.regrel n) := by
  intro ch w h
  simp only [encodeChainWord, encode, Option.map_some, Option.some.injEq] at h
  have hc := bitOf_lt ch
  have h_n : n.toNat < 16 := n.isLt
  have hw : w = ((((bitOf ch) * 8 + 6) * 16 + 9) * 1048576 + 32) * 16 + n.toNat := by omega
  have eH : bits w 28 3 = 6 := hw ▸ (up4 h_n).trans ((up20 (by decide)).trans ((up4 (by decide)).trans (low3 (by decide))))
  have eM : bits w 24 4 = 9 := hw ▸ (up4 h_n).trans ((up20 (by decide)).trans (low4 (by decide)))
  have eC : bits w 31 1 = bitOf ch := hw ▸ (up4 h_n).trans ((up20 (by decide)).trans ((up4 (by decide)).trans ((up3 (by decide)).trans (top1 hc))))
  have e_n : bits w 0 4 = n.toNat := hw ▸ low4 h_n
  have x1 : bits w 4 20 = 32 := hw ▸ (up4 h_n).trans (low20 (by decide))
  simp [decodeChainWord, decodeWord, decodeRow6, eH, eM, eC, e_n, x1, bitOf_beq]

theorem spawn (d : BitVec 7) (a : BitVec 7) (ua : Bool) : Statement (.spawn d a ua) := by
  intro ch w h
  simp only [encodeChainWord, encode, Option.map_some, Option.some.injEq] at h
  have hc := bitOf_lt ch
  have h_d : d.toNat < 128 := d.isLt
  have h_a : a.toNat < 128 := a.isLt
  have h_ua := bitOf_lt ua
  have hw : w = (((((((bitOf ch) * 8 + 6) * 16 + 10) * 128 + d.toNat) * 128 + a.toNat) * 128 + 0) * 2 + bitOf ua) * 4 + 0 := by omega
  have eH : bits w 28 3 = 6 := hw ▸ (up2 (by decide)).trans ((up1 h_ua).trans ((up7 (by decide)).trans ((up7 h_a).trans ((up7 h_d).trans ((up4 (by decide)).trans (low3 (by decide)))))))
  have eM : bits w 24 4 = 10 := hw ▸ (up2 (by decide)).trans ((up1 h_ua).trans ((up7 (by decide)).trans ((up7 h_a).trans ((up7 h_d).trans (low4 (by decide))))))
  have eC : bits w 31 1 = bitOf ch := hw ▸ (up2 (by decide)).trans ((up1 h_ua).trans ((up7 (by decide)).trans ((up7 h_a).trans ((up7 h_d).trans ((up4 (by decide)).trans ((up3 (by decide)).trans (top1 hc)))))))
  have e_d : bits w 17 7 = d.toNat := hw ▸ (up2 (by decide)).trans ((up1 h_ua).trans ((up7 (by decide)).trans ((up7 h_a).trans (low7 h_d))))
  have e_a : bits w 10 7 = a.toNat := hw ▸ (up2 (by decide)).trans ((up1 h_ua).trans ((up7 (by decide)).trans (low7 h_a)))
  have e_ua : bits w 2 1 = bitOf ua := hw ▸ (up2 (by decide)).trans (low1 h_ua)
  have x1 : bits w 0 2 = 0 := hw ▸ low2 (by decide)
  have x2 : bits w 3 7 = 0 := hw ▸ (up2 (by decide)).trans ((up1 h_ua).trans (low7 (by decide)))
  simp [decodeChainWord, decodeWord, decodeRow6, eH, eM, eC, e_d, e_a, e_ua, x1, x2, bitOf_beq]

theorem spawnw (d : BitVec 7) (a : BitVec 7) (ua : Bool) : Statement (.spawnw d a ua) := by
  intro ch w h
  simp only [encodeChainWord, encode, Option.map_some, Option.some.injEq] at h
  have hc := bitOf_lt ch
  have h_d : d.toNat < 128 := d.isLt
  have h_a : a.toNat < 128 := a.isLt
  have h_ua := bitOf_lt ua
  have hw : w = (((((((bitOf ch) * 8 + 6) * 16 + 10) * 128 + d.toNat) * 128 + a.toNat) * 128 + 0) * 2 + bitOf ua) * 4 + 1 := by omega
  have eH : bits w 28 3 = 6 := hw ▸ (up2 (by decide)).trans ((up1 h_ua).trans ((up7 (by decide)).trans ((up7 h_a).trans ((up7 h_d).trans ((up4 (by decide)).trans (low3 (by decide)))))))
  have eM : bits w 24 4 = 10 := hw ▸ (up2 (by decide)).trans ((up1 h_ua).trans ((up7 (by decide)).trans ((up7 h_a).trans ((up7 h_d).trans (low4 (by decide))))))
  have eC : bits w 31 1 = bitOf ch := hw ▸ (up2 (by decide)).trans ((up1 h_ua).trans ((up7 (by decide)).trans ((up7 h_a).trans ((up7 h_d).trans ((up4 (by decide)).trans ((up3 (by decide)).trans (top1 hc)))))))
  have e_d : bits w 17 7 = d.toNat := hw ▸ (up2 (by decide)).trans ((up1 h_ua).trans ((up7 (by decide)).trans ((up7 h_a).trans (low7 h_d))))
  have e_a : bits w 10 7 = a.toNat := hw ▸ (up2 (by decide)).trans ((up1 h_ua).trans ((up7 (by decide)).trans (low7 h_a)))
  have e_ua : bits w 2 1 = bitOf ua := hw ▸ (up2 (by decide)).trans (low1 h_ua)
  have x1 : bits w 0 2 = 1 := hw ▸ low2 (by decide)
  have x2 : bits w 3 7 = 0 := hw ▸ (up2 (by decide)).trans ((up1 h_ua).trans (low7 (by decide)))
  simp [decodeChainWord, decodeWord, decodeRow6, eH, eM, eC, e_d, e_a, e_ua, x1, x2, bitOf_beq]

theorem waitc (ctr : BitVec 2) (n : BitVec 8) : Statement (.waitc ctr n) := by
  intro ch w h
  simp only [encodeChainWord, encode, Option.map_some, Option.some.injEq] at h
  have hc := bitOf_lt ch
  have h_ctr : ctr.toNat < 4 := ctr.isLt
  have h_n : n.toNat < 256 := n.isLt
  have hw : w = (((((bitOf ch) * 8 + 6) * 16 + 11) * 16384 + 0) * 4 + ctr.toNat) * 256 + n.toNat := by omega
  have eH : bits w 28 3 = 6 := hw ▸ (up8 h_n).trans ((up2 h_ctr).trans ((up14 (by decide)).trans ((up4 (by decide)).trans (low3 (by decide)))))
  have eM : bits w 24 4 = 11 := hw ▸ (up8 h_n).trans ((up2 h_ctr).trans ((up14 (by decide)).trans (low4 (by decide))))
  have eC : bits w 31 1 = bitOf ch := hw ▸ (up8 h_n).trans ((up2 h_ctr).trans ((up14 (by decide)).trans ((up4 (by decide)).trans ((up3 (by decide)).trans (top1 hc)))))
  have e_ctr : bits w 8 2 = ctr.toNat := hw ▸ (up8 h_n).trans (low2 h_ctr)
  have e_n : bits w 0 8 = n.toNat := hw ▸ low8 h_n
  have x1 : bits w 10 14 = 0 := hw ▸ (up8 h_n).trans ((up2 h_ctr).trans (low14 (by decide)))
  simp [decodeChainWord, decodeWord, decodeRow6, eH, eM, eC, e_ctr, e_n, x1, bitOf_beq]

theorem phreg (d : BitVec 7) (a : BitVec 7) (b : BitVec 7) : Statement (.phreg d a b) := by
  intro ch w h
  simp only [encodeChainWord, encode, Option.map_some, Option.some.injEq] at h
  have hc := bitOf_lt ch
  have h_d : d.toNat < 128 := d.isLt
  have h_a : a.toNat < 128 := a.isLt
  have h_b : b.toNat < 128 := b.isLt
  have hw : w = ((((((bitOf ch) * 8 + 6) * 16 + 12) * 128 + d.toNat) * 128 + a.toNat) * 128 + b.toNat) * 8 + 0 := by omega
  have eH : bits w 28 3 = 6 := hw ▸ (up3 (by decide)).trans ((up7 h_b).trans ((up7 h_a).trans ((up7 h_d).trans ((up4 (by decide)).trans (low3 (by decide))))))
  have eM : bits w 24 4 = 12 := hw ▸ (up3 (by decide)).trans ((up7 h_b).trans ((up7 h_a).trans ((up7 h_d).trans (low4 (by decide)))))
  have eC : bits w 31 1 = bitOf ch := hw ▸ (up3 (by decide)).trans ((up7 h_b).trans ((up7 h_a).trans ((up7 h_d).trans ((up4 (by decide)).trans ((up3 (by decide)).trans (top1 hc))))))
  have e_d : bits w 17 7 = d.toNat := hw ▸ (up3 (by decide)).trans ((up7 h_b).trans ((up7 h_a).trans (low7 h_d)))
  have e_a : bits w 10 7 = a.toNat := hw ▸ (up3 (by decide)).trans ((up7 h_b).trans (low7 h_a))
  have e_b : bits w 3 7 = b.toNat := hw ▸ (up3 (by decide)).trans (low7 h_b)
  have x1 : bits w 0 3 = 0 := hw ▸ low3 (by decide)
  simp [decodeChainWord, decodeWord, decodeRow6, eH, eM, eC, e_d, e_a, e_b, x1, bitOf_beq]

theorem phmode (d : BitVec 7) (a : BitVec 7) (b : BitVec 7) : Statement (.phmode d a b) := by
  intro ch w h
  simp only [encodeChainWord, encode, Option.map_some, Option.some.injEq] at h
  have hc := bitOf_lt ch
  have h_d : d.toNat < 128 := d.isLt
  have h_a : a.toNat < 128 := a.isLt
  have h_b : b.toNat < 128 := b.isLt
  have hw : w = ((((((bitOf ch) * 8 + 6) * 16 + 12) * 128 + d.toNat) * 128 + a.toNat) * 128 + b.toNat) * 8 + 1 := by omega
  have eH : bits w 28 3 = 6 := hw ▸ (up3 (by decide)).trans ((up7 h_b).trans ((up7 h_a).trans ((up7 h_d).trans ((up4 (by decide)).trans (low3 (by decide))))))
  have eM : bits w 24 4 = 12 := hw ▸ (up3 (by decide)).trans ((up7 h_b).trans ((up7 h_a).trans ((up7 h_d).trans (low4 (by decide)))))
  have eC : bits w 31 1 = bitOf ch := hw ▸ (up3 (by decide)).trans ((up7 h_b).trans ((up7 h_a).trans ((up7 h_d).trans ((up4 (by decide)).trans ((up3 (by decide)).trans (top1 hc))))))
  have e_d : bits w 17 7 = d.toNat := hw ▸ (up3 (by decide)).trans ((up7 h_b).trans ((up7 h_a).trans (low7 h_d)))
  have e_a : bits w 10 7 = a.toNat := hw ▸ (up3 (by decide)).trans ((up7 h_b).trans (low7 h_a))
  have e_b : bits w 3 7 = b.toNat := hw ▸ (up3 (by decide)).trans (low7 h_b)
  have x1 : bits w 0 3 = 1 := hw ▸ low3 (by decide)
  simp [decodeChainWord, decodeWord, decodeRow6, eH, eM, eC, e_d, e_a, e_b, x1, bitOf_beq]

theorem phdrop (d : BitVec 7) (a : BitVec 7) : Statement (.phdrop d a) := by
  intro ch w h
  simp only [encodeChainWord, encode, Option.map_some, Option.some.injEq] at h
  have hc := bitOf_lt ch
  have h_d : d.toNat < 128 := d.isLt
  have h_a : a.toNat < 128 := a.isLt
  have hw : w = (((((bitOf ch) * 8 + 6) * 16 + 12) * 128 + d.toNat) * 128 + a.toNat) * 1024 + 2 := by omega
  have eH : bits w 28 3 = 6 := hw ▸ (up10 (by decide)).trans ((up7 h_a).trans ((up7 h_d).trans ((up4 (by decide)).trans (low3 (by decide)))))
  have eM : bits w 24 4 = 12 := hw ▸ (up10 (by decide)).trans ((up7 h_a).trans ((up7 h_d).trans (low4 (by decide))))
  have eC : bits w 31 1 = bitOf ch := hw ▸ (up10 (by decide)).trans ((up7 h_a).trans ((up7 h_d).trans ((up4 (by decide)).trans ((up3 (by decide)).trans (top1 hc)))))
  have e_d : bits w 17 7 = d.toNat := hw ▸ (up10 (by decide)).trans ((up7 h_a).trans (low7 h_d))
  have e_a : bits w 10 7 = a.toNat := hw ▸ (up10 (by decide)).trans (low7 h_a)
  have x1 : bits w 0 10 = 2 := hw ▸ low10 (by decide)
  have n0 : ¬ (bits w 0 3 = 0) := by simp only [bits]; omega
  have n1 : ¬ (bits w 0 3 = 1) := by simp only [bits]; omega
  simp [decodeChainWord, decodeWord, decodeRow6, eH, eM, eC, e_d, e_a, n0, n1, x1, bitOf_beq]

theorem phsig (d : BitVec 7) (a : BitVec 7) : Statement (.phsig d a) := by
  intro ch w h
  simp only [encodeChainWord, encode, Option.map_some, Option.some.injEq] at h
  have hc := bitOf_lt ch
  have h_d : d.toNat < 128 := d.isLt
  have h_a : a.toNat < 128 := a.isLt
  have hw : w = (((((bitOf ch) * 8 + 6) * 16 + 12) * 128 + d.toNat) * 128 + a.toNat) * 1024 + 3 := by omega
  have eH : bits w 28 3 = 6 := hw ▸ (up10 (by decide)).trans ((up7 h_a).trans ((up7 h_d).trans ((up4 (by decide)).trans (low3 (by decide)))))
  have eM : bits w 24 4 = 12 := hw ▸ (up10 (by decide)).trans ((up7 h_a).trans ((up7 h_d).trans (low4 (by decide))))
  have eC : bits w 31 1 = bitOf ch := hw ▸ (up10 (by decide)).trans ((up7 h_a).trans ((up7 h_d).trans ((up4 (by decide)).trans ((up3 (by decide)).trans (top1 hc)))))
  have e_d : bits w 17 7 = d.toNat := hw ▸ (up10 (by decide)).trans ((up7 h_a).trans (low7 h_d))
  have e_a : bits w 10 7 = a.toNat := hw ▸ (up10 (by decide)).trans (low7 h_a)
  have x1 : bits w 0 10 = 3 := hw ▸ low10 (by decide)
  have n0 : ¬ (bits w 0 3 = 0) := by simp only [bits]; omega
  have n1 : ¬ (bits w 0 3 = 1) := by simp only [bits]; omega
  simp [decodeChainWord, decodeWord, decodeRow6, eH, eM, eC, e_d, e_a, n0, n1, x1, bitOf_beq]

theorem phwait (d : BitVec 7) (a : BitVec 7) : Statement (.phwait d a) := by
  intro ch w h
  simp only [encodeChainWord, encode, Option.map_some, Option.some.injEq] at h
  have hc := bitOf_lt ch
  have h_d : d.toNat < 128 := d.isLt
  have h_a : a.toNat < 128 := a.isLt
  have hw : w = (((((bitOf ch) * 8 + 6) * 16 + 12) * 128 + d.toNat) * 128 + a.toNat) * 1024 + 4 := by omega
  have eH : bits w 28 3 = 6 := hw ▸ (up10 (by decide)).trans ((up7 h_a).trans ((up7 h_d).trans ((up4 (by decide)).trans (low3 (by decide)))))
  have eM : bits w 24 4 = 12 := hw ▸ (up10 (by decide)).trans ((up7 h_a).trans ((up7 h_d).trans (low4 (by decide))))
  have eC : bits w 31 1 = bitOf ch := hw ▸ (up10 (by decide)).trans ((up7 h_a).trans ((up7 h_d).trans ((up4 (by decide)).trans ((up3 (by decide)).trans (top1 hc)))))
  have e_d : bits w 17 7 = d.toNat := hw ▸ (up10 (by decide)).trans ((up7 h_a).trans (low7 h_d))
  have e_a : bits w 10 7 = a.toNat := hw ▸ (up10 (by decide)).trans (low7 h_a)
  have x1 : bits w 0 10 = 4 := hw ▸ low10 (by decide)
  have n0 : ¬ (bits w 0 3 = 0) := by simp only [bits]; omega
  have n1 : ¬ (bits w 0 3 = 1) := by simp only [bits]; omega
  simp [decodeChainWord, decodeWord, decodeRow6, eH, eM, eC, e_d, e_a, n0, n1, x1, bitOf_beq]

theorem phnext (d : BitVec 7) (a : BitVec 7) : Statement (.phnext d a) := by
  intro ch w h
  simp only [encodeChainWord, encode, Option.map_some, Option.some.injEq] at h
  have hc := bitOf_lt ch
  have h_d : d.toNat < 128 := d.isLt
  have h_a : a.toNat < 128 := a.isLt
  have hw : w = (((((bitOf ch) * 8 + 6) * 16 + 12) * 128 + d.toNat) * 128 + a.toNat) * 1024 + 5 := by omega
  have eH : bits w 28 3 = 6 := hw ▸ (up10 (by decide)).trans ((up7 h_a).trans ((up7 h_d).trans ((up4 (by decide)).trans (low3 (by decide)))))
  have eM : bits w 24 4 = 12 := hw ▸ (up10 (by decide)).trans ((up7 h_a).trans ((up7 h_d).trans (low4 (by decide))))
  have eC : bits w 31 1 = bitOf ch := hw ▸ (up10 (by decide)).trans ((up7 h_a).trans ((up7 h_d).trans ((up4 (by decide)).trans ((up3 (by decide)).trans (top1 hc)))))
  have e_d : bits w 17 7 = d.toNat := hw ▸ (up10 (by decide)).trans ((up7 h_a).trans (low7 h_d))
  have e_a : bits w 10 7 = a.toNat := hw ▸ (up10 (by decide)).trans (low7 h_a)
  have x1 : bits w 0 10 = 5 := hw ▸ low10 (by decide)
  have n0 : ¬ (bits w 0 3 = 0) := by simp only [bits]; omega
  have n1 : ¬ (bits w 0 3 = 1) := by simp only [bits]; omega
  simp [decodeChainWord, decodeWord, decodeRow6, eH, eM, eC, e_d, e_a, n0, n1, x1, bitOf_beq]

theorem rngi (a : BitVec 7) (b : BitVec 7) : Statement (.rngi a b) := by
  intro ch w h
  simp only [encodeChainWord, encode, Option.map_some, Option.some.injEq] at h
  have hc := bitOf_lt ch
  have h_a : a.toNat < 128 := a.isLt
  have h_b : b.toNat < 128 := b.isLt
  have hw : w = ((((((bitOf ch) * 8 + 6) * 16 + 13) * 128 + 0) * 128 + a.toNat) * 128 + b.toNat) * 8 + 0 := by omega
  have eH : bits w 28 3 = 6 := hw ▸ (up3 (by decide)).trans ((up7 h_b).trans ((up7 h_a).trans ((up7 (by decide)).trans ((up4 (by decide)).trans (low3 (by decide))))))
  have eM : bits w 24 4 = 13 := hw ▸ (up3 (by decide)).trans ((up7 h_b).trans ((up7 h_a).trans ((up7 (by decide)).trans (low4 (by decide)))))
  have eC : bits w 31 1 = bitOf ch := hw ▸ (up3 (by decide)).trans ((up7 h_b).trans ((up7 h_a).trans ((up7 (by decide)).trans ((up4 (by decide)).trans ((up3 (by decide)).trans (top1 hc))))))
  have e_a : bits w 10 7 = a.toNat := hw ▸ (up3 (by decide)).trans ((up7 h_b).trans (low7 h_a))
  have e_b : bits w 3 7 = b.toNat := hw ▸ (up3 (by decide)).trans (low7 h_b)
  have x1 : bits w 0 3 = 0 := hw ▸ low3 (by decide)
  have x2 : bits w 17 7 = 0 := hw ▸ (up3 (by decide)).trans ((up7 h_b).trans ((up7 h_a).trans (low7 (by decide))))
  simp [decodeChainWord, decodeWord, decodeRow6, eH, eM, eC, e_a, e_b, x1, x2, bitOf_beq]

theorem rngw (a : BitVec 7) (b : BitVec 7) : Statement (.rngw a b) := by
  intro ch w h
  simp only [encodeChainWord, encode, Option.map_some, Option.some.injEq] at h
  have hc := bitOf_lt ch
  have h_a : a.toNat < 128 := a.isLt
  have h_b : b.toNat < 128 := b.isLt
  have hw : w = ((((((bitOf ch) * 8 + 6) * 16 + 13) * 128 + 0) * 128 + a.toNat) * 128 + b.toNat) * 8 + 1 := by omega
  have eH : bits w 28 3 = 6 := hw ▸ (up3 (by decide)).trans ((up7 h_b).trans ((up7 h_a).trans ((up7 (by decide)).trans ((up4 (by decide)).trans (low3 (by decide))))))
  have eM : bits w 24 4 = 13 := hw ▸ (up3 (by decide)).trans ((up7 h_b).trans ((up7 h_a).trans ((up7 (by decide)).trans (low4 (by decide)))))
  have eC : bits w 31 1 = bitOf ch := hw ▸ (up3 (by decide)).trans ((up7 h_b).trans ((up7 h_a).trans ((up7 (by decide)).trans ((up4 (by decide)).trans ((up3 (by decide)).trans (top1 hc))))))
  have e_a : bits w 10 7 = a.toNat := hw ▸ (up3 (by decide)).trans ((up7 h_b).trans (low7 h_a))
  have e_b : bits w 3 7 = b.toNat := hw ▸ (up3 (by decide)).trans (low7 h_b)
  have x1 : bits w 0 3 = 1 := hw ▸ low3 (by decide)
  have x2 : bits w 17 7 = 0 := hw ▸ (up3 (by decide)).trans ((up7 h_b).trans ((up7 h_a).trans (low7 (by decide))))
  simp [decodeChainWord, decodeWord, decodeRow6, eH, eM, eC, e_a, e_b, x1, x2, bitOf_beq]

theorem rngs (a : BitVec 7) (b : BitVec 7) : Statement (.rngs a b) := by
  intro ch w h
  simp only [encodeChainWord, encode, Option.map_some, Option.some.injEq] at h
  have hc := bitOf_lt ch
  have h_a : a.toNat < 128 := a.isLt
  have h_b : b.toNat < 128 := b.isLt
  have hw : w = ((((((bitOf ch) * 8 + 6) * 16 + 13) * 128 + 0) * 128 + a.toNat) * 128 + b.toNat) * 8 + 2 := by omega
  have eH : bits w 28 3 = 6 := hw ▸ (up3 (by decide)).trans ((up7 h_b).trans ((up7 h_a).trans ((up7 (by decide)).trans ((up4 (by decide)).trans (low3 (by decide))))))
  have eM : bits w 24 4 = 13 := hw ▸ (up3 (by decide)).trans ((up7 h_b).trans ((up7 h_a).trans ((up7 (by decide)).trans (low4 (by decide)))))
  have eC : bits w 31 1 = bitOf ch := hw ▸ (up3 (by decide)).trans ((up7 h_b).trans ((up7 h_a).trans ((up7 (by decide)).trans ((up4 (by decide)).trans ((up3 (by decide)).trans (top1 hc))))))
  have e_a : bits w 10 7 = a.toNat := hw ▸ (up3 (by decide)).trans ((up7 h_b).trans (low7 h_a))
  have e_b : bits w 3 7 = b.toNat := hw ▸ (up3 (by decide)).trans (low7 h_b)
  have x1 : bits w 0 3 = 2 := hw ▸ low3 (by decide)
  have x2 : bits w 17 7 = 0 := hw ▸ (up3 (by decide)).trans ((up7 h_b).trans ((up7 h_a).trans (low7 (by decide))))
  simp [decodeChainWord, decodeWord, decodeRow6, eH, eM, eC, e_a, e_b, x1, x2, bitOf_beq]

theorem rstat (d : BitVec 7) : Statement (.rstat d) := by
  intro ch w h
  simp only [encodeChainWord, encode, Option.map_some, Option.some.injEq] at h
  have hc := bitOf_lt ch
  have h_d : d.toNat < 128 := d.isLt
  have hw : w = ((((bitOf ch) * 8 + 6) * 16 + 14) * 128 + d.toNat) * 131072 + 0 := by omega
  have eH : bits w 28 3 = 6 := hw ▸ (up17 (by decide)).trans ((up7 h_d).trans ((up4 (by decide)).trans (low3 (by decide))))
  have eM : bits w 24 4 = 14 := hw ▸ (up17 (by decide)).trans ((up7 h_d).trans (low4 (by decide)))
  have eC : bits w 31 1 = bitOf ch := hw ▸ (up17 (by decide)).trans ((up7 h_d).trans ((up4 (by decide)).trans ((up3 (by decide)).trans (top1 hc))))
  have e_d : bits w 17 7 = d.toNat := hw ▸ (up17 (by decide)).trans (low7 h_d)
  have x1 : bits w 0 17 = 0 := hw ▸ low17 (by decide)
  simp [decodeChainWord, decodeWord, decodeRow6, eH, eM, eC, e_d, x1, bitOf_beq]

theorem cstat (d : BitVec 7) (a : BitVec 7) (b : BitVec 7) (ua : Bool) (ub : Bool) : Statement (.cstat d a b ua ub) := by
  intro ch w h
  simp only [encodeChainWord, encode, Option.map_some, Option.some.injEq] at h
  have hc := bitOf_lt ch
  have h_d : d.toNat < 128 := d.isLt
  have h_a : a.toNat < 128 := a.isLt
  have h_b : b.toNat < 128 := b.isLt
  have h_ua := bitOf_lt ua
  have h_ub := bitOf_lt ub
  have hw : w = ((((((((bitOf ch) * 8 + 6) * 16 + 15) * 128 + d.toNat) * 128 + a.toNat) * 128 + b.toNat) * 2 + bitOf ua) * 2 + bitOf ub) * 2 + 0 := by omega
  have eH : bits w 28 3 = 6 := hw ▸ (up1 (by decide)).trans ((up1 h_ub).trans ((up1 h_ua).trans ((up7 h_b).trans ((up7 h_a).trans ((up7 h_d).trans ((up4 (by decide)).trans (low3 (by decide))))))))
  have eM : bits w 24 4 = 15 := hw ▸ (up1 (by decide)).trans ((up1 h_ub).trans ((up1 h_ua).trans ((up7 h_b).trans ((up7 h_a).trans ((up7 h_d).trans (low4 (by decide)))))))
  have eC : bits w 31 1 = bitOf ch := hw ▸ (up1 (by decide)).trans ((up1 h_ub).trans ((up1 h_ua).trans ((up7 h_b).trans ((up7 h_a).trans ((up7 h_d).trans ((up4 (by decide)).trans ((up3 (by decide)).trans (top1 hc))))))))
  have e_d : bits w 17 7 = d.toNat := hw ▸ (up1 (by decide)).trans ((up1 h_ub).trans ((up1 h_ua).trans ((up7 h_b).trans ((up7 h_a).trans (low7 h_d)))))
  have e_a : bits w 10 7 = a.toNat := hw ▸ (up1 (by decide)).trans ((up1 h_ub).trans ((up1 h_ua).trans ((up7 h_b).trans (low7 h_a))))
  have e_b : bits w 3 7 = b.toNat := hw ▸ (up1 (by decide)).trans ((up1 h_ub).trans ((up1 h_ua).trans (low7 h_b)))
  have e_ua : bits w 2 1 = bitOf ua := hw ▸ (up1 (by decide)).trans ((up1 h_ub).trans (low1 h_ua))
  have e_ub : bits w 1 1 = bitOf ub := hw ▸ (up1 (by decide)).trans (low1 h_ub)
  have x1 : bits w 0 1 = 0 := hw ▸ low1 (by decide)
  simp [decodeChainWord, decodeWord, decodeRow6, eH, eM, eC, e_d, e_a, e_b, e_ua, e_ub, x1, bitOf_beq]

theorem trap (imm : BitVec 10) : Statement (.trap imm) := by
  intro ch w h
  simp only [encodeChainWord, encode, Option.map_some, Option.some.injEq] at h
  have hc := bitOf_lt ch
  have h_imm : imm.toNat < 1024 := imm.isLt
  have hw : w = ((((bitOf ch) * 8 + 7) * 16 + 0) * 16384 + 0) * 1024 + imm.toNat := by omega
  have eH : bits w 28 3 = 7 := hw ▸ (up10 h_imm).trans ((up14 (by decide)).trans ((up4 (by decide)).trans (low3 (by decide))))
  have eM : bits w 24 4 = 0 := hw ▸ (up10 h_imm).trans ((up14 (by decide)).trans (low4 (by decide)))
  have eC : bits w 31 1 = bitOf ch := hw ▸ (up10 h_imm).trans ((up14 (by decide)).trans ((up4 (by decide)).trans ((up3 (by decide)).trans (top1 hc))))
  have e_imm : bits w 0 10 = imm.toNat := hw ▸ low10 h_imm
  have x1 : bits w 10 14 = 0 := hw ▸ (up10 h_imm).trans (low14 (by decide))
  simp [decodeChainWord, decodeWord, decodeRow7, eH, eM, eC, e_imm, x1, bitOf_beq]

theorem brk (imm : BitVec 10) : Statement (.brk imm) := by
  intro ch w h
  simp only [encodeChainWord, encode, Option.map_some, Option.some.injEq] at h
  have hc := bitOf_lt ch
  have h_imm : imm.toNat < 1024 := imm.isLt
  have hw : w = ((((bitOf ch) * 8 + 7) * 16 + 1) * 16384 + 0) * 1024 + imm.toNat := by omega
  have eH : bits w 28 3 = 7 := hw ▸ (up10 h_imm).trans ((up14 (by decide)).trans ((up4 (by decide)).trans (low3 (by decide))))
  have eM : bits w 24 4 = 1 := hw ▸ (up10 h_imm).trans ((up14 (by decide)).trans (low4 (by decide)))
  have eC : bits w 31 1 = bitOf ch := hw ▸ (up10 h_imm).trans ((up14 (by decide)).trans ((up4 (by decide)).trans ((up3 (by decide)).trans (top1 hc))))
  have e_imm : bits w 0 10 = imm.toNat := hw ▸ low10 h_imm
  have x1 : bits w 10 14 = 0 := hw ▸ (up10 h_imm).trans (low14 (by decide))
  simp [decodeChainWord, decodeWord, decodeRow7, eH, eM, eC, e_imm, x1, bitOf_beq]

theorem prop (d : BitVec 7) (a : BitVec 7) : Statement (.prop d a) := by
  intro ch w h
  simp only [encodeChainWord, encode, Option.map_some, Option.some.injEq] at h
  have hc := bitOf_lt ch
  have h_d : d.toNat < 128 := d.isLt
  have h_a : a.toNat < 128 := a.isLt
  have hw : w = (((((bitOf ch) * 8 + 7) * 16 + 2) * 128 + d.toNat) * 128 + a.toNat) * 1024 + 0 := by omega
  have eH : bits w 28 3 = 7 := hw ▸ (up10 (by decide)).trans ((up7 h_a).trans ((up7 h_d).trans ((up4 (by decide)).trans (low3 (by decide)))))
  have eM : bits w 24 4 = 2 := hw ▸ (up10 (by decide)).trans ((up7 h_a).trans ((up7 h_d).trans (low4 (by decide))))
  have eC : bits w 31 1 = bitOf ch := hw ▸ (up10 (by decide)).trans ((up7 h_a).trans ((up7 h_d).trans ((up4 (by decide)).trans ((up3 (by decide)).trans (top1 hc)))))
  have e_d : bits w 17 7 = d.toNat := hw ▸ (up10 (by decide)).trans ((up7 h_a).trans (low7 h_d))
  have e_a : bits w 10 7 = a.toNat := hw ▸ (up10 (by decide)).trans (low7 h_a)
  have x1 : bits w 0 10 = 0 := hw ▸ low10 (by decide)
  simp [decodeChainWord, decodeWord, decodeRow7, eH, eM, eC, e_d, e_a, x1, bitOf_beq]

theorem trctl (d : BitVec 7) (a : BitVec 7) (b : BitVec 7) : Statement (.trctl d a b) := by
  intro ch w h
  simp only [encodeChainWord, encode, Option.map_some, Option.some.injEq] at h
  have hc := bitOf_lt ch
  have h_d : d.toNat < 128 := d.isLt
  have h_a : a.toNat < 128 := a.isLt
  have h_b : b.toNat < 128 := b.isLt
  have hw : w = ((((((bitOf ch) * 8 + 7) * 16 + 2) * 128 + d.toNat) * 128 + a.toNat) * 128 + b.toNat) * 8 + 1 := by omega
  have eH : bits w 28 3 = 7 := hw ▸ (up3 (by decide)).trans ((up7 h_b).trans ((up7 h_a).trans ((up7 h_d).trans ((up4 (by decide)).trans (low3 (by decide))))))
  have eM : bits w 24 4 = 2 := hw ▸ (up3 (by decide)).trans ((up7 h_b).trans ((up7 h_a).trans ((up7 h_d).trans (low4 (by decide)))))
  have eC : bits w 31 1 = bitOf ch := hw ▸ (up3 (by decide)).trans ((up7 h_b).trans ((up7 h_a).trans ((up7 h_d).trans ((up4 (by decide)).trans ((up3 (by decide)).trans (top1 hc))))))
  have e_d : bits w 17 7 = d.toNat := hw ▸ (up3 (by decide)).trans ((up7 h_b).trans ((up7 h_a).trans (low7 h_d)))
  have e_a : bits w 10 7 = a.toNat := hw ▸ (up3 (by decide)).trans ((up7 h_b).trans (low7 h_a))
  have e_b : bits w 3 7 = b.toNat := hw ▸ (up3 (by decide)).trans (low7 h_b)
  have x1 : bits w 0 3 = 1 := hw ▸ low3 (by decide)
  have n0 : ¬ (bits w 0 10 = 0) := by simp only [bits]; omega
  simp [decodeChainWord, decodeWord, decodeRow7, eH, eM, eC, e_d, e_a, e_b, n0, x1, bitOf_beq]

theorem tkey (d : BitVec 7) : Statement (.tkey d) := by
  intro ch w h
  simp only [encodeChainWord, encode, Option.map_some, Option.some.injEq] at h
  have hc := bitOf_lt ch
  have h_d : d.toNat < 128 := d.isLt
  have hw : w = ((((bitOf ch) * 8 + 7) * 16 + 2) * 128 + d.toNat) * 131072 + 2 := by omega
  have eH : bits w 28 3 = 7 := hw ▸ (up17 (by decide)).trans ((up7 h_d).trans ((up4 (by decide)).trans (low3 (by decide))))
  have eM : bits w 24 4 = 2 := hw ▸ (up17 (by decide)).trans ((up7 h_d).trans (low4 (by decide)))
  have eC : bits w 31 1 = bitOf ch := hw ▸ (up17 (by decide)).trans ((up7 h_d).trans ((up4 (by decide)).trans ((up3 (by decide)).trans (top1 hc))))
  have e_d : bits w 17 7 = d.toNat := hw ▸ (up17 (by decide)).trans (low7 h_d)
  have x1 : bits w 0 17 = 2 := hw ▸ low17 (by decide)
  have n0 : ¬ (bits w 0 10 = 0) := by simp only [bits]; omega
  have n1 : ¬ (bits w 0 3 = 1) := by simp only [bits]; omega
  simp [decodeChainWord, decodeWord, decodeRow7, eH, eM, eC, e_d, n0, n1, x1, bitOf_beq]

theorem mmqBf16 (tile : BitVec 4) (a : BitVec 7) (b : BitVec 7) (sb : Bool) : Statement (.mmqBf16 tile a b sb) := by
  intro ch w h
  simp only [encodeChainWord, encode, Option.map_some, Option.some.injEq] at h
  have hc := bitOf_lt ch
  have h_tile : tile.toNat < 16 := tile.isLt
  have h_a : a.toNat < 128 := a.isLt
  have h_b : b.toNat < 128 := b.isLt
  have h_sb := bitOf_lt sb
  have hw : w = (((((((bitOf ch) * 8 + 7) * 16 + 3) * 16 + tile.toNat) * 128 + a.toNat) * 128 + b.toNat) * 2 + bitOf sb) * 32 + 0 := by omega
  have eH : bits w 28 3 = 7 := hw ▸ (up5 (by decide)).trans ((up1 h_sb).trans ((up7 h_b).trans ((up7 h_a).trans ((up4 h_tile).trans ((up4 (by decide)).trans (low3 (by decide)))))))
  have eM : bits w 24 4 = 3 := hw ▸ (up5 (by decide)).trans ((up1 h_sb).trans ((up7 h_b).trans ((up7 h_a).trans ((up4 h_tile).trans (low4 (by decide))))))
  have eC : bits w 31 1 = bitOf ch := hw ▸ (up5 (by decide)).trans ((up1 h_sb).trans ((up7 h_b).trans ((up7 h_a).trans ((up4 h_tile).trans ((up4 (by decide)).trans ((up3 (by decide)).trans (top1 hc)))))))
  have e_tile : bits w 20 4 = tile.toNat := hw ▸ (up5 (by decide)).trans ((up1 h_sb).trans ((up7 h_b).trans ((up7 h_a).trans (low4 h_tile))))
  have e_a : bits w 13 7 = a.toNat := hw ▸ (up5 (by decide)).trans ((up1 h_sb).trans ((up7 h_b).trans (low7 h_a)))
  have e_b : bits w 6 7 = b.toNat := hw ▸ (up5 (by decide)).trans ((up1 h_sb).trans (low7 h_b))
  have e_sb : bits w 5 1 = bitOf sb := hw ▸ (up5 (by decide)).trans (low1 h_sb)
  have x1 : bits w 0 5 = 0 := hw ▸ low5 (by decide)
  simp [decodeChainWord, decodeWord, decodeRow7, eH, eM, eC, e_tile, e_a, e_b, e_sb, x1, bitOf_beq]

theorem mmqF16 (tile : BitVec 4) (a : BitVec 7) (b : BitVec 7) (sb : Bool) : Statement (.mmqF16 tile a b sb) := by
  intro ch w h
  simp only [encodeChainWord, encode, Option.map_some, Option.some.injEq] at h
  have hc := bitOf_lt ch
  have h_tile : tile.toNat < 16 := tile.isLt
  have h_a : a.toNat < 128 := a.isLt
  have h_b : b.toNat < 128 := b.isLt
  have h_sb := bitOf_lt sb
  have hw : w = (((((((bitOf ch) * 8 + 7) * 16 + 4) * 16 + tile.toNat) * 128 + a.toNat) * 128 + b.toNat) * 2 + bitOf sb) * 32 + 0 := by omega
  have eH : bits w 28 3 = 7 := hw ▸ (up5 (by decide)).trans ((up1 h_sb).trans ((up7 h_b).trans ((up7 h_a).trans ((up4 h_tile).trans ((up4 (by decide)).trans (low3 (by decide)))))))
  have eM : bits w 24 4 = 4 := hw ▸ (up5 (by decide)).trans ((up1 h_sb).trans ((up7 h_b).trans ((up7 h_a).trans ((up4 h_tile).trans (low4 (by decide))))))
  have eC : bits w 31 1 = bitOf ch := hw ▸ (up5 (by decide)).trans ((up1 h_sb).trans ((up7 h_b).trans ((up7 h_a).trans ((up4 h_tile).trans ((up4 (by decide)).trans ((up3 (by decide)).trans (top1 hc)))))))
  have e_tile : bits w 20 4 = tile.toNat := hw ▸ (up5 (by decide)).trans ((up1 h_sb).trans ((up7 h_b).trans ((up7 h_a).trans (low4 h_tile))))
  have e_a : bits w 13 7 = a.toNat := hw ▸ (up5 (by decide)).trans ((up1 h_sb).trans ((up7 h_b).trans (low7 h_a)))
  have e_b : bits w 6 7 = b.toNat := hw ▸ (up5 (by decide)).trans ((up1 h_sb).trans (low7 h_b))
  have e_sb : bits w 5 1 = bitOf sb := hw ▸ (up5 (by decide)).trans (low1 h_sb)
  have x1 : bits w 0 5 = 0 := hw ▸ low5 (by decide)
  simp [decodeChainWord, decodeWord, decodeRow7, eH, eM, eC, e_tile, e_a, e_b, e_sb, x1, bitOf_beq]

theorem mmqE4m3 (tile : BitVec 4) (a : BitVec 7) (b : BitVec 7) (sb : Bool) : Statement (.mmqE4m3 tile a b sb) := by
  intro ch w h
  simp only [encodeChainWord, encode, Option.map_some, Option.some.injEq] at h
  have hc := bitOf_lt ch
  have h_tile : tile.toNat < 16 := tile.isLt
  have h_a : a.toNat < 128 := a.isLt
  have h_b : b.toNat < 128 := b.isLt
  have h_sb := bitOf_lt sb
  have hw : w = (((((((bitOf ch) * 8 + 7) * 16 + 5) * 16 + tile.toNat) * 128 + a.toNat) * 128 + b.toNat) * 2 + bitOf sb) * 32 + 0 := by omega
  have eH : bits w 28 3 = 7 := hw ▸ (up5 (by decide)).trans ((up1 h_sb).trans ((up7 h_b).trans ((up7 h_a).trans ((up4 h_tile).trans ((up4 (by decide)).trans (low3 (by decide)))))))
  have eM : bits w 24 4 = 5 := hw ▸ (up5 (by decide)).trans ((up1 h_sb).trans ((up7 h_b).trans ((up7 h_a).trans ((up4 h_tile).trans (low4 (by decide))))))
  have eC : bits w 31 1 = bitOf ch := hw ▸ (up5 (by decide)).trans ((up1 h_sb).trans ((up7 h_b).trans ((up7 h_a).trans ((up4 h_tile).trans ((up4 (by decide)).trans ((up3 (by decide)).trans (top1 hc)))))))
  have e_tile : bits w 20 4 = tile.toNat := hw ▸ (up5 (by decide)).trans ((up1 h_sb).trans ((up7 h_b).trans ((up7 h_a).trans (low4 h_tile))))
  have e_a : bits w 13 7 = a.toNat := hw ▸ (up5 (by decide)).trans ((up1 h_sb).trans ((up7 h_b).trans (low7 h_a)))
  have e_b : bits w 6 7 = b.toNat := hw ▸ (up5 (by decide)).trans ((up1 h_sb).trans (low7 h_b))
  have e_sb : bits w 5 1 = bitOf sb := hw ▸ (up5 (by decide)).trans (low1 h_sb)
  have x1 : bits w 0 5 = 0 := hw ▸ low5 (by decide)
  simp [decodeChainWord, decodeWord, decodeRow7, eH, eM, eC, e_tile, e_a, e_b, e_sb, x1, bitOf_beq]

theorem mmqE5m2 (tile : BitVec 4) (a : BitVec 7) (b : BitVec 7) (sb : Bool) : Statement (.mmqE5m2 tile a b sb) := by
  intro ch w h
  simp only [encodeChainWord, encode, Option.map_some, Option.some.injEq] at h
  have hc := bitOf_lt ch
  have h_tile : tile.toNat < 16 := tile.isLt
  have h_a : a.toNat < 128 := a.isLt
  have h_b : b.toNat < 128 := b.isLt
  have h_sb := bitOf_lt sb
  have hw : w = (((((((bitOf ch) * 8 + 7) * 16 + 6) * 16 + tile.toNat) * 128 + a.toNat) * 128 + b.toNat) * 2 + bitOf sb) * 32 + 0 := by omega
  have eH : bits w 28 3 = 7 := hw ▸ (up5 (by decide)).trans ((up1 h_sb).trans ((up7 h_b).trans ((up7 h_a).trans ((up4 h_tile).trans ((up4 (by decide)).trans (low3 (by decide)))))))
  have eM : bits w 24 4 = 6 := hw ▸ (up5 (by decide)).trans ((up1 h_sb).trans ((up7 h_b).trans ((up7 h_a).trans ((up4 h_tile).trans (low4 (by decide))))))
  have eC : bits w 31 1 = bitOf ch := hw ▸ (up5 (by decide)).trans ((up1 h_sb).trans ((up7 h_b).trans ((up7 h_a).trans ((up4 h_tile).trans ((up4 (by decide)).trans ((up3 (by decide)).trans (top1 hc)))))))
  have e_tile : bits w 20 4 = tile.toNat := hw ▸ (up5 (by decide)).trans ((up1 h_sb).trans ((up7 h_b).trans ((up7 h_a).trans (low4 h_tile))))
  have e_a : bits w 13 7 = a.toNat := hw ▸ (up5 (by decide)).trans ((up1 h_sb).trans ((up7 h_b).trans (low7 h_a)))
  have e_b : bits w 6 7 = b.toNat := hw ▸ (up5 (by decide)).trans ((up1 h_sb).trans (low7 h_b))
  have e_sb : bits w 5 1 = bitOf sb := hw ▸ (up5 (by decide)).trans (low1 h_sb)
  have x1 : bits w 0 5 = 0 := hw ▸ low5 (by decide)
  simp [decodeChainWord, decodeWord, decodeRow7, eH, eM, eC, e_tile, e_a, e_b, e_sb, x1, bitOf_beq]

theorem mmqI8 (tile : BitVec 4) (a : BitVec 7) (b : BitVec 7) (sb : Bool) : Statement (.mmqI8 tile a b sb) := by
  intro ch w h
  simp only [encodeChainWord, encode, Option.map_some, Option.some.injEq] at h
  have hc := bitOf_lt ch
  have h_tile : tile.toNat < 16 := tile.isLt
  have h_a : a.toNat < 128 := a.isLt
  have h_b : b.toNat < 128 := b.isLt
  have h_sb := bitOf_lt sb
  have hw : w = (((((((bitOf ch) * 8 + 7) * 16 + 7) * 16 + tile.toNat) * 128 + a.toNat) * 128 + b.toNat) * 2 + bitOf sb) * 32 + 0 := by omega
  have eH : bits w 28 3 = 7 := hw ▸ (up5 (by decide)).trans ((up1 h_sb).trans ((up7 h_b).trans ((up7 h_a).trans ((up4 h_tile).trans ((up4 (by decide)).trans (low3 (by decide)))))))
  have eM : bits w 24 4 = 7 := hw ▸ (up5 (by decide)).trans ((up1 h_sb).trans ((up7 h_b).trans ((up7 h_a).trans ((up4 h_tile).trans (low4 (by decide))))))
  have eC : bits w 31 1 = bitOf ch := hw ▸ (up5 (by decide)).trans ((up1 h_sb).trans ((up7 h_b).trans ((up7 h_a).trans ((up4 h_tile).trans ((up4 (by decide)).trans ((up3 (by decide)).trans (top1 hc)))))))
  have e_tile : bits w 20 4 = tile.toNat := hw ▸ (up5 (by decide)).trans ((up1 h_sb).trans ((up7 h_b).trans ((up7 h_a).trans (low4 h_tile))))
  have e_a : bits w 13 7 = a.toNat := hw ▸ (up5 (by decide)).trans ((up1 h_sb).trans ((up7 h_b).trans (low7 h_a)))
  have e_b : bits w 6 7 = b.toNat := hw ▸ (up5 (by decide)).trans ((up1 h_sb).trans (low7 h_b))
  have e_sb : bits w 5 1 = bitOf sb := hw ▸ (up5 (by decide)).trans (low1 h_sb)
  have x1 : bits w 0 5 = 0 := hw ▸ low5 (by decide)
  simp [decodeChainWord, decodeWord, decodeRow7, eH, eM, eC, e_tile, e_a, e_b, e_sb, x1, bitOf_beq]

theorem mmqCb4 (tile : BitVec 4) (a : BitVec 7) (b : BitVec 7) (sb : Bool) : Statement (.mmqCb4 tile a b sb) := by
  intro ch w h
  simp only [encodeChainWord, encode, Option.map_some, Option.some.injEq] at h
  have hc := bitOf_lt ch
  have h_tile : tile.toNat < 16 := tile.isLt
  have h_a : a.toNat < 128 := a.isLt
  have h_b : b.toNat < 128 := b.isLt
  have h_sb := bitOf_lt sb
  have hw : w = (((((((bitOf ch) * 8 + 7) * 16 + 8) * 16 + tile.toNat) * 128 + a.toNat) * 128 + b.toNat) * 2 + bitOf sb) * 32 + 0 := by omega
  have eH : bits w 28 3 = 7 := hw ▸ (up5 (by decide)).trans ((up1 h_sb).trans ((up7 h_b).trans ((up7 h_a).trans ((up4 h_tile).trans ((up4 (by decide)).trans (low3 (by decide)))))))
  have eM : bits w 24 4 = 8 := hw ▸ (up5 (by decide)).trans ((up1 h_sb).trans ((up7 h_b).trans ((up7 h_a).trans ((up4 h_tile).trans (low4 (by decide))))))
  have eC : bits w 31 1 = bitOf ch := hw ▸ (up5 (by decide)).trans ((up1 h_sb).trans ((up7 h_b).trans ((up7 h_a).trans ((up4 h_tile).trans ((up4 (by decide)).trans ((up3 (by decide)).trans (top1 hc)))))))
  have e_tile : bits w 20 4 = tile.toNat := hw ▸ (up5 (by decide)).trans ((up1 h_sb).trans ((up7 h_b).trans ((up7 h_a).trans (low4 h_tile))))
  have e_a : bits w 13 7 = a.toNat := hw ▸ (up5 (by decide)).trans ((up1 h_sb).trans ((up7 h_b).trans (low7 h_a)))
  have e_b : bits w 6 7 = b.toNat := hw ▸ (up5 (by decide)).trans ((up1 h_sb).trans (low7 h_b))
  have e_sb : bits w 5 1 = bitOf sb := hw ▸ (up5 (by decide)).trans (low1 h_sb)
  have x1 : bits w 0 5 = 0 := hw ▸ low5 (by decide)
  simp [decodeChainWord, decodeWord, decodeRow7, eH, eM, eC, e_tile, e_a, e_b, e_sb, x1, bitOf_beq]

theorem mmqCbbf (tile : BitVec 4) (a : BitVec 7) (b : BitVec 7) (sb : Bool) : Statement (.mmqCbbf tile a b sb) := by
  intro ch w h
  simp only [encodeChainWord, encode, Option.map_some, Option.some.injEq] at h
  have hc := bitOf_lt ch
  have h_tile : tile.toNat < 16 := tile.isLt
  have h_a : a.toNat < 128 := a.isLt
  have h_b : b.toNat < 128 := b.isLt
  have h_sb := bitOf_lt sb
  have hw : w = (((((((bitOf ch) * 8 + 7) * 16 + 9) * 16 + tile.toNat) * 128 + a.toNat) * 128 + b.toNat) * 2 + bitOf sb) * 32 + 0 := by omega
  have eH : bits w 28 3 = 7 := hw ▸ (up5 (by decide)).trans ((up1 h_sb).trans ((up7 h_b).trans ((up7 h_a).trans ((up4 h_tile).trans ((up4 (by decide)).trans (low3 (by decide)))))))
  have eM : bits w 24 4 = 9 := hw ▸ (up5 (by decide)).trans ((up1 h_sb).trans ((up7 h_b).trans ((up7 h_a).trans ((up4 h_tile).trans (low4 (by decide))))))
  have eC : bits w 31 1 = bitOf ch := hw ▸ (up5 (by decide)).trans ((up1 h_sb).trans ((up7 h_b).trans ((up7 h_a).trans ((up4 h_tile).trans ((up4 (by decide)).trans ((up3 (by decide)).trans (top1 hc)))))))
  have e_tile : bits w 20 4 = tile.toNat := hw ▸ (up5 (by decide)).trans ((up1 h_sb).trans ((up7 h_b).trans ((up7 h_a).trans (low4 h_tile))))
  have e_a : bits w 13 7 = a.toNat := hw ▸ (up5 (by decide)).trans ((up1 h_sb).trans ((up7 h_b).trans (low7 h_a)))
  have e_b : bits w 6 7 = b.toNat := hw ▸ (up5 (by decide)).trans ((up1 h_sb).trans (low7 h_b))
  have e_sb : bits w 5 1 = bitOf sb := hw ▸ (up5 (by decide)).trans (low1 h_sb)
  have x1 : bits w 0 5 = 0 := hw ▸ low5 (by decide)
  simp [decodeChainWord, decodeWord, decodeRow7, eH, eM, eC, e_tile, e_a, e_b, e_sb, x1, bitOf_beq]

theorem mmqE2m1 (tile : BitVec 4) (a : BitVec 7) (b : BitVec 7) (sb : Bool) (ol : Bool) : Statement (.mmqE2m1 tile a b sb ol) := by
  intro ch w h
  simp only [encodeChainWord, encode, Option.map_some, Option.some.injEq] at h
  have hc := bitOf_lt ch
  have h_tile : tile.toNat < 16 := tile.isLt
  have h_a : a.toNat < 128 := a.isLt
  have h_b : b.toNat < 128 := b.isLt
  have h_sb := bitOf_lt sb
  have h_ol := bitOf_lt ol
  have hw : w = ((((((((bitOf ch) * 8 + 7) * 16 + 10) * 16 + tile.toNat) * 128 + a.toNat) * 128 + b.toNat) * 2 + bitOf sb) * 2 + bitOf ol) * 16 + 0 := by omega
  have eH : bits w 28 3 = 7 := hw ▸ (up4 (by decide)).trans ((up1 h_ol).trans ((up1 h_sb).trans ((up7 h_b).trans ((up7 h_a).trans ((up4 h_tile).trans ((up4 (by decide)).trans (low3 (by decide))))))))
  have eM : bits w 24 4 = 10 := hw ▸ (up4 (by decide)).trans ((up1 h_ol).trans ((up1 h_sb).trans ((up7 h_b).trans ((up7 h_a).trans ((up4 h_tile).trans (low4 (by decide)))))))
  have eC : bits w 31 1 = bitOf ch := hw ▸ (up4 (by decide)).trans ((up1 h_ol).trans ((up1 h_sb).trans ((up7 h_b).trans ((up7 h_a).trans ((up4 h_tile).trans ((up4 (by decide)).trans ((up3 (by decide)).trans (top1 hc))))))))
  have e_tile : bits w 20 4 = tile.toNat := hw ▸ (up4 (by decide)).trans ((up1 h_ol).trans ((up1 h_sb).trans ((up7 h_b).trans ((up7 h_a).trans (low4 h_tile)))))
  have e_a : bits w 13 7 = a.toNat := hw ▸ (up4 (by decide)).trans ((up1 h_ol).trans ((up1 h_sb).trans ((up7 h_b).trans (low7 h_a))))
  have e_b : bits w 6 7 = b.toNat := hw ▸ (up4 (by decide)).trans ((up1 h_ol).trans ((up1 h_sb).trans (low7 h_b)))
  have e_sb : bits w 5 1 = bitOf sb := hw ▸ (up4 (by decide)).trans ((up1 h_ol).trans (low1 h_sb))
  have e_ol : bits w 4 1 = bitOf ol := hw ▸ (up4 (by decide)).trans (low1 h_ol)
  have x1 : bits w 0 4 = 0 := hw ▸ low4 (by decide)
  simp [decodeChainWord, decodeWord, decodeRow7, eH, eM, eC, e_tile, e_a, e_b, e_sb, e_ol, x1, bitOf_beq]

theorem mmz (tile : BitVec 4) : Statement (.mmz tile) := by
  intro ch w h
  simp only [encodeChainWord, encode, Option.map_some, Option.some.injEq] at h
  have hc := bitOf_lt ch
  have h_tile : tile.toNat < 16 := tile.isLt
  have hw : w = ((((bitOf ch) * 8 + 7) * 16 + 11) * 16 + tile.toNat) * 1048576 + 0 := by omega
  have eH : bits w 28 3 = 7 := hw ▸ (up20 (by decide)).trans ((up4 h_tile).trans ((up4 (by decide)).trans (low3 (by decide))))
  have eM : bits w 24 4 = 11 := hw ▸ (up20 (by decide)).trans ((up4 h_tile).trans (low4 (by decide)))
  have eC : bits w 31 1 = bitOf ch := hw ▸ (up20 (by decide)).trans ((up4 h_tile).trans ((up4 (by decide)).trans ((up3 (by decide)).trans (top1 hc))))
  have e_tile : bits w 20 4 = tile.toNat := hw ▸ (up20 (by decide)).trans (low4 h_tile)
  have x1 : bits w 0 20 = 0 := hw ▸ low20 (by decide)
  simp [decodeChainWord, decodeWord, decodeRow7, eH, eM, eC, e_tile, x1, bitOf_beq]

theorem mmrd (tile : BitVec 4) (a : BitVec 7) : Statement (.mmrd tile a) := by
  intro ch w h
  simp only [encodeChainWord, encode, Option.map_some, Option.some.injEq] at h
  have hc := bitOf_lt ch
  have h_tile : tile.toNat < 16 := tile.isLt
  have h_a : a.toNat < 128 := a.isLt
  have hw : w = (((((bitOf ch) * 8 + 7) * 16 + 12) * 16 + tile.toNat) * 128 + a.toNat) * 8192 + 0 := by omega
  have eH : bits w 28 3 = 7 := hw ▸ (up13 (by decide)).trans ((up7 h_a).trans ((up4 h_tile).trans ((up4 (by decide)).trans (low3 (by decide)))))
  have eM : bits w 24 4 = 12 := hw ▸ (up13 (by decide)).trans ((up7 h_a).trans ((up4 h_tile).trans (low4 (by decide))))
  have eC : bits w 31 1 = bitOf ch := hw ▸ (up13 (by decide)).trans ((up7 h_a).trans ((up4 h_tile).trans ((up4 (by decide)).trans ((up3 (by decide)).trans (top1 hc)))))
  have e_tile : bits w 20 4 = tile.toNat := hw ▸ (up13 (by decide)).trans ((up7 h_a).trans (low4 h_tile))
  have e_a : bits w 13 7 = a.toNat := hw ▸ (up13 (by decide)).trans (low7 h_a)
  have x1 : bits w 0 13 = 0 := hw ▸ low13 (by decide)
  simp [decodeChainWord, decodeWord, decodeRow7, eH, eM, eC, e_tile, e_a, x1, bitOf_beq]

theorem mmwr (tile : BitVec 4) (a : BitVec 7) : Statement (.mmwr tile a) := by
  intro ch w h
  simp only [encodeChainWord, encode, Option.map_some, Option.some.injEq] at h
  have hc := bitOf_lt ch
  have h_tile : tile.toNat < 16 := tile.isLt
  have h_a : a.toNat < 128 := a.isLt
  have hw : w = (((((bitOf ch) * 8 + 7) * 16 + 13) * 16 + tile.toNat) * 128 + a.toNat) * 8192 + 0 := by omega
  have eH : bits w 28 3 = 7 := hw ▸ (up13 (by decide)).trans ((up7 h_a).trans ((up4 h_tile).trans ((up4 (by decide)).trans (low3 (by decide)))))
  have eM : bits w 24 4 = 13 := hw ▸ (up13 (by decide)).trans ((up7 h_a).trans ((up4 h_tile).trans (low4 (by decide))))
  have eC : bits w 31 1 = bitOf ch := hw ▸ (up13 (by decide)).trans ((up7 h_a).trans ((up4 h_tile).trans ((up4 (by decide)).trans ((up3 (by decide)).trans (top1 hc)))))
  have e_tile : bits w 20 4 = tile.toNat := hw ▸ (up13 (by decide)).trans ((up7 h_a).trans (low4 h_tile))
  have e_a : bits w 13 7 = a.toNat := hw ▸ (up13 (by decide)).trans (low7 h_a)
  have x1 : bits w 0 13 = 0 := hw ▸ low13 (by decide)
  simp [decodeChainWord, decodeWord, decodeRow7, eH, eM, eC, e_tile, e_a, x1, bitOf_beq]

theorem mmst (tile : BitVec 4) (a : BitVec 7) : Statement (.mmst tile a) := by
  intro ch w h
  simp only [encodeChainWord, encode, Option.map_some, Option.some.injEq] at h
  have hc := bitOf_lt ch
  have h_tile : tile.toNat < 16 := tile.isLt
  have h_a : a.toNat < 128 := a.isLt
  have hw : w = (((((bitOf ch) * 8 + 7) * 16 + 14) * 16 + tile.toNat) * 128 + a.toNat) * 8192 + 0 := by omega
  have eH : bits w 28 3 = 7 := hw ▸ (up13 (by decide)).trans ((up7 h_a).trans ((up4 h_tile).trans ((up4 (by decide)).trans (low3 (by decide)))))
  have eM : bits w 24 4 = 14 := hw ▸ (up13 (by decide)).trans ((up7 h_a).trans ((up4 h_tile).trans (low4 (by decide))))
  have eC : bits w 31 1 = bitOf ch := hw ▸ (up13 (by decide)).trans ((up7 h_a).trans ((up4 h_tile).trans ((up4 (by decide)).trans ((up3 (by decide)).trans (top1 hc)))))
  have e_tile : bits w 20 4 = tile.toNat := hw ▸ (up13 (by decide)).trans ((up7 h_a).trans (low4 h_tile))
  have e_a : bits w 13 7 = a.toNat := hw ▸ (up13 (by decide)).trans (low7 h_a)
  have x1 : bits w 0 13 = 0 := hw ▸ low13 (by decide)
  simp [decodeChainWord, decodeWord, decodeRow7, eH, eM, eC, e_tile, e_a, x1, bitOf_beq]

theorem mmld (tile : BitVec 4) (a : BitVec 7) : Statement (.mmld tile a) := by
  intro ch w h
  simp only [encodeChainWord, encode, Option.map_some, Option.some.injEq] at h
  have hc := bitOf_lt ch
  have h_tile : tile.toNat < 16 := tile.isLt
  have h_a : a.toNat < 128 := a.isLt
  have hw : w = (((((bitOf ch) * 8 + 7) * 16 + 15) * 16 + tile.toNat) * 128 + a.toNat) * 8192 + 0 := by omega
  have eH : bits w 28 3 = 7 := hw ▸ (up13 (by decide)).trans ((up7 h_a).trans ((up4 h_tile).trans ((up4 (by decide)).trans (low3 (by decide)))))
  have eM : bits w 24 4 = 15 := hw ▸ (up13 (by decide)).trans ((up7 h_a).trans ((up4 h_tile).trans (low4 (by decide))))
  have eC : bits w 31 1 = bitOf ch := hw ▸ (up13 (by decide)).trans ((up7 h_a).trans ((up4 h_tile).trans ((up4 (by decide)).trans ((up3 (by decide)).trans (top1 hc)))))
  have e_tile : bits w 20 4 = tile.toNat := hw ▸ (up13 (by decide)).trans ((up7 h_a).trans (low4 h_tile))
  have e_a : bits w 13 7 = a.toNat := hw ▸ (up13 (by decide)).trans (low7 h_a)
  have x1 : bits w 0 13 = 0 := hw ▸ low13 (by decide)
  simp [decodeChainWord, decodeWord, decodeRow7, eH, eM, eC, e_tile, e_a, x1, bitOf_beq]

theorem post (q : Nat) (width : Nat) (v : DWord) : Statement (.post q width v) := by
  intro c w h; simp [encodeChainWord, encode] at h

theorem qcfgWrite (q : Nat) (sup : Bool) (v : DWord) : Statement (.qcfgWrite q sup v) := by
  intro c w h; simp [encodeChainWord, encode] at h

theorem qovfbaseWrite (q : Nat) (sup : Bool) (v : DWord) : Statement (.qovfbaseWrite q sup v) := by
  intro c w h; simp [encodeChainWord, encode] at h

theorem qovfszWrite (q : Nat) (sup : Bool) (v : DWord) : Statement (.qovfszWrite q sup v) := by
  intro c w h; simp [encodeChainWord, encode] at h

theorem qrbaseWrite (q : Nat) (sup : Bool) (v : DWord) : Statement (.qrbaseWrite q sup v) := by
  intro c w h; simp [encodeChainWord, encode] at h

theorem registerWrite (off : Nat) (width : Nat) (sup : Bool) (v : DWord) : Statement (.registerWrite off width sup v) := by
  intro c w h; simp [encodeChainWord, encode] at h

theorem attestationGo (v : DWord) : Statement (.attestationGo v) := by
  intro c w h; simp [encodeChainWord, encode] at h

theorem attestationReportReady : Statement (.attestationReportReady) := by
  intro c w h; simp [encodeChainWord, encode] at h

theorem readHealthSummary : Statement (.readHealthSummary) := by
  intro c w h; simp [encodeChainWord, encode] at h

theorem readPower : Statement (.readPower) := by
  intro c w h; simp [encodeChainWord, encode] at h

theorem readTemperature : Statement (.readTemperature) := by
  intro c w h; simp [encodeChainWord, encode] at h

theorem requestReport (nonce : List Byte) (ctx : Byte) : Statement (.requestReport nonce ctx) := by
  intro c w h; simp [encodeChainWord, encode] at h

theorem readReport : Statement (.readReport) := by
  intro c w h; simp [encodeChainWord, encode] at h

theorem setPowerStateP0 : Statement (.setPowerStateP0) := by
  intro c w h; simp [encodeChainWord, encode] at h

theorem setPowerStateP1 : Statement (.setPowerStateP1) := by
  intro c w h; simp [encodeChainWord, encode] at h

theorem setPowerStateP2 : Statement (.setPowerStateP2) := by
  intro c w h; simp [encodeChainWord, encode] at h

theorem setPowerStateOff : Statement (.setPowerStateOff) := by
  intro c w h; simp [encodeChainWord, encode] at h

theorem setdasa (addr : BitVec 7) : Statement (.setdasa addr) := by
  intro c w h; simp [encodeChainWord, encode] at h

theorem powerStateExitComplete : Statement (.powerStateExitComplete) := by
  intro c w h; simp [encodeChainWord, encode] at h

theorem enterP1 : Statement (.enterP1) := by
  intro c w h; simp [encodeChainWord, encode] at h

theorem packageReset : Statement (.packageReset) := by
  intro c w h; simp [encodeChainWord, encode] at h

theorem bootLoadFirstStage (loaded : Bool) (image : List Byte) : Statement (.bootLoadFirstStage loaded image) := by
  intro c w h; simp [encodeChainWord, encode] at h

theorem bootLoadNewelFirmware (loaded : Bool) (image : List Byte) : Statement (.bootLoadNewelFirmware loaded image) := by
  intro c w h; simp [encodeChainWord, encode] at h

theorem bootLoadCollectiveMicrocode (loaded : Bool) (image : List Byte) : Statement (.bootLoadCollectiveMicrocode loaded image) := by
  intro c w h; simp [encodeChainWord, encode] at h

theorem bootRelease (links : List LinkEntry) : Statement (.bootRelease links) := by
  intro c w h; simp [encodeChainWord, encode] at h

theorem firmwareReload (image : List Byte) : Statement (.firmwareReload image) := by
  intro c w h; simp [encodeChainWord, encode] at h

theorem thermalSet : Statement (.thermalSet) := by
  intro c w h; simp [encodeChainWord, encode] at h

theorem thermalClear : Statement (.thermalClear) := by
  intro c w h; simp [encodeChainWord, encode] at h

theorem thermalShutdown : Statement (.thermalShutdown) := by
  intro c w h; simp [encodeChainWord, encode] at h

theorem contextCreate (ctx : Nat) (p : CtxParams) : Statement (.contextCreate ctx p) := by
  intro c w h; simp [encodeChainWord, encode] at h

theorem setTrapBase (ctx : Nat) (tbase : DWord) : Statement (.setTrapBase ctx tbase) := by
  intro c w h; simp [encodeChainWord, encode] at h

theorem setWayQuota (ctx : Nat) (w : Nat) (a : Nat) (k : Nat) (o : Nat) : Statement (.setWayQuota ctx w a k o) := by
  intro c w h; simp [encodeChainWord, encode] at h

theorem defineCollectiveSet (ctx : Nat) (set : Nat) (pkgs : List Nat) : Statement (.defineCollectiveSet ctx set pkgs) := by
  intro c w h; simp [encodeChainWord, encode] at h

theorem setGranuleTags (ctx : Nat) (va : DWord) (n : Nat) (tag : BitVec 4) : Statement (.setGranuleTags ctx va n tag) := by
  intro c w h; simp [encodeChainWord, encode] at h

theorem shootdownRequest (ctx : Nat) (va : DWord) (leaf : DWord) : Statement (.shootdownRequest ctx va leaf) := by
  intro c w h; simp [encodeChainWord, encode] at h

theorem shootdownComplete (ctx : Nat) (va : DWord) : Statement (.shootdownComplete ctx va) := by
  intro c w h; simp [encodeChainWord, encode] at h

theorem contextKill (ctx : Nat) : Statement (.contextKill ctx) := by
  intro c w h; simp [encodeChainWord, encode] at h

theorem queueVisit (q : Nat) : Statement (.queueVisit q) := by
  intro c w h; simp [encodeChainWord, encode] at h

theorem bindRecordWrite (r : BindWrite) : Statement (.bindRecordWrite r) := by
  intro c w h; simp [encodeChainWord, encode] at h

theorem preemptionComplete (ctx : Nat) (seq : Nat) (gang : Nat) : Statement (.preemptionComplete ctx seq gang) := by
  intro c w h; simp [encodeChainWord, encode] at h

theorem restore (ctx : Nat) (seq : Nat) (gang : Nat) (binds : List BindWrite) (bad : BitVec 2) : Statement (.restore ctx seq gang binds bad) := by
  intro c w h; simp [encodeChainWord, encode] at h

theorem blockRetire (ctx : Nat) (seq : Nat) (blk : Nat) : Statement (.blockRetire ctx seq blk) := by
  intro c w h; simp [encodeChainWord, encode] at h

theorem taskRetire (ctx : Nat) (seq : Nat) : Statement (.taskRetire ctx seq) := by
  intro c w h; simp [encodeChainWord, encode] at h

theorem queueDeadlockSample (q : Nat) : Statement (.queueDeadlockSample q) := by
  intro c w h; simp [encodeChainWord, encode] at h

theorem packetFetchFill (hall : Nat) (ctx : Nat) (va : DWord) : Statement (.packetFetchFill hall ctx va) := by
  intro c w h; simp [encodeChainWord, encode] at h

theorem tlbWalkComplete (hall : Nat) (ctx : Nat) (va : DWord) : Statement (.tlbWalkComplete hall ctx va) := by
  intro c w h; simp [encodeChainWord, encode] at h

theorem pageResident (ctx : Nat) (va : DWord) (leaf : DWord) : Statement (.pageResident ctx va leaf) := by
  intro c w h; simp [encodeChainWord, encode] at h

theorem migrationStart (ctx : Nat) (va : DWord) : Statement (.migrationStart ctx va) := by
  intro c w h; simp [encodeChainWord, encode] at h

theorem migrationComplete (ctx : Nat) (va : DWord) (frame : Nat) : Statement (.migrationComplete ctx va frame) := by
  intro c w h; simp [encodeChainWord, encode] at h

theorem loadReturn (hall : Nat) (slot : Nat) (n : Nat) (k : Nat) : Statement (.loadReturn hall slot n k) := by
  intro c w h; simp [encodeChainWord, encode] at h

theorem storePerformed (hall : Nat) (slot : Nat) (n : Nat) (k : Nat) : Statement (.storePerformed hall slot n k) := by
  intro c w h; simp [encodeChainWord, encode] at h

theorem atomicPerformed (hall : Nat) (slot : Nat) (n : Nat) (k : Nat) : Statement (.atomicPerformed hall slot n k) := by
  intro c w h; simp [encodeChainWord, encode] at h

theorem copyCommandRetire (hall : Nat) (n : Nat) (r : Nat) (w : Nat) : Statement (.copyCommandRetire hall n r w) := by
  intro c w h; simp [encodeChainWord, encode] at h

theorem cpygRowGather (hall : Nat) (n : Nat) : Statement (.cpygRowGather hall n) := by
  intro c w h; simp [encodeChainWord, encode] at h

theorem pubInstant (ctx : Nat) (entry : Nat) : Statement (.pubInstant ctx entry) := by
  intro c w h; simp [encodeChainWord, encode] at h

theorem pubRetire (ctx : Nat) (entry : Nat) : Statement (.pubRetire ctx entry) := by
  intro c w h; simp [encodeChainWord, encode] at h

theorem mmqRetire (hall : Nat) (slot : Nat) (mismatch : Bool) : Statement (.mmqRetire hall slot mismatch) := by
  intro c w h; simp [encodeChainWord, encode] at h

theorem regionRestart (hall : Nat) (slot : Nat) : Statement (.regionRestart hall slot) := by
  intro c w h; simp [encodeChainWord, encode] at h

theorem commitTimeout (hall : Nat) (slot : Nat) (lane : Nat) : Statement (.commitTimeout hall slot lane) := by
  intro c w h; simp [encodeChainWord, encode] at h

theorem relabel (ctx : Nat) (arena : DWord) (keys : List KeyInterval) : Statement (.relabel ctx arena keys) := by
  intro c w h; simp [encodeChainWord, encode] at h

theorem staleTaskRestart (ctx : Nat) (seq : Nat) : Statement (.staleTaskRestart ctx seq) := by
  intro c w h; simp [encodeChainWord, encode] at h

theorem propagationComplete (ctx : Nat) (arena : DWord) : Statement (.propagationComplete ctx arena) := by
  intro c w h; simp [encodeChainWord, encode] at h

theorem partialValueReceive (ctx : Nat) (set : Nat) (cid : Nat) (chunk : Nat) (tsid : Nat) (child : Nat) (data : List Byte) (flags : BitVec 5) (head : CollHead) : Statement (.partialValueReceive ctx set cid chunk tsid child data flags head) := by
  intro c w h; simp [encodeChainWord, encode] at h

theorem chunkAck (ctx : Nat) (set : Nat) (cid : Nat) (chunk : Nat) (tsid : Nat) (rank : Nat) : Statement (.chunkAck ctx set cid chunk tsid rank) := by
  intro c w h; simp [encodeChainWord, encode] at h

theorem collectiveComplete (ctx : Nat) (set : Nat) (cid : Nat) : Statement (.collectiveComplete ctx set cid) := by
  intro c w h; simp [encodeChainWord, encode] at h

theorem collectiveFail (ctx : Nat) (set : Nat) (cid : Nat) (cause : BitVec 8) : Statement (.collectiveFail ctx set cid cause) := by
  intro c w h; simp [encodeChainWord, encode] at h

theorem linkDownDeclare (pkg : Nat) (port : Nat) : Statement (.linkDownDeclare pkg port) := by
  intro c w h; simp [encodeChainWord, encode] at h

theorem linkTableUpdate (entry : LinkEntry) : Statement (.linkTableUpdate entry) := by
  intro c w h; simp [encodeChainWord, encode] at h

theorem treeSetRecompute (trees : List (List TreeNode)) : Statement (.treeSetRecompute trees) := by
  intro c w h; simp [encodeChainWord, encode] at h

theorem lockstepIntervalCompare (ctx : Nat) (digest : DWord) : Statement (.lockstepIntervalCompare ctx digest) := by
  intro c w h; simp [encodeChainWord, encode] at h

theorem lockstepDecisionApply (d : Decision) : Statement (.lockstepDecisionApply d) := by
  intro c w h; simp [encodeChainWord, encode] at h

theorem errorCorrected (unit : Nat) (kind : BitVec 2) : Statement (.errorCorrected unit kind) := by
  intro c w h; simp [encodeChainWord, encode] at h

theorem scoreDecay : Statement (.scoreDecay) := by
  intro c w h; simp [encodeChainWord, encode] at h

theorem unitTestComplete (unit : Nat) (pass : Bool) : Statement (.unitTestComplete unit pass) := by
  intro c w h; simp [encodeChainWord, encode] at h

theorem uncorrectableError (place : ErrPlace) : Statement (.uncorrectableError place) := by
  intro c w h; simp [encodeChainWord, encode] at h

theorem gangKill (ctx : Nat) (seq : Nat) (gang : Nat) : Statement (.gangKill ctx seq gang) := by
  intro c w h; simp [encodeChainWord, encode] at h

theorem lockstepDivergeClear (v : Word) : Statement (.lockstepDivergeClear v) := by
  intro c w h; simp [encodeChainWord, encode] at h

theorem debugRightWrite (ctx : Nat) (sup : Bool) (v : DWord) : Statement (.debugRightWrite ctx sup v) := by
  intro c w h; simp [encodeChainWord, encode] at h

theorem haltGroup (ctx : Nat) (v : DWord) : Statement (.haltGroup ctx v) := by
  intro c w h; simp [encodeChainWord, encode] at h

theorem resumeGroup (ctx : Nat) (v : DWord) : Statement (.resumeGroup ctx v) := by
  intro c w h; simp [encodeChainWord, encode] at h

theorem stepGroup (ctx : Nat) (v : DWord) : Statement (.stepGroup ctx v) := by
  intro c w h; simp [encodeChainWord, encode] at h

theorem haltContext (ctx : Nat) (v : DWord) : Statement (.haltContext ctx v) := by
  intro c w h; simp [encodeChainWord, encode] at h

theorem resumeContext (ctx : Nat) (v : DWord) : Statement (.resumeContext ctx v) := by
  intro c w h; simp [encodeChainWord, encode] at h

theorem traceGroupOn (ctx : Nat) (v : DWord) : Statement (.traceGroupOn ctx v) := by
  intro c w h; simp [encodeChainWord, encode] at h

theorem traceGroupOff (ctx : Nat) (v : DWord) : Statement (.traceGroupOff ctx v) := by
  intro c w h; simp [encodeChainWord, encode] at h

theorem selectGroup (ctx : Nat) (v : DWord) : Statement (.selectGroup ctx v) := by
  intro c w h; simp [encodeChainWord, encode] at h

theorem traceAllOn (ctx : Nat) (v : DWord) : Statement (.traceAllOn ctx v) := by
  intro c w h; simp [encodeChainWord, encode] at h

theorem traceAllOff (ctx : Nat) (v : DWord) : Statement (.traceAllOff ctx v) := by
  intro c w h; simp [encodeChainWord, encode] at h

theorem dump (ctx : Nat) (v : DWord) : Statement (.dump ctx v) := by
  intro c w h; simp [encodeChainWord, encode] at h

theorem coreDump (ctx : Nat) : Statement (.coreDump ctx) := by
  intro c w h; simp [encodeChainWord, encode] at h

theorem groupViewEdit (ctx : Nat) (e : ViewEdit) : Statement (.groupViewEdit ctx e) := by
  intro c w h; simp [encodeChainWord, encode] at h

theorem smpcfgWrite (ctx : Nat) (v : DWord) : Statement (.smpcfgWrite ctx v) := by
  intro c w h; simp [encodeChainWord, encode] at h

theorem sampleFire (hall : Nat) (ctx : Nat) : Statement (.sampleFire hall ctx) := by
  intro c w h; simp [encodeChainWord, encode] at h

theorem rpctlWrite (ctx : Nat) (v : DWord) : Statement (.rpctlWrite ctx v) := by
  intro c w h; simp [encodeChainWord, encode] at h

theorem replayRelease (hall : Nat) (slot : Nat) : Statement (.replayRelease hall slot) := by
  intro c w h; simp [encodeChainWord, encode] at h

theorem unlistedI3cCommand (code : Byte) : Statement (.unlistedI3cCommand code) := by
  intro c w h; simp [encodeChainWord, encode] at h

theorem setPowerStateOtherByte (b : Byte) : Statement (.setPowerStateOtherByte b) := by
  intro c w h; simp [encodeChainWord, encode] at h

theorem linkUp (entry : LinkEntry) : Statement (.linkUp entry) := by
  intro c w h; simp [encodeChainWord, encode] at h

theorem lockstepBridgeTrained : Statement (.lockstepBridgeTrained) := by
  intro c w h; simp [encodeChainWord, encode] at h

theorem lockstepBridgeLost : Statement (.lockstepBridgeLost) := by
  intro c w h; simp [encodeChainWord, encode] at h

theorem contextDestroy (ctx : Nat) : Statement (.contextDestroy ctx) := by
  intro c w h; simp [encodeChainWord, encode] at h

theorem hostAccess (ctx : Nat) (va : DWord) (write : Bool) (len : Nat) (data : List Byte) : Statement (.hostAccess ctx va write len data) := by
  intro c w h; simp [encodeChainWord, encode] at h

theorem tagVerdict (line : Nat) : Statement (.tagVerdict line) := by
  intro c w h; simp [encodeChainWord, encode] at h

theorem collAccept (hall : Nat) (slot : Nat) : Statement (.collAccept hall slot) := by
  intro c w h; simp [encodeChainWord, encode] at h

theorem cstatAnswer (hall : Nat) (slot : Nat) (n : Nat) : Statement (.cstatAnswer hall slot n) := by
  intro c w h; simp [encodeChainWord, encode] at h

theorem propAnswer (hall : Nat) (slot : Nat) : Statement (.propAnswer hall slot) := by
  intro c w h; simp [encodeChainWord, encode] at h

theorem commitOutcome (hall : Nat) (slot : Nat) (k : Nat) : Statement (.commitOutcome hall slot k) := by
  intro c w h; simp [encodeChainWord, encode] at h

theorem stashCommandDone (hall : Nat) (n : Nat) : Statement (.stashCommandDone hall n) := by
  intro c w h; simp [encodeChainWord, encode] at h

theorem sliceRehomingDone (unit : Nat) : Statement (.sliceRehomingDone unit) := by
  intro c w h; simp [encodeChainWord, encode] at h

theorem chunkBroadcastReceive (ctx : Nat) (set : Nat) (cid : Nat) (chunk : Nat) (tsid : Nat) (data : List Byte) (flags : BitVec 5) : Statement (.chunkBroadcastReceive ctx set cid chunk tsid data flags) := by
  intro c w h; simp [encodeChainWord, encode] at h

end Sys2Proof.Laws.RoundTrip
end

