-- ==== Sys2Proof/Laws/Side.lean ====
section
/-! SUPPORT. Reads and writes of memory on any agent's behalf change memory, its marks, the stashes and the records of contexts
alone: groups, tasks, gangs, halls, queues, the agenda and the package stand. -/

namespace Sys2Proof.Machine

/-- Two states agree on everything but memory, its marks, the blocks and the contexts. -/
structure SameSide (s t : State) : Prop where
  g : t.g = s.g
  groups : t.groups = s.groups
  cur : t.cur = s.cur
  events : t.events = s.events
  clk : t.clk = s.clk
  free : t.free = s.free
  queues : t.queues = s.queues
  tasks : t.tasks = s.tasks
  gangs : t.gangs = s.gangs
  halls : t.halls = s.halls
  saved : t.saved = s.saved
  pointers : t.pointers = s.pointers
  ageNext : t.ageNext = s.ageNext
  closed : t.closed = s.closed
  pkg : t.pkg = s.pkg

theorem SameSide.refl (s : State) : SameSide s s := ⟨rfl, rfl, rfl, rfl, rfl, rfl, rfl, rfl, rfl, rfl, rfl, rfl, rfl, rfl, rfl⟩

theorem SameSide.trans {s t u : State} (h : SameSide s t) (k : SameSide t u) : SameSide s u :=
  ⟨k.g.trans h.g, k.groups.trans h.groups, k.cur.trans h.cur, k.events.trans h.events, k.clk.trans h.clk, k.free.trans h.free,
    k.queues.trans h.queues, k.tasks.trans h.tasks, k.gangs.trans h.gangs, k.halls.trans h.halls, k.saved.trans h.saved,
    k.pointers.trans h.pointers, k.ageNext.trans h.ageNext, k.closed.trans h.closed, k.pkg.trans h.pkg⟩

/-- A fold of steps that each change only the side. -/
theorem SameSide.foldl {α : Type} (f : State → α → State) (hf : ∀ s x, SameSide s (f s x)) (xs : List α) (s : State) :
    SameSide s (xs.foldl f s) := by
  induction xs generalizing s with
  | nil => exact SameSide.refl s
  | cons x xs ih => exact (hf s x).trans (ih (f s x))

theorem State.updBlock_side (s : State) (c seq blk : Nat) (f : Block → Block) : SameSide s (State.updBlock s c seq blk f) :=
  ⟨rfl, rfl, rfl, rfl, rfl, rfl, rfl, rfl, rfl, rfl, rfl, rfl, rfl, rfl, rfl⟩

theorem State.updCtx_side (s : State) (c : Nat) (f : Ctx → Ctx) : SameSide s (State.updCtx s c f) := by
  unfold State.updCtx
  split
  · exact ⟨rfl, rfl, rfl, rfl, rfl, rfl, rfl, rfl, rfl, rfl, rfl, rfl, rfl, rfl, rfl⟩
  · exact SameSide.refl s

theorem State.flushBlock_side (s : State) (c seq blk : Nat) (p : StashLine → Bool) (keep : Bool) :
    SameSide s (State.flushBlock s c seq blk p keep) := by
  unfold State.flushBlock
  split
  · exact SameSide.refl s
  · dsimp only
    split
    · exact SameSide.refl s
    · exact ⟨rfl, rfl, rfl, rfl, rfl, rfl, rfl, rfl, rfl, rfl, rfl, rfl, rfl, rfl, rfl⟩

theorem State.recall_side (s : State) (except : Option (Nat × Nat × Nat)) (pa len : Nat) (write : Bool) :
    SameSide s (State.recall s except pa len write) := by
  unfold State.recall
  split
  · exact SameSide.refl s
  · refine SameSide.foldl _ (fun s b => ?_) _ s
    split
    · exact SameSide.refl s
    · exact State.flushBlock_side ..

theorem State.markWritten_side (s : State) (pa len : Nat) (bad : Bool) : SameSide s (State.markWritten s pa len bad) := by
  unfold State.markWritten
  split <;> exact ⟨rfl, rfl, rfl, rfl, rfl, rfl, rfl, rfl, rfl, rfl, rfl, rfl, rfl, rfl, rfl⟩

theorem State.readRun_side (s : State) (who : Viewer) (va pa len : Nat) : SameSide s (State.readRun s who va pa len).2 := by
  unfold State.readRun
  split
  · exact State.recall_side ..
  · exact (State.recall_side ..).trans (State.updBlock_side ..)

theorem State.writeRun_side (s : State) (who : Viewer) (va pa : Nat) (bs : List Byte) (bad : Bool) :
    SameSide s (State.writeRun s who va pa bs bad) := by
  unfold State.writeRun
  refine (State.markWritten_side s pa bs.length bad).trans ?_
  dsimp only
  split
  · exact (State.recall_side ..).trans ⟨rfl, rfl, rfl, rfl, rfl, rfl, rfl, rfl, rfl, rfl, rfl, rfl, rfl, rfl, rfl⟩
  · refine (State.readRun_side _ who va pa bs.length).trans ((State.recall_side _ who pa bs.length true).trans ?_)
    split
    · exact SameSide.refl _
    · exact State.updBlock_side ..

theorem State.recallWalk_side (s : State) (c va : Nat) : SameSide s (State.recallWalk s c va) := by
  unfold State.recallWalk
  split
  · exact SameSide.refl s
  · split
    · exact SameSide.refl s
    · exact SameSide.foldl _ (fun s p => State.recall_side ..) _ s

theorem State.readVirt_side (s : State) (c va len : Nat) : SameSide s (State.readVirt s c va len).2 := by
  unfold State.readVirt
  have key : ∀ (ps : List (DWord × Nat)) (r : List Byte × State), SameSide r.2 (ps.foldl (fun (r : List Byte × State) p =>
      match State.walk r.2 c (vaOf p.1) with
      | .absent => (r.1 ++ List.replicate p.2 0, r.2)
      | .leaf l _ =>
        let t := State.recallWalk r.2 c (vaOf p.1)
        let x := State.readRun t none (vaOf p.1) (State.physOf t c l true (vaOf p.1)) p.2
        (r.1 ++ x.1, x.2)) r).2 := by
    intro ps
    induction ps with
    | nil => intro r; exact SameSide.refl _
    | cons p ps ih =>
      intro r
      rw [List.foldl_cons]
      refine SameSide.trans ?_ (ih _)
      split
      · exact SameSide.refl _
      · exact (State.recallWalk_side ..).trans (State.readRun_side ..)
  exact key _ ([], s)

theorem State.writeVirt_side (s : State) (c va : Nat) (bs : List Byte) : SameSide s (State.writeVirt s c va bs) := by
  unfold State.writeVirt
  have key : ∀ (ps : List (DWord × Nat)) (r : Nat × State), SameSide r.2 (ps.foldl (fun (r : Nat × State) p =>
      (r.1 + p.2,
        match State.walk r.2 c (vaOf p.1) with
        | .absent => r.2
        | .leaf l _ =>
          let t := State.recallWalk r.2 c (vaOf p.1)
          State.writeRun t none (vaOf p.1) (State.physOf t c l true (vaOf p.1)) ((bs.drop r.1).take p.2) false)) r).2 := by
    intro ps
    induction ps with
    | nil => intro r; exact SameSide.refl _
    | cons p ps ih =>
      intro r
      rw [List.foldl_cons]
      refine SameSide.trans ?_ (ih _)
      dsimp only
      split
      · exact SameSide.refl _
      · exact (State.recallWalk_side ..).trans (State.writeRun_side ..)
  exact key _ (0, s)

theorem State.putWords_side (s : State) (c va : Nat) (ws : List Nat) : SameSide s (State.putWords s c va ws) :=
  State.writeVirt_side ..

theorem State.unrender_side (s : State) (c : Nat) (t : Trace) : SameSide s (State.unrender s c t) := by
  unfold State.unrender
  exact (SameSide.foldl _ (fun s x => State.putWords_side ..) _ s).trans (SameSide.foldl _ (fun s x => State.putWords_side ..) _ _)

theorem State.render_side (s : State) (c : Nat) (t : Trace) : SameSide s (State.render s c t) := by
  unfold State.render
  dsimp only
  refine SameSide.trans ?_ (SameSide.foldl _ (fun s x => (State.putWords_side ..).trans (State.writeVirt_side ..)) _ _)
  refine SameSide.trans ?_ (SameSide.foldl _ (fun s x => ?_) _ _)
  · refine SameSide.trans (State.writeVirt_side ..) (SameSide.foldl _ (fun s x => ?_) _ _)
    refine SameSide.trans ?_ (State.putWords_side ..)
    split
    · exact SameSide.refl _
    · exact State.putWords_side ..
  · split
    · exact (State.putWords_side ..).trans (State.putWords_side ..)
    · exact State.putWords_side ..

theorem State.updTrace_side (s : State) (c : Nat) (arena : DWord) (f : Trace → Trace) : SameSide s (State.updTrace s c arena f) := by
  unfold State.updTrace
  split
  · exact SameSide.refl s
  · exact (State.unrender_side ..).trans ((State.updCtx_side ..).trans (State.render_side ..))

theorem State.markVolatile_side (s : State) (c seq : Nat) : SameSide s (State.markVolatile s c seq) := by
  unfold State.markVolatile
  split
  · exact SameSide.refl s
  · split
    · exact SameSide.refl s
    · exact State.updTrace_side ..

end Sys2Proof.Machine
end

