-- ==== Sys2Proof/Laws/State.lean ====
section
/-! SUPPORT. One law for each field of each plain update of the state. The laws of the field mem stand in Laws/KeepMemory. -/

namespace Sys2Proof.Machine

@[simp] theorem State.updG_g (s : State) (f : Group → Group) : (State.updG s f).g = f s.g := rfl
@[simp] theorem State.updG_groups (s : State) (f : Group → Group) : (State.updG s f).groups = s.groups := rfl
@[simp] theorem State.updG_cur (s : State) (f : Group → Group) : (State.updG s f).cur = s.cur := rfl
@[simp] theorem State.updG_events (s : State) (f : Group → Group) : (State.updG s f).events = s.events := rfl
@[simp] theorem State.updG_clk (s : State) (f : Group → Group) : (State.updG s f).clk = s.clk := rfl
@[simp] theorem State.updG_free (s : State) (f : Group → Group) : (State.updG s f).free = s.free := rfl
@[simp] theorem State.updG_gtags (s : State) (f : Group → Group) : (State.updG s f).gtags = s.gtags := rfl
@[simp] theorem State.updG_gpoison (s : State) (f : Group → Group) : (State.updG s f).gpoison = s.gpoison := rfl
@[simp] theorem State.updG_sideband (s : State) (f : Group → Group) : (State.updG s f).sideband = s.sideband := rfl
@[simp] theorem State.updG_ctxs (s : State) (f : Group → Group) : (State.updG s f).ctxs = s.ctxs := rfl
@[simp] theorem State.updG_queues (s : State) (f : Group → Group) : (State.updG s f).queues = s.queues := rfl
@[simp] theorem State.updG_tasks (s : State) (f : Group → Group) : (State.updG s f).tasks = s.tasks := rfl
@[simp] theorem State.updG_blocks (s : State) (f : Group → Group) : (State.updG s f).blocks = s.blocks := rfl
@[simp] theorem State.updG_gangs (s : State) (f : Group → Group) : (State.updG s f).gangs = s.gangs := rfl
@[simp] theorem State.updG_halls (s : State) (f : Group → Group) : (State.updG s f).halls = s.halls := rfl
@[simp] theorem State.updG_saved (s : State) (f : Group → Group) : (State.updG s f).saved = s.saved := rfl
@[simp] theorem State.updG_pointers (s : State) (f : Group → Group) : (State.updG s f).pointers = s.pointers := rfl
@[simp] theorem State.updG_ageNext (s : State) (f : Group → Group) : (State.updG s f).ageNext = s.ageNext := rfl
@[simp] theorem State.updG_closed (s : State) (f : Group → Group) : (State.updG s f).closed = s.closed := rfl
@[simp] theorem State.updG_strike (s : State) (f : Group → Group) : (State.updG s f).strike = s.strike := rfl
@[simp] theorem State.updG_l2 (s : State) (f : Group → Group) : (State.updG s f).l2 = s.l2 := rfl
@[simp] theorem State.updG_pageCounts (s : State) (f : Group → Group) : (State.updG s f).pageCounts = s.pageCounts := rfl
@[simp] theorem State.updG_pkg (s : State) (f : Group → Group) : (State.updG s f).pkg = s.pkg := rfl

@[simp] theorem State.updPkg_g (s : State) (f : Pkg → Pkg) : (State.updPkg s f).g = s.g := rfl
@[simp] theorem State.updPkg_groups (s : State) (f : Pkg → Pkg) : (State.updPkg s f).groups = s.groups := rfl
@[simp] theorem State.updPkg_cur (s : State) (f : Pkg → Pkg) : (State.updPkg s f).cur = s.cur := rfl
@[simp] theorem State.updPkg_events (s : State) (f : Pkg → Pkg) : (State.updPkg s f).events = s.events := rfl
@[simp] theorem State.updPkg_clk (s : State) (f : Pkg → Pkg) : (State.updPkg s f).clk = s.clk := rfl
@[simp] theorem State.updPkg_free (s : State) (f : Pkg → Pkg) : (State.updPkg s f).free = s.free := rfl
@[simp] theorem State.updPkg_gtags (s : State) (f : Pkg → Pkg) : (State.updPkg s f).gtags = s.gtags := rfl
@[simp] theorem State.updPkg_gpoison (s : State) (f : Pkg → Pkg) : (State.updPkg s f).gpoison = s.gpoison := rfl
@[simp] theorem State.updPkg_sideband (s : State) (f : Pkg → Pkg) : (State.updPkg s f).sideband = s.sideband := rfl
@[simp] theorem State.updPkg_ctxs (s : State) (f : Pkg → Pkg) : (State.updPkg s f).ctxs = s.ctxs := rfl
@[simp] theorem State.updPkg_queues (s : State) (f : Pkg → Pkg) : (State.updPkg s f).queues = s.queues := rfl
@[simp] theorem State.updPkg_tasks (s : State) (f : Pkg → Pkg) : (State.updPkg s f).tasks = s.tasks := rfl
@[simp] theorem State.updPkg_blocks (s : State) (f : Pkg → Pkg) : (State.updPkg s f).blocks = s.blocks := rfl
@[simp] theorem State.updPkg_gangs (s : State) (f : Pkg → Pkg) : (State.updPkg s f).gangs = s.gangs := rfl
@[simp] theorem State.updPkg_halls (s : State) (f : Pkg → Pkg) : (State.updPkg s f).halls = s.halls := rfl
@[simp] theorem State.updPkg_saved (s : State) (f : Pkg → Pkg) : (State.updPkg s f).saved = s.saved := rfl
@[simp] theorem State.updPkg_pointers (s : State) (f : Pkg → Pkg) : (State.updPkg s f).pointers = s.pointers := rfl
@[simp] theorem State.updPkg_ageNext (s : State) (f : Pkg → Pkg) : (State.updPkg s f).ageNext = s.ageNext := rfl
@[simp] theorem State.updPkg_closed (s : State) (f : Pkg → Pkg) : (State.updPkg s f).closed = s.closed := rfl
@[simp] theorem State.updPkg_strike (s : State) (f : Pkg → Pkg) : (State.updPkg s f).strike = s.strike := rfl
@[simp] theorem State.updPkg_l2 (s : State) (f : Pkg → Pkg) : (State.updPkg s f).l2 = s.l2 := rfl
@[simp] theorem State.updPkg_pageCounts (s : State) (f : Pkg → Pkg) : (State.updPkg s f).pageCounts = s.pageCounts := rfl
@[simp] theorem State.updPkg_pkg (s : State) (f : Pkg → Pkg) : (State.updPkg s f).pkg = f s.pkg := rfl

@[simp] theorem State.updHall_g (s : State) (h : Nat) (f : Hall → Hall) : (State.updHall s h f).g = s.g := rfl
@[simp] theorem State.updHall_groups (s : State) (h : Nat) (f : Hall → Hall) : (State.updHall s h f).groups = s.groups := rfl
@[simp] theorem State.updHall_cur (s : State) (h : Nat) (f : Hall → Hall) : (State.updHall s h f).cur = s.cur := rfl
@[simp] theorem State.updHall_events (s : State) (h : Nat) (f : Hall → Hall) : (State.updHall s h f).events = s.events := rfl
@[simp] theorem State.updHall_clk (s : State) (h : Nat) (f : Hall → Hall) : (State.updHall s h f).clk = s.clk := rfl
@[simp] theorem State.updHall_free (s : State) (h : Nat) (f : Hall → Hall) : (State.updHall s h f).free = s.free := rfl
@[simp] theorem State.updHall_gtags (s : State) (h : Nat) (f : Hall → Hall) : (State.updHall s h f).gtags = s.gtags := rfl
@[simp] theorem State.updHall_gpoison (s : State) (h : Nat) (f : Hall → Hall) : (State.updHall s h f).gpoison = s.gpoison := rfl
@[simp] theorem State.updHall_sideband (s : State) (h : Nat) (f : Hall → Hall) : (State.updHall s h f).sideband = s.sideband := rfl
@[simp] theorem State.updHall_ctxs (s : State) (h : Nat) (f : Hall → Hall) : (State.updHall s h f).ctxs = s.ctxs := rfl
@[simp] theorem State.updHall_queues (s : State) (h : Nat) (f : Hall → Hall) : (State.updHall s h f).queues = s.queues := rfl
@[simp] theorem State.updHall_tasks (s : State) (h : Nat) (f : Hall → Hall) : (State.updHall s h f).tasks = s.tasks := rfl
@[simp] theorem State.updHall_blocks (s : State) (h : Nat) (f : Hall → Hall) : (State.updHall s h f).blocks = s.blocks := rfl
@[simp] theorem State.updHall_gangs (s : State) (h : Nat) (f : Hall → Hall) : (State.updHall s h f).gangs = s.gangs := rfl
@[simp] theorem State.updHall_halls (s : State) (h : Nat) (f : Hall → Hall) : (State.updHall s h f).halls = insert s.halls h (f (State.hall s h)) := rfl
@[simp] theorem State.updHall_saved (s : State) (h : Nat) (f : Hall → Hall) : (State.updHall s h f).saved = s.saved := rfl
@[simp] theorem State.updHall_pointers (s : State) (h : Nat) (f : Hall → Hall) : (State.updHall s h f).pointers = s.pointers := rfl
@[simp] theorem State.updHall_ageNext (s : State) (h : Nat) (f : Hall → Hall) : (State.updHall s h f).ageNext = s.ageNext := rfl
@[simp] theorem State.updHall_closed (s : State) (h : Nat) (f : Hall → Hall) : (State.updHall s h f).closed = s.closed := rfl
@[simp] theorem State.updHall_strike (s : State) (h : Nat) (f : Hall → Hall) : (State.updHall s h f).strike = s.strike := rfl
@[simp] theorem State.updHall_l2 (s : State) (h : Nat) (f : Hall → Hall) : (State.updHall s h f).l2 = s.l2 := rfl
@[simp] theorem State.updHall_pageCounts (s : State) (h : Nat) (f : Hall → Hall) : (State.updHall s h f).pageCounts = s.pageCounts := rfl
@[simp] theorem State.updHall_pkg (s : State) (h : Nat) (f : Hall → Hall) : (State.updHall s h f).pkg = s.pkg := rfl

@[simp] theorem State.updQueue_g (s : State) (q : Nat) (f : Queue → Queue) : (State.updQueue s q f).g = s.g := rfl
@[simp] theorem State.updQueue_groups (s : State) (q : Nat) (f : Queue → Queue) : (State.updQueue s q f).groups = s.groups := rfl
@[simp] theorem State.updQueue_cur (s : State) (q : Nat) (f : Queue → Queue) : (State.updQueue s q f).cur = s.cur := rfl
@[simp] theorem State.updQueue_events (s : State) (q : Nat) (f : Queue → Queue) : (State.updQueue s q f).events = s.events := rfl
@[simp] theorem State.updQueue_clk (s : State) (q : Nat) (f : Queue → Queue) : (State.updQueue s q f).clk = s.clk := rfl
@[simp] theorem State.updQueue_free (s : State) (q : Nat) (f : Queue → Queue) : (State.updQueue s q f).free = s.free := rfl
@[simp] theorem State.updQueue_gtags (s : State) (q : Nat) (f : Queue → Queue) : (State.updQueue s q f).gtags = s.gtags := rfl
@[simp] theorem State.updQueue_gpoison (s : State) (q : Nat) (f : Queue → Queue) : (State.updQueue s q f).gpoison = s.gpoison := rfl
@[simp] theorem State.updQueue_sideband (s : State) (q : Nat) (f : Queue → Queue) : (State.updQueue s q f).sideband = s.sideband := rfl
@[simp] theorem State.updQueue_ctxs (s : State) (q : Nat) (f : Queue → Queue) : (State.updQueue s q f).ctxs = s.ctxs := rfl
@[simp] theorem State.updQueue_queues (s : State) (q : Nat) (f : Queue → Queue) : (State.updQueue s q f).queues = insert s.queues q (f (State.queue s q)) := rfl
@[simp] theorem State.updQueue_tasks (s : State) (q : Nat) (f : Queue → Queue) : (State.updQueue s q f).tasks = s.tasks := rfl
@[simp] theorem State.updQueue_blocks (s : State) (q : Nat) (f : Queue → Queue) : (State.updQueue s q f).blocks = s.blocks := rfl
@[simp] theorem State.updQueue_gangs (s : State) (q : Nat) (f : Queue → Queue) : (State.updQueue s q f).gangs = s.gangs := rfl
@[simp] theorem State.updQueue_halls (s : State) (q : Nat) (f : Queue → Queue) : (State.updQueue s q f).halls = s.halls := rfl
@[simp] theorem State.updQueue_saved (s : State) (q : Nat) (f : Queue → Queue) : (State.updQueue s q f).saved = s.saved := rfl
@[simp] theorem State.updQueue_pointers (s : State) (q : Nat) (f : Queue → Queue) : (State.updQueue s q f).pointers = s.pointers := rfl
@[simp] theorem State.updQueue_ageNext (s : State) (q : Nat) (f : Queue → Queue) : (State.updQueue s q f).ageNext = s.ageNext := rfl
@[simp] theorem State.updQueue_closed (s : State) (q : Nat) (f : Queue → Queue) : (State.updQueue s q f).closed = s.closed := rfl
@[simp] theorem State.updQueue_strike (s : State) (q : Nat) (f : Queue → Queue) : (State.updQueue s q f).strike = s.strike := rfl
@[simp] theorem State.updQueue_l2 (s : State) (q : Nat) (f : Queue → Queue) : (State.updQueue s q f).l2 = s.l2 := rfl
@[simp] theorem State.updQueue_pageCounts (s : State) (q : Nat) (f : Queue → Queue) : (State.updQueue s q f).pageCounts = s.pageCounts := rfl
@[simp] theorem State.updQueue_pkg (s : State) (q : Nat) (f : Queue → Queue) : (State.updQueue s q f).pkg = s.pkg := rfl

@[simp] theorem State.updBlock_g (s : State) (c q b : Nat) (f : Block → Block) : (State.updBlock s c q b f).g = s.g := rfl
@[simp] theorem State.updBlock_groups (s : State) (c q b : Nat) (f : Block → Block) : (State.updBlock s c q b f).groups = s.groups := rfl
@[simp] theorem State.updBlock_cur (s : State) (c q b : Nat) (f : Block → Block) : (State.updBlock s c q b f).cur = s.cur := rfl
@[simp] theorem State.updBlock_events (s : State) (c q b : Nat) (f : Block → Block) : (State.updBlock s c q b f).events = s.events := rfl
@[simp] theorem State.updBlock_clk (s : State) (c q b : Nat) (f : Block → Block) : (State.updBlock s c q b f).clk = s.clk := rfl
@[simp] theorem State.updBlock_free (s : State) (c q b : Nat) (f : Block → Block) : (State.updBlock s c q b f).free = s.free := rfl
@[simp] theorem State.updBlock_gtags (s : State) (c q b : Nat) (f : Block → Block) : (State.updBlock s c q b f).gtags = s.gtags := rfl
@[simp] theorem State.updBlock_gpoison (s : State) (c q b : Nat) (f : Block → Block) : (State.updBlock s c q b f).gpoison = s.gpoison := rfl
@[simp] theorem State.updBlock_sideband (s : State) (c q b : Nat) (f : Block → Block) : (State.updBlock s c q b f).sideband = s.sideband := rfl
@[simp] theorem State.updBlock_ctxs (s : State) (c q b : Nat) (f : Block → Block) : (State.updBlock s c q b f).ctxs = s.ctxs := rfl
@[simp] theorem State.updBlock_queues (s : State) (c q b : Nat) (f : Block → Block) : (State.updBlock s c q b f).queues = s.queues := rfl
@[simp] theorem State.updBlock_tasks (s : State) (c q b : Nat) (f : Block → Block) : (State.updBlock s c q b f).tasks = s.tasks := rfl
@[simp] theorem State.updBlock_blocks (s : State) (c q b : Nat) (f : Block → Block) : (State.updBlock s c q b f).blocks = mapIf s.blocks (fun x => Block.is x c q b) f := rfl
@[simp] theorem State.updBlock_gangs (s : State) (c q b : Nat) (f : Block → Block) : (State.updBlock s c q b f).gangs = s.gangs := rfl
@[simp] theorem State.updBlock_halls (s : State) (c q b : Nat) (f : Block → Block) : (State.updBlock s c q b f).halls = s.halls := rfl
@[simp] theorem State.updBlock_saved (s : State) (c q b : Nat) (f : Block → Block) : (State.updBlock s c q b f).saved = s.saved := rfl
@[simp] theorem State.updBlock_pointers (s : State) (c q b : Nat) (f : Block → Block) : (State.updBlock s c q b f).pointers = s.pointers := rfl
@[simp] theorem State.updBlock_ageNext (s : State) (c q b : Nat) (f : Block → Block) : (State.updBlock s c q b f).ageNext = s.ageNext := rfl
@[simp] theorem State.updBlock_closed (s : State) (c q b : Nat) (f : Block → Block) : (State.updBlock s c q b f).closed = s.closed := rfl
@[simp] theorem State.updBlock_strike (s : State) (c q b : Nat) (f : Block → Block) : (State.updBlock s c q b f).strike = s.strike := rfl
@[simp] theorem State.updBlock_l2 (s : State) (c q b : Nat) (f : Block → Block) : (State.updBlock s c q b f).l2 = s.l2 := rfl
@[simp] theorem State.updBlock_pageCounts (s : State) (c q b : Nat) (f : Block → Block) : (State.updBlock s c q b f).pageCounts = s.pageCounts := rfl
@[simp] theorem State.updBlock_pkg (s : State) (c q b : Nat) (f : Block → Block) : (State.updBlock s c q b f).pkg = s.pkg := rfl

@[simp] theorem State.updTask_g (s : State) (c q : Nat) (f : Task → Task) : (State.updTask s c q f).g = s.g := rfl
@[simp] theorem State.updTask_groups (s : State) (c q : Nat) (f : Task → Task) : (State.updTask s c q f).groups = s.groups := rfl
@[simp] theorem State.updTask_cur (s : State) (c q : Nat) (f : Task → Task) : (State.updTask s c q f).cur = s.cur := rfl
@[simp] theorem State.updTask_events (s : State) (c q : Nat) (f : Task → Task) : (State.updTask s c q f).events = s.events := rfl
@[simp] theorem State.updTask_clk (s : State) (c q : Nat) (f : Task → Task) : (State.updTask s c q f).clk = s.clk := rfl
@[simp] theorem State.updTask_free (s : State) (c q : Nat) (f : Task → Task) : (State.updTask s c q f).free = s.free := rfl
@[simp] theorem State.updTask_gtags (s : State) (c q : Nat) (f : Task → Task) : (State.updTask s c q f).gtags = s.gtags := rfl
@[simp] theorem State.updTask_gpoison (s : State) (c q : Nat) (f : Task → Task) : (State.updTask s c q f).gpoison = s.gpoison := rfl
@[simp] theorem State.updTask_sideband (s : State) (c q : Nat) (f : Task → Task) : (State.updTask s c q f).sideband = s.sideband := rfl
@[simp] theorem State.updTask_ctxs (s : State) (c q : Nat) (f : Task → Task) : (State.updTask s c q f).ctxs = s.ctxs := rfl
@[simp] theorem State.updTask_queues (s : State) (c q : Nat) (f : Task → Task) : (State.updTask s c q f).queues = s.queues := rfl
@[simp] theorem State.updTask_tasks (s : State) (c q : Nat) (f : Task → Task) : (State.updTask s c q f).tasks = mapIf s.tasks (fun t => t.ctx == c && t.seq == q) f := rfl
@[simp] theorem State.updTask_blocks (s : State) (c q : Nat) (f : Task → Task) : (State.updTask s c q f).blocks = s.blocks := rfl
@[simp] theorem State.updTask_gangs (s : State) (c q : Nat) (f : Task → Task) : (State.updTask s c q f).gangs = s.gangs := rfl
@[simp] theorem State.updTask_halls (s : State) (c q : Nat) (f : Task → Task) : (State.updTask s c q f).halls = s.halls := rfl
@[simp] theorem State.updTask_saved (s : State) (c q : Nat) (f : Task → Task) : (State.updTask s c q f).saved = s.saved := rfl
@[simp] theorem State.updTask_pointers (s : State) (c q : Nat) (f : Task → Task) : (State.updTask s c q f).pointers = s.pointers := rfl
@[simp] theorem State.updTask_ageNext (s : State) (c q : Nat) (f : Task → Task) : (State.updTask s c q f).ageNext = s.ageNext := rfl
@[simp] theorem State.updTask_closed (s : State) (c q : Nat) (f : Task → Task) : (State.updTask s c q f).closed = s.closed := rfl
@[simp] theorem State.updTask_strike (s : State) (c q : Nat) (f : Task → Task) : (State.updTask s c q f).strike = s.strike := rfl
@[simp] theorem State.updTask_l2 (s : State) (c q : Nat) (f : Task → Task) : (State.updTask s c q f).l2 = s.l2 := rfl
@[simp] theorem State.updTask_pageCounts (s : State) (c q : Nat) (f : Task → Task) : (State.updTask s c q f).pageCounts = s.pageCounts := rfl
@[simp] theorem State.updTask_pkg (s : State) (c q : Nat) (f : Task → Task) : (State.updTask s c q f).pkg = s.pkg := rfl

@[simp] theorem State.updGang_g (s : State) (c q i : Nat) (f : Gang → Gang) : (State.updGang s c q i f).g = s.g := rfl
@[simp] theorem State.updGang_groups (s : State) (c q i : Nat) (f : Gang → Gang) : (State.updGang s c q i f).groups = s.groups := rfl
@[simp] theorem State.updGang_cur (s : State) (c q i : Nat) (f : Gang → Gang) : (State.updGang s c q i f).cur = s.cur := rfl
@[simp] theorem State.updGang_events (s : State) (c q i : Nat) (f : Gang → Gang) : (State.updGang s c q i f).events = s.events := rfl
@[simp] theorem State.updGang_clk (s : State) (c q i : Nat) (f : Gang → Gang) : (State.updGang s c q i f).clk = s.clk := rfl
@[simp] theorem State.updGang_free (s : State) (c q i : Nat) (f : Gang → Gang) : (State.updGang s c q i f).free = s.free := rfl
@[simp] theorem State.updGang_gtags (s : State) (c q i : Nat) (f : Gang → Gang) : (State.updGang s c q i f).gtags = s.gtags := rfl
@[simp] theorem State.updGang_gpoison (s : State) (c q i : Nat) (f : Gang → Gang) : (State.updGang s c q i f).gpoison = s.gpoison := rfl
@[simp] theorem State.updGang_sideband (s : State) (c q i : Nat) (f : Gang → Gang) : (State.updGang s c q i f).sideband = s.sideband := rfl
@[simp] theorem State.updGang_ctxs (s : State) (c q i : Nat) (f : Gang → Gang) : (State.updGang s c q i f).ctxs = s.ctxs := rfl
@[simp] theorem State.updGang_queues (s : State) (c q i : Nat) (f : Gang → Gang) : (State.updGang s c q i f).queues = s.queues := rfl
@[simp] theorem State.updGang_tasks (s : State) (c q i : Nat) (f : Gang → Gang) : (State.updGang s c q i f).tasks = s.tasks := rfl
@[simp] theorem State.updGang_blocks (s : State) (c q i : Nat) (f : Gang → Gang) : (State.updGang s c q i f).blocks = s.blocks := rfl
@[simp] theorem State.updGang_gangs (s : State) (c q i : Nat) (f : Gang → Gang) : (State.updGang s c q i f).gangs = mapIf s.gangs (fun g => g.ctx == c && g.seq == q && g.idx == i) f := rfl
@[simp] theorem State.updGang_halls (s : State) (c q i : Nat) (f : Gang → Gang) : (State.updGang s c q i f).halls = s.halls := rfl
@[simp] theorem State.updGang_saved (s : State) (c q i : Nat) (f : Gang → Gang) : (State.updGang s c q i f).saved = s.saved := rfl
@[simp] theorem State.updGang_pointers (s : State) (c q i : Nat) (f : Gang → Gang) : (State.updGang s c q i f).pointers = s.pointers := rfl
@[simp] theorem State.updGang_ageNext (s : State) (c q i : Nat) (f : Gang → Gang) : (State.updGang s c q i f).ageNext = s.ageNext := rfl
@[simp] theorem State.updGang_closed (s : State) (c q i : Nat) (f : Gang → Gang) : (State.updGang s c q i f).closed = s.closed := rfl
@[simp] theorem State.updGang_strike (s : State) (c q i : Nat) (f : Gang → Gang) : (State.updGang s c q i f).strike = s.strike := rfl
@[simp] theorem State.updGang_l2 (s : State) (c q i : Nat) (f : Gang → Gang) : (State.updGang s c q i f).l2 = s.l2 := rfl
@[simp] theorem State.updGang_pageCounts (s : State) (c q i : Nat) (f : Gang → Gang) : (State.updGang s c q i f).pageCounts = s.pageCounts := rfl
@[simp] theorem State.updGang_pkg (s : State) (c q i : Nat) (f : Gang → Gang) : (State.updGang s c q i f).pkg = s.pkg := rfl

@[simp] theorem State.useFree_g (s : State) : (State.useFree s).g = s.g := rfl
@[simp] theorem State.useFree_groups (s : State) : (State.useFree s).groups = s.groups := rfl
@[simp] theorem State.useFree_cur (s : State) : (State.useFree s).cur = s.cur := rfl
@[simp] theorem State.useFree_events (s : State) : (State.useFree s).events = s.events := rfl
@[simp] theorem State.useFree_clk (s : State) : (State.useFree s).clk = s.clk := rfl
@[simp] theorem State.useFree_free (s : State) : (State.useFree s).free = s.free + 1 := rfl
@[simp] theorem State.useFree_gtags (s : State) : (State.useFree s).gtags = s.gtags := rfl
@[simp] theorem State.useFree_gpoison (s : State) : (State.useFree s).gpoison = s.gpoison := rfl
@[simp] theorem State.useFree_sideband (s : State) : (State.useFree s).sideband = s.sideband := rfl
@[simp] theorem State.useFree_ctxs (s : State) : (State.useFree s).ctxs = s.ctxs := rfl
@[simp] theorem State.useFree_queues (s : State) : (State.useFree s).queues = s.queues := rfl
@[simp] theorem State.useFree_tasks (s : State) : (State.useFree s).tasks = s.tasks := rfl
@[simp] theorem State.useFree_blocks (s : State) : (State.useFree s).blocks = s.blocks := rfl
@[simp] theorem State.useFree_gangs (s : State) : (State.useFree s).gangs = s.gangs := rfl
@[simp] theorem State.useFree_halls (s : State) : (State.useFree s).halls = s.halls := rfl
@[simp] theorem State.useFree_saved (s : State) : (State.useFree s).saved = s.saved := rfl
@[simp] theorem State.useFree_pointers (s : State) : (State.useFree s).pointers = s.pointers := rfl
@[simp] theorem State.useFree_ageNext (s : State) : (State.useFree s).ageNext = s.ageNext := rfl
@[simp] theorem State.useFree_closed (s : State) : (State.useFree s).closed = s.closed := rfl
@[simp] theorem State.useFree_strike (s : State) : (State.useFree s).strike = s.strike := rfl
@[simp] theorem State.useFree_l2 (s : State) : (State.useFree s).l2 = s.l2 := rfl
@[simp] theorem State.useFree_pageCounts (s : State) : (State.useFree s).pageCounts = s.pageCounts := rfl
@[simp] theorem State.useFree_pkg (s : State) : (State.useFree s).pkg = s.pkg := rfl

@[simp] theorem State.note_g (s : State) (r : Status) : (State.note s r).g = s.g := rfl
@[simp] theorem State.note_groups (s : State) (r : Status) : (State.note s r).groups = s.groups := rfl
@[simp] theorem State.note_cur (s : State) (r : Status) : (State.note s r).cur = { s.cur with status := r } := rfl
@[simp] theorem State.note_events (s : State) (r : Status) : (State.note s r).events = s.events := rfl
@[simp] theorem State.note_clk (s : State) (r : Status) : (State.note s r).clk = s.clk := rfl
@[simp] theorem State.note_free (s : State) (r : Status) : (State.note s r).free = s.free := rfl
@[simp] theorem State.note_gtags (s : State) (r : Status) : (State.note s r).gtags = s.gtags := rfl
@[simp] theorem State.note_gpoison (s : State) (r : Status) : (State.note s r).gpoison = s.gpoison := rfl
@[simp] theorem State.note_sideband (s : State) (r : Status) : (State.note s r).sideband = s.sideband := rfl
@[simp] theorem State.note_ctxs (s : State) (r : Status) : (State.note s r).ctxs = s.ctxs := rfl
@[simp] theorem State.note_queues (s : State) (r : Status) : (State.note s r).queues = s.queues := rfl
@[simp] theorem State.note_tasks (s : State) (r : Status) : (State.note s r).tasks = s.tasks := rfl
@[simp] theorem State.note_blocks (s : State) (r : Status) : (State.note s r).blocks = s.blocks := rfl
@[simp] theorem State.note_gangs (s : State) (r : Status) : (State.note s r).gangs = s.gangs := rfl
@[simp] theorem State.note_halls (s : State) (r : Status) : (State.note s r).halls = s.halls := rfl
@[simp] theorem State.note_saved (s : State) (r : Status) : (State.note s r).saved = s.saved := rfl
@[simp] theorem State.note_pointers (s : State) (r : Status) : (State.note s r).pointers = s.pointers := rfl
@[simp] theorem State.note_ageNext (s : State) (r : Status) : (State.note s r).ageNext = s.ageNext := rfl
@[simp] theorem State.note_closed (s : State) (r : Status) : (State.note s r).closed = s.closed := rfl
@[simp] theorem State.note_strike (s : State) (r : Status) : (State.note s r).strike = s.strike := rfl
@[simp] theorem State.note_l2 (s : State) (r : Status) : (State.note s r).l2 = s.l2 := rfl
@[simp] theorem State.note_pageCounts (s : State) (r : Status) : (State.note s r).pageCounts = s.pageCounts := rfl
@[simp] theorem State.note_pkg (s : State) (r : Status) : (State.note s r).pkg = s.pkg := rfl

end Sys2Proof.Machine
end

