-- ==== Sys2Proof/Safety.lean ====
section
/-! DEFINITION. What a safe run is, in the terms the statements use: no step of it faults or is refused. -/

namespace Sys2Proof.Machine

/-- The step of a state has a next state. -/
def State.goesOn (s : State) : Prop := ∃ t, step s = .next t

/-- `n` steps from a state all have a next state. -/
def State.safeFor : Nat → State → Prop
  | 0, _ => True
  | n + 1, s => ∃ t, step s = .next t ∧ State.safeFor n t

/-- A state is safe: no run from it faults or is refused. -/
def State.safe (s : State) : Prop := ∀ n, State.safeFor n s

end Sys2Proof.Machine
end

