-- ==== Sys2Proof/Tests/Slice0.lean ====
section
/-! SUPPORT. The model's own tests: a smoke test of WellFormed, words written out from the encodings, a few single steps, and for
every statement that has hypotheses a state and operands that meet them together. -/

set_option Elab.async false

namespace Sys2Proof.Tests

open Sys2Proof.Machine Sys2Proof.Machine.Rules

/-! ## Small states -/

/-- A launch record with eight codebook slots, 4 KiB of scratchpad and 4 KiB of stash. -/
def record : LaunchRec := { LaunchRec.zero with regs := 16, cb := 8, acc := 16, scratch := 4096, stash := 4096 }

/-- A group of context 1 with 16 blocks of registers and 16 tiles, all registers 0 with tag RAW. -/
def someGroup : Group :=
  { Group.empty with
    valid := true, ctx := 1, lr := record, regn := 16, blockMap := List.range 16, accN := 16, tiles := List.replicate 16 Tile.zero }

/-- The group stands at the issue port with all its lanes active. -/
def plain : State := { State.reset with g := someGroup, cur := { State.reset.cur with mask := 0xFFFFFFFF } }

/-- The same with registers of all lanes set. -/
def withRegs (s : State) (l : List (Nat × Word × Tag)) : State :=
  { s with g := l.foldl (fun g x => lanesOf.foldl (fun g i => Group.setCell g i x.1 (RegCell.of x.2.1 x.2.2)) g) s.g }

/-! ## Conditions as tests -/

/-- Ready and Closed. -/
def readyB (s : State) (i : Instr) : Bool :=
  s.g.valid && s.g.wait.isNone && !s.cur.follow && (s.cur.mask != 0) && !State.regWait s i && (State.wordCheck s i).isNone &&
    (Group.openLanes s.g).isEmpty

theorem readyB_sound {s : State} {i : Instr} (h : readyB s i = true) : Ready s i ∧ Closed s := by
  simp only [readyB, Bool.and_eq_true, Bool.not_eq_true', bne_iff_ne, ne_eq, Option.isNone_iff_eq_none, List.isEmpty_iff] at h
  exact ⟨⟨h.1.1.1.1.1.1, h.1.1.1.1.1.2, h.1.1.1.1.2, h.1.1.1.2, h.1.1.2, h.1.2⟩, h.2⟩

/-- Sound. -/
def soundB (s : State) (xs : List Src) : Bool := s.strike.isNone && !State.srcPoison s xs && !State.srcFormat s xs && !State.srcResidue s xs

theorem soundB_sound {s : State} {xs : List Src} (h : soundB s xs = true) : Sound s xs := by
  simpa [soundB, Sound, and_assoc] using h

/-- A word of a table is ready with sound sources. -/
def laneB (table : Instr → Option LaneWord) (s : State) (i : Instr) : Bool :=
  match table i with
  | some w => readyB s i && soundB s w.srcs
  | none => false

theorem laneB_sound {table : Instr → Option LaneWord} {s : State} {i : Instr} (h : laneB table s i = true) :
    ∃ w, table i = some w ∧ Ready s i ∧ Closed s ∧ Sound s w.srcs := by
  unfold laneB at h
  split at h
  · next w hw =>
    rw [Bool.and_eq_true] at h
    exact ⟨w, hw, (readyB_sound h.1).1, (readyB_sound h.1).2, soundB_sound h.2⟩
  · cases h

/-- A floating-point word of a table is ready with sound sources of one format. -/
def floatB (table : Instr → Option FloatWord) (s : State) (i : Instr) : Bool :=
  match table i with
  | some w => readyB s i && soundB s (w.xs ++ w.ys) && !State.mixedFormats s w.xs
  | none => false

theorem floatB_sound {table : Instr → Option FloatWord} {s : State} {i : Instr} (h : floatB table s i = true) :
    ∃ w, table i = some w ∧ Ready s i ∧ Closed s ∧ Sound s (w.xs ++ w.ys) ∧ ¬ formatsDiffer s w := by
  unfold floatB at h
  split at h
  · next w hw =>
    rw [Bool.and_eq_true, Bool.and_eq_true] at h
    exact ⟨w, hw, (readyB_sound h.1.1).1, (readyB_sound h.1.1).2, soundB_sound h.1.2, by simpa [formatsDiffer] using h.2⟩
  · cases h

/-- A word is ready with sound sources. -/
def meets (x : State × Instr × List Src) : Bool := readyB x.1 x.2.1 && soundB x.1 x.2.2

theorem meets_sound {x : State × Instr × List Src} (h : meets x = true) :
    Ready x.1 x.2.1 ∧ Closed x.1 ∧ Sound x.1 x.2.2 := by
  rw [meets, Bool.and_eq_true] at h
  exact ⟨(readyB_sound h.1).1, (readyB_sound h.1).2, soundB_sound h.2⟩

/-- The accesses of a word are classified, and each page is as asked. -/
def classedB (s : State) (need : Need) (accs : List Access) (page : DWord → Bool) : Bool :=
  match State.classify (lookedUp s accs) s.g.hall s.g.ctx need accs with
  | .ok ps => ps.all (fun p => page p.leaf)
  | _ => false

theorem classedB_sound {s : State} {need : Need} {accs : List Access} {page : DWord → Bool} (h : classedB s need accs page = true) :
    ∃ ps, Classified s need accs ps ∧ ∀ p ∈ ps, page p.leaf = true := by
  unfold classedB at h
  split at h
  · next ps hc => exact ⟨ps, hc, List.all_eq_true.1 h⟩
  · cases h

/-- A walk ends at a leaf that is as asked. -/
def leafB (w : Walk) (p : DWord → Bool) : Bool :=
  match w with
  | .leaf l _ => p l
  | _ => false

theorem leafB_sound {w : Walk} {p : DWord → Bool} (h : leafB w p = true) : ∃ l q, w = .leaf l q ∧ p l = true := by
  cases w <;> first | exact ⟨_, _, rfl, h⟩ | cases h

/-- What an option holds passes a test. -/
theorem some_with {α : Type} {o : Option α} {p : α → Bool} (h : o.map p = some true) : ∃ x, o = some x ∧ p x = true := by
  simpa using h

theorem all_with {α : Type} {o : Option α} {p : α → Bool} (h : o.map p = some true) : ∀ x, o = some x → p x = true := fun x hx => by
  simpa [hx] using h

theorem isSome_sound {α : Type} {o : Option α} (h : o.isSome = true) : ∃ t, o = some t := Option.isSome_iff_exists.1 h

/-- A context with its page table, for memory words: pages 1 (RW), 2 (RX), 3 (RW, shadow-published), 4 (RW, modifiable), 5 (RW, not
resident), 6 (RW, migrating), 7 (RW, strongly ordered), 8 to 11 (RW). -/
def leaves : List (Nat × Nat) :=
  [(1, 0x100007), (2, 0x20000B), (3, 0x300407), (4, 0x400207), (5, 0x500006), (6, 0x600807), (7, 0x700017), (8, 0x800007), (9, 0x900007),
   (10, 0xA00007), (11, 0xB00007)]

def pageTable : Memory :=
  leaves.foldl (fun m x => Memory.writeN m (0x18000 + 8 * x.1) (leBytes 8 x.2))
    (Memory.writeN (Memory.writeN (Memory.writeN [] 0x10000 (leBytes 8 0x14001)) 0x14000 (leBytes 8 0x16001)) 0x16000 (leBytes 8 0x18001))

/-- Context 1 over that table; its publish table stands at 0x80000. -/
def context : Ctx := Ctx.create { root := 0x10000, checking := false, bounded := false, lockMask := 0, pubTable := 0x80000 }

/-- The block of the group, with its pool. -/
def someBlock : Block :=
  { ctx := 1, seq := 0, blk := 0, hall := 0, scrBase := 0, stashBase := 4, scr := [], scrPoison := [], tags := [], rings := [], phasers := [],
    stashMaps := [], stashLines := [], stashCmds := [], pools := [(0, [20, 21])], bindClk := 0, charge := 0 }

/-- The group with its context, block, gang and task. -/
def base : State :=
  { plain with
    mem := pageTable, ctxs := [(1, context)], blocks := [someBlock],
    gangs := [{ ctx := 1, seq := 0, idx := 0, groups := 1, bound := 1, boundAt := 0, rounds := [], relaunches := 0, stopping := false,
                draining := false, fenceAt := none }],
    tasks := [{ (default : Task) with ctx := 1, status := .running, lr := record, tcb := 0x10000, dispatched := 1, queue := 3 }] }

/-! ## The lane-by-lane words -/

/-- A word for each entry of each table; the registers v0 and v127, the greatest immediates and every target stand among them. -/
def integerSamples : List Instr :=
  [.iadd true 5 6 7, .isub false 0 127 127, .imul true 1 2 3, .imulhS false 4 5 6, .imulhZ false 4 5 6, .imad true 1 2 3,
   .imin true false 1 2 3, .imax false true 1 2 3, .iabs 1 2, .iaddi 13 13 0x3FF, .li 127 0x1FFFF, .lih 1 0x1FFFF,
   .idp4 true false 1 2 3]

def logicSamples : List Instr :=
  [.and true 1 2 3, .or false 0 127 3, .xor true 1 2 3, .andn false 1 2 3, .shl true 1 2 3, .shr false 1 2 3, .sha true 1 2 3,
   .popc 1 2, .clz 0 127, .brev 1 2, .bfx true true 1 2 3, .bfi false 127 2 3, .andi 1 2 0x3FF, .ori 1 2 0, .xori 0 2 1,
   .shli 1 2 31, .shri 1 2 0, .shai 127 2 31]

def compareSamples : List Instr :=
  [.icmp 0 1 2 3, .icmp 7 0 127 127, .icmpi 1 2 7 0x7F, .sel true 1 2 3, .a64 true 126 2 4, .a64s false 3 2 4 7, .a64i 126 126 0x3FF,
   .tagrd 0 127, .tagset 1 2 0, .tagset 1 2 12]

def acrossSamples : List Instr :=
  [.shfl true 0 3 9 8, .shfl false 3 0 127 8, .vany true 1 2 3, .vall false 0 2 3, .vbal true 127 2 3, .radd false 1 2 3, .rmin 1 2,
   .rmax 0 127]

def scalarSamples : List Instr :=
  [.fadd true 0 1 2 3, .fsub false 3 0 127 127, .fmul true 1 1 2 3, .ffma false 2 127 2 3, .ffms true 0 1 2 3, .fmin false 1 2 3,
   .fmax true 0 2 3, .fneg 1 2, .fabs 0 127, .fcpsgn true 1 2 3, .fcmp 0 1 2 3, .fcmp 5 0 127 127, .fsqrt 3 1 2, .frcp 1 2, .frsq 0 127,
   .fexp2 1 2, .flog2 1 2, .ftanh 1 2]

def packedSamples : List Instr :=
  [.hadd2 true 0 1 2 3, .hmul2 false 3 0 127 127, .hfma2 true 1 1 2 3, .hmax2 false 127 2 3, .cvtf 0 1 2 2, .cvtf 1 1 2 3, .cvtf 2 1 2 4,
   .cvtf 3 1 2 5, .cvtf 0 0 127 6, .cvti 0 1 2 2, .cvti 3 1 2 3, .cvti 0 0 127 4, .cvtfi 3 1 2 1, .cvtfi 0 0 127 10, .pk2 0 1 2 3,
   .pk2 3 1 2 4, .pk2 0 0 126 10, .pk4 0 1 4 5, .pk4 3 1 4 6, .pk4 0 0 124 9, .unpk2 2 1 1, .unpk2 126 127 2, .unpk4 4 1 1,
   .unpk4 124 127 2, .dqe2 0 4 2 3, .dqe2 3 124 126 4, .qe2 0 2 4, .qe2 3 126 124]

def bookSamples : List Instr := [.dqcb 0 4 2 3, .dqcb 3 124 127 4, .qcb 0 1 4, .qcb 3 0 124]

theorem witness_integer : ∀ i ∈ integerSamples,
    ∃ w, integerWord plain i = some w ∧ Ready plain i ∧ Closed plain ∧ Sound plain w.srcs := fun i hi =>
  laneB_sound ((by decide +kernel : ∀ i ∈ integerSamples, laneB (integerWord plain) plain i = true) i hi)

theorem witness_logic : ∀ i ∈ logicSamples,
    ∃ w, logicWord plain i = some w ∧ Ready plain i ∧ Closed plain ∧ Sound plain w.srcs := fun i hi =>
  laneB_sound ((by decide +kernel : ∀ i ∈ logicSamples, laneB (logicWord plain) plain i = true) i hi)

theorem witness_compare : ∀ i ∈ compareSamples,
    ∃ w, compareWord plain i = some w ∧ Ready plain i ∧ Closed plain ∧ Sound plain w.srcs := fun i hi =>
  laneB_sound ((by decide +kernel : ∀ i ∈ compareSamples, laneB (compareWord plain) plain i = true) i hi)

theorem witness_across : ∀ i ∈ acrossSamples,
    ∃ w, acrossWord plain i = some w ∧ Ready plain i ∧ Closed plain ∧ Sound plain w.srcs := fun i hi =>
  laneB_sound ((by decide +kernel : ∀ i ∈ acrossSamples, laneB (acrossWord plain) plain i = true) i hi)

theorem witness_scalar : ∀ i ∈ scalarSamples, ∃ w, scalarFloat plain i = some w ∧ Ready plain i ∧ Closed plain ∧
    Sound plain (w.xs ++ w.ys) ∧ ¬ formatsDiffer plain w := fun i hi =>
  floatB_sound ((by decide +kernel : ∀ i ∈ scalarSamples, floatB (scalarFloat plain) plain i = true) i hi)

theorem witness_packed : ∀ i ∈ packedSamples, ∃ w, packedFloat plain i = some w ∧ Ready plain i ∧ Closed plain ∧
    Sound plain (w.xs ++ w.ys) ∧ ¬ formatsDiffer plain w := fun i hi =>
  floatB_sound ((by decide +kernel : ∀ i ∈ packedSamples, floatB (packedFloat plain) plain i = true) i hi)

theorem witness_book : ∀ i ∈ bookSamples, ∃ w, codebookFloat plain i = some w ∧ Ready plain i ∧ Closed plain ∧
    Sound plain (w.xs ++ w.ys) ∧ ¬ formatsDiffer plain w := fun i hi =>
  floatB_sound ((by decide +kernel : ∀ i ∈ bookSamples, floatB (codebookFloat plain) plain i = true) i hi)

/-- The slot is not awaited, and CB is 8. -/
theorem witness_book_slot : ¬ slotAwaited plain ∧ plain.g.cbs.toNat < plain.g.lr.cb := by
  refine ⟨?_, by decide +kernel⟩
  rintro ⟨o, ho, -⟩
  exact absurd ho (by simp [plain, someGroup, Group.empty])

/-- An operation of the group that has been issued and not performed. -/
def pendingOp (op : OutOp) (parts : List LanePart) : Outst :=
  { no := 0, op := op, mask := 0xFFFFFFFF, parts := parts, region := 0, lc := 0, sent := none }

/-- An LDCB into slot 0 has not returned. -/
def loadingBook : State := { plain with g := { someGroup with outst := [pendingOp (.ldcb 0) []], lcnt := 1 } }

theorem witness_book_awaited : ∀ i ∈ bookSamples, (codebookFloat loadingBook i).isSome = true ∧ Ready loadingBook i ∧
    Closed loadingBook ∧ slotAwaited loadingBook := fun i hi =>
  have h := (by decide +kernel : ∀ i ∈ bookSamples, (codebookFloat loadingBook i).isSome = true ∧ readyB loadingBook i = true) i hi
  ⟨h.1, (readyB_sound h.2).1, (readyB_sound h.2).2, _, List.mem_singleton.2 rfl, rfl⟩

/-- Slot 7 with CB 7: the first slot beyond. -/
def beyondBook : State := { plain with g := { someGroup with lr := { record with cb := 7 }, cbs := 7 } }

theorem witness_book_beyond : beyondBook.g.lr.cb ≤ beyondBook.g.cbs.toNat ∧ ¬ slotAwaited beyondBook ∧
    ∀ i ∈ bookSamples, ∃ w, codebookFloat beyondBook i = some w ∧ Ready beyondBook i ∧ Closed beyondBook ∧
      Sound beyondBook (w.xs ++ w.ys) ∧ ¬ formatsDiffer beyondBook w := by
  refine ⟨by decide +kernel, ?_, fun i hi =>
    floatB_sound ((by decide +kernel : ∀ i ∈ bookSamples, floatB (codebookFloat beyondBook) beyondBook i = true) i hi)⟩
  rintro ⟨o, ho, -⟩
  exact absurd ho (by simp [beyondBook, plain, someGroup, Group.empty])

theorem witness_cbsel : Ready plain (.cbsel 7) ∧ Closed plain := readyB_sound (by decide +kernel)

/-- v1 holds BF16x2, v2 holds F16x2, v4 to v7 hold both. -/
def mixed : State := withRegs plain [(1, 0, .bf16x2), (2, 0, .f16x2), (4, 0, .bf16x2), (7, 0, .f16x2)]

theorem witness_mixed_packed : ∃ w, packedFloat mixed (.hadd2 false 0 3 1 2) = some w ∧ Ready mixed (.hadd2 false 0 3 1 2) ∧
    Closed mixed ∧ Sound mixed (w.xs ++ w.ys) ∧ formatsDiffer mixed w :=
  ⟨_, rfl, (readyB_sound (by decide +kernel)).1, (readyB_sound (i := .nop) (by decide +kernel)).2, soundB_sound (by decide +kernel),
    by unfold formatsDiffer; decide +kernel⟩

theorem witness_mixed_book : ∃ w, codebookFloat mixed (.qcb 0 3 4) = some w ∧ ¬ slotAwaited mixed ∧ Ready mixed (.qcb 0 3 4) ∧
    Closed mixed ∧ Sound mixed (w.xs ++ w.ys) ∧ formatsDiffer mixed w := by
  refine ⟨_, rfl, ?_, (readyB_sound (by decide +kernel)).1, (readyB_sound (i := .nop) (by decide +kernel)).2,
    soundB_sound (by decide +kernel), by unfold formatsDiffer; decide +kernel⟩
  rintro ⟨o, ho, -⟩
  have : mixed.g.outst = [] := by decide +kernel
  simp [this] at ho

/-! ## Control, state registers, traps, regions, register pools -/

theorem witness_branches : ∀ x ∈ [(plain, Instr.br 1 0 0, [consumed 1 false []]), (plain, .brz 127 0x7FFF 2, [consumed 127 false []]),
    (plain, .jmp 0x7FFF 2, []), (plain, .call 0 0 0, [])], Ready x.1 x.2.1 ∧ Closed x.1 ∧ Sound x.1 x.2.2 := fun x hx =>
  meets_sound ((by decide +kernel : ∀ x ∈ [(plain, Instr.br 1 0 0, [consumed 1 false []]), (plain, .brz 127 0x7FFF 2, [consumed 127 false []]),
    (plain, .jmp 0x7FFF 2, []), (plain, .call 0 0 0, [])], meets x = true) x hx)

/-- v1 holds the last valid lpc, v2 an lpc in slot 3, v3 one that is no multiple of 4; v4 holds 31, v5 32, v6 7, v7 8. -/
def targets : State :=
  withRegs plain [(1, 0xFFFFFFF8, .i32), (2, 12, .i32), (3, 2, .i32), (4, 31, .i32), (5, 32, .i32), (6, 7, .i32), (7, 8, .i32)]

theorem witness_jumps : TargetsValid targets 1 true ∧ ¬ TargetsValid targets 2 true ∧ ¬ TargetsValid targets 3 false ∧
    ∀ x ∈ [(targets, Instr.jr 1 true, [consumed 1 true [.i32]]), (targets, .ret 2 true, [consumed 2 true [.i32]]),
      (targets, .jr 3 false, [consumed 3 false [.i32]])], Ready x.1 x.2.1 ∧ Closed x.1 ∧ Sound x.1 x.2.2 := by
  refine ⟨by unfold TargetsValid; decide +kernel, by unfold TargetsValid; decide +kernel, by unfold TargetsValid; decide +kernel,
    fun x hx => meets_sound ((by decide +kernel : ∀ x ∈ [(targets, Instr.jr 1 true, [consumed 1 true [.i32]]),
      (targets, .ret 2 true, [consumed 2 true [.i32]]), (targets, .jr 3 false, [consumed 3 false [.i32]])], meets x = true) x hx)⟩

/-- Every counter stands at its greatest value. -/
def counting : State := { plain with g := { someGroup with lcnt := 255, scnt := 255, acnt := 255, ecnt := 255 } }

theorem witness_plain_control : counting.g.lcnt ≤ (255#8).toNat ∧ counting.g.scnt ≤ (255#8).toNat ∧ counting.g.acnt ≤ (255#8).toNat ∧
    counting.g.ecnt + Group.openProps counting.g ≤ (255#8).toNat ∧ NothingDeferred counting.g (255#8).toNat ∧
    ∀ i ∈ [Instr.nop, .yield, .idem, .waitc 0 255, .waitc 1 255, .waitc 2 255, .waitc 3 255], Ready counting i ∧ Closed counting :=
  ⟨by decide +kernel, by decide +kernel, by decide +kernel, by decide +kernel, by unfold NothingDeferred; decide +kernel, fun i hi =>
    readyB_sound ((by decide +kernel : ∀ i ∈ [Instr.nop, .yield, .idem, .waitc 0 255, .waitc 1 255, .waitc 2 255, .waitc 3 255],
      readyB counting i = true) i hi)⟩

/-- Flags of cycle 0 have not landed at cycle 1. -/
def owing : State := { plain with clk := 1, g := { someGroup with flags := [{ at_ := 9, since := 0, bits := 1 }] } }

theorem plain_owes_nothing : ¬ FlagsOwed plain := by
  rintro (⟨x, hx, -⟩ | ⟨o, ho, -⟩)
  · exact absurd hx (by simp [plain, someGroup, Group.empty])
  · exact absurd ho (by simp [plain, someGroup, Group.empty])

theorem witness_read_state : ¬ FlagsOwed plain ∧ FlagsOwed owing ∧ Ready owing (.rds 127 0x018) ∧ Closed owing ∧
    ∀ n ∈ [0x000, 0x001, 0x002, 0x003, 0x004, 0x005, 0x006, 0x008, 0x00F, 0x010, 0x011, 0x012, 0x013, 0x014, 0x015, 0x018, 0x019, 0x020,
      0x021, 0x022, 0x023, 0x030, 0x03F, 0x040], Ready plain (.rds 126 n) ∧ Closed plain :=
  ⟨plain_owes_nothing, .inl ⟨{ at_ := 9, since := 0, bits := 1 }, List.mem_singleton.2 rfl, Nat.zero_lt_one⟩,
    (readyB_sound (by decide +kernel)).1, (readyB_sound (i := .nop) (by decide +kernel)).2, fun n hn =>
    readyB_sound ((by decide +kernel : ∀ n ∈ [0x000, 0x001, 0x002, 0x003, 0x004, 0x005, 0x006, 0x008, 0x00F, 0x010, 0x011, 0x012, 0x013,
      0x014, 0x015, 0x018, 0x019, 0x020, 0x021, 0x022, 0x023, 0x030, 0x03F, 0x040], readyB plain (.rds 126 n) = true) n hn)⟩

/-- The record of a trap entry. -/
def someTrap : TrapRec :=
  { lanes := List.replicate 32 (64, .live), resume := 0xFFFFFFFF, bank := List.replicate 7 (List.replicate 32 RegCell.zero), entryPc := 64,
    restarts := 0 }

/-- The group runs its handler. -/
def handler : State := { targets with g := { targets.g with trapMode := true, trapRec := some someTrap } }

theorem targets_owe_nothing : ¬ FlagsOwed targets := by
  have h : targets.g.flags = [] ∧ targets.g.outst = [] := by decide +kernel
  rintro (⟨x, hx, -⟩ | ⟨o, ho, -⟩)
  · simp [h.1] at hx
  · simp [h.2] at ho

theorem witness_write_state :
    (lowestValue targets 4).toNat < 32 ∧ 32 ≤ (lowestValue targets 5).toNat ∧ (lowestValue targets 6).toNat < 8 ∧
    8 ≤ (lowestValue targets 7).toNat ∧ ¬ FlagsOwed targets ∧ handler.g.trapMode = true ∧ targets.g.trapMode = false ∧
    TargetsValid targets 1 false ∧ ¬ TargetsValid targets 2 false ∧
    ∀ x ∈ [(targets, Instr.wrs 4 0x018, [lowestSrc 4]), (targets, .wrs 5 0x018, [lowestSrc 5]), (targets, .wrs 6 0x019, [lowestSrc 6]),
      (targets, .wrs 7 0x019, [lowestSrc 7]), (handler, .wrs 1 0x023, [lowestSrc 1]), (targets, .wrs 1 0x023, []),
      (targets, .wrs 1 0x040, [consumed 1 false [.i32]]), (targets, .wrs 2 0x040, [consumed 2 false [.i32]])],
      Ready x.1 x.2.1 ∧ Closed x.1 ∧ Sound x.1 x.2.2 := by
  refine ⟨by decide +kernel, by decide +kernel, by decide +kernel, by decide +kernel, targets_owe_nothing, by decide +kernel,
    by decide +kernel, by unfold TargetsValid; decide +kernel, by unfold TargetsValid; decide +kernel, fun x hx => meets_sound
    ((by decide +kernel : ∀ x ∈ [(targets, Instr.wrs 4 0x018, [lowestSrc 4]), (targets, .wrs 5 0x018, [lowestSrc 5]),
      (targets, .wrs 6 0x019, [lowestSrc 6]), (targets, .wrs 7 0x019, [lowestSrc 7]), (handler, .wrs 1 0x023, [lowestSrc 1]),
      (targets, .wrs 1 0x023, []), (targets, .wrs 1 0x040, [consumed 1 false [.i32]]),
      (targets, .wrs 2 0x040, [consumed 2 false [.i32]])], meets x = true) x hx)⟩

/-- Lane 0 alone is active. -/
def oneLane : State := { plain with cur := { plain.cur with mask := 1 } }

/-- What the statement of EXIT calls t. -/
def exited (s : State) : State :=
  withG s (Group.mapLanes s.g s.cur.mask (fun _ l => { l with mode := .exited, lpc := s.cur.chainPc }))

theorem witness_exit : (Group.allExited (exited oneLane).g = false ∧ Ready oneLane .exit ∧ Closed oneLane) ∧
    Group.allExited (exited plain).g = true ∧ Group.quiet plain.g = true ∧ plain.g.sbuf = [] ∧ plain.g.mma = [] ∧ Group.tileMoves plain.g = false ∧
    NothingDeferred plain.g 0 ∧ Ready plain .exit ∧ Closed plain :=
  ⟨⟨by decide +kernel, readyB_sound (by decide +kernel)⟩, by decide +kernel, by decide +kernel, by decide +kernel, by decide +kernel,
    by decide +kernel, by unfold NothingDeferred; decide +kernel, readyB_sound (by decide +kernel)⟩

/-- The handler's loads are under way. -/
def handlerLoads : State := { handler with g := { handler.g with lcnt := 1 } }

theorem witness_handler : handler.g.trapMode = true ∧ handler.g.trapRec = some someTrap ∧ handler.g.lcnt = 0 ∧ handler.g.scnt = 0 ∧
    handler.g.acnt = 0 ∧ validLpc handler.g.trappc = true ∧ handlerLoads.g.trapMode = true ∧ handlerLoads.g.trapRec = some someTrap ∧
    ¬ (handlerLoads.g.lcnt = 0 ∧ handlerLoads.g.scnt = 0 ∧ handlerLoads.g.acnt = 0) ∧ plain.g.trapMode = false ∧
    ∀ i ∈ [Instr.tret, .tabn, .tkill], (Ready handler i ∧ Closed handler) ∧ (Ready handlerLoads i ∧ Closed handlerLoads) ∧
      Ready plain i ∧ Closed plain := by
  refine ⟨by decide +kernel, by decide +kernel, by decide +kernel, by decide +kernel, by decide +kernel, by decide +kernel,
    by decide +kernel, by decide +kernel, by decide +kernel, by decide +kernel, fun i hi => ?_⟩
  have h := (by decide +kernel : ∀ i ∈ [Instr.tret, .tabn, .tkill],
    readyB handler i = true ∧ readyB handlerLoads i = true ∧ readyB plain i = true) i hi
  exact ⟨readyB_sound h.1, readyB_sound h.2.1, readyB_sound h.2.2⟩

/-- The debug right of the context is granted. -/
def debugged : State := { base with ctxs := [(1, { context with dbg := { Debug.zero with right := true } })] }

theorem witness_traps : (Ready base (.trap 0x3FF) ∧ Closed base) ∧ (Ready base (.brk 0) ∧ Closed base) ∧ State.debugRight base = false ∧
    (Ready debugged (.brk 0x3FF) ∧ Closed debugged) ∧ State.debugRight debugged = true :=
  ⟨readyB_sound (by decide +kernel), readyB_sound (by decide +kernel), by decide +kernel, readyB_sound (by decide +kernel),
    by decide +kernel⟩

/-- Every lane has an open atomic region whose fallback is address 64 and whose status register is v9. -/
def insideGroup (g : Group) : Group :=
  { g with lanes := List.replicate 32 { lpc := 0, mode := .live, region := { LaneRegion.fresh with isOpen := true, fallback := 64, vp := 9 } } }

def inside : State := { base with g := insideGroup someGroup }

/-- Ready, inside a region, the packet counted. -/
def insideB (s : State) (i : Instr) : Bool :=
  s.g.valid && s.g.wait.isNone && !s.cur.follow && (s.cur.mask != 0) && !State.regWait s i && (State.wordCheck s i).isNone &&
    ((State.countPackets s).cur.mask != 0)

theorem insideB_sound {s : State} {i : Instr} (h : insideB s i = true) : ReadyInside s i := by
  simp only [insideB, Bool.and_eq_true, Bool.not_eq_true', bne_iff_ne, ne_eq, Option.isNone_iff_eq_none] at h
  exact ⟨⟨h.1.1.1.1.1.1, h.1.1.1.1.1.2, h.1.1.1.1.2, h.1.1.1.2, h.1.1.2, h.1.2⟩, h.2⟩

theorem witness_regions : (Ready plain (.rbeg 8 0x7FFF 2) ∧ Closed plain) ∧ (Ready plain (.rstat 127) ∧ Closed plain) ∧
    AllOpen (State.countPackets inside) ∧ (State.countPackets inside).g.wait = none ∧
    (∀ i ∈ [Instr.rabt, .rcmt], ReadyInside inside i) ∧ ∀ i ∈ [Instr.rabt, .rcmt], Ready plain i ∧ Closed plain :=
  ⟨readyB_sound (by decide +kernel), readyB_sound (by decide +kernel), by unfold AllOpen; decide +kernel, by decide +kernel, fun i hi =>
    insideB_sound ((by decide +kernel : ∀ i ∈ [Instr.rabt, .rcmt], insideB inside i = true) i hi), fun i hi =>
    readyB_sound ((by decide +kernel : ∀ i ∈ [Instr.rabt, .rcmt], readyB plain i = true) i hi)⟩

/-- A group with 14 blocks, its block's pool two more. -/
def claims : State := { base with g := { someGroup with regn := 14, blockMap := List.range 14 } }

theorem witness_pool : claims.g.regn + ((1#4).toNat + 1) ≤ 16 ∧ (1#4).toNat + 1 ≤ (State.pool claims).length ∧
    State.olderClaim claims = false ∧ 16 < claims.g.regn + ((2#4).toNat + 1) ∧ (12#4).toNat + 2 ≤ claims.g.regn ∧
    State.blocksBusy (regionEnds claims) (claims.g.regn - ((12#4).toNat + 1)) = false ∧ claims.g.regn < (13#4).toNat + 2 ∧
    ∀ i ∈ [Instr.regclm 1, .regclm 2, .regrel 12, .regrel 13], Ready claims i ∧ Closed claims :=
  ⟨by decide +kernel, by decide +kernel, by decide +kernel, by decide +kernel, by decide +kernel, by decide +kernel, by decide +kernel,
    fun i hi => readyB_sound ((by decide +kernel : ∀ i ∈ [Instr.regclm 1, .regclm 2, .regrel 12, .regrel 13],
      readyB claims i = true) i hi)⟩

/-! ## Memory words -/

/-- A memory word with what its statement asks: the sources, the accesses, the counter, the need, what each page must be, the
alignment (1 for none). -/
structure MemCase where
  i : Instr
  xs : List Src
  accs : List Access
  counter : Nat
  need : Need
  page : DWord → Bool
  align : Nat

def MemCase.meets (s : State) (x : MemCase) : Bool :=
  readyB s x.i && soundB s x.xs && !State.stashWait s && !State.rangeHit (lookedUp s x.accs) x.accs && !State.busyPipe (lookedUp s x.accs) x.counter &&
    x.accs.all (fun a => a.addr.toNat % x.align == 0) &&
    match State.classify (lookedUp s x.accs) s.g.hall s.g.ctx x.need x.accs with
    | .ok ps => ps.all (fun p => x.page p.leaf)
    | _ => false

theorem MemCase.sound {s : State} {x : MemCase} (h : x.meets s = true) : ∃ ps, Closed s ∧ Ready s x.i ∧ Sound s x.xs ∧
    Aligned x.accs x.align ∧ Accepted s x.accs x.counter ∧ Classified s x.need x.accs ps ∧ ∀ p ∈ ps, x.page p.leaf = true := by
  simp only [MemCase.meets, Bool.and_eq_true, Bool.not_eq_true', List.all_eq_true, beq_iff_eq] at h
  obtain ⟨⟨⟨⟨⟨⟨hr, hs⟩, h1⟩, h2⟩, h3⟩, h4⟩, h5⟩ := h
  cases hc : State.classify (lookedUp s x.accs) s.g.hall s.g.ctx x.need x.accs with
  | ok ps =>
    rw [hc] at h5
    exact ⟨ps, (readyB_sound hr).2, (readyB_sound hr).1, soundB_sound hs, fun a ha => h4 a ha, ⟨h1, h2, h3⟩, hc,
      fun p hp => List.all_eq_true.1 h5 p hp⟩
  | _ => rw [hc] at h5; cases h5

/-- Address pairs: v2 the last bytes of page 8, which the access leaves for page 9; v4 page 3 (shadow-published); v6 page 4
(modifiable); v8 page 5 (not resident); v10 page 6 (migrating); v12 page 2 (read and execute); v14 page 7 (strongly ordered); v16
the hall window; v18 the last tile's end of the scratchpad; v20 128-byte aligned in page 1; v22 an odd address of page 1. Lanes 0 and
31 are active. -/
def memory : State :=
  withRegs { base with cur := { base.cur with mask := 0x80000001 } } [(2, 0x8FFFC, .addr), (4, 0x30000, .addr), (6, 0x40000, .addr), (8, 0x50000, .addr), (10, 0x60000, .addr),
    (12, 0x20000, .addr), (14, 0x70000, .addr), (16, 0xFF8, .addr), (17, 0x01FFFFFF, .addr), (18, 4096 - 32, .i32), (20, 0x1FF80, .addr),
    (22, 0x10001, .addr)]

def loadCases : List MemCase :=
  [⟨.ld 2 127 2 0, addrSrcs 2, laneAccesses memory 2 (BitVec.signExtend 64 (0 : BitVec 7) * BitVec.ofNat 64 (bytesOf 2)) (bytesOf 2), 0, .load, fun _ => true, 1⟩,
   ⟨.ld 3 126 2 0x7F, addrSrcs 2, laneAccesses memory 2 (BitVec.signExtend 64 (0x7F : BitVec 7) * BitVec.ofNat 64 (bytesOf 3)) (bytesOf 3), 0, .load, fun _ => true, 1⟩,
   ⟨.ld 4 124 2 0x3F, addrSrcs 2, laneAccesses memory 2 (BitVec.signExtend 64 (0x3F : BitVec 7) * BitVec.ofNat 64 (bytesOf 4)) (bytesOf 4), 0, .load, fun _ => true, 1⟩,
   ⟨.ldo 4 124 2 6 0 false, addrSrcs 2, laneAccesses memory 2 0 (bytesOf 4), 0, .load, fun _ => true, 1⟩,
   ⟨.ldo 4 124 20 6 1 false, addrSrcs 20, laneAccesses memory 20 0 (bytesOf 4), 0, .load, fun _ => true, bytesOf 4⟩,
   ⟨.ldo 2 1 20 0 0 true, addrSrcs 20, laneAccesses memory 20 0 (bytesOf 2), 0, .load, fun l => !noDiscard l, bytesOf 2⟩]

theorem witness_loads : ∀ x ∈ loadCases, ∃ ps, Closed memory ∧ Ready memory x.i ∧ Sound memory x.xs ∧ Aligned x.accs x.align ∧
    Accepted memory x.accs x.counter ∧ Classified memory x.need x.accs ps ∧ ∀ p ∈ ps, x.page p.leaf = true := fun x hx =>
  MemCase.sound ((by decide +kernel : ∀ x ∈ loadCases, x.meets memory = true) x hx)

/-- The accesses of LDL and STL from v18: the last 16 bytes, and the byte below them. -/
theorem witness_scratch :
    (Closed memory ∧ Ready memory (.ldl 4 124 18 1) ∧ Sound memory [consumed 18 false [.i32]] ∧
      ScratchAccepted memory (scratchLanes memory 18 (BitVec.signExtend 32 (1 : BitVec 7) * BitVec.ofNat 32 (bytesOf 4)) (bytesOf 4))
        (bytesOf 4) (fun t => TileTag.trk t && !TileTag.v t) memory.g.lcnt) ∧
    Closed memory ∧ Ready memory (.stl 0 127 18 0x7F) ∧ Sound memory (consumed 18 false [.i32] :: dataSrcs 127 (sizeRegs 0) []) ∧
      ScratchAccepted memory (scratchLanes memory 18 (BitVec.signExtend 32 (0x7F : BitVec 7) * BitVec.ofNat 32 (bytesOf 0)) (bytesOf 0))
        (bytesOf 0) (fun t => TileTag.trk t && TileTag.h t) memory.g.scnt := by
  refine ⟨⟨(readyB_sound (i := .nop) (by decide +kernel)).2, (readyB_sound (by decide +kernel)).1, soundB_sound (by decide +kernel), ?_⟩,
    (readyB_sound (i := .nop) (by decide +kernel)).2, (readyB_sound (by decide +kernel)).1, soundB_sound (by decide +kernel), ?_⟩ <;>
    unfold ScratchAccepted Aligned <;> decide +kernel

theorem witness_ldcb : ∃ ps, State.slotPending memory 7 = false ∧ (7#7).toNat < memory.g.lr.cb ∧ State.stashWait memory = false ∧
    Closed memory ∧ Ready memory (.ldcb 7 20 0) ∧ Sound memory (srcPair 20 false [.addr, .i32] .lowest) ∧
    Aligned [({ lane := Mask.lowest memory.cur.mask, addr := reg64 memory 0 20 + BitVec.signExtend 64 (0 : BitVec 7) * 32, len := 32 } : Access)] 32 ∧
    Classified memory .load [{ lane := Mask.lowest memory.cur.mask, addr := reg64 memory 0 20 + BitVec.signExtend 64 (0 : BitVec 7) * 32, len := 32 }] ps ∧
    State.busyPipe (lookedUp memory [{ lane := Mask.lowest memory.cur.mask, addr := reg64 memory 0 20 + BitVec.signExtend 64 (0 : BitVec 7) * 32, len := 32 }])
      memory.g.lcnt = false := by
  obtain ⟨ps, h1, h2, h3, h4, h5, h6, -⟩ := MemCase.sound (s := memory) (x := ⟨.ldcb 7 20 0, srcPair 20 false [.addr, .i32] .lowest,
    [{ lane := Mask.lowest memory.cur.mask, addr := reg64 memory 0 20 + BitVec.signExtend 64 (0 : BitVec 7) * 32, len := 32 }], memory.g.lcnt, .load, fun _ => true, 32⟩)
    (by decide +kernel)
  dsimp only at h1 h2 h3 h4 h5 h6
  exact ⟨ps, by decide +kernel, by decide +kernel, h5.1, h1, h2, h3, h4, h6, h5.2.2⟩

def storeCases : List MemCase :=
  [⟨.st 2 127 2 0, addrSrcs 2 ++ dataSrcs 127 (sizeRegs 2) [], laneAccesses memory 2 (BitVec.signExtend 64 (0 : BitVec 7) * BitVec.ofNat 64 (bytesOf 2)) (bytesOf 2), 0, .store,
     fun l => !Leaf.s l, 1⟩,
   ⟨.st 3 126 2 0, addrSrcs 2 ++ dataSrcs 126 (sizeRegs 3) [], laneAccesses memory 2 (BitVec.signExtend 64 (0 : BitVec 7) * BitVec.ofNat 64 (bytesOf 3)) (bytesOf 3), 0, .store,
     fun l => !Leaf.s l, 1⟩,
   ⟨.st 0 0 14 0x3F, addrSrcs 14 ++ dataSrcs 0 (sizeRegs 0) [], laneAccesses memory 14 (BitVec.signExtend 64 (0x3F : BitVec 7) * BitVec.ofNat 64 (bytesOf 0)) (bytesOf 0), 0,
     .store, fun l => !Leaf.s l, 1⟩,
   ⟨.sto 4 124 2 6 0, addrSrcs 2 ++ dataSrcs 124 (sizeRegs 4) [], laneAccesses memory 2 0 (bytesOf 4), 0, .store, fun l => !Leaf.s l, 1⟩,
   ⟨.sto 4 124 20 6 2, addrSrcs 20 ++ dataSrcs 124 (sizeRegs 4) [], laneAccesses memory 20 0 (bytesOf 4), 0, .store, fun l => !Leaf.s l, bytesOf 4⟩,
   ⟨.modw 3 126 6 6 0, addrSrcs 6 ++ dataSrcs 126 (sizeRegs 3) [], laneAccesses memory 6 0 (bytesOf 3), 0, .store,
     fun l => !Leaf.s l && Leaf.m l, bytesOf 3⟩]

theorem witness_stores : State.inTracedLaunch memory memory.g.ctx memory.g.seq = false ∧
    ∀ x ∈ storeCases, ∃ ps, Closed memory ∧ Ready memory x.i ∧ Sound memory x.xs ∧ Aligned x.accs x.align ∧
    Accepted memory x.accs x.counter ∧ Classified memory x.need x.accs ps ∧ ∀ p ∈ ps, x.page p.leaf = true :=
  ⟨by decide +kernel, fun x hx => MemCase.sound ((by decide +kernel : ∀ x ∈ storeCases, x.meets memory = true) x hx)⟩

/-- The atomics, one of each, to page 1, and one to the hall window. -/
def atomicSamples : List Instr :=
  [.aadd 2 31 20 6 0, .amin 3 30 20 0 3 true, .amax 2 127 20 6 0 false, .aand 3 126 20 6 1, .aor 2 0 20 6 2, .axor 3 30 20 6 0,
   .axch 2 30 20 6 0, .acas false 126 20 6 0, .acas true 124 20 6 0, .acasQ 120 20 6 0, .afadd 127 20 6 0, .aadd 2 31 16 6 0]

def atomicB (s : State) (i : Instr) : Bool :=
  match atomicOf i with
  | some (op, n, t, a, k, _, _) =>
    MemCase.meets s ⟨i, addrSrcs a ++ dataSrcs t k (atomicTags op), outsideWindow (laneAccesses s a 0 n), s.g.acnt, .atomic,
      fun l => !Leaf.s l, n⟩ &&
    (inHallWindow (laneAccesses s a 0 n)).all (fun x => (State.scratchPlace s x).isSome && x.addr.toNat % n == 0) &&
      !State.scratchRangeHit (lookedUp s (outsideWindow (laneAccesses s a 0 n))) (inHallWindow (laneAccesses s a 0 n))
  | none => false

theorem witness_atomics : ∀ i ∈ atomicSamples, ∃ op n t a k scope ord ps, atomicOf i = some (op, n, t, a, k, scope, ord) ∧
    Closed memory ∧ Ready memory i ∧ Sound memory (addrSrcs a ++ dataSrcs t k (atomicTags op)) ∧
    Aligned (outsideWindow (laneAccesses memory a 0 n)) n ∧ Aligned (inHallWindow (laneAccesses memory a 0 n)) n ∧
    (∀ x ∈ inHallWindow (laneAccesses memory a 0 n), (State.scratchPlace memory x).isSome = true) ∧
    Accepted memory (outsideWindow (laneAccesses memory a 0 n)) memory.g.acnt ∧
    State.scratchRangeHit (lookedUp memory (outsideWindow (laneAccesses memory a 0 n))) (inHallWindow (laneAccesses memory a 0 n)) = false ∧
    Classified memory .atomic (outsideWindow (laneAccesses memory a 0 n)) ps ∧ ∀ p ∈ ps, Leaf.s p.leaf = false := by
  intro i hi
  have h := (by decide +kernel : ∀ i ∈ atomicSamples, atomicB memory i = true) i hi
  unfold atomicB at h
  split at h
  · next op n t a k scope ord hw =>
    simp only [Bool.and_eq_true, Bool.not_eq_true', List.all_eq_true, beq_iff_eq] at h
    obtain ⟨ps, h1, h2, h3, h4, h5, h6, h7⟩ := MemCase.sound h.1.1
    dsimp only at h1 h2 h3 h4 h5 h6 h7
    exact ⟨op, n, t, a, k, scope, ord, ps, hw, h1, h2, h3, h4, fun x hx => (h.1.2 x hx).2, fun x hx => (h.1.2 x hx).1, h5, h.2, h6,
      fun p hp => by simpa using h7 p hp⟩
  · cases h

/-- A round that another group opened with the same operands. -/
def opened : State :=
  { memory with gangs := memory.gangs.map (fun y =>
      { y with rounds := [{ n := 1, addr := 0x1FF80, incr := 0, value := none, bad := false, takers := [(0, 1)] }] }) }

theorem witness_ticket :
    (∀ s ∈ [memory, opened], SameOperands s 20 30 true false ∧ State.stashWait s = false ∧ State.busyPipe (lookedUp s (uniAccesses s 20 true 8)) s.g.acnt = false ∧
      ∃ ps, Closed s ∧ Ready s (.tkt 126 20 30 true false) ∧ Sound s (counterSrcs 20 30 true false) ∧ Aligned (uniAccesses s 20 true 8) 8 ∧
        Classified s .atomic (uniAccesses s 20 true 8) ps ∧ ∀ p ∈ ps, Leaf.s p.leaf = false) ∧
    ((State.rounds memory).find? (fun r => r.n == memory.g.tickets + 1) = none ∧ State.openRounds memory < 4) ∧
    ∃ r, (State.rounds opened).find? (fun r => r.n == opened.g.tickets + 1) = some r ∧
      vaOf r.addr = vaOf (State.src64 opened (Mask.lowest opened.cur.mask) 20 true) ∧
      r.incr = BitVec.zeroExtend 64 (src opened (Mask.lowest opened.cur.mask) 30 false) := by
  refine ⟨fun s hs => ⟨(by unfold SameOperands; decide +kernel : ∀ s ∈ [memory, opened], SameOperands s 20 30 true false) s hs,
      (by decide +kernel : ∀ s ∈ [memory, opened], State.stashWait s = false) s hs,
      (by decide +kernel : ∀ s ∈ [memory, opened], State.busyPipe (lookedUp s (uniAccesses s 20 true 8)) s.g.acnt = false) s hs, ?_⟩,
    ⟨by decide +kernel, by decide +kernel⟩, ⟨_, by rfl, by decide +kernel, by decide +kernel⟩⟩
  obtain ⟨ps, h1, h2, h3, h4, -, h5, h6⟩ := MemCase.sound (s := s) (x := ⟨.tkt 126 20 30 true false, counterSrcs 20 30 true false,
    uniAccesses s 20 true 8, s.g.acnt, .atomic, fun l => !Leaf.s l, 8⟩)
    ((by decide +kernel : ∀ s ∈ [memory, opened], MemCase.meets s ⟨.tkt 126 20 30 true false, counterSrcs 20 30 true false,
      uniAccesses s 20 true 8, s.g.acnt, .atomic, fun l => !Leaf.s l, 8⟩ = true) s hs)
  dsimp only at h1 h2 h3 h4 h5 h6
  exact ⟨ps, h1, h2, h3, h4, h5, fun p hp => by simpa using h6 p hp⟩

theorem witness_depadd : memory.g.scnt = 0 ∧ State.stashWait memory = false ∧
    State.busyPipe (lookedUp memory (uniAccesses memory 20 false 128)) memory.g.acnt = false ∧
    ∃ ps, Closed memory ∧ Ready memory (.depadd 127 20 30 false true) ∧ Sound memory (counterSrcs 20 30 false true) ∧
      Aligned (uniAccesses memory 20 false 128) 128 ∧ Classified memory .atomic (uniAccesses memory 20 false 128) ps ∧
      ∀ p ∈ ps, Leaf.s p.leaf = false := by
  refine ⟨by decide +kernel, by decide +kernel, by decide +kernel, ?_⟩
  obtain ⟨ps, h1, h2, h3, h4, -, h5, h6⟩ := MemCase.sound (s := memory) (x := ⟨.depadd 127 20 30 false true, counterSrcs 20 30 false true,
    uniAccesses memory 20 false 128, memory.g.acnt, .atomic, fun l => !Leaf.s l, 128⟩) (by decide +kernel)
  dsimp only at h1 h2 h3 h4 h5 h6
  exact ⟨ps, h1, h2, h3, h4, h5, fun p hp => by simpa using h6 p hp⟩

/-- The last byte of the eight at 0x1FF80 is in a recorded range of the hall. -/
def ranged : State :=
  { memory with halls := [(0, { Hall.empty with ranges := [{ ctx := 1, scratch := false, seq := 0, blk := 0, lo := 0x1FF87, hi := 0x20000, slot := 0, num := 0 }] })] }

/-- Both counters stand at their greatest value. -/
def full : State := { memory with g := { memory.g with lcnt := 255, scnt := 255 } }

def isTrap : Machine.Class → Bool
  | .trap _ _ _ => true
  | _ => false

def isFault : Machine.Class → Bool
  | .fault _ => true
  | _ => false

theorem isTrap_sound {k : Machine.Class} (h : isTrap k = true) : ∃ c m x, k = .trap c m x := by
  cases k <;> first | exact ⟨_, _, _, rfl⟩ | cases h

theorem isFault_sound {k : Machine.Class} (h : isFault k = true) : ∃ pages, k = .fault pages := by
  cases k <;> first | exact ⟨_, rfl⟩ | cases h

/-- The checks of a global access: what each clause asks. -/
def checkSamples : List (State × Instr × List Src) :=
  [(memory, Instr.ldo 2 30 22 6 1 false, addrSrcs 22), (memory, .sto 2 30 22 6 2, addrSrcs 22 ++ dataSrcs 30 (sizeRegs 2) []),
   (memory, .sto 2 30 12 6 0, addrSrcs 12 ++ dataSrcs 30 (sizeRegs 2) []), (memory, .ldo 2 30 8 6 0 false, addrSrcs 8),
   (memory, .ldo 2 30 10 6 0 false, addrSrcs 10), (ranged, .ldo 3 30 20 6 0 false, addrSrcs 20),
   (full, .ldo 2 30 20 6 1 false, addrSrcs 20), (full, .sto 2 30 20 6 0, addrSrcs 20 ++ dataSrcs 30 (sizeRegs 2) [])]

theorem witness_checks :
    (∃ ps, Classified ranged .load (laneAccesses ranged 20 0 (bytesOf 3)) ps ∧ ∀ p ∈ ps, (!Leaf.s p.leaf) = true) ∧
    (∃ ps, Classified full .load (laneAccesses full 20 0 (bytesOf 2)) ps ∧ ∀ p ∈ ps, (!Leaf.s p.leaf) = true) ∧
    (∀ x ∈ checkSamples,
      Ready x.1 x.2.1 ∧ Closed x.1 ∧ Sound x.1 x.2.2) ∧
    (∀ s ∈ [memory, ranged, full], State.stashWait s = false) ∧
    (lanesWhere (laneAccesses memory 22 0 (bytesOf 2)) (fun y => y.addr.toNat % bytesOf 2 != 0)).isSome = true ∧
    (∃ c m x, State.classify (lookedUp memory (laneAccesses memory 12 0 (bytesOf 2))) memory.g.hall memory.g.ctx .store (laneAccesses memory 12 0 (bytesOf 2)) = .trap c m x) ∧
    (∃ pages, State.classify (lookedUp memory (laneAccesses memory 8 0 (bytesOf 2))) memory.g.hall memory.g.ctx .load (laneAccesses memory 8 0 (bytesOf 2)) = .fault pages) ∧
    State.classify (lookedUp memory (laneAccesses memory 10 0 (bytesOf 2))) memory.g.hall memory.g.ctx .load (laneAccesses memory 10 0 (bytesOf 2)) = .migrating ∧
    State.rangeHit (lookedUp ranged (laneAccesses ranged 20 0 (bytesOf 3))) (laneAccesses ranged 20 0 (bytesOf 3)) = true ∧
    State.rangeHit (lookedUp full (laneAccesses full 20 0 (bytesOf 2))) (laneAccesses full 20 0 (bytesOf 2)) = false ∧
    State.busyPipe (lookedUp full (laneAccesses full 20 0 (bytesOf 2))) full.g.lcnt = true ∧
    State.busyPipe (lookedUp full (laneAccesses full 20 0 (bytesOf 2))) full.g.scnt = true := by
  refine ⟨classedB_sound (page := fun l => !Leaf.s l) (by decide +kernel), classedB_sound (page := fun l => !Leaf.s l) (by decide +kernel), fun x hx => meets_sound ((by decide +kernel : ∀ x ∈ checkSamples, meets x = true) x hx),
    by decide +kernel, by decide +kernel, isTrap_sound (by decide +kernel), isFault_sound (by decide +kernel), by decide +kernel, by decide +kernel,
    by decide +kernel, by decide +kernel, by decide +kernel⟩

/-! ## Engine words -/

/-- v2 page 9, v4 page 1, v6 the shadow-published page 3, v8 scratchpad 0, v10 the last scratchpad byte; v20 one byte, v21 the
longest scratchpad run from memory, v22 a line; v24 a box of one 4-byte element; v32 to v35 a gather of one row by an index in page 1;
v40 a mapping of four tiles at tile 0. The publish table's entry 0 is page 3. -/
def engine : State :=
  let s := withRegs { base with cur := { base.cur with mask := 0x80000001 } } [(2, 0x90000, .addr), (4, 0x10000, .addr), (6, 0x30000, .addr),
    (8, 0, .i32), (10, 4095, .i32), (20, 1, .i32), (21, 0x02001000, .i32), (22, 128, .i32), (24, 0x00010001, .i32), (25, 0x00020001, .i32),
    (28, 0x00010001, .i32), (29, 1, .i32), (32, 0x10000, .i32), (34, 1, .i32), (35, 65536, .i32), (40, 0x00040000, .i32)]
  { s with mem := Memory.writeN (Memory.writeN s.mem 0x800000 (leBytes 8 0x30000)) 0x800008 (leBytes 4 1) }

/-- The pages of an engine word, looked up. -/
def soughtBy (s : State) (w : EngineWord) : State :=
  State.lookUp s s.g.hall s.g.ctx (engineAccesses (first s) w.reads [CmdKind.dest w.kind])

/-- What the statement of the engine words asks beside the descriptor's legality. -/
def engineB (s : State) (i : Instr) (w : EngineWord) (page : List Piece → Bool) : Bool :=
  readyB s i && soundB s w.srcs &&
    (w.reads ++ [CmdKind.dest w.kind]).all (fun x => !x.1.scratch || (Place.target x.1 s.g.lr s.g.blk x.2).isSome) &&
    decide (s.g.ecnt + Group.openProps s.g < 255) &&
    match State.classifyAll (soughtBy s w) s.g.hall s.g.ctx (engineAccesses (first s) w.reads [CmdKind.dest w.kind]) with
    | .ok ps => page (destPieces ps [CmdKind.dest w.kind]) &&
        decide ((State.hall (State.touchAll (soughtBy s w) ps [CmdKind.dest w.kind]) s.g.hall).ranges.length +
          (State.rangesOf (State.touchAll (soughtBy s w) ps [CmdKind.dest w.kind]) w.kind).length ≤ 32)
    | _ => false

/-- What the statement asks. -/
def EngineMeets (s : State) (i : Instr) (w : EngineWord) : Prop :=
  ∃ ps, Closed s ∧ Ready s i ∧ Sound s w.srcs ∧ w.legal ∧
    (∀ x ∈ w.reads ++ [CmdKind.dest w.kind], x.1.scratch = true → (Place.target x.1 s.g.lr s.g.blk x.2).isSome = true) ∧
    State.classifyAll (soughtBy s w) s.g.hall s.g.ctx (engineAccesses (first s) w.reads [CmdKind.dest w.kind]) = .ok ps ∧
    w.dest (destPieces ps [CmdKind.dest w.kind]) ∧ EngineRoom s ∧
    (State.hall (State.touchAll (soughtBy s w) ps [CmdKind.dest w.kind]) s.g.hall).ranges.length +
      (State.rangesOf (State.touchAll (soughtBy s w) ps [CmdKind.dest w.kind]) w.kind).length ≤ 32

theorem engineB_sound {s : State} {i : Instr} {w : EngineWord} {page : List Piece → Bool} (hl : w.legal)
    (hd : ∀ ps, page ps = true → w.dest ps) (h : engineB s i w page = true) : EngineMeets s i w := by
  simp only [engineB, Bool.and_eq_true, List.all_eq_true, decide_eq_true_eq] at h
  obtain ⟨⟨⟨⟨hr, hs⟩, ht⟩, he⟩, hc⟩ := h
  cases hk : State.classifyAll (soughtBy s w) s.g.hall s.g.ctx (engineAccesses (first s) w.reads [CmdKind.dest w.kind]) with
  | ok ps =>
    rw [hk] at hc
    simp only [Bool.and_eq_true, decide_eq_true_eq] at hc
    exact ⟨ps, (readyB_sound hr).2, (readyB_sound hr).1, soundB_sound hs, hl, fun x hx hp => by simpa [hp] using ht x hx, hk, hd _ hc.1,
      he, hc.2⟩
  | _ => rw [hk] at hc; cases hc

/-- No page of the destination is shadow-published. -/
def plainPages (ps : List Piece) : Bool := ps.all (fun p => !Leaf.s p.leaf)

theorem plainPages_sound {ps : List Piece} (h : plainPages ps = true) : ∀ p ∈ ps, Leaf.s p.leaf = false := by
  simpa [plainPages] using h

theorem witness_cpy : (∃ w, engineWord engine (.cpy 2 4 20 false false) = some w ∧ EngineMeets engine (.cpy 2 4 20 false false) w) ∧
    (∃ w, engineWord engine (.cpy 2 8 21 true true) = some w ∧ EngineMeets engine (.cpy 2 8 21 true true) w) :=
  ⟨⟨_, rfl, engineB_sound (page := plainPages) (by dsimp only [highZero]; decide +kernel) (fun _ h => plainPages_sound h) (by decide +kernel)⟩,
    ⟨_, rfl, engineB_sound (page := plainPages) (by dsimp only [highZero]; decide +kernel) (fun _ h => plainPages_sound h) (by decide +kernel)⟩⟩

theorem witness_cpyw : ∃ w, engineWord engine (.cpyw 6 4 20 false false) = some w ∧ EngineMeets engine (.cpyw 6 4 20 false false) w := by
  refine ⟨_, rfl, engineB_sound (page := fun ps => ps.all (fun p => Leaf.s p.leaf)) (by dsimp only [highZero]; decide +kernel)
    (fun ps h => ⟨by simpa using h, (State.buffer engine 1 0x30000).getD default, ?_⟩) (by decide +kernel)⟩
  decide +kernel

theorem witness_cpyt : ∃ w, engineWord engine (.cpyt 2 4 24 false false) = some w ∧ EngineMeets engine (.cpyt 2 4 24 false false) w :=
  ⟨_, rfl, engineB_sound (page := plainPages) (by dsimp only [highZero]; decide +kernel) (fun _ h => plainPages_sound h) (by decide +kernel)⟩

theorem witness_cpyg : ∃ w, engineWord engine (.cpyg 2 4 32 false false) = some w ∧ EngineMeets engine (.cpyg 2 4 32 false false) w :=
  ⟨_, rfl, engineB_sound (page := plainPages) (by dsimp only [highZero]; decide +kernel) (fun _ h => plainPages_sound h) (by decide +kernel)⟩

theorem witness_disc : ∃ w, engineWord engine (.disc 2 22 false false) = some w ∧ EngineMeets engine (.disc 2 22 false false) w :=
  ⟨_, rfl, engineB_sound (page := fun ps => ps.all (fun p => !noDiscard p.leaf)) (by dsimp only; decide +kernel)
    (fun _ h => by simpa using h) (by decide +kernel)⟩

/-! ## PREF, PUB and the stash words -/

/-- v20 page 1, v22 a length of 2^24, v23 entry 0 of the publish table, v24 four tiles from tile 0 on. -/
def stash : State :=
  let s := withRegs { base with cur := { base.cur with mask := 0x80000001 } } [(20, 0x10000, .addr), (22, 0x01000000, .i32), (23, 0, .i32),
    (24, 0x00040000, .i32)]
  { s with mem := Memory.writeN (Memory.writeN s.mem 0x800000 (leBytes 8 0x30000)) 0x800008 (leBytes 4 1) }

/-- The same with its block's stash mapped to page 1. -/
def stashed : State := { stash with blocks := [{ someBlock with stashMaps := [{ tile0 := 0, tiles := 4, base := 0x10000 }] }] }

theorem witness_pref_sflush :
    (Ready stash (.pref 20 22 false true) ∧ Closed stash ∧ Sound stash (rangeSrcs 20 22 false true)) ∧
    (Ready stash (.sflush 20 22 true false) ∧ Closed stash ∧ Sound stash (rangeSrcs 20 22 true false)) ∧
    0 < (src stash (first stash) 22 true).toNat ∧ (src stash (first stash) 22 true).toNat ≤ 2 ^ 24 ∧ EngineRoom stash :=
  ⟨meets_sound (x := (stash, .pref 20 22 false true, rangeSrcs 20 22 false true)) (by decide +kernel),
    meets_sound (x := (stash, .sflush 20 22 true false, rangeSrcs 20 22 true false)) (by decide +kernel), by decide +kernel,
    by decide +kernel, by unfold EngineRoom; decide +kernel⟩

theorem witness_pub : ∃ e, State.pubEntry stash 1 (src stash (first stash) 23 false).toNat = some e ∧ e.npages ≠ 0 ∧
    (∀ k < e.npages, ∃ l p, State.walk stash 1 (e.base + 65536 * k) = .leaf l p ∧ Leaf.w l = true) ∧
    (src stash (first stash) 23 false).toNat < 4096 ∧ stash.g.ctx = 1 ∧
    Ready stash (.pub 23 false) ∧ Closed stash ∧ Sound stash [{ reg := 23, uni := false, tags := [], use := .peek }] := by
  refine ⟨(State.pubEntry stash 1 0).getD default, by decide +kernel, by decide +kernel, fun k hk => leafB_sound ?_, by decide +kernel,
    by decide +kernel, meets_sound (x := (stash, .pub 23 false, [{ reg := 23, uni := false, tags := [], use := .peek }])) (by decide +kernel)⟩
  exact (by decide +kernel : ∀ k < ((State.pubEntry stash 1 0).getD default).npages,
    leafB (State.walk stash 1 (((State.pubEntry stash 1 0).getD default).base + 65536 * k)) Leaf.w = true) k hk

theorem witness_smap :
    (Ready stash (.smap 20 24 false false) ∧ Closed stash ∧ Sound stash (rangeSrcs 20 24 false false)) ∧
    bits (src stash (first stash) 24 false).toNat 25 7 = 0 ∧ bits (src stash (first stash) 24 false).toNat 9 7 = 0 ∧
    MapLegal stash (mapAsked stash 20 24 false false) ∧
    ∃ ps, Classified stash .load [{ lane := first stash, addr := (mapAsked stash 20 24 false false).base, len := 1024 * (mapAsked stash 20 24 false false).tiles }] ps ∧ ∀ p ∈ ps, (!Leaf.s p.leaf) = true :=
  ⟨meets_sound (x := (stash, .smap 20 24 false false, rangeSrcs 20 24 false false)) (by decide +kernel), by decide +kernel, by decide +kernel,
    by unfold MapLegal; decide +kernel, classedB_sound (page := fun l => !Leaf.s l) (by decide +kernel)⟩

theorem witness_sdrop : (Ready stashed (.sdrop 20 false) ∧ Closed stashed ∧ Sound stashed (srcPair 20 false [.addr, .i32] .lowest)) ∧
    (mapsOf stashed).find? (fun m => m.base == State.src64 stashed (first stashed) 20 false) =
      some { tile0 := 0, tiles := 4, base := 0x10000 } ∧ EngineRoom stashed :=
  ⟨meets_sound (x := (stashed, .sdrop 20 false, srcPair 20 false [.addr, .i32] .lowest)) (by decide +kernel), by decide +kernel,
    by unfold EngineRoom; decide +kernel⟩

/-! ## Matrix words -/

/-- v0 to v7 and v16 to v23 with a tag each, v24 the scales of E2M1, v30 a scratchpad address of each lane's row; quarter 1 is
active. -/
def matrix (a b : Tag) : State :=
  let s := withRegs { base with cur := { base.cur with mask := 0x0000FF00 } }
    ((List.range 8).map (fun n => (8 + n, 0, a)) ++ (List.range 8).map (fun n => (16 + n, 0, b)) ++ [(24, 0, .e8m0x4), (25, 0, .i32), (30, 0, .i32)])
  s

/-- What an MMQ needs. -/
def matrixB (s : State) (i : Instr) : Bool :=
  match mmqOf i with
  | some (f, tile, a, b, sb, ol) =>
    readyB s i && partQuarters s.cur.mask == 0 && !Group.shadowFor s.g tile.toNat &&
      (MmaForm.slots f s.g.cbs).all (fun n => !State.slotPending s n && decide (n < s.g.lr.cb)) && !Group.loading s.g tile.toNat &&
      State.arraysFree s s.g.hall (arrayShare s sb) &&
      !Group.tagsBad s.g (rowLanes s) (regRun a.toNat 8) [MmaForm.tagA f] &&
      (f != .e2m1 || !Group.tagsBad s.g (rowLanes s) [a.toNat + 8] [.e8m0x4]) &&
      !Group.tagsBad s.g (colLanes s sb) (regRun b.toNat 8) [MmaForm.tagB f] &&
      (!ol || (quarters s).all (fun q => !Group.outlierBad s.g a.toNat q)) &&
      (rowLanes s).all (fun l => !Group.residuesBad s.g [l] (MmaForm.rowRegs f a.toNat ol l)) &&
      !Group.residuesBad s.g (colLanes s sb) (MmaForm.colRegs f a.toNat b.toNat)
  | none => false

theorem matrixB_sound {s : State} {i : Instr} (h : matrixB s i = true) : ∃ f tile a b sb ol, mmqOf i = some (f, tile, a, b, sb, ol) ∧
    Closed s ∧ Ready s i ∧ QuartersWhole s tile ∧ (∀ n ∈ MmaForm.slots f s.g.cbs, State.slotPending s n = false ∧ n < s.g.lr.cb) ∧
    Group.loading s.g tile.toNat = false ∧ State.arraysFree s s.g.hall (arrayShare s sb) = true ∧ MatrixSources s f a b sb ol := by
  unfold matrixB at h
  split at h
  · next f tile a b sb ol hw =>
    simp only [Bool.and_eq_true, Bool.not_eq_true', beq_iff_eq, List.all_eq_true, decide_eq_true_eq, Bool.or_eq_true, bne_iff_ne,
      ne_eq] at h
    obtain ⟨⟨⟨⟨⟨⟨⟨⟨⟨⟨⟨h1, h2⟩, h3⟩, h4⟩, h5⟩, h6⟩, h7⟩, h8⟩, h9⟩, h10⟩, h11⟩, h12⟩ := h
    exact ⟨f, tile, a, b, sb, ol, hw, (readyB_sound h1).2, (readyB_sound h1).1, ⟨h2, h3⟩, h4, h5, h6, h7,
      fun he => by simpa [he] using h8, h9, fun ho => by simpa [ho] using h10, h11, h12⟩
  · cases h

def matrixSamples : List (State × Instr) :=
  [(matrix .bf16x2 .bf16x2, .mmqBf16 15 8 16 false), (matrix .f16x2 .f16x2, .mmqF16 0 8 16 false), (matrix .e4m3x4 .e4m3x4, .mmqE4m3 1 8 16 false),
   (matrix .e5m2x4 .e5m2x4, .mmqE5m2 2 8 16 true), (matrix .i8x4 .i8x4, .mmqI8 3 8 16 false), (matrix .cb4x8 .cb4x8, .mmqCb4 4 8 16 false),
   (matrix .cb4x8 .bf16x2, .mmqCbbf 5 8 16 true), (matrix .e2m1x8 .e2m1x8, .mmqE2m1 6 16 8 false false)]

theorem witness_mmq : ∀ x ∈ matrixSamples, ∃ f tile a b sb ol, mmqOf x.2 = some (f, tile, a, b, sb, ol) ∧
    Closed x.1 ∧ Ready x.1 x.2 ∧ QuartersWhole x.1 tile ∧ (∀ n ∈ MmaForm.slots f x.1.g.cbs, State.slotPending x.1 n = false ∧ n < x.1.g.lr.cb) ∧
    Group.loading x.1.g tile.toNat = false ∧ State.arraysFree x.1 x.1.g.hall (arrayShare x.1 sb) = true ∧ MatrixSources x.1 f a b sb ol :=
  fun x hx => matrixB_sound ((by decide +kernel : ∀ x ∈ matrixSamples, matrixB x.1 x.2 = true) x hx)

/-- RowsMove. -/
def rowsB (s : State) (tile : BitVec 4) (accs : List Access) (wait : BitVec 5 → Bool) : Bool :=
  accs.all (fun x => x.addr.toNat % 32 == 0 && (State.scratchPlace s x).isSome) && !State.tileAny s accs wait && !State.scratchRangeHit s accs &&
    !Group.tileBusy s.g tile.toNat

theorem rowsB_sound {s : State} {tile : BitVec 4} {accs : List Access} {wait : BitVec 5 → Bool} (h : rowsB s tile accs wait = true) :
    RowsMove s tile accs wait := by
  simp only [rowsB, Bool.and_eq_true, Bool.not_eq_true', List.all_eq_true, beq_iff_eq] at h
  exact ⟨fun x hx => (h.1.1.1 x hx).1, fun x hx => (h.1.1.1 x hx).2, h.1.1.2, h.1.2, h.2⟩

/-- A state for the tile words: v8 to v15 hold I32. -/
def tiles : State := matrix .i32 .i32

def tileSamples : List (State × Instr × List Src) :=
  [(tiles, Instr.mmz 15, ([] : List Src)), (tiles, .mmrd 0 120, []), (tiles, .mmwr 3 8, []), (tiles, .mmst 15 30, [consumed 30 false [.i32]]),
   (tiles, .mmld 0 30, [consumed 30 false [.i32]])]

theorem witness_tile_words :
    (∀ x ∈ tileSamples, Ready x.1 x.2.1 ∧ Closed x.1 ∧ Sound x.1 x.2.2) ∧
    (∀ t : BitVec 4, t ∈ [15, 0, 3] → QuartersWhole tiles t ∧ Group.tileBusy tiles.g t.toNat = false) ∧
    (∀ q ∈ quarters tiles, OneType tiles 8 q) ∧ Group.residuesBad tiles.g (rowLanes tiles) (regRun 8 8) = false ∧
    RowsMove tiles 15 (scratchLanes tiles 30 0 32) (fun t => TileTag.trk t && TileTag.h t) ∧
    RowsMove tiles 0 (scratchLanes tiles 30 0 32) (fun t => TileTag.trk t && !TileTag.v t) ∧
    (∀ l ∈ Mask.lanes tiles.cur.mask, ∀ c < 8, (Group.tile tiles.g 15).poison.getLsbD (8 * l + c) = false) := by
  refine ⟨fun x hx => meets_sound ((by decide +kernel : ∀ x ∈ tileSamples, meets x = true) x hx),
    by unfold QuartersWhole; decide +kernel, by unfold OneType; decide +kernel, by decide +kernel, rowsB_sound (by decide +kernel),
    rowsB_sound (by decide +kernel), by decide +kernel⟩

/-! ## Tile tags, stage rings, phasers -/

/-- v8 a tile address, v9 a count; v10 ring 15, v11 a descriptor of two landings of one tile from tile 2 on, v12 side 0 of landing 1,
v13 side 1 of landing 0. Ring 3 of the block is made: landing 0 has P 1, landing 1 P 0. -/
def rings : State :=
  let s := withRegs { base with cur := { base.cur with mask := 0x80000001 } } [(8, 1024, .i32), (9, 3, .i32), (10, 15, .i32), (11, 0x202, .i32), (12, 1, .i32), (13, 32, .i32), (14, 3, .i32)]
  { s with blocks := [Block.setTag { someBlock with rings := [(3, { tb := 2, n := 2, t := 1 })] } 2 (fun t => TileTag.set t 2)] }

def tileWordSamples : List Instr := [.tilev 8 9 false true, .tilec 8 9 true false, .tileclr 8 9 false false]

theorem witness_tile_tags :
    (∀ i ∈ tileWordSamples, ∃ ua ub f, tileWordOf i = some (8, 9, ua, ub, f) ∧ Ready rings i ∧ Closed rings ∧
      Sound rings [named 8 ua [.i32], peeked 9 ub [.i32]] ∧ src rings (first rings) 8 ua = 1024 ∧
      (src rings (first rings) 9 ub).toNat = 3) ∧
    scratchTarget rings.g.lr rings.g.blk 1024 (1024 * 3) = some (0, 1024) ∧
    (∃ x, State.block? rings 1 0 0 = some x ∧ ∀ k < 3, TileTag.h (Block.tag x (1024 / 1024 + k)) = false) ∧
    rings.g.scnt = 0 ∧ Group.scratchBusy (regionEnds rings).g [placeRank (BitVec.zeroExtend 64 (1024 : Word))] = false := by
  refine ⟨?_, by decide +kernel, ⟨(State.block? rings 1 0 0).getD someBlock, by decide +kernel, by decide +kernel⟩, by decide +kernel,
    by decide +kernel⟩
  have h : ∀ i ∈ [Instr.tilev 8 9 false true, .tilec 8 9 true false, .tileclr 8 9 false false], readyB rings i = true := by decide +kernel
  have hs : ∀ ua ub : Bool, soundB rings [named 8 ua [.i32], peeked 9 ub [.i32]] = true ∧ src rings (first rings) 8 ua = 1024 ∧
    (src rings (first rings) 9 ub).toNat = 3 := by decide +kernel
  intro i hi
  have hr := readyB_sound (h i hi)
  simp only [tileWordSamples, List.mem_cons, List.not_mem_nil, or_false] at hi
  rcases hi with rfl | rfl | rfl
  · exact ⟨_, _, _, rfl, hr.1, hr.2, soundB_sound (hs _ _).1, (hs false true).2⟩
  · exact ⟨_, _, _, rfl, hr.1, hr.2, soundB_sound (hs _ _).1, (hs true false).2⟩
  · exact ⟨_, _, _, rfl, hr.1, hr.2, soundB_sound (hs _ _).1, (hs false false).2⟩

def ringSamples : List (State × Instr × List Src) :=
  [(rings, Instr.rngi 10 11, [named 10 false [], named 11 false []]), (rings, .rngi 14 11, [named 14 false [], named 11 false []]),
   (rings, .rngw 14 12, [named 14 false [], named 12 false []]), (rings, .rngs 14 12, [named 14 false [], named 12 false []]),
   (rings, .rngs 14 13, [named 14 false [], named 13 false []])]

theorem witness_rings :
    (∀ x ∈ ringSamples, Ready x.1 x.2.1 ∧ Closed x.1 ∧ Sound x.1 x.2.2) ∧
    ringNo rings 10 = 15 ∧ ringNo rings 14 = 3 ∧ ringNo rings 11 < 2 ^ 18 ∧
    ((ringAsked (ringNo rings 11)).tb + (ringAsked (ringNo rings 11)).n * (ringAsked (ringNo rings 11)).t) * 1024 ≤ rings.g.lr.scratch ∧
    State.ring? rings 15 = none ∧ State.ring? rings 3 = some (ringAsked (ringNo rings 11)) ∧
    (∀ r ∈ [(12 : RegNo), 13], bits (ringNo rings r) 0 5 < 2 ∧ ringNo rings r < 64 ∧
      State.phaseBit rings { tb := 2, n := 2, t := 1 } (bits (ringNo rings r) 0 5) = (ringNo rings r).testBit 5) ∧
    rings.g.lcnt = 0 ∧ rings.g.scnt = 0 :=
  ⟨fun x hx => meets_sound ((by decide +kernel : ∀ x ∈ ringSamples, meets x = true) x hx), by decide +kernel, by decide +kernel, by decide +kernel, by decide +kernel,
    by decide +kernel, by decide +kernel, by decide +kernel, by decide +kernel, by decide +kernel⟩

/-- v10 the block phaser 2, v12 the block phaser 63, v14 a descriptor in page 4, v16 the mode 3. The group holds one record, of the
block phaser 2, with a mode. -/
def phased (m : BitVec 2) (p : Phaser) (r : Bool) : State :=
  let s := withRegs { base with cur := { base.cur with mask := 0x80000001 } } [(10, 2, .addr), (11, 0x01FFFFFF, .addr), (12, 63, .addr),
    (13, 0x01FFFFFF, .addr), (14, 0x40000, .addr), (16, 3, .i32)]
  { s with
    mem := Memory.writeN s.mem 0x400010 [2], blocks := [{ someBlock with phasers := [(2, p)] }],
    g := { s.g with phregs := if r then [{ handle := 0x01FFFFFF00000002, mode := m, pending := 0, sp := p.ph, wp := p.ph }] else [] } }

/-- Phase 7 with one signaller, who has not signalled; and with none. -/
def one7 : Phaser := { ph := 7, nsig := 1, arr := 0, nnext := 1, npart := 1 }
def none7 : Phaser := { ph := 7, nsig := 0, arr := 0, nnext := 0, npart := 1 }

theorem witness_handles : HandleLegal (phased 3 one7 true) 0x01FFFFFF00000002 [] ∧ HandleLegal (phased 3 one7 false) 0x01FFFFFF0000003F [] ∧
    ∃ ps, HandleLegal (phased 3 one7 true) 0x40000 ps := by
  refine ⟨by rw [HandleLegal, if_pos (by decide)]; decide, by rw [HandleLegal, if_pos (by decide)]; decide, ?_⟩
  obtain ⟨ps, h1, h2⟩ := classedB_sound (s := phased 3 one7 true) (need := .atomic)
    (accs := [{ lane := first (phased 3 one7 true), addr := 0x40000, len := 64 }]) (page := fun l => !Leaf.s l) (by decide +kernel)
  exact ⟨ps, by rw [HandleLegal, if_neg (by decide)]; exact ⟨by decide, h1, fun p hp => by simpa using h2 p hp, by decide +kernel⟩⟩

/-- WaitOver of the record that a state holds. -/
def overB (s : State) (h : DWord) : Bool :=
  match Group.record? s.g h with
  | some q => decide (1 ≤ ((State.phaser s s.g h).ph - q.wp).toNat) && decide (((State.phaser s s.g h).ph - q.wp).toNat ≤ 2147483648)
  | none => false

theorem overB_sound {s : State} {h : DWord} (x : overB s h = true) : ∃ q, Group.record? s.g h = some q ∧ WaitOver s h q := by
  unfold overB at x
  split at x
  · next q hq => exact ⟨q, hq, by simpa [WaitOver] using x⟩
  · cases x

abbrev bh : DWord := 0x01FFFFFF00000002

def phaserSources : List Src := srcPair 10 false [] .lowest

def phaserSamples : List (State × Instr × List Src) :=
  [(phased 3 one7 false, Instr.phreg 127 10 16, phaserSources ++ [peeked 16 false []]),
   (phased 3 one7 true, .phmode 20 10 16, phaserSources ++ [peeked 16 false []]), (phased 3 one7 true, .phdrop 20 10, phaserSources),
   (phased 2 one7 true, .phdrop 20 10, phaserSources), (phased 1 one7 true, .phsig 20 10, phaserSources),
   (phased 2 none7 true, .phwait 20 10, phaserSources), (phased 2 none7 true, .phnext 20 10, phaserSources),
   (phased 1 one7 true, .phnext 20 10, phaserSources), (phased 3 one7 true, .phnext 20 10, phaserSources)]

theorem witness_phasers :
    (∀ x ∈ phaserSamples,
      Ready x.1 x.2.1 ∧ Closed x.1 ∧ Sound x.1 x.2.2 ∧ State.src64 x.1 (first x.1) 10 false = bh ∧ reached x.1 bh [] = x.1) ∧
    (ModeAsked (phased 3 one7 true) 16 3 ∧ ModeAsked (phased 3 one7 false) 16 3) ∧
    (Group.record? (phased 3 one7 false).g bh = none ∧ State.needsEntry (phased 3 one7 false) bh = false ∧
      State.needsEntry (phased 3 one7 false) 0x01FFFFFF0000003F = true ∧ State.phaserEntries (phased 3 one7 false) 0 < 64) ∧
    (∀ m : BitVec 2, ∀ p ∈ [one7, none7], AccessesDone (phased m p true) ∧
      Group.record? (phased m p true).g bh = some { handle := bh, mode := m, pending := 0, sp := 7, wp := 7 } ∧
      (State.phaser (regionEnds (phased m p true)) (regionEnds (phased m p true)).g bh).ph = 7) ∧
    (∃ q, Group.record? (arrived (phased 2 none7 true) bh).g bh = some q ∧ WaitOver (arrived (phased 2 none7 true) bh) bh q) ∧
    ∃ q, Group.record? (arrived (signalled (regionEnds (phased 3 one7 true)) bh) bh).g bh = some q ∧
      WaitOver (arrived (signalled (regionEnds (phased 3 one7 true)) bh) bh) bh q := by
  refine ⟨fun x hx => ?_, by unfold ModeAsked; decide +kernel, by decide +kernel, by unfold AccessesDone; decide +kernel, overB_sound (by decide +kernel),
    overB_sound (by decide +kernel)⟩
  have h := (by decide +kernel : ∀ x ∈ phaserSamples,
      meets x = true ∧ State.src64 x.1 (first x.1) 10 false = bh) x hx
  exact ⟨(meets_sound h.1).1, (meets_sound h.1).2.1, (meets_sound h.1).2.2, h.2, rfl⟩

/-! ## Spawns, traces, collectives -/

/-- v20 a TCB in page 8 with its queue number, v22 an operation of TRCTL; queue 3 takes the posts of context 1. v40 to v47 the
descriptor of a barrier of set 0, of which this package is the one member. -/
def spawning (queue : Nat) (op : Word) : State :=
  let s := withRegs { base with cur := { base.cur with mask := 0x80000001 } } [(20, 0x80000, .addr), (22, op, .i32), (40, 4, .i32), (42, 0, .addr), (44, 0, .addr)]
  { s with
    mem := Memory.writeN s.mem 0x80003C (leBytes 2 queue), queues := [(3, { Queue.zero with en := true, ctx := 1 })],
    ctxs := [(1, { context with sets := [(0, [me])], traces := [{ (default : Trace) with arena := 0x80000 }] })] }

/-- A group of the die parked on SPAWNW. -/
def parkedGroup : Group :=
  { someGroup with slot := 1, wait := some { instr := .spawnw 1 2 false, mask := 1, chainPc := 0, wordPc := 0, phase := 2, aux := 5, reason := .cntwait, sat := false, fresh := true, rest := [], goto := [], srcs := [], plain := [] } }

def noRoom : State := { spawning 3 0 with groups := [parkedGroup] }

/-- The pieces that an access is classified to. -/
def piecesOf (s : State) (need : Need) (accs : List Access) : List Piece :=
  match State.classify (lookedUp s accs) s.g.hall s.g.ctx need accs with
  | .ok ps => ps
  | _ => []

/-- What a spawn asks up to step 4. -/
theorem witness_spawn_ready : ∀ s ∈ [spawning 3 0, spawning 4 0, noRoom],
    SpawnReady s 20 false (piecesOf s .atomic (spawnAccess s 20 false)) ∧ Ready s (.spawn 30 20 false) ∧ Ready s (.spawnw 30 20 false) ∧
    Closed s := fun s hs => by
  have h := (by decide +kernel : ∀ s ∈ [spawning 3 0, spawning 4 0, noRoom], soundB s (srcPair 20 false [.addr] .lowest) = true ∧
    (spawnTcb s 20 false).toNat % 128 = 0 ∧ State.classify (lookedUp s (spawnAccess s 20 false)) s.g.hall s.g.ctx .atomic (spawnAccess s 20 false) =
      .ok (piecesOf s .atomic (spawnAccess s 20 false)) ∧ (s.g.lcnt = 0 ∧ s.g.scnt = 0 ∧ s.g.acnt = 0) ∧
    State.tcbClean (spawnState s 20 false (piecesOf s .atomic (spawnAccess s 20 false))) s.g.ctx (spawnTcb s 20 false) = true ∧
    readyB s (.spawn 30 20 false) = true ∧ readyB s (.spawnw 30 20 false) = true) s hs
  exact ⟨⟨soundB_sound h.1, h.2.1, h.2.2.1, h.2.2.2.1, h.2.2.2.2.1⟩, (readyB_sound h.2.2.2.2.2.1).1, (readyB_sound h.2.2.2.2.2.2).1,
    (readyB_sound h.2.2.2.2.2.1).2⟩

theorem witness_spawn_taken :
    (∀ s ∈ [spawning 3 0, noRoom], ∃ k, SpawnTaken s 20 false (piecesOf s .atomic (spawnAccess s 20 false)) k ∧ k.arena = 0) ∧
    spawnEntry (spawning 3 0) 20 false (piecesOf (spawning 3 0) .atomic (spawnAccess (spawning 3 0) 20 false)) = some (.store 0) ∧
    spawnEntry noRoom 20 false (piecesOf noRoom .atomic (spawnAccess noRoom 20 false)) = none ∧
    ¬ QueueTakes (spawnState (spawning 4 0) 20 false (piecesOf (spawning 4 0) .atomic (spawnAccess (spawning 4 0) 20 false))) 1
      (spawnQueue (spawning 4 0) 20 false (piecesOf (spawning 4 0) .atomic (spawnAccess (spawning 4 0) 20 false))) := by
  refine ⟨fun s hs => ⟨(base.tasks.head?).getD default, ?_⟩, by decide +kernel, by decide +kernel, by unfold QueueTakes; decide +kernel⟩
  simp only [List.mem_cons, List.not_mem_nil, or_false] at hs
  rcases hs with rfl | rfl <;> refine ⟨⟨?_, ?_, ?_, ?_⟩, ?_⟩ <;> first | (unfold QueueTakes; decide +kernel) | decide +kernel

def traceSamples : List (State × Instr × List Src) :=
  [(spawning 3 0, .prop 30 20, srcPair 20 false [.addr, .i32] .lowest),
   (spawning 3 0, .trctl 30 20 22, srcPair 20 false [.addr, .i32] .lowest ++ [peeked 22 false []]),
   (spawning 3 1, .trctl 30 20 22, srcPair 20 false [.addr, .i32] .lowest ++ [peeked 22 false []]),
   (spawning 3 2, .trctl 30 20 22, srcPair 20 false [.addr, .i32] .lowest ++ [peeked 22 false []]), (spawning 3 0, .tkey 124, [])]

theorem witness_traces :
    (∀ x ∈ traceSamples, Ready x.1 x.2.1 ∧ Closed x.1 ∧ Sound x.1 x.2.2) ∧ State.inTracedLaunch (spawning 3 0) 1 0 = false ∧
    arenaOf (spawning 3 0) 20 = 0x80000 ∧ EngineRoom (spawning 3 0) ∧ (State.trace? (spawning 3 0) 1 0x80000).isSome = true ∧
    (State.trace? (lookedUp (spawning 3 0) (arenaAccess (spawning 3 0) 20)) 1 0x80000).isSome = true ∧
    (∃ ps, Classified (spawning 3 0) .atomic (arenaAccess (spawning 3 0) 20) ps ∧ ∀ p ∈ ps, true = true) ∧
    (src (spawning 3 0) 0 22 false = 0 ∧ src (spawning 3 1) 0 22 false = 1 ∧ src (spawning 3 2) 0 22 false = 2) := by
  refine ⟨fun x hx => meets_sound ((by decide +kernel : ∀ x ∈ traceSamples, meets x = true) x hx), by decide +kernel, by decide +kernel, by unfold EngineRoom; decide +kernel,
    by decide +kernel, by decide +kernel, classedB_sound (page := fun _ => true) (by decide +kernel), by decide +kernel, by decide +kernel, by decide +kernel⟩

theorem witness_cstat : Ready (spawning 3 15) (.cstat 126 40 22 false true) ∧ Closed (spawning 3 15) ∧
    Sound (spawning 3 15) (cstatSrcs 40 22 false true) ∧ (src (spawning 3 15) (first (spawning 3 15)) 22 true).toNat ≤ 15 :=
  ⟨(readyB_sound (by decide +kernel)).1, (readyB_sound (i := .cstat 126 40 22 false true) (by decide +kernel)).2, soundB_sound (by decide +kernel), by decide +kernel⟩

theorem rank_me : rankOf [me] me = some 0 := by simp [rankOf]

/-- The barrier's descriptor. -/
def barrier : CollDesc := { set := 0, root := 0, pub := false, dt := 0, red := 0, op := 4, len := 0, src := 0, dst := 0, reserved := false }

theorem witness_coll : Ready (spawning 3 0) (.coll 126 20 40 false false) ∧ Closed (spawning 3 0) ∧ Sound (spawning 3 0) (collSrcs 20 40 false false) ∧
    collDescOf (words (spawning 3 0) 40 8 false) = barrier ∧ State.src64 (spawning 3 0) (first (spawning 3 0)) 20 false = 0x80000 ∧
    EngineRoom (spawning 3 0) ∧ State.collsHeld (spawning 3 0) 1 < 256 ∧ ∃ ps, CollAccepted (spawning 3 0) 0x80000 barrier [me] ps := by
  have hr : CollDesc.runs barrier [me] 0x80000 = ([], ({ scratch := false, addr := 0 }, 0), ({ scratch := false, addr := 0x80000 }, 68)) := by
    simp only [CollDesc.runs, rank_me]; decide +kernel
  have hb : CollDesc.bad barrier [me] 0x80000 = false := by
    simp only [CollDesc.bad, hr, rank_me]; decide +kernel
  have ha : collAccesses (spawning 3 0) 0x80000 barrier [me] = engineAccesses (first (spawning 3 0)) [] [({ scratch := false, addr := 0x80000 }, 68)] := by
    rw [collAccesses, hr]; rfl
  have hc : (match State.classifyAll (State.lookUp (spawning 3 0) 0 1 (engineAccesses (first (spawning 3 0)) [] [({ scratch := false, addr := 0x80000 }, 68)])) 0 1
      (engineAccesses (first (spawning 3 0)) [] [({ scratch := false, addr := 0x80000 }, 68)]) with | .ok _ => true | _ => false) = true := by decide +kernel
  refine ⟨(readyB_sound (by decide +kernel)).1, (readyB_sound (i := .coll 126 20 40 false false) (by decide +kernel)).2, soundB_sound (by decide +kernel), by decide +kernel,
    by decide +kernel, by unfold EngineRoom; decide +kernel, by decide +kernel, ?_⟩
  split at hc
  · next ps hp =>
    refine ⟨ps, rfl, by decide, hb, ?_, ?_⟩
    · rw [collLooked, ha]; exact hp
    · rw [if_neg (by decide), hr]
      intro p hp
      rw [if_pos rfl] at hp
      simp [destPieces] at hp
  · cases hc

/-! ## The steps of other agents: the conditions of their statements -/

/-- The machine after its start: the link trained, power state P0, queue 3 enabled for context 1, whose debug right is given. -/
def running : State :=
  { base with
    pkg := { base.pkg with bootDone := 4, chainComplete := true, paired := true,
                           attQueue := [{ i3c := true, nonce := List.replicate 32 0, ctx := 1, at_ := 0 }] },
    queues := [(3, { Queue.zero with en := true, ctx := 1, cfg := 0x0001000000010101, pre := true, quantum := 1 })],
    ctxs := [(1, { context with dbg := { context.dbg with right := true } })] }

def queueSamples : List Instr := [.qcfgWrite 4095 true 0, .qovfbaseWrite 0 true 256, .qovfszWrite 3 false 0, .qrbaseWrite 3 true 0x10]

theorem witness_queue_registers : ∀ i ∈ queueSamples, ∃ q t, queueRegister running i = some (q, t) ∧ q < 4096 := by
  have h := (by decide +kernel : ∀ i ∈ queueSamples, (match queueRegister running i with | some (q, _) => decide (q < 4096) | none => false) = true)
  intro i hi
  have := h i hi
  split at this
  · next q t ht => exact ⟨q, t, ht, by simpa using this⟩
  · cases this

theorem witness_post : LinkUp running ∧ (3 < 4096 ∧ bits (0xFFFFFFFFFFFFFF80 : DWord).toNat 57 7 ≠ 0) ∧
    (4095 < 4096 ∧ (0x80080 : DWord).toNat % 128 = 0 ∧ bits (0x80080 : DWord).toNat 57 7 = 0) ∧ (0x80001 : DWord).toNat % 128 ≠ 0 ∧
    ¬ LinkUp base ∧ ¬ OwnStep 0x100 0x10 ∧ OwnStep 0x1FFF 0x38 ∧ ¬ OwnStep 2 0 := by
  unfold OwnStep; decide +kernel

theorem witness_register_steps :
    registerStep 0 0 64 true 1 1 (.lockstepDivergeClear (BitVec.ofNat 32 (1 : DWord).toNat)) ∧ registerStep 1 0x20 64 false 1 1 (.attestationGo 1) ∧
    registerStep 0x1FF 0 64 true 1 1 (.debugRightWrite (0x1FF - 0x100) true 1) ∧ registerStep 0x100 8 64 false 1 1 (.haltGroup 0 1) ∧
    registerStep 0x100 0x300 64 false 1 1 (.smpcfgWrite 0 1) ∧ registerStep 0x100 0x380 64 false 1 1 (.rpctlWrite 0 1) ∧
    registerStep 0x1FFF 0 64 false 1 1 (.post 4095 64 1) ∧ registerStep 0x1000 0x20 64 true 1 1 (.qcfgWrite 0 true 1) ∧
    registerStep 0x1000 0x28 64 true 1 1 (.qovfbaseWrite 0 true 1) ∧ registerStep 0x1000 0x30 64 true 1 1 (.qovfszWrite 0 true 1) ∧
    registerStep 0x1000 0x38 64 true 1 1 (.qrbaseWrite 0 true 1) ∧
    commandStep 0 2 (.resumeGroup 0 2) ∧ commandStep 0 3 (.stepGroup 0 3) ∧ commandStep 0 4 (.haltContext 0 4) ∧ commandStep 0 5 (.resumeContext 0 5) ∧
    commandStep 0 6 (.traceGroupOn 0 6) ∧ commandStep 0 7 (.traceGroupOff 0 7) ∧ commandStep 0 8 (.selectGroup 0 8) ∧
    commandStep 0 9 (.traceAllOn 0 9) ∧ commandStep 0 10 (.traceAllOff 0 10) ∧ commandStep 0 11 (.dump 0 11) := by
  simp [registerStep, commandStep, bits]




theorem witness_start_board_power : (∀ i ∈ ([.packageReset, .bootLoadFirstStage true [], .bootLoadNewelFirmware false [], .bootLoadCollectiveMicrocode true [], .bootRelease [], .firmwareReload [], .lockstepBridgeTrained, .lockstepBridgeLost] : List Instr), ∃ t, startEvent running i = some t) ∧ (∀ i ∈ ([.readHealthSummary, .readPower, .readTemperature, .requestReport [] 0, .readReport, .setdasa 1, .unlistedI3cCommand 0xFF, .setPowerStateP0, .setPowerStateP1, .setPowerStateP2, .setPowerStateOff, .setPowerStateOtherByte 4] : List Instr), ∃ t, boardCommand running i = some t) ∧
    (∀ i ∈ ([.powerStateExitComplete, .enterP1, .thermalSet, .thermalClear, .thermalShutdown] : List Instr), ∃ t, powerEvent running i = some t) ∧ (base.pkg.power = .off ∨ base.pkg.attQueue = []) ∧ running.pkg.power ≠ .off ∧
    ∃ r rest, running.pkg.attQueue = r :: rest := by
  refine ⟨fun i hi => isSome_sound ?_, fun i hi => isSome_sound ?_, fun i hi => isSome_sound ?_, by decide +kernel, by decide +kernel, _, _, rfl⟩
  · simp only [List.mem_cons, List.not_mem_nil, or_false] at hi
    rcases hi with rfl | rfl | rfl | rfl | rfl | rfl | rfl | rfl <;> rfl
  · simp only [List.mem_cons, List.not_mem_nil, or_false] at hi
    rcases hi with rfl | rfl | rfl | rfl | rfl | rfl | rfl | rfl | rfl | rfl | rfl | rfl <;> rfl
  · simp only [List.mem_cons, List.not_mem_nil, or_false] at hi
    rcases hi with rfl | rfl | rfl | rfl | rfl <;> rfl



theorem witness_contexts : (∀ i ∈ ([.contextCreate 255 { root := 0x10000, checking := true, bounded := true, lockMask := 0, pubTable := 0 }, .contextKill 1, .contextDestroy 1, .setTrapBase 1 16, .setWayQuota 1 16 0 0 0, .setGranuleTags 1 0x10000 1 15, .defineCollectiveSet 1 15 [0]] : List Instr), ∃ t, contextEvent running i = some t) ∧ (∀ i ∈ ([.tlbWalkComplete 383 1 0x10000, .packetFetchFill 0 1 0x20000, .tagVerdict 0, .sliceRehomingDone 9216] : List Instr), ∃ t, fillEvent running i = some t) := by
  refine ⟨fun i hi => ?_, fun i hi => ?_⟩
  · simp only [List.mem_cons, List.not_mem_nil, or_false] at hi
    rcases hi with rfl | rfl | rfl | rfl | rfl | rfl | rfl <;> exact ⟨_, rfl⟩
  · simp only [List.mem_cons, List.not_mem_nil, or_false] at hi
    rcases hi with rfl | rfl | rfl | rfl <;> exact ⟨_, rfl⟩

theorem witness_page_events (s : State) (l : DWord) (q : Nat) :
    (∃ t, pageEvent s l q (.shootdownRequest 1 0x10000 0) = some t) ∧ (∃ t, pageEvent s l q (.pageResident 1 0x50000 0x500007) = some t) ∧
    (∃ t, pageEvent s l q (.migrationStart 1 0x10000) = some t) ∧ pageNamed (.shootdownRequest 1 0x10000 0) = some (1, 0x10000) ∧
    pageNamed (.pageResident 1 0x50000 0x500007) = some (1, 0x50000) ∧ pageNamed (.migrationStart 1 0x10000) = some (1, 0x10000) ∧
    pageNamed (.migrationComplete 1 0xC0000 0) = some (1, 0xC0000) :=
  ⟨⟨_, rfl⟩, ⟨_, rfl⟩, ⟨_, rfl⟩, rfl, rfl, rfl, rfl⟩

/-- Page 1 is resident, page 5 is not, page 6 is being moved, page 12 is absent. -/
theorem witness_pages : (∃ l q, State.walk running 1 0x10000 = .leaf l q ∧ Leaf.v l = true) ∧ (∃ l q, State.walk running 1 0x50000 = .leaf l q ∧ (!Leaf.v l) = true) ∧
    State.walk running 1 0xC0000 = .absent ∧ (∃ l q, State.walk running 1 0x60000 = .leaf l q ∧ (Leaf.g l && Leaf.offBits l == 16) = true) ∧
    State.lockMask running 1 = 0 := by
  exact ⟨leafB_sound (by decide +kernel), leafB_sound (p := fun l => !Leaf.v l) (by decide +kernel), by decide +kernel,
    leafB_sound (p := fun l => Leaf.g l && Leaf.offBits l == 16) (by decide +kernel), by decide +kernel⟩

/-- A page that is being moved may go to the last frame of its size; one that is not may not. -/
theorem witness_may_move (l : DWord) (hg : Leaf.g l = true) (ho : Leaf.offBits l = 16) (hm : State.lockMask running 1 = 0) :
    MayMove running 1 l 0xFFFFFFFFFF0000 ∧ ¬ MayMove running 1 0 0x600000 :=
  ⟨⟨hg, by rw [ho]; decide, by decide, Or.inl hm⟩, fun h => absurd h.1 (by decide)⟩

theorem witness_commands :
    (∀ n ∈ [(1 : Nat), 2, 3, 4, 5, 6, 7, 8, 9, 10, 11], Command running 1 (BitVec.ofNat 64 n) n true ∧ ¬ Command running 1 (BitVec.ofNat 64 (n + 16)) n true) ∧
    (∃ g, State.groupAt? running 0 0 = some g ∧ g.ctx = 1) ∧ (∀ x, State.groupAt? running 1 0 = some x → x.ctx ≠ 1) ∧
    (∀ i ∈ ([.haltGroup 1 1, .resumeGroup 1 2, .stepGroup 1 3, .traceGroupOn 1 6, .traceGroupOff 1 7, .selectGroup 1 8] : List Instr), ∃ v op r t, groupCommand running running.g i = some (1, v, op, r, t) ∧ v.toNat = op) ∧
    (∀ i ∈ ([.haltContext 1 4, .resumeContext 1 5, .traceAllOn 1 9, .traceAllOff 1 10, .dump 1 11] : List Instr), ∃ v op r t, contextCommand running i = some (1, v, op, r, t) ∧ v.toNat = op) ∧
    State.ctx? running 2 = none := by
  have hc : ∃ x, State.ctx? running 1 = some x ∧ (true = true → x.dbg.right = true) :=
    ⟨(State.ctx? running 1).getD context, by decide +kernel, fun _ => by decide +kernel⟩
  refine ⟨fun n hn => ?_, ⟨(State.groupAt? running 0 0).getD someGroup, by decide +kernel, by decide +kernel⟩,
    fun x hx => absurd hx (by decide +kernel +revert), fun i hi => ?_, fun i hi => ?_, by decide +kernel⟩
  · have h := (by decide +kernel : ∀ n ∈ [(1 : Nat), 2, 3, 4, 5, 6, 7, 8, 9, 10, 11], (LinkUp running ∧ bits (BitVec.ofNat 64 n : DWord).toNat 0 4 = n ∧
      bits (BitVec.ofNat 64 n : DWord).toNat 4 10 = 0 ∧ bits (BitVec.ofNat 64 n : DWord).toNat 32 32 = 0 ∧ bits (BitVec.ofNat 64 n : DWord).toNat 23 9 < 384) ∧
      bits (BitVec.ofNat 64 (n + 16) : DWord).toNat 4 10 ≠ 0) n hn
    exact ⟨⟨h.1.1, h.1.2.1, h.1.2.2.1, h.1.2.2.2.1, h.1.2.2.2.2, hc⟩, fun hm => h.2 hm.2.2.1⟩
  · simp only [List.mem_cons, List.not_mem_nil, or_false] at hi
    rcases hi with rfl | rfl | rfl | rfl | rfl | rfl <;> exact ⟨_, _, _, _, rfl, rfl⟩
  · simp only [List.mem_cons, List.not_mem_nil, or_false] at hi
    rcases hi with rfl | rfl | rfl | rfl | rfl <;> exact ⟨_, _, _, _, rfl, rfl⟩

/-! ## Errors, completions, engines -/

/-- The state after words, one after another. -/
def after (is : List Instr) (s : State) : State :=
  is.foldl (fun s i => match exec i s with | .next t => t | _ => s) s

/-- The context is in lockstep. -/
def locked : State := { running with ctxs := [(1, { context with lockMask := 1 })] }

theorem witness_reliability : (∀ i ∈ ([.errorCorrected 9295 3, .scoreDecay, .unitTestComplete 0 true, .uncorrectableError (.granule 0), .uncorrectableError (.scratch 1 0 0 0), .uncorrectableError (.reg 0 0 31 127), .uncorrectableError (.tile 0 0 15 31 7), .lockstepDecisionApply (.move 1 0x10000), .lockstepDivergeClear 4] : List Instr), ∃ t, reliabilityEvent running i = some t) ∧
    (∃ x, State.ctx? locked 1 = some x ∧ (x.lockMask != 0 && !x.lockHalted) = true) ∧ locked.pkg.paired = true ∧
    (crc64 locked.pkg.traffic = crc64 [] ∧ crc64 locked.pkg.traffic ≠ crc64 [] + 1) ∧
    ∀ x, State.ctx? running 1 = some x → (x.lockMask == 0) = true := by
  refine ⟨fun i hi => ?_, some_with (p := fun (x : Ctx) => x.lockMask != 0 && !x.lockHalted) (by decide +kernel), by decide +kernel, by decide +kernel,
    all_with (p := fun (x : Ctx) => x.lockMask == 0) (by decide +kernel)⟩
  simp only [List.mem_cons, List.not_mem_nil, or_false] at hi
  rcases hi with rfl | rfl | rfl | rfl | rfl | rfl | rfl | rfl | rfl <;> exact ⟨_, rfl⟩

/-- MayGo of the operation at a place, taking all its parts. -/
def goB (s : State) (n : Nat) : Bool :=
  match State.groupAt? s 0 0 with
  | some g => match g.outst[n]? with
    | some o => o.sent.isNone && !(State.nextUnits s g n 0).isEmpty
    | none => false
  | none => false

theorem goB_sound {s : State} {n : Nat} (h : goB s n = true) : ∃ g o ks, MayGo s 0 0 n 0 g o ks := by
  unfold goB at h
  split at h
  · next g hg =>
    split at h
    · next o ho =>
      simp only [Bool.and_eq_true, Option.isNone_iff_eq_none, Bool.not_eq_true', List.isEmpty_eq_false_iff] at h
      exact ⟨g, o, _, hg, ho, h.1, rfl, Or.inl h.2⟩
    · cases h
  · cases h

/-- A load, a load of a codebook, an atomic, a TKT and a DEPADD of `memory`; a store once the region has ended; MMLD and MMST. -/
def pendingStates : List State :=
  [after [.ldo 4 124 2 6 0 false] memory, after [.ldl 4 124 18 1] memory, after [.ldcb 7 20 0] memory, after [.acas true 124 20 6 0] memory,
   after [.tkt 126 20 30 true false] memory, after [.depadd 127 20 30 false true] memory, after [.st 2 127 2 0, .idem] memory,
   after [.stl 0 127 18 0x7F, .idem] memory, after [.mmld 0 30] tiles, after [.mmst 15 30] tiles]

theorem witness_completions : ∀ s ∈ pendingStates, ∃ g o ks, MayGo s 0 0 0 0 g o ks := fun s hs =>
  goB_sound ((by decide +kernel : ∀ s ∈ pendingStates, goB s 0 = true) s hs)

theorem witness_nothing_outstanding : ¬ ∃ g o ks, MayGo memory 0 0 0 0 g o ks := by
  rintro ⟨g, o, ks, hg, ho, -⟩
  have h : ∀ x, State.groupAt? memory 0 0 = some x → x.outst = [] := by
    have hs : ((State.groupAt? memory 0 0).map (fun x => x.outst)) = some [] := by decide +kernel
    intro x hx
    rw [hx] at hs
    simpa using hs
  rw [h g hg] at ho
  cases ho

/-- A lane with an open region that waits in RCMT. -/
def committed : State :=
  let g := Group.openRegion someGroup 0 0 0 0
  let w : WaitRec := { instr := .rcmt, mask := 1, chainPc := 0, wordPc := 0, phase := 1, aux := 0, reason := .region, sat := false, fresh := false, rest := [], goto := [], srcs := [], plain := [] }
  { base with g := { g with wait := some w } }

theorem witness_commit : ∃ g w, CommitDue committed 0 0 g w := by
  refine ⟨(State.groupAt? committed 0 0).getD someGroup, ((State.groupAt? committed 0 0).getD someGroup).wait.getD (default : WaitRec), by decide +kernel, by decide +kernel,
    by decide +kernel, by decide +kernel, by decide +kernel, by decide +kernel, Or.inl (by decide +kernel), by decide +kernel⟩

/-- Operations of the matrix arrays whose cycle has come. -/
def multiplied : State := { after [.mmqBf16 15 8 16 false] (matrix .bf16x2 .bf16x2) with clk := 100 }

theorem witness_mmq_retire : ∃ g n q, State.groupAt? multiplied 0 0 = some g ∧ Group.retiring? g multiplied.clk = some n ∧ g.mma[n]? = some q := by
  refine ⟨(State.groupAt? multiplied 0 0).getD someGroup, 0, ((State.groupAt? multiplied 0 0).getD someGroup).mma.headD default, by decide +kernel, by decide +kernel,
    by decide +kernel⟩

/-- Commands that the engine works on. -/
def copying : State := after [.cpy 2 4 20 false false] engine
def gathering : State := after [.cpyg 2 4 32 false false] engine

/-- Runs. -/
def runsB (s : State) : Bool :=
  match (State.hall s 0).cmds[0]? with
  | some c => c.started && !State.enginesStopped s c.ctx &&
      (CmdKind.sources c.kind ++ [CmdKind.dest c.kind]).all (fun x => !State.runMigrating s c.ctx x) && !State.runLocked s c.ctx (CmdKind.dest c.kind) &&
      (State.groupAt? s 0 c.slot).isSome
  | none => false

theorem runsB_sound {s : State} (h : runsB s = true) : ∃ g x, Runs s 0 0 g x := by
  unfold runsB at h
  split at h
  · next c hc =>
    simp only [Bool.and_eq_true, Bool.not_eq_true', List.all_eq_true] at h
    obtain ⟨⟨⟨⟨h1, h2⟩, h3⟩, h4⟩, h5⟩ := h
    obtain ⟨g, hg⟩ := isSome_sound h5
    exact ⟨g, c, hc, h1, h2, h3, h4, hg⟩
  · cases h

theorem witness_engine : (∃ g x, Runs copying 0 0 g x) ∧ (∃ g x, Runs gathering 0 0 g x) ∧
    ((State.hall gathering 0).cmds.map (fun c => (c.kind, c.rows))) = [(.gather 0x10000 { scratch := false, addr := 0x10000 } { scratch := false, addr := 0x90000 } 1 65536, 0)] ∧
    ¬ ∃ g x, Runs engine 0 0 g x := by
  refine ⟨runsB_sound (by decide +kernel), runsB_sound (by decide +kernel), by decide +kernel, ?_⟩
  rintro ⟨g, x, h, -⟩
  exact absurd h (by rw [show (State.hall engine 0).cmds = [] from by decide +kernel]; simp)

/-- A PUB that waits, and stash commands. -/
def published : State := after [.pub 23 false] stash
def mapping : State := after [.smap 20 24 false false] stash

theorem witness_publish : (∃ x p q e, PubDue published 1 0 x p q e) ∧ (∀ x p q e, ¬ PubDue stash 1 0 x p q e) ∧
    (∃ x q, State.ctx? published 1 = some x ∧ x.pubs.find? (fun p => p.entry == 0) = some q) ∧
    (∃ y, (stashWork mapping 0)[0]? = some y) ∧ (stashWork mapping 0)[1]? = none := by
  refine ⟨⟨(State.ctx? published 1).getD context, 0, (((State.ctx? published 1).getD context).pubs.headD default), (State.pubEntry published 1 0).getD default,
      by decide +kernel, by decide +kernel, by decide +kernel, by decide +kernel, by decide +kernel, by decide +kernel,
      (State.member? published 1 0 0 0).getD someGroup, by decide +kernel, by decide +kernel⟩, ?_,
    ⟨(State.ctx? published 1).getD context, (((State.ctx? published 1).getD context).pubs.headD default), by decide +kernel, by decide +kernel⟩,
    isSome_sound (by decide +kernel), by decide +kernel⟩
  rintro x p q e ⟨hx, hp, -⟩
  have h : ((State.ctx? stash 1).map (fun x => x.pubs)) = some [] := by decide +kernel
  rw [hx, Option.map_some, Option.some.injEq] at h
  rw [h] at hp
  cases hp

/-! ## Collectives, the newel firmware, traces -/

/-- A COLL and a CSTAT that wait, of a set whose one member is this package. -/
def collecting : State :=
  let o : Outst := { no := 0, op := .coll 30 0 [4, 0, 0, 0, 0, 0, 0, 0] .i32, mask := 1, parts := [], region := 0, lc := 0, sent := none }
  { spawning 3 0 with g := { (spawning 3 0).g with outst := [o, { o with no := 1, op := .cstat 0 0 30 .i32 }], ecnt := 1 } }

/-- A running collective of context 1 with one chunk. -/
def reducing : State :=
  { running with pkg := { running.pkg with tsid := 1, collectives := [{ (default : Collective) with ctx := 1, chunks := [default] }] } }

theorem witness_collective_events : (∀ i ∈ ([.linkDownDeclare 0 15, .linkTableUpdate { pkg := 0, port := 15, peer := 1, peerPort := 0, state := 2 }, .linkUp { pkg := 0, port := 15, peer := 1, peerPort := 0, state := 2 }, .treeSetRecompute []] : List Instr), ∃ t, linkEvent running i = some t) ∧
    (∃ g n o d num w tag members, CollWaits collecting 0 0 g n o d num w tag ∧ State.setOf collecting g.ctx (collDescOf w).set = some members) ∧
    (∃ g o, State.groupAt? collecting 0 0 = some g ∧ g.outst[1]? = some o ∧ o.op = .cstat 0 0 30 .i32) ∧
    ((1 : Nat) = reducing.pkg.tsid ∧ ∀ p ∈ reducing.pkg.partials, ¬ Same p 1 0 0 0 1 0) ∧ (2 : Nat) ≠ reducing.pkg.tsid ∧
    State.coll? reducing 1 0 1 = none ∧ ∃ x, State.coll? reducing 1 0 0 = some x ∧ ∃ y, x.chunks[0]? = some y := by
  have hg : ∃ g, State.groupAt? collecting 0 0 = some g ∧ g = collecting.g := ⟨collecting.g, rfl, rfl⟩
  obtain ⟨g, h, rfl⟩ := hg
  refine ⟨fun i hi => ?_, ⟨collecting.g, 0, _, 30, 0, [4, 0, 0, 0, 0, 0, 0, 0], .i32, [me], ⟨h, rfl, rfl, rfl⟩, rfl⟩, ⟨collecting.g, _, h, rfl, rfl⟩,
    ⟨by decide +kernel, fun p hp => by cases hp⟩, by decide +kernel, by decide +kernel,
    (State.coll? reducing 1 0 0).getD default, by decide +kernel, default, by decide +kernel⟩
  simp only [List.mem_cons, List.not_mem_nil, or_false] at hi
  rcases hi with rfl | rfl | rfl | rfl <;> exact ⟨_, rfl⟩

/-- The newel's objects, and a saved gang to be restored. -/
def placed : State :=
  { base with saved := [{ gang := { (base.gangs.headD default) with idx := 1 }, groups := [], blocks := [], cmds := [], ranges := [], go := true }] }

theorem witness_newel : (∃ t, State.task? placed 1 0 = some t) ∧ (∃ b, State.block? placed 1 0 0 = some b ∧ b.ctx = 1 ∧ b.seq = 0 ∧ b.blk = 0) ∧
    (∃ y, State.gang? placed 1 0 0 = some y ∧ y.ctx = 1 ∧ y.seq = 0 ∧ y.idx = 0) ∧
    ∃ i, placed.saved.find? (fun i => i.go && i.gang.ctx == 1 && i.gang.seq == 0 && i.gang.idx == 1) = some i :=
  ⟨isSome_sound (by decide +kernel), ⟨(State.block? placed 1 0 0).getD someBlock, by decide +kernel⟩,
    ⟨(State.gang? placed 1 0 0).getD default, by decide +kernel⟩, isSome_sound (by decide +kernel)⟩

/-- A traced task, and a PROP that waits for its answer. -/
def traced : State :=
  { base with
    ctxs := [(1, { context with traces := [{ (default : Trace) with arena := 0x10000, tasks := [{ (default : TraceTask) with seq := 0 }] }] })],
    tasks := base.tasks.map (fun t => { t with arena := 0x10000 }),
    g := { base.g with outst := [{ no := 0, op := .prop 30, mask := 1, parts := [], region := 0, lc := 0, sent := none }] } }

theorem witness_trace_events : (∃ g n o d, State.groupAt? traced 0 0 = some g ∧
      g.outst.findIdx? (fun o => match o.op with | .prop _ => true | _ => false) = some n ∧ g.outst[n]? = some o ∧ o.op = .prop d) ∧
    (∃ t, State.trace? traced 1 0x10000 = some t) ∧ (∃ y, State.tracedTask traced 1 0 = some y) ∧ ∃ k, State.task? traced 1 0 = some k := by
  have h : State.groupAt? traced 0 0 = some traced.g := rfl
  exact ⟨⟨traced.g, 0, _, 30, h, rfl, rfl, rfl⟩, isSome_sound (by decide +kernel), isSome_sound (by decide +kernel), isSome_sound (by decide +kernel)⟩

/-! ## Steps and words -/

/-- A machine that holds one instruction, at the place of its one group. -/
def placedWord : State := State.reset.withFetchWord 32 0

theorem witness_step :
    (∃ ws u i t, OnlyGroup placedWord 0 ∧ State.fetch (atChain placedWord 0) placedWord.g 0 = .packet ws u ∧ OneWord ws 0 0 i ∧ State.regWait u i = false ∧
      State.wordCheck (State.traceSync u) i = none ∧
      exec i { State.traceSync u with cur := { (State.traceSync u).cur with wordPc := 0, follow := false, status := .done } } = .next t ∧
      ∀ r, t.cur.status ≠ .stalled r) ∧
    (∃ l pte, Fetchable placedWord placedWord.g (State.packetAt placedWord placedWord.g 0) l pte) ∧
    ({ placedWord with events := [.scoreDecay] } : State).events = .scoreDecay :: [] := by
  have hf : ∃ ws u, State.fetch (atChain placedWord 0) placedWord.g 0 = .packet ws u ∧
      (ws = [0, 0, 0, 0] ∧ State.regWait u .nop = false ∧ State.wordCheck (State.traceSync u) .nop = none ∧
      ∃ t, exec .nop { State.traceSync u with cur := { (State.traceSync u).cur with wordPc := 0, follow := false, status := .done } } = .next t ∧ t.cur.status = .done) := by
    have h : (match State.fetch (atChain placedWord 0) placedWord.g 0 with
      | .packet ws u => decide (ws = [0, 0, 0, 0] ∧ State.regWait u .nop = false ∧ State.wordCheck (State.traceSync u) .nop = none) &&
          (match exec .nop { State.traceSync u with cur := { (State.traceSync u).cur with wordPc := 0, follow := false, status := .done } } with
            | .next t => decide (t.cur.status = .done)
            | _ => false)
      | _ => false) = true := by decide +kernel
    split at h
    · next ws u hu =>
      rw [Bool.and_eq_true] at h
      have h2 := h.2
      split at h2
      · next t ht => exact ⟨ws, u, hu, (of_decide_eq_true h.1).1, (of_decide_eq_true h.1).2.1, (of_decide_eq_true h.1).2.2, t, ht, of_decide_eq_true h2⟩
      · cases h2
    · cases h
  obtain ⟨ws, u, hu, rfl, h1, h2, t, ht, hs⟩ := hf
  refine ⟨⟨_, u, .nop, t, ?_, hu, ⟨by decide +kernel, by decide +kernel, by decide +kernel, by decide +kernel⟩, h1, h2, ht, by rw [hs]; intro r h; cases h⟩, ?_, rfl⟩
  · constructor <;> decide +kernel
  · obtain ⟨l, pte, h, hl⟩ := leafB_sound (w := State.translate placedWord 0 0 (vaOf (State.packetAt placedWord placedWord.g 0)))
      (p := fun l => decide (Leaf.x l = true ∧ Leaf.w l = false ∧ Leaf.s l = false ∧ Leaf.v l = true ∧ Leaf.g l = false ∧
        State.rehoming placedWord (State.physOf placedWord 0 l true (vaOf (State.packetAt placedWord placedWord.g 0))) 16 = false)) (by decide +kernel)
    have hl := of_decide_eq_true hl
    exact ⟨l, pte, by decide +kernel, by decide +kernel, h, hl.1, hl.2.1, fun hc => (by rw [hl.2.2.1] at hc; cases hc), hl.2.2.2.1, hl.2.2.2.2.1, hl.2.2.2.2.2⟩

/-- Encodings: the words of the statement come from its instructions. -/
theorem witness_encode : (∃ w, encode (.ffma true 127 10 12 14) = some w) ∧ ∃ w, encode (.mmqE2m1 15 119 120 true true) = some w :=
  ⟨isSome_sound (by decide +kernel), isSome_sound (by decide +kernel)⟩

/-- A pending register; a word past the allocation; a role; a write under way under the checking scoreboard. -/
def awaited : State := { base with g := { base.g with landings := [{ reg := 5, at_ := 9, cells := [], pend := true, region := 0 }] } }
def beyond : State := { base with g := { base.g with regn := 1, accN := 1 } }
def copyRole : State := { base with g := { base.g with role := .copy } }
def early : State :=
  { base with ctxs := [(1, { context with checking := true })], g := { base.g with landings := [{ reg := 5, at_ := 9, cells := [], pend := false, region := 0 }] } }

theorem witness_word_checks : (∀ s ∈ [awaited, beyond, copyRole, early], Begins s) ∧ NamesPending awaited (.iadd true 1 5 0) ∧
    (∀ x ∈ [(base, Instr.ld 4 123 2 0), (beyond, .iadd true 8 1 2), (copyRole, .fadd false 0 1 2 3), (early, .iadd true 1 5 0)], ¬ NamesPending x.1 x.2) ∧
    FailsFirst base (.ld 4 123 2 0) .illegal ∧ FailsFirst beyond (.iadd true 8 1 2) .regalloc ∧ FailsFirst copyRole (.fadd false 0 1 2 3) .role ∧
    FailsFirst early (.iadd true 1 5 0) .stall := by
  refine ⟨by unfold Begins; decide +kernel, by unfold NamesPending; decide +kernel, by unfold NamesPending; decide +kernel,
    .illegal (by decide +kernel), .regalloc (by decide +kernel) (by left; decide +kernel), .role (by decide +kernel) ?_ ⟨by decide +kernel, by decide +kernel⟩,
    .stall (by decide +kernel) ?_ ?_ ⟨by decide +kernel, by decide +kernel⟩⟩
  · rintro (h | ⟨k, h, -⟩)
    · exact absurd h (by decide +kernel)
    · cases h
  · rintro (h | ⟨k, h, -⟩)
    · exact absurd h (by decide +kernel)
    · cases h
  · exact fun h => absurd h.2 (by decide +kernel)

/-- A register with POISON, with a wrong tag, with a wrong residue. -/
def poisoned : State := withRegs memory [(30, 0, .poison)]
def wrongTag : State := withRegs plain [(5, 0, .f32)]
def flipped : State := { plain with g := lanesOf.foldl (fun g l => Group.setCell g l 5 { RegCell.of 1 .i32 with res := 0 }) plain.g }

def consumingSamples : List Instr := [.br 30 0 0, .brz 30 0 0, .st 2 30 20 0, .sto 2 30 20 6 0, .aadd 2 30 20 6 0, .axch 2 30 20 6 0]

theorem witness_sources :
    (∀ i ∈ consumingSamples, ∃ xs, consuming i = some xs ∧ Closed poisoned ∧ Ready poisoned i ∧ State.srcPoison poisoned xs = true) ∧
    (∃ w, laneWordOf wrongTag (.iadd true 1 5 6) = some w ∧ Closed wrongTag ∧ Ready wrongTag (.iadd true 1 5 6) ∧ State.srcFormat wrongTag w.srcs = true) ∧
    ∃ w, laneWordOf flipped (.iadd true 1 5 6) = some w ∧ Closed flipped ∧ Ready flipped (.iadd true 1 5 6) ∧ State.srcFormat flipped w.srcs = false ∧
      State.srcResidue flipped w.srcs = true := by
  refine ⟨fun i hi => ?_, ?_, ?_⟩
  · have h := (by decide +kernel : ∀ i ∈ consumingSamples, readyB poisoned i = true ∧ (match consuming i with | some xs => State.srcPoison poisoned xs | none => false) = true) i hi
    have h2 := h.2
    split at h2
    · next xs hx => exact ⟨xs, hx, (readyB_sound h.1).2, (readyB_sound h.1).1, h2⟩
    · cases h2
  · have h : readyB wrongTag (.iadd true 1 5 6) = true := by decide +kernel
    exact ⟨_, rfl, (readyB_sound h).2, (readyB_sound h).1, by decide +kernel⟩
  · have h : readyB flipped (.iadd true 1 5 6) = true := by decide +kernel
    exact ⟨_, rfl, (readyB_sound h).2, (readyB_sound h).1, by decide +kernel, by decide +kernel⟩

/-- An open region in both active lanes. -/
def withinRegion : State :=
  { memory with g := [0, 31].foldl (fun g l => Group.openRegion g l 0 0 0) memory.g }

def withinSamples : List Instr := [.rabt, .rcmt, .exit, .idem, .waitc 0 0, .aadd 2 30 20 6 0, .ldcb 7 20 0, .rbeg 0 5 1, .st 2 126 20 0, .sto 2 126 20 6 0, .tagrd 1 2]

theorem witness_inside : (∀ i ∈ withinSamples, ReadyInside withinRegion i) ∧ AllOpen (State.countPackets withinRegion) ∧
    (State.countPackets withinRegion).g.wait = none ∧ (∃ l, (State.countPackets withinRegion).cur.mask.getLsbD l = true ∧ l < 32 ∧
      (Group.lane (State.countPackets withinRegion).g l).region.isOpen = true) ∧
    (∀ i ∈ [Instr.exit, .idem, .waitc 0 0, .aadd 2 30 20 6 0, .ldcb 7 20 0], forbidden i = true) ∧ BeforeRegion (State.countPackets withinRegion) (.ldcb 7 20 0) ∧
    withinRegion.strike = none := by
  refine ⟨fun i hi => insideB_sound ((by decide +kernel : ∀ i ∈ withinSamples, insideB withinRegion i = true) i hi), by unfold AllOpen; decide +kernel, by decide +kernel,
    ⟨0, by decide +kernel⟩, by decide +kernel, ⟨by decide +kernel, by decide +kernel⟩, by decide +kernel⟩

theorem witness_region_stores :
    Sound (State.countPackets withinRegion) (addrSrcs 20 ++ dataSrcs 126 (sizeRegs 2) []) ∧
    Accepted (State.countPackets withinRegion) (laneAccesses (State.countPackets withinRegion) 20 0 (bytesOf 2)) (State.countPackets withinRegion).g.scnt ∧
    ∃ ps, Classified (State.countPackets withinRegion) .store (laneAccesses (State.countPackets withinRegion) 20 0 (bytesOf 2)) ps ∧ ∀ p ∈ ps, (!Leaf.s p.leaf) = true :=
  ⟨soundB_sound (by decide +kernel), by unfold Accepted; decide +kernel, classedB_sound (page := fun l => !Leaf.s l) (by decide +kernel)⟩

/-- One lane of quarter 3 is active. -/
def brokenQuarter : State := { tiles with cur := { tiles.cur with mask := 0x80000000 } }

theorem witness_quarters : (∀ i ∈ [Instr.mmz 15, .mmrd 0 120, .mmqBf16 3 8 16 false, .mmst 0 30], mqWordOf i = true ∧ Ready brokenQuarter i ∧ Closed brokenQuarter ∧
      Group.shadowFor brokenQuarter.g (mqTile i) = false) ∧ ∃ q < 4, Broken brokenQuarter q := by
  refine ⟨fun i hi => ?_, 3, by decide, by unfold Broken; decide +kernel⟩
  have h := (by decide +kernel : ∀ i ∈ [Instr.mmz 15, .mmrd 0 120, .mmqBf16 3 8 16 false, .mmst 0 30], mqWordOf i = true ∧ readyB brokenQuarter i = true ∧
    Group.shadowFor brokenQuarter.g (mqTile i) = false) i hi
  exact ⟨h.1, (readyB_sound h.2.1).1, (readyB_sound h.2.1).2, h.2.2⟩

/-- A context with a handler, a context without, trap mode; something outstanding. -/
def handled : State := { base with ctxs := [(1, { context with tbase := 0x20000 })] }

theorem witness_trap_entry : (∀ s ∈ [handled, base, { base with g := { base.g with trapMode := true } }, { handled with g := { handled.g with lcnt := 1 } }],
      s.g.wait = none ∧ s.cur.fresh = false) ∧ (handled.g.trapMode = false ∧ State.tbase handled ≠ 0 ∧ Closed handled ∧ Quiet handled.g) ∧
    (base.g.trapMode = false ∧ State.tbase base = 0) ∧ ¬ Quiet { handled.g with lcnt := 1 } :=
  ⟨by decide +kernel, ⟨by decide +kernel, by decide +kernel, (readyB_sound (s := handled) (i := .nop) (by decide +kernel)).2, by unfold Quiet; decide +kernel⟩, by decide +kernel,
    fun h => absurd h.1 (by decide +kernel)⟩

theorem witness_lanes : withinRegion.g.lanes.length = 32 ∧ (Group.lane withinRegion.g 31).region.isOpen = true ∧ (∀ c ∈ early.g.regs, c.length = 32) ∧
    (5 < early.g.regs.length) ∧ (Group.issueAddr withinRegion.g).isSome = true ∧
    Group.issueAddr { withinRegion.g with lanes := withinRegion.g.lanes.map (fun l => { l with mode := .exited }) } = none := by
  decide +kernel

theorem witness_performed_store :
    Memory.wf (pendingStates.getD 6 base).mem = true ∧ NoStash (pendingStates.getD 6 base) ∧
    (∀ x, State.ctx? (pendingStates.getD 6 base) (pendingStates.getD 6 base).g.ctx = some x → x.dbg.rpMode ≠ 1) ∧
    ∃ g o ks w, State.ready? (pendingStates.getD 6 base) 0 0 0 0 = some (g, o, ks) ∧ o.op = .store w ∧ (∀ p ∈ w.parts, Leaf.m p.leaf = false) ∧
      State.trafficOf (pendingStates.getD 6 base) g o ks = [] := by
  have h : (match State.ready? (pendingStates.getD 6 base) 0 0 0 0 with
    | some (g, o, ks) => (match o.op with | .store w => w.parts.all (fun p => !Leaf.m p.leaf) | _ => false) && (State.trafficOf (pendingStates.getD 6 base) g o ks).isEmpty
    | none => false) = true := by decide +kernel
  refine ⟨by decide +kernel, by unfold NoStash; decide +kernel, ?_, ?_⟩
  · have hx : ((State.ctx? (pendingStates.getD 6 base) (pendingStates.getD 6 base).g.ctx).map (fun x => x.dbg.rpMode)) = some 0 := by decide +kernel
    intro x hc
    rw [hc, Option.map_some, Option.some.injEq] at hx
    omega
  · split at h
    · next g o ks hr =>
      rw [Bool.and_eq_true] at h
      have h1 := h.1
      split at h1
      · next w hw => exact ⟨g, o, ks, w, hr, hw, fun p hp => by simpa using List.all_eq_true.1 h1 p hp, List.isEmpty_iff.1 h.2⟩
      · cases h1
    · cases h

/-- A group with a write that lands in cycle 9. -/
def landingGroup : Group := { someGroup with landings := [{ reg := 127, at_ := 9, cells := List.replicate 32 none, pend := false, region := 0 }] }

theorem witness_landings : (∀ c ∈ landingGroup.regs, c.length = 32) ∧ (∀ x ∈ landingGroup.landings, x.cells.length = 32) ∧ 127 < landingGroup.regs.length := by
  decide +kernel

theorem witness_keeps : Memory.wf placedWord.mem = true ∧ (match step placedWord with | .next _ => true | _ => false) = true := by
  decide +kernel

/-- A table of three offsets. -/
theorem test_table_search : lookupTable (fun k => 16 * k) 32 33 0 3 = some 2 ∧ lookupTable (fun k => 16 * k) 8 33 0 3 = none ∧
    lookupTable (fun k => 16 * k) 0 33 0 0 = none := by
  decide +kernel

/-! ## Words written out from the encoding tables (R95 to R103, R132): every instruction, with a value in every field -/

/-- NOP, IADD, ISUB, IMUL, IMULH_S, IMULH_Z, IMAD, IMIN, IMAX, IABS, AND, OR. -/
theorem test_decode_words_1 : ∀ x ∈ ([
    (0x00000000, ⟨false, .nop⟩),
    (0x8195FE21, ⟨true, .iadd true 87 124 33⟩),
    (0x021781A8, ⟨false, .isub false 94 3 40⟩),
    (0x8399452F, ⟨true, .imul true 101 10 47⟩),
    (0x033B08B6, ⟨false, .imulhS false 108 17 54⟩),
    (0x83DCCC3D, ⟨true, .imulhZ true 115 24 61⟩),
    (0x041E8FC4, ⟨false, .imad false 122 31 68⟩),
    (0x8589A5F0, ⟨true, .imin true false 38 75 112⟩),
    (0x056B6977, ⟨false, .imax false true 45 82 119⟩),
    (0x861A8780, ⟨true, .iabs 106 15⟩),
    (0x07059DE0, ⟨false, .and false 22 59 96⟩),
    (0x87A76167, ⟨true, .or true 29 66 103⟩)] : List (Nat × ChainWord)),
    decodeChainWord x.1 = .ok x.2 := by
  decide +kernel

/-- XOR, ANDN, SHL, SHR, SHA, POPC, CLZ, BREV, BFX, BFI, ICMP, SEL. -/
theorem test_decode_words_2 : ∀ x ∈ ([
    (0x074924EE, ⟨false, .xor false 36 73 110⟩),
    (0x87EAE875, ⟨true, .andn true 43 80 117⟩),
    (0x080CABFC, ⟨false, .shl false 50 87 124⟩),
    (0x88AE6F03, ⟨true, .shr true 57 94 3⟩),
    (0x0850328A, ⟨false, .sha false 64 101 10⟩),
    (0x8908A380, ⟨true, .popc 34 71⟩),
    (0x092A6700, ⟨false, .clz 41 78⟩),
    (0x894C2A80, ⟨true, .brev 48 85⟩),
    (0x0A20534B, ⟨false, .bfx false true 1 38 75⟩),
    (0x8B98C42D, ⟨true, .bfi true 99 8 45⟩),
    (0x0CBA87B4, ⟨false, .icmp 5 106 15 52⟩),
    (0x8D9C4B3B, ⟨true, .sel true 113 22 59⟩)] : List (Nat × ChainWord)),
    decodeChainWord x.1 = .ok x.2 := by
  decide +kernel

/-- A64, A64S, SHFL, VANY, VALL, VBAL, RADD, RMIN, RMAX, IDP4, IADDI, ANDI. -/
theorem test_decode_words_3 : ∀ x ∈ ([
    (0x0E1E0EC2, ⟨false, .a64 false 120 29 66⟩),
    (0x8FE924EE, ⟨true, .a64s true 3 36 73 110⟩),
    (0x104AE875, ⟨false, .shfl false 2 43 80 117⟩),
    (0x91835957, ⟨true, .vany true 13 50 87⟩),
    (0x11251CDE, ⟨false, .vall false 20 57 94⟩),
    (0x91C6E065, ⟨true, .vbal true 27 64 101⟩),
    (0x1208A3EC, ⟨false, .radd false 34 71 108⟩),
    (0x92211480, ⟨true, .rmin 4 41⟩),
    (0x1242D800, ⟨false, .rmax 11 48⟩),
    (0x939700A6, ⟨true, .idp4 true false 92 1 38⟩),
    (0x1432F963, ⟨false, .iaddi 25 62 355⟩),
    (0x9541156A, ⟨true, .andi 32 69 362⟩)] : List (Nat × ChainWord)),
    decodeChainWord x.1 = .ok x.2 := by
  decide +kernel

/-- ORI, XORI, SHLI, SHRI, SHAI, ICMPI, A64I, LI, LIH, CBSEL, FADD, FSUB. -/
theorem test_decode_words_4 : ∀ x ∈ ([
    (0x164F3171, ⟨false, .ori 39 76 369⟩),
    (0x975D4D78, ⟨true, .xori 46 83 376⟩),
    (0x186B681F, ⟨false, .shli 53 90 31⟩),
    (0x99798406, ⟨true, .shri 60 97 6⟩),
    (0x1A87A00D, ⟨false, .shai 67 104 13⟩),
    (0x9B95BE39, ⟨true, .icmpi 74 111 4 57⟩),
    (0x1CA3D99B, ⟨false, .a64i 81 118 411⟩),
    (0x9DB0017D, ⟨true, .li 88 381⟩),
    (0x1EBE0184, ⟨false, .lih 95 388⟩),
    (0x9F000006, ⟨true, .cbsel 6⟩),
    (0x204DEE01, ⟨false, .fadd false 2 55 92 1⟩),
    (0xA1AFB188, ⟨true, .fsub true 1 62 99 8⟩)] : List (Nat × ChainWord)),
    decodeChainWord x.1 = .ok x.2 := by
  decide +kernel

/-- FMUL, FFMA, FFMS, FMIN, FMAX, FNEG, FABS, FCPSGN, FCMP, FSQRT, FRCP, FRSQ. -/
theorem test_decode_words_5 : ∀ x ∈ ([
    (0x2211750F, ⟨false, .fmul false 0 69 106 15⟩),
    (0xA3F33896, ⟨true, .ffma true 3 76 113 22⟩),
    (0x2454FC1D, ⟨false, .ffms false 2 83 120 29⟩),
    (0xA58D6D7F, ⟨true, .fmin true 53 90 127⟩),
    (0x252F3086, ⟨false, .fmax false 60 97 6⟩),
    (0xA607A180, ⟨true, .fneg 30 67⟩),
    (0x26296500, ⟨false, .fabs 37 74⟩),
    (0xA7947B1B, ⟨true, .fcpsgn true 81 118 27⟩),
    (0x28763EA2, ⟨false, .fcmp 3 88 125 34⟩),
    (0xA957C200, ⟨true, .fsqrt 2 95 4⟩),
    (0x2A107300, ⟨false, .frcp 65 102⟩),
    (0xAA323680, ⟨true, .frsq 72 109⟩)] : List (Nat × ChainWord)),
    decodeChainWord x.1 = .ok x.2 := by
  decide +kernel

/-- FEXP2, FLOG2, FTANH, HADD2, HMUL2, HFMA2, HMAX2, CVTF, CVTI, CVTFI, PK2, PK4. -/
theorem test_decode_words_6 : ∀ x ∈ ([
    (0x2A53FA00, ⟨false, .fexp2 79 116⟩),
    (0xAA75BD80, ⟨true, .flog2 86 123⟩),
    (0x2B174100, ⟨false, .ftanh 93 2⟩),
    (0xACABA9F8, ⟨true, .hadd2 true 1 46 83 120⟩),
    (0x2D0D6D7F, ⟨false, .hmul2 false 0 53 90 127⟩),
    (0xAEEF3086, ⟨true, .hfma2 true 3 60 97 6⟩),
    (0x2F07A1E8, ⟨false, .hmax2 false 30 67 104⟩),
    (0xB009650F, ⟨true, .cvtf 0 37 74 15⟩),
    (0x316B2886, ⟨false, .cvti 3 44 81 6⟩),
    (0xB24CEC0D, ⟨true, .cvtfi 2 51 88 13⟩),
    (0x332EAF84, ⟨false, .pk2 1 58 95 4⟩),
    (0xB410730B, ⟨true, .pk4 0 65 102 11⟩)] : List (Nat × ChainWord)),
    decodeChainWord x.1 = .ok x.2 := by
  decide +kernel

/-- UNPK2, UNPK4, DQCB, DQE2, QCB, QE2, TAGRD, TAGSET, LD, ST, LDO, STO. -/
theorem test_decode_words_7 : ∀ x ∈ ([
    (0x3508E40D, ⟨false, .unpk2 35 72 13⟩),
    (0xB52AA784, ⟨true, .unpk4 42 79 4⟩),
    (0x3635BD80, ⟨false, .dqcb 1 86 123 0⟩),
    (0xB7174107, ⟨true, .dqe2 0 93 2 7⟩),
    (0x38790488, ⟨false, .qcb 3 100 9⟩),
    (0xB95AC807, ⟨true, .qe2 2 107 16⟩),
    (0x3A137900, ⟨false, .tagrd 77 114⟩),
    (0xBB153C8E, ⟨true, .tagset 84 121 14⟩),
    (0x406012CA, ⟨false, .ld 3 0 37 74⟩),
    (0xC141D651, ⟨true, .st 2 7 44 81⟩),
    (0x42239985, ⟨false, .ldo 1 14 51 0 1 true⟩),
    (0xC3055D70, ⟨true, .sto 0 21 58 7 0⟩)] : List (Nat × ChainWord)),
    decodeChainWord x.1 = .ok x.2 := by
  decide +kernel

/-- LDL, STL, LDCB, MODW, AADD, AMIN, AMAX, AAND, AOR, AXOR, AXCH, ACAS. -/
theorem test_decode_words_8 : ∀ x ∈ ([
    (0x44E720E6, ⟨false, .ldl 7 28 65 102⟩),
    (0xC5C8E46D, ⟨true, .stl 6 35 72 109⟩),
    (0x4601554F, ⟨false, .ldcb 5 42 79⟩),
    (0xC78C6B30, ⟨true, .modw 4 49 86 3 0⟩),
    (0x486E2EAC, ⟨false, .aadd 3 56 93 2 3⟩),
    (0xC94FF218, ⟨true, .amin 2 63 100 1 2 false⟩),
    (0x4931B587, ⟨false, .amax 1 70 107 0 1 true⟩),
    (0xCA137970, ⟨true, .aand 0 77 114 7 0⟩),
    (0x4BF53CEC, ⟨false, .aor 7 84 121 6 3⟩),
    (0xCCD6C058, ⟨true, .axor 6 91 0 5 2⟩),
    (0x4DB883C4, ⟨false, .axch 5 98 7 4 1⟩),
    (0xCE7A4730, ⟨true, .acas true 105 14 3 0⟩)] : List (Nat × ChainWord)),
    decodeChainWord x.1 = .ok x.2 := by
  decide +kernel

/-- ACAS_Q, AFADD, TKT, DEPADD, CPY, CPYT, CPYG, CPYW, PUB, DISC, PREF, SMAP. -/
theorem test_decode_words_9 : ∀ x ∈ ([
    (0x4E92F858, ⟨false, .acasQ 75 112 5 2⟩),
    (0xCF54BBC4, ⟨true, .afadd 82 119 4 1⟩),
    (0x50B3F91C, ⟨false, .tkt 89 126 35 true false⟩),
    (0xD1C01552, ⟨true, .depadd 96 5 42 false true⟩),
    (0x52CE318C, ⟨false, .cpy 103 12 49 true false⟩),
    (0xD3DC4DC2, ⟨true, .cpyt 110 19 56 false true⟩),
    (0x54EA69FC, ⟨false, .cpyg 117 26 63 true false⟩),
    (0xD5F88632, ⟨true, .cpyw 124 33 70 false true⟩),
    (0x56000C04, ⟨false, .pub 3 true⟩),
    (0xD700297C, ⟨true, .disc 10 47 true false⟩),
    (0x580045B2, ⟨false, .pref 17 54 false true⟩),
    (0xD90061EC, ⟨true, .smap 24 61 true false⟩)] : List (Nat × ChainWord)),
    decodeChainWord x.1 = .ok x.2 := by
  decide +kernel

/-- SFLUSH, SDROP, TILEV, TILEC, TILECLR, COLL, BR, BRZ, JMP, CALL, RBEG, JR. -/
theorem test_decode_words_10 : ∀ x ∈ ([
    (0x5A007E22, ⟨false, .sflush 31 68 false true⟩),
    (0xDB009800, ⟨true, .sdrop 38 false⟩),
    (0x5C00B692, ⟨false, .tilev 45 82 false true⟩),
    (0xDD00D2CC, ⟨true, .tilec 52 89 true false⟩),
    (0x5E00EF02, ⟨false, .tileclr 59 96 false true⟩),
    (0xDF859C62, ⟨true, .coll 66 103 12 false true⟩),
    (0x60920DBB, ⟨false, .br 73 878 3⟩),
    (0xE1A00DD6, ⟨true, .brz 80 885 2⟩),
    (0x62000D5C, ⟨false, .jmp 855 0⟩),
    (0xE3BC0E0C, ⟨true, .call 94 899 0⟩),
    (0x64CA0E2B, ⟨false, .rbeg 101 906 3⟩),
    (0xE501B000, ⟨true, .jr 108 false⟩)] : List (Nat × ChainWord)),
    decodeChainWord x.1 = .ok x.2 := by
  decide +kernel

/-- RET, EXIT, YIELD, IDEM, TRET, TABN, TKILL, RCMT, RABT, RDS, WRS, REGCLM. -/
theorem test_decode_words_11 : ∀ x ∈ ([
    (0x6501CC05, ⟨false, .ret 115 true⟩),
    (0xE6000000, ⟨true, .exit⟩),
    (0x66000001, ⟨false, .yield⟩),
    (0xE6000002, ⟨true, .idem⟩),
    (0x66000003, ⟨false, .tret⟩),
    (0xE6000004, ⟨true, .tabn⟩),
    (0x66000005, ⟨false, .tkill⟩),
    (0xE6000006, ⟨true, .rcmt⟩),
    (0x66000007, ⟨false, .rabt⟩),
    (0xE76403D7, ⟨true, .rds 50 983⟩),
    (0x6800E7DE, ⟨false, .wrs 57 990⟩),
    (0xE9000000, ⟨true, .regclm 0⟩)] : List (Nat × ChainWord)),
    decodeChainWord x.1 = .ok x.2 := by
  decide +kernel

/-- REGREL, SPAWN, SPAWNW, WAITC, PHREG, PHMODE, PHDROP, PHSIG, PHWAIT, PHNEXT, RNGI, RNGW. -/
theorem test_decode_words_12 : ∀ x ∈ ([
    (0x69000207, ⟨false, .regrel 7⟩),
    (0xEA9DCC04, ⟨true, .spawn 78 115 true⟩),
    (0x6AABE801, ⟨false, .spawnw 85 122 false⟩),
    (0xEB000001, ⟨true, .waitc 0 1⟩),
    (0x6CC62168, ⟨false, .phreg 99 8 45⟩),
    (0xECD43DA1, ⟨true, .phmode 106 15 52⟩),
    (0x6CE25802, ⟨false, .phdrop 113 22⟩),
    (0xECF07403, ⟨true, .phsig 120 29⟩),
    (0x6CFE9004, ⟨false, .phwait 127 36⟩),
    (0xEC0CAC05, ⟨true, .phnext 6 43⟩),
    (0x6D003590, ⟨false, .rngi 13 50⟩),
    (0xED0051C9, ⟨true, .rngw 20 57⟩)] : List (Nat × ChainWord)),
    decodeChainWord x.1 = .ok x.2 := by
  decide +kernel

/-- RNGS, RSTAT, CSTAT, TRAP, BRK, PROP, TRCTL, TKEY, MMQ_BF16, MMQ_F16, MMQ_E4M3, MMQ_E5M2. -/
theorem test_decode_words_13 : ∀ x ∈ ([
    (0x6D006E02, ⟨false, .rngs 27 64⟩),
    (0xEE440000, ⟨true, .rstat 34⟩),
    (0x6F533B9C, ⟨false, .cstat 41 78 115 true false⟩),
    (0xF0000030, ⟨true, .trap 48⟩),
    (0x71000037, ⟨false, .brk 55⟩),
    (0xF27D8C00, ⟨true, .prop 62 99⟩),
    (0x728BA879, ⟨false, .trctl 69 106 15⟩),
    (0xF2980002, ⟨true, .tkey 76⟩),
    (0x733F0760, ⟨false, .mmqBf16 3 120 29 true⟩),
    (0xF4AFE900, ⟨true, .mmqF16 10 127 36 false⟩),
    (0x7510CAE0, ⟨false, .mmqE4m3 1 6 43 true⟩),
    (0xF681AC80, ⟨true, .mmqE5m2 8 13 50 false⟩)] : List (Nat × ChainWord)),
    decodeChainWord x.1 = .ok x.2 := by
  decide +kernel

/-- MMQ_I8, MMQ_CB4, MMQ_CBBF, MMQ_E2M1, MMZ, MMRD, MMWR, MMST, MMLD. -/
theorem test_decode_words_14 : ∀ x ∈ ([
    (0x77F28E60, ⟨false, .mmqI8 15 20 57 true⟩),
    (0xF8637000, ⟨true, .mmqCb4 6 27 64 false⟩),
    (0x79D451E0, ⟨false, .mmqCbbf 13 34 71 true⟩),
    (0xFA453390, ⟨true, .mmqE2m1 4 41 78 false true⟩),
    (0x7BB00000, ⟨false, .mmz 11⟩),
    (0xFC26E000, ⟨true, .mmrd 2 55⟩),
    (0x7D97C000, ⟨false, .mmwr 9 62⟩),
    (0xFE08A000, ⟨true, .mmst 0 69⟩),
    (0x7F798000, ⟨false, .mmld 7 76⟩)] : List (Nat × ChainWord)),
    decodeChainWord x.1 = .ok x.2 := by
  decide +kernel

/-! ## WellFormed refuses an ill-formed term for each of its checks -/

/-- An odd register for a pair (R96), a run of 4 or 8 not at a multiple (R96, R230, R239, R306), size, scope and order codes (R97, R98),
branch slots (R99), target tags (R101), codebooks, state numbers (R152). -/
def illFormed : List Instr :=
  [.a64 false 1 2 4, .a64 false 2 3 4, .a64 false 2 4 5, .a64s false 0 3 4 5, .a64s false 0 4 5 6, .a64i 3 4 0, .a64i 4 3 0, .cvtf 0 1 2 1, .cvtf 0 1 2 7, .cvti 0 1 2 5, .cvtfi 0 1 2 2,
   .pk2 0 1 2 5, .pk2 0 1 3 3, .pk4 0 1 4 3, .pk4 0 1 6 5, .unpk2 2 1 3, .unpk2 3 1 1, .unpk4 4 1 3, .unpk4 6 1 1, .dqcb 0 6 1 3, .dqcb 0 4 1 1,
   .dqe2 0 4 1 3, .dqe2 0 6 2 3, .qcb 0 1 6, .qe2 0 3 4, .qe2 0 2 6, .tagset 1 2 13, .tagset 1 2 15, .ld 7 4 2 0, .ld 2 4 3 0, .ld 3 5 2 0, .ld 4 6 2 0,
   .st 5 4 2 0, .st 2 4 3 0, .ldo 2 4 2 7 0 false, .ldo 2 4 2 6 2 false, .ldo 2 4 2 6 3 false, .sto 2 4 2 6 1, .sto 2 4 2 6 3, .ldl 7 4 2 0, .ldl 4 6 1 0,
   .stl 5 4 2 0, .ldcb 8 2 0, .ldcb 7 3 0, .modw 4 4 2 6 0, .modw 2 4 2 6 1, .aadd 4 4 2 6 0, .aadd 3 5 2 6 0, .amin 1 4 2 6 0 false, .amax 2 4 3 6 0 true,
   .aand 0 4 2 6 0, .aor 2 4 2 7 0, .axor 2 4 1 6 0, .axch 3 3 2 6 0, .acas false 5 2 6 0, .acas true 6 2 6 0, .acasQ 4 2 6 0, .afadd 4 3 6 0, .tkt 1 3 2 false false,
   .depadd 1 3 2 false false, .cpy 3 2 4 false false, .cpy 2 3 4 false false, .cpyt 2 4 6 false false, .cpyg 2 4 6 false false, .cpyw 2 5 4 false false,
   .disc 3 2 false false, .pref 3 2 false false, .smap 3 2 false false, .sflush 3 2 false false, .sdrop 3 false, .coll 1 3 8 false false,
   .coll 1 2 4 false false, .br 1 0 3, .brz 1 0 3, .jmp 0 3, .call 1 0 3, .rbeg 1 0 3, .rds 1 0x007, .rds 1 0x005, .rds 2 0x041, .wrs 1 0x000, .wrs 1 0x022,
   .spawn 1 3 false, .spawnw 1 3 false, .phreg 1 3 2, .phmode 1 3 2, .phdrop 1 3, .phsig 1 3, .phwait 1 3, .phnext 1 3, .cstat 3 2 4 false false,
   .prop 1 3, .trctl 1 3 2, .tkey 6, .mmqBf16 0 4 8 false, .mmqF16 0 8 4 false, .mmqE4m3 0 4 8 false, .mmqE5m2 0 8 4 false, .mmqI8 0 4 8 false, .mmqCb4 0 8 4 false,
   .mmqCbbf 0 4 8 false, .mmqE2m1 0 8 12 false false, .mmrd 0 4, .mmwr 0 4]

theorem test_ill_formed : ∀ i ∈ illFormed, wellFormed i = false := by decide +kernel

/-- Operands of other agents' steps that name what does not exist. -/
theorem test_out_of_range : ∀ i ∈ ([.post 4096 64 0, .qcfgWrite 4096 true 0, .qovfbaseWrite 4096 true 0, .qovfszWrite 4096 true 0, .qrbaseWrite 4096 true 0, .registerWrite 536870912 64 true 0,
   .requestReport [] 0, .contextCreate 256 { root := 0, checking := false, bounded := false, lockMask := 0, pubTable := 0 },
   .contextCreate 0 { root := 64, checking := false, bounded := false, lockMask := 0, pubTable := 0 }, .setTrapBase 256 0, .setTrapBase 0 8, .setWayQuota 0 16 1 0 0,
   .defineCollectiveSet 0 16 [0], .defineCollectiveSet 0 0 [], .defineCollectiveSet 0 0 [1, 1], .setGranuleTags 256 0 1 0, .shootdownRequest 256 0 0, .shootdownComplete 256 0,
   .contextKill 256, .contextDestroy 256, .queueVisit 4096, .bindRecordWrite { ctx := 0, hall := 384, slot := 0, w0 := 0, w1 := 0, w2 := 0, w3 := 0 },
   .bindRecordWrite { ctx := 0, hall := 0, slot := 32, w0 := 0, w1 := 0, w2 := 0, w3 := 0 }, .queueDeadlockSample 4096, .pageResident 256 0 0, .migrationStart 256 0,
   .migrationComplete 256 0 0, .linkDownDeclare 0 16, .lockstepDecisionApply (.move 256 0), .debugRightWrite 256 true 0, .haltGroup 256 0, .coreDump 256, .smpcfgWrite 256 0,
   .rpctlWrite 256 0, .unlistedI3cCommand 0x10, .setPowerStateOtherByte 3] : List Instr),
    wellFormed i = false := by decide +kernel

/-- An ill-formed word traps ILLEGAL before any effect (R104). -/
theorem test_ill_formed_traps : State.wordCheck base (.ld 3 5 2 0) = some .illegal ∧
    (match exec (.ld 3 5 2 0) base with | .next t => t.cur.status == .trapped .illegal | _ => false) = true := by
  decide +kernel

/-! ## Single words: the value and the tag that lane 31 gets in its first result register -/

/-- Run a word on registers of one lane. -/
def result (i : Instr) (l : List (Nat × Word × Tag)) : Option (Word × Tag) :=
  match exec i (withRegs { plain with cur := { plain.cur with mask := 0x80000000 } } l) with
  | .next t => (t.g.landings.head?).bind (fun x => (x.cells.getD 31 none).map (fun c => (c.val, c.tag)))
  | _ => none

/-- A sum that wraps; the high part of −1 times −1; a shift by 33, whose amount is taken modulo 32; no leading one in 0; a field past
the register's end (R136 to R138). -/
theorem test_integer_words :
    result (.iadd false 3 1 2) [(1, 0xFFFFFFFF, .i32), (2, 2, .i32)] = some (1, .i32) ∧
    result (.isub false 3 1 2) [(1, 1, .i32), (2, 2, .i32)] = some (0xFFFFFFFF, .i32) ∧
    result (.imulhS false 3 1 2) [(1, 0xFFFFFFFF, .i32), (2, 0xFFFFFFFF, .i32)] = some (0, .i32) ∧
    result (.imulhZ false 3 1 2) [(1, 0xFFFFFFFF, .i32), (2, 0xFFFFFFFF, .i32)] = some (0xFFFFFFFE, .i32) ∧
    result (.clz 3 1) [(1, 0, .i32)] = some (32, .i32) ∧ result (.popc 3 1) [(1, 0xF0F00001, .i32)] = some (9, .i32) ∧
    result (.brev 3 1) [(1, 1, .i32)] = some (0x80000000, .i32) ∧ result (.iabs 3 1) [(1, 0xFFFFFFFE, .i32)] = some (2, .i32) := by
  decide +kernel

/-- 1 + 2, 3 × −2, √4, 1/4, 2³ in FP32 (R185 to R188). -/
theorem test_float_words :
    result (.fadd false 0 3 1 2) [(1, 0x3F800000, .f32), (2, 0x40000000, .f32)] = some (0x40400000, .f32) ∧
    result (.fmul false 0 3 1 2) [(1, 0x40400000, .f32), (2, 0xC0000000, .f32)] = some (0xC0C00000, .f32) ∧
    result (.fsqrt 0 3 1) [(1, 0x40800000, .f32)] = some (0x40000000, .f32) ∧ result (.frcp 3 1) [(1, 0x40800000, .f32)] = some (0x3E800000, .f32) ∧
    result (.fexp2 3 1) [(1, 0x40400000, .f32)] = some (0x41000000, .f32) := by
  decide +kernel

end Sys2Proof.Tests
end

/-! # Writes of the aperture's queue pages and plain registers (R8, R10, R11, R46 to R48)

One equation for each branch of the write of a queue page's register, of a post and of a register write; the statement of the
queue pages and plain registers follows from them. -/

namespace Sys2Proof.Machine

open Rules

/-! ## The link -/

/-- `State.linkUp` decides `LinkUp`. -/
theorem State.linkUp_iff (s : State) : State.linkUp s = true ↔ LinkUp s := by
  simp [State.linkUp, LinkUp]

theorem State.linkUp_eq_false_iff (s : State) : State.linkUp s = false ↔ ¬ LinkUp s := by
  rw [← State.linkUp_iff, Bool.not_eq_true]

/-! ## The registers of a queue page (R47) -/

/-- A write that only a supervisor makes, of a value that `bad` does not refuse, is taken; any other write of the queue's page
counts in POSTERR. -/
theorem State.queueWrite_eq (s : State) (q : Nat) (sup bad : Bool) (f : Queue → Queue) (good : Prop) [Decidable good]
    (h : (sup = true ∧ bad = false) ↔ good) :
    State.queueWrite s q sup bad f = .next (if LinkUp s ∧ q < 4096 then taken s q good f else s) := by
  have hgood : (sup && !bad) = true ↔ good := by simpa using h
  by_cases hl : LinkUp s ∧ q < 4096
  · have hq : ¬ (State.linkUp s = false ∨ q ≥ Config.queues) := by
      simp [State.linkUp_eq_false_iff, hl, Config.queues]
    simp only [State.queueWrite, if_neg hq, if_pos hl, taken, hgood, apply_ite Host.Outcome.next]
    rfl
  · have hq : State.linkUp s = false ∨ q ≥ Config.queues := by
      rw [State.linkUp_eq_false_iff, ge_iff_le, Config.queues, ← not_lt]
      tauto
    rw [State.queueWrite, if_pos hq, if_neg hl]

/-- Each of the four supervisor registers keeps a good value and counts a bad one. -/
theorem exec_of_queueRegister {s t : State} {i : Instr} {q : Nat} (h : queueRegister s i = some (q, t)) :
    exec i s = .next (if LinkUp s ∧ q < 4096 then t else s) := by
  unfold queueRegister at h
  split at h
  case h_1 q sup v =>
    cases h
    exact State.queueWrite_eq _ _ _ _ _ _ (by simp; tauto)
  case h_2 q sup v =>
    cases h
    exact State.queueWrite_eq _ _ _ _ _ _ (by simp [bits])
  case h_3 q sup v =>
    cases h
    exact State.queueWrite_eq _ _ _ _ _ _ (by simp)
  case h_4 q sup v =>
    cases h
    exact State.queueWrite_eq _ _ _ _ _ _ (by simp)
  case h_5 => cases h

/-! ## Posts (R11, R48) -/

theorem exec_post (q n : Nat) (v : DWord) (s : State) : exec (.post q n v) s = execPost q n v s := rfl

/-- A post while the link is down, to no queue, or of another width changes nothing. -/
theorem execPost_of_not_accepted {s : State} {q n : Nat} (v : DWord) (h : ¬ (LinkUp s ∧ q < 4096 ∧ n = 64)) :
    execPost q n v s = .next s := by
  rw [execPost, if_pos]
  rw [State.linkUp_eq_false_iff, ge_iff_le, Config.queues, ← not_lt]
  tauto

/-- A post of eight bytes to a queue goes on to the checks of its value. -/
theorem execPost_of_linkUp {s : State} {q : Nat} (v : DWord) (hl : LinkUp s) (hq : q < 4096) :
    execPost q 64 v s =
      if bits v.toNat 57 7 ≠ 0 ∨ v.toNat % 128 ≠ 0 then .next (postErr s q)
      else if s.pkg.power = .p0 ∧ s.pkg.exiting = false then .next (State.postTcb s q v)
      else .next (State.updPkg (waits s (.post q 64 v)) (fun p => { p with exiting := p.exiting || p.power == .p1 })) := by
  have hc : ¬ (State.linkUp s = false ∨ q ≥ Config.queues ∨ (64 : Nat) ≠ 64) := by
    simp [State.linkUp_eq_false_iff, hl, hq, Config.queues]
  have hb : bits v.toNat 0 7 = v.toNat % 128 := by simp [bits]
  rw [execPost, if_neg hc, hb]
  rfl

/-- The steps of a post to an awake package are those that R48 gives. -/
theorem State.postTcb_eq_posted (s : State) (q : Nat) (v : DWord) : State.postTcb s q v = posted s q v := rfl

/-! ## The write of a register (R8, R10) -/

/-- A register write of another width, at an offset that is not aligned, or while the link is down changes nothing. -/
theorem execRegisterWrite_of_not_accepted {s : State} {off n : Nat} (sup : Bool) (v : DWord)
    (h : ¬ (LinkUp s ∧ n ∈ [8, 16, 32, 64] ∧ 8 * off % n = 0)) : execRegisterWrite off n sup v s = .next s := by
  rw [execRegisterWrite, if_pos]
  simp [State.linkUp_eq_false_iff] at h ⊢
  tauto

/-- An aligned register write while the link is up is a post with the width written, or writes the word that the written part
leaves. -/
theorem execRegisterWrite_of_linkUp {s : State} {off n : Nat} (sup : Bool) (v : DWord) (hl : LinkUp s)
    (hn : n ∈ [8, 16, 32, 64]) (ha : 8 * off % n = 0) :
    execRegisterWrite off n sup v s =
      if 0x1000 ≤ off / 65536 ∧ off / 65536 < 0x2000 ∧ off / 8 * 8 % 65536 = 0 then execPost (off / 65536 - 0x1000) n v s
      else State.writeWord s (off / 65536) (off / 8 * 8 % 65536) sup (wordWritten s off n v) := by
  rw [execRegisterWrite, if_neg]
  · rfl
  · simp [State.linkUp_eq_false_iff] at hn ⊢
    tauto

/-- A mailbox register with no step of its own takes what is written (R363). -/
theorem State.writeMailboxWord_of_plain (s : State) (c : Nat) {o : Nat} (sup : Bool) (v : DWord)
    (h : o ∉ [0, 8, 0x300, 0x380]) :
    State.writeMailboxWord s c o sup v = .next (State.updDebug s c (fun d => writeMailbox d o v.toNat)) := by
  unfold State.writeMailboxWord
  split
  case h_5 => rfl
  all_goals simp at h

/-- Of a queue page's registers with no step of their own, only QRTAIL takes what is written (R46). -/
theorem State.writeQueueWord_of_plain (s : State) (q : Nat) {o : Nat} (sup : Bool) (v : DWord)
    (h : o ∉ [0, 0x20, 0x28, 0x30, 0x38]) :
    State.writeQueueWord s q o sup v =
      .next (if o = 0x48 then State.updQueue s q (fun x => { x with qrTail := BitVec.ofNat 32 v.toNat }) else s) := by
  unfold State.writeQueueWord
  split
  case h_5 => rfl
  case h_6 h48 => rw [if_neg h48]
  all_goals simp at h

/-- Pages 0x100 to 0x1FF are the debug mailboxes (R10). -/
theorem State.writeWord_of_mailbox (s : State) {page : Nat} (o : Nat) (sup : Bool) (w : Nat)
    (h : 0x100 ≤ page ∧ page < 0x200) :
    State.writeWord s page o sup w = State.writeMailboxWord s (page - 0x100) o sup (BitVec.ofNat 64 w) := by
  rw [State.writeWord, if_neg (by omega), if_neg (by omega), if_pos h]

/-- Pages 0x1000 to 0x1FFF are the queue pages (R10, R46). -/
theorem State.writeWord_of_queue (s : State) {page : Nat} (o : Nat) (sup : Bool) (w : Nat)
    (h : 0x1000 ≤ page ∧ page < 0x2000) :
    State.writeWord s page o sup w = State.writeQueueWord s (page - 0x1000) o sup (BitVec.ofNat 64 w) := by
  rw [State.writeWord, if_neg (by omega), if_neg (by omega), if_neg (by omega), if_pos h]

/-- A register with no step of its own keeps what is written. -/
theorem State.writeWord_of_not_ownStep (s : State) {page o : Nat} (sup : Bool) (w : Nat) (h : ¬ OwnStep page o) :
    State.writeWord s page o sup w = .next (registerTakes s page o sup w) := by
  simp only [OwnStep, not_or] at h
  obtain ⟨hhealth, hattest, hmailbox, hqueue⟩ := h
  unfold registerTakes
  by_cases h0 : page = 0
  · have ho : o ≠ 0 := fun ho => hhealth ⟨h0, ho⟩
    cases sup <;> simp [State.writeWord, h0, ho]
  by_cases h1 : page = 1
  · have ho : o ≠ 0x20 := fun ho => hattest ⟨h1, ho⟩
    simp [State.writeWord, h1, ho]
  by_cases hm : 0x100 ≤ page ∧ page < 0x200
  · rw [if_neg h0, if_neg h1, if_pos hm, State.writeWord_of_mailbox s o sup w hm,
      State.writeMailboxWord_of_plain s _ sup _ (fun ho => hmailbox ⟨hm.1, hm.2, ho⟩)]
  by_cases hq : 0x1000 ≤ page ∧ page < 0x2000
  · rw [if_neg h0, if_neg h1, if_neg hm, State.writeWord_of_queue s o sup w hq,
      State.writeQueueWord_of_plain s _ sup _ (fun ho => hqueue ⟨hq.1, hq.2, ho⟩)]
    simp [hq]
  · rw [State.writeWord, if_neg h0, if_neg h1, if_neg hm, if_neg hq, if_neg h0, if_neg h1, if_neg hm, if_neg (by tauto)]

/-- A write of DBGCMD is the step of its operation (R363). -/
theorem execDebugCommand_of_commandStep {s : State} {c : Nat} {w : DWord} {i : Instr} (h : commandStep c w i) :
    execDebugCommand c w s = exec i s := by
  unfold commandStep at h
  split at h
  case h_12 => exact h.elim
  all_goals
    obtain ⟨rfl, rfl, hop⟩ := h
    rw [execDebugCommand, hop]
    rfl

/-- A register write that is the register's own step is that step. -/
theorem execRegisterWrite_of_registerStep {s : State} {off n : Nat} {sup : Bool} {v : DWord} {i : Instr} (hl : LinkUp s)
    (hn : n ∈ [8, 16, 32, 64]) (ha : 8 * off % n = 0)
    (h : registerStep (off / 65536) (off / 8 * 8 % 65536) n sup v (BitVec.ofNat 64 (wordWritten s off n v)) i) :
    execRegisterWrite off n sup v s = exec i s := by
  rw [execRegisterWrite_of_linkUp sup v hl hn ha]
  generalize off / 65536 = page at *
  generalize off / 8 * 8 % 65536 = o at *
  generalize wordWritten s off n v = w at *
  obtain ⟨rfl, rfl, rfl, rfl⟩ | ⟨rfl, rfl, rfl⟩ | ⟨hlo, hhi, hreg⟩ | ⟨hlo, hhi, hreg⟩ := h
  · rw [BitVec.ofNat_toNat, BitVec.setWidth_ofNat_of_le (by decide)]
    rfl
  · rfl
  · rw [if_neg (by omega), State.writeWord_of_mailbox s o sup w ⟨hlo, hhi⟩]
    obtain ⟨rfl, rfl⟩ | ⟨rfl, hcmd⟩ | ⟨rfl, rfl⟩ | ⟨rfl, rfl⟩ := hreg
    · rfl
    · exact execDebugCommand_of_commandStep hcmd
    · rfl
    · rfl
  · rw [State.writeWord_of_queue s o sup w ⟨hlo, hhi⟩]
    obtain ⟨rfl, rfl⟩ | ⟨rfl, rfl⟩ | ⟨rfl, rfl⟩ | ⟨rfl, rfl⟩ | ⟨rfl, rfl⟩ := hreg
    · exact if_pos ⟨hlo, hhi, rfl⟩
    all_goals exact if_neg (by simp)

/-- Settles O33: the branches of the queue page's registers, of a post and of a register write, each by its own equation. The
word that a narrower write leaves (`wordWritten`) is the model's choice (log entry 42), as the statement has it. -/
theorem apertureWritesComplete : Obligations.ApertureWritesComplete := by
  intro s
  refine ⟨fun i q t h => exec_of_queueRegister h, ?_, ?_, ?_, ?_⟩
  · intro q v hl hq hbad
    rw [exec_post, execPost_of_linkUp v hl hq, if_pos hbad]
  · intro q v hl hq hhigh hlow
    have hgood : ¬ (bits v.toNat 57 7 ≠ 0 ∨ v.toNat % 128 ≠ 0) := by simp [hhigh, hlow]
    rw [exec_post, execPost_of_linkUp v hl hq, if_neg hgood, State.postTcb_eq_posted, ← apply_ite Host.Outcome.next]
  · intro q n v h
    exact execPost_of_not_accepted v h
  · intro off n sup v
    refine ⟨execRegisterWrite_of_not_accepted sup v, fun hl hn ha => ⟨fun hown => ?_, fun i h => ?_⟩⟩
    · have hpost : ¬ (0x1000 ≤ off / 65536 ∧ off / 65536 < 0x2000 ∧ off / 8 * 8 % 65536 = 0) :=
        fun ⟨hlo, hhi, ho⟩ => hown (.inr (.inr (.inr ⟨hlo, hhi, by simp [ho]⟩)))
      exact (execRegisterWrite_of_linkUp sup v hl hn ha).trans
        ((if_neg hpost).trans (State.writeWord_of_not_ownStep s sup _ hown))
    · exact execRegisterWrite_of_registerStep hl hn ha h

end Sys2Proof.Machine

/-! # The start, the board and the power states (R12 to R20, R22) -/

namespace Sys2Proof.Machine

open Rules

/-! ## Reset (R12 to R14, R46, R152, R334) -/

/-- No unit is listed at reset, so each one is in service with a score of 0. -/
theorem State.unit_reset (u : Nat) : State.unit State.reset u = UnitSt.zero := rfl

/-- Settles O46: each field of the reset state as the model gives it; P0 is the model's choice (log entry 5). -/
theorem resetStateAsStated : Obligations.ResetStateAsStated :=
  ⟨rfl, fun _ => rfl, rfl, rfl, rfl, rfl, rfl, rfl, rfl, fun u => congrArg UnitSt.score (State.unit_reset u), rfl, rfl⟩

/-! ## Branches of a step -/

/-- A step that the model turns away first is, where the statement's condition is the opposite of the model's, the step as stated. -/
theorem next_ite_of_iff_not {c d : Prop} [Decidable c] [Decidable d] {s t : State} (h : c ↔ ¬ d) :
    (if c then .next s else .next t : Out) = .next (if d then t else s) := by
  by_cases hd : d
  · rw [if_neg (fun hc => h.1 hc hd), if_pos hd]
  · rw [if_pos (h.2 hd), if_neg hd]

/-- A step whose condition the statement has in another form is the step as stated. -/
theorem next_ite_of_iff {c d : Prop} [Decidable c] [Decidable d] {s t : State} (h : c ↔ d) :
    (if c then .next s else .next t : Out) = .next (if d then s else t) := by
  rw [if_congr h rfl rfl, apply_ite Host.Outcome.next]

/-! ## The boot (R12, R13) -/

/-- A step of the boot comes in its turn, or changes nothing. -/
theorem State.bootLoad_eq_bootStep (s : State) (n : Nat) (loaded : Bool) (image : List Byte) :
    State.bootLoad s n loaded image = bootStep s n loaded image := by
  by_cases h : s.pkg.bootDone + 1 = n ∧ s.pkg.bootHalt = 0 ∧ s.pkg.power ≠ .off
  · rw [State.bootLoad, if_neg (by tauto), bootStep, if_pos h]
    rfl
  · rw [State.bootLoad, if_pos (by tauto), bootStep, if_neg h]

/-- Each step of the start has the effect stated. -/
theorem exec_of_startEvent {s t : State} {i : Instr} (h : startEvent s i = some t) : exec i s = .next t := by
  unfold startEvent at h
  split at h <;> cases h
  case h_1 => rfl
  case h_2 ok image => exact congrArg _ (State.bootLoad_eq_bootStep s 1 ok image)
  case h_3 ok image => exact congrArg _ (State.bootLoad_eq_bootStep s 2 ok image)
  case h_4 ok image => exact congrArg _ (State.bootLoad_eq_bootStep s 3 ok image)
  case h_5 links => exact next_ite_of_iff_not (by tauto)
  case h_6 image => exact next_ite_of_iff Iff.rfl
  case h_7 => rfl
  case h_8 => rfl

/-! ## The board's commands (R18, R19) -/

/-- A package in OFF answers no command of the board. -/
theorem State.asBoard_eq (s t : State) : State.asBoard s t = .next (if s.pkg.power = .off then s else t) :=
  next_ite_of_iff Iff.rfl

/-- `State.resident` decides `Resident`. -/
theorem State.resident_iff (s : State) : State.resident s = true ↔ Resident s := by
  simp [State.resident, Resident, or_assoc]

/-- A command that is answered in one of two ways is one command of the board. -/
theorem ite_asBoard (s t u : State) {c d : Prop} [Decidable c] [Decidable d] (h : c ↔ ¬ d) :
    (if c then State.asBoard s t else State.asBoard s u) =
      .next (if s.pkg.power = .off then s else if d then u else t) := by
  by_cases hd : d
  · rw [if_neg (fun hc => h.1 hc hd), if_pos hd, State.asBoard_eq]
  · rw [if_pos (h.2 hd), if_neg hd, State.asBoard_eq]

/-- A command that changes nothing or is answered is one command of the board. -/
theorem ite_next_asBoard (s t : State) {c d : Prop} [Decidable c] [Decidable d] (h : c ↔ d) :
    (if c then .next s else State.asBoard s t) = .next (if s.pkg.power = .off then s else if d then s else t) := by
  rw [if_congr h rfl rfl]
  split
  · rw [ite_self]
  · exact State.asBoard_eq s t

/-- Each command of the I3C target has its effect and its answer, and none in a package in OFF. -/
theorem exec_of_boardCommand {s t : State} {i : Instr} (h : boardCommand s i = some t) :
    exec i s = .next (if s.pkg.power = .off then s else t) := by
  unfold boardCommand at h
  split at h <;> cases h
  case h_1 => exact State.asBoard_eq s _
  case h_2 => exact State.asBoard_eq s _
  case h_3 => exact State.asBoard_eq s _
  case h_4 nonce ctx => exact ite_asBoard s _ _ Iff.rfl
  case h_5 => exact State.asBoard_eq s _
  case h_6 addr => exact State.asBoard_eq s _
  case h_7 code => exact ite_next_asBoard s _ List.contains_iff_mem
  case h_8 => exact State.asBoard_eq s _
  case h_9 =>
    rw [← if_congr (State.resident_iff s) rfl rfl]
    exact State.asBoard_eq s _
  case h_10 =>
    rw [← if_congr List.isEmpty_iff rfl rfl]
    exact State.asBoard_eq s _
  case h_11 =>
    rw [← if_congr List.isEmpty_iff rfl rfl]
    exact State.asBoard_eq s _
  case h_12 b => exact ite_next_asBoard s _ Iff.rfl

/-! ## Power and heat (R19, R20) -/

/-- Each change of power or heat that the package makes by itself has the effect stated. -/
theorem exec_of_powerEvent {s t : State} {i : Instr} (h : powerEvent s i = some t) : exec i s = .next t := by
  unfold powerEvent at h
  split at h <;> cases h
  case h_1 => exact next_ite_of_iff Iff.rfl
  case h_2 =>
    refine next_ite_of_iff_not ?_
    rw [State.resident_iff, ← Bool.not_eq_true]
    tauto
  case h_3 => exact next_ite_of_iff Iff.rfl
  case h_4 => rfl
  case h_5 => rfl

/-! ## Attestation (R14 to R17) -/

/-- A word for ATTCTL has a reserved bit set unless bits 63:32 and 7:1 are zero (R15). -/
theorem attctl_reserved_iff (v : DWord) :
    (bits v.toNat 32 32 != 0 || bits v.toNat 1 7 != 0) = true ↔ ¬ (v.toNat / 2 ^ 32 = 0 ∧ bits v.toNat 1 7 = 0) := by
  have hhigh : bits v.toNat 32 32 = v.toNat / 2 ^ 32 := Nat.mod_eq_of_lt (by omega)
  rw [hhigh, Bool.or_eq_true, bne_iff_ne, bne_iff_ne]
  tauto

/-- A write of ATTCTL while the link is up has its effect, and none while it is down (R15). -/
theorem execAttestationGo_eq (s : State) (v : DWord) :
    execAttestationGo v s = .next (if LinkUp s then attestWrite s v else s) := by
  by_cases hl : LinkUp s
  · have hup : ¬ State.linkUp s = false := fun hdown => (State.linkUp_eq_false_iff s).1 hdown hl
    rw [if_pos hl]
    simp only [execAttestationGo, if_neg hup, attctl_reserved_iff, ite_not]
    unfold attestWrite
    simp only [apply_ite Host.Outcome.next]
    rfl
  · rw [execAttestationGo, if_pos ((State.linkUp_eq_false_iff s).2 hl), if_neg hl]

/-- A package in OFF, or with no request, finishes no report. -/
theorem execAttestationReportReady_of_none {s : State} (h : s.pkg.power = .off ∨ s.pkg.attQueue = []) :
    execAttestationReportReady s = .next s := by
  unfold execAttestationReportReady
  split
  · rfl
  · next hon =>
    rw [h.resolve_left hon]

/-- The oldest request's report is given in its buffer (R16). -/
theorem execAttestationReportReady_of_cons {s : State} {r : AttReq} {rest : List AttReq} (hon : s.pkg.power ≠ .off)
    (hq : s.pkg.attQueue = r :: rest) :
    execAttestationReportReady s = .next (State.updPkg s (fun p =>
      if r.i3c then { p with attQueue := rest, i3cBuf := State.report s r.nonce r.ctx, i3cReady := rest.all (fun x => !x.i3c) }
      else { p with attQueue := rest, attBuf := State.report s r.nonce r.ctx, attStat := 2 })) := by
  rw [execAttestationReportReady, if_neg hon, hq]

/-- Settles O34: the start, the board's commands and the changes of power event by event, then ATTCTL and the reports. What the
statement takes from log entries 38 (a step out of its turn changes nothing), 43 (ATTCTL, the nonce, the time of a report) and 44
(power commands during an exit) is the model's choice. -/
theorem startBoardAndPowerComplete : Obligations.StartBoardAndPowerComplete :=
  fun s _ _ => ⟨exec_of_startEvent, exec_of_boardCommand, exec_of_powerEvent, execAttestationGo_eq s,
    execAttestationReportReady_of_none, fun _ _ => execAttestationReportReady_of_cons⟩

end Sys2Proof.Machine

/-! # Contexts, pages, and what the host does to them (R9, R71, R73, R75 to R86, R272, R296, R316, R330, R379) -/

namespace Sys2Proof.Machine

open Rules

/-! ## Contexts (R71, R73, R82, R83, R296, R316, R330) -/

/-- `State.driverUp` decides that the boot is over and the package is in P0 or P1. -/
theorem State.driverUp_iff (s : State) :
    State.driverUp s = true ↔ s.pkg.bootDone = 4 ∧ (s.pkg.power = .p0 ∨ s.pkg.power = .p1) := by
  simp [State.driverUp]

/-- `State.maskOk` decides the conditions on a lockstep mask (R22, R71). -/
theorem State.maskOk_iff (s : State) (m : BitVec 4) :
    State.maskOk s m = true ↔ m = 0 ∨ (s.pkg.paired = true ∧ (∀ b ∈ s.blocks, m.getLsbD (dieOfHall b.hall) = false) ∧
      ∀ x ∈ s.ctxs, x.2.lockMask &&& m = 0) := by
  simp [State.maskOk, and_assoc]

/-- A context is created where the driver may create it. -/
theorem execContextCreate_eq (s : State) (c : Nat) (p : CtxParams) :
    execContextCreate c p s = .next (if MayCreate s c p then { s with ctxs := insert s.ctxs c (newContext p) } else s) := by
  refine next_ite_of_iff_not ?_
  unfold MayCreate
  rw [← State.driverUp_iff, ← State.maskOk_iff, ← Option.not_isSome_iff_eq_none, ge_iff_le, Config.contexts, ← not_lt,
    ← Bool.not_eq_true, ← Bool.not_eq_true]
  tauto

/-- The kill of a context that exists ends its tasks (R330). -/
theorem execContextKill_eq (s : State) (c : Nat) :
    execContextKill c s = .next (if State.ctx? s c = none then s else State.killContext s c 0x63) := by
  unfold execContextKill
  split
  · next h => rw [if_pos h]
  · next x h => rw [if_neg (by simp [h])]

/-- The end of a context that exists is its kill, and nothing names it any more. -/
theorem execContextDestroy_eq (s : State) (c : Nat) :
    execContextDestroy c s = .next (if State.ctx? s c = none then s else forgotten (State.killContext s c 0x63) c) := by
  unfold execContextDestroy
  split
  · next h => rw [if_pos h]
  · next x h =>
    rw [if_neg (by simp [h])]
    rfl

/-- Granules get their tags one after another (R82). -/
theorem execSetGranuleTags_eq (s : State) (c : Nat) (va : DWord) (n : Nat) (tag : BitVec 4) :
    execSetGranuleTags c va n tag s =
      .next (((List.range n).map (fun i => vaOf va / 32 * 32 + 32 * i)).foldl (granuleTagged c tag) s) := by
  rw [List.foldl_map]
  rfl

/-- A collective set is defined unless the definition is malformed or a collective of the set runs (R296). -/
theorem execDefineCollectiveSet_eq (s : State) (c n : Nat) (pkgs : List Nat) :
    execDefineCollectiveSet c n pkgs s = .next (
      if State.ctx? s c = none ∨ n > 15 ∨ pkgs.length = 0 ∨ pkgs.length > 512 ∨ pkgs.eraseDups.length ≠ pkgs.length then s
      else if ∃ x ∈ s.pkg.collectives, x.ctx = c ∧ x.set = n ∧ x.st = 0 then State.updPkg s (fun p => { p with fwFault := satInc p.fwFault })
      else State.updPkg (State.updCtx s c (fun x => { x with sets := insert x.sets n pkgs, setCounts := insert x.setCounts n 0 }))
        (fun p => { p with collectives := p.collectives.filter (fun x => !(x.ctx == c && x.set == n)),
                           relayed := p.relayed.filter (fun r => !(r.ctx == c && r.set == n)) })) := by
  have hruns : (s.pkg.collectives.any (fun x => x.ctx == c && x.set == n && x.st == 0)) = true ↔
      ∃ x ∈ s.pkg.collectives, x.ctx = c ∧ x.set = n ∧ x.st = 0 := by
    simp [List.any_eq_true, and_assoc]
  simp only [execDefineCollectiveSet, Option.isNone_iff_eq_none, hruns, List.length_eq_zero_iff, apply_ite Host.Outcome.next]

/-- Each call of the driver about a context has the effect stated or is turned away. -/
theorem exec_of_contextEvent {s t : State} {i : Instr} (h : contextEvent s i = some t) : exec i s = .next t := by
  unfold contextEvent at h
  split at h <;> cases h
  case h_1 c p => exact execContextCreate_eq s c p
  case h_2 c => exact execContextKill_eq s c
  case h_3 c => exact execContextDestroy_eq s c
  case h_4 c a => exact next_ite_of_iff_not Iff.rfl
  case h_5 c w a k o => exact next_ite_of_iff_not Nat.not_le.symm
  case h_6 c va n tag => exact execSetGranuleTags_eq s c va n tag
  case h_7 c n pkgs => exact execDefineCollectiveSet_eq s c n pkgs

/-! ## Fills (R78, R79, R86, R336) -/

/-- A packet may be fetched from a page that may be executed and not written, and from a shadow page only where a buffer is
published (R81, R86). -/
theorem fetchFails_eq_false_iff (s : State) (c va : Nat) (l : DWord) :
    fetchFails s c va l = false ↔
      Leaf.x l = true ∧ Leaf.w l = false ∧ (Leaf.s l = true → (State.buffer s c va).isSome = true) := by
  cases hs : Leaf.s l <;> simp [fetchFails, hs, Option.isSome_iff_ne_none, and_comm, and_left_comm]

/-- A packet's line is filled where the packet may be fetched now and is not there yet. -/
theorem exec_packetFetchFill {s t : State} {hall c : Nat} {va : DWord}
    (h : fillEvent s (.packetFetchFill hall c va) = some t) : exec (.packetFetchFill hall c va) s = .next t := by
  cases h
  show execPacketFetchFill hall c va s = _
  unfold execPacketFetchFill
  by_cases hgo : hall < 384 ∧ vaOf va % 16 = 0 ∧
      (State.hall s hall).icache.any (fun l => l.ctx == c && l.va == vaOf va) = false
  · have hno : ¬ (hall ≥ Config.halls ∨ vaOf va % 16 ≠ 0 ∨
        (State.hall s hall).icache.any (fun l => l.ctx == c && l.va == vaOf va) = true) := by
      rw [Config.halls, ge_iff_le, ← not_lt, ← Bool.not_eq_false]
      tauto
    rw [if_pos hgo, if_neg hno]
    cases State.translate s hall c (vaOf va) with
    | absent => rfl
    | leaf l pte =>
      refine next_ite_of_iff_not ?_
      rw [← Bool.not_eq_false, ← Bool.not_eq_false, fetchFails_eq_false_iff]
      tauto
  · rw [if_neg hgo, if_pos]
    rw [Config.halls, ge_iff_le, ← not_lt, ← Bool.not_eq_false]
    tauto

/-- Each fill, and the end of a slice's rehoming, has the effect stated. -/
theorem exec_of_fillEvent {s t : State} {i : Instr} (h : fillEvent s i = some t) : exec i s = .next t := by
  unfold fillEvent at h
  split at h <;> cases h
  case h_1 hall c va => exact next_ite_of_iff Iff.rfl
  case h_2 hall c va => exact exec_packetFetchFill rfl
  case h_3 line =>
    rw [← if_congr List.contains_iff_mem rfl rfl]
    rfl
  case h_4 n => exact next_ite_of_iff Iff.rfl

/-! ## The entries of a page (R71, R75, R77, R80, R82, R84, R85) -/

/-- `State.frameAllowed` decides `FrameOk`. -/
theorem State.frameAllowed_iff (s : State) (c frame : Nat) : State.frameAllowed s c frame = true ↔ FrameOk s c frame := by
  simp [State.frameAllowed, FrameOk, or_assoc]

/-- The tags of a newly mapped page are those that the statement gives (R82). -/
theorem State.newlyMapped_eq_tagsZeroed (s : State) (l leaf : DWord) : State.newlyMapped s l leaf = tagsZeroed s l leaf := by
  unfold State.newlyMapped tagsZeroed
  refine if_congr ?_ rfl rfl
  simp [and_assoc, imp_iff_not_or, or_assoc]

/-- A shootdown's request changes a resident page's entry unless the page is being moved or may not stand at the new frame. -/
theorem execShootdownRequest_of_leaf {s : State} {c : Nat} {va l : DWord} {pte : Nat} (leaf : DWord)
    (hw : State.walk s c (vaOf va) = .leaf l pte) :
    execShootdownRequest c va leaf s = .next (
      if Leaf.v l = true ∧ Leaf.g l = false ∧ (Leaf.v leaf = true → FrameOk s c (Leaf.frame leaf)) then
        State.updCtx (tagsZeroed (State.writeLeaf s l pte (fun _ => leaf)) l leaf) c
          (fun x => { x with shoot := x.shoot ++ [pageOf (vaOf va)] })
      else s) := by
  rw [execShootdownRequest, hw, ← State.newlyMapped_eq_tagsZeroed]
  refine next_ite_of_iff_not ?_
  simp only [← Bool.not_eq_true, State.frameAllowed_iff]
  tauto

/-- A page that is not resident becomes resident, or absent, and what waited for it goes on. -/
theorem execPageResident_of_leaf {s : State} {c : Nat} {va l : DWord} {pte : Nat} (leaf : DWord)
    (hw : State.walk s c (vaOf va) = .leaf l pte) :
    execPageResident c va leaf s = .next (
      if Leaf.v l = false ∧ NewLeaf s c l leaf then
        State.release (State.settleLate (State.pageArrived (tagsZeroed
          (State.writeLeaf s l pte (fun x => if leaf = 0 then 0 else Leaf.withFrame (Leaf.set x 0) (Leaf.frame leaf))) l leaf)
          c (vaOf va) (Leaf.offBits l)))
      else s) := by
  rw [execPageResident, hw, ← State.newlyMapped_eq_tagsZeroed]
  refine next_ite_of_iff_not ?_
  unfold NewLeaf leafRest
  simp only [← Bool.not_eq_true, State.frameAllowed_iff]
  tauto

/-- A page begins to move where it may (R84, R85). -/
theorem State.startMigration_of_leaf {s : State} {c : Nat} {va l : DWord} {pte : Nat}
    (hw : State.walk s c (vaOf va) = .leaf l pte) :
    State.startMigration s c va = if MayStart s c l then
      recalled (State.uncache (State.shootdown (State.writeLeaf s l pte (fun x => Leaf.set x 11)) c (vaOf va))
        (Leaf.frame l) (2 ^ Leaf.offBits l)) l
      else s := by
  have hstay : (Leaf.v l = false ∨ Leaf.g l = true ∨ Leaf.s l = true ∨ State.boundedResident s c = true ∨
      (State.lockMask s c ≠ 0 ∧ s.pkg.paired = false)) ↔ ¬ MayStart s c l := by
    simp only [MayStart, ← Bool.not_eq_true]
    tauto
  rw [State.startMigration, hw]
  exact (if_congr hstay rfl rfl).trans (ite_not ..)

/-! ### A migration's end (R82, R84)

The page's bytes, tags and poison are copied, its entry is written, what the package keeps about the page follows it, and the
waiting steps go on. Nothing after the entry's write touches memory, tags or poison. -/

/-- The granule tags and the poison of memory. -/
def State.marks (s : State) : List (Nat × BitVec 4) × List Nat := (s.gtags, s.gpoison)

theorem State.flushBlock_marks (s : State) (c seq blk : Nat) (p : StashLine → Bool) (keep : Bool) :
    State.marks (State.flushBlock s c seq blk p keep) = State.marks s := by
  unfold State.flushBlock
  split
  · rfl
  · dsimp only
    split <;> rfl

theorem State.recall_marks (s : State) (except : Option (Nat × Nat × Nat)) (pa len : Nat) (write : Bool) :
    State.marks (State.recall s except pa len write) = State.marks s := by
  unfold State.recall
  split
  · rfl
  · refine List.foldlRecOn (motive := fun t => State.marks t = State.marks s) _ _ rfl (fun t ht b _ => ?_)
    split
    · exact ht
    · exact (State.flushBlock_marks ..).trans ht

theorem State.writePte_marks (s : State) (pte : Nat) (l : DWord) : State.marks (State.writePte s pte l) = State.marks s :=
  State.recall_marks s none pte 8 true

theorem State.writePte_side (s : State) (pte : Nat) (l : DWord) : SameSide s (State.writePte s pte l) :=
  (State.recall_side s none pte 8 true).trans ⟨rfl, rfl, rfl, rfl, rfl, rfl, rfl, rfl, rfl, rfl, rfl, rfl, rfl, rfl, rfl⟩

/-- The write of a page's entries leaves tags and poison as they are. -/
theorem State.writeLeaf_marks (s : State) (old : DWord) (pte : Nat) (f : DWord → DWord) :
    State.marks (State.writeLeaf s old pte f) = State.marks s :=
  List.foldlRecOn (motive := fun t => State.marks t = State.marks s) _ _ rfl
    (fun _ ht _ _ => (State.writePte_marks ..).trans ht)

/-- The write of a page's entries leaves the package and the agenda as they are. -/
theorem State.writeLeaf_side (s : State) (old : DWord) (pte : Nat) (f : DWord → DWord) :
    SameSide s (State.writeLeaf s old pte f) :=
  SameSide.foldl _ (fun _ _ => State.writePte_side ..) _ s

/-- What the package keeps about a page by its place goes with the page to its new frame: the access counters, the accesses that
groups have pending, in their slots and in save images, and the lines last read for the replay log. -/
def State.followPage (s : State) (c : Nat) (l : DWord) (frame : Nat) : State :=
  let n := 2 ^ Leaf.offBits l
  let old := Leaf.frame l
  let s := if frame = old then s else State.moveCounts s (old / 65536) (frame / 65536) (n / 65536)
  let f := moveLeaf old frame (Leaf.offBits l)
  let s := State.mapGroups s (fun g => g.ctx == c) (fun g => Group.moveFrame g f)
  let s := { s with saved := s.saved.map (fun i =>
    { i with groups := mapIf i.groups (fun g => g.ctx == c) (fun g => Group.moveFrame g f) }) }
  State.updDebug s c (fun d =>
    { d with rpLast := d.rpLast.map (fun p => (movedTo (old / 128) (frame / 128) (n / 128) p.1, p.2)) })

/-- The change of a context's record leaves memory and its marks as they are. -/
theorem State.updCtx_marks (s : State) (c : Nat) (f : Ctx → Ctx) : State.marks (State.updCtx s c f) = State.marks s := by
  unfold State.updCtx
  split <;> rfl

section
variable (s : State) (c : Nat) (l : DWord) (frame : Nat)

theorem State.followPage_mem : (State.followPage s c l frame).mem = s.mem := by
  refine (State.updDebug_mem ..).trans ?_
  show (ite _ _ _ : State).mem = _
  split <;> rfl

theorem State.followPage_marks : State.marks (State.followPage s c l frame) = State.marks s := by
  refine (State.updCtx_marks ..).trans ?_
  show State.marks (ite _ _ _) = _
  split <;> rfl

theorem State.followPage_events : (State.followPage s c l frame).events = s.events := by
  refine (State.updCtx_side ..).events.trans ?_
  show (ite _ _ _ : State).events = _
  split <;> rfl

theorem State.followPage_pkg : (State.followPage s c l frame).pkg = s.pkg := by
  refine (State.updCtx_side ..).pkg.trans ?_
  show (ite _ _ _ : State).pkg = _
  split <;> rfl

end

/-- No step waits any more. -/
theorem State.release_waiting (s : State) : (State.release s).pkg.waiting = [] :=
  List.filter_false _

/-- The steps that waited come before the later ones, in the order of their arrival. -/
theorem State.release_events (s : State) : (State.release s).events = s.pkg.waiting ++ s.events :=
  congrArg (· ++ s.events) (List.filter_true _)

/-- A page that may not be moved to a frame is not. -/
theorem execMigrationComplete_of_not_mayMove {s : State} {c : Nat} {va l : DWord} {pte frame : Nat}
    (hw : State.walk s c (vaOf va) = .leaf l pte) (h : ¬ MayMove s c l frame) :
    execMigrationComplete c va frame s = .next s := by
  rw [execMigrationComplete, hw]
  refine if_pos ?_
  simp only [MayMove, ← State.frameAllowed_iff, ← not_le] at h
  simp only [← Bool.not_eq_true]
  tauto

/-- A page that may be moved to a frame is copied there, its entries are written with G clear, and what was kept about it follows. -/
theorem execMigrationComplete_of_mayMove {s : State} {c : Nat} {va l : DWord} {pte frame : Nat}
    (hw : State.walk s c (vaOf va) = .leaf l pte) (h : MayMove s c l frame) :
    execMigrationComplete c va frame s = .next (State.release (State.followPage
      (State.writeLeaf (pageCopied s l frame) l pte (fun x => Leaf.withFrame (Leaf.clear x 11) frame)) c l frame)) := by
  rw [execMigrationComplete, hw]
  refine if_neg ?_
  simp only [MayMove, ← State.frameAllowed_iff, ← not_le] at h
  simp only [← Bool.not_eq_true]
  tauto

/-- An event of a page that the walk does not find changes nothing. -/
theorem exec_of_pageNamed_absent {s : State} {i : Instr} {c : Nat} {va : DWord} (hi : pageNamed i = some (c, va))
    (hw : State.walk s c (vaOf va) = .absent) : exec i s = .next s := by
  unfold pageNamed at hi
  split at hi <;> cases hi
  case h_1 leaf =>
    show execShootdownRequest c va leaf s = _
    rw [execShootdownRequest, hw]
  case h_2 leaf =>
    show execPageResident c va leaf s = _
    rw [execPageResident, hw]
  case h_3 =>
    show execMigrationStart c va s = _
    rw [execMigrationStart, State.startMigration, hw]
  case h_4 frame =>
    show execMigrationComplete c va frame s = _
    rw [execMigrationComplete, hw]

/-- Each event of a page that the walk finds has the effect stated. -/
theorem exec_of_pageEvent {s t : State} {i : Instr} {c : Nat} {va l : DWord} {pte : Nat} (hi : pageNamed i = some (c, va))
    (hw : State.walk s c (vaOf va) = .leaf l pte) (h : pageEvent s l pte i = some t) : exec i s = .next t := by
  unfold pageNamed at hi
  split at hi <;> cases hi <;> cases h
  case h_1 leaf => exact execShootdownRequest_of_leaf leaf hw
  case h_2 leaf => exact execPageResident_of_leaf leaf hw
  case h_3 => exact congrArg _ (State.startMigration_of_leaf hw)

/-! ## The end of a shootdown (R77) -/

/-- A shootdown that was requested ends: no hall holds the page any more, and one request less stands. -/
theorem execShootdownComplete_eq (s : State) (c : Nat) (va : DWord) :
    execShootdownComplete c va s = .next (
      match State.ctx? s c with
      | none => s
      | some x => if pageOf (vaOf va) ∈ x.shoot then
          State.updCtx (State.shootdown s c (vaOf va)) c (fun y => { y with shoot := y.shoot.erase (pageOf (vaOf va)) }) else s) := by
  unfold execShootdownComplete
  cases State.ctx? s c with
  | none => rfl
  | some x => exact next_ite_of_iff List.contains_iff_mem

/-! ## The host's accesses (R9, R84, R292, R336) -/

/-- A host access is held where a run of it must wait. -/
theorem State.hostHeld_eq (s : State) (c : Nat) (va : DWord) (w : Bool) (n : Nat) :
    State.hostHeld s c va w n = (hostRuns va n).any (hostWaits s c w) := rfl

/-- A host access waits, or reads or writes one run after another. -/
theorem execHostAccess_eq (s : State) (c : Nat) (va : DWord) (w : Bool) (n : Nat) (bs : List Byte) :
    execHostAccess c va w n bs s = .next (
      if (hostRuns va (if w then bs.length else n)).any (hostWaits s c w) = true then waits s (.hostAccess c va w n bs)
      else ((hostRuns va (if w then bs.length else n)).foldl (fun (x : Nat × State) p =>
        (x.1 + p.2, State.hostRun x.2 c (vaOf p.1) w p.2 ((bs.drop x.1).take p.2)))
        (0, if w then s else State.updPkg s (fun p => { p with hostRead := [] }))).2) :=
  next_ite_of_iff (by rw [State.hostHeld_eq, hostBytes])

/-- Settles O35: the driver's calls, the fills, the events of a page, a migration's end, a shootdown's end and a host access, each by
its own equation. That a shootdown's request of a page with G set and a migration of an S page are refused is log entry 28, that an
event whose time has not come changes nothing log entry 38: both are the model's choice. -/
theorem contextPageAndHostEventsComplete : Obligations.ContextPageAndHostEventsComplete := by
  intro s t i
  refine ⟨exec_of_contextEvent, exec_of_fillEvent, ?_, ?_, execShootdownComplete_eq s, execHostAccess_eq s⟩
  · intro c va hi
    exact ⟨exec_of_pageNamed_absent hi, fun l pte hw => exec_of_pageEvent hi hw⟩
  · intro c va frame l pte hw
    refine ⟨execMigrationComplete_of_not_mayMove hw, fun hmay => ⟨_, execMigrationComplete_of_mayMove hw hmay, ?_⟩⟩
    have hside := State.writeLeaf_side (pageCopied s l frame) l pte (fun x => Leaf.withFrame (Leaf.clear x 11) frame)
    have hmarks := (State.followPage_marks _ c l frame).trans
      (State.writeLeaf_marks (pageCopied s l frame) l pte (fun x => Leaf.withFrame (Leaf.clear x 11) frame))
    refine ⟨State.followPage_mem .., congrArg Prod.fst hmarks, congrArg Prod.snd hmarks, State.release_waiting _, ?_⟩
    rw [State.release_events, State.followPage_pkg, State.followPage_events, hside.pkg, hside.events]
    rfl

end Sys2Proof.Machine

/-! # The search in a table of offsets (R28) -/

namespace Sys2Proof.Machine

open Rules

/-- The search goes as R28's procedure while fewer than 2^fuel entries stand between lo and hi: each turn leaves at most half of
them, in whatever order the table's offsets stand. -/
theorem lookupTable_search (offset : Nat → Nat) (x fuel lo hi : Nat) (hfuel : hi - lo < 2 ^ fuel) :
    Search offset x lo hi (lookupTable offset x fuel lo hi) := by
  induction fuel generalizing lo hi with
  | zero => exact .none lo hi (by omega)
  | succ fuel ih =>
    have hmid : (lo + hi) / 2 = (lo + hi) >>> 1 := (Nat.shiftRight_one _).symm
    have hpow : 2 ^ (fuel + 1) = 2 * 2 ^ fuel := Nat.pow_succ'
    rw [lookupTable]
    split
    case isFalse hdone => exact .none lo hi (Nat.le_of_not_lt hdone)
    case isTrue hlt =>
      simp only [hmid]
      split
      case isTrue heq => exact .found lo hi hlt heq
      case isFalse hne =>
        split
        case isTrue hbelow => exact .upper lo hi _ hlt hbelow (ih _ _ (by omega))
        case isFalse hnot => exact .lower lo hi _ hlt (by omega) (ih _ _ (by omega))

/-- Settles O48: a table of fewer than 2^32 entries is searched in at most 32 turns, so the model's 33 never run out. -/
theorem tableSearchIsTheProcedure : Obligations.TableSearchIsTheProcedure := by
  intro offset x count hcount
  exact lookupTable_search offset x 33 0 count (by omega)

end Sys2Proof.Machine

/-! # Tickets and DEPADD (R63, R64, R157, R158, R216)

A word whose checks pass goes on to what is left of its entry; the lemmas say for each check how it is passed. -/

namespace Sys2Proof.Machine

open Rules

/-! ## Words that issue in a group with no open atomic region -/

/-- A word that is ready to issue does not wait. -/
theorem Rules.Ready.wait_eq_none {s : State} {i : Instr} (hready : Ready s i) : s.g.wait = none := by
  obtain ⟨-, hwait, -⟩ := hready
  exact hwait

/-- A word with nothing against it takes its entry. -/
theorem issue_of_ready {s : State} {i : Instr} (body : State → Eff) (hclosed : Closed s) (hready : Ready s i) :
    issue i body s = .next (State.finish s (body s)) := by
  obtain ⟨hvalid, hwait, hfollow, hmask, hregs, hcheck⟩ := hready
  exact issue_ready i body s hvalid (by simp [hwait]) hfollow hregs hcheck hmask hclosed

/-- A word that regions forbid reads its sound sources and goes on. -/
theorem State.outside_withSources {s : State} {xs : List Src} (body : State → Eff) (hclosed : Closed s) (hsound : Sound s xs) :
    State.outside s (fun s => State.withSources s xs body) = body s := by
  obtain ⟨hstrike, hpoison, hformat, hresidue⟩ := hsound
  rw [State.outside_closed s _ hclosed, State.withSources_sound s xs body hstrike hpoison hformat hresidue]

/-- Operations that take their places one after another change the list of those outstanding alone. -/
theorem Group.foldl_outstand {α : Type} (f : α → Outst) (xs : List α) (g : Group) :
    xs.foldl (fun h x => Group.outstand h (f x)) g =
      { g with outst := xs.foldl (fun os x => placeBy (fun a b => decide (a.no ≤ b.no)) (f x) os) g.outst } := by
  induction xs generalizing g with
  | nil => rfl
  | cons x xs ih => exact ih _

/-- The end of the idempotent region in the model is the one of the statements. -/
theorem State.endRegion_eq_regionEnds (s : State) : State.endRegion s = regionEnds s := by
  unfold State.endRegion Group.release regionEnds
  rw [Group.foldl_outstand]

/-! ## The state once the pages are looked up -/

section
variable (s : State) (accs : List Access) (write : Bool) (ps : List Piece)

/-- The pages that a word looks up do not depend on what it needs of them. -/
theorem lookUp_eq_lookedUp (need : Need) :
    State.lookUp s s.g.hall s.g.ctx (accs.map (fun a => (need, a))) = lookedUp s accs := by
  rw [lookedUp, State.lookUp_pack, State.lookUp_pack]

@[simp] theorem lookedUp_g : (lookedUp s accs).g = s.g := State.lookUp_g ..
@[simp] theorem lookedUp_cur : (lookedUp s accs).cur = s.cur := State.lookUp_cur ..
@[simp] theorem lookedUp_gangs : (lookedUp s accs).gangs = s.gangs := State.lookUp_gangs ..
@[simp] theorem touched_g : (touched s accs write ps).g = s.g := (State.touch_g ..).trans (lookedUp_g s accs)

theorem touch_lookedUp : State.touch (lookedUp s accs) s.g.hall s.g.ctx write ps = touched s accs write ps := rfl

@[simp] theorem State.src_lookedUp (l n : Nat) (u : Bool) : State.src (lookedUp s accs) l n u = State.src s l n u :=
  congrArg (fun g => (Group.cell g (srcLane u l) n).val) (lookedUp_g s accs)

@[simp] theorem State.src64_lookedUp (l n : Nat) (u : Bool) : State.src64 (lookedUp s accs) l n u = State.src64 s l n u := by
  rw [State.src64, State.src_lookedUp, State.src_lookedUp, State.src64]

@[simp] theorem State.rounds_lookedUp : State.rounds (lookedUp s accs) = State.rounds s := by
  simp only [State.rounds, State.gang?, lookedUp_g, lookedUp_gangs]

@[simp] theorem State.openRounds_lookedUp : State.openRounds (lookedUp s accs) = State.openRounds s := by
  simp only [State.openRounds, State.gang?, lookedUp_g, lookedUp_gangs]

end

/-- A classification with nothing against the accesses lets the word go on, its pages looked up. -/
theorem State.classified_of_classified {s : State} {need : Need} {accs : List Access} {ps : List Piece}
    (k : State → List Piece → Eff) (h : Classified s need accs ps) :
    State.classified s need accs k =
      Eff.wanting (State.fills s s.g.hall s.g.ctx (accs.map (fun a => (need, a)))) (k (lookedUp s accs) ps) := by
  rw [← lookUp_eq_lookedUp s accs need]
  refine State.classified_ok s need accs k ps ?_
  rw [lookUp_eq_lookedUp]
  exact h

/-- So does that of a word that may park, at its issue. -/
theorem State.classifiedOnce_of_classified {s : State} {need : Need} {accs : List Access} {ps : List Piece}
    (k : State → List Piece → Eff) (hwait : s.g.wait = none) (h : Classified s need accs ps) :
    State.classifiedOnce s need accs k =
      Eff.wanting (State.fills s s.g.hall s.g.ctx (accs.map (fun a => (need, a)))) (k (lookedUp s accs) ps) := by
  rw [State.classifiedOnce, hwait]
  exact State.classified_of_classified k h

/-- A group that does not wait has no lane to unpark. -/
theorem State.unpark_of_none {s : State} (h : s.g.wait = none) : State.unpark s = s := by
  rw [State.unpark, h]

/-- Marking a task volatile leaves the group at the issue port. -/
@[simp] theorem State.markVolatile_g (s : State) (c seq : Nat) : (State.markVolatile s c seq).g = s.g :=
  (State.markVolatile_side s c seq).g

/-! ## TKT (R63, R64, R158) -/

/-- Where all lanes name one counter and one increment, no lane differs from the lowest. -/
theorem maskOf_differ_of_sameOperands {s : State} {a b : RegNo} {ua ub : Bool} (h : SameOperands s a b ua ub) :
    maskOf (fun l => s.cur.mask.getLsbD l &&
      (vaOf (State.src64 s l a.toNat ua) != vaOf (State.src64 s (Mask.lowest s.cur.mask) a.toNat ua) ||
        State.src s l b.toNat ub != State.src s (Mask.lowest s.cur.mask) b.toNat ub)) = 0 := by
  apply BitVec.eq_of_getLsbD_eq
  intro l hl
  rw [maskOf_getLsbD _ _ hl]
  cases hbit : s.cur.mask.getLsbD l with
  | false => simp
  | true =>
    have hlanes : ∀ l < 32, l ∈ lanesOf := by decide
    have hmem : l ∈ Mask.lanes s.cur.mask := List.mem_filter.2 ⟨hlanes l hl, hbit⟩
    obtain ⟨haddr, hincr⟩ := h l hmem
    have hincr' : State.src s l b.toNat ub = State.src s (Mask.lowest s.cur.mask) b.toNat ub := hincr
    simp [haddr, hincr']

/-- What TKT does once its checks have passed: it joins its round, or opens it. -/
def ticketRound (s : State) (d : RegNo) (addr incr : DWord) (accs : List Access) (ps : List Piece) : Eff :=
  match (State.rounds s).find? (fun r => r.n == s.g.tickets + 1) with
  | some r =>
    if vaOf r.addr ≠ vaOf addr ∨ r.incr ≠ incr then .trap (lookedUp s accs) .illegal s.cur.mask addr
    else State.takeRound (touched s accs true ps) d (s.g.tickets + 1) false addr incr ps
  | none =>
    if State.openRounds s ≥ 4 then .stall .engq []
    else State.takeRound (touched s accs true ps) d (s.g.tickets + 1) true addr incr ps

/-- The group takes round `n`, where `f` changes the rounds of its gang: the idempotent region ends, and TKT is outstanding,
counted in acnt. -/
def roundTaken (t : State) (d : RegNo) (n : Nat) (opener : Bool) (addr incr : DWord) (ps : List Piece)
    (f : List Round → List Round) : State :=
  let u := regionEnds (State.markVolatile (State.updGang t t.g.ctx t.g.seq (Group.gang t.g)
    (fun y => { y with rounds := f y.rounds })) t.g.ctx t.g.seq)
  withG u { outstanding u.g (.tkt n opener incr d.toNat) u.cur.mask
      ((ps.take 1).map (fun p => { lane := p.lane, addr := addr, len := 8, leaf := p.leaf, x := [], priv := false })) with
    acnt := u.g.acnt + 1, tickets := n }

/-- The opener of a round is its first taker. -/
theorem State.takeRound_opener (t : State) (d : RegNo) (n : Nat) (addr incr : DWord) (ps : List Piece) :
    State.takeRound t d n true addr incr ps = .ok (roundTaken t d n true addr incr ps (fun rs =>
      rs ++ [{ n := n, addr := addr, incr := incr, value := none, bad := false, takers := [(t.g.blk, t.g.grp)] }])) := by
  rw [State.takeRound, State.endRegion_eq_regionEnds]
  rfl

/-- A later taker joins those of its round. -/
theorem State.takeRound_joiner (t : State) (d : RegNo) (n : Nat) (addr incr : DWord) (ps : List Piece) :
    State.takeRound t d n false addr incr ps = .ok (roundTaken t d n false addr incr ps (fun rs =>
      mapIf rs (fun r => r.n == n) (fun r => { r with takers := r.takers ++ [(t.g.blk, t.g.grp)] }))) := by
  rw [State.takeRound, State.endRegion_eq_regionEnds]
  rfl

section
variable {s : State} {d a b : RegNo} {ua ub : Bool} {ps : List Piece}

/-- With its checks passed TKT goes on to its round. -/
theorem exec_tkt_of_accepted (hclosed : Closed s) (hready : Ready s (.tkt d a b ua ub)) (hsound : Sound s (counterSrcs a b ua ub))
    (halign : Aligned (uniAccesses s a ua 8) 8) (hstash : State.stashWait s = false)
    (hclass : Classified s .atomic (uniAccesses s a ua 8) ps) (hprot : ∀ p ∈ ps, Leaf.s p.leaf = false)
    (hsame : SameOperands s a b ua ub) (hbusy : State.busyPipe (lookedUp s (uniAccesses s a ua 8)) s.g.acnt = false) :
    exec (.tkt d a b ua ub) s = .next (State.finish s (Eff.wanting
      (State.fills s s.g.hall s.g.ctx ((uniAccesses s a ua 8).map (fun a => (Need.atomic, a))))
      (ticketRound s d (State.src64 s (Mask.lowest s.cur.mask) a.toNat ua)
        (BitVec.zeroExtend 64 (src s (Mask.lowest s.cur.mask) b.toNat ub)) (uniAccesses s a ua 8) ps))) := by
  show execTkt d a b ua ub s = _
  rw [execTkt, issue_of_ready _ hclosed hready]
  refine congrArg (fun e => Host.Outcome.next (State.finish s e)) ?_
  refine (State.outside_withSources _ hclosed hsound).trans ?_
  refine (State.aligned_ok s _ 8 _ halign).trans ?_
  rw [if_neg (by simp [hstash])]
  refine (State.classified_of_classified _ hclass).trans ?_
  refine congrArg _ ((State.leafProt_ok _ ps _ _ hprot).trans ?_)
  simp only [State.src64_lookedUp, State.src_lookedUp, State.rounds_lookedUp, State.openRounds_lookedUp, lookedUp_cur, lookedUp_g,
    maskOf_differ_of_sameOperands hsame, hbusy, ne_eq, not_true_eq_false, if_false, Bool.false_eq_true]
  rfl

end

/-! ## DEPADD (R157, R216) -/

/-- DEPADD is counted in acnt from its issue, the idempotent region ended before it. -/
def depaddIssued (s : State) (a : RegNo) (ua : Bool) (ps : List Piece) : State :=
  let v := regionEnds (State.markVolatile (touched s (uniAccesses s a ua 128) true ps) s.g.ctx s.g.seq)
  withG v { v.g with acnt := v.g.acnt + 1 }

section
variable (s : State) (a : RegNo) (ua : Bool) (ps : List Piece)

theorem depaddIssued_wait : (depaddIssued s a ua ps).g.wait = s.g.wait := by
  show (State.markVolatile (touched s _ true ps) _ _).g.wait = _
  rw [State.markVolatile_g, touched_g]

theorem depaddIssued_scnt : (depaddIssued s a ua ps).g.scnt = s.g.scnt := by
  show (State.markVolatile (touched s _ true ps) _ _).g.scnt = _
  rw [State.markVolatile_g, touched_g]

end

section
variable {s : State} {d a b : RegNo} {ua ub : Bool} {ps : List Piece}

/-- With its checks passed DEPADD is outstanding, or its lanes park until the earlier stores are performed. -/
theorem exec_depadd_of_accepted (hclosed : Closed s) (hready : Ready s (.depadd d a b ua ub))
    (hsound : Sound s (counterSrcs a b ua ub)) (halign : Aligned (uniAccesses s a ua 128) 128) (hstash : State.stashWait s = false)
    (hclass : Classified s .atomic (uniAccesses s a ua 128) ps) (hprot : ∀ p ∈ ps, Leaf.s p.leaf = false)
    (hbusy : State.busyPipe (lookedUp s (uniAccesses s a ua 128)) s.g.acnt = false) :
    exec (.depadd d a b ua ub) s = .next (State.finish s (Eff.wanting
      (State.fills s s.g.hall s.g.ctx ((uniAccesses s a ua 128).map (fun a => (Need.atomic, a))))
      (if s.g.scnt = 0 then
        .ok (withG (depaddIssued s a ua ps)
          (outstanding (depaddIssued s a ua ps).g (.depadd d.toNat) (depaddIssued s a ua ps).cur.mask (ps.map (fun p =>
            { lane := p.lane, addr := p.addr, len := 128, leaf := p.leaf, x := [src s p.lane b.toNat ub], priv := false }))))
      else .park (State.park (depaddIssued s a ua ps) (.depadd d a b ua ub) 1 0 .cntwait) .cntwait))) := by
  have hwait := hready.wait_eq_none
  show execDepadd d a b ua ub s = _
  rw [execDepadd, issue_of_ready _ hclosed hready]
  refine congrArg (fun e => Host.Outcome.next (State.finish s e)) ?_
  refine (State.outside_withSources _ hclosed hsound).trans ?_
  refine (State.aligned_ok s _ 128 _ halign).trans ?_
  rw [if_neg (by simp [hstash])]
  refine (State.classifiedOnce_of_classified _ hwait hclass).trans ?_
  refine congrArg _ ((State.leafProt_ok _ ps _ _ hprot).trans ?_)
  have hissued : State.updG (State.endRegion (State.markVolatile (touched s (uniAccesses s a ua 128) true ps) s.g.ctx s.g.seq))
      (fun g => { g with acnt := g.acnt + 1 }) = depaddIssued s a ua ps := by
    rw [State.endRegion_eq_regionEnds]
    rfl
  simp only [lookedUp_g, touch_lookedUp, touched_g, hwait, hbusy, hissued, depaddIssued_scnt, State.src_lookedUp,
    Bool.and_false, Bool.false_eq_true, if_false, Option.isSome_none]
  rw [State.unpark_of_none ((depaddIssued_wait s a ua ps).trans hwait)]
  rfl

end

/-- Settles O22: with its checks passed TKT goes on to the group's next round, which it opens, joins, or waits for; DEPADD has
issued, and is outstanding or parks by the stores before it. -/
theorem ticketAndCounterWordsComplete : Obligations.TicketAndCounterWordsComplete := by
  refine ⟨?_, ?_⟩
  · intro s d a b ua ub ps hclosed hready hsound accs halign hstash hclass hprot hsame hbusy addr incr n me taken
    have hexec := exec_tkt_of_accepted hclosed hready hsound halign hstash hclass hprot hsame hbusy
    refine ⟨fun hnone hopen => ?_, fun r hround haddr hincr => ?_, fun hnone hfull => ?_⟩
    · rw [hexec, ticketRound, hnone]
      dsimp only
      rw [if_neg (Nat.not_le.2 hopen), State.takeRound_opener, roundTaken, touched_g]
      rfl
    · rw [hexec, ticketRound, hround]
      dsimp only
      rw [if_neg (not_or.2 ⟨not_not.2 haddr, not_not.2 hincr⟩), State.takeRound_joiner, roundTaken, touched_g]
      rfl
    · rw [hexec, ticketRound, hnone]
      dsimp only
      rw [if_pos hfull]
      rfl
  · intro s d a b ua ub ps hclosed hready hsound accs halign hstash hclass hprot hbusy v u
    have hexec := exec_depadd_of_accepted hclosed hready hsound halign hstash hclass hprot hbusy
    refine ⟨fun hnone => ?_, fun hsome => ?_⟩
    · rw [hexec, if_pos hnone]
      rfl
    · rw [hexec, if_neg hsome]
      rfl

end Sys2Proof.Machine

/-! # SPAWN and SPAWNW (R58, R59, R156, R267, R347) -/

namespace Sys2Proof.Machine

open Rules

/-! ## The state in which the TCB is read -/

section
variable (s : State) (a : RegNo) (ua : Bool) (ps : List Piece)

@[simp] theorem spawnState_g_ctx : (spawnState s a ua ps).g.ctx = s.g.ctx :=
  (congrArg Group.ctx (touched_g s (spawnAccess s a ua) true ps) :)
@[simp] theorem spawnState_g_seq : (spawnState s a ua ps).g.seq = s.g.seq :=
  (congrArg Group.seq (touched_g s (spawnAccess s a ua) true ps) :)
@[simp] theorem spawnState_g_hall : (spawnState s a ua ps).g.hall = s.g.hall :=
  (congrArg Group.hall (touched_g s (spawnAccess s a ua) true ps) :)
@[simp] theorem spawnState_g_wait : (spawnState s a ua ps).g.wait = s.g.wait :=
  (congrArg Group.wait (touched_g s (spawnAccess s a ua) true ps) :)
@[simp] theorem spawnState_g_scnt : (spawnState s a ua ps).g.scnt = s.g.scnt :=
  (congrArg Group.scnt (touched_g s (spawnAccess s a ua) true ps) :)
@[simp] theorem spawnState_g_lcnt : (spawnState s a ua ps).g.lcnt = s.g.lcnt :=
  (congrArg Group.lcnt (touched_g s (spawnAccess s a ua) true ps) :)
@[simp] theorem spawnState_g_acnt : (spawnState s a ua ps).g.acnt = s.g.acnt :=
  (congrArg Group.acnt (touched_g s (spawnAccess s a ua) true ps) :)

end

/-- `spawnInstr` is the word that SPAWN and SPAWNW share. -/
theorem exec_spawnInstr (w : Bool) (d a : RegNo) (ua : Bool) (s : State) :
    exec (spawnInstr w d a ua) s = issue (spawnInstr w d a ua) (fun s => State.spawnWord s w d a ua) s := by
  cases w <;> rfl

section
variable {s : State} {w : Bool} {d a : RegNo} {ua : Bool} {ps : List Piece}

/-- With steps 1 to 3 of R156 passed the word goes on to step 4, the idempotent region ended. -/
theorem State.spawnWord_of_spawnReady (hclosed : Closed s) (hwait : s.g.wait = none) (hspawn : SpawnReady s a ua ps) :
    State.spawnWord s w d a ua =
      Eff.wanting (State.fills s s.g.hall s.g.ctx ((spawnAccess s a ua).map (fun a => (Need.atomic, a))))
        (State.spawnNow (spawnState s a ua ps) w d a ua (spawnTcb s a ua)) := by
  obtain ⟨hsound, halign, hclass, ⟨hloads, hstores, hatomics⟩, -⟩ := hspawn
  refine (State.outside_withSources _ hclosed hsound).trans ?_
  refine (if_neg (not_not.2 halign)).trans ?_
  refine (State.classifiedOnce_of_classified _ hwait hclass).trans ?_
  have hended : State.endRegion (touched s (spawnAccess s a ua) true ps) = spawnState s a ua ps :=
    State.endRegion_eq_regionEnds _
  simp only [lookedUp_g, touch_lookedUp, touched_g, hwait, hended, Option.isSome_none, Bool.false_eq_true, if_false,
    spawnState_g_scnt, spawnState_g_lcnt, spawnState_g_acnt, hloads, hstores, hatomics, and_self, if_true]
  rfl

/-- A word whose steps 4 to 9 end in a state is done there. -/
theorem exec_spawnInstr_of_spawnNow {t : State} (hclosed : Closed s) (hready : Ready s (spawnInstr w d a ua))
    (hspawn : SpawnReady s a ua ps) (h : State.spawnNow (spawnState s a ua ps) w d a ua (spawnTcb s a ua) = .ok t) :
    exec (spawnInstr w d a ua) s = .next (done t) := by
  have hwait := hready.wait_eq_none
  rw [exec_spawnInstr, issue_of_ready _ hclosed hready, State.spawnWord_of_spawnReady hclosed hwait hspawn, h]
  rfl

end

/-! ## Steps 4 to 9 of R156 -/

/-- The queues that `State.spawnNow` turns away are those that do not take the context's posts. -/
theorem queueRefused_iff (s : State) (c q : Nat) :
    (q ≥ Config.queues ∨ (State.queue s q).en = false ∨ (State.queue s q).ctx ≠ c) ↔ ¬ QueueTakes s c q := by
  rw [QueueTakes, ge_iff_le, Config.queues, ← not_lt, ← Bool.not_eq_true]
  tauto

section
variable {s : State} {w : Bool} {d a : RegNo} {ua : Bool} {ps : List Piece}

/-- A queue that does not take the context's posts: the answer is 2. -/
theorem State.spawnNow_of_not_queueTakes (hspawn : SpawnReady s a ua ps)
    (hqueue : ¬ QueueTakes (spawnState s a ua ps) s.g.ctx (spawnQueue s a ua ps)) :
    State.spawnNow (spawnState s a ua ps) w d a ua (spawnTcb s a ua) = .ok (answered (spawnState s a ua ps) d 2) := by
  obtain ⟨-, -, -, -, hclean⟩ := hspawn
  have hnumber : State.tcbField (spawnState s a ua ps) s.g.ctx (spawnTcb s a ua) 0x3C 2 = spawnQueue s a ua ps := rfl
  simp only [State.spawnNow, spawnState_g_ctx, hclean, hnumber, queueRefused_iff, hqueue, Bool.not_true, Bool.false_eq_true, if_false,
    not_false_eq_true, if_true]
  rfl

/-- Steps 5 and 6 passed: SPAWN with no entry to be had answers 1; with an entry, and an interval that is left, the new task is
accepted and the answer is 0. -/
theorem State.spawnNow_of_spawnTaken {k : Task} (hwait : s.g.wait = none) (hspawn : SpawnReady s a ua ps)
    (htaken : SpawnTaken s a ua ps k) :
    (w = false → spawnEntry s a ua ps = none →
      State.spawnNow (spawnState s a ua ps) w d a ua (spawnTcb s a ua) = .ok (answered (spawnState s a ua ps) d 1)) ∧
    ∀ e, spawnEntry s a ua ps = some e → (k.arena = 0 ∨ 2 ≤ (k.keyhi - k.nextKey).toNat / 16) →
      State.spawnNow (spawnState s a ua ps) w d a ua (spawnTcb s a ua) = .ok (answered (spawned s a ua ps k e) d 0) := by
  obtain ⟨-, -, -, -, hclean⟩ := hspawn
  obtain ⟨hqueue, htask, hchild, hpage⟩ := htaken
  have hnumber : State.tcbField (spawnState s a ua ps) s.g.ctx (spawnTcb s a ua) 0x3C 2 = spawnQueue s a ua ps := rfl
  have hentry : State.takeEntry (spawnState s a ua ps) s.g.ctx (spawnQueue s a ua ps) (dieOfHall s.g.hall) none =
    spawnEntry s a ua ps := rfl
  simp only [State.spawnNow, spawnState_g_ctx, spawnState_g_seq, spawnState_g_hall, spawnState_g_wait, hwait, hclean, hnumber, hentry,
    queueRefused_iff, hqueue, htask, hchild, hpage, Option.isSome_none, Bool.not_true, Bool.false_eq_true, if_false,
    not_true_eq_false]
  refine ⟨?_, fun e hsome hroom => ?_⟩
  · rintro rfl hnone
    rw [hnone]
    rfl
  · rw [hsome]
    refine if_neg ?_
    rintro ⟨harena, hwidth⟩
    exact hroom.elim harena (Nat.not_le.2 hwidth)

end

/-- Settles O30: SPAWN and SPAWNW go on to the steps of R156 from the fourth on, which end in one of the three answers. -/
theorem spawnWordsComplete : Obligations.SpawnWordsComplete := by
  refine ⟨fun s d a ua ps k e hclosed hspawn htaken hentry hroom => ?_, fun s d a ua ps hclosed hspawn => ⟨fun hqueue => ?_, ?_⟩⟩
  · have haccepted : ∀ w, Ready s (spawnInstr w d a ua) →
        exec (spawnInstr w d a ua) s = .next (done (answered (spawned s a ua ps k e) d 0)) := fun w hready =>
      exec_spawnInstr_of_spawnNow hclosed hready hspawn
        ((State.spawnNow_of_spawnTaken hready.wait_eq_none hspawn htaken).2 e hentry hroom)
    exact ⟨haccepted false, haccepted true⟩
  · have hrefused : ∀ w, Ready s (spawnInstr w d a ua) →
        exec (spawnInstr w d a ua) s = .next (done (answered (spawnState s a ua ps) d 2)) := fun w hready =>
      exec_spawnInstr_of_spawnNow hclosed hready hspawn (State.spawnNow_of_not_queueTakes hspawn hqueue)
    exact ⟨hrefused false, hrefused true⟩
  · intro k htaken hnone hready
    exact exec_spawnInstr_of_spawnNow (w := false) hclosed hready hspawn
      ((State.spawnNow_of_spawnTaken hready.wait_eq_none hspawn htaken).1 rfl hnone)

end Sys2Proof.Machine

/-! # The newel firmware (R50 to R54, R62, R66 to R70, R324 to R329, R338, R342) -/

namespace Sys2Proof.Machine

open Rules

/-! ## Visits (R51 to R54) -/

/-- A visit out of its turn changes nothing; in its turn it has the effect stated. -/
theorem execQueueVisit_eq (s : State) (q : Nat) : execQueueVisit q s = .next (if VisitDue s q then visited s q else s) := by
  have hnotdue : (State.newelUp s = false ∨ State.nextQueue s (State.queue s q).prio ≠ some q ∨
      State.highest s (State.queue s q).prio = false) ↔ ¬ VisitDue s q := by
    rw [VisitDue, ← Bool.not_eq_true, ← Bool.not_eq_true]
    tauto
  by_cases hdue : VisitDue s q
  · rw [if_pos hdue, execQueueVisit]
    refine (if_neg (fun h => hnotdue.1 h hdue)).trans ?_
    simp only [visited, apply_ite Host.Outcome.next]
  · rw [if_neg hdue, execQueueVisit]
    exact if_pos (hnotdue.2 hdue)

/-! ## Bind records (R66, R67) -/

/-- A bind record has the effect stated: `bound` has the branches of `State.writeBind`. -/
theorem execBindRecordWrite_eq (s : State) (r : BindWrite) : execBindRecordWrite r s = .next (bound s r) := rfl

/-! ## Samples (R62) -/

/-- Each sample has the effect stated. -/
theorem execQueueDeadlockSample_eq (s : State) (q : Nat) : execQueueDeadlockSample q s = .next (deadSample s q) := by
  simp only [execQueueDeadlockSample, deadSample, apply_ite Host.Outcome.next]

/-! ## Retirement (R53, R70, R342) -/

section
variable {s : State} {c seq n : Nat} {t : Task}

/-- A task retires once its last block has, and no page is waited for. -/
theorem execTaskRetire_of_task (ht : State.task? s c seq = some t) :
    execTaskRetire c seq s =
      .next (if Task.complete t = true ∧ State.retireWaits s t = false then State.retireTask s t else s) := by
  rw [execTaskRetire, ht]
  exact next_ite_of_iff (by simp)

/-- A block retires once all its groups have exited. -/
theorem execBlockRetire_of_block {b : Block} (ht : State.task? s c seq = some t) (hb : State.block? s c seq n = some b)
    (hctx : b.ctx = c) (hseq : b.seq = seq) (hblk : b.blk = n) :
    execBlockRetire c seq n s = .next (if State.retiring s b = true then blockRetired s b t else s) := by
  rw [execBlockRetire, hb, ht]
  subst hctx hseq hblk
  exact next_ite_of_iff_not (by simp)

/-! ## Killed gangs (R338) -/

/-- A gang that is to stop begins anew, with its image if it was being saved, or its task fails. -/
theorem execGangKill_of_gang {y : Gang} (ht : State.task? s c seq = some t) (hy : State.gang? s c seq n = some y)
    (hctx : y.ctx = c) (hseq : y.seq = seq) (hidx : y.idx = n) :
    execGangKill c seq n s = .next (if y.stopping = true then gangKilled s y t else s) := by
  rw [execGangKill, hy, ht]
  subst hctx hseq hidx
  have hrelaunch : (t.lr.relaunch && decide (y.relaunches < 3)) = true ↔ t.lr.relaunch = true ∧ y.relaunches < 3 := by simp
  by_cases hstop : y.stopping = true
  · rw [if_pos hstop]
    simp only [hstop, hrelaunch, gangKilled, Bool.true_eq_false, if_false, apply_ite Host.Outcome.next]
  · rw [if_neg hstop]
    exact if_pos (Bool.not_eq_true _ ▸ hstop)

/-! ## Restore (R328, R329) -/

/-- A gang's image is restored, lost, or its records are refused. -/
theorem execRestore_of_image {i : Image} (binds : List BindWrite) (bad : BitVec 2) (ht : State.task? s c seq = some t)
    (hi : s.saved.find? (fun i => i.go && i.gang.ctx == c && i.gang.seq == seq && i.gang.idx == n) = some i) :
    execRestore c seq n binds bad s = .next (
      if bad = 2 then State.killContext s c 0x62
      else if bad = 1 then State.loseImage s i t
      else if State.restoreTarget s i t binds = false then s
      else if State.restoreOk s i t binds = true then State.putBack s i binds
      else State.bindFault s) := by
  rw [execRestore, hi, ht]
  simp only [apply_ite Host.Outcome.next]

/-! ## Pre-emption (R324, R325) -/

/-- A gang that drains and does not stop is bound anew where it is bound in part, and saved once its groups have drained. -/
theorem execPreemptionComplete_of_gang {y : Gang} (hy : State.gang? s c seq n = some y) (hctx : y.ctx = c) (hseq : y.seq = seq)
    (hidx : y.idx = n) :
    execPreemptionComplete c seq n s = .next (
      let b := LaunchRec.blocksPerGang (State.launchOf s c seq)
      let gs := (State.allGroups s).filter (fun g => Group.of g c seq && Group.gang g == n)
      if y.draining = false ∨ y.stopping = true then s
      else if y.bound < y.groups then
        State.resumeFences (State.updGang (State.clearGang s y b) c seq n (fun _ => Gang.anew y)) (gs.map (fun g => g.hall)).eraseDups
      else if gs.all Group.drained = true then savedGang s y b gs
      else s) := by
  rw [execPreemptionComplete, hy]
  subst hctx hseq hidx
  simp only [← Bool.not_eq_true (List.all _ _), ite_not, apply_ite Host.Outcome.next]
  rfl

end

/-- Settles O41: each event by its own equation. That a draining gang bound in part is unbound and bound anew is log entry 27, that
a record for no dispatched group changes nothing log entry 22, and that an event that is not due changes nothing log entry 38: all
three are the model's choice. -/
theorem newelEventsComplete : Obligations.NewelEventsComplete := by
  intro s c seq n
  refine ⟨execQueueVisit_eq s, execBindRecordWrite_eq s, execQueueDeadlockSample_eq s, fun t ht => ⟨?_, ?_, ?_, ?_⟩,
    fun y => execPreemptionComplete_of_gang⟩
  · exact execTaskRetire_of_task ht
  · exact fun b => execBlockRetire_of_block ht
  · exact fun y => execGangKill_of_gang ht
  · exact fun i binds bad => execRestore_of_image binds bad ht

end Sys2Proof.Machine

/-! # The checks of a global load and store (R76, R79, R211, R216, R219)

LD, LDO, ST, STO and MODW make the same checks in the same order; the lemmas say for each check what a word comes to that stops at
it. -/

namespace Sys2Proof.Machine

open Rules

/-- What the checks of a global word depend on. -/
structure GlobalChecks where
  /-- the accesses, one for each active lane -/
  accs : List Access
  /-- the accesses that must be aligned, to a multiple of `bytes` -/
  ordered : List Access
  bytes : Nat
  /-- what the pages must allow -/
  need : Need
  /-- the pieces whose leaf is tested beyond R79, and the property that traps PROT -/
  tested : List Piece → List Piece
  forbidden : DWord → Bool
  /-- the counter that the word raises -/
  counter : Group → Nat

/-- The checks in the order of R219, then the range scoreboard (R211) and the counter (R216), before the word does `k`. -/
def GlobalChecks.before (w : GlobalChecks) (s : State) (k : State → List Piece → Eff) : Eff :=
  State.aligned s w.ordered w.bytes
    (if State.stashWait s then .stall .engq []
     else State.classified s w.need w.accs (fun t ps =>
       State.leafProt t (w.tested ps) w.forbidden (State.accepted t w.accs (w.counter t.g) (k t ps))))

/-! ## The words that make these checks -/

/-- The accesses that the model makes of an address pair are those of the statements. -/
theorem State.accesses_eq_laneAccesses : State.accesses = laneAccesses := by
  funext s a off n
  simp only [State.accesses, laneAccesses, Group.reg64, pair64_eq]
  rfl

/-- The checks of LD and LDO. -/
def loadChecks (s : State) (sz : BitVec 3) (a : RegNo) (off : DWord) (ord : BitVec 2) (last : Bool) : GlobalChecks :=
  { accs := laneAccesses s a off (bytesOf sz),
    ordered := if ord = 0 then [] else laneAccesses s a off (bytesOf sz), bytes := bytesOf sz, need := .load,
    tested := fun ps => if last then ps else [], forbidden := noDiscard, counter := Group.lcnt }

/-- The checks of ST, STO and MODW. -/
def storeChecks (s : State) (sz : BitVec 3) (a : RegNo) (off : DWord) (ord : BitVec 2) (modw : Bool) : GlobalChecks :=
  { accs := laneAccesses s a off (bytesOf sz),
    ordered := if ord = 0 && !modw then [] else laneAccesses s a off (bytesOf sz), bytes := bytesOf sz, need := .store,
    tested := fun ps => ps, forbidden := fun l => Leaf.s l || (modw && !Leaf.m l), counter := Group.scnt }

section
variable {s : State} {sz : BitVec 3} {t a : RegNo} {off : DWord} {scope : BitVec 3} {ord : BitVec 2}

/-- A load with sound sources goes on to the checks of its accesses. -/
theorem State.globalLoad_eq_before {last : Bool} (hlast : (last && State.anyRegion s) = false) (hsound : Sound s (addrSrcs a)) :
    ∃ k, State.globalLoad s sz t a off scope ord last = (loadChecks s sz a off ord last).before s k := by
  obtain ⟨hstrike, hpoison, hformat, hresidue⟩ := hsound
  rw [loadChecks, ← State.accesses_eq_laneAccesses]
  exact ⟨_, (if_neg (Bool.eq_false_iff.1 hlast)).trans (State.withSources_sound s _ _ hstrike hpoison hformat hresidue)⟩

/-- So does a store. -/
theorem State.globalStore_eq_before {modw : Bool} (hsound : Sound s (addrSrcs a ++ dataSrcs t (sizeRegs sz.toNat) [])) :
    ∃ k, State.globalStore s sz t a off scope ord modw = (storeChecks s sz a off ord modw).before s k := by
  obtain ⟨hstrike, hpoison, hformat, hresidue⟩ := hsound
  rw [storeChecks, ← State.accesses_eq_laneAccesses, State.globalStore]
  exact ⟨_, State.withSources_sound s _ _ hstrike hpoison hformat hresidue⟩

/-- LDO without `.last` is issued as its checks say. -/
theorem exec_ldo_eq_before (hclosed : Closed s) (hready : Ready s (.ldo sz t a scope ord false)) (hsound : Sound s (addrSrcs a)) :
    ∃ k, exec (.ldo sz t a scope ord false) s = .next (State.finish s ((loadChecks s sz a 0 ord false).before s k)) := by
  obtain ⟨k, hk⟩ := State.globalLoad_eq_before (sz := sz) (t := t) (off := 0) (scope := scope) (ord := ord) (last := false)
    (Bool.false_and _) hsound
  refine ⟨k, ?_⟩
  show execLdo sz t a scope ord false s = _
  rw [execLdo, issue_of_ready _ hclosed hready, hk]

/-- STO is issued as its checks say. -/
theorem exec_sto_eq_before (hclosed : Closed s) (hready : Ready s (.sto sz t a scope ord))
    (hsound : Sound s (addrSrcs a ++ dataSrcs t (sizeRegs sz.toNat) [])) :
    ∃ k, exec (.sto sz t a scope ord) s = .next (State.finish s ((storeChecks s sz a 0 ord false).before s k)) := by
  obtain ⟨k, hk⟩ := State.globalStore_eq_before (off := 0) (scope := scope) (ord := ord) (modw := false) hsound
  refine ⟨k, ?_⟩
  show execSto sz t a scope ord s = _
  rw [execSto, issue_of_ready _ hclosed hready, hk]

/-- Either is issued as checks of its lanes' accesses say, which find no fault with a leaf whose S is 0. -/
theorem exec_ldo_or_sto_eq_before {i : Instr} {need : Need} {counter : Nat}
    (hword : (i = .ldo sz t a scope ord false ∧ need = .load ∧ counter = s.g.lcnt ∧ Sound s (addrSrcs a)) ∨
      (i = .sto sz t a scope ord ∧ need = .store ∧ counter = s.g.scnt ∧
        Sound s (addrSrcs a ++ dataSrcs t (sizeRegs sz.toNat) [])))
    (hclosed : Closed s) (hready : Ready s i) :
    ∃ w : GlobalChecks, ∃ k, w.accs = laneAccesses s a 0 (bytesOf sz) ∧ w.bytes = bytesOf sz ∧
      w.ordered = (if ord = 0 then [] else laneAccesses s a 0 (bytesOf sz)) ∧ w.need = need ∧ w.counter s.g = counter ∧
      (∀ ps : List Piece, (∀ p ∈ ps, Leaf.s p.leaf = false) → ∀ p ∈ w.tested ps, w.forbidden p.leaf = false) ∧
      exec i s = .next (State.finish s (w.before s k)) := by
  rcases hword with ⟨rfl, rfl, rfl, hsound⟩ | ⟨rfl, rfl, rfl, hsound⟩
  case inl =>
    obtain ⟨k, hexec⟩ := exec_ldo_eq_before hclosed hready hsound
    exact ⟨_, k, rfl, rfl, rfl, rfl, rfl, fun ps _ p hp => absurd hp List.not_mem_nil, hexec⟩
  case inr =>
    obtain ⟨k, hexec⟩ := exec_sto_eq_before hclosed hready hsound
    refine ⟨_, k, rfl, rfl, ?_, rfl, rfl, fun ps hps p hp => ?_, hexec⟩
    · simp [storeChecks]
    · simpa [storeChecks] using hps p hp

end

/-! ## What stops at a check -/

/-- A classification that traps traps the word, its pages looked up. -/
theorem State.classified_of_trap {s : State} {need : Need} {accs : List Access} {c : Cause} {m : Mask} {x : DWord}
    (k : State → List Piece → Eff) (h : State.classify (lookedUp s accs) s.g.hall s.g.ctx need accs = .trap c m x) :
    State.classified s need accs k = .trap (lookedUp s accs) c m x := by
  rw [State.classify] at h
  simp only [State.classified, State.classifiedAll, lookUp_eq_lookedUp, h]

/-- A page fault likewise. -/
theorem State.classified_of_fault {s : State} {need : Need} {accs : List Access} {pages : List Nat}
    (k : State → List Piece → Eff) (h : State.classify (lookedUp s accs) s.g.hall s.g.ctx need accs = .fault pages) :
    State.classified s need accs k = .fault (lookedUp s accs) pages := by
  rw [State.classify] at h
  simp only [State.classified, State.classifiedAll, lookUp_eq_lookedUp, h]

/-- A migrating page makes the word wait, and leaves the pages to the walker. -/
theorem State.classified_of_migrating {s : State} {need : Need} {accs : List Access} (k : State → List Piece → Eff)
    (h : State.classify (lookedUp s accs) s.g.hall s.g.ctx need accs = .migrating) :
    State.classified s need accs k = .stall .xlate (State.fills s s.g.hall s.g.ctx (accs.map (fun a => (need, a)))) := by
  rw [State.classify] at h
  simp only [State.classified, State.classifiedAll, lookUp_eq_lookedUp, h]

/-- An overlap in the range scoreboard comes first. -/
theorem State.accepted_of_rangeHit {t : State} {accs : List Access} (counter : Nat) (k : Eff)
    (h : State.rangeHit t accs = true) : State.accepted t accs counter k = .stall .range [] :=
  if_pos h

/-- Then a full counter, or a hall with no request free. -/
theorem State.accepted_of_busyPipe {t : State} {accs : List Access} {counter : Nat} (k : Eff)
    (hrange : State.rangeHit t accs = false) (hbusy : State.busyPipe t counter = true) :
    State.accepted t accs counter k = .stall .pipebusy [] :=
  (if_neg (Bool.eq_false_iff.1 hrange)).trans (if_pos hbusy)

namespace GlobalChecks
section
variable {w : GlobalChecks} {s : State} {k : State → List Piece → Eff}

/-- A misaligned access traps before everything else. -/
theorem before_of_misaligned {m : Mask} {x : DWord} (h : lanesWhere w.ordered (fun y => y.addr.toNat % w.bytes != 0) = some (m, x)) :
    w.before s k = .trap s .align m x := by
  rw [before, State.aligned, h]

/-- Aligned accesses go on to the classification. -/
theorem before_of_aligned (halign : Aligned w.ordered w.bytes) (hstash : State.stashWait s = false) :
    w.before s k = State.classified s w.need w.accs (fun t ps =>
      State.leafProt t (w.tested ps) w.forbidden (State.accepted t w.accs (w.counter t.g) (k t ps))) :=
  (State.aligned_ok s w.ordered w.bytes _ halign).trans (if_neg (Bool.eq_false_iff.1 hstash))

/-- With the pages and leaves as the word needs them the scoreboard and the counter are left; a word that these hold leaves its
pages to the walker. -/
theorem before_of_classified {ps : List Piece} (halign : Aligned w.ordered w.bytes) (hstash : State.stashWait s = false)
    (hclass : Classified s w.need w.accs ps) (hleaf : ∀ p ∈ w.tested ps, w.forbidden p.leaf = false) :
    w.before s k = Eff.wanting (State.fills s s.g.hall s.g.ctx (w.accs.map (fun a => (w.need, a))))
      (State.accepted (lookedUp s w.accs) w.accs (w.counter s.g) (k (lookedUp s w.accs) ps)) := by
  rw [before_of_aligned halign hstash, State.classified_of_classified _ hclass, State.leafProt_ok _ _ _ _ hleaf, lookedUp_g]

end
end GlobalChecks

/-- Settles O23: LDO and STO are issued as their checks say, and each clause is the check at which the word stops. -/
theorem globalAccessChecksInOrder : Obligations.GlobalAccessChecksInOrder := by
  intro s sz t a scope ord i need counter hword hclosed hready hstash accs
  obtain ⟨w, k, haccs, hbytes, hordered, rfl, rfl, hleaf, hexec⟩ := exec_ldo_or_sto_eq_before hword hclosed hready
  have hwait := hready.wait_eq_none
  change w.accs = accs at haccs
  rw [hexec]
  refine ⟨fun m x hord hmis => ?misaligned, fun halign => ?_⟩
  case misaligned =>
    rw [GlobalChecks.before_of_misaligned (by rw [hordered, if_neg hord, hbytes]; exact hmis), State.finish_trap _ _ _ _ _ hwait]
  have halign : Aligned w.ordered w.bytes := by
    rw [hordered, hbytes]
    by_cases hord : ord = 0
    · rw [if_pos hord]
      exact fun x hx => absurd hx List.not_mem_nil
    · rw [if_neg hord]
      exact halign hord
  rw [← haccs]
  refine ⟨fun c m x hclass => ?trap, fun pages hclass => ?fault, fun hclass => ?migrating, fun ps hclass hps hrange => ?range,
    fun ps hclass hps hrange hbusy => ?pipebusy⟩
  case trap =>
    rw [GlobalChecks.before_of_aligned halign hstash, State.classified_of_trap _ hclass,
      State.finish_trap _ _ _ _ _ (by rw [lookedUp_g, hwait]), lookedUp_cur]
  case fault =>
    rw [GlobalChecks.before_of_aligned halign hstash, State.classified_of_fault _ hclass, State.finish, lookedUp_g]
    rfl
  case migrating =>
    rw [GlobalChecks.before_of_aligned halign hstash, State.classified_of_migrating _ hclass]
    rfl
  case range =>
    rw [GlobalChecks.before_of_classified halign hstash hclass (hleaf ps hps), State.accepted_of_rangeHit _ _ hrange]
    rfl
  case pipebusy =>
    rw [GlobalChecks.before_of_classified halign hstash hclass (hleaf ps hps), State.accepted_of_busyPipe _ hrange hbusy]
    rfl

end Sys2Proof.Machine

/-! # Encodings (R88, R95, R98, R100 to R103) -/

namespace Sys2Proof.Laws.RoundTrip

/-- A step of another agent has no word. -/
theorem statement_of_encode_eq_none {i : Instr} (h : encode i = none) : Statement i := by
  intro c w hw
  simp [encodeChainWord, h] at hw

/-- Every word of every instruction decodes to it: each instruction word by its own lemma. -/
theorem statement (i : Instr) : Statement i := by
  cases i with
  | nop => exact nop | iadd => exact iadd _ _ _ _ | isub => exact isub _ _ _ _ | imul => exact imul _ _ _ _
  | imulhS => exact imulhS _ _ _ _ | imulhZ => exact imulhZ _ _ _ _ | imad => exact imad _ _ _ _ | imin => exact imin _ _ _ _ _
  | imax => exact imax _ _ _ _ _ | iabs => exact iabs _ _ | and => exact and _ _ _ _ | or => exact or _ _ _ _
  | xor => exact xor _ _ _ _ | andn => exact andn _ _ _ _ | shl => exact shl _ _ _ _ | shr => exact shr _ _ _ _
  | sha => exact sha _ _ _ _ | popc => exact popc _ _ | clz => exact clz _ _ | brev => exact brev _ _
  | bfx => exact bfx _ _ _ _ _ | bfi => exact bfi _ _ _ _ | icmp => exact icmp _ _ _ _ | sel => exact sel _ _ _ _
  | a64 => exact a64 _ _ _ _ | a64s => exact a64s _ _ _ _ _ | shfl => exact shfl _ _ _ _ _ | vany => exact vany _ _ _ _
  | vall => exact vall _ _ _ _ | vbal => exact vbal _ _ _ _ | radd => exact radd _ _ _ _ | rmin => exact rmin _ _
  | rmax => exact rmax _ _ | idp4 => exact idp4 _ _ _ _ _ | iaddi => exact iaddi _ _ _ | andi => exact andi _ _ _
  | ori => exact ori _ _ _ | xori => exact xori _ _ _ | shli => exact shli _ _ _ | shri => exact shri _ _ _
  | shai => exact shai _ _ _ | icmpi => exact icmpi _ _ _ _ | a64i => exact a64i _ _ _ | li => exact li _ _
  | lih => exact lih _ _ | cbsel => exact cbsel _ | fadd => exact fadd _ _ _ _ _ | fsub => exact fsub _ _ _ _ _
  | fmul => exact fmul _ _ _ _ _ | ffma => exact ffma _ _ _ _ _ | ffms => exact ffms _ _ _ _ _ | fmin => exact fmin _ _ _ _
  | fmax => exact fmax _ _ _ _ | fneg => exact fneg _ _ | fabs => exact fabs _ _ | fcpsgn => exact fcpsgn _ _ _ _
  | fcmp => exact fcmp _ _ _ _ | fsqrt => exact fsqrt _ _ _ | frcp => exact frcp _ _ | frsq => exact frsq _ _
  | fexp2 => exact fexp2 _ _ | flog2 => exact flog2 _ _ | ftanh => exact ftanh _ _ | hadd2 => exact hadd2 _ _ _ _ _
  | hmul2 => exact hmul2 _ _ _ _ _ | hfma2 => exact hfma2 _ _ _ _ _ | hmax2 => exact hmax2 _ _ _ _ | cvtf => exact cvtf _ _ _ _
  | cvti => exact cvti _ _ _ _ | cvtfi => exact cvtfi _ _ _ _ | pk2 => exact pk2 _ _ _ _ | pk4 => exact pk4 _ _ _ _
  | unpk2 => exact unpk2 _ _ _ | unpk4 => exact unpk4 _ _ _ | dqcb => exact dqcb _ _ _ _ | dqe2 => exact dqe2 _ _ _ _
  | qcb => exact qcb _ _ _ | qe2 => exact qe2 _ _ _ | tagrd => exact tagrd _ _ | tagset => exact tagset _ _ _
  | ld => exact ld _ _ _ _ | st => exact st _ _ _ _ | ldo => exact ldo _ _ _ _ _ _ | sto => exact sto _ _ _ _ _
  | ldl => exact ldl _ _ _ _ | stl => exact stl _ _ _ _ | ldcb => exact ldcb _ _ _ | modw => exact modw _ _ _ _ _
  | aadd => exact aadd _ _ _ _ _ | amin => exact amin _ _ _ _ _ _ | amax => exact amax _ _ _ _ _ _
  | aand => exact aand _ _ _ _ _ | aor => exact aor _ _ _ _ _ | axor => exact axor _ _ _ _ _ | axch => exact axch _ _ _ _ _
  | acas => exact acas _ _ _ _ _ | acasQ => exact acasQ _ _ _ _ | afadd => exact afadd _ _ _ _ | tkt => exact tkt _ _ _ _ _
  | depadd => exact depadd _ _ _ _ _ | cpy => exact cpy _ _ _ _ _ | cpyt => exact cpyt _ _ _ _ _ | cpyg => exact cpyg _ _ _ _ _
  | cpyw => exact cpyw _ _ _ _ _ | pub => exact pub _ _ | disc => exact disc _ _ _ _ | pref => exact pref _ _ _ _
  | smap => exact smap _ _ _ _ | sflush => exact sflush _ _ _ _ | sdrop => exact sdrop _ _ | tilev => exact tilev _ _ _ _
  | tilec => exact tilec _ _ _ _ | tileclr => exact tileclr _ _ _ _ | coll => exact coll _ _ _ _ _ | br => exact br _ _ _
  | brz => exact brz _ _ _ | jmp => exact jmp _ _ | call => exact call _ _ _ | rbeg => exact rbeg _ _ _ | jr => exact jr _ _
  | ret => exact ret _ _ | exit => exact exit | yield => exact yield | idem => exact idem | tret => exact tret
  | tabn => exact tabn | tkill => exact tkill | rcmt => exact rcmt | rabt => exact rabt | rds => exact rds _ _
  | wrs => exact wrs _ _ | regclm => exact regclm _ | regrel => exact regrel _ | spawn => exact spawn _ _ _
  | spawnw => exact spawnw _ _ _ | waitc => exact waitc _ _ | phreg => exact phreg _ _ _ | phmode => exact phmode _ _ _
  | phdrop => exact phdrop _ _ | phsig => exact phsig _ _ | phwait => exact phwait _ _ | phnext => exact phnext _ _
  | rngi => exact rngi _ _ | rngw => exact rngw _ _ | rngs => exact rngs _ _ | rstat => exact rstat _
  | cstat => exact cstat _ _ _ _ _ | trap => exact trap _ | brk => exact brk _ | prop => exact prop _ _
  | trctl => exact trctl _ _ _ | tkey => exact tkey _ | mmqBf16 => exact mmqBf16 _ _ _ _ | mmqF16 => exact mmqF16 _ _ _ _
  | mmqE4m3 => exact mmqE4m3 _ _ _ _ | mmqE5m2 => exact mmqE5m2 _ _ _ _ | mmqI8 => exact mmqI8 _ _ _ _
  | mmqCb4 => exact mmqCb4 _ _ _ _ | mmqCbbf => exact mmqCbbf _ _ _ _ | mmqE2m1 => exact mmqE2m1 _ _ _ _ _ | mmz => exact mmz _
  | mmrd => exact mmrd _ _ | mmwr => exact mmwr _ _ | mmst => exact mmst _ _ | mmld => exact mmld _ _
  | _ => exact statement_of_encode_eq_none rfl

end Sys2Proof.Laws.RoundTrip

namespace Sys2Proof.Machine

open Rules

/-- Settles O44: the chain bit is added to the word that the table gives, and each instruction's words decode to it. -/
theorem encodedWordsDecode : Obligations.EncodedWordsDecode := by
  rintro i c ⟨w, hw⟩
  have henc : encodeChainWord ⟨c, i⟩ = some (w + bitOf c * 2147483648) := by simp [encodeChainWord, hw]
  exact ⟨_, henc, Laws.RoundTrip.statement i c _ henc⟩

/-- Settles O47: each word of the list is decoded. -/
theorem specWordsDecode : Obligations.SpecWordsDecode := by
  unfold Obligations.SpecWordsDecode
  and_intros <;> rfl

/-! # The checks of a word, in their order (R91, R92, R96, R104, R115 to R118) -/

/-! ## Every instruction word issues (R104) -/

/-- The meaning of an instruction word is what `issue` makes of its entry. -/
theorem exec_eq_issue {i : Instr} {w : Nat} (h : encode i = some w) : ∃ body, ∀ s, exec i s = issue i body s := by
  cases i with
  | post | qcfgWrite | qovfbaseWrite | qovfszWrite | qrbaseWrite | registerWrite | attestationGo | attestationReportReady
  | readHealthSummary | readPower | readTemperature | requestReport | readReport | setPowerStateP0 | setPowerStateP1
  | setPowerStateP2 | setPowerStateOff | setdasa | powerStateExitComplete | enterP1 | packageReset | bootLoadFirstStage
  | bootLoadNewelFirmware | bootLoadCollectiveMicrocode | bootRelease | firmwareReload | thermalSet | thermalClear
  | thermalShutdown | contextCreate | setTrapBase | setWayQuota | defineCollectiveSet | setGranuleTags | shootdownRequest
  | shootdownComplete | contextKill | queueVisit | bindRecordWrite | preemptionComplete | restore | blockRetire | taskRetire
  | queueDeadlockSample | packetFetchFill | tlbWalkComplete | pageResident | migrationStart | migrationComplete | loadReturn
  | storePerformed | atomicPerformed | copyCommandRetire | cpygRowGather | pubInstant | pubRetire | mmqRetire | regionRestart
  | commitTimeout | relabel | staleTaskRestart | propagationComplete | partialValueReceive | chunkAck | collectiveComplete
  | collectiveFail | linkDownDeclare | linkTableUpdate | treeSetRecompute | lockstepIntervalCompare | lockstepDecisionApply
  | errorCorrected | scoreDecay | unitTestComplete | uncorrectableError | gangKill | lockstepDivergeClear | debugRightWrite
  | haltGroup | resumeGroup | stepGroup | haltContext | resumeContext | traceGroupOn | traceGroupOff | selectGroup | traceAllOn
  | traceAllOff | dump | coreDump | groupViewEdit | smpcfgWrite | sampleFire | rpctlWrite | replayRelease | unlistedI3cCommand
  | setPowerStateOtherByte | linkUp | lockstepBridgeTrained | lockstepBridgeLost | contextDestroy | hostAccess | tagVerdict
  | collAccept | cstatAnswer | propAnswer | commitOutcome | stashCommandDone | sliceRehomingDone | chunkBroadcastReceive => cases h
  | nop => exact ⟨_, fun s => show execNop s = _ from rfl⟩
  | iadd => exact ⟨_, fun s => show execIadd _ _ _ _ s = _ from rfl⟩
  | isub => exact ⟨_, fun s => show execIsub _ _ _ _ s = _ from rfl⟩
  | imul => exact ⟨_, fun s => show execImul _ _ _ _ s = _ from rfl⟩
  | imulhS => exact ⟨_, fun s => show execImulhS _ _ _ _ s = _ from rfl⟩
  | imulhZ => exact ⟨_, fun s => show execImulhZ _ _ _ _ s = _ from rfl⟩
  | imad => exact ⟨_, fun s => show execImad _ _ _ _ s = _ from rfl⟩
  | imin => exact ⟨_, fun s => show execImin _ _ _ _ _ s = _ from rfl⟩
  | imax => exact ⟨_, fun s => show execImax _ _ _ _ _ s = _ from rfl⟩
  | iabs => exact ⟨_, fun s => show execIabs _ _ s = _ from rfl⟩
  | and => exact ⟨_, fun s => show execAnd _ _ _ _ s = _ from rfl⟩
  | or => exact ⟨_, fun s => show execOr _ _ _ _ s = _ from rfl⟩
  | xor => exact ⟨_, fun s => show execXor _ _ _ _ s = _ from rfl⟩
  | andn => exact ⟨_, fun s => show execAndn _ _ _ _ s = _ from rfl⟩
  | shl => exact ⟨_, fun s => show execShl _ _ _ _ s = _ from rfl⟩
  | shr => exact ⟨_, fun s => show execShr _ _ _ _ s = _ from rfl⟩
  | sha => exact ⟨_, fun s => show execSha _ _ _ _ s = _ from rfl⟩
  | popc => exact ⟨_, fun s => show execPopc _ _ s = _ from rfl⟩
  | clz => exact ⟨_, fun s => show execClz _ _ s = _ from rfl⟩
  | brev => exact ⟨_, fun s => show execBrev _ _ s = _ from rfl⟩
  | bfx => exact ⟨_, fun s => show execBfx _ _ _ _ _ s = _ from rfl⟩
  | bfi => exact ⟨_, fun s => show execBfi _ _ _ _ s = _ from rfl⟩
  | icmp => exact ⟨_, fun s => show execIcmp _ _ _ _ s = _ from rfl⟩
  | sel => exact ⟨_, fun s => show execSel _ _ _ _ s = _ from rfl⟩
  | a64 => exact ⟨_, fun s => show execA64 _ _ _ _ s = _ from rfl⟩
  | a64s => exact ⟨_, fun s => show execA64s _ _ _ _ _ s = _ from rfl⟩
  | shfl => exact ⟨_, fun s => show execShfl _ _ _ _ _ s = _ from rfl⟩
  | vany => exact ⟨_, fun s => show execVany _ _ _ _ s = _ from rfl⟩
  | vall => exact ⟨_, fun s => show execVall _ _ _ _ s = _ from rfl⟩
  | vbal => exact ⟨_, fun s => show execVbal _ _ _ _ s = _ from rfl⟩
  | radd => exact ⟨_, fun s => show execRadd _ _ _ _ s = _ from rfl⟩
  | rmin => exact ⟨_, fun s => show execRmin _ _ s = _ from rfl⟩
  | rmax => exact ⟨_, fun s => show execRmax _ _ s = _ from rfl⟩
  | idp4 => exact ⟨_, fun s => show execIdp4 _ _ _ _ _ s = _ from rfl⟩
  | iaddi => exact ⟨_, fun s => show execIaddi _ _ _ s = _ from rfl⟩
  | andi => exact ⟨_, fun s => show execAndi _ _ _ s = _ from rfl⟩
  | ori => exact ⟨_, fun s => show execOri _ _ _ s = _ from rfl⟩
  | xori => exact ⟨_, fun s => show execXori _ _ _ s = _ from rfl⟩
  | shli => exact ⟨_, fun s => show execShli _ _ _ s = _ from rfl⟩
  | shri => exact ⟨_, fun s => show execShri _ _ _ s = _ from rfl⟩
  | shai => exact ⟨_, fun s => show execShai _ _ _ s = _ from rfl⟩
  | icmpi => exact ⟨_, fun s => show execIcmpi _ _ _ _ s = _ from rfl⟩
  | a64i => exact ⟨_, fun s => show execA64i _ _ _ s = _ from rfl⟩
  | li => exact ⟨_, fun s => show execLi _ _ s = _ from rfl⟩
  | lih => exact ⟨_, fun s => show execLih _ _ s = _ from rfl⟩
  | cbsel => exact ⟨_, fun s => show execCbsel _ s = _ from rfl⟩
  | fadd => exact ⟨_, fun s => show execFadd _ _ _ _ _ s = _ from rfl⟩
  | fsub => exact ⟨_, fun s => show execFsub _ _ _ _ _ s = _ from rfl⟩
  | fmul => exact ⟨_, fun s => show execFmul _ _ _ _ _ s = _ from rfl⟩
  | ffma => exact ⟨_, fun s => show execFfma _ _ _ _ _ s = _ from rfl⟩
  | ffms => exact ⟨_, fun s => show execFfms _ _ _ _ _ s = _ from rfl⟩
  | fmin => exact ⟨_, fun s => show execFmin _ _ _ _ s = _ from rfl⟩
  | fmax => exact ⟨_, fun s => show execFmax _ _ _ _ s = _ from rfl⟩
  | fneg => exact ⟨_, fun s => show execFneg _ _ s = _ from rfl⟩
  | fabs => exact ⟨_, fun s => show execFabs _ _ s = _ from rfl⟩
  | fcpsgn => exact ⟨_, fun s => show execFcpsgn _ _ _ _ s = _ from rfl⟩
  | fcmp => exact ⟨_, fun s => show execFcmp _ _ _ _ s = _ from rfl⟩
  | fsqrt => exact ⟨_, fun s => show execFsqrt _ _ _ s = _ from rfl⟩
  | frcp => exact ⟨_, fun s => show execFrcp _ _ s = _ from rfl⟩
  | frsq => exact ⟨_, fun s => show execFrsq _ _ s = _ from rfl⟩
  | fexp2 => exact ⟨_, fun s => show execFexp2 _ _ s = _ from rfl⟩
  | flog2 => exact ⟨_, fun s => show execFlog2 _ _ s = _ from rfl⟩
  | ftanh => exact ⟨_, fun s => show execFtanh _ _ s = _ from rfl⟩
  | hadd2 => exact ⟨_, fun s => show execHadd2 _ _ _ _ _ s = _ from rfl⟩
  | hmul2 => exact ⟨_, fun s => show execHmul2 _ _ _ _ _ s = _ from rfl⟩
  | hfma2 => exact ⟨_, fun s => show execHfma2 _ _ _ _ _ s = _ from rfl⟩
  | hmax2 => exact ⟨_, fun s => show execHmax2 _ _ _ _ s = _ from rfl⟩
  | cvtf => exact ⟨_, fun s => show execCvtf _ _ _ _ s = _ from rfl⟩
  | cvti => exact ⟨_, fun s => show execCvti _ _ _ _ s = _ from rfl⟩
  | cvtfi => exact ⟨_, fun s => show execCvtfi _ _ _ _ s = _ from rfl⟩
  | pk2 => exact ⟨_, fun s => show execPk2 _ _ _ _ s = _ from rfl⟩
  | pk4 => exact ⟨_, fun s => show execPk4 _ _ _ _ s = _ from rfl⟩
  | unpk2 => exact ⟨_, fun s => show execUnpk2 _ _ _ s = _ from rfl⟩
  | unpk4 => exact ⟨_, fun s => show execUnpk4 _ _ _ s = _ from rfl⟩
  | dqcb => exact ⟨_, fun s => show execDqcb _ _ _ _ s = _ from rfl⟩
  | dqe2 => exact ⟨_, fun s => show execDqe2 _ _ _ _ s = _ from rfl⟩
  | qcb => exact ⟨_, fun s => show execQcb _ _ _ s = _ from rfl⟩
  | qe2 => exact ⟨_, fun s => show execQe2 _ _ _ s = _ from rfl⟩
  | tagrd => exact ⟨_, fun s => show execTagrd _ _ s = _ from rfl⟩
  | tagset => exact ⟨_, fun s => show execTagset _ _ _ s = _ from rfl⟩
  | ld => exact ⟨_, fun s => show execLd _ _ _ _ s = _ from rfl⟩
  | st => exact ⟨_, fun s => show execSt _ _ _ _ s = _ from rfl⟩
  | ldo => exact ⟨_, fun s => show execLdo _ _ _ _ _ _ s = _ from rfl⟩
  | sto => exact ⟨_, fun s => show execSto _ _ _ _ _ s = _ from rfl⟩
  | ldl => exact ⟨_, fun s => show execLdl _ _ _ _ s = _ from rfl⟩
  | stl => exact ⟨_, fun s => show execStl _ _ _ _ s = _ from rfl⟩
  | ldcb => exact ⟨_, fun s => show execLdcb _ _ _ s = _ from rfl⟩
  | modw => exact ⟨_, fun s => show execModw _ _ _ _ _ s = _ from rfl⟩
  | aadd => exact ⟨_, fun s => show execAadd _ _ _ _ _ s = _ from rfl⟩
  | amin => exact ⟨_, fun s => show execAmin _ _ _ _ _ _ s = _ from rfl⟩
  | amax => exact ⟨_, fun s => show execAmax _ _ _ _ _ _ s = _ from rfl⟩
  | aand => exact ⟨_, fun s => show execAand _ _ _ _ _ s = _ from rfl⟩
  | aor => exact ⟨_, fun s => show execAor _ _ _ _ _ s = _ from rfl⟩
  | axor => exact ⟨_, fun s => show execAxor _ _ _ _ _ s = _ from rfl⟩
  | axch => exact ⟨_, fun s => show execAxch _ _ _ _ _ s = _ from rfl⟩
  | acas => exact ⟨_, fun s => show execAcas _ _ _ _ _ s = _ from rfl⟩
  | acasQ => exact ⟨_, fun s => show execAcasQ _ _ _ _ s = _ from rfl⟩
  | afadd => exact ⟨_, fun s => show execAfadd _ _ _ _ s = _ from rfl⟩
  | tkt => exact ⟨_, fun s => show execTkt _ _ _ _ _ s = _ from rfl⟩
  | depadd => exact ⟨_, fun s => show execDepadd _ _ _ _ _ s = _ from rfl⟩
  | cpy => exact ⟨_, fun s => show execCpy _ _ _ _ _ s = _ from rfl⟩
  | cpyt => exact ⟨_, fun s => show execCpyt _ _ _ _ _ s = _ from rfl⟩
  | cpyg => exact ⟨_, fun s => show execCpyg _ _ _ _ _ s = _ from rfl⟩
  | cpyw => exact ⟨_, fun s => show execCpyw _ _ _ _ _ s = _ from rfl⟩
  | pub => exact ⟨_, fun s => show execPub _ _ s = _ from rfl⟩
  | disc => exact ⟨_, fun s => show execDisc _ _ _ _ s = _ from rfl⟩
  | pref => exact ⟨_, fun s => show execPref _ _ _ _ s = _ from rfl⟩
  | smap => exact ⟨_, fun s => show execSmap _ _ _ _ s = _ from rfl⟩
  | sflush => exact ⟨_, fun s => show execSflush _ _ _ _ s = _ from rfl⟩
  | sdrop => exact ⟨_, fun s => show execSdrop _ _ s = _ from rfl⟩
  | tilev => exact ⟨_, fun s => show execTilev _ _ _ _ s = _ from rfl⟩
  | tilec => exact ⟨_, fun s => show execTilec _ _ _ _ s = _ from rfl⟩
  | tileclr => exact ⟨_, fun s => show execTileclr _ _ _ _ s = _ from rfl⟩
  | coll => exact ⟨_, fun s => show execColl _ _ _ _ _ s = _ from rfl⟩
  | br => exact ⟨_, fun s => show execBr _ _ _ s = _ from rfl⟩
  | brz => exact ⟨_, fun s => show execBrz _ _ _ s = _ from rfl⟩
  | jmp => exact ⟨_, fun s => show execJmp _ _ s = _ from rfl⟩
  | call => exact ⟨_, fun s => show execCall _ _ _ s = _ from rfl⟩
  | rbeg => exact ⟨_, fun s => show execRbeg _ _ _ s = _ from rfl⟩
  | jr => exact ⟨_, fun s => show execJr _ _ s = _ from rfl⟩
  | ret => exact ⟨_, fun s => show execRet _ _ s = _ from rfl⟩
  | exit => exact ⟨_, fun s => show execExit s = _ from rfl⟩
  | yield => exact ⟨_, fun s => show execYield s = _ from rfl⟩
  | idem => exact ⟨_, fun s => show execIdem s = _ from rfl⟩
  | tret => exact ⟨_, fun s => show execTret s = _ from rfl⟩
  | tabn => exact ⟨_, fun s => show execTabn s = _ from rfl⟩
  | tkill => exact ⟨_, fun s => show execTkill s = _ from rfl⟩
  | rcmt => exact ⟨_, fun s => show execRcmt s = _ from rfl⟩
  | rabt => exact ⟨_, fun s => show execRabt s = _ from rfl⟩
  | rds => exact ⟨_, fun s => show execRds _ _ s = _ from rfl⟩
  | wrs => exact ⟨_, fun s => show execWrs _ _ s = _ from rfl⟩
  | regclm => exact ⟨_, fun s => show execRegclm _ s = _ from rfl⟩
  | regrel => exact ⟨_, fun s => show execRegrel _ s = _ from rfl⟩
  | spawn => exact ⟨_, fun s => show execSpawn _ _ _ s = _ from rfl⟩
  | spawnw => exact ⟨_, fun s => show execSpawnw _ _ _ s = _ from rfl⟩
  | waitc => exact ⟨_, fun s => show execWaitc _ _ s = _ from rfl⟩
  | phreg => exact ⟨_, fun s => show execPhreg _ _ _ s = _ from rfl⟩
  | phmode => exact ⟨_, fun s => show execPhmode _ _ _ s = _ from rfl⟩
  | phdrop => exact ⟨_, fun s => show execPhdrop _ _ s = _ from rfl⟩
  | phsig => exact ⟨_, fun s => show execPhsig _ _ s = _ from rfl⟩
  | phwait => exact ⟨_, fun s => show execPhwait _ _ s = _ from rfl⟩
  | phnext => exact ⟨_, fun s => show execPhnext _ _ s = _ from rfl⟩
  | rngi => exact ⟨_, fun s => show execRngi _ _ s = _ from rfl⟩
  | rngw => exact ⟨_, fun s => show execRngw _ _ s = _ from rfl⟩
  | rngs => exact ⟨_, fun s => show execRngs _ _ s = _ from rfl⟩
  | rstat => exact ⟨_, fun s => show execRstat _ s = _ from rfl⟩
  | cstat => exact ⟨_, fun s => show execCstat _ _ _ _ _ s = _ from rfl⟩
  | trap => exact ⟨_, fun s => show execTrap _ s = _ from rfl⟩
  | brk => exact ⟨_, fun s => show execBrk _ s = _ from rfl⟩
  | prop => exact ⟨_, fun s => show execProp _ _ s = _ from rfl⟩
  | trctl => exact ⟨_, fun s => show execTrctl _ _ _ s = _ from rfl⟩
  | tkey => exact ⟨_, fun s => show execTkey _ s = _ from rfl⟩
  | mmqBf16 => exact ⟨_, fun s => show execMmqBf16 _ _ _ _ s = _ from rfl⟩
  | mmqF16 => exact ⟨_, fun s => show execMmqF16 _ _ _ _ s = _ from rfl⟩
  | mmqE4m3 => exact ⟨_, fun s => show execMmqE4m3 _ _ _ _ s = _ from rfl⟩
  | mmqE5m2 => exact ⟨_, fun s => show execMmqE5m2 _ _ _ _ s = _ from rfl⟩
  | mmqI8 => exact ⟨_, fun s => show execMmqI8 _ _ _ _ s = _ from rfl⟩
  | mmqCb4 => exact ⟨_, fun s => show execMmqCb4 _ _ _ _ s = _ from rfl⟩
  | mmqCbbf => exact ⟨_, fun s => show execMmqCbbf _ _ _ _ s = _ from rfl⟩
  | mmqE2m1 => exact ⟨_, fun s => show execMmqE2m1 _ _ _ _ _ s = _ from rfl⟩
  | mmz => exact ⟨_, fun s => show execMmz _ s = _ from rfl⟩
  | mmrd => exact ⟨_, fun s => show execMmrd _ _ s = _ from rfl⟩
  | mmwr => exact ⟨_, fun s => show execMmwr _ _ s = _ from rfl⟩
  | mmst => exact ⟨_, fun s => show execMmst _ _ s = _ from rfl⟩
  | mmld => exact ⟨_, fun s => show execMmld _ _ s = _ from rfl⟩

/-! ## The checks before the entry (R91, R104) -/

/-- The model's test of pending registers. -/
theorem State.regWait_iff (s : State) (i : Instr) : State.regWait s i = true ↔ NamesPending s i := by
  simp [State.regWait, NamesPending]

/-- The model's test of the registers and the tile against the allocation. -/
theorem beyondAllocation_iff (s : State) (i : Instr) :
    ((Instr.regs i).any (fun n => decide (n ≥ 8 * s.g.regn)) ||
        (Instr.tileOf i).any (fun k => decide (k ≥ s.g.accN))) = true ↔
      BeyondAllocation s i := by
  simp [BeyondAllocation, Option.any_eq_true]

/-- The model's test of the role. -/
theorem wrongRole_iff (s : State) (i : Instr) :
    (!s.g.trapMode && !Role.admits s.g.role (Instr.major i)) = true ↔ WrongRole s i := by
  simp [WrongRole]

/-- The model's test of the checking scoreboard. -/
theorem tooEarly_iff (s : State) (i : Instr) :
    (State.checking s && State.unlanded s (Instr.regs i)) = true ↔ TooEarly s i := by
  simp [TooEarly, State.unlanded, and_assoc]

/-- The first check that fails is the one that the model finds. -/
theorem State.wordCheck_of_failsFirst {s : State} {i : Instr} {c : Cause} (h : FailsFirst s i c) :
    State.wordCheck s i = some c := by
  cases h with
  | illegal hform => rw [State.wordCheck, if_pos (by simp [hform])]
  | regalloc hform halloc =>
    rw [State.wordCheck, if_neg (by simp [hform]), if_pos ((beyondAllocation_iff s i).2 halloc)]
  | role hform halloc hrole =>
    rw [State.wordCheck, if_neg (by simp [hform]), if_neg (mt (beyondAllocation_iff s i).1 halloc),
      if_pos ((wrongRole_iff s i).2 hrole)]
  | stall hform halloc hrole hearly =>
    rw [State.wordCheck, if_neg (by simp [hform]), if_neg (mt (beyondAllocation_iff s i).1 halloc),
      if_neg (mt (wrongRole_iff s i).1 hrole), if_pos ((tooEarly_iff s i).2 hearly)]

/-- A stall that asks nothing of another agent leaves the state. -/
theorem State.finish_stall (s : State) (r : Reason) : State.finish s (.stall r []) = State.note s (.stalled r) := by
  simp [State.finish, State.note]

/-- Settles O50: every instruction word issues, and `issue` makes these checks before it looks at the entry. -/
theorem wordChecksComeBeforeAnyEffect : Obligations.WordChecksComeBeforeAnyEffect := by
  rintro s i ⟨w, hw⟩ ⟨hvalid, hwait, hfollow⟩
  obtain ⟨body, hexec⟩ := exec_eq_issue hw
  have hnone : s.g.wait.isNone = true := by simp [hwait]
  refine ⟨fun hpending => ?_, fun c hpending hfails => ?_⟩
  · rw [hexec, issue_waits i body s hvalid hnone hfollow ((State.regWait_iff s i).2 hpending), State.finish_stall]
  · have hregs : State.regWait s i = false := by rwa [← Bool.not_eq_true, State.regWait_iff]
    rw [hexec, issue_checked i body s c hvalid hnone hfollow hregs (State.wordCheck_of_failsFirst hfails)]

end Sys2Proof.Machine

/-! # Integer, logic, compare and across-lane words (R133 to R146, R190, R200, R201)

Outside every region each of these words reads its sources and places the results of its entry: one equation for the words of
each table. The completion statements are the case of sound sources, and the order of the source checks is read off the same
equations. -/

namespace Sys2Proof.Machine

open Rules

/-! ## Entries -/

/-- The source checks look at the entry's effect on the state at hand alone. -/
theorem withSources_const (s : State) (xs : List Src) (body : State → Eff) :
    State.withSources s xs body = State.withSources s xs (fun _ => body s) := rfl

/-- A word whose entry has the effect `e` ends as that effect does. -/
theorem issue_of_entry {s : State} {i : Instr} {body : State → Eff} {e : Eff} (hclosed : Closed s) (hready : Ready s i)
    (hbody : body s = e) : issue i body s = .next (State.finish s e) := by
  rw [issue_of_ready body hclosed hready, hbody]

/-- Sound sources let the entry's effect stand. -/
theorem withSources_of_sound {s : State} {xs : List Src} (body : State → Eff) (hsound : Sound s xs) :
    State.withSources s xs body = body s := by
  obtain ⟨hstrike, hpoison, hformat, hresidue⟩ := hsound
  exact State.withSources_sound s xs body hstrike hpoison hformat hresidue

/-- The effect of a lane-by-lane word outside every region: its sources are checked, then its results are placed. -/
def laneEffect (s : State) (w : LaneWord) : Eff := State.withSources s w.srcs (fun _ => .ok (writes s w))

/-- The results of the model's entry are those of the table. -/
theorem results_eq_writes {s : State} {w : LaneWord} {f : Nat → List (Word × Tag)} (sym : Nat → Option (BitVec 4))
    (hclosed : Closed s) (hf : f = w.out) : State.results s w.srcs w.lat w.dst.toNat w.n f sym = writes s w := by
  subst hf
  exact State.results_closed s w.srcs w.lat w.dst.toNat w.n w.out sym hclosed

/-- A lane-by-lane word that keeps no symbolic tag of its own. -/
theorem laneOp_eq_laneEffect {s : State} {w : LaneWord} {f : State → Nat → List (Word × Tag)} (hclosed : Closed s)
    (hf : f s = w.out) : State.laneOp s w.srcs w.lat w.dst.toNat w.n f = laneEffect s w := by
  rw [State.laneOp, withSources_const, results_eq_writes _ hclosed hf, laneEffect]

/-- Such a word ends as its entry does. -/
theorem issue_of_laneOp {s : State} {i : Instr} {body : State → Eff} {w : LaneWord} {f : State → Nat → List (Word × Tag)}
    (hclosed : Closed s) (hready : Ready s i) (hbody : body s = State.laneOp s w.srcs w.lat w.dst.toNat w.n f)
    (hf : f s = w.out) : issue i body s = .next (State.finish s (laneEffect s w)) :=
  issue_of_entry hclosed hready (hbody.trans (laneOp_eq_laneEffect hclosed hf))

/-- A word with one value for every active lane. -/
theorem issue_of_allLanes {s : State} {i : Instr} {body : State → Eff} {w : LaneWord} {f : State → Word × Tag}
    (hclosed : Closed s) (hready : Ready s i) (hbody : body s = State.allLanes s w.srcs w.lat w.dst.toNat f) (hn : w.n = 1)
    (hf : (fun _ => [f s]) = w.out) : issue i body s = .next (State.finish s (laneEffect s w)) := by
  refine issue_of_entry hclosed hready (hbody.trans ?_)
  rw [State.allLanes, withSources_const, ← hn, results_eq_writes _ hclosed hf, laneEffect]

/-- With sound sources the results stand, and the active lanes go on. -/
theorem finish_laneEffect {s : State} {w : LaneWord} (hsound : Sound s w.srcs) :
    (.next (State.finish s (laneEffect s w)) : Out) = .next (done (writes s w)) := by
  rw [laneEffect, withSources_of_sound _ hsound]
  rfl

/-! ## The integer words (R136, R139, R140, R190) -/

/-- A binary integer word whose operation is that of the table. -/
theorem int2_eq_laneEffect {s : State} {f g : Word → Word → Word} (u : Bool) (d a b : RegNo) (lat : Nat)
    (hclosed : Closed s) (hf : f = g) : State.int2 s u d a b lat f = laneEffect s (int2 s u d a b lat g) := by
  subst hf
  exact laneOp_eq_laneEffect (w := int2 s u d a b lat f) hclosed rfl

/-- IADD and ISUB. -/
theorem sum2_eq_laneEffect {s : State} (u : Bool) (d a b : RegNo) (f : Word → Word → Word) (both : Bool)
    (hclosed : Closed s) : State.sum2 s u d a b f both = laneEffect s (int2 s u d a b 4 f) := by
  rw [laneEffect, ← results_eq_writes (w := int2 s u d a b 4 f) (State.sumSym s u a b both) hclosed rfl]
  rfl

/-- An 8-bit element as an integer. -/
theorem byteInt_element (z : Bool) (x : Word) (i : Nat) :
    byteInt z (element x i 8) = let b : BitVec 8 := x.extractLsb' (8 * i) 8; if z then (b.toNat : Int) else b.toInt := by
  rw [element_eq, byteInt, BitVec.ofNat_toNat, BitVec.setWidth_eq]

/-- The products of the 8-bit elements, summed. -/
theorem dot4_eq_dot (z : Bool) (x y : Word) : dot4 z x y = dot z x y := by
  simp only [dot4, byteInt_element, List.map_cons, List.map_nil, List.foldl_cons, List.foldl_nil, zero_add]
  rfl

/-- The entries of R136, IADDI of R139, R140 and IDP4 of R190. -/
theorem exec_of_integerWord {s : State} {i : Instr} {w : LaneWord} (h : integerWord s i = some w) (hclosed : Closed s)
    (hready : Ready s i) : exec i s = .next (State.finish s (laneEffect s w)) := by
  unfold integerWord at h
  split at h
  case h_1 u d a b =>
    cases h
    exact show execIadd u d a b s = _ from issue_of_entry hclosed hready (sum2_eq_laneEffect u d a b _ _ hclosed)
  case h_2 u d a b =>
    cases h
    exact show execIsub u d a b s = _ from issue_of_entry hclosed hready (sum2_eq_laneEffect u d a b _ _ hclosed)
  case h_3 u d a b =>
    cases h
    exact show execImul u d a b s = _ from issue_of_entry hclosed hready (int2_eq_laneEffect u d a b _ hclosed rfl)
  case h_4 u d a b =>
    cases h
    exact show execImulhS u d a b s = _ from issue_of_entry hclosed hready
      (int2_eq_laneEffect u d a b _ hclosed (funext₂ mulHighS_eq))
  case h_5 u d a b =>
    cases h
    exact show execImulhZ u d a b s = _ from issue_of_entry hclosed hready
      (int2_eq_laneEffect u d a b _ hclosed (funext₂ mulHighZ_eq))
  case h_6 u d a b =>
    cases h
    exact show execImad u d a b s = _ from issue_of_laneOp hclosed hready rfl rfl
  case h_7 u z d a b =>
    cases h
    refine show execImin u z d a b s = _ from issue_of_entry hclosed hready (int2_eq_laneEffect u d a b _ hclosed ?_)
    cases z
    · exact funext₂ minS_eq
    · exact funext₂ minZ_eq
  case h_8 u z d a b =>
    cases h
    refine show execImax u z d a b s = _ from issue_of_entry hclosed hready (int2_eq_laneEffect u d a b _ hclosed ?_)
    cases z
    · exact funext₂ maxS_eq
    · exact funext₂ maxZ_eq
  case h_9 d a => cases h; exact show execIabs d a s = _ from issue_of_laneOp hclosed hready rfl rfl
  case h_10 d a imm =>
    cases h
    refine show execIaddi d a imm s = _ from issue_of_entry hclosed hready ?_
    rw [laneEffect, ← results_eq_writes _ hclosed rfl]
    rfl
  case h_11 d imm =>
    cases h
    exact show execLi d imm s = _ from issue_of_laneOp hclosed hready rfl rfl
  case h_12 d imm =>
    cases h
    exact show execLih d imm s = _ from issue_of_laneOp hclosed hready rfl rfl
  case h_13 u z d a b =>
    cases h
    refine show execIdp4 u z d a b s = _ from issue_of_laneOp hclosed hready rfl (funext fun l => ?_)
    rw [dot4_eq_dot]
    rfl
  case h_14 => cases h

/-- Settles O1: with sound sources the results of the entry stand. -/
theorem integerWordsComplete : Obligations.IntegerWordsComplete := fun _ _ _ hword hready hclosed hsound =>
  (exec_of_integerWord hword hclosed hready).trans (finish_laneEffect hsound)

/-! ## The logic, shift and bit-field words (R137 to R139) -/

/-- A binary logic or shift word whose operation is that of the table. -/
theorem logic2_eq_laneEffect {s : State} {f g : Word → Word → Word} (u : Bool) (d a b : RegNo) (lat : Nat)
    (hclosed : Closed s) (hf : f = g) : State.logic2 s u d a b lat f = laneEffect s (logic2 s u d a b lat g) := by
  subst hf
  exact laneOp_eq_laneEffect (w := logic2 s u d a b lat f) hclosed rfl

/-- A logic or shift word on one register. -/
theorem logic1_eq_laneEffect {s : State} {f g : Word → Word} (d a : RegNo) (lat : Nat) (hclosed : Closed s) (hf : f = g) :
    State.logic1 s d a lat f = laneEffect s (logic1 s d a lat g) := by
  subst hf
  exact laneOp_eq_laneEffect (w := logic1 s d a lat f) hclosed rfl

/-- A count of bits. -/
theorem count1_eq_laneEffect {s : State} {f g : Word → Nat} (d a : RegNo) (hclosed : Closed s) (hf : f = g) :
    State.count1 s d a f = laneEffect s (count1 s d a g) := by
  subst hf
  exact laneOp_eq_laneEffect (w := count1 s d a f) hclosed rfl

/-- The entries of R137, R138 and the logic and shift rows of R139. -/
theorem exec_of_logicWord {s : State} {i : Instr} {w : LaneWord} (h : logicWord s i = some w) (hclosed : Closed s)
    (hready : Ready s i) : exec i s = .next (State.finish s (laneEffect s w)) := by
  unfold logicWord at h
  split at h
  case h_1 u d a b =>
    cases h
    exact show execAnd u d a b s = _ from issue_of_entry hclosed hready (logic2_eq_laneEffect u d a b _ hclosed rfl)
  case h_2 u d a b =>
    cases h
    exact show execOr u d a b s = _ from issue_of_entry hclosed hready (logic2_eq_laneEffect u d a b _ hclosed rfl)
  case h_3 u d a b =>
    cases h
    exact show execXor u d a b s = _ from issue_of_entry hclosed hready (logic2_eq_laneEffect u d a b _ hclosed rfl)
  case h_4 u d a b =>
    cases h
    exact show execAndn u d a b s = _ from issue_of_entry hclosed hready (logic2_eq_laneEffect u d a b _ hclosed rfl)
  case h_5 u d a b =>
    cases h
    exact show execShl u d a b s = _ from issue_of_entry hclosed hready
      (logic2_eq_laneEffect u d a b _ hclosed (funext₂ fun x y => by rw [shiftOf_eq]))
  case h_6 u d a b =>
    cases h
    exact show execShr u d a b s = _ from issue_of_entry hclosed hready
      (logic2_eq_laneEffect u d a b _ hclosed (funext₂ fun x y => by rw [shiftOf_eq]))
  case h_7 u d a b =>
    cases h
    exact show execSha u d a b s = _ from issue_of_entry hclosed hready
      (logic2_eq_laneEffect u d a b _ hclosed (funext₂ fun x y => by rw [shiftOf_eq]))
  case h_8 d a =>
    cases h
    exact show execPopc d a s = _ from issue_of_entry hclosed hready (count1_eq_laneEffect d a hclosed (funext popcount_eq))
  case h_9 d a =>
    cases h
    exact show execClz d a s = _ from issue_of_entry hclosed hready (count1_eq_laneEffect d a hclosed (funext leadingZeros_eq))
  case h_10 d a =>
    cases h
    exact show execBrev d a s = _ from issue_of_entry hclosed hready (logic1_eq_laneEffect d a _ hclosed (funext bitReverse_eq))
  case h_11 u z d a b =>
    cases h
    exact show execBfx u z d a b s = _ from issue_of_entry hclosed hready
      (logic2_eq_laneEffect u d a b _ hclosed (funext₂ (extractField_eq z)))
  case h_12 u d a b =>
    cases h
    refine show execBfi u d a b s = _ from issue_of_laneOp hclosed hready rfl (funext fun l => ?_)
    exact congrArg (fun x => [(x, _)]) (insertField_eq _ _ _)
  case h_13 d a imm =>
    cases h
    exact show execAndi d a imm s = _ from issue_of_entry hclosed hready (logic1_eq_laneEffect d a _ hclosed rfl)
  case h_14 d a imm =>
    cases h
    exact show execOri d a imm s = _ from issue_of_entry hclosed hready (logic1_eq_laneEffect d a _ hclosed rfl)
  case h_15 d a imm =>
    cases h
    exact show execXori d a imm s = _ from issue_of_entry hclosed hready (logic1_eq_laneEffect d a _ hclosed rfl)
  case h_16 d a imm =>
    cases h
    exact show execShli d a imm s = _ from issue_of_entry hclosed hready (logic1_eq_laneEffect d a _ hclosed rfl)
  case h_17 d a imm =>
    cases h
    exact show execShri d a imm s = _ from issue_of_entry hclosed hready (logic1_eq_laneEffect d a _ hclosed rfl)
  case h_18 d a imm =>
    cases h
    exact show execShai d a imm s = _ from issue_of_entry hclosed hready (logic1_eq_laneEffect d a _ hclosed rfl)
  case h_19 => cases h

/-- Settles O2. -/
theorem logicAndFieldWordsComplete : Obligations.LogicAndFieldWordsComplete := fun _ _ _ hword hready hclosed hsound =>
  (exec_of_logicWord hword hclosed hready).trans (finish_laneEffect hsound)

/-! ## Compares, select, 64-bit addresses, format tags (R141 to R143, R200, R201) -/

/-- The relations of R101 in the plain comparisons. -/
theorem relHolds_eq_relation (rel : BitVec 3) (x y : Word) : relHolds rel x y = relation rel x y := by
  obtain ⟨n, hn⟩ := rel
  interval_cases n <;> simp [relHolds, relation, BitVec.slt, BitVec.sle, BitVec.ult, BitVec.ule]

/-- ICMP and ICMPI: outside every region a comparison records no constraint. -/
theorem compare_eq_laneEffect {s : State} {xs : List Src} {rel : BitVec 3} {d a : RegNo} {y : State → Nat → RegCell}
    (hclosed : Closed s) :
    State.compare s xs rel d a y =
      laneEffect s ⟨xs, 4, d, 1, one (fun l => oneIf (relation rel (reg s l a.toNat) (y s l).val))⟩ := by
  rw [State.compare, withSources_const, State.constrain_all_closed s rel _ _ hclosed, laneEffect,
    ← results_eq_writes _ hclosed rfl]
  simp only [relHolds_eq_relation]
  rfl

/-- The tag codes of R116, as the model and the statements have them. -/
theorem tagOf_eq_codeTag (n : Nat) : tagOf n = codeTag n := rfl

/-- A 64-bit result. -/
theorem addrResult_eq_addrWords (x : DWord) : addrResult x = addrWords x := by
  rw [addrResult, lo32_eq, hi32_eq, addrWords]

/-- A register pair. -/
theorem src64_eq (s : State) (l n : Nat) (u : Bool) : State.src64 s l n u = src s l (n + 1) u ++ src s l n u :=
  pair64_eq _ _

/-- The cell that SEL chooses. -/
theorem selCell_eq (s : State) (u : Bool) (d a b : RegNo) (l : Nat) :
    State.selCell s u d a b l =
      if reg s l d.toNat ≠ 0 then State.srcCell s l a.toNat false else State.srcCell s l b.toNat u := by
  simp only [State.selCell, bne_iff_ne]
  rfl

/-- A shift to the left is a product with a power of two. -/
theorem shiftLeft_eq_mul_pow {w : Nat} (x : BitVec w) (n : Nat) : x <<< n = x * BitVec.ofNat w (2 ^ n) := by
  rw [BitVec.shiftLeft_eq_mul_twoPow]
  exact congrArg (x * ·) (BitVec.eq_of_toNat_eq (by rw [BitVec.toNat_twoPow, BitVec.toNat_ofNat]))

/-- The entries of R141 to R143, R200 and R201. -/
theorem exec_of_compareWord {s : State} {i : Instr} {w : LaneWord} (h : compareWord s i = some w) (hclosed : Closed s)
    (hready : Ready s i) : exec i s = .next (State.finish s (laneEffect s w)) := by
  unfold compareWord at h
  split at h
  case h_1 rel d a b =>
    cases h
    exact show execIcmp rel d a b s = _ from issue_of_entry hclosed hready (compare_eq_laneEffect hclosed)
  case h_2 d a rel imm =>
    cases h
    exact show execIcmpi d a rel imm s = _ from issue_of_entry hclosed hready (compare_eq_laneEffect hclosed)
  case h_3 u d a b =>
    cases h
    refine show execSel u d a b s = _ from issue_of_laneOp hclosed hready rfl (funext fun l => ?_)
    exact (congrArg (fun c : RegCell => [(c.val, c.tag)]) (selCell_eq s u d a b l)).trans
      (apply_ite (fun c : RegCell => [(c.val, c.tag)]) _ _ _)
  case h_4 u d a b =>
    cases h
    refine show execA64 u d a b s = _ from issue_of_laneOp hclosed hready rfl (funext fun l => ?_)
    rw [addrResult_eq_addrWords, src64_eq, src64_eq]
    rfl
  case h_5 u sc d a b =>
    cases h
    refine show execA64s u sc d a b s = _ from issue_of_laneOp hclosed hready rfl (funext fun l => ?_)
    rw [addrResult_eq_addrWords, src64_eq, shiftLeft_eq_mul_pow]
    rfl
  case h_6 d a imm =>
    cases h
    refine show execA64i d a imm s = _ from issue_of_laneOp hclosed hready rfl (funext fun l => ?_)
    rw [addrResult_eq_addrWords, src64_eq]
    rfl
  case h_7 d a =>
    cases h
    exact show execTagrd d a s = _ from issue_of_laneOp hclosed hready rfl rfl
  case h_8 d a tgt =>
    cases h
    refine show execTagset d a tgt s = _ from issue_of_laneOp hclosed hready rfl (funext fun l => ?_)
    rw [tagOf_eq_codeTag]
    rfl
  case h_9 => cases h

/-- Settles O3. -/
theorem compareSelectAddressTagWordsComplete : Obligations.CompareSelectAddressTagWordsComplete :=
  fun _ _ _ hword hready hclosed hsound => (exec_of_compareWord hword hclosed hready).trans (finish_laneEffect hsound)

/-! ## Across lanes (R144 to R146) -/

/-- Lane `k` where it exists and is active, and else lane `l`. -/
def laneAt (m : Mask) (l : Nat) (k : Int) : Nat := if 0 ≤ k ∧ k ≤ 31 ∧ m.getLsbD k.toNat = true then k.toNat else l

theorem laneAt_natCast (m : Mask) (l k : Nat) : laneAt m l k = if m.getLsbD k then k else l := by
  have hle : m.getLsbD k = true → k ≤ 31 := fun hk => Nat.le_of_lt_succ (BitVec.lt_of_getLsbD hk)
  refine if_congr ⟨fun h => h.2.2, fun h => ?_⟩ rfl rfl
  exact ⟨Int.natCast_nonneg k, by exact_mod_cast hle h, h⟩

theorem laneAt_of_not_lane (m : Mask) (l : Nat) {k : Int} (h : ¬ (0 ≤ k ∧ k ≤ 31)) : laneAt m l k = l :=
  if_neg fun hk => h ⟨hk.1, hk.2.1⟩

/-- The lane that SHFL reads, in the model's terms. -/
theorem shuffleFrom_eq (m : Mask) (pat : BitVec 2) (l n : Nat) :
    shuffleFrom m pat l n = (match shflLane pat l n with | some k => if m.getLsbD k then k else l | none => l) := by
  obtain ⟨p, hp⟩ := pat
  interval_cases p
  · exact laneAt_natCast m l n
  · show laneAt m l ((l : Int) - n) = (match if n ≤ l then some (l - n) else none with | some k => _ | none => l)
    by_cases hle : n ≤ l
    · rw [if_pos hle, ← Int.ofNat_sub hle, laneAt_natCast]
    · rw [if_neg hle, laneAt_of_not_lane m l (by omega)]
  · show laneAt m l ((l + n : Nat) : Int) = (match if l + n ≤ 31 then some (l + n) else none with | some k => _ | none => l)
    by_cases hle : l + n ≤ 31
    · rw [if_pos hle, laneAt_natCast]
    · rw [if_neg hle, laneAt_of_not_lane m l (by omega)]
  · exact laneAt_natCast m l (l ^^^ n)
/-- The cell that SHFL gives a lane. -/
theorem shflCell_eq (s : State) (u : Bool) (pat : BitVec 2) (a b : RegNo) (l : Nat) :
    State.shflCell s u pat a b l =
      Group.cell s.g (shuffleFrom s.cur.mask pat l ((src s l b.toNat u).extractLsb' 0 5).toNat) a.toNat := by
  rw [shuffleFrom_eq, ← shiftOf_eq, State.shflCell]
  show (match shflLane pat l (shiftOf (src s l b.toNat u)) with | some k => _ | none => _) = _
  cases shflLane pat l (shiftOf (src s l b.toNat u)) with
  | none => rfl
  | some k => exact (apply_ite (fun j => Group.cell s.g j a.toNat) _ _ _).symm

/-- The entries of R144 to R146. -/
theorem exec_of_acrossWord {s : State} {i : Instr} {w : LaneWord} (h : acrossWord s i = some w) (hclosed : Closed s)
    (hready : Ready s i) : exec i s = .next (State.finish s (laneEffect s w)) := by
  unfold acrossWord at h
  split at h
  case h_1 u pat d a b =>
    cases h
    refine show execShfl u pat d a b s = _ from issue_of_entry hclosed hready ?_
    rw [withSources_const, State.exactSources_closed _ _ _ hclosed, laneEffect]
    rw [results_eq_writes (w := ⟨shflSrcs u a b, 8, d, 1, _⟩) _ hclosed (funext fun l => by rw [shflCell_eq])]
    rfl
  case h_2 u d a b =>
    cases h
    exact show execVany u d a b s = _ from issue_of_allLanes hclosed hready rfl rfl rfl
  case h_3 u d a b =>
    cases h
    exact show execVall u d a b s = _ from issue_of_allLanes hclosed hready rfl rfl rfl
  case h_4 u d a b =>
    cases h
    exact show execVbal u d a b s = _ from issue_of_allLanes hclosed hready rfl rfl rfl
  case h_5 u d a b =>
    cases h
    exact show execRadd u d a b s = _ from issue_of_laneOp hclosed hready rfl rfl
  case h_6 d a =>
    cases h
    have hmin : minS = fun p q => if BitVec.slt q p then q else p := funext₂ minS_eq
    exact show execRmin d a s = _ from issue_of_allLanes hclosed hready rfl rfl (by rw [hmin]; rfl)
  case h_7 d a =>
    cases h
    have hmax : maxS = fun p q => if BitVec.slt p q then q else p := funext₂ maxS_eq
    exact show execRmax d a s = _ from issue_of_allLanes hclosed hready rfl rfl (by rw [hmax]; rfl)
  case h_8 => cases h

/-- Settles O4. -/
theorem acrossLaneWordsComplete : Obligations.AcrossLaneWordsComplete := fun _ _ _ hword hready hclosed hsound =>
  (exec_of_acrossWord hword hclosed hready).trans (finish_laneEffect hsound)

end Sys2Proof.Machine

/-! # The source checks, in their order (R116 to R118, R219) -/

namespace Sys2Proof.Machine

open Rules

/-! ## Poison that is consumed (R117) -/

section
variable {s : State} {i : Instr} {body : State → Eff} (hclosed : Closed s) (hready : Ready s i)
include hclosed hready

/-- An entry that meets poison consumes it. -/
theorem issue_of_poison (hbody : body s = .poison) : issue i body s = .next (State.consumePoison s) :=
  issue_of_entry hclosed hready hbody

/-- A word whose entry begins with its sources consumes their poison. -/
theorem issue_of_srcPoison {xs : List Src} {k : State → Eff} (hpoison : State.srcPoison s xs = true)
    (hbody : body s = State.withSources s xs k) : issue i body s = .next (State.consumePoison s) :=
  issue_of_poison hclosed hready (hbody.trans (State.withSources_poison s xs k hpoison))

/-- Outside every region so does a word that a region forbids. -/
theorem issue_of_srcPoison_outside {xs : List Src} {k : State → Eff} (hpoison : State.srcPoison s xs = true)
    (hbody : body s = State.outside s (fun s => State.withSources s xs k)) :
    issue i body s = .next (State.consumePoison s) :=
  issue_of_srcPoison hclosed hready hpoison (hbody.trans (State.outside_closed s _ hclosed))

end

/-- A load, with or without the discard of what it read. -/
theorem globalLoad_of_srcPoison {s : State} {sz : BitVec 3} {t a : RegNo} {off : DWord} {scope : BitVec 3} {ord : BitVec 2}
    {last : Bool} (hclosed : Closed s) (hpoison : State.srcPoison s (addrSrcs a) = true) :
    State.globalLoad s sz t a off scope ord last = .poison := by
  have hopen : ¬ (last && State.anyRegion s) = true := by simp [State.anyRegion_closed s hclosed]
  rw [State.globalLoad, if_neg hopen]
  exact if_pos hpoison

/-- A jump through a register. -/
theorem jumpReg_of_srcPoison {s : State} {a : RegNo} {u : Bool} (hpoison : State.srcPoison s [consumed a u [.i32]] = true) :
    State.jumpReg s a u = .poison :=
  if_pos hpoison

/-- A store, with or without a condition of its own. -/
theorem globalStore_of_srcPoison {s : State} {sz : BitVec 3} {t a : RegNo} {off : DWord} {scope : BitVec 3} {ord : BitVec 2}
    {modw : Bool} (hpoison : State.srcPoison s (addrSrcs a ++ dataSrcs t (sizeRegs sz.toNat) []) = true) :
    State.globalStore s sz t a off scope ord modw = .poison :=
  if_pos hpoison

/-- The tags that an atomic's data may have. -/
theorem atomicOp_accepts_eq (op : AtomicOp) : AtomicOp.accepts op = atomicTags op := by cases op <;> rfl

/-- An atomic's entry. -/
theorem exec_of_atomicOf {i : Instr} {op : AtomicOp} {n k : Nat} {t a : RegNo} {scope : BitVec 3} {ord : BitVec 2}
    (h : atomicOf i = some (op, n, t, a, k, scope, ord)) (s : State) :
    exec i s = issue i (fun s => State.atomicWord s op n t a k scope ord) s := by
  unfold atomicOf at h
  split at h <;> cases h <;> rfl

/-- The words of the list consume poison before anything else of their entries. -/
theorem exec_of_consuming {s : State} {i : Instr} {xs : List Src} (h : consuming i = some xs) (hclosed : Closed s)
    (hready : Ready s i) (hpoison : State.srcPoison s xs = true) : exec i s = .next (State.consumePoison s) := by
  unfold consuming at h
  split at h
  case h_1 p off slot =>
    cases h
    exact show execBr p off slot s = _ from issue_of_srcPoison hclosed hready hpoison rfl
  case h_2 p off slot =>
    cases h
    exact show execBrz p off slot s = _ from issue_of_srcPoison hclosed hready hpoison rfl
  case h_3 a u =>
    cases h
    exact show execJr a u s = _ from issue_of_poison hclosed hready (jumpReg_of_srcPoison hpoison)
  case h_4 a u =>
    cases h
    exact show execRet a u s = _ from issue_of_poison hclosed hready (jumpReg_of_srcPoison hpoison)
  case h_5 sz t a off =>
    cases h
    exact show execLd sz t a off s = _ from issue_of_poison hclosed hready (globalLoad_of_srcPoison hclosed hpoison)
  case h_6 sz t a scope ord last =>
    cases h
    exact show execLdo sz t a scope ord last s = _ from issue_of_poison hclosed hready (globalLoad_of_srcPoison hclosed hpoison)
  case h_7 sz t a off =>
    cases h
    exact show execSt sz t a off s = _ from issue_of_poison hclosed hready (globalStore_of_srcPoison hpoison)
  case h_8 sz t a scope ord =>
    cases h
    exact show execSto sz t a scope ord s = _ from issue_of_poison hclosed hready (globalStore_of_srcPoison hpoison)
  case h_9 sz t a off =>
    cases h
    exact show execLdl sz t a off s = _ from issue_of_srcPoison_outside hclosed hready hpoison rfl
  case h_10 sz t a off =>
    cases h
    exact show execStl sz t a off s = _ from issue_of_srcPoison_outside hclosed hready hpoison rfl
  case h_11 d a b ua ub =>
    cases h
    exact show execTkt d a b ua ub s = _ from issue_of_srcPoison_outside hclosed hready hpoison rfl
  case h_12 d a b ua ub =>
    cases h
    exact show execDepadd d a b ua ub s = _ from issue_of_srcPoison_outside hclosed hready hpoison rfl
  case h_13 =>
    split at h
    case h_1 op n t a k scope ord hatomic =>
      cases h
      rw [exec_of_atomicOf hatomic]
      rw [← atomicOp_accepts_eq] at hpoison
      exact issue_of_srcPoison_outside hclosed hready hpoison rfl
    case h_2 => cases h

/-! ## Tags and residues (R116, R118) -/

section
variable {s : State} {w : LaneWord}

/-- A tag that the entry does not accept traps. -/
theorem laneEffect_of_srcFormat (hpoison : State.srcPoison s w.srcs = false) (hformat : State.srcFormat s w.srcs = true) :
    laneEffect s w = .trap s .format s.cur.mask 0 :=
  State.withSources_format s w.srcs _ hpoison hformat

/-- A residue that does not match comes after the tags. -/
theorem laneEffect_of_srcResidue (hpoison : State.srcPoison s w.srcs = false) (hformat : State.srcFormat s w.srcs = false)
    (hresidue : State.srcResidue s w.srcs = true) : laneEffect s w = .bad .residue := by
  simp [laneEffect, State.withSources, hpoison, hformat, hresidue]

end

section
variable {s : State} {i : Instr} {w : LaneWord}

/-- The integer words consume no poison. -/
theorem srcPoison_of_integerWord (h : integerWord s i = some w) : State.srcPoison s w.srcs = false := by
  unfold integerWord at h
  split at h <;> cases h <;> rfl

/-- The logic, shift and bit-field words consume no poison. -/
theorem srcPoison_of_logicWord (h : logicWord s i = some w) : State.srcPoison s w.srcs = false := by
  unfold logicWord at h
  split at h <;> cases h <;> rfl

/-- Compares, selects, 64-bit addresses and format tags consume no poison. -/
theorem srcPoison_of_compareWord (h : compareWord s i = some w) : State.srcPoison s w.srcs = false := by
  unfold compareWord at h
  split at h <;> cases h <;> rfl

/-- The words across lanes consume no poison. -/
theorem srcPoison_of_acrossWord (h : acrossWord s i = some w) : State.srcPoison s w.srcs = false := by
  unfold acrossWord at h
  split at h <;> cases h <;> rfl

/-- A word of one of the tables ends as its entry does, and consumes no poison. -/
theorem exec_of_laneWordOf (h : laneWordOf s i = some w) (hclosed : Closed s) (hready : Ready s i) :
    exec i s = .next (State.finish s (laneEffect s w)) ∧ State.srcPoison s w.srcs = false := by
  simp only [laneWordOf, Option.orElse_eq_or, Option.or_eq_some_iff] at h
  obtain hint | ⟨-, hlogic | ⟨-, hcompare | ⟨-, hacross⟩⟩⟩ := h
  · exact ⟨exec_of_integerWord hint hclosed hready, srcPoison_of_integerWord hint⟩
  · exact ⟨exec_of_logicWord hlogic hclosed hready, srcPoison_of_logicWord hlogic⟩
  · exact ⟨exec_of_compareWord hcompare hclosed hready, srcPoison_of_compareWord hcompare⟩
  · exact ⟨exec_of_acrossWord hacross hclosed hready, srcPoison_of_acrossWord hacross⟩

end

/-- Settles O51: poison in words that consume it, and in those that do not the tags before the residues. -/
theorem sourceChecksInOrder : Obligations.SourceChecksInOrder := by
  refine ⟨fun s i xs hxs hclosed hready hpoison => exec_of_consuming hxs hclosed hready hpoison,
    fun s i w hword hclosed hready => ?_⟩
  obtain ⟨hexec, hpoison⟩ := exec_of_laneWordOf hword hclosed hready
  refine ⟨fun hformat => ?_, fun hformat hresidue => ?_⟩
  · rw [hexec, laneEffect_of_srcFormat hpoison hformat, State.finish_trap s s .format s.cur.mask 0 hready.wait_eq_none]
  · rw [hexec, laneEffect_of_srcResidue hpoison hformat hresidue]
    rfl

/-! # NOP, YIELD, IDEM and WAITC (R103, R151, R217, R234, R322) -/

/-- The entry of WAITC outside every region and not parked: with the counter at most `n` and no error deferred it ends the region
where it waits on scnt, and nothing else. -/
theorem exec_waitc {s : State} {ctr : BitVec 2} {n : BitVec 8} (u : State)
    (hu : u = if ctr.toNat = 1 ∧ s.g.wait.isNone = true then State.endRegion s else s) (hclosed : Closed s)
    (hready : Ready s (.waitc ctr n)) (hwait : u.g.wait = none) (hcounter : Group.counter u.g ctr ≤ n.toNat)
    (herror : (if ctr.toNat = 3 then Group.gatherError u.g n.toNat else none) = none) :
    exec (.waitc ctr n) s = .next (done u) := by
  subst hu
  refine show execWaitc ctr n s = _ from issue_of_entry (e := .ok _) hclosed hready ?_
  rw [State.outside_closed s _ hclosed]
  dsimp only
  rw [if_pos hcounter, herror]
  simp only [hwait, Option.isSome_none, Bool.false_eq_true, if_false]

/-- Settles O11: each entry, and for WAITC each counter. -/
theorem plainControlWordsComplete : Obligations.PlainControlWordsComplete := by
  intro s hclosed
  refine ⟨fun hready => show execNop s = _ from issue_of_entry hclosed hready rfl,
    fun hready => show execYield s = _ from issue_of_entry hclosed hready rfl, fun hready => ?_, fun n hready hn => ?_,
    fun n hready hn => ?_, fun n hready hn => ?_, fun n hready hn hdeferred => ?_⟩
  · rw [← State.endRegion_eq_regionEnds]
    exact show execIdem s = _ from issue_of_entry (e := .ok _) hclosed hready (State.outside_closed s _ hclosed)
  · exact exec_waitc s rfl hclosed hready hready.wait_eq_none hn rfl
  · rw [← State.endRegion_eq_regionEnds]
    have hnone : s.g.wait.isNone = true := by rw [hready.wait_eq_none]; rfl
    refine exec_waitc _ (if_pos ⟨rfl, hnone⟩).symm hclosed hready ?_ ?_ rfl
    · rw [State.endRegion_g_wait, hready.wait_eq_none]
    · exact (State.endRegion_g_scnt s).trans_le hn
  · exact exec_waitc s rfl hclosed hready hready.wait_eq_none hn rfl
  · exact exec_waitc s rfl hclosed hready hready.wait_eq_none hn hdeferred.1

end Sys2Proof.Machine

/-! # What lane-by-lane words change, and what landings change (R90, R106, R133, R183) -/

namespace Sys2Proof.Machine

open Rules

/-! ## The landings of a lane-by-lane word (R90, R133) -/

/-- The landing for result `j` of a lane-by-lane word. -/
def placedLanding (s : State) (w : LaneWord) (j : Nat) : Landing :=
  { at_ := s.clk + w.lat, reg := w.dst.toNat + j, cells := State.resultCells s w.srcs w.out j, pend := false,
    region := s.g.regions }

/-- The landings for its results `js`; v0 takes none. -/
def placedLandings (s : State) (w : LaneWord) (js : List Nat) : List Landing :=
  (js.filter (fun j => decide (w.dst.toNat + j ≠ 0))).map (placedLanding s w)

/-- A result for a register other than v0 has a landing. -/
theorem placedLandings_cons_of_ne {s : State} {w : LaneWord} {j : Nat} (js : List Nat) (hj : w.dst.toNat + j ≠ 0) :
    placedLandings s w (j :: js) = placedLanding s w j :: placedLandings s w js :=
  congrArg (List.map (placedLanding s w)) (List.filter_cons_of_pos (decide_eq_true hj))

/-- A result for v0 has none. -/
theorem placedLandings_cons_of_eq {s : State} {w : LaneWord} {j : Nat} (js : List Nat) (hj : w.dst.toNat + j = 0) :
    placedLandings s w (j :: js) = placedLandings s w js :=
  congrArg (List.map (placedLanding s w)) (List.filter_cons_of_neg (by simpa using hj))

/-- Results placed one after another join the group's landings, and nothing else changes. -/
theorem foldl_landing_eq (s : State) (w : LaneWord) (js : List Nat) (ls : List Landing) :
    js.foldl (fun t j => State.landing t w.lat (w.dst.toNat + j) (State.resultCells s w.srcs w.out j) false)
        (withG s { s.g with landings := ls }) =
      withG s { s.g with landings := ls ++ placedLandings s w js } := by
  induction js generalizing ls with
  | nil => exact congrArg (fun ls => withG s { s.g with landings := ls }) (List.append_nil ls).symm
  | cons j js ih =>
    rw [List.foldl_cons]
    by_cases hj : w.dst.toNat + j = 0
    · rw [hj, State.landing_zero, ih, placedLandings_cons_of_eq js hj]
    · rw [State.landing_of_ne _ _ _ _ _ hj, placedLandings_cons_of_ne js hj, List.append_cons]
      exact ih (ls ++ [placedLanding s w j])

/-- A lane-by-lane word's results are its landings. -/
theorem writes_eq (s : State) (w : LaneWord) :
    writes s w = withG s { s.g with landings := s.g.landings ++ placedLandings s w (List.range w.n) } :=
  foldl_landing_eq s w (List.range w.n) s.g.landings

/-- Lane `l` stands at place `l` of the lanes. -/
theorem lanesOf_getElem? {l : Nat} (hl : l < 32) : lanesOf[l]? = some l := by
  have h : ∀ l < 32, lanesOf[l]? = some l := by decide
  exact h l hl

/-- A lane that is not active receives no cell. -/
theorem State.resultCells_of_inactive {s : State} {l : Nat} (xs : List Src) (f : Nat → List (Word × Tag)) (j : Nat)
    (hl : l < 32) (hmask : s.cur.mask.getLsbD l = false) : (State.resultCells s xs f j)[l]? = some none := by
  rw [State.resultCells, List.getElem?_map, lanesOf_getElem? hl, Option.map_some, hmask]
  rfl

/-- Each landing of a lane-by-lane word is for a destination register other than v0, becomes due after the word's latency, and holds
no cell for a lane that is not active. -/
theorem of_mem_placedLandings {s : State} {w : LaneWord} {x : Landing} (hx : x ∈ placedLandings s w (List.range w.n)) :
    x.reg ≠ 0 ∧ w.dst.toNat ≤ x.reg ∧ x.reg < w.dst.toNat + w.n ∧ x.at_ = s.clk + w.lat ∧ x.pend = false ∧
      ∀ l < 32, s.cur.mask.getLsbD l = false → x.cells[l]? = some none := by
  obtain ⟨j, hj, rfl⟩ := List.mem_map.1 hx
  simp only [List.mem_filter, List.mem_range, decide_eq_true_eq] at hj
  obtain ⟨hlt, hne⟩ := hj
  exact ⟨hne, Nat.le_add_right .., Nat.add_lt_add_left hlt _, rfl, rfl,
    fun l hl hmask => State.resultCells_of_inactive w.srcs w.out j hl hmask⟩

/-- A lane after the lanes of a mask have been changed. -/
theorem Group.lane_mapLanes {g : Group} {l : Nat} (m : Mask) (f : Nat → Lane → Lane) (hl : l < g.lanes.length) :
    Group.lane (Group.mapLanes g m f) l = if m.getLsbD l = true then f l (Group.lane g l) else Group.lane g l := by
  simp only [Group.lane, Group.mapLanes, List.getD_eq_getElem?_getD, List.getElem?_map]
  have hz : ((List.range g.lanes.length).zip g.lanes)[l]? = some (l, g.lanes[l]) := by
    rw [List.getElem?_eq_getElem (by simpa using hl)]
    simp
  rw [hz]
  simp [hl]

/-- The record of a region's start changes nothing but that record. -/
theorem State.settleStart_eq (s : State) :
    ∃ a b, State.settleStart s = withG s { s.g with handlerStart := a, regionStart := b } := by
  unfold State.settleStart Group.recordStart
  split
  · split
    · exact ⟨_, s.g.regionStart, rfl⟩
    · exact ⟨s.g.handlerStart, _, rfl⟩
  · exact ⟨s.g.handlerStart, s.g.regionStart, rfl⟩

/-- The fields of a group that a lane-by-lane word may change. -/
theorem done_writes_eq (s : State) (w : LaneWord) : ∃ ls hs rs, done (writes s w) =
    { s with g := { Group.setLpc s.g s.cur.mask (nextWord s.cur.wordPc) with
               landings := ls, handlerStart := hs, regionStart := rs },
             cur := { s.cur with status := .done } } := by
  obtain ⟨hs, rs, hsettle⟩ := State.settleStart_eq (State.advance (writes s w))
  refine ⟨s.g.landings ++ placedLandings s w (List.range w.n), hs, rs, ?_⟩
  rw [done, hsettle, writes_eq]
  rfl

/-- Settles O56: the results are landings that join the group's, and the advance changes lanes and the record of a region's
start. -/
theorem resultWordsFrame : Obligations.ResultWordsFrame := by
  refine ⟨fun s w => ⟨_, writes_eq s w, fun x hx => of_mem_placedLandings hx⟩, fun s w => ?_⟩
  obtain ⟨ls, hs, rs, hdone⟩ := done_writes_eq s w
  refine ⟨_, _, hdone, rfl, rfl, rfl, rfl, rfl, rfl, rfl, rfl, rfl, rfl, rfl, rfl, rfl, rfl, rfl, rfl, rfl, rfl, rfl, rfl,
    fun l _ hl => ?_⟩
  exact Group.lane_mapLanes s.cur.mask (fun _ x => { x with lpc := nextWord s.cur.wordPc }) hl

/-! # Landings that are due (R90, R183) -/

/-- What a landing has for lane `l` of register `n`. -/
def Landing.cellFor (x : Landing) (l n : Nat) : Option RegCell := if x.reg = n then x.cells.getD l none else none

/-- Every register holds a cell for each of the 32 lanes. -/
def Group.FullRegs (g : Group) : Prop := ∀ c ∈ g.regs, c.length = 32

/-- A landing keeps the registers full. -/
theorem Group.land_fullRegs {g : Group} {x : Landing} (hg : g.FullRegs) (hx : x.cells.length = 32) : (Group.land g x).FullRegs := by
  intro c hc
  by_cases hreg : x.reg < g.regs.length
  · obtain hc | rfl := List.mem_or_eq_of_mem_set hc
    · exact hg c hc
    · have hlen : g.regs[x.reg].length = 32 := hg _ (List.getElem_mem hreg)
      simp [hreg, hlen, hx]
  · rw [Group.land, List.set_eq_of_length_le (by omega)] at hc
    exact hg c hc

theorem Group.land_regs_length (g : Group) (x : Landing) : (Group.land g x).regs.length = g.regs.length := List.length_set

/-- A landing's cell replaces the register's, in the lanes that have one. -/
theorem Group.cell_land {g : Group} {x : Landing} {l n : Nat} (hg : g.FullRegs) (hx : x.cells.length = 32) (hl : l < 32)
    (hn : n ≠ 0) (hlen : n < g.regs.length) :
    Group.cell (Group.land g x) l n = (Landing.cellFor x l n).getD (Group.cell g l n) := by
  by_cases hreg : x.reg = n
  · subst hreg
    have hlen32 : g.regs[x.reg].length = 32 := hg _ (List.getElem_mem hlen)
    simp [Group.cell, Group.land, Landing.cellFor, hn, hlen, hlen32, hx, hl, List.getD_eq_getElem?_getD]
  · simp [Group.cell, Group.land, Landing.cellFor, hn, hreg, List.getD_eq_getElem?_getD]

/-- Of several landings in order the last with a cell for the lane decides. -/
theorem Group.cell_foldl_land {xs : List Landing} {g : Group} {l n : Nat} (hg : g.FullRegs)
    (hxs : ∀ x ∈ xs, x.cells.length = 32) (hl : l < 32) (hn : n ≠ 0) (hlen : n < g.regs.length) :
    Group.cell (xs.foldl Group.land g) l n =
      ((xs.filterMap (fun x => Landing.cellFor x l n)).getLast?).getD (Group.cell g l n) := by
  induction xs generalizing g with
  | nil => rfl
  | cons x xs ih =>
    have hx := hxs x (List.mem_cons_self ..)
    rw [List.foldl_cons, ih (Group.land_fullRegs hg hx) (fun y hy => hxs y (List.mem_cons_of_mem _ hy))
      (by rw [Group.land_regs_length]; exact hlen), Group.cell_land hg hx hl hn hlen]
    cases h : Landing.cellFor x l n with
    | none => simp [h]
    | some c => simp [h, List.getLast?_cons]

/-- The cells for a lane and a register among landings. -/
theorem filterMap_cellFor (xs : List Landing) (l n : Nat) (p : Landing → Bool) :
    (xs.filter p).filterMap (fun x => Landing.cellFor x l n) =
      (xs.filter (fun x => p x && x.reg == n)).filterMap (fun x => x.cells.getD l none) := by
  rw [List.filterMap_filter, List.filterMap_filter]
  congr 1
  funext x
  by_cases hp : p x = true <;> by_cases hreg : x.reg = n <;> simp [hp, hreg, Landing.cellFor]

/-- Landings change the registers alone. -/
theorem Group.foldl_land_eq (xs : List Landing) (g : Group) : ∃ rs, xs.foldl Group.land g = { g with regs := rs } := by
  induction xs generalizing g with
  | nil => exact ⟨g.regs, rfl⟩
  | cons x xs ih => exact ih (Group.land g x)

/-- The landings that are not due stand. -/
theorem filter_not_due (xs : List Landing) (clk : Nat) :
    xs.filter (fun x => !decide (x.at_ ≤ clk)) = xs.filter (fun x => decide (clk < x.at_)) := by
  refine List.filter_congr fun x _ => ?_
  rw [← decide_not]
  exact decide_eq_decide.2 Nat.not_le

/-- Settles O57, by induction on the landings in their order. -/
theorem landedResults : Obligations.LandedResults := by
  intro g clk l n hregs hcells hl hn hlen
  refine ⟨rfl, ?_, ?_⟩
  · rw [← filterMap_cellFor]
    exact Group.cell_foldl_land hregs (fun x hx => hcells x (List.mem_of_mem_filter hx)) hl hn hlen
  · obtain ⟨rs, h⟩ := Group.foldl_land_eq ((Group.landFlags g clk).landings.filter (fun x => decide (x.at_ ≤ clk)))
      { Group.landFlags g clk with landings := (Group.landFlags g clk).landings.filter (fun x => !decide (x.at_ ≤ clk)) }
    exact ⟨rs, _, _, _, h, filter_not_due g.landings clk⟩

end Sys2Proof.Machine

/-! # Floating-point, packed and codebook words (R166, R180 to R199) -/

namespace Sys2Proof.Machine

open Rules

/-- The effect of a word with source formats outside every region: one format in each lane, then its results and its flags. -/
def floatPlaced (s : State) (w : FloatWord) : State := State.raise (writes s (floatLanes s w)) (floatFlags s w) w.lat

/-- The flags of the model's entry are ORed over the active lanes, as those of the table. -/
theorem fpOp_of_sound {s : State} {w : FloatWord} {f : State → Tag → Nat → List Word × Tag × Word} (hclosed : Closed s)
    (hsound : Sound s (w.xs ++ w.ys)) (hsame : ¬ formatsDiffer s w) (hf : f s = w.out) :
    State.fpOp s w.xs w.ys w.raw w.lat w.dst.toNat w.n f = .ok (floatPlaced s w) := by
  have hone : ¬ State.mixedFormats s w.xs = true := hsame
  rw [State.fpOp, withSources_of_sound _ hsound, if_neg hone, hf]
  refine congrArg (fun t => Eff.ok (State.raise t (floatFlags s w) w.lat)) ?_
  exact results_eq_writes (w := floatLanes s w) _ hclosed rfl

/-- With nothing disturbed the shadow finds nothing. -/
theorem shadowed_of_calm {s : State} (n : Nat) (check : Nat → Nat → Num × List Num) (e : Eff) (h : s.strike = none) :
    State.shadowed s n check e = e := by
  unfold State.shadowed
  rw [h]

/-- A word whose results and flags are placed completes. -/
theorem issue_of_floatPlaced {s : State} {i : Instr} {w : FloatWord} {body : State → Eff} (hclosed : Closed s)
    (hready : Ready s i) (hbody : body s = .ok (floatPlaced s w)) : issue i body s = .next (floatDone s w) :=
  issue_of_entry hclosed hready hbody

/-! ## Scalar words (R185 to R188) -/

section
variable {s : State} (hclosed : Closed s)
include hclosed

/-- A binary FP32 word. -/
theorem f32op_of_sound {u z : Bool} {d a b : RegNo} {lat : Nat} {f : Nat → Nat → Nat → Nat × Word}
    (hsound : Sound s ((f32two s u z d a b lat f).xs ++ (f32two s u z d a b lat f).ys))
    (hsame : ¬ formatsDiffer s (f32two s u z d a b lat f)) :
    State.f32op s u z d a b lat f = .ok (floatPlaced s (f32two s u z d a b lat f)) :=
  fpOp_of_sound (w := f32two s u z d a b lat f) hclosed hsound hsame rfl

/-- A unary FP32 word. -/
theorem f32un_of_sound {d a : RegNo} {lat : Nat} {f : Nat → Nat × Word}
    (hsound : Sound s ((f32one s d a lat f).xs ++ (f32one s d a lat f).ys)) (hsame : ¬ formatsDiffer s (f32one s d a lat f)) :
    State.f32un s d a lat f = .ok (floatPlaced s (f32one s d a lat f)) :=
  fpOp_of_sound (w := f32one s d a lat f) hclosed hsound hsame rfl

/-- A binary FP32 word that the shadow checks. -/
theorem f32checked_of_sound {u z : Bool} {d a b : RegNo} {f : Nat → Nat → Nat → Nat × Word}
    (adds : Num → Num → Num → List Num) (hsound : Sound s ((f32two s u z d a b 6 f).xs ++ (f32two s u z d a b 6 f).ys))
    (hsame : ¬ formatsDiffer s (f32two s u z d a b 6 f)) :
    State.f32checked s u z d a b f adds = .ok (floatPlaced s (f32two s u z d a b 6 f)) := by
  rw [State.f32checked, shadowed_of_calm _ _ _ hsound.1, f32op_of_sound hclosed hsound hsame]

/-- A packed-pair word. -/
theorem halfOp_of_sound {u z : Bool} {d a b : RegNo} {lat : Nat} {f : Fmt → Nat → Nat → Nat → Nat × Word}
    (hsound : Sound s ((pairWord s u z d a b lat f).xs ++ (pairWord s u z d a b lat f).ys))
    (hsame : ¬ formatsDiffer s (pairWord s u z d a b lat f)) :
    State.halfOp s u z d a b lat f = .ok (floatPlaced s (pairWord s u z d a b lat f)) := by
  refine fpOp_of_sound (w := pairWord s u z d a b lat f) hclosed hsound hsame ?_
  funext t l
  exact congrArg (fun g : Word => (_, t, g ||| _)) BitVec.zero_or

/-- A packed-pair word that the shadow checks. -/
theorem halfChecked_of_sound {u z : Bool} {d a b : RegNo} {f : Fmt → Nat → Nat → Nat → Nat × Word}
    (adds : Num → Num → Num → List Num) (hsound : Sound s ((pairWord s u z d a b 6 f).xs ++ (pairWord s u z d a b 6 f).ys))
    (hsame : ¬ formatsDiffer s (pairWord s u z d a b 6 f)) :
    State.halfChecked s u z d a b f adds = .ok (floatPlaced s (pairWord s u z d a b 6 f)) := by
  rw [State.halfChecked, shadowed_of_calm _ _ _ hsound.1, halfOp_of_sound hclosed hsound hsame]

/-- A conversion. -/
theorem convert_of_sound {rm : BitVec 2} {d a : RegNo} {t r : Tag} {accept : List Tag}
    (hsound : Sound s ((convertWord s rm d a t accept r).xs ++ (convertWord s rm d a t accept r).ys))
    (hsame : ¬ formatsDiffer s (convertWord s rm d a t accept r)) :
    State.convert s rm d a t accept r = .ok (floatPlaced s (convertWord s rm d a t accept r)) :=
  fpOp_of_sound (w := convertWord s rm d a t accept r) hclosed hsound hsame rfl

/-- An unpacking. -/
theorem unpackRun_of_sound {d a : RegNo} {n : Nat} {t r : Tag} {accept : List Tag}
    (hsound : Sound s ((unpackWord s d a n t accept r).xs ++ (unpackWord s d a n t accept r).ys))
    (hsame : ¬ formatsDiffer s (unpackWord s d a n t accept r)) :
    State.unpackRun s d a n t accept r = .ok (floatPlaced s (unpackWord s d a n t accept r)) :=
  fpOp_of_sound (w := unpackWord s d a n t accept r) hclosed hsound hsame rfl

/-- A packing, whose elements are integers for an integer target and FP32 for another. -/
theorem packRun_of_sound {rm : BitVec 2} {d a : RegNo} {n : Nat} {t f : Tag}
    (hf : (if t == .i16x2 || t == .i8x4 then Tag.i32 else .f32) = f)
    (hsound : Sound s ((packWord s rm d a n t f).xs ++ (packWord s rm d a n t f).ys))
    (hsame : ¬ formatsDiffer s (packWord s rm d a n t f)) :
    State.packRun s rm d a n t = .ok (floatPlaced s (packWord s rm d a n t f)) := by
  rw [State.packRun, hf]
  exact fpOp_of_sound (w := packWord s rm d a n t f) hclosed hsound hsame rfl

end

/-- The entries of R185 to R188. -/
theorem exec_of_scalarFloat {s : State} {i : Instr} {w : FloatWord} (h : scalarFloat s i = some w) (hclosed : Closed s)
    (hready : Ready s i) (hsound : Sound s (w.xs ++ w.ys)) (hsame : ¬ formatsDiffer s w) : exec i s = .next (floatDone s w) := by
  unfold scalarFloat at h
  split at h
  case h_1 u rm d a b =>
    cases h
    exact show execFadd u rm d a b s = _ from issue_of_floatPlaced hclosed hready (f32checked_of_sound hclosed _ hsound hsame)
  case h_2 u rm d a b =>
    cases h
    exact show execFsub u rm d a b s = _ from issue_of_floatPlaced hclosed hready (f32checked_of_sound hclosed _ hsound hsame)
  case h_3 u rm d a b =>
    cases h
    exact show execFmul u rm d a b s = _ from issue_of_floatPlaced hclosed hready (f32checked_of_sound hclosed _ hsound hsame)
  case h_4 u rm d a b =>
    cases h
    exact show execFfma u rm d a b s = _ from issue_of_floatPlaced hclosed hready (f32checked_of_sound hclosed _ hsound hsame)
  case h_5 u rm d a b =>
    cases h
    exact show execFfms u rm d a b s = _ from issue_of_floatPlaced hclosed hready (f32checked_of_sound hclosed _ hsound hsame)
  case h_6 u d a b =>
    cases h
    exact show execFmin u d a b s = _ from issue_of_floatPlaced hclosed hready (f32op_of_sound hclosed hsound hsame)
  case h_7 u d a b =>
    cases h
    exact show execFmax u d a b s = _ from issue_of_floatPlaced hclosed hready (f32op_of_sound hclosed hsound hsame)
  case h_8 d a =>
    cases h
    exact show execFneg d a s = _ from issue_of_floatPlaced hclosed hready (f32un_of_sound hclosed hsound hsame)
  case h_9 d a =>
    cases h
    exact show execFabs d a s = _ from issue_of_floatPlaced hclosed hready (f32un_of_sound hclosed hsound hsame)
  case h_10 u d a b =>
    cases h
    exact show execFcpsgn u d a b s = _ from issue_of_floatPlaced hclosed hready (f32op_of_sound hclosed hsound hsame)
  case h_11 rel d a b =>
    cases h
    exact show execFcmp rel d a b s = _ from issue_of_floatPlaced hclosed hready (fpOp_of_sound hclosed hsound hsame rfl)
  case h_12 rm d a =>
    cases h
    exact show execFsqrt rm d a s = _ from issue_of_floatPlaced hclosed hready (f32un_of_sound hclosed hsound hsame)
  case h_13 d a =>
    cases h
    exact show execFrcp d a s = _ from issue_of_floatPlaced hclosed hready (f32un_of_sound hclosed hsound hsame)
  case h_14 d a =>
    cases h
    exact show execFrsq d a s = _ from issue_of_floatPlaced hclosed hready (f32un_of_sound hclosed hsound hsame)
  case h_15 d a =>
    cases h
    exact show execFexp2 d a s = _ from issue_of_floatPlaced hclosed hready (f32un_of_sound hclosed hsound hsame)
  case h_16 d a =>
    cases h
    exact show execFlog2 d a s = _ from issue_of_floatPlaced hclosed hready (f32un_of_sound hclosed hsound hsame)
  case h_17 d a =>
    cases h
    exact show execFtanh d a s = _ from issue_of_floatPlaced hclosed hready (f32un_of_sound hclosed hsound hsame)
  case h_18 => cases h

/-- Settles O5. -/
theorem scalarFloatWordsComplete : Obligations.ScalarFloatWordsComplete := fun _ _ _ hword hready hclosed hsound hsame =>
  exec_of_scalarFloat hword hclosed hready hsound hsame

/-! ## Packed elements, conversions, scaled 4-bit elements (R189, R191 to R193, R198, R199) -/

/-- Bits from 0 up are the low part. -/
theorem bits_zero_eq_extractLsb' (x : Word) (n : Nat) : bits x.toNat 0 n = (x.extractLsb' 0 n).toNat := by
  simp [bits, BitVec.extractLsb'_toNat]

/-- A target code of 4 bits is the one that its number says. -/
theorem target_eq {tgt : BitVec 4} {n : Nat} (h : tgt.toNat = n) : tgt = BitVec.ofNat 4 n := by
  rw [← h, BitVec.ofNat_toNat, BitVec.setWidth_eq]

/-- The entries of R189, R191 to R193, R198 and R199. -/
theorem exec_of_packedFloat {s : State} {i : Instr} {w : FloatWord} (h : packedFloat s i = some w) (hclosed : Closed s)
    (hready : Ready s i) (hsound : Sound s (w.xs ++ w.ys)) (hsame : ¬ formatsDiffer s w) : exec i s = .next (floatDone s w) := by
  unfold packedFloat at h
  split at h
  case h_1 u rm d a b =>
    cases h
    exact show execHadd2 u rm d a b s = _ from issue_of_floatPlaced hclosed hready (halfChecked_of_sound hclosed _ hsound hsame)
  case h_2 u rm d a b =>
    cases h
    exact show execHmul2 u rm d a b s = _ from issue_of_floatPlaced hclosed hready (halfChecked_of_sound hclosed _ hsound hsame)
  case h_3 u rm d a b =>
    cases h
    exact show execHfma2 u rm d a b s = _ from issue_of_floatPlaced hclosed hready (halfChecked_of_sound hclosed _ hsound hsame)
  case h_4 u d a b =>
    cases h
    exact show execHmax2 u d a b s = _ from issue_of_floatPlaced hclosed hready (halfOp_of_sound hclosed hsound hsame)
  case h_5 rm d a tgt =>
    split at h
    case h_1 n hn =>
      cases h
      cases target_eq hn
      exact show execCvtf rm d a _ s = _ from issue_of_floatPlaced hclosed hready (f32un_of_sound hclosed hsound hsame)
    case h_2 n hn =>
      cases h
      cases target_eq hn
      exact show execCvtf rm d a _ s = _ from issue_of_floatPlaced hclosed hready (convert_of_sound hclosed hsound hsame)
    case h_3 n hn =>
      cases h
      cases target_eq hn
      exact show execCvtf rm d a _ s = _ from issue_of_floatPlaced hclosed hready (convert_of_sound hclosed hsound hsame)
    case h_4 n hn =>
      cases h
      cases target_eq hn
      exact show execCvtf rm d a _ s = _ from issue_of_floatPlaced hclosed hready (convert_of_sound hclosed hsound hsame)
    case h_5 n hn =>
      cases h
      cases target_eq hn
      exact show execCvtf rm d a _ s = _ from issue_of_floatPlaced hclosed hready (convert_of_sound hclosed hsound hsame)
    case h_6 => cases h
  case h_6 rm d a tgt =>
    split at h
    case h_1 n hn =>
      cases h
      cases target_eq hn
      exact show execCvti rm d a _ s = _ from issue_of_floatPlaced hclosed hready (convert_of_sound hclosed hsound hsame)
    case h_2 n hn =>
      cases h
      cases target_eq hn
      exact show execCvti rm d a _ s = _ from issue_of_floatPlaced hclosed hready (convert_of_sound hclosed hsound hsame)
    case h_3 n hn =>
      cases h
      cases target_eq hn
      exact show execCvti rm d a _ s = _ from issue_of_floatPlaced hclosed hready (convert_of_sound hclosed hsound hsame)
    case h_4 => cases h
  case h_7 rm d a tgt =>
    split at h
    case h_1 n hn =>
      cases h
      cases target_eq hn
      exact show execCvtfi rm d a _ s = _ from issue_of_floatPlaced hclosed hready (convert_of_sound hclosed hsound hsame)
    case h_2 n hn =>
      cases h
      cases target_eq hn
      exact show execCvtfi rm d a _ s = _ from issue_of_floatPlaced hclosed hready (convert_of_sound hclosed hsound hsame)
    case h_3 => cases h
  case h_8 rm d a tgt =>
    split at h
    case h_1 n hn =>
      cases h
      cases target_eq hn
      exact show execPk2 rm d a _ s = _ from issue_of_floatPlaced hclosed hready (packRun_of_sound hclosed rfl hsound hsame)
    case h_2 n hn =>
      cases h
      cases target_eq hn
      exact show execPk2 rm d a _ s = _ from issue_of_floatPlaced hclosed hready (packRun_of_sound hclosed rfl hsound hsame)
    case h_3 n hn =>
      cases h
      cases target_eq hn
      exact show execPk2 rm d a _ s = _ from issue_of_floatPlaced hclosed hready (packRun_of_sound hclosed rfl hsound hsame)
    case h_4 => cases h
  case h_9 rm d a tgt =>
    split at h
    case h_1 n hn =>
      cases h
      cases target_eq hn
      exact show execPk4 rm d a _ s = _ from issue_of_floatPlaced hclosed hready (packRun_of_sound hclosed rfl hsound hsame)
    case h_2 n hn =>
      cases h
      cases target_eq hn
      exact show execPk4 rm d a _ s = _ from issue_of_floatPlaced hclosed hready (packRun_of_sound hclosed rfl hsound hsame)
    case h_3 n hn =>
      cases h
      cases target_eq hn
      exact show execPk4 rm d a _ s = _ from issue_of_floatPlaced hclosed hready (packRun_of_sound hclosed rfl hsound hsame)
    case h_4 => cases h
  case h_10 d a tgt =>
    split at h
    case h_1 n hn =>
      cases h
      cases target_eq hn
      exact show execUnpk2 d a _ s = _ from issue_of_floatPlaced hclosed hready (unpackRun_of_sound hclosed hsound hsame)
    case h_2 n hn =>
      cases h
      cases target_eq hn
      exact show execUnpk2 d a _ s = _ from issue_of_floatPlaced hclosed hready (unpackRun_of_sound hclosed hsound hsame)
    case h_3 => cases h
  case h_11 d a tgt =>
    split at h
    case h_1 n hn =>
      cases h
      cases target_eq hn
      exact show execUnpk4 d a _ s = _ from issue_of_floatPlaced hclosed hready (unpackRun_of_sound hclosed hsound hsame)
    case h_2 n hn =>
      cases h
      cases target_eq hn
      exact show execUnpk4 d a _ s = _ from issue_of_floatPlaced hclosed hready (unpackRun_of_sound hclosed hsound hsame)
    case h_3 => cases h
  case h_12 rm d a tgt =>
    cases h
    refine show execDqe2 rm d a tgt s = _ from issue_of_floatPlaced hclosed hready (fpOp_of_sound hclosed hsound hsame ?_)
    funext t l
    rw [bits_zero_eq_extractLsb', tagOf_eq_codeTag]
    rfl
  case h_13 rm d a =>
    cases h
    refine show execQe2 rm d a s = _ from issue_of_floatPlaced hclosed hready (fpOp_of_sound hclosed hsound hsame ?_)
    funext t l
    rw [bits_zero_eq_extractLsb']
    rfl
  case h_14 => cases h

/-- Settles O6. -/
theorem packedAndConvertWordsComplete : Obligations.PackedAndConvertWordsComplete := fun _ _ _ hword hready hclosed hsound hsame =>
  exec_of_packedFloat hword hclosed hready hsound hsame

/-! ## Codebooks (R166, R194 to R197) -/

/-- The selected slot is awaited, as a word that stands first in its chain finds. -/
theorem State.slotPending_iff {s : State} (hfollow : s.cur.follow = false) :
    State.slotPending s s.g.cbs.toNat = true ↔ slotAwaited s := by
  simp only [State.slotPending, slotAwaited, hfollow, Bool.not_false, Bool.true_and, List.any_eq_true]
  refine exists_congr fun o => and_congr_right fun _ => ?_
  split
  · next k hk => simp [hk]
  · next hk => simpa using hk _

/-- The entry of a codebook word: the slot that is awaited, the sources with their formats, the slot's number against CB. -/
def State.bookEffect (s : State) (w : FloatWord) : Eff := State.decodeOp s w.xs w.raw w.lat w.dst.toNat w.n (fun _ => w.out)

/-- A word that decodes or encodes through the selected slot. -/
theorem issue_of_decodeOp {s : State} {i : Instr} {body : State → Eff} {w : FloatWord}
    {f : State → Tag → Nat → List Word × Tag × Word} (hclosed : Closed s) (hready : Ready s i)
    (hbody : body s = State.decodeOp s w.xs w.raw w.lat w.dst.toNat w.n f) (hf : f s = w.out) :
    issue i body s = .next (State.finish s (State.bookEffect s w)) := by
  refine issue_of_entry hclosed hready (hbody.trans ?_)
  rw [State.bookEffect, ← hf]
  rfl

/-- DQCB and QCB. -/
theorem exec_of_codebookFloat {s : State} {i : Instr} {w : FloatWord} (h : codebookFloat s i = some w) (hclosed : Closed s)
    (hready : Ready s i) : exec i s = .next (State.finish s (State.bookEffect s w)) ∧ w.ys = [] := by
  unfold codebookFloat at h
  split at h
  case h_1 rm d a tgt =>
    cases h
    refine ⟨show execDqcb rm d a tgt s = _ from issue_of_decodeOp hclosed hready rfl ?_, rfl⟩
    rw [tagOf_eq_codeTag]
    rfl
  case h_2 rm d a =>
    cases h
    exact ⟨show execQcb rm d a s = _ from issue_of_decodeOp hclosed hready rfl rfl, rfl⟩
  case h_3 => cases h

section
variable {s : State} {w : FloatWord}

/-- A slot that is awaited makes the word wait. -/
theorem State.bookEffect_of_slotAwaited (hfollow : s.cur.follow = false) (hslot : slotAwaited s) :
    State.bookEffect s w = .stall .regdep [] := by
  rw [State.bookEffect, State.decodeOp, if_pos ((State.slotPending_iff hfollow).2 hslot)]

/-- With the slot loaded and sound sources of one format the slot's number decides. -/
theorem State.bookEffect_of_sound (hclosed : Closed s) (hfollow : s.cur.follow = false) (hys : w.ys = [])
    (hsound : Sound s (w.xs ++ w.ys)) (hsame : ¬ formatsDiffer s w) (hslot : ¬ slotAwaited s) :
    State.bookEffect s w =
      if s.g.cbs.toNat ≥ s.g.lr.cb then .trap s .illegal s.cur.mask 0 else .ok (floatPlaced s w) := by
  have hop := fpOp_of_sound (w := w) (f := fun _ => w.out) hclosed hsound hsame rfl
  rw [hys] at hop
  rw [State.bookEffect, State.decodeOp, if_neg (mt (State.slotPending_iff hfollow).1 hslot), hop]

end

/-- Settles O7: the four clauses are the branches of a codebook word's entry, and CBSEL's. -/
theorem codebookWordsComplete : Obligations.CodebookWordsComplete := by
  refine ⟨fun s i w hword hready hclosed hsound hsame hslot hcb => ?_, fun s i w hword hready hclosed hslot => ?_,
    fun s i w hword hready hclosed hsound hsame hslot hcb => ?_,
    fun s k hready hclosed => show execCbsel k s = _ from issue_of_entry hclosed hready rfl⟩
  · obtain ⟨hexec, hys⟩ := exec_of_codebookFloat hword hclosed hready
    rw [hexec, State.bookEffect_of_sound hclosed hready.2.2.1 hys hsound hsame hslot, if_neg (Nat.not_le.2 hcb)]
    rfl
  · obtain ⟨hexec, -⟩ := exec_of_codebookFloat hword hclosed hready
    rw [hexec, State.bookEffect_of_slotAwaited hready.2.2.1 hslot, State.finish_stall]
  · obtain ⟨hexec, hys⟩ := exec_of_codebookFloat hword hclosed hready
    rw [hexec, State.bookEffect_of_sound hclosed hready.2.2.1 hys hsound hsame hslot, if_pos hcb,
      State.finish_trap s s .illegal s.cur.mask 0 hready.wait_eq_none]

end Sys2Proof.Machine

/-! # The one step of a machine with one group (R88, R104, R109, R120) -/

namespace Sys2Proof.Machine

open Rules

/-- A due event of another agent is the step. -/
theorem step_of_event {s : State} {e : Instr} {r : List Instr} (h : s.events = e :: r) :
    step s = exec e { s with events := r } := by
  rw [step, State.next, h]

section
variable {s : State} {a : Word}

/-- The machine's one group is at the issue port. -/
theorem Rules.OnlyGroup.allGroups (h : OnlyGroup s a) : State.allGroups s = [s.g] := by
  rw [State.allGroups, h.stands, h.alone]
  rfl

/-- The group stands at the issue port. -/
theorem Rules.OnlyGroup.toPort (h : OnlyGroup s a) : State.toPort s s.g.hall s.g.slot = s := by
  simp [State.toPort, Group.at_, h.stands]

/-- Nothing of the group waits to be served. -/
theorem Rules.OnlyGroup.serve (h : OnlyGroup s a) : State.serve s s.g = none := by
  simp [State.serve, State.watchStop, h.toPort, h.noHalt, h.started, h.noWatch, h.noWait]

/-- The group may start the chain that its attempt gives. -/
theorem Rules.OnlyGroup.able {o : Out} (h : OnlyGroup s a) (ho : State.attempt s = .go o) : State.able s = [(s.g, o)] := by
  have htry : State.tryGroup s s.g = .go o := by
    simp [State.tryGroup, h.started, h.notGone, Nat.not_lt.2 h.idle, h.free, h.toPort, ho, Nat.not_lt.2 h.ready]
  simp [State.able, h.allGroups, h.port, htry]

/-- No group owes itself. -/
theorem owes_self (x : Group) : owes x x = false := by
  unfold owes
  split
  · next t e ht _ => simp [ht]
  · rfl

/-- Of one group's chain the choice is that chain. -/
theorem choices_singleton (x : Group × Out) : choices [x] = [x] := by
  simp [choices, owes_self]

/-- No group's reservation is granted before its own. -/
theorem State.grantsBefore_self (s : State) (x : Group) : State.grantsBefore s x x = false := by
  simp [State.grantsBefore]

/-- Of one chain that may start it is chosen. -/
theorem State.choose_singleton (s : State) (x : Group × Out) : State.choose s [x] = some x := by
  simp [State.choose, State.grantsBefore_self]

/-- With one choice no other flight is refused. -/
theorem State.refuse_singleton (s t : State) (x : Group × Out) : State.refuse s t x [x] = t := by
  simp [State.refuse]

/-- The step is the chain of the one group. -/
theorem Rules.OnlyGroup.step_eq {t : State} (h : OnlyGroup s a) (ht : State.attempt s = .go (.next t)) : step s = .next t := by
  rw [step, State.next, h.noEvent]
  simp [h.cycle, h.allGroups, h.serve, h.able ht, choices_singleton, State.choose_singleton, State.refuse_singleton]

end

section
variable {s u : State} {a : Word} {ws : List Nat} {w : Nat} {i : Instr}

/-- The chain's instruction is the one that its word decodes to. -/
theorem Rules.OneWord.instrs (h : OneWord ws a w i) : Chain.instrs (readChain ws a) = some [(a, i)] := by
  simp [Chain.instrs, h.run, h.decodes]

/-- A chain of one word that passes its checks passes them. -/
theorem Rules.OneWord.chainCheck (h : OneWord ws a w i) (hcheck : State.wordCheck u i = none) :
    State.chainCheck u (readChain ws a) = none := by
  simp [State.chainCheck, h.packet, h.chain, h.instrs, hcheck]

/-- The issue cycles of a chain of one word, before the thermal limit. -/
theorem Rules.OneWord.chainFigure (h : OneWord ws a w i) : Chain.figure (readChain ws a) = max 4 (Instr.issueFigure i) := by
  simp [Chain.figure, h.run, h.decodes]

/-- The issue cycles of a chain of one word. -/
theorem Rules.OneWord.figure (h : OneWord ws a w i) : State.figure u (readChain ws a) = chainCycles u w i := by
  have hmma : (u.pkg.thermal && (readChain ws a).words.any (fun w => wordPipe w.2 == .mma)) = true ↔
      u.pkg.thermal = true ∧ wordPipe w = .mma := by
    simp [h.run]
  rw [State.figure, chainCycles, h.chainFigure]
  by_cases hslow : u.pkg.thermal = true ∧ wordPipe w = .mma
  · rw [if_pos (hmma.2 hslow), if_pos hslow]
    omega
  · rw [if_neg (mt hmma.1 hslow), if_neg hslow]

/-- The attempt of a group with a chain of one word is that word, and what the issue does besides. -/
theorem Rules.OnlyGroup.attempt_eq {t : State} (hgroup : OnlyGroup s a) (hword : OneWord ws a w i)
    (hfetch : State.fetch (atChain s a) s.g a = .packet ws u) (hregs : State.regWait u i = false)
    (hcheck : State.wordCheck (State.traceSync u) i = none)
    (hexec : exec i { State.traceSync u with
      cur := { (State.traceSync u).cur with wordPc := a, follow := false, status := .done } } = .next t)
    (hstall : ∀ r, t.cur.status ≠ .stalled r) : State.attempt s = .go (.next (chainDone s u t a ws w i)) := by
  have hrun : runChain [(a, i)] (State.traceSync u) = .next t := hexec
  have hfetch' := hfetch
  unfold atChain at hfetch'
  rw [State.attempt, hgroup.address]
  dsimp only
  rw [hgroup.noBreak]
  dsimp only
  rw [hgroup.noReplay, if_neg (by decide), hfetch']
  dsimp only
  rw [hword.instrs, Option.getD_some, List.any_cons, hregs, List.any_nil, Bool.or_self]
  rw [if_neg Bool.false_ne_true, hword.chainCheck hcheck, hrun, hword.figure]
  dsimp only
  split
  · next r hr => exact absurd hr (hstall r)
  · rfl

end

/-- A packet that can be read from the memory is fetched. -/
theorem State.fetch_of_fetchable {s : State} {g : Group} {a : Word} {l : DWord} {pte : Nat}
    (h : Fetchable s g (State.packetAt s g a) l pte) :
    ∃ u, State.fetch s g a = .packet (packetRead s g (State.packetAt s g a) l) u := by
  have hpublished : (Leaf.s l && (State.buffer s g.ctx (vaOf (State.packetAt s g a))).isNone) = false := by
    cases hs : Leaf.s l
    · rfl
    · simpa [Option.isSome_iff_ne_none] using h.published hs
  have hfails : fetchFails s g.ctx (vaOf (State.packetAt s g a)) l = false := by
    simp [fetchFails, hpublished, h.executable, h.notWritable]
  have hwaits : fetchWaits s g.ctx (vaOf (State.packetAt s g a)) l = false := by
    simp [fetchWaits, h.resident, h.still, h.home]
  refine ⟨(State.fillPacket s g.hall g.ctx (vaOf (State.packetAt s g a)) l).2, ?_⟩
  simp [State.fetch, h.window, h.miss, h.leaf, hpublished, hfails, hwaits]
  rfl

/-- Settles O43: the due event, the one group's attempt, the fetch. -/
theorem stepRunsTheDecodedInstruction : Obligations.StepRunsTheDecodedInstruction :=
  ⟨fun _ _ _ h => step_of_event h,
    fun _ _ _ _ _ _ _ hgroup hword hfetch hregs hcheck hexec hstall =>
      hgroup.step_eq (hgroup.attempt_eq hword hfetch hregs hcheck hexec hstall),
    fun _ _ _ _ _ h => State.fetch_of_fetchable h⟩

end Sys2Proof.Machine

/-! # The issue address (R109) -/

namespace Sys2Proof.Machine

open Rules

/-! ## Lanes and masks -/

/-- The lanes are the numbers below 32. -/
theorem mem_lanesOf {l : Nat} : l ∈ lanesOf ↔ l < 32 :=
  ⟨(by decide : ∀ l ∈ lanesOf, l < 32) l, (by decide : ∀ l < 32, l ∈ lanesOf) l⟩

theorem Mask.mem_lanes_iff {m : Mask} {l : Nat} : l ∈ Mask.lanes m ↔ l < 32 ∧ m.getLsbD l = true := by
  rw [Mask.lanes, List.mem_filter, mem_lanesOf]

/-- A mask is empty where no lane satisfies its condition. -/
theorem maskOf_eq_zero_iff {p : Nat → Bool} : maskOf p = 0 ↔ ∀ l < 32, p l = false := by
  constructor
  · intro h l hl
    rw [← maskOf_getLsbD p l hl, h]
    exact BitVec.getLsbD_zero
  · intro h
    refine BitVec.eq_of_getLsbD_eq fun l hl => ?_
    rw [maskOf_getLsbD p l hl, h l hl]
    exact BitVec.getLsbD_zero.symm

/-! ## The least lpc -/

/-- The model's fold over lanes is the search for a lane with the least lpc. -/
theorem foldl_least_lpc (xs : List Lane) (o : Option Lane) :
    xs.foldl (fun m l => match m with
        | none => some l.lpc
        | some x => if l.lpc.toNat < x.toNat then some l.lpc else some x) (o.map Lane.lpc) =
      (xs.foldl (List.argAux fun b c => b.lpc.toNat < c.lpc.toNat) o).map Lane.lpc := by
  induction xs generalizing o with
  | nil => rfl
  | cons x xs ih =>
    rw [List.foldl_cons, List.foldl_cons, ← ih]
    congr 1
    cases o with
    | none => rfl
    | some y => exact (apply_ite (Option.map Lane.lpc) (x.lpc.toNat < y.lpc.toNat) (some x) (some y)).symm

/-- The issue address is the lpc of a live lane with the least lpc. -/
theorem Group.issueAddr_eq_argmin (g : Group) :
    Group.issueAddr g = ((g.lanes.filter Lane.live).argmin (fun x => x.lpc.toNat)).map Lane.lpc :=
  foldl_least_lpc (g.lanes.filter Lane.live) none

theorem Lane.live_iff {x : Lane} : Lane.live x = true ↔ x.mode = .live := by
  simp [Lane.live]

/-- Only a group with no live lane has no issue address. -/
theorem Group.issueAddr_eq_none_iff {g : Group} : Group.issueAddr g = none ↔ ∀ x ∈ g.lanes, x.mode ≠ .live := by
  simp [Group.issueAddr_eq_argmin, List.argmin_eq_none, List.filter_eq_nil_iff, Lane.live_iff]

/-- A live lane stands at the issue address, and none stands below it. -/
theorem Group.issueAddr_eq_some {g : Group} {a : Word} (h : Group.issueAddr g = some a) :
    (∃ x ∈ g.lanes, x.mode = .live ∧ x.lpc = a) ∧ ∀ x ∈ g.lanes, x.mode = .live → a.toNat ≤ x.lpc.toNat := by
  rw [Group.issueAddr_eq_argmin, Option.map_eq_some_iff] at h
  obtain ⟨x, hx, rfl⟩ := h
  obtain ⟨hmem, hlive⟩ := List.mem_filter.1 (List.argmin_mem hx)
  exact ⟨⟨x, hmem, Lane.live_iff.1 hlive, rfl⟩,
    fun y hy hlive => List.le_of_mem_argmin (f := fun x : Lane => x.lpc.toNat)
      (List.mem_filter.2 ⟨hy, Lane.live_iff.2 hlive⟩) hx⟩

/-- The active mask at an issue address. -/
theorem Group.activeMask_getLsbD {g : Group} {a : Word} {l : Nat} (h : Group.issueAddr g = some a) (hl : l < 32) :
    (Group.activeMask g).getLsbD l = true ↔ (Group.lane g l).mode = .live ∧ (Group.lane g l).lpc = a := by
  rw [Group.activeMask, h]
  simp [maskOf_getLsbD _ l hl, Lane.live_iff]

/-- The lanes of a group of 32 by their numbers. -/
theorem Group.mem_lanes_iff {g : Group} {x : Lane} (hg : g.lanes.length = 32) :
    x ∈ g.lanes ↔ ∃ l < 32, Group.lane g l = x := by
  rw [List.mem_iff_getElem, ← hg]
  constructor
  · rintro ⟨l, hl, rfl⟩
    exact ⟨l, hl, List.getD_eq_getElem _ _ hl⟩
  · rintro ⟨l, hl, rfl⟩
    exact ⟨l, hl, (List.getD_eq_getElem _ _ hl).symm⟩

/-- Settles O58: the issue address is the least lpc among the live lanes, and the active mask compares with it. -/
theorem issueAddressIsTheLeast : Obligations.IssueAddressIsTheLeast := by
  intro g hg
  refine ⟨?_, fun a ha => ?_⟩
  · rw [Group.issueAddr_eq_none_iff]
    simp [Group.mem_lanes_iff hg]
  · obtain ⟨⟨x, hx, hstands⟩, hleast⟩ := Group.issueAddr_eq_some ha
    obtain ⟨k, hk, rfl⟩ := (Group.mem_lanes_iff hg).1 hx
    exact ⟨⟨k, hk, hstands⟩, fun l hl => hleast _ ((Group.mem_lanes_iff hg).2 ⟨l, hl, rfl⟩),
      fun l hl => Group.activeMask_getLsbD ha hl⟩

/-! # Branches and jumps (R107, R147 to R149) -/

/-- A branch outside every region records nothing; each active lane goes to the target or on. -/
theorem State.branch_of_sound {s : State} {p : RegNo} {taken : Word → Bool} (off : BitVec 15) (slot : BitVec 2) (hclosed : Closed s)
    (hsound : Sound s [consumed p false []]) :
    State.branch s p off slot taken = .jump (lanesTo s (fun l =>
      if taken (reg s l p.toNat) then branchTarget s.cur.wordPc off slot else nextWord s.cur.wordPc)) := by
  refine (withSources_of_sound _ hsound).trans ?_
  dsimp only
  rw [State.constrain_all_closed s 1 _ _ hclosed]
  rfl

/-- Results leave what stands at the issue port. -/
@[simp] theorem writes_cur (s : State) (w : LaneWord) : (writes s w).cur = s.cur := by
  rw [writes_eq]
  rfl

/-- Settles O9: each word's entry sets lpc in the active lanes, CALL once its link is placed. -/
theorem branchWordsComplete : Obligations.BranchWordsComplete := by
  intro s p off slot hclosed
  refine ⟨fun hready hsound => ?_, fun hready hsound => ?_, fun hready => ?_, fun hready => ?_⟩
  · refine show execBr p off slot s = _ from
      (issue_of_entry hclosed hready (State.branch_of_sound off slot hclosed hsound)).trans ?_
    simp only [bne_iff_ne]
    rfl
  · refine show execBrz p off slot s = _ from
      (issue_of_entry hclosed hready (State.branch_of_sound off slot hclosed hsound)).trans ?_
    simp only [beq_iff_eq]
    rfl
  · exact show execJmp off slot s = _ from issue_of_entry (e := .jump _) hclosed hready rfl
  · refine show execCall p off slot s = _ from issue_of_entry (e := .jump _) hclosed hready ?_
    have hlink : State.results s [] 6 p.toNat 1 (fun _ => [(nextWord s.cur.wordPc, .i32)]) (fun _ => none) =
        writes s { srcs := [], lat := 6, dst := p, n := 1, out := one (fun _ => nextWord s.cur.wordPc) } :=
      results_eq_writes (w := { srcs := [], lat := 6, dst := p, n := 1, out := _ }) _ hclosed rfl
    dsimp only
    rw [hlink, lanesTo, writes_cur]
    rfl

/-! ## Jumps through a register (R107, R149) -/

/-- Every target is valid just where no lane's is bad. -/
theorem badTargets_eq_zero_iff {s : State} {a : RegNo} {u : Bool} : badTargets s a u = 0 ↔ TargetsValid s a u := by
  rw [badTargets, maskOf_eq_zero_iff, TargetsValid]
  simp only [Mask.mem_lanes_iff, and_imp]
  refine forall₂_congr fun l _ => ?_
  simp

/-- An entry that checks the targets in a register, then changes the state with lpc included. -/
def checkedJump (s : State) (a : RegNo) (u : Bool) (k : State → State) : Eff :=
  State.withSources s [consumed a u [.i32]] (fun s =>
    if badTargets s a u ≠ 0 then .trap s .bounds (badTargets s a u) 0
    else .jump (k (State.exactSources s [consumed a u [.i32]] (State.inRegion s))))

/-- A word with such an entry and sound sources: with every target valid the change stands, else the lanes without one trap. -/
theorem next_of_checkedJump {s : State} {a : RegNo} {u : Bool} {k : State → State} {o : Out} (hclosed : Closed s)
    (hwait : s.g.wait = none) (hsound : Sound s [consumed a u [.i32]]) (ho : o = .next (State.finish s (checkedJump s a u k))) :
    (TargetsValid s a u → o = .next (jumped (k s))) ∧
      (¬ TargetsValid s a u → o = .next (State.takeTrap s .bounds (badTargets s a u) 0 s.cur.chainPc)) := by
  rw [ho, checkedJump, withSources_of_sound _ hsound, State.exactSources_closed s _ _ hclosed, ← badTargets_eq_zero_iff]
  refine ⟨fun hvalid => ?_, fun hbad => ?_⟩
  · rw [if_neg (not_not.2 hvalid)]
    rfl
  · rw [if_pos hbad, State.finish_trap _ _ _ _ _ hwait]

/-- Settles O10: JR and RET are one entry, which checks the targets. -/
theorem indirectJumpsComplete : Obligations.IndirectJumpsComplete := by
  intro s a u i hi hclosed hready hsound
  have hjump : exec i s = .next (State.finish s (checkedJump s a u (fun t =>
      State.updG t (fun g => Group.mapLanes g s.cur.mask (fun l x => { x with lpc := src s l a.toNat u }))))) := by
    rcases hi with rfl | rfl
    · exact show execJr a u s = _ from issue_of_entry hclosed hready rfl
    · exact show execRet a u s = _ from issue_of_entry hclosed hready rfl
  exact next_of_checkedJump hclosed hready.wait_eq_none hsound hjump

/-! # WRS (R107, R154, R181 to R183) -/

/-- The model's test for flags that are owed is the statement's. -/
theorem State.flagsPending_iff (s : State) : State.flagsPending s = true ↔ FlagsOwed s := by
  rw [State.flagsPending, FlagsOwed, Bool.or_eq_true, List.any_eq_true, List.any_eq_true]
  simp only [decide_eq_true_eq]
  refine or_congr Iff.rfl (exists_congr fun o => and_congr_right fun _ => ?_)
  split
  · next n d sc ord h => simp [h]
  · next h => simpa using h

/-- What WRS does with the value of the lowest lane. -/
def stateWritten (s : State) (n : Nat) (v : Word) : Eff :=
  if n = 0x018 then
    if v.toNat ≥ 32 then .trap s .illegal s.cur.mask 0
    else if State.flagsPending s then .stall .regdep []
    else .ok (withG s { s.g with fpflags := v })
  else if n = 0x019 then
    if v.toNat ≥ 8 then .trap s .illegal s.cur.mask 0
    else .ok (withG s { s.g with cbs := BitVec.ofNat 3 v.toNat })
  else .ok (withG s { s.g with trappc := v })

section
variable {s : State} {a : RegNo}

/-- Of FPFLAGS, FPMODE, and in trap mode of TRAPPC, WRS writes its sound source's value. -/
theorem exec_wrs_of_sound {n : BitVec 10} (hclosed : Closed s) (hready : Ready s (.wrs a n)) (hsound : Sound s [lowestSrc a])
    (hlpc : n.toNat ≠ 0x040) (hmode : n.toNat = 0x023 → s.g.trapMode = true) :
    exec (.wrs a n) s = .next (State.finish s (stateWritten s n.toNat (lowestValue s a))) := by
  refine show execWrs a n s = _ from issue_of_entry hclosed hready ?_
  have hallowed : ¬ (n.toNat = 0x023 ∧ s.g.trapMode = false) := fun ⟨hn, hoff⟩ => Bool.false_ne_true (hoff.symm.trans (hmode hn))
  refine (if_neg hlpc).trans ((if_neg hallowed).trans ((withSources_of_sound _ hsound).trans ?_))
  dsimp only
  rw [State.exactSources_closed s _ _ hclosed]
  rfl

/-- Outside trap mode WRS of TRAPPC traps, whatever its source. -/
theorem exec_wrs_trappc_of_not_trapMode (hclosed : Closed s) (hready : Ready s (.wrs a 0x023)) (hmode : s.g.trapMode = false) :
    exec (.wrs a 0x023) s = .next (State.takeTrap s .illegal s.cur.mask 0 s.cur.chainPc) := by
  rw [← State.finish_trap s s .illegal s.cur.mask 0 hready.wait_eq_none]
  exact show execWrs a 0x023 s = _ from issue_of_entry hclosed hready ((if_neg (by decide)).trans (if_pos ⟨rfl, hmode⟩))

end

/-- FPFLAGS has five flags, and waits for those owed. -/
theorem stateWritten_fpflags (s : State) (v : Word) : stateWritten s 0x018 v =
    if v.toNat ≥ 32 then .trap s .illegal s.cur.mask 0
    else if State.flagsPending s then .stall .regdep []
    else .ok (withG s { s.g with fpflags := v }) := rfl

/-- FPMODE has the three bits of CBS. -/
theorem stateWritten_fpmode (s : State) (v : Word) : stateWritten s 0x019 v =
    if v.toNat ≥ 8 then .trap s .illegal s.cur.mask 0
    else .ok (withG s { s.g with cbs := v.extractLsb' 0 3 }) := by
  have hlow : BitVec.ofNat 3 v.toNat = v.extractLsb' 0 3 := by
    apply BitVec.eq_of_toNat_eq
    simp [BitVec.extractLsb'_toNat]
  rw [← hlow]
  rfl

/-- Settles O13: FPFLAGS, FPMODE and TRAPPC by what is done with the lowest lane's value, lpc as a jump through a register. -/
theorem writeStateCompletes : Obligations.WriteStateCompletes := by
  intro s a hclosed
  refine ⟨fun hready hsound => ?fpflags, fun hready hsound => ?fpmode, fun hready => ⟨fun hmode hsound => ?trappc, ?outside⟩,
    fun hready hsound => ?lpc⟩
  case fpflags =>
    have hexec : exec (.wrs a 0x018) s = .next (State.finish s (stateWritten s 0x018 (lowestValue s a))) :=
      exec_wrs_of_sound hclosed hready hsound (by decide) (fun h => absurd h (by decide))
    rw [hexec, stateWritten_fpflags]
    refine ⟨fun hsmall howed => ?_, fun hlarge => ?_⟩
    · rw [if_neg (Nat.not_le.2 hsmall), if_neg (mt (State.flagsPending_iff s).1 howed)]
      rfl
    · rw [if_pos hlarge, State.finish_trap _ _ _ _ _ hready.wait_eq_none]
  case fpmode =>
    have hexec : exec (.wrs a 0x019) s = .next (State.finish s (stateWritten s 0x019 (lowestValue s a))) :=
      exec_wrs_of_sound hclosed hready hsound (by decide) (fun h => absurd h (by decide))
    rw [hexec, stateWritten_fpmode]
    refine ⟨fun hsmall => ?_, fun hlarge => ?_⟩
    · rw [if_neg (Nat.not_le.2 hsmall)]
      rfl
    · rw [if_pos hlarge, State.finish_trap _ _ _ _ _ hready.wait_eq_none]
  case trappc =>
    exact exec_wrs_of_sound hclosed hready hsound (by decide) (fun _ => hmode)
  case outside =>
    exact exec_wrs_trappc_of_not_trapMode hclosed hready
  case lpc =>
    have hjump : exec (.wrs a 0x040) s = .next (State.finish s (checkedJump s a false (fun t => State.updG t (fun g =>
        { Group.mapLanes g s.cur.mask (fun l x => { x with lpc := reg s l a.toNat }) with syncOwed := some 6 })))) :=
      show execWrs a 0x040 s = _ from issue_of_entry hclosed hready (if_pos rfl)
    exact next_of_checkedJump hclosed hready.wait_eq_none hsound hjump

/-! # EXIT (R108, R150) -/

/-- The state once the active lanes have exited. -/
def lanesExited (s : State) : State :=
  withG s (Group.mapLanes s.g s.cur.mask (fun _ l => { l with mode := .exited, lpc := s.cur.chainPc }))

/-- EXIT outside every region and not parked: its lanes exit, and the last EXIT ends the idempotent region and the group. -/
theorem exec_exit {s : State} (hclosed : Closed s) (hready : Ready s .exit) :
    exec .exit s = .next (State.finish s
      (if Group.allExited (lanesExited s).g then State.finalExit (regionEnds (lanesExited s)) else .jump (lanesExited s))) := by
  refine show execExit s = _ from issue_of_entry hclosed hready ?_
  have hphase : State.phase s .exit ≠ 1 := by simp [State.phase, hready.wait_eq_none]
  rw [State.outside_closed s _ hclosed, if_neg hphase, ← State.endRegion_eq_regionEnds]
  rfl

/-- With every counter zero, no tile operation and nothing deferred the group has exited. -/
theorem State.finalExit_of_quiet {t : State} (hquiet : Group.quiet t.g = true) (hmma : t.g.mma = [])
    (hmoves : Group.tileMoves t.g = false) (hdeferred : NothingDeferred t.g 0) :
    State.finalExit t = .jump (withG t { t.g with exiting := false, hasExited := true, wait := none }) := by
  obtain ⟨hgather, hshadow⟩ := hdeferred
  have hdone : (Group.quiet t.g && t.g.mma.isEmpty && !Group.tileMoves t.g) = true := by simp [hquiet, hmma, hmoves]
  rw [State.finalExit, if_pos hdone]
  dsimp only
  rw [hgather, hshadow]
  rfl

/-- With no store buffered the end of the region leaves the outstanding operations as they are. -/
theorem regionEnds_of_sbuf_eq_nil {t : State} (h : t.g.sbuf = []) :
    regionEnds t = { withG t { t.g with sbuf := [], regions := t.g.regions + 1, restarts := 0 } with
      cur := { t.cur with fresh := true } } := by
  rw [regionEnds, h]
  rfl

/-- Settles O14: lanes are left, or the group has nothing under way and has exited. -/
theorem exitCompletes : Obligations.ExitCompletes := by
  intro s hclosed hready t
  have hexec : exec .exit s = .next (State.finish s
      (if Group.allExited t.g then State.finalExit (regionEnds t) else .jump t)) := exec_exit hclosed hready
  refine ⟨fun hleft => ?_, fun hnone hquiet hsbuf hmma hmoves hdeferred => ?_⟩
  · rw [hexec, if_neg (Bool.eq_false_iff.1 hleft)]
    rfl
  · have hended := regionEnds_of_sbuf_eq_nil (t := t) hsbuf
    rw [hexec, if_pos hnone, State.finalExit_of_quiet (by rw [hended]; exact hquiet) (by rw [hended]; exact hmma)
      (by rw [hended]; exact hmoves) (by rw [hended]; exact hdeferred)]
    rfl

/-! # REGCLM and REGREL (R114, R155) -/

/-- Landings that take effect at once change the registers and the landings alone. -/
theorem Group.landRegs_eq (g : Group) (p : Nat → Bool) :
    ∃ rs, Group.landRegs g p = { g with regs := rs, landings := g.landings.filter (fun x => !p x.reg) } :=
  Group.foldl_land_eq _ _

/-- The pool of the issuing group is its block's, on its flight. -/
theorem State.pool_withG {s : State} {g : Group} (hctx : g.ctx = s.g.ctx) (hseq : g.seq = s.g.seq) (hblk : g.blk = s.g.blk)
    (hslot : g.slot = s.g.slot) : State.pool (withG s g) = State.pool s := by
  simp only [State.pool, withG, hctx, hseq, hblk, hslot]
  rfl

/-- The state whose group holds `k` more blocks of the pool. -/
def claimed (s : State) (k : Nat) : State :=
  withG (regionEnds s) { Group.zeroBlocks (regionEnds s).g s.g.regn (s.g.regn + k) with
    regn := s.g.regn + k, blockMap := s.g.blockMap ++ (State.pool s).take k }

/-- The state whose group holds its first `m` blocks alone. -/
def released (s : State) (m : Nat) : State :=
  withG (regionEnds s)
    { Group.zeroBlocks (Group.landRegs (regionEnds s).g (fun r => decide (8 * m ≤ r))) m s.g.regn with
      regn := m, blockMap := s.g.blockMap.take m }

/-- A release leaves the pool to be changed with the blocks that it gives. -/
theorem pool_released (s : State) (m : Nat) : State.pool (released s m) = State.pool s := by
  obtain ⟨rs, hland⟩ := Group.landRegs_eq (regionEnds s).g (fun r => decide (8 * m ≤ r))
  rw [released, hland]
  exact State.pool_withG rfl rfl rfl rfl

section
variable {s : State} {n : BitVec 4}

/-- The blocks of a claim that may be had are taken from the pool's front. -/
theorem exec_regclm (hclosed : Closed s) (hready : Ready s (.regclm n)) (hroom : s.g.regn + (n.toNat + 1) ≤ 16)
    (hpool : n.toNat + 1 ≤ (State.pool s).length) (holder : State.olderClaim s = false) :
    exec (.regclm n) s = .next (done (State.setPool (claimed s (n.toNat + 1)) ((State.pool s).drop (n.toNat + 1)))) := by
  refine show execRegclm n s = _ from issue_of_entry (e := .ok _) hclosed hready ?_
  have hwait := hready.wait_eq_none
  have hhad : ¬ ((State.pool (regionEnds s)).length < n.toNat + 1 ∨ State.olderClaim (regionEnds s) = true) :=
    not_or.2 ⟨Nat.not_lt.2 hpool, Bool.eq_false_iff.1 holder⟩
  rw [State.outside_closed s _ hclosed]
  simp only [hwait, Option.isSome_none, Bool.false_eq_true, if_false, State.endRegion_eq_regionEnds]
  refine (if_neg (Nat.not_lt.2 hroom)).trans ((if_neg hhad).trans ?_)
  rw [State.unpark_of_none (s := regionEnds s) hwait]
  rfl

/-- The highest blocks go to the pool's end once nothing is under way into them. -/
theorem exec_regrel (hclosed : Closed s) (hready : Ready s (.regrel n)) (hleft : n.toNat + 2 ≤ s.g.regn)
    (hfree : State.blocksBusy (regionEnds s) (s.g.regn - (n.toNat + 1)) = false) :
    exec (.regrel n) s = .next (done (State.setPool (released s (s.g.regn - (n.toNat + 1)))
      (State.pool s ++ s.g.blockMap.drop (s.g.regn - (n.toNat + 1))))) := by
  refine show execRegrel n s = _ from issue_of_entry (e := .ok _) hclosed hready ?_
  have hwait := hready.wait_eq_none
  rw [State.outside_closed s _ hclosed, ← pool_released s (s.g.regn - (n.toNat + 1))]
  simp only [hwait, Option.isSome_none, Bool.false_eq_true, if_false, State.endRegion_eq_regionEnds]
  refine (if_neg (Nat.not_lt.2 hleft)).trans ((if_neg (Bool.eq_false_iff.1 hfree)).trans ?_)
  rw [State.unpark_of_none (s := regionEnds s) hwait]
  rfl

end

/-- Settles O18: the claim and the release, and the counts that forbid them. -/
theorem registerPoolWordsComplete : Obligations.RegisterPoolWordsComplete := by
  intro s n hclosed
  refine ⟨exec_regclm hclosed, fun hready hbeyond => ?_, exec_regrel hclosed, fun hready hnone => ?_⟩
  · rw [← State.finish_trap s s .regalloc s.cur.mask 0 hready.wait_eq_none]
    exact show execRegclm n s = _ from
      issue_of_entry hclosed hready ((State.outside_closed s _ hclosed).trans (if_pos hbeyond))
  · rw [← State.finish_trap s s .regalloc s.cur.mask 0 hready.wait_eq_none]
    exact show execRegrel n s = _ from
      issue_of_entry hclosed hready ((State.outside_closed s _ hclosed).trans (if_pos hnone))

end Sys2Proof.Machine

/-! # RDS (R152, R153, R183) -/

namespace Sys2Proof.Machine

open Rules

/-- The model's pair states are those of `readWord`. -/
theorem pairState_iff (n : BitVec 10) :
    pairState n.toNat = true ↔ n = 0x005 ∨ n = 0x010 ∨ n = 0x015 ∨ n = 0x021 := by
  simp [pairState, or_assoc, ← BitVec.toNat_inj]

/-- The state table as the model and the statements have it; TRAPA's halves alone are written in two ways. -/
theorem State.readState_eq_stateValue (s : State) (n l : Nat) : State.readState s n l = stateValue s n l := by
  rw [State.readState, stateValue, lo32_eq, hi32_eq]
  rfl

/-- An RDS that does not wait for flags places its results. -/
theorem exec_rds_of_not_flagsOwed {s : State} {d : RegNo} {n : BitVec 10} (hclosed : Closed s) (hready : Ready s (.rds d n))
    (hflags : n = 0x018 → ¬ FlagsOwed s) : exec (.rds d n) s = .next (done (writes s (readWord s d n))) := by
  have hgoes : ¬ (n.toNat = 0x018 ∧ State.flagsPending s = true) := fun ⟨hn, hpending⟩ =>
    hflags (BitVec.eq_of_toNat_eq hn) ((State.flagsPending_iff s).1 hpending)
  have hplaced : State.results s [] 6 d.toNat (if pairState n.toNat then 2 else 1) (State.readState s n.toNat)
      (fun _ => none) = writes s (readWord s d n) := by
    simp only [pairState_iff]
    exact results_eq_writes (w := readWord s d n) _ hclosed (funext (State.readState_eq_stateValue s n.toNat))
  refine show execRds d n s = _ from issue_of_entry (e := .ok _) hclosed hready ?_
  exact (if_neg hgoes).trans (congrArg Eff.ok hplaced)

/-- An RDS of FPFLAGS waits for the flags that are owed. -/
theorem exec_rds_fpflags_of_flagsOwed {s : State} {d : RegNo} (hclosed : Closed s) (hready : Ready s (.rds d 0x018))
    (howed : FlagsOwed s) : exec (.rds d 0x018) s = .next (State.note s (.stalled .regdep)) := by
  rw [← State.finish_stall]
  exact show execRds d 0x018 s = _ from
    issue_of_entry hclosed hready (if_pos ⟨rfl, (State.flagsPending_iff s).2 howed⟩)

/-- Settles O12: RDS places the state's value, and of FPFLAGS waits while flags are owed. -/
theorem readStateCompletes : Obligations.ReadStateCompletes := by
  intro s d n hclosed hready
  refine ⟨exec_rds_of_not_flagsOwed hclosed hready, ?_⟩
  rintro rfl howed
  exact exec_rds_fpflags_of_flagsOwed hclosed hready howed

end Sys2Proof.Machine

/-! # Global and scratchpad loads (R194, R216, R218 to R224) -/

namespace Sys2Proof.Machine

open Rules

/-- A word that is ready to issue has an active lane. -/
theorem Rules.Ready.mask_ne_zero {s : State} {i : Instr} (hready : Ready s i) : s.cur.mask ≠ 0 := by
  obtain ⟨-, -, -, hmask, -⟩ := hready
  exact hmask

/-- Every size moves some byte. -/
theorem sizeBytes_pos (sz : Nat) : 0 < sizeBytes sz := by
  unfold sizeBytes
  repeat' split
  all_goals decide

/-- The accesses of a word are those of lanes of its active mask. -/
theorem lane_mem_of_mem_laneAccesses {s : State} {a : RegNo} {off : DWord} {n : Nat} {x : Access}
    (hx : x ∈ laneAccesses s a off n) : x.lane ∈ Mask.lanes s.cur.mask := by
  obtain ⟨l, hl, rfl⟩ := List.mem_map.1 hx
  exact hl

/-! ## The pieces as they are performed (R220) -/

/-- The pieces of the model are those of the statements. -/
theorem splitUnaligned_eq_performed : splitUnaligned = performed := rfl

/-- Each piece is performed for the lane of some access. -/
theorem exists_lane_of_mem_performed {accs : List Access} {n : Nat} {ps : List Piece} {p : Piece} (hp : p ∈ performed accs n ps) :
    ∃ x ∈ accs, p.lane = x.lane := by
  obtain ⟨x, hx, hp⟩ := List.mem_flatMap.1 hp
  have hmine : ∀ q ∈ ps.filter (fun q => q.lane == x.lane), q.lane = x.lane := fun q hq => by
    simpa using (List.mem_filter.1 hq).2
  refine ⟨x, hx, ?_⟩
  dsimp only at hp
  split at hp
  case isTrue => exact hmine p hp
  case isFalse =>
    obtain ⟨q, hq, hp⟩ := List.mem_flatMap.1 hp
    obtain ⟨i, -, rfl⟩ := List.mem_map.1 hp
    exact hmine q hq

/-- Aligned accesses are performed piece by piece, and there is some piece. -/
theorem performed_ne_nil {s : State} {need : Need} {accs : List Access} {n : Nat} {ps : List Piece} (halign : Aligned accs n)
    (hclass : Classified s need accs ps) (hps : ps ≠ []) : performed accs n ps ≠ [] := by
  obtain ⟨p, hp⟩ := List.exists_mem_of_ne_nil ps hps
  obtain ⟨x, hx, hlane⟩ := State.classify_lane hclass p hp
  refine List.ne_nil_of_mem (a := p) (List.mem_flatMap.2 ⟨x, hx, ?_⟩)
  dsimp only
  rw [if_pos (halign x hx)]
  exact List.mem_filter.2 ⟨hp, by simp [hlane]⟩

/-! ## The parts of a load outside every region -/

/-- Outside every region a part has nothing of a region's (R287). -/
theorem map_loadPiece_of_closed {t : State} {ps : List Piece} (hclosed : Closed t) (hlanes : ∀ p ∈ ps, p.lane ∈ lanesOf) :
    ps.map (State.loadPiece t) = loadParts ps :=
  List.map_congr_left fun p hp => by simp [State.loadPiece, State.inRegion_closed t p.lane hclosed (hlanes p hp)]

/-- Touching pages leaves the chain in issue as it is. -/
@[simp] theorem touched_cur (s : State) (accs : List Access) (write : Bool) (ps : List Piece) :
    (touched s accs write ps).cur = s.cur := (State.touch_cur ..).trans (lookedUp_cur s accs)

/-- Touching pages opens no region. -/
theorem closed_touched {s : State} (accs : List Access) (write : Bool) (ps : List Piece) (hclosed : Closed s) :
    Closed (touched s accs write ps) := by
  rw [Closed, touched_g]
  exact hclosed

/-- A word that goes on leaves nothing to the walker. -/
theorem Eff.wanting_ok (want : List Instr) (t : State) : Eff.wanting want (.ok t) = .ok t := rfl

/-- A load is outstanding for the active lanes and counted in lcnt: what the entries of all loads end with. -/
def loadOutstanding (s : State) (op : OutOp) (parts : List LanePart) : State :=
  withG s { outstanding s.g op s.cur.mask parts with lcnt := s.g.lcnt + 1 }

/-- Once the regions of its lanes have noted it, LD or LDO is outstanding for the lanes that are left; it keeps its order if some
part is in no region, and the discard of what it read ends the idempotent region. -/
def loadNoted (s : State) (accs : List Access) (sz : BitVec 3) (t : RegNo) (scope : BitVec 3) (ord : BitVec 2) (last : Bool)
    (ps : List Piece) : Eff :=
  if s.cur.mask = 0 then .jump s
  else
    let parts := (splitUnaligned (accs.filter (fun x => s.cur.mask.getLsbD x.lane)) (bytesOf sz) ps).map (State.loadPiece s)
    let op := OutOp.load false sz.toNat t.toNat scope (if parts.any (fun p => !p.priv) then ord else 0) last
    .ok (if last then State.endRegion (loadOutstanding s op parts) else loadOutstanding s op parts)

/-- The state in which LD and LDO leave a group with no open region. -/
def loadDone (s : State) (accs : List Access) (sz : BitVec 3) (t : RegNo) (scope : BitVec 3) (ord : BitVec 2) (last : Bool)
    (ps : List Piece) : State :=
  let u := loadIssued s accs (bytesOf sz) ps (.load false sz.toNat t.toNat scope ord last)
  if last then regionEnds u else u

/-- Outside every region a load keeps its order, where one of its parts shows that it is in no region. -/
theorem order_of_loadParts {ps : List Piece} {ord : BitVec 2} (hps : ord ≠ 0 → ps ≠ []) :
    (if (loadParts ps).any (fun p => !p.priv) then ord else 0) = ord := by
  by_cases hord : ord = 0
  · rw [hord, ite_self]
  · obtain ⟨p, hp⟩ := List.exists_mem_of_ne_nil _ (hps hord)
    exact if_pos (List.any_eq_true.2 ⟨_, List.mem_map_of_mem hp, rfl⟩)

/-- A load whose pages have been touched is issued as the statements say. -/
theorem loadOutstanding_touched (s : State) (accs : List Access) (n : Nat) (ps : List Piece) (op : OutOp) :
    loadOutstanding (touched s accs false ps) op (loadParts (performed accs n ps)) = loadIssued s accs n ps op := by
  rw [loadOutstanding, touched_g, touched_cur, loadIssued]

section
variable {s : State} {accs : List Access} {sz : BitVec 3} {t a : RegNo} {off : DWord} {scope : BitVec 3} {ord : BitVec 2}
  {last : Bool} {ps : List Piece}

/-- Outside every region the load is outstanding for all active lanes. -/
theorem loadNoted_of_closed (hclosed : Closed s) (hmask : s.cur.mask ≠ 0) (haccs : ∀ x ∈ accs, x.lane ∈ Mask.lanes s.cur.mask)
    (hps : ord ≠ 0 → performed accs (bytesOf sz) ps ≠ []) :
    loadNoted (touched s accs false ps) accs sz t scope ord last ps = .ok (loadDone s accs sz t scope ord last ps) := by
  have hactive : accs.filter (fun x => s.cur.mask.getLsbD x.lane) = accs :=
    List.filter_eq_self.2 fun x hx => Mask.of_mem_lanes (haccs x hx)
  have hlanes : ∀ p ∈ performed accs (bytesOf sz) ps, p.lane ∈ lanesOf := fun p hp => by
    obtain ⟨x, hx, hlane⟩ := exists_lane_of_mem_performed hp
    exact hlane ▸ Mask.mem_lanes (haccs x hx)
  have hparts := map_loadPiece_of_closed (closed_touched accs false ps hclosed) hlanes
  simp only [loadNoted, touched_cur, if_neg hmask, hactive, splitUnaligned_eq_performed, hparts, order_of_loadParts hps,
    loadOutstanding_touched, State.endRegion_eq_regionEnds, loadDone]

/-- A load with sound sources makes its checks, and then its regions note it. -/
theorem State.globalLoad_eq_before_loadNoted (haccs : laneAccesses s a off (bytesOf sz) = accs)
    (hlast : (last && State.anyRegion s) = false) (hsound : Sound s (addrSrcs a)) :
    State.globalLoad s sz t a off scope ord last = (loadChecks s sz a off ord last).before s (fun u ps =>
      loadNoted
        (accs.foldl (fun u x => State.regionLoad u sz.toNat scope ps x)
          (State.exactSources (State.touch u u.g.hall u.g.ctx false ps) (addrSrcs a) (State.inRegion u)))
        accs sz t scope ord last ps) := by
  rw [loadChecks, ← haccs, ← State.accesses_eq_laneAccesses]
  exact (if_neg (Bool.eq_false_iff.1 hlast)).trans (withSources_of_sound _ hsound)

/-- With its checks passed a load is outstanding. -/
theorem State.globalLoad_of_accepted (haccs : laneAccesses s a off (bytesOf sz) = accs) (hclosed : Closed s)
    (hmask : s.cur.mask ≠ 0) (hsound : Sound s (addrSrcs a)) (halign : ord ≠ 0 → Aligned accs (bytesOf sz))
    (haccepted : Accepted s accs s.g.lcnt) (hclass : Classified s .load accs ps)
    (hleaf : last = true → ∀ p ∈ ps, noDiscard p.leaf = false) :
    State.globalLoad s sz t a off scope ord last = .ok (loadDone s accs sz t scope ord last ps) := by
  obtain ⟨hstash, hrange, hbusy⟩ := haccepted
  have hordered : Aligned (if ord = 0 then [] else accs) (bytesOf sz) := by
    split
    case isTrue => exact fun x hx => absurd hx List.not_mem_nil
    case isFalse hord => exact halign hord
  have htested : ∀ p ∈ (if last then ps else []), noDiscard p.leaf = false := by
    split
    case isTrue hlast => exact hleaf hlast
    case isFalse => exact fun p hp => absurd hp List.not_mem_nil
  have hpieces : ps ≠ [] := by
    obtain ⟨l, hl⟩ := List.exists_mem_of_ne_nil _ (Mask.lanes_ne_nil hmask)
    subst haccs
    exact State.classify_ne_nil hclass _ (List.mem_map_of_mem hl) (sizeBytes_pos _)
  have hlanes : ∀ x ∈ accs, x.lane ∈ Mask.lanes s.cur.mask := fun x hx => lane_mem_of_mem_laneAccesses (haccs ▸ hx)
  have hopen := closed_touched accs false ps hclosed
  have hbefore := State.globalLoad_eq_before_loadNoted (t := t) (scope := scope) (ord := ord) (last := last) haccs
    (by simp [State.anyRegion_closed s hclosed]) hsound
  subst haccs
  rw [hbefore, GlobalChecks.before_of_classified (w := loadChecks s sz a off ord last) hordered hstash hclass htested]
  simp only [loadChecks, lookedUp_g, touch_lookedUp]
  rw [State.accepted_ok _ _ _ _ hrange hbusy, State.exactSources_closed _ _ _ hopen,
    State.regionLoads_closed _ _ _ _ _ hopen (fun x hx => Mask.mem_lanes (hlanes x hx)),
    loadNoted_of_closed hclosed hmask hlanes fun hord => performed_ne_nil (halign hord) hclass hpieces, Eff.wanting_ok]

/-! ## LD and LDO (R222, R223) -/

/-- LD is a load of no order. -/
theorem exec_ld_of_accepted {off : BitVec 7} (haccs : laneAccesses s a (moOffset off (bytesOf sz)) (bytesOf sz) = accs)
    (hclosed : Closed s) (hready : Ready s (.ld sz t a off)) (hsound : Sound s (addrSrcs a))
    (haccepted : Accepted s accs s.g.lcnt) (hclass : Classified s .load accs ps) :
    exec (.ld sz t a off) s = .next (done (loadDone s accs sz t 6 0 false ps)) :=
  show execLd sz t a off s = _ from issue_of_entry (e := .ok _) hclosed hready
    (State.globalLoad_of_accepted haccs hclosed hready.mask_ne_zero hsound (absurd rfl) haccepted hclass Bool.noConfusion)

/-- LDO takes its address as it is. -/
theorem exec_ldo_of_accepted (haccs : laneAccesses s a 0 (bytesOf sz) = accs) (hclosed : Closed s)
    (hready : Ready s (.ldo sz t a scope ord last)) (hsound : Sound s (addrSrcs a))
    (halign : ord ≠ 0 → Aligned accs (bytesOf sz)) (haccepted : Accepted s accs s.g.lcnt) (hclass : Classified s .load accs ps)
    (hleaf : last = true → ∀ p ∈ ps, noDiscard p.leaf = false) :
    exec (.ldo sz t a scope ord last) s = .next (done (loadDone s accs sz t scope ord last ps)) :=
  show execLdo sz t a scope ord last s = _ from issue_of_entry (e := .ok _) hclosed hready
    (State.globalLoad_of_accepted haccs hclosed hready.mask_ne_zero hsound halign haccepted hclass hleaf)

end

/-! ## LDL (R203, R205, R224) -/

/-- Scratchpad accesses that are legal and that nothing holds go on. -/
theorem State.scratchChecks_of_accepted {s : State} {accs : List Access} {n : Nat} {wait : BitVec 5 → Bool} {counter : Nat}
    (k : Eff) (haccepted : ScratchAccepted s accs n wait counter) : State.scratchChecks s accs n wait counter k = k := by
  obtain ⟨halign, hplace, htile, hrange, hbusy⟩ := haccepted
  rw [State.scratchChecks, State.aligned_ok s accs n _ halign, State.inScratch_ok s accs _ hplace, htile, hrange, hbusy]
  rfl

/-- LDL has one part for each active lane. -/
theorem exec_ldl_of_accepted {s : State} {accs : List Access} {sz : BitVec 3} {t a : RegNo} {off : BitVec 7}
    (haccs : scratchLanes s a (scratchOffset off (bytesOf sz)) (bytesOf sz) = accs) (hclosed : Closed s)
    (hready : Ready s (.ldl sz t a off)) (hsound : Sound s [consumed a false [.i32]])
    (haccepted : ScratchAccepted s accs (bytesOf sz) (fun t => TileTag.trk t && !TileTag.v t) s.g.lcnt) :
    exec (.ldl sz t a off) s = .next (done (loadOutstanding s (.load true sz.toNat t.toNat (scratchWordScope accs) 0 false)
      (accs.map (fun x => { lane := x.lane, addr := x.addr, len := bytesOf sz, leaf := 0, x := [], priv := false })))) := by
  subst haccs
  exact show execLdl sz t a off s = _ from issue_of_entry (e := .ok _) hclosed hready
    ((State.outside_withSources _ hclosed hsound).trans (State.scratchChecks_of_accepted _ haccepted))

/-! ## LDCB (R194) -/

/-- The access of a word that makes one request for the group is its lowest active lane's. -/
theorem State.oneAccess_eq (s : State) (a : RegNo) (off : DWord) (n : Nat) :
    State.oneAccess s a false off n =
      { lane := Mask.lowest s.cur.mask, addr := reg64 s (Mask.lowest s.cur.mask) a.toNat + off, len := n } := by
  rw [State.oneAccess, src64_eq]
  rfl

/-- A load that ends the idempotent region first is outstanding in the next one. -/
theorem loadOutstanding_regionEnds_touched (s : State) (accs : List Access) (ps : List Piece) (op : OutOp) (parts : List LanePart) :
    loadOutstanding (regionEnds (touched s accs false ps)) op parts = withG (regionEnds (touched s accs false ps))
      { outstanding (regionEnds s).g op s.cur.mask parts with lcnt := s.g.lcnt + 1 } := by
  have hgroup : (regionEnds (touched s accs false ps)).g = (regionEnds s).g := by simp only [regionEnds, touched_g]
  have hmask : (regionEnds (touched s accs false ps)).cur.mask = s.cur.mask := by simp only [regionEnds, touched_cur]
  rw [loadOutstanding, hgroup, hmask]
  rfl

/-- LDCB ends the idempotent region before it is outstanding. -/
theorem exec_ldcb_of_accepted {s : State} {acc : Access} {t a : RegNo} {off : BitVec 7} {ps : List Piece}
    (hacc : State.oneAccess s a false (moOffset off 32) 32 = acc) (hclosed : Closed s) (hready : Ready s (.ldcb t a off))
    (hsound : Sound s (srcPair a.toNat false [.addr, .i32] .lowest)) (hslot : State.slotPending s t.toNat = false)
    (hcb : t.toNat < s.g.lr.cb) (halign : Aligned [acc] 32) (hstash : State.stashWait s = false)
    (hclass : Classified s .load [acc] ps) (hbusy : State.busyPipe (lookedUp s [acc]) s.g.lcnt = false) :
    exec (.ldcb t a off) s = .next (done (withG (regionEnds (touched s [acc] false ps))
      { outstanding (regionEnds s).g (.ldcb t.toNat) s.cur.mask (loadParts ps) with lcnt := s.g.lcnt + 1 })) := by
  subst hacc
  rw [← loadOutstanding_regionEnds_touched]
  refine show execLdcb t a off s = _ from issue_of_entry (e := .ok _) hclosed hready ?_
  refine (if_neg (Bool.eq_false_iff.1 hslot)).trans ((if_neg (Nat.not_le.2 hcb)).trans ?_)
  refine (State.outside_withSources _ hclosed hsound).trans ((State.aligned_ok s _ 32 _ halign).trans ?_)
  refine (if_neg (Bool.eq_false_iff.1 hstash)).trans ((State.classified_of_classified _ hclass).trans ?_)
  simp only [lookedUp_g, touch_lookedUp, hbusy, Bool.false_eq_true, if_false, State.endRegion_eq_regionEnds]
  rfl

/-- Settles O19: with its checks passed each of the four words is outstanding from its issue. -/
theorem loadWordsComplete : Obligations.LoadWordsComplete := by
  refine ⟨?ld, ?ldo, ?ldl, ?ldcb⟩
  case ld =>
    intro s sz t a off ps hclosed hready hsound accs haccepted hclass
    exact exec_ld_of_accepted rfl hclosed hready hsound haccepted hclass
  case ldo =>
    intro s sz t a scope ord last ps hclosed hready hsound accs halign haccepted hclass hleaf
    exact exec_ldo_of_accepted rfl hclosed hready hsound halign haccepted hclass hleaf
  case ldl =>
    intro s sz t a off hclosed hready hsound accs haccepted
    exact exec_ldl_of_accepted rfl hclosed hready hsound haccepted
  case ldcb =>
    intro s t a off ps hclosed hready hsound l acc hslot hcb halign hstash hclass hbusy
    have hacc : State.oneAccess s a false (moOffset off 32) 32 = acc := State.oneAccess_eq s a _ 32
    exact exec_ldcb_of_accepted hacc hclosed hready hsound hslot hcb halign hstash hclass hbusy

end Sys2Proof.Machine

/-! # Two formats in one lane (R180) -/

namespace Sys2Proof.Machine

open Rules

/-- An entry that traps traps the word. -/
theorem issue_of_trap {s : State} {i : Instr} {body : State → Eff} {c : Cause} {m : Mask} {x : DWord} (hclosed : Closed s)
    (hready : Ready s i) (hbody : body s = .trap s c m x) :
    issue i body s = .next (State.takeTrap s c m x s.cur.chainPc) := by
  rw [issue_of_entry hclosed hready hbody, State.finish_trap s s c m x hready.wait_eq_none]

section
variable {s : State} {w : FloatWord} (hsound : Sound s (w.xs ++ w.ys)) (hdiffer : formatsDiffer s w)
include hsound hdiffer

/-- An entry with a source format finds that two differ, whatever it computes. -/
theorem fpOp_of_formatsDiffer {lat d n : Nat} {f : State → Tag → Nat → List Word × Tag × Word} :
    State.fpOp s w.xs w.ys w.raw lat d n f = .trap s .format s.cur.mask 0 := by
  rw [State.fpOp, withSources_of_sound _ hsound]
  exact if_pos hdiffer

/-- So does a codebook word whose slot is loaded. -/
theorem bookEffect_of_formatsDiffer (hfollow : s.cur.follow = false) (hslot : ¬ slotAwaited s) (hys : w.ys = []) :
    State.bookEffect s w = .trap s .format s.cur.mask 0 := by
  have hop := fpOp_of_formatsDiffer hsound hdiffer (lat := w.lat) (d := w.dst.toNat) (n := w.n) (f := fun _ => w.out)
  rw [hys] at hop
  rw [State.bookEffect, State.decodeOp, if_neg (mt (State.slotPending_iff hfollow).1 hslot), hop]

end

section
variable {s : State}

/-- A unary FP32 word. -/
theorem f32un_of_formatsDiffer {d a : RegNo} {lat : Nat} {f g : Nat → Nat × Word}
    (hsound : Sound s ((f32one s d a lat g).xs ++ (f32one s d a lat g).ys)) (hdiffer : formatsDiffer s (f32one s d a lat g)) :
    State.f32un s d a lat f = .trap s .format s.cur.mask 0 :=
  fpOp_of_formatsDiffer (w := f32one s d a lat g) hsound hdiffer

/-- A packed-pair word. -/
theorem halfOp_of_formatsDiffer {u z : Bool} {d a b : RegNo} {lat : Nat} {f g : Fmt → Nat → Nat → Nat → Nat × Word}
    (hsound : Sound s ((pairWord s u z d a b lat g).xs ++ (pairWord s u z d a b lat g).ys))
    (hdiffer : formatsDiffer s (pairWord s u z d a b lat g)) : State.halfOp s u z d a b lat f = .trap s .format s.cur.mask 0 :=
  fpOp_of_formatsDiffer (w := pairWord s u z d a b lat g) hsound hdiffer

/-- A packed-pair word that the shadow checks: a word that traps gives it nothing to check. -/
theorem halfChecked_of_formatsDiffer {u z : Bool} {d a b : RegNo} {f g : Fmt → Nat → Nat → Nat → Nat × Word}
    {adds : Num → Num → Num → List Num} (hsound : Sound s ((pairWord s u z d a b 6 g).xs ++ (pairWord s u z d a b 6 g).ys))
    (hdiffer : formatsDiffer s (pairWord s u z d a b 6 g)) :
    State.halfChecked s u z d a b f adds = .trap s .format s.cur.mask 0 := by
  rw [State.halfChecked, shadowed_of_calm _ _ _ hsound.1, halfOp_of_formatsDiffer hsound hdiffer]

/-- A conversion. -/
theorem convert_of_formatsDiffer {rm : BitVec 2} {d a : RegNo} {t r : Tag} {accept : List Tag}
    (hsound : Sound s ((convertWord s rm d a t accept r).xs ++ (convertWord s rm d a t accept r).ys))
    (hdiffer : formatsDiffer s (convertWord s rm d a t accept r)) :
    State.convert s rm d a t accept r = .trap s .format s.cur.mask 0 :=
  fpOp_of_formatsDiffer (w := convertWord s rm d a t accept r) hsound hdiffer

/-- A packing. -/
theorem packRun_of_formatsDiffer {rm : BitVec 2} {d a : RegNo} {n : Nat} {t f : Tag}
    (hf : (if t == .i16x2 || t == .i8x4 then Tag.i32 else .f32) = f)
    (hsound : Sound s ((packWord s rm d a n t f).xs ++ (packWord s rm d a n t f).ys))
    (hdiffer : formatsDiffer s (packWord s rm d a n t f)) : State.packRun s rm d a n t = .trap s .format s.cur.mask 0 := by
  rw [State.packRun, hf]
  exact fpOp_of_formatsDiffer (w := packWord s rm d a n t f) hsound hdiffer

/-- An unpacking. -/
theorem unpackRun_of_formatsDiffer {d a : RegNo} {n : Nat} {t r : Tag} {accept : List Tag}
    (hsound : Sound s ((unpackWord s d a n t accept r).xs ++ (unpackWord s d a n t accept r).ys))
    (hdiffer : formatsDiffer s (unpackWord s d a n t accept r)) :
    State.unpackRun s d a n t accept r = .trap s .format s.cur.mask 0 :=
  fpOp_of_formatsDiffer (w := unpackWord s d a n t accept r) hsound hdiffer

end

section
variable {s : State} {i : Instr} {w : FloatWord} (hclosed : Closed s) (hready : Ready s i) (hsound : Sound s (w.xs ++ w.ys))
  (hdiffer : formatsDiffer s w)
include hclosed hready hsound hdiffer

/-- The packed words, conversions, packing, unpacking and the scaled 4-bit words. -/
theorem exec_of_packedFloat_of_formatsDiffer (h : packedFloat s i = some w) :
    exec i s = .next (State.takeTrap s .format s.cur.mask 0 s.cur.chainPc) := by
  unfold packedFloat at h
  split at h
  case h_1 u rm d a b =>
    cases h
    exact show execHadd2 u rm d a b s = _ from issue_of_trap hclosed hready (halfChecked_of_formatsDiffer hsound hdiffer)
  case h_2 u rm d a b =>
    cases h
    exact show execHmul2 u rm d a b s = _ from issue_of_trap hclosed hready (halfChecked_of_formatsDiffer hsound hdiffer)
  case h_3 u rm d a b =>
    cases h
    exact show execHfma2 u rm d a b s = _ from issue_of_trap hclosed hready (halfChecked_of_formatsDiffer hsound hdiffer)
  case h_4 u d a b =>
    cases h
    exact show execHmax2 u d a b s = _ from issue_of_trap hclosed hready (halfOp_of_formatsDiffer hsound hdiffer)
  case h_5 rm d a tgt =>
    split at h
    case h_1 n hn =>
      cases h
      cases target_eq hn
      exact show execCvtf rm d a _ s = _ from issue_of_trap hclosed hready (f32un_of_formatsDiffer hsound hdiffer)
    case h_2 n hn | h_3 n hn | h_4 n hn | h_5 n hn =>
      cases h
      cases target_eq hn
      exact show execCvtf rm d a _ s = _ from issue_of_trap hclosed hready (convert_of_formatsDiffer hsound hdiffer)
    case h_6 => cases h
  case h_6 rm d a tgt =>
    split at h
    case h_1 n hn | h_2 n hn | h_3 n hn =>
      cases h
      cases target_eq hn
      exact show execCvti rm d a _ s = _ from issue_of_trap hclosed hready (convert_of_formatsDiffer hsound hdiffer)
    case h_4 => cases h
  case h_7 rm d a tgt =>
    split at h
    case h_1 n hn | h_2 n hn =>
      cases h
      cases target_eq hn
      exact show execCvtfi rm d a _ s = _ from issue_of_trap hclosed hready (convert_of_formatsDiffer hsound hdiffer)
    case h_3 => cases h
  case h_8 rm d a tgt =>
    split at h
    case h_1 n hn | h_2 n hn | h_3 n hn =>
      cases h
      cases target_eq hn
      exact show execPk2 rm d a _ s = _ from issue_of_trap hclosed hready (packRun_of_formatsDiffer rfl hsound hdiffer)
    case h_4 => cases h
  case h_9 rm d a tgt =>
    split at h
    case h_1 n hn | h_2 n hn | h_3 n hn =>
      cases h
      cases target_eq hn
      exact show execPk4 rm d a _ s = _ from issue_of_trap hclosed hready (packRun_of_formatsDiffer rfl hsound hdiffer)
    case h_4 => cases h
  case h_10 d a tgt =>
    split at h
    case h_1 n hn | h_2 n hn =>
      cases h
      cases target_eq hn
      exact show execUnpk2 d a _ s = _ from issue_of_trap hclosed hready (unpackRun_of_formatsDiffer hsound hdiffer)
    case h_3 => cases h
  case h_11 d a tgt =>
    split at h
    case h_1 n hn | h_2 n hn =>
      cases h
      cases target_eq hn
      exact show execUnpk4 d a _ s = _ from issue_of_trap hclosed hready (unpackRun_of_formatsDiffer hsound hdiffer)
    case h_3 => cases h
  case h_12 rm d a tgt =>
    cases h
    exact show execDqe2 rm d a tgt s = _ from issue_of_trap hclosed hready (fpOp_of_formatsDiffer hsound hdiffer)
  case h_13 rm d a =>
    cases h
    exact show execQe2 rm d a s = _ from issue_of_trap hclosed hready (fpOp_of_formatsDiffer hsound hdiffer)
  case h_14 => cases h

/-- DQCB and QCB, with their slot loaded. -/
theorem exec_of_codebookFloat_of_formatsDiffer (h : codebookFloat s i = some w) (hslot : ¬ slotAwaited s) :
    exec i s = .next (State.takeTrap s .format s.cur.mask 0 s.cur.chainPc) := by
  obtain ⟨hexec, hys⟩ := exec_of_codebookFloat h hclosed hready
  obtain ⟨-, hwait, hfollow, -⟩ := hready
  rw [hexec, bookEffect_of_formatsDiffer hsound hdiffer hfollow hslot hys, State.finish_trap s s .format s.cur.mask 0 hwait]

end

/-- Settles O8: the formats are compared once the sources are read, before a codebook slot's number is. -/
theorem mixedSourceFormatsTrap : Obligations.MixedSourceFormatsTrap := by
  intro s i w hword hready hclosed hsound hdiffer
  obtain hpacked | ⟨hbook, hslot⟩ := hword
  · exact exec_of_packedFloat_of_formatsDiffer hclosed hready hsound hdiffer hpacked
  · exact exec_of_codebookFloat_of_formatsDiffer hclosed hready hsound hdiffer hbook hslot

end Sys2Proof.Machine

/-! # TAGRD (R118, R200, R290) -/

namespace Sys2Proof.Machine

open Rules

/-- A word with nothing against it takes its entry once the packet has been counted in the open regions of its lanes (R290). -/
theorem issue_of_readyInside {s : State} {i : Instr} (body : State → Eff) (hready : ReadyInside s i) :
    issue i body s = .next (State.finish s (body (State.countPackets s))) := by
  obtain ⟨⟨hvalid, hwait, hfollow, -, hregs, hcheck⟩, hmask⟩ := hready
  simp only [issue, hvalid, hwait, hfollow, hregs, hcheck, hmask, Option.isSome_none, Bool.not_true, Bool.or_self,
    Bool.false_eq_true, if_false]

/-- Counting a packet disturbs nothing. -/
@[simp] theorem State.countPackets_strike (s : State) : (State.countPackets s).strike = s.strike := by
  unfold State.countPackets
  split <;> rfl

/-- A word that reads no source has sound sources where nothing is disturbed. -/
theorem sound_nil {s : State} (hcalm : s.strike = none) : Sound s [] := ⟨hcalm, rfl, rfl, rfl⟩

/-- The results of a word that reads no source are the same inside a region: no source makes them symbolic (R288). -/
theorem State.results_nil (s : State) (lat d n : Nat) (f : Nat → List (Word × Tag)) :
    State.results s [] lat d n f (fun _ => none) =
      (List.range n).foldl (fun t j => State.landing t lat (d + j) (State.resultCells s [] f j) false) s := by
  have hexact : ∀ p, State.exactSources s [] p = s := fun p => ite_self s
  have hsym : ∀ l, (if State.inRegion s l then (none : Option (BitVec 4)).getD (State.defaultSym s [] l) else 0) = 0 := fun l => by
    simp [State.defaultSym]
  unfold State.results
  simp only [hexact, hsym]
  congr 1
  funext t j
  congr 1
  unfold State.resultCells
  rw [List.map_map]
  refine List.map_congr_left fun l _ => ?_
  simp only [Function.comp]
  cases s.cur.mask.getLsbD l with
  | false => rfl
  | true =>
    simp only [if_true, List.getElem?_map]
    rfl

/-- The code that TAGRD gives a tag, POISON's among them. -/
theorem ite_poison_eq_code (t : Tag) : (if t = .poison then 13 else Tag.code t) = Tag.code t := by
  split
  case isTrue h => rw [h, Tag.code]
  case isFalse => rfl

/-- What TAGRD places in the active lanes: the code of the tag alone, whatever the tag. -/
theorem resultCells_tagrd (s : State) (a : RegNo) :
    State.resultCells s [] (fun l => [(BitVec.ofNat 32 (Tag.code (State.srcCell s l a.toNat false).tag), .i32)]) 0 =
      lanesOf.map (fun l =>
        if s.cur.mask.getLsbD l then
          some (RegCell.of (BitVec.ofNat 32
            (if (Group.cell s.g l a.toNat).tag = .poison then 13 else Tag.code (Group.cell s.g l a.toNat).tag)) .i32)
        else none) :=
  List.map_congr_left fun l _ => by
    rw [ite_poison_eq_code]
    rfl

/-- Settles O49: TAGRD reads no source, so no poison, tag or residue of va stops it, and its result is the tag's code. -/
theorem tagReadReadsTheTagAlone : Obligations.TagReadReadsTheTagAlone := by
  rintro s u d a hready hcalm rfl hmask
  have hsound : Sound (State.countPackets s) [] := sound_nil ((State.countPackets_strike s).trans hcalm)
  show execTagrd d a s = _
  rw [execTagrd, issue_of_readyInside _ ⟨hready, hmask⟩, State.laneOp, withSources_of_sound _ hsound, State.results_nil,
    ← resultCells_tagrd]
  rfl

end Sys2Proof.Machine

/-! # Global and scratchpad stores (R216, R221, R222, R224, R348) -/

namespace Sys2Proof.Machine

open Rules

/-! ## What a store writes (R221) -/

/-- The bytes of a lane's data are those of the statements. -/
theorem Group.storeData_eq_storeBytes (s : State) (l : Nat) (t : RegNo) (sz : BitVec 3) :
    Group.storeData s.g l t.toNat sz.toNat = storeBytes s l t sz := by
  have hbyte : sz.toNat = 0 ↔ sz = 0 := by rw [← BitVec.toNat_inj]; rfl
  have hhalf : sz.toNat = 1 ↔ sz = 1 := by rw [← BitVec.toNat_inj]; rfl
  simp only [Group.storeData, storeBytes, hbyte, hhalf]
  rfl

/-- The parts of a store of all active lanes are those of the statements. -/
theorem Group.storeParts_eq_storeParts (s : State) (t : RegNo) (sz : BitVec 3) (ps : List Piece) :
    Group.storeParts s.g t.toNat sz.toNat ps s.cur.mask = Rules.storeParts s t sz ps := by
  simp only [Group.storeParts, Rules.storeParts, Group.storeData_eq_storeBytes]

/-! ## The buffer outside every region -/

/-- The lanes of a store that no region keeps: it is buffered for them, and a page of an S O kind ends the idempotent region. -/
def storeBuffered (s : State) (accs : List Access) (t : RegNo) (sz : BitVec 3) (ps : List Piece) (scope : BitVec 3)
    (ord : BitVec 2) (modw : Bool) (out : Mask) : State :=
  let u := State.updG s (fun g =>
    Group.bufferStore g false modw scope ord (Group.storeParts g t.toNat sz.toNat (splitUnaligned accs (bytesOf sz) ps) out))
  if ps.any (fun p => out.getLsbD p.lane && Leaf.kind p.leaf == 1) then State.endRegion u else u

/-- Once the regions of its lanes have recorded it, a store is buffered for the lanes that are left. -/
def storeNoted (s : State) (accs : List Access) (t : RegNo) (sz : BitVec 3) (ps : List Piece) (scope : BitVec 3)
    (ord : BitVec 2) (modw : Bool) : Eff :=
  let out := maskOf (fun l => s.cur.mask.getLsbD l && !State.inRegion s l)
  if out = 0 then
    (if s.cur.mask = 0 then .jump s else .ok (State.updG s (fun g => { g with nextNo := g.nextNo + 1 })))
  else .ok (storeBuffered s accs t sz ps scope ord modw out)

/-- Outside every region no lane's region keeps a store. -/
theorem maskOf_outside_of_closed {s : State} (hclosed : Closed s) :
    maskOf (fun l => s.cur.mask.getLsbD l && !State.inRegion s l) = s.cur.mask := by
  apply BitVec.eq_of_getLsbD_eq
  intro l hl
  have hlane : ∀ l < 32, l ∈ lanesOf := by decide
  rw [maskOf_getLsbD _ _ hl, State.inRegion_closed s l hclosed (hlane l hl), Bool.not_false, Bool.and_true]

section
variable {s : State} {accs : List Access} {sz : BitVec 3} {t a : RegNo} {off : DWord} {scope : BitVec 3} {ord : BitVec 2}
  {modw : Bool} {ps : List Piece}

/-- Outside every region a store is buffered for all active lanes. -/
theorem storeNoted_of_closed (hclosed : Closed s) (hmask : s.cur.mask ≠ 0) :
    storeNoted (touched s accs true ps) accs t sz ps scope ord modw = .ok (storeIssued s accs t sz ps scope ord modw) := by
  have hout := maskOf_outside_of_closed (closed_touched accs true ps hclosed)
  have hparts := Group.storeParts_eq_storeParts s t sz (splitUnaligned accs (bytesOf sz) ps)
  have hbuffer : State.updG (touched s accs true ps) (fun g => Group.bufferStore g false modw scope ord
      (Group.storeParts g t.toNat sz.toNat (splitUnaligned accs (bytesOf sz) ps) s.cur.mask)) =
      withG (touched s accs true ps)
        (buffered s.g false modw scope ord (storeParts s t sz (performed accs (bytesOf sz) ps))) := by
    rw [State.updG, touched_g, hparts]
    rfl
  rw [storeNoted, hout]
  simp only [touched_cur, if_neg hmask, storeBuffered, hbuffer, State.endRegion_eq_regionEnds]
  rfl

/-- A store with sound sources makes its checks, and then its regions record it. -/
theorem State.globalStore_eq_before_storeNoted (haccs : laneAccesses s a off (bytesOf sz) = accs)
    (hsound : Sound s (addrSrcs a ++ dataSrcs t (sizeRegs sz.toNat) [])) :
    State.globalStore s sz t a off scope ord modw = (storeChecks s sz a off ord modw).before s (fun u ps =>
      storeNoted
        (accs.foldl (fun u x =>
            State.regionStore u t.toNat sz.toNat scope ps x (Group.storeData u.g x.lane t.toNat sz.toNat))
          (State.exactSources (State.touch u u.g.hall u.g.ctx true ps) (addrSrcs a) (State.inRegion u)))
        accs t sz ps scope ord modw) := by
  rw [storeChecks, ← haccs, ← State.accesses_eq_laneAccesses, State.globalStore]
  exact withSources_of_sound _ hsound

/-- With its checks passed a store is buffered. -/
theorem State.globalStore_of_accepted (haccs : laneAccesses s a off (bytesOf sz) = accs) (hclosed : Closed s)
    (hmask : s.cur.mask ≠ 0) (hsound : Sound s (addrSrcs a ++ dataSrcs t (sizeRegs sz.toNat) []))
    (halign : ord ≠ 0 ∨ modw = true → Aligned accs (bytesOf sz)) (haccepted : Accepted s accs s.g.scnt)
    (hclass : Classified s .store accs ps) (hleaf : ∀ p ∈ ps, Leaf.s p.leaf = false ∧ (modw = true → Leaf.m p.leaf = true)) :
    State.globalStore s sz t a off scope ord modw = .ok (storeIssued s accs t sz ps scope ord modw) := by
  obtain ⟨hstash, hrange, hbusy⟩ := haccepted
  have hordered : Aligned (if ord = 0 && !modw then [] else accs) (bytesOf sz) := by
    split
    case isTrue => exact fun x hx => absurd hx List.not_mem_nil
    case isFalse hord => exact halign (by simpa [or_iff_not_imp_left] using hord)
  have htested : ∀ p ∈ ps, (Leaf.s p.leaf || (modw && !Leaf.m p.leaf)) = false := fun p hp => by
    obtain ⟨hshadow, hmod⟩ := hleaf p hp
    cases modw <;> simp_all
  have hlanes : ∀ x ∈ accs, x.lane ∈ lanesOf := fun x hx => Mask.mem_lanes (lane_mem_of_mem_laneAccesses (haccs ▸ hx))
  have hopen := closed_touched accs true ps hclosed
  have hbefore := State.globalStore_eq_before_storeNoted (t := t) (scope := scope) (ord := ord) (modw := modw) haccs hsound
  subst haccs
  rw [hbefore, GlobalChecks.before_of_classified (w := storeChecks s sz a off ord modw) hordered hstash hclass htested]
  simp only [storeChecks, lookedUp_g, touch_lookedUp]
  rw [State.accepted_ok _ _ _ _ hrange hbusy, State.exactSources_closed _ _ _ hopen,
    State.regionStores_closed _ _ _ _ _ (fun u x => Group.storeData u.g x.lane t.toNat sz.toNat) _ hopen hlanes,
    storeNoted_of_closed hclosed hmask, Eff.wanting_ok]

/-! ## ST, STO, MODW (R222, R348) -/

/-- A store that is no MODW asks no more of its leaves than that S is 0. -/
theorem leaves_of_not_shadow (h : ∀ p ∈ ps, Leaf.s p.leaf = false) :
    ∀ p ∈ ps, Leaf.s p.leaf = false ∧ (false = true → Leaf.m p.leaf = true) := fun p hp => ⟨h p hp, Bool.noConfusion⟩

end

/-! ## STL (R203, R205, R224) -/

/-- STL is buffered with one part for each active lane. -/
theorem exec_stl_of_accepted {s : State} {accs : List Access} {sz : BitVec 3} {t a : RegNo} {off : BitVec 7}
    (haccs : scratchLanes s a (scratchOffset off (bytesOf sz)) (bytesOf sz) = accs) (hclosed : Closed s)
    (hready : Ready s (.stl sz t a off)) (hsound : Sound s (consumed a false [.i32] :: dataSrcs t (sizeRegs sz.toNat) []))
    (haccepted : ScratchAccepted s accs (bytesOf sz) (fun t => TileTag.trk t && TileTag.h t) s.g.scnt) :
    exec (.stl sz t a off) s = .next (done (withG s (buffered s.g true false (scratchWordScope accs) 0
      (accs.map (fun x => { lane := x.lane, addr := x.addr, leaf := 0, data := storeBytes s x.lane t sz }))))) := by
  subst haccs
  simp only [← Group.storeData_eq_storeBytes]
  exact show execStl sz t a off s = _ from issue_of_entry (e := .ok _) hclosed hready
    ((State.outside_withSources _ hclosed hsound).trans (State.scratchChecks_of_accepted _ haccepted))

/-- Settles O20: ST, STO and MODW are one store, buffered for every active lane once its checks have passed; STL is buffered once
its scratchpad checks have. -/
theorem storeWordsComplete : Obligations.StoreWordsComplete := by
  refine ⟨?st, ?sto, ?modw, ?stl⟩
  case st =>
    intro s sz t a off ps hclosed hready hsound accs haccepted hclass hleaf
    exact show execSt sz t a off s = _ from issue_of_entry (e := .ok _) hclosed hready
      (State.globalStore_of_accepted rfl hclosed hready.mask_ne_zero hsound (by simp) haccepted hclass
        (leaves_of_not_shadow hleaf))
  case sto =>
    intro s sz t a scope ord ps hclosed hready hsound accs halign haccepted hclass hleaf
    exact show execSto sz t a scope ord s = _ from issue_of_entry (e := .ok _) hclosed hready
      (State.globalStore_of_accepted rfl hclosed hready.mask_ne_zero hsound (by simpa using halign) haccepted hclass
        (leaves_of_not_shadow hleaf))
  case modw =>
    intro s sz t a scope ord ps hclosed hready htraced hsound accs halign haccepted hclass hleaf
    refine show execModw sz t a scope ord s = _ from issue_of_entry (e := .ok _) hclosed hready ?_
    refine (State.outside_closed s _ hclosed).trans ((if_neg (Bool.eq_false_iff.1 htraced)).trans ?_)
    exact State.globalStore_of_accepted rfl hclosed hready.mask_ne_zero hsound (fun _ => halign) haccepted hclass
      (fun p hp => (hleaf p hp).imp_right fun hmod _ => hmod)
  case stl =>
    intro s sz t a off hclosed hready hsound accs haccepted
    exact exec_stl_of_accepted rfl hclosed hready hsound haccepted

end Sys2Proof.Machine

/-! # What a group has outstanding completes (R84, R203, R215, R216, R220, R221, R237, R242 to R244, R260, R261, R276, R278,
R291 to R293, R320, R341) -/

namespace Sys2Proof.Machine

open Rules

/-! ## What may be performed (R84, R220, R261) -/

/-- `State.ready?` answers an operation whose parts may go, with those parts. -/
theorem State.ready?_eq_some_iff {s : State} {h p n k : Nat} {g : Group} {o : Outst} {ks : List Nat} :
    State.ready? s h p n k = some (g, o, ks) ↔ MayGo s h p n k g o ks := by
  unfold State.ready? MayGo
  cases hgroup : State.groupAt? s h p with
  | none => simp
  | some x =>
    cases hop : x.outst[n]? with
    | none =>
      refine iff_of_false (by simp [hop]) ?_
      rintro ⟨hx, ho, -⟩
      cases hx
      rw [hop] at ho
      cases ho
    | some y =>
      have hgo : (y.sent.isNone && (!(State.nextUnits s x n k).isEmpty || (y.parts.isEmpty && Group.mayPerform x n))) = true ↔
          y.sent = none ∧ (State.nextUnits s x n k ≠ [] ∨ (y.parts = [] ∧ Group.mayPerform x n = true)) := by simp
      simp only [hop, hgo, Option.ite_none_right_eq_some, Option.some.injEq, Prod.mk.injEq]
      constructor
      · rintro ⟨⟨hsent, hparts⟩, rfl, rfl, rfl⟩
        exact ⟨rfl, hop, hsent, rfl, hparts⟩
      · rintro ⟨rfl, ho, hsent, rfl, hparts⟩
        cases hop.symm.trans ho
        exact ⟨⟨hsent, hparts⟩, rfl, rfl, rfl⟩

/-- Where no operation may go, `State.ready?` answers none. -/
theorem State.ready?_eq_none {s : State} {h p n k : Nat} (hnone : ¬ ∃ x y z, MayGo s h p n k x y z) :
    State.ready? s h p n k = none := by
  cases hready : State.ready? s h p n k with
  | none => rfl
  | some x => exact absurd ⟨_, _, _, State.ready?_eq_some_iff.1 hready⟩ hnone

/-- A part joins those that can be performed unless it is held or stands behind one of its word that cannot go (R220). -/
def admitted (held : Spot → Bool) (r : List (Nat × Spot) × List Spot) (u : Nat × Spot) : List (Nat × Spot) × List Spot :=
  if held u.2 || r.2.any (fun p => unitBefore p u.2) then (r.1, r.2 ++ [u.2]) else (r.1 ++ [u], r.2)

/-- What has joined was among the parts looked at, and is not held. -/
theorem of_mem_admitted {held : Spot → Bool} {us : List (Nat × Spot)} :
    ∀ u ∈ (us.foldl (admitted held) ([], [])).1, u ∈ us ∧ held u.2 = false := by
  refine List.foldlRecOn (motive := fun r : List (Nat × Spot) × List Spot => ∀ u ∈ r.1, u ∈ us ∧ held u.2 = false) us _
    (fun u hu => absurd hu List.not_mem_nil) (fun r hr v hv u hu => ?_)
  rw [admitted] at hu
  split at hu
  case isTrue => exact hr u hu
  case isFalse hgo =>
    rcases List.mem_append.1 hu with hu | hu
    · exact hr u hu
    · cases List.mem_singleton.1 hu
      rw [Bool.not_eq_true, Bool.or_eq_false_iff] at hgo
      exact ⟨hv, hgo.1⟩

/-- The parts that are performed next are among those that nothing comes before, and are not held. -/
theorem exists_free_of_mem_nextUnits {s : State} {g : Group} {n k i : Nat} {o : Outst} (ho : g.outst[n]? = some o)
    (hi : i ∈ State.nextUnits s g n k) : ∃ q, (i, q) ∈ Group.free g n ∧ State.opHeld s g o q = false := by
  have hgo : i ∈ ((Group.free g n).foldl (admitted (State.opHeld s g o)) ([], [])).1.map (fun u => u.1) := by
    simp only [State.nextUnits, ho] at hi
    split at hi
    · split at hi
      · exact hi
      · exact absurd hi List.not_mem_nil
    · split at hi
      · exact hi
      · exact List.mem_of_mem_take hi
  obtain ⟨⟨j, q⟩, hq, rfl⟩ := List.mem_map.1 hgo
  exact ⟨q, of_mem_admitted _ hq⟩

/-- The parts that nothing comes before are parts of the operation, and no earlier operation is ordered before them. -/
theorem of_mem_free {g : Group} {n : Nat} {o : Outst} {u : Nat × Spot} (ho : g.outst[n]? = some o) (hu : u ∈ Group.free g n) :
    u ∈ Outst.units o ∧ ∀ a ∈ g.outst.take n, orderedBefore a o u.2 = false := by
  rw [Group.free, ho] at hu
  dsimp only at hu
  split at hu
  case isTrue => exact absurd hu List.not_mem_nil
  case isFalse => simpa using List.mem_filter.1 hu

section
variable {s t : State} {h p n k : Nat} {g : Group} {o : Outst} {ks : List Nat}

/-- Nothing is performed before what is ordered before it, or while it is held. -/
theorem exists_unit_of_mayGo (hgo : MayGo s h p n k g o ks) {i : Nat} (hi : i ∈ ks) :
    ∃ q, (i, q) ∈ Outst.units o ∧ (∀ a ∈ g.outst.take n, orderedBefore a o q = false) ∧ State.opHeld s g o q = false := by
  obtain ⟨-, ho, -, rfl, -⟩ := hgo
  obtain ⟨q, hfree, hheld⟩ := exists_free_of_mem_nextUnits ho hi
  obtain ⟨hunit, hbefore⟩ := of_mem_free ho hfree
  exact ⟨q, hunit, hbefore, hheld⟩

/-! ## Loads (R165, R215, R216, R221, R249) -/

/-- Performing parts of a load leaves it the load that it is. -/
@[simp] theorem State.takeParts_op (s : State) (g : Group) (o : Outst) (scratch : Bool) (ks : List Nat) :
    (State.takeParts s g o scratch ks).1.op = o.op := by
  refine List.foldlRecOn (motive := fun x : Outst × State => x.1.op = o.op) ks _ rfl (fun x hx k _ => ?_)
  dsimp only
  split
  · exact hx
  · exact hx

/-- A load whose parts have been performed is finished, or has come further. -/
theorem execLoadReturn_of_loaded (hgo : MayGo s h p n k g o ks) (hload : loaded s g n o ks o.op = some t) :
    execLoadReturn h p n k s = .next t := by
  rw [execLoadReturn, State.ready?_eq_some_iff.2 hgo]
  cases hop : o.op with
  | load sc sz d scope ord last | ldcb c | mmld c =>
    rw [hop] at hload
    cases hload
    simp only [hop, OutOp.isLoad, if_true, State.finishLoad, State.takeParts_op, Bool.not_eq_true', ← Bool.not_eq_true, ite_not]
    rfl
  | _ =>
    rw [hop] at hload
    cases hload

/-! ## Stores (R216, R249, R260) -/

/-- A store whose parts may go is performed in those parts, or held at the edge of a lockstep partition. -/
theorem execStorePerformed_of_mayGo (hgo : MayGo s h p n k g o ks) {w : StoreWord} (hop : o.op = .store w) :
    execStorePerformed h p n k s = .next (
      if State.trafficOf s g o ks = [] then storedParts s g n o w ks else heldAtEdge s h p n (State.trafficOf s g o ks)) := by
  rw [execStorePerformed, State.ready?_eq_some_iff.2 hgo]
  simp only [hop, OutOp.isStore, if_true, State.finishStore, List.isEmpty_iff (l := State.trafficOf s g o ks),
    apply_ite Host.Outcome.next]
  rfl

/-! ## Atomics (R276, R278) -/

/-- An atomic, TKT or DEPADD whose parts have been performed is finished, or has come further. -/
theorem State.finishAtomic_of_atomicDone (hdone : atomicDone s g n o ks o.op = some t) : State.finishAtomic s g n o ks = t := by
  unfold State.finishAtomic
  cases hop : o.op with
  | atomic op bytes d scope ord | depadd d | tkt round opener incr d =>
    rw [hop] at hdone
    cases hdone
    rfl
  | _ =>
    rw [hop] at hdone
    cases hdone

/-- An atomic whose parts may go is performed in those parts, or held at the edge of a lockstep partition; TKT and DEPADD are not
held. -/
theorem execAtomicPerformed_of_atomicDone (hgo : MayGo s h p n k g o ks) (hdone : atomicDone s g n o ks o.op = some t) :
    execAtomicPerformed h p n k s = .next (
      if State.trafficOf s g o ks ≠ [] ∧ isAtomic o.op = true then heldAtEdge s h p n (State.trafficOf s g o ks) else t) := by
  have hfinish := State.finishAtomic_of_atomicDone hdone
  rw [execAtomicPerformed, State.ready?_eq_some_iff.2 hgo]
  dsimp only
  rw [hfinish]
  cases o.op with
  | atomic op bytes d scope ord =>
    simp only [isAtomic, List.isEmpty_iff, and_true, ite_not, apply_ite Host.Outcome.next]
    rfl
  | _ => simp [isAtomic]

/-! ## Commits (R291, R292) -/

/-- A waiting RCMT that is due is the one that `State.committing?` answers. -/
theorem State.committing?_of_commitDue {w : WaitRec} (hdue : CommitDue s h p g w) : State.committing? s h p = some (g, w) := by
  obtain ⟨hgroup, hwait, hcond⟩ := hdue
  simp only [State.committing?, hgroup, hwait, if_pos hcond]

/-- A commit that is due goes on lane by lane, and its chain is over once every lane has its outcome. -/
theorem execCommitOutcome_of_commitDue {w : WaitRec} (hdue : CommitDue s h p g w) :
    execCommitOutcome h p k s = .next (
      if undecided (committing s h p w k) w = true then committing s h p w k else resumed (committing s h p w k) w) := by
  rw [execCommitOutcome, State.committing?_of_commitDue hdue, apply_ite Host.Outcome.next]
  rfl

/-- A lane whose commit has waited too long aborts. -/
theorem execCommitTimeout_of_wait {w : WaitRec} (l : Nat) (hgroup : State.groupAt? s h p = some g) (hwait : g.wait = some w) :
    execCommitTimeout h p l s = .next (
      if w.instr = .rcmt ∧ w.mask.getLsbD l = true ∧ (Group.lane g l).region.isOpen = true ∧
          (Group.lane g l).region.writing = false ∧ 2048 ≤ (Group.lane g l).region.lockWait
        then State.updGroup s h p (fun x => Group.abortLane x l 8 0) else s) := by
  simp only [execCommitTimeout, hgroup, hwait, ge_iff_le, apply_ite Host.Outcome.next]

/-! ## Quarter operations (R237, R242 to R244, R335) -/

/-- The charge of the model is the statements'. -/
theorem State.chargeUnit_eq_charged (s : State) (u n : Nat) : State.chargeUnit s u n = charged s u n := by
  have hslice : (decide (9216 ≤ u) && decide (u < 9280)) = decide (9216 ≤ u ∧ u < 9280) := by simp
  unfold State.chargeUnit charged
  dsimp only
  rw [hslice]
  refine if_congr Iff.rfl rfl (if_congr Iff.rfl rfl ?_)
  by_cases hflight : u < 1536
  · simp only [if_pos hflight]
  by_cases harray : u < 3072
  · simp only [if_neg hflight, if_pos harray]
    rw [if_neg (by omega), if_neg (by omega)]
  by_cases hbank : u < 9216
  · simp only [if_neg hflight, if_neg harray, if_pos hbank]
    rw [if_pos (by omega)]
  by_cases hl2 : u < 9280
  · simp only [if_neg hflight, if_neg harray, if_neg hbank, if_pos hl2]
    rw [if_neg (by omega), if_neg (by omega)]
  · simp only [if_neg hflight, if_neg harray, if_neg hbank, if_neg hl2]
    rw [if_neg (by omega), if_pos (by omega)]

/-- A quarter operation whose cycle is past retires, is tried again or dropped, or waits for an array in service. -/
theorem execMmqRetire_of_retiring {q : MmaOp} (bad : Bool) (hgroup : State.groupAt? s h p = some g)
    (hretiring : Group.retiring? g s.clk = some n) (hq : g.mma[n]? = some q) :
    execMmqRetire h p bad s = .next (
      if q.tries > 0 ∧ State.arraysInService s h = [] then
        State.updGroup s h p (fun x => { x with mma := x.mma.set n { q with due := s.clk } })
      else if bad = true then mismatched s h p g n q
      else State.updGroup s h p (fun x =>
        { Group.updTile x q.tile (fun y => Tile.retire y q) with mma := dropPlaces x.mma [n] })) := by
  have hmismatch : (if q.tries ≥ 2 then
        State.updGroup (match State.arrayUsed s h with
          | some a => State.chargeUnit (State.useFree s) (arrayUnit h a) 4
          | none => s) h p (fun x =>
            { x with mma := dropPlaces x.mma [n], deferred := (x.deferred ++ [Deferred.shadow q.tile]).eraseDups })
      else State.retry (match State.arrayUsed s h with
          | some a => State.chargeUnit (State.useFree s) (arrayUnit h a) 4
          | none => s) g n q) = mismatched s h p g n q := by
    simp only [State.chargeUnit_eq_charged, mismatched, ge_iff_le, ← Nat.not_lt, ite_not]
    rfl
  simp only [execMmqRetire, hgroup, hretiring, hq, apply_ite Host.Outcome.next, ← hmismatch]
  rfl

/-! ## Restarts (R320) -/

/-- A region restarts once its waits are over and its group is not being drained. -/
theorem execRegionRestart_of_group (hgroup : State.groupAt? s h p = some g) :
    execRegionRestart h p s = .next (
      if Group.mayRestart g = true ∧ g.draining = false then State.finishRestart (State.toPort s h p) else s) := by
  simp only [execRegionRestart, hgroup, apply_ite Host.Outcome.next, Bool.and_eq_true, Bool.not_eq_true']

end

/-- Settles O38: each event by its own equation. That a mismatch charges the array that `Config.arrayPick` names is log entries 12
and 39, when a commit is due log entry 34, and that an event that is not due changes nothing log entry 38: all are the model's
choice. -/
theorem completionEventsComplete : Obligations.CompletionEventsComplete := by
  intro s t h p n k g o ks
  refine ⟨execLoadReturn_of_loaded, fun hgo w => execStorePerformed_of_mayGo hgo, execAtomicPerformed_of_atomicDone,
    fun hgo i => exists_unit_of_mayGo hgo, fun hnone => ?none, fun w => execCommitOutcome_of_commitDue,
    fun w l => execCommitTimeout_of_wait l, fun q bad => execMmqRetire_of_retiring bad, execRegionRestart_of_group⟩
  case none =>
    have hready := State.ready?_eq_none hnone
    refine ⟨?_, ?_, ?_⟩
    · show execLoadReturn h p n k s = _
      rw [execLoadReturn, hready]
    · show execStorePerformed h p n k s = _
      rw [execStorePerformed, hready]
    · show execAtomicPerformed h p n k s = _
      rw [execAtomicPerformed, hready]

end Sys2Proof.Machine

/-! # The engines' commands, PUB and the stash words retire (R205, R207 to R215, R229 to R233, R341) -/

namespace Sys2Proof.Machine

open Rules

/-! ## Copy-engine commands (R205, R209, R210) -/

/-- `State.running?` answers a command that may be worked on, with its group. -/
theorem State.running?_eq_some_iff {s : State} {h n : Nat} {g : Group} {c : Cmd} :
    State.running? s h n = some (g, c) ↔ Runs s h n g c := by
  unfold State.running? Runs
  cases hcmd : (State.hall s h).cmds[n]? with
  | none => simp
  | some d =>
    have hheld : ∀ d : Cmd, (!d.started || State.enginesStopped s d.ctx ||
        (CmdKind.sources d.kind ++ [CmdKind.dest d.kind]).any (fun x => State.runMigrating s d.ctx x) ||
        State.runLocked s d.ctx (CmdKind.dest d.kind)) = true ↔
        ¬ (d.started = true ∧ State.enginesStopped s d.ctx = false ∧
          (∀ x ∈ CmdKind.sources d.kind ++ [CmdKind.dest d.kind], State.runMigrating s d.ctx x = false) ∧
          State.runLocked s d.ctx (CmdKind.dest d.kind) = false) := fun d => by
      rw [← not_iff_not, not_not, Bool.not_eq_true]
      simp only [Bool.or_eq_false_iff, Bool.not_eq_false', List.any_eq_false, Bool.not_eq_true, and_assoc]
    simp only [hheld, ite_not, Option.ite_none_right_eq_some, Option.map_eq_some_iff, Prod.mk.injEq, Option.some.injEq]
    constructor
    · rintro ⟨⟨hstarted, hstopped, hmigrating, hlocked⟩, g', hgroup, rfl, rfl⟩
      exact ⟨rfl, hstarted, hstopped, hmigrating, hlocked, hgroup⟩
    · rintro ⟨rfl, hstarted, hstopped, hmigrating, hlocked, hgroup⟩
      exact ⟨⟨hstarted, hstopped, hmigrating, hlocked⟩, g, hgroup, rfl, rfl⟩

/-- Where no command may be worked on, `State.running?` answers none. -/
theorem State.running?_eq_none {s : State} {h n : Nat} (hnone : ¬ ∃ g c, Runs s h n g c) : State.running? s h n = none := by
  cases hrun : State.running? s h n with
  | none => rfl
  | some x => exact absurd ⟨_, _, State.running?_eq_some_iff.1 hrun⟩ hnone

/-- The advance of a command in the model is the statements'. -/
theorem State.stepCmd_eq_advanced : State.stepCmd = advanced := rfl

/-- So is its retirement. -/
theorem State.retireCmd_eq_cmdRetired : State.retireCmd = cmdRetired := rfl

section
variable {s : State} {h n : Nat} {g : Group} {c : Cmd}

/-- A command that may be worked on goes on, and retires once it is complete and no older one of its group is before it. -/
theorem execCopyCommandRetire_of_runs (r w : Nat) (hruns : Runs s h n g c) :
    execCopyCommandRetire h n r w s = .next (worked s h n g c r w) := by
  have hfirst : ∀ d : Cmd, ((!((State.hall s h).cmds.take n).any (fun b => b.slot == c.slot) && Cmd.complete d) = true) ↔
      (∀ b ∈ (State.hall s h).cmds.take n, b.slot ≠ c.slot) ∧ Cmd.complete d = true := fun d => by simp
  rw [execCopyCommandRetire, State.running?_eq_some_iff.2 hruns]
  simp only [hfirst, State.stepCmd_eq_advanced, State.retireCmd_eq_cmdRetired]
  rfl

/-! ## Gathers (R231, R341) -/

/-- What becomes of a row that has been read, in the model's terms. -/
theorem rowRead_eq (u : State) (i : Issuer) (place : Place) (rowb : Nat) (bs : List Byte) (bad : List Bool)
    (d : Option Deferred) :
    rowRead u h n i c place rowb bs bad d =
      let late := match c.deferred with | some y => some y | none => d
      if !place.scratch && State.runLeaves u c.ctx false place.addr rowb then
        let held : Cmd :=
          { c with got := (List.range rowb).map (fun k => (bs.getD k 0, bad.getD k false)), hold := 1, deferred := late }
        State.addTraffic (State.updHall u h (fun x => { x with cmds := x.cmds.set n held }))
          (State.leaving u c.ctx false place.addr bs)
      else State.stepCmd (State.engineWrite u i place bs bad false) h n c { c with rows := c.rows + 1, deferred := late } := by
  simp only [rowRead, Bool.and_eq_true, Bool.not_eq_true']
  rfl

/-- A gather goes on by a row unless its rows are done or one of them is held at the edge. -/
theorem execCpygRowGather_of_runs {table : DWord} {idx dst : Place} {count rowb : Nat} (hruns : Runs s h n g c)
    (hkind : c.kind = .gather table idx dst count rowb) :
    execCpygRowGather h n s = .next
      (if count ≤ c.rows ∨ c.hold = 1 then s else if c.hold = 2 then rowLeft s h n g c dst rowb
       else gathered s h n g c table idx dst rowb) := by
  rw [execCpygRowGather, State.running?_eq_some_iff.2 hruns]
  rw [apply_ite Host.Outcome.next, apply_ite Host.Outcome.next]
  simp only [hkind, rowLeft, gathered, rowRead_eq]
  refine if_congr Iff.rfl rfl (if_congr Iff.rfl rfl ?_)
  generalize State.engineRead s { g := g, lc := c.lc } (Place.add idx (4 * c.rows)) 4 = r
  generalize State.classify r.2.2 h c.ctx .load [{ lane := 0, addr := rowAddr table (leNat r.1) rowb, len := rowb }] = rows
  cases rows <;> rfl

end

/-! ## PUB (R211, R214, R233) -/

/-- A PUB with nothing outstanding before it swaps the sets of its buffer. -/
theorem execPubInstant_of_pubDue {s : State} {c entry p : Nat} {x : Ctx} {q : PubCmd} {e : PubEntry}
    (hdue : PubDue s c entry x p q e) :
    execPubInstant c entry s = .next (
      State.updCtx (swapped s c x entry e) c (fun y => { y with pubs := mapIf y.pubs (fun z => z == q) (fun z =>
        { z with passed := true, loads := (State.readersOf (swapped s c x entry e) c e).1,
                 cmds := (State.readersOf (swapped s c x entry e) c e).2 }) })) := by
  obtain ⟨hctx, hplace, rfl, hentry, hwrites, hstopped, g, hgroup, hacq⟩ := hdue
  simp only [execPubInstant, hctx, hplace, hgroup, hentry, hwrites, hacq, hstopped, Bool.or_self, Bool.false_eq_true, if_false]
  rfl

/-- A PUB that is not due changes nothing. -/
theorem execPubInstant_of_not_pubDue {s : State} {c entry : Nat} (hnot : ∀ x p q e, ¬ PubDue s c entry x p q e) :
    execPubInstant c entry s = .next s := by
  unfold execPubInstant
  cases hctx : State.ctx? s c with
  | none => rfl
  | some x =>
    dsimp only
    cases hplace : (x.pubs.filter (fun p => p.entry == entry)).findIdx? (fun p => !p.passed) with
    | none => rfl
    | some p =>
      dsimp only
      cases hentry : State.pubEntry s c entry with
      | none => rfl
      | some e =>
        dsimp only
        refine if_pos (by_contra fun hgo => ?_)
        rw [Bool.not_eq_true, Bool.or_eq_false_iff, Bool.or_eq_false_iff] at hgo
        obtain ⟨⟨hwrites, hacq⟩, hstopped⟩ := hgo
        split at hacq
        case h_1 g hgroup => exact hnot x p _ e ⟨hctx, hplace, rfl, hentry, hwrites, hstopped, g, hgroup, hacq⟩
        case h_2 => cases hacq

/-- A PUB retires once its instant is over and the old set is read no more. -/
theorem execPubRetire_of_pub {s : State} {c entry : Nat} {x : Ctx} {q : PubCmd} (hctx : State.ctx? s c = some x)
    (hpub : x.pubs.find? (fun p => p.entry == entry) = some q) :
    execPubRetire c entry s = .next (
      if q.passed = true ∧ State.readersLeft s c q = false then
        State.startCmds (State.updMember (State.dropPubs s (fun y p => y == c && p == q)) c q.seq q.blk q.grp
          (fun g => { g with ecnt := dec g.ecnt }))
      else s) := by
  have hwaits : (!q.passed || State.readersLeft s c q) = true ↔ ¬ (q.passed = true ∧ State.readersLeft s c q = false) := by
    cases q.passed <;> simp
  simp only [execPubRetire, hctx, hpub, hwaits, ite_not, apply_ite Host.Outcome.next]

/-! ## Stash commands (R207, R208, R227) -/

/-- The nth stash command of a hall is done, or there is none. -/
theorem execStashCommandDone_eq (s : State) (h n : Nat) :
    execStashCommandDone h n s = .next (match (stashWork s h)[n]? with
      | none => s
      | some (b, x) => if State.enginesStopped s b.ctx = true then s else stashDone s b x) := by
  rw [execStashCommandDone, List.head?_drop]
  show (match (stashWork s h)[n]? with | none => _ | some (b, c) => _) = _
  cases (stashWork s h)[n]? with
  | none => rfl
  | some x =>
    dsimp only
    rw [apply_ite Host.Outcome.next]
    rfl

/-- Settles O39: each event by its own equation. That operands of 0 mean all that is left of a command, and others a split of it,
is log entry 39, that a row is held at the edge of a lockstep partition log entry 33, and that an event that may not act changes
nothing log entry 38: all are the model's choice. -/
theorem engineEventsComplete : Obligations.EngineEventsComplete := by
  intro s h n c entry r w
  refine ⟨fun g x => execCopyCommandRetire_of_runs r w, fun hnone => ?none,
    fun g x table idx dst count rowb => execCpygRowGather_of_runs,
    fun x p q e => execPubInstant_of_pubDue, execPubInstant_of_not_pubDue, fun x q => execPubRetire_of_pub,
    fun b x hwork => ?stash, fun hwork => ?nostash⟩
  case none =>
    have hrunning := State.running?_eq_none hnone
    refine ⟨?_, ?_⟩
    · show execCopyCommandRetire h n r w s = _
      rw [execCopyCommandRetire, hrunning]
    · show execCpygRowGather h n s = _
      rw [execCpygRowGather, hrunning]
  case stash =>
    show execStashCommandDone h n s = _
    rw [execStashCommandDone_eq, hwork]
  case nostash =>
    show execStashCommandDone h n s = _
    rw [execStashCommandDone_eq, hwork]

end Sys2Proof.Machine

/-! # Tile tags and stage rings (R204, R225, R250 to R253) -/

namespace Sys2Proof.Machine

open Rules

/-! ## TILEV, TILEC, TILECLR (R204, R225) -/

/-- The end of the idempotent region leaves the blocks. -/
theorem State.block?_endRegion (s : State) (c seq blk : Nat) :
    State.block? (State.endRegion s) c seq blk = State.block? s c seq blk := rfl

/-- A group that does not wait goes on at the end of its idempotent region. -/
theorem State.unpark_endRegion {s : State} (hwait : s.g.wait = none) : State.unpark (State.endRegion s) = regionEnds s := by
  rw [State.unpark_of_none (by simp [hwait]), State.endRegion_eq_regionEnds]

section
variable {s : State} {i : Instr} {a b : RegNo} {ua ub : Bool} {f : BitVec 5 → BitVec 5}

/-- The three words differ in what they make of a tag. -/
theorem exec_of_tileWordOf (h : tileWordOf i = some (a, b, ua, ub, f)) :
    exec i s = issue i (fun s => State.tileWord s i a b ua ub f) s := by
  unfold tileWordOf at h
  split at h
  case h_4 => cases h
  all_goals
    cases h
    rfl

/-- Where no named tile is held, and no earlier store of the group nor access of it to that hall's scratchpad is outstanding, the
tags change. -/
theorem State.tileWord_of_free {addr : Word} {n blk off : Nat} {x : Block}
    (haddr : State.src s (Mask.lowest s.cur.mask) a.toNat ua = addr)
    (hn : (State.src s (Mask.lowest s.cur.mask) b.toNat ub).toNat = n) (hclosed : Closed s) (hwait : s.g.wait = none)
    (hsound : Sound s [named a ua [.i32], peeked b ub [.i32]]) (halign : addr.toNat % 1024 = 0) (hpos : 1 ≤ n) (hmost : n ≤ 512)
    (htarget : scratchTarget s.g.lr s.g.blk addr (1024 * n) = some (blk, off))
    (hblock : State.block? s s.g.ctx s.g.seq blk = some x)
    (hheld : ∀ k < n, TileTag.h (Block.tag x (off / 1024 + k)) = false) (hstores : s.g.scnt = 0)
    (hbusy : Group.scratchBusy (regionEnds s).g [placeRank (BitVec.zeroExtend 64 addr)] = false) :
    State.tileWord s i a b ua ub f = .ok (State.setTiles (regionEnds s) s.g.ctx s.g.seq blk (off / 1024) n f) := by
  have hfree : (List.range n).any (fun k => TileTag.h (Block.tag x (off / 1024 + k))) = false := by simpa using hheld
  have hcount : ¬ (n = 0 ∨ n > 512) := by omega
  rw [← State.endRegion_eq_regionEnds] at hbusy
  refine (State.outside_withSources _ hclosed hsound).trans ?_
  simp only [haddr, hn, halign, hcount, htarget, hwait, hblock, hfree, hstores, hbusy, State.block?_endRegion,
    State.endRegion_g_ctx, State.endRegion_g_seq, State.endRegion_g_scnt, State.unpark_endRegion hwait, Option.isSome_none,
    ne_eq, not_true_eq_false, decide_false, Bool.or_self, Bool.false_eq_true, if_false]
  rfl

end

/-! ## Stage rings (R250 to R253) -/

section
variable {s : State} {a b : RegNo} {r v : Nat} {x : Ring} (hr : (State.src s (Mask.lowest s.cur.mask) a.toNat false).toNat = r)
  (hv : (State.src s (Mask.lowest s.cur.mask) b.toNat false).toNat = v) (hclosed : Closed s)
  (hsound : Sound s [named a false [], named b false []])
include hr hv hclosed hsound

/-- RNGI with its number and geometry in bounds ends the region, and makes the ring unless it stands. -/
theorem exec_rngi_of_bounds (hready : Ready s (.rngi a b)) (hx : ringOf v = x) (hnumber : r < 16) (hdesc : v < 2 ^ 18)
    (hroom : (x.tb + x.n * x.t) * 1024 ≤ s.g.lr.scratch) :
    (State.ring? s r = some x → exec (.rngi a b) s = .next (done (regionEnds s))) ∧
    (State.ring? s r = none → exec (.rngi a b) s = .next (done (withBlock (regionEnds s) (fun y =>
      (List.range x.n).foldl (fun y j => Block.setTag y (Ring.tile x j) (fun t => TileTag.clear t 2))
        { y with rings := insert y.rings r x })))) := by
  have hin : ¬ (v ≥ 2 ^ 18 ∨ (x.tb + x.n * x.t) * 1024 > s.g.lr.scratch) := by omega
  refine ⟨fun hring => show execRngi a b s = _ from issue_of_entry (e := .ok _) hclosed hready ?stands,
    fun hring => show execRngi a b s = _ from issue_of_entry (e := .ok _) hclosed hready ?new⟩
  all_goals
    refine (withSources_of_sound _ hsound).trans ?_
    simp only [hr, hv, hx, if_neg (Nat.not_le.2 hnumber), State.outside_closed s _ hclosed, if_neg hin, hring, if_true]
  case stands => rw [State.endRegion_eq_regionEnds]
  case new =>
    rw [State.endRegion_eq_regionEnds]
    rfl

/-- RNGW goes on where P of the landing is its side; it ends no region. -/
theorem exec_rngw_of_phase (hready : Ready s (.rngw a b)) (hnumber : r < 16) (hdesc : v < 64) (hring : State.ring? s r = some x)
    (hlanding : bits v 0 5 < x.n) (hphase : State.phaseBit s x (bits v 0 5) = v.testBit 5) :
    exec (.rngw a b) s = .next (done s) := by
  have hin : ¬ (r ≥ 16 ∨ v ≥ 64) := by omega
  refine show execRngw a b s = _ from issue_of_entry (e := .ok _) hclosed hready ?_
  refine (withSources_of_sound _ hsound).trans ?_
  simp only [hr, hv, if_neg hin, State.outside_closed s _ hclosed, hring, if_neg (Nat.not_le.2 hlanding), hphase,
    beq_self_eq_true, if_true, State.unpark_of_none hready.wait_eq_none]

/-- RNGS with the group's loads and stores performed sets P of the landing to the other side. -/
theorem exec_rngs_of_phase (hready : Ready s (.rngs a b)) (hnumber : r < 16) (hdesc : v < 64) (hring : State.ring? s r = some x)
    (hlanding : bits v 0 5 < x.n) (hphase : State.phaseBit s x (bits v 0 5) = v.testBit 5) (hloads : s.g.lcnt = 0)
    (hstores : s.g.scnt = 0) :
    exec (.rngs a b) s = .next (done (withBlock (regionEnds s) (fun y =>
      Block.setTag y (Ring.tile x (bits v 0 5)) (fun t => if v.testBit 5 then TileTag.clear t 2 else TileTag.set t 2)))) := by
  have hwait := hready.wait_eq_none
  have hin : ¬ (r ≥ 16 ∨ v ≥ 64) := by omega
  refine show execRngs a b s = _ from issue_of_entry (e := .ok _) hclosed hready ?_
  refine (withSources_of_sound _ hsound).trans ?_
  simp only [hr, hv, if_neg hin, State.outside_closed s _ hclosed, hring, Nat.not_le.2 hlanding, hphase, hwait,
    bne_self_eq_false, decide_false, Bool.or_self, Bool.and_false, Bool.false_eq_true, if_false, Option.isSome_none,
    State.endRegion_g_lcnt, State.endRegion_g_scnt, hloads, hstores, and_self, if_true, State.unpark_endRegion hwait]
  rfl

end

/-- Settles O28: each word's entry with nothing that holds it. -/
theorem tileTagAndRingWordsComplete : Obligations.TileTagAndRingWordsComplete := by
  refine ⟨?tile, ?rngi, ?rngw, ?rngs⟩
  case tile =>
    intro s i a b ua ub f blk off x hword hclosed hready hsound addr n halign hpos hmost htarget hblock hheld hstores hbusy
    rw [exec_of_tileWordOf hword]
    exact issue_of_entry (e := .ok _) hclosed hready (State.tileWord_of_free rfl rfl hclosed hready.wait_eq_none hsound halign hpos
      hmost htarget hblock hheld hstores hbusy)
  case rngi =>
    intro s a b hclosed hready hsound x hnumber hdesc hroom
    exact exec_rngi_of_bounds rfl rfl hclosed hsound hready rfl hnumber hdesc hroom
  case rngw =>
    intro s a b x hclosed hready hsound j hnumber hdesc hring hlanding hphase
    exact exec_rngw_of_phase rfl rfl hclosed hsound hready hnumber hdesc hring hlanding hphase
  case rngs =>
    intro s a b x hclosed hready hsound j side hnumber hdesc hring hlanding hphase hloads hstores
    exact exec_rngs_of_phase rfl rfl hclosed hsound hready hnumber hdesc hring hlanding hphase hloads hstores

end Sys2Proof.Machine

/-! # Engine words (R205 to R214, R226 to R233) -/

namespace Sys2Proof.Machine

open Rules

/-! ## What every engine word has in common -/

/-- The acceptance of the model is the statements'. -/
theorem State.acceptCmd_eq_commandAccepted (s : State) (k : CmdKind) (behind : Nat) :
    State.acceptCmd s k behind = commandAccepted s k behind := by
  rw [State.acceptCmd, State.endRegion_eq_regionEnds]
  rfl

/-- `State.ecntFull` decides that ecnt has no room. -/
theorem State.ecntFull_eq_false_iff (s : State) : State.ecntFull s = false ↔ EngineRoom s := by
  simp [State.ecntFull, EngineRoom, Group.engines, Config.maxCounter]

/-- The pages of an engine word's runs leave the group. -/
theorem State.touchAll_g (s : State) (ps : List Piece) (dst : List (Place × Nat)) : (State.touchAll s ps dst).g = s.g := by
  rw [State.touchAll, State.touch_g, State.touch_g]

/-- A place whose high register is as it must be. -/
theorem State.placeOf_of_highZero {s : State} {n : Nat} {u space : Bool} (h : highZero s n u space) :
    State.placeOf s (Mask.lowest s.cur.mask) n u space = some (placeAt s n u space) := by
  cases space with
  | false => rfl
  | true => exact if_neg (not_not.2 (h rfl))

/-- No page of the destination has S set. -/
theorem plainDest_eq_none {ps : List Piece} (h : ∀ p ∈ ps, Leaf.s p.leaf = false) : plainDest ps = none := by
  have hnone : ps.find? (fun p => Leaf.s p.leaf) = none := List.find?_eq_none.2 fun p hp => by simp [h p hp]
  rw [plainDest, hnone]

section
variable {s : State} {k : CmdKind} {reads : List (Place × Nat)} {prot : List Piece → Option (Mask × DWord)} {behind : Nat}
  {ps : List Piece}

/-- With its runs legal, its pages classified, and room in ecnt and the scoreboard, a command is accepted. -/
theorem State.engineWord_of_accepted
    (hlegal : ∀ x ∈ reads ++ [CmdKind.dest k], x.1.scratch = true → (Place.target x.1 s.g.lr s.g.blk x.2).isSome = true)
    (hclass : State.classifyAll (State.lookUp s s.g.hall s.g.ctx (engineAccesses (first s) reads [CmdKind.dest k])) s.g.hall s.g.ctx
      (engineAccesses (first s) reads [CmdKind.dest k]) = .ok ps)
    (hprot : prot (destPieces ps [CmdKind.dest k]) = none) (hroom : EngineRoom s)
    (hranges : (State.hall (State.touchAll (State.lookUp s s.g.hall s.g.ctx (engineAccesses (first s) reads [CmdKind.dest k])) ps
        [CmdKind.dest k]) s.g.hall).ranges.length +
      (State.rangesOf (State.touchAll (State.lookUp s s.g.hall s.g.ctx (engineAccesses (first s) reads [CmdKind.dest k])) ps
        [CmdKind.dest k]) k).length ≤ 32) :
    State.engineWord s k reads prot behind =
      .ok (commandAccepted (State.touchAll (State.lookUp s s.g.hall s.g.ctx (engineAccesses (first s) reads [CmdKind.dest k])) ps
        [CmdKind.dest k]) k behind) := by
  generalize ht : State.lookUp s s.g.hall s.g.ctx (engineAccesses (first s) reads [CmdKind.dest k]) = t at *
  have hgroup : (State.touchAll t ps [CmdKind.dest k]).g = s.g := by rw [State.touchAll_g, ← ht, State.lookUp_g]
  have hruns : State.runsLegal s (reads ++ [CmdKind.dest k]) = true := by
    refine List.all_eq_true.2 fun x hx => ?_
    cases hscratch : x.1.scratch with
    | false => rfl
    | true => simpa using hlegal x hx hscratch
  have hcount : State.ecntFull (State.touchAll t ps [CmdKind.dest k]) = false := by
    rw [State.ecntFull_eq_false_iff, EngineRoom, hgroup]
    exact hroom
  have henqueue : State.enqueue (State.touchAll t ps [CmdKind.dest k]) k behind =
      .ok (commandAccepted (State.touchAll t ps [CmdKind.dest k]) k behind) := by
    rw [State.enqueue, hcount, hgroup, if_neg Bool.false_ne_true, Config.rangeEntries, if_neg (Nat.not_lt.2 hranges),
      State.acceptCmd_eq_commandAccepted]
  have haccesses : engineAccesses (Mask.lowest s.cur.mask) reads [CmdKind.dest k] =
      engineAccesses (first s) reads [CmdKind.dest k] := rfl
  simp only [State.engineWord, hruns, State.classifiedAll, haccesses, ht, hclass, hprot, henqueue, Bool.not_true,
    Bool.false_eq_true, if_false, Eff.wanting]

end

/-! ## Each word as an engine word (R229 to R232) -/

/-- The test that CPYW makes of its destination's pages: all of the buffer, and none of another kind. -/
def backDest (e : PubEntry) (dst : Place) (len lane : Nat) (ps : List Piece) : Option (Mask × DWord) :=
  match ps.find? (fun p => !Leaf.s p.leaf) with
  | some p => some (1#32 <<< p.lane, p.addr)
  | none => if PubEntry.holds e (vaOf dst.addr + len - 1) then none else some (1#32 <<< lane, dst.addr)

/-- The test that DISC makes of the pages that it discards. -/
def discDest (ps : List Piece) : Option (Mask × DWord) :=
  match ps.find? (fun p => noDiscard p.leaf) with
  | some p => some (1#32 <<< p.lane, p.addr)
  | none => none

/-- Pages of one published buffer pass CPYW's test. -/
theorem backDest_eq_none {e : PubEntry} {dst : Place} {len lane : Nat} {ps : List Piece} (h : ∀ p ∈ ps, Leaf.s p.leaf = true)
    (hwhole : PubEntry.holds e (vaOf dst.addr + len - 1) = true) : backDest e dst len lane ps = none := by
  have hnone : ps.find? (fun p => !Leaf.s p.leaf) = none := List.find?_eq_none.2 fun p hp => by simp [h p hp]
  rw [backDest, hnone]
  exact if_pos hwhole

/-- Pages that may be discarded pass DISC's test. -/
theorem discDest_eq_none {ps : List Piece} (h : ∀ p ∈ ps, noDiscard p.leaf = false) : discDest ps = none := by
  have hnone : ps.find? (fun p => noDiscard p.leaf) = none := List.find?_eq_none.2 fun p hp => by simp [h p hp]
  rw [discDest, hnone]

section
variable {s : State} {d a b : RegNo} {ua ub : Bool}

/-- CPY with a legal descriptor. -/
theorem State.copyWord_of_legal {v : Nat} {dst from_ : Place} (hv : (State.src s (Mask.lowest s.cur.mask) b.toNat ub).toNat = v)
    (hdst : State.placeOf s (Mask.lowest s.cur.mask) d.toNat false (v.testBit 26) = some dst)
    (hfrom : State.placeOf s (Mask.lowest s.cur.mask) a.toNat ua (v.testBit 25) = some from_) (hclosed : Closed s)
    (hsound : Sound s (placeSources d.toNat false (v.testBit 26) ++ placeSources a.toNat ua (v.testBit 25) ++
      [{ reg := b.toNat, uni := ub, tags := [], use := .peek }]))
    (hreserved : bits v 27 5 = 0) (hpos : 0 < bits v 0 25) (hmost : bits v 0 25 ≤ 2 ^ 24) :
    State.copyWord s false d a b ua ub =
      State.engineWord s (.copy from_ dst (bits v 0 25) false) [(from_, bits v 0 25)] plainDest 0 := by
  have hdesc : ¬ (bits v 27 5 ≠ 0 ∨ bits v 0 25 = 0 ∨ bits v 0 25 > 16777216) := by omega
  subst hv
  refine (State.outside_closed s _ hclosed).trans ((withSources_of_sound _ hsound).trans ?_)
  simp only [hdst, hfrom, if_neg hdesc, Bool.not_false, if_true]

/-- CPYW with a legal descriptor and a destination in a published buffer: it stands behind the buffer's PUBs. -/
theorem State.copyWord_of_buffer {v : Nat} {dst from_ : Place} {e : PubEntry}
    (hv : (State.src s (Mask.lowest s.cur.mask) b.toNat ub).toNat = v) (hspace : v.testBit 26 = false)
    (hdst : State.placeOf s (Mask.lowest s.cur.mask) d.toNat false false = some dst)
    (hfrom : State.placeOf s (Mask.lowest s.cur.mask) a.toNat ua (v.testBit 25) = some from_) (hclosed : Closed s)
    (hsound : Sound s (placeSources d.toNat false false ++ placeSources a.toNat ua (v.testBit 25) ++
      [{ reg := b.toNat, uni := ub, tags := [], use := .peek }]))
    (hreserved : bits v 27 5 = 0) (hpos : 0 < bits v 0 25) (hmost : bits v 0 25 ≤ 2 ^ 24)
    (hbuffer : State.buffer s s.g.ctx (vaOf dst.addr) = some e) :
    State.copyWord s true d a b ua ub =
      State.engineWord s (.copy from_ dst (bits v 0 25) true) [(from_, bits v 0 25)]
        (backDest e dst (bits v 0 25) (Mask.lowest s.cur.mask)) (State.pubsOf s s.g.ctx e.index).length := by
  have hdesc : ¬ (bits v 27 5 ≠ 0 ∨ bits v 0 25 = 0 ∨ bits v 0 25 > 16777216) := by omega
  have hsound : Sound s (placeSources d.toNat false (v.testBit 26) ++ placeSources a.toNat ua (v.testBit 25) ++
      [{ reg := b.toNat, uni := ub, tags := [], use := .peek }]) := by
    rw [hspace]
    exact hsound
  subst hv
  refine (State.outside_closed s _ hclosed).trans ((withSources_of_sound _ hsound).trans ?_)
  simp only [hspace, hdst, hfrom, if_neg hdesc, hbuffer, Bool.not_true, Bool.false_eq_true, if_false]
  rfl

end

/-- A word whose command's destination is on the pages `ps` asks the engine for it, and the pages pass the word's own test. -/
def AsksEngine (s : State) (i : Instr) (w : EngineWord) (ps : List Piece) : Prop :=
  ∃ prot, prot ps = none ∧ exec i s = .next (State.finish s (State.engineWord s w.kind w.reads prot w.behind))

section
variable {s : State} {w : EngineWord} {ps : List Piece} {d a b : RegNo} {ua ub : Bool}

/-- CPY. -/
theorem asksEngine_cpy (h : engineWord s (.cpy d a b ua ub) = some w) (hclosed : Closed s) (hready : Ready s (.cpy d a b ua ub))
    (hsound : Sound s w.srcs) (hlegal : w.legal) (hdest : w.dest ps) : AsksEngine s (.cpy d a b ua ub) w ps := by
  cases h
  obtain ⟨hreserved, hpos, hmost, hdst, hfrom⟩ := hlegal
  refine ⟨plainDest, plainDest_eq_none hdest, show execCpy d a b ua ub s = _ from ?_⟩
  rw [execCpy, issue_of_ready _ hclosed hready]
  exact congrArg (fun e => Host.Outcome.next (State.finish s e)) (State.copyWord_of_legal rfl (State.placeOf_of_highZero hdst)
    (State.placeOf_of_highZero hfrom) hclosed hsound hreserved hpos hmost)

/-- CPYW. -/
theorem asksEngine_cpyw (h : engineWord s (.cpyw d a b ua ub) = some w) (hclosed : Closed s) (hready : Ready s (.cpyw d a b ua ub))
    (hsound : Sound s w.srcs) (hlegal : w.legal) (hdest : w.dest ps) : AsksEngine s (.cpyw d a b ua ub) w ps := by
  cases h
  obtain ⟨hspace, hreserved, hpos, hmost, hfrom⟩ := hlegal
  obtain ⟨hback, e, hbuffer, hwhole⟩ := hdest
  refine ⟨_, backDest_eq_none (lane := Mask.lowest s.cur.mask) hback hwhole, show execCpyw d a b ua ub s = _ from ?_⟩
  rw [execCpyw, issue_of_ready _ hclosed hready, State.copyWord_of_buffer rfl hspace rfl (State.placeOf_of_highZero hfrom) hclosed
    hsound hreserved hpos hmost hbuffer]
  simp only [hbuffer]
  rfl

/-- CPYT. -/
theorem asksEngine_cpyt (h : engineWord s (.cpyt d a b ua ub) = some w) (hclosed : Closed s) (hready : Ready s (.cpyt d a b ua ub))
    (hsound : Sound s w.srcs) (hlegal : w.legal) (hdest : w.dest ps) : AsksEngine s (.cpyt d a b ua ub) w ps := by
  cases h
  obtain ⟨hres1, hres5, hres7, hnx, hny, hnz, hsize, hdst, hfrom, hoverlap⟩ := hlegal
  refine ⟨plainDest, plainDest_eq_none hdest, show execCpyt d a b ua ub s = _ from ?_⟩
  rw [execCpyt, issue_of_ready _ hclosed hready]
  refine congrArg (fun e => Host.Outcome.next (State.finish s e)) ?_
  refine (State.outside_closed s _ hclosed).trans ((withSources_of_sound _ hsound).trans ?_)
  have hdesc : ¬ (descField (words s b 8 ub) 1 20 12 ≠ 0 ∨ descField (words s b 8 ub) 5 16 16 ≠ 0 ∨
      descField (words s b 8 ub) 7 16 16 ≠ 0 ∨ (boxOf (words s b 8 ub)).nx = 0 ∨ (boxOf (words s b 8 ub)).ny = 0 ∨
      (boxOf (words s b 8 ub)).nz = 0 ∨ Box.size (boxOf (words s b 8 ub)) > 16777216) := by
    omega
  have hwords : (regRun b.toNat 8).map (fun n => State.src s (Mask.lowest s.cur.mask) n ub) = words s b 8 ub := rfl
  have hapart := List.any_eq_false.2 (fun y hy => Bool.eq_false_iff.1 (hoverlap y hy))
  simp only [hwords, State.placeOf_of_highZero hdst, State.placeOf_of_highZero hfrom, if_neg hdesc, hapart, Bool.false_eq_true,
    if_false]

/-- CPYG. -/
theorem asksEngine_cpyg (h : engineWord s (.cpyg d a b ua ub) = some w) (hclosed : Closed s) (hready : Ready s (.cpyg d a b ua ub))
    (hsound : Sound s w.srcs) (hlegal : w.legal) (hdest : w.dest ps) : AsksEngine s (.cpyg d a b ua ub) w ps := by
  cases h
  obtain ⟨halign, hres2, hres3, hrow3, hcount, hcountmost, hrowb, hrowbmost, hsize, hindex, hoverlap, hdst⟩ := hlegal
  refine ⟨plainDest, plainDest_eq_none hdest, show execCpyg d a b ua ub s = _ from ?_⟩
  rw [execCpyg, issue_of_ready _ hclosed hready]
  refine congrArg (fun e => Host.Outcome.next (State.finish s e)) ?_
  refine (State.outside_closed s _ hclosed).trans ((withSources_of_sound _ hsound).trans ((if_neg (not_not.2 halign)).trans ?_))
  have hwords : (regRun b.toNat 4).map (fun n => State.src s (Mask.lowest s.cur.mask) n ub) = words s b 4 ub := rfl
  simp only [hwords, State.placeOf_of_highZero hdst]
  refine if_neg ?_
  simp only [not_or]
  exact ⟨not_not.2 hres2, not_not.2 hres3, not_not.2 hrow3, hcount.ne', Nat.not_lt.2 hcountmost, hrowb.ne',
    Nat.not_lt.2 hrowbmost, Nat.not_lt.2 hsize, fun hhigh => hhigh.2 (hindex hhigh.1), Bool.eq_false_iff.1 hoverlap⟩

/-- DISC. -/
theorem asksEngine_disc (h : engineWord s (.disc a b ua ub) = some w) (hclosed : Closed s) (hready : Ready s (.disc a b ua ub))
    (hsound : Sound s w.srcs) (hlegal : w.legal) (hdest : w.dest ps) : AsksEngine s (.disc a b ua ub) w ps := by
  cases h
  obtain ⟨halign, hlines, hpos, hmost⟩ := hlegal
  refine ⟨discDest, discDest_eq_none hdest, show execDisc a b ua ub s = _ from ?_⟩
  rw [execDisc, issue_of_ready _ hclosed hready]
  refine congrArg (fun e => Host.Outcome.next (State.finish s e)) ?_
  refine (State.outside_withSources _ hclosed hsound).trans ((if_neg (not_not.2 halign)).trans ((if_neg ?_).trans rfl))
  show ¬ ((src s (first s) b.toNat ub).toNat % 128 ≠ 0 ∨ (src s (first s) b.toNat ub).toNat < 128 ∨
    (src s (first s) b.toNat ub).toNat > 16777216)
  omega

/-- Each of the five words. -/
theorem asksEngine_of_engineWord {i : Instr} (h : engineWord s i = some w) (hclosed : Closed s) (hready : Ready s i)
    (hsound : Sound s w.srcs) (hlegal : w.legal) (hdest : w.dest ps) : AsksEngine s i w ps := by
  cases i with
  | cpy d a b ua ub => exact asksEngine_cpy h hclosed hready hsound hlegal hdest
  | cpyw d a b ua ub => exact asksEngine_cpyw h hclosed hready hsound hlegal hdest
  | cpyt d a b ua ub => exact asksEngine_cpyt h hclosed hready hsound hlegal hdest
  | cpyg d a b ua ub => exact asksEngine_cpyg h hclosed hready hsound hlegal hdest
  | disc a b ua ub => exact asksEngine_disc h hclosed hready hsound hlegal hdest
  | _ => cases h

end

/-- Settles O24: each word asks the engine for its command, which is accepted. -/
theorem copyEngineWordsComplete : Obligations.CopyEngineWordsComplete := by
  intro s i w ps hword hclosed hready hsound hlegal hruns t hclass hdest hroom u hranges
  obtain ⟨prot, hprot, hexec⟩ := asksEngine_of_engineWord hword hclosed hready hsound hlegal hdest
  rw [hexec, State.engineWord_of_accepted hruns hclass hprot hroom hranges]
  rfl

end Sys2Proof.Machine

/-! # PREF, PUB and the stash words (R206, R226, R227, R232, R233) -/

namespace Sys2Proof.Machine

open Rules

/-! ## PREF (R232) -/

section
variable {s : State} {a b : RegNo} {ua ub : Bool}

/-- PREF changes the command number alone. -/
theorem exec_pref_of_range {n : Nat} (hn : (State.src s (Mask.lowest s.cur.mask) b.toNat ub).toNat = n) (hclosed : Closed s)
    (hready : Ready s (.pref a b ua ub)) (hsound : Sound s (rangeSrcs a b ua ub)) (hpos : 0 < n) (hmost : n ≤ 2 ^ 24) :
    exec (.pref a b ua ub) s = .next (done (withG s { s.g with commands := s.g.commands + 1 })) := by
  have hrange : ¬ (n = 0 ∨ n > 16777216) := by omega
  refine show execPref a b ua ub s = _ from issue_of_entry (e := .ok _) hclosed hready ?_
  refine (State.outside_withSources _ hclosed hsound).trans ?_
  simp only [hn, if_neg hrange]
  rfl

end

/-! ## PUB (R214, R233) -/

section
variable {s : State} {a : RegNo} {ua : Bool}

/-- A PUB of an entry whose pages may all be written is accepted. -/
theorem exec_pub_of_entry {i : Nat} {e : PubEntry} (hi : (State.src s (Mask.lowest s.cur.mask) a.toNat ua).toNat = i)
    (hclosed : Closed s) (hready : Ready s (.pub a ua)) (hsound : Sound s [{ reg := a.toNat, uni := ua, tags := [], use := .peek }])
    (hindex : i < 4096) (hentry : State.pubEntry s s.g.ctx i = some e) (hpages : e.npages ≠ 0)
    (hwrite : ∀ k < e.npages, ∃ l p, State.walk s s.g.ctx (e.base + 65536 * k) = .leaf l p ∧ Leaf.w l = true)
    (hroom : EngineRoom s) :
    exec (.pub a ua) s = .next (done (
      let t := State.updCtx (regionEnds s) s.g.ctx (fun x => { x with pubs := x.pubs ++
        [{ entry := i, seq := s.g.seq, blk := s.g.blk, grp := s.g.grp, num := s.g.commands, passed := false, after := s.g.nextNo,
           loads := [], cmds := [] }] })
      withG t { t.g with ecnt := t.g.ecnt + 1, commands := t.g.commands + 1, nextNo := t.g.nextNo + 1 })) := by
  refine show execPub a ua s = _ from issue_of_entry (e := .ok _) hclosed hready ?_
  refine (State.outside_withSources _ hclosed hsound).trans ?_
  simp only [hi, if_pos hindex, hentry, if_neg hpages, (State.ecntFull_eq_false_iff s).2 hroom, Bool.false_eq_true, if_false,
    State.endRegion_eq_regionEnds]
  split
  case h_1 k hk =>
    obtain ⟨l, p, hwalk, hw⟩ := hwrite k (List.mem_range.1 (List.mem_of_find?_eq_some hk))
    have hbad := List.find?_some hk
    rw [hwalk] at hbad
    simp [hw] at hbad
  case h_2 => rfl

end

/-! ## SMAP, SFLUSH, SDROP (R206, R227) -/

/-- The mappings of the group's block are those of the statements. -/
theorem State.myMaps_eq_mapsOf : State.myMaps = mapsOf := rfl

section
variable {s : State} {a b : RegNo} {ua ub : Bool}

/-- A legal mapping is no case of R206. -/
theorem State.mapBad_of_mapLegal {m : StashMap} (h : MapLegal s m) : State.mapBad s m = false := by
  obtain ⟨-, -, -, hcount, hstash, hclear⟩ := h
  have hoverlap : (State.myMaps s).any (fun x => overlaps x.tile0 x.tiles m.tile0 m.tiles ||
      overlaps (vaOf x.base) (1024 * x.tiles) (vaOf m.base) (1024 * m.tiles)) = false := by
    refine List.any_eq_false.2 fun x hx => ?_
    obtain ⟨htiles, hpages⟩ := hclear x hx
    simp [htiles, hpages]
  rw [State.mapBad, hoverlap, State.myMaps_eq_mapsOf, decide_eq_false (Nat.not_le.2 hcount), decide_eq_false (Nat.not_lt.2 hstash)]
  rfl

/-- SMAP of a legal mapping of pages that are in no published buffer is accepted with the mapping in force. -/
theorem exec_smap_of_mapLegal {v : Nat} {m : StashMap} {ps : List Piece}
    (hv : (State.src s (Mask.lowest s.cur.mask) b.toNat ub).toNat = v)
    (hm : ({ tile0 := bits v 0 9, tiles := bits v 16 9, base := State.src64 s (Mask.lowest s.cur.mask) a.toNat ua } : StashMap) = m)
    (hclosed : Closed s) (hready : Ready s (.smap a b ua ub)) (hsound : Sound s (rangeSrcs a b ua ub)) (hhigh : bits v 25 7 = 0)
    (hlow : bits v 9 7 = 0) (hlegal : MapLegal s m)
    (hclass : Classified s .load [{ lane := first s, addr := m.base, len := 1024 * m.tiles }] ps)
    (hleaf : ∀ p ∈ ps, Leaf.s p.leaf = false) (hroom : EngineRoom s) :
    exec (.smap a b ua ub) s = .next (done (stashJoins (State.updBlock (regionEnds (touched s
        [{ lane := first s, addr := m.base, len := 1024 * m.tiles }] false ps)) s.g.ctx s.g.seq s.g.blk
      (fun b => { b with stashMaps := b.stashMaps ++ [m] })) 0 m 0)) := by
  have hbad := State.mapBad_of_mapLegal hlegal
  obtain ⟨halign, htiles, hpage, -⟩ := hlegal
  have hdesc : ¬ (bits v 25 7 ≠ 0 ∨ bits v 9 7 ≠ 0 ∨ m.tiles = 0 ∨ m.base.toNat % 65536 + 1024 * m.tiles > 65536 ∨
      State.mapBad s m = true) := by
    simp only [not_or]
    exact ⟨not_not.2 hhigh, not_not.2 hlow, htiles.ne', Nat.not_lt.2 hpage, Bool.eq_false_iff.1 hbad⟩
  subst hv hm
  refine show execSmap a b ua ub s = _ from issue_of_entry (e := .ok _) hclosed hready ?_
  refine (State.outside_withSources _ hclosed hsound).trans ((if_neg (not_not.2 halign)).trans ((if_neg hdesc).trans ?_))
  refine (State.classified_of_classified _ hclass).trans ?_
  simp only [touch_lookedUp, State.leafProt_ok _ _ _ _ hleaf, (State.ecntFull_eq_false_iff s).2 hroom, Bool.false_eq_true, if_false,
    State.endRegion_g_ctx, State.endRegion_g_seq, State.endRegion_g_blk, touched_g]
  rw [State.endRegion_eq_regionEnds]
  rfl

/-- SFLUSH of a run is accepted. -/
theorem exec_sflush_of_room (hclosed : Closed s) (hready : Ready s (.sflush a b ua ub)) (hsound : Sound s (rangeSrcs a b ua ub))
    (hroom : EngineRoom s) :
    exec (.sflush a b ua ub) s = .next (done (stashJoins (regionEnds s) 1
      { tile0 := 0, tiles := 0, base := State.src64 s (first s) a.toNat ua } (src s (first s) b.toNat ub).toNat)) := by
  refine show execSflush a b ua ub s = _ from issue_of_entry (e := .ok _) hclosed hready ?_
  refine (State.outside_withSources _ hclosed hsound).trans ?_
  rw [(State.ecntFull_eq_false_iff s).2 hroom, State.endRegion_eq_regionEnds]
  rfl

/-- SDROP of a mapping of the block is accepted. -/
theorem exec_sdrop_of_map {m : StashMap} (hclosed : Closed s) (hready : Ready s (.sdrop a ua))
    (hsound : Sound s (srcPair a.toNat ua [.addr, .i32] .lowest))
    (hmap : (mapsOf s).find? (fun m => m.base == State.src64 s (first s) a.toNat ua) = some m) (hroom : EngineRoom s) :
    exec (.sdrop a ua) s = .next (done (stashJoins (regionEnds s) 2 m 0)) := by
  have hmap : (State.myMaps s).find? (fun m => m.base == State.src64 s (Mask.lowest s.cur.mask) a.toNat ua) = some m := hmap
  refine show execSdrop a ua s = _ from issue_of_entry (e := .ok _) hclosed hready ?_
  refine (State.outside_withSources _ hclosed hsound).trans ?_
  simp only [hmap, (State.ecntFull_eq_false_iff s).2 hroom, Bool.false_eq_true, if_false, State.endRegion_eq_regionEnds]
  rfl

end

/-- Settles O25: each word's entry with its conditions met. That PREF prefetches nothing, so that only its command number is left of
it, is the model's choice (log entry 36). -/
theorem publishAndStashWordsComplete : Obligations.PublishAndStashWordsComplete := by
  refine ⟨?pref, ?pub, ?smap, ?sflush, ?sdrop⟩
  case pref =>
    intro s a b ua ub hclosed hready hsound hpos hmost
    exact exec_pref_of_range rfl hclosed hready hsound hpos hmost
  case pub =>
    intro s a ua e hclosed hready hsound i hindex hentry hpages hwrite hroom t
    exact exec_pub_of_entry rfl hclosed hready hsound hindex hentry hpages hwrite hroom
  case smap =>
    intro s a b ua ub ps hclosed hready hsound m hhigh hlow hlegal hclass hleaf hroom
    exact exec_smap_of_mapLegal rfl rfl hclosed hready hsound hhigh hlow hlegal hclass hleaf hroom
  case sflush =>
    intro s a b ua ub hclosed hready hsound hroom
    exact exec_sflush_of_room hclosed hready hsound hroom
  case sdrop =>
    intro s a ua m hclosed hready hsound hmap hroom
    exact exec_sdrop_of_map hclosed hready hsound hmap hroom

end Sys2Proof.Machine

/-! # Memory: every step keeps its canonical form, and a performed store writes its own bytes (R72, R220, R221, R260) -/

namespace Sys2Proof.Machine

/-! ## Every step keeps the canonical form of memory -/

/-- The cases of a step: the due event's instruction, a cycle that passes, a group that is served, the chosen chain or what it refuses
beside it, the closing of the cycle. Each keeps the canonical form. -/
theorem State.next_wf (s : State) (hm : Memory.wf s.mem = true) : outWf (State.next s) := by
  unfold State.next
  split
  case h_1 e r hevents => exact exec_wf e { s with events := r } hm
  case h_2 =>
    split
    case isTrue => exact State.tick_wf s hm
    case isFalse =>
      split
      case h_1 o hserved =>
        obtain ⟨g, -, hg⟩ := List.exists_of_findSome?_eq_some hserved
        exact State.serve_wf s g hm o hg
      case h_2 =>
        dsimp only
        split
        case h_1 g t hchosen =>
          exact (congrArg Memory.wf (State.refuse_mem s t _ _)).trans (State.choose_wf s hm _ hchosen)
        case h_2 g o _ hchosen => exact State.choose_wf s hm _ hchosen
        case h_3 =>
          have hclosed : Memory.wf (State.close s).mem = true := hm
          split
          case isTrue => exact State.tick_wf _ hclosed
          case isFalse => exact hclosed

/-- Settles O45: the step is an outcome that keeps the form, whichever of the step's cases it is. -/
theorem everyStepKeepsMemoryCanonical : Obligations.EveryStepKeepsMemoryCanonical := by
  intro s t hm hstep
  have hwf : outWf (step s) := State.next_wf s hm
  rwa [hstep] at hwf

/-! ## Accesses that go to their homes (R206, R207, R343, R370) -/

open Rules

/-- With no stash line nothing is written back or invalidated. -/
theorem State.recall_of_noStash {s : State} (h : NoStash s) (except : Option (Nat × Nat × Nat)) (pa len : Nat) (write : Bool) :
    State.recall s except pa len write = s := by
  have hlines : s.blocks.all (fun b => b.stashLines.isEmpty) = true :=
    List.all_eq_true.2 fun b hb => List.isEmpty_iff.2 (h b hb).2
  rw [State.recall, if_pos hlines]

/-- With no mapping no stash serves an address. -/
theorem State.stashOf_of_noStash {s : State} (h : NoStash s) (who : Viewer) (va : Nat) : State.stashOf s who va = none := by
  unfold State.stashOf
  split
  case h_1 => rfl
  case h_2 c seq blk =>
    split
    case h_1 b hb =>
      have hmaps : b.stashMaps = [] := (h b (List.mem_of_find?_eq_some hb)).1
      simp [Block.serves, hmaps]
    case h_2 => rfl

/-- A run is read at its home. -/
theorem State.readRun_of_noStash {s : State} (h : NoStash s) (who : Viewer) (va pa len : Nat) :
    State.readRun s who va pa len = (Memory.readN s.mem pa len, s) := by
  simp only [State.readRun, State.stashOf_of_noStash h, State.recall_of_noStash h]

theorem State.markWritten_blocks (s : State) (pa len : Nat) (bad : Bool) : (State.markWritten s pa len bad).blocks = s.blocks := by
  unfold State.markWritten
  split <;> rfl

/-- A run is written at its home. -/
theorem State.writeRun_of_noStash {s : State} (h : NoStash s) (who : Viewer) (va pa : Nat) (bs : List Byte) (bad : Bool) :
    State.writeRun s who va pa bs bad =
      { State.markWritten s pa bs.length bad with mem := Memory.writeN s.mem pa bs } := by
  have hmarked : NoStash (State.markWritten s pa bs.length bad) := by
    unfold NoStash
    rwa [State.markWritten_blocks]
  simp only [State.writeRun, State.stashOf_of_noStash hmarked, State.recall_of_noStash hmarked, State.markWritten_mem]

/-- A write of a page that is no M page is not traced. -/
theorem State.noteWrite_of_not_m (s : State) (c : Nat) (who : Writer) (va : Nat) (bs old : List Byte) (granule : Nat → List Byte)
    {leaf : DWord} (h : Leaf.m leaf = false) : State.noteWrite s c who va bs old granule leaf = s := by
  rw [State.noteWrite, h]
  rfl

/-- No stash holds anything, and a context's runs are not logged. -/
structure Plain (s : State) (c : Nat) : Prop where
  noStash : NoStash s
  unlogged : ∀ x, State.ctx? s c = some x → x.dbg.rpMode ≠ 1

namespace Plain

variable {s : State} {c : Nat} (h : Plain s c)
include h

/-- What leaves the blocks and the contexts leaves accesses plain. -/
theorem of_eq {t : State} (hblocks : t.blocks = s.blocks) (hctxs : t.ctxs = s.ctxs) : Plain t c := by
  refine ⟨?_, ?_⟩
  · unfold NoStash
    rw [hblocks]
    exact h.noStash
  · unfold State.ctx?
    rw [hctxs]
    exact h.unlogged

/-- An access of a context that is not logged leaves no record. -/
theorem noteAccess (groupNo clock line : Nat) : State.noteAccess s c groupNo clock line = s := by
  unfold State.noteAccess
  split
  case h_1 => rfl
  case h_2 x hx => exact if_pos (bne_iff_ne.2 (h.unlogged x hx))

/-- Nor do the accesses of a list of lines. -/
theorem foldl_noteAccess (groupNo clock : Nat) (line : Nat → Nat) (ls : List Nat) :
    ls.foldl (fun s l => State.noteAccess s c groupNo clock (line l)) s = s :=
  List.foldlRecOn (motive := fun t => t = s) ls _ rfl fun t ht l _ => by
    rw [ht, h.noteAccess]

theorem noteLines (groupNo clock pa len : Nat) : State.noteLines s c groupNo clock pa len = s :=
  h.foldl_noteAccess groupNo clock id (linesOf pa len)

theorem noteScratch (groupNo clock seq blk off len : Nat) : State.noteScratch s c groupNo clock seq blk off len = s :=
  h.foldl_noteAccess groupNo clock (fun l => scratchPiece seq blk (128 * l)) (linesOf off len)

/-- The caches and the page counters hold no stash and no log. -/
theorem reach (agent c' : Nat) (leaf : DWord) (pa len : Nat) : Plain (State.reach s agent c' leaf pa len) c := by
  have hlines : Plain ((linesOf pa len).foldl (fun s n => State.cacheLine s c' (Leaf.cls leaf) n) s) c :=
    List.foldlRecOn (motive := fun t => Plain t c) _ _ h fun t ht n _ => by
      unfold State.cacheLine
      dsimp only
      repeat' split
      all_goals exact ht.of_eq rfl rfl
  exact hlines.of_eq rfl rfl

theorem updGroup (hall slot : Nat) (f : Group → Group) : Plain (State.updGroup s hall slot f) c := h.of_eq rfl rfl

theorem watch (c' hall slot : Nat) (scratch : Bool) (addr len : Nat) (read write : Bool) :
    Plain (State.watch s c' hall slot scratch addr len read write) c := by
  unfold State.watch
  repeat' split
  · exact h
  · exact h
  · exact h.updGroup ..
  · exact h

/-- A block's scratchpad is not its stash. -/
theorem writeScratch (c' seq blk off : Nat) (bs : List Byte) (bad : Bool) :
    Plain (State.writeScratch s c' seq blk off bs bad) c := by
  refine ⟨fun b hb => ?_, h.unlogged⟩
  obtain ⟨b₀, hb₀, rfl⟩ := List.mem_map.1 hb
  split
  · exact h.noStash b₀ hb₀
  · exact h.noStash b₀ hb₀

theorem writeRun (who : Viewer) (va pa : Nat) (bs : List Byte) (bad : Bool) : Plain (State.writeRun s who va pa bs bad) c := by
  rw [State.writeRun_of_noStash h.noStash]
  refine h.of_eq (State.markWritten_blocks ..) ?_
  unfold State.markWritten
  split <;> rfl

end Plain

/-! ## A store's pieces (R220, R221, R260) -/

/-- Where a piece of a global store starts: the physical address that its leaf gives for its virtual address. -/
def StorePart.home (p : StorePart) : Nat := Leaf.phys p.leaf (vaOf p.addr)

/-- The byte a piece puts at a physical address, if it reaches it. -/
def StorePart.byteAtHome (p : StorePart) (a : Nat) : Option Byte :=
  if p.home ≤ a ∧ a < p.home + p.data.length then p.data[a - p.home]? else none

section
variable {s : State} {g : Group} {w : StoreWord} (h : Plain s g.ctx)
include h

/-- A piece of a scratchpad store leaves memory, and accesses plain. -/
theorem State.storePart_of_scratch (hscratch : w.scratch = true) (p : StorePart) :
    (State.storePart s g w p).mem = s.mem ∧ Plain (State.storePart s g w p) g.ctx := by
  have hwritten := (h.writeScratch g.ctx g.seq (Group.scratchAt g p.addr).1 (Group.scratchAt g p.addr).2 p.data false).updGroup
    g.hall g.slot (Group.overtake (true, placeRank p.addr, (Group.scratchAt g p.addr).2, p.data.length))
  simp only [State.storePart, hscratch, if_true, hwritten.noteScratch]
  exact ⟨by simp, hwritten.watch ..⟩

/-- A piece of a global store, not on an M page, is written at its home and leaves accesses plain. -/
theorem State.storePart_of_global (hscratch : w.scratch = false) {p : StorePart} (hmod : Leaf.m p.leaf = false) :
    (State.storePart s g w p).mem = Memory.writeN s.mem p.home p.data ∧ Plain (State.storePart s g w p) g.ctx := by
  have hreached := (h.reach (dieOfHall g.hall) g.ctx p.leaf p.home p.data.length).updGroup g.hall g.slot
    (Group.overtake (false, 0, p.home, p.data.length))
  have hwritten := hreached.writeRun (Group.viewer g) (vaOf p.addr) p.home p.data false
  simp only [StorePart.home] at hreached hwritten
  simp only [State.storePart, hscratch, Bool.false_eq_true, if_false, State.readRun_of_noStash hreached.noStash,
    State.noteWrite_of_not_m _ _ _ _ _ _ _ hmod, hwritten.noteLines]
  refine ⟨?_, hwritten.watch ..⟩
  rw [State.watch_mem, State.writeRun_of_noStash hreached.noStash]
  simp only [State.updGroup_mem, State.reach_mem, StorePart.home]

/-- A scratchpad store leaves memory. -/
theorem State.storeWord_mem_of_scratch (hscratch : w.scratch = true) : (State.storeWord s g w).mem = s.mem := by
  refine (List.foldlRecOn (motive := fun t : State => t.mem = s.mem ∧ Plain t g.ctx) w.parts _ ⟨rfl, h⟩ ?_).1
  rintro t ⟨hmem, hplain⟩ p -
  exact (State.storePart_of_scratch hplain hscratch p).imp_left (Eq.trans · hmem)

end

/-- A global store, on no M page, writes each of its pieces at its home, one after another. -/
theorem State.storeWord_mem_of_global {s : State} {g : Group} {w : StoreWord} (h : Plain s g.ctx) (hscratch : w.scratch = false)
    (hmod : ∀ p ∈ w.parts, Leaf.m p.leaf = false) :
    (State.storeWord s g w).mem = w.parts.foldl (fun m p => Memory.writeN m p.home p.data) s.mem := by
  unfold State.storeWord
  generalize w.parts = ps at hmod
  induction ps generalizing s with
  | nil => rfl
  | cons p ps ih =>
    obtain ⟨hmem, hplain⟩ := State.storePart_of_global h hscratch (hmod p List.mem_cons_self)
    rw [List.foldl_cons, List.foldl_cons, ih hplain (fun q hq => hmod q (List.mem_cons_of_mem p hq)), hmem]

/-- What a piece puts at an address, or else the byte before. -/
theorem Memory.read_writeN_home {m : Memory} (hm : Memory.wf m = true) (p : StorePart) (a : Nat) :
    Memory.read (Memory.writeN m p.home p.data) a = (p.byteAtHome a).getD (Memory.read m a) := by
  unfold StorePart.byteAtHome
  split
  case isTrue hin =>
    obtain ⟨i, rfl⟩ := Nat.exists_eq_add_of_le hin.1
    have hi : i < p.data.length := Nat.lt_of_add_lt_add_left hin.2
    rw [Memory.read_writeN_inside _ _ _ hm hi, Nat.add_sub_cancel_left, List.getD_eq_getElem?_getD, List.getElem?_eq_getElem hi]
    rfl
  case isFalse hout => exact Memory.read_writeN_outside _ _ _ hm (by omega)

/-- The byte that a list of pieces puts at an address is that of the last piece, or else that of the others. -/
theorem storedAt_append_singleton (ps : List StorePart) (p : StorePart) (a : Nat) :
    storedAt (ps ++ [p]) a = (p.byteAtHome a).or (storedAt ps a) := by
  have hstored : ∀ qs, storedAt qs a = (qs.filterMap (StorePart.byteAtHome · a)).getLast? := fun _ => rfl
  simp only [hstored, List.filterMap_append, List.getLast?_append, List.filterMap_cons, List.filterMap_nil]
  cases p.byteAtHome a <;> rfl

/-- Pieces written one after another: at each address the byte of the last of them that reaches it, or else the byte before. -/
theorem Memory.read_foldl_writeN {m : Memory} (hm : Memory.wf m = true) (ps : List StorePart) (a : Nat) :
    Memory.read (ps.foldl (fun m p => Memory.writeN m p.home p.data) m) a = (storedAt ps a).getD (Memory.read m a) := by
  induction ps using List.reverseRecOn with
  | nil => rfl
  | append_singleton ps p ih =>
    have hwf : Memory.wf (ps.foldl (fun m p => Memory.writeN m p.home p.data) m) = true :=
      Memory.wf_foldl _ _ (fun _ _ => Memory.wf_writeN _ _) hm
    rw [List.foldl_append, List.foldl_cons, List.foldl_nil, Memory.read_writeN_home hwf, ih, storedAt_append_singleton,
      Option.getD_or]

/-- Settles O59: the pieces that can go are a store of their own, whose pieces are written at their homes one after another. -/
theorem performedStoreChangesItsBytesAlone : Obligations.PerformedStoreChangesItsBytesAlone := by
  intro s hall slot n k ks g o w hm hstash hlog hmod hready hop htraffic
  have hplain : Plain s g.ctx := ⟨hstash, hlog⟩
  have hexec := execStorePerformed_of_mayGo (State.ready?_eq_some_iff.1 hready) hop
  rw [if_pos htraffic] at hexec
  refine ⟨_, hexec, fun hglobal a => ?_, fun hscratch a => ?_⟩
  · have hmem := State.storeWord_mem_of_global (w := { w with parts := ks.filterMap (fun j => w.parts[j]?) }) hplain hglobal
      (fun p hp => by
        obtain ⟨j, -, hj⟩ := List.mem_filterMap.1 hp
        exact hmod p (List.mem_of_getElem? hj))
    exact (congrArg (Memory.read · a) hmem).trans (Memory.read_foldl_writeN hm _ a)
  · exact congrArg (Memory.read · a) (State.storeWord_mem_of_scratch hplain hscratch)

end Sys2Proof.Machine

/-! # Traps: entry, the words that trap, the words of the handler (R314, R316 to R318, R323, R364) -/

namespace Sys2Proof.Machine

open Rules

/-! ## Trap entry (R243, R316, R317) -/

/-- With no region begun by the chain there is no start to record. -/
theorem State.settleStart_of_not_fresh {s : State} (h : s.cur.fresh = false) : State.settleStart s = s :=
  if_neg (by simp [h])

/-- With no region open none aborts. -/
theorem Group.abortAll_of_closed {g : Group} (h : Group.openLanes g = []) (status detail : Nat) :
    Group.abortAll g status detail = g := by
  rw [Group.abortAll, h]
  rfl

/-- The model's test for a trap's entry. -/
theorem Group.landed_iff (g : Group) : Group.landed g = true ↔ Quiet g := by
  simp [Group.landed, Quiet, and_assoc]

/-- Taking out the lanes with an open region leaves the mask where there are none. -/
theorem mask_and_not_open_of_nil (m : Mask) : m &&& ~~~(maskOf (fun l => ([] : List Nat).contains l)) = m := by
  have hnone : maskOf (fun l => ([] : List Nat).contains l) = 0 := maskOf_eq_zero_iff.2 fun _ _ => rfl
  rw [hnone]
  exact BitVec.and_allOnes

section
variable {s : State} (c : Cause) (m : Mask) (x : DWord) (pc : Word) (hwait : s.g.wait = none) (hfresh : s.cur.fresh = false)
include hwait hfresh

/-- A group that does not wait takes a trap as it stands. -/
theorem State.settle_unpark_of_none : State.settleStart (State.unpark s) = s := by
  rw [State.unpark_of_none hwait, State.settleStart_of_not_fresh hfresh]

/-- A trap in the handler fails the task. -/
theorem State.takeTrap_of_trapMode (hmode : s.g.trapMode = true) : State.takeTrap s c m x pc = State.note (State.failTask
    (withG s { s.g with trapc := BitVec.ofNat 32 (Cause.code c) }) s.g.ctx s.g.seq (0x40 + Cause.code c)) (.trapped c) := by
  rw [State.takeTrap, State.settle_unpark_of_none hwait hfresh]
  exact if_pos hmode

/-- A trap with no handler fails the task. -/
theorem State.takeTrap_of_no_handler (hmode : s.g.trapMode = false) (hbase : State.tbase s = 0) :
    State.takeTrap s c m x pc = State.note (State.failTask
      (withG s { s.g with trapc := BitVec.ofNat 32 (Cause.code c), trapa := x, trapm := m, trappc := pc })
      s.g.ctx s.g.seq (Cause.code c)) (.trapped c) := by
  rw [State.takeTrap, State.settle_unpark_of_none hwait hfresh]
  exact (if_neg (by simp [hmode])).trans (if_pos hbase)

/-- Outside every region a trap with a handler enters it, or is pending until the group is quiet. -/
theorem State.takeTrap_of_handler (hmode : s.g.trapMode = false) (hbase : State.tbase s ≠ 0) (hclosed : Closed s) :
    State.takeTrap s c m x pc = State.note (withG s
      (if Group.landed s.g then Group.enterTrap s.g c m x pc s.cur.mask
       else { s.g with pending := some (.trap c m x pc s.cur.mask) })) (.trapped c) := by
  have hopen : Group.openLanes s.g = [] := hclosed
  rw [State.takeTrap, State.settle_unpark_of_none hwait hfresh]
  refine (if_neg (by simp [hmode])).trans ((if_neg hbase).trans ?_)
  dsimp only
  rw [hopen, Group.abortAll_of_closed hopen, mask_and_not_open_of_nil]
  rfl

end

/-- Landings into some registers leave every other register. -/
theorem Group.getD_regs_foldl_land {n : Nat} {xs : List Landing} (hxs : ∀ y ∈ xs, y.reg ≠ n) (g : Group) :
    (xs.foldl Group.land g).regs.getD n [] = g.regs.getD n [] := by
  induction xs generalizing g with
  | nil => rfl
  | cons y ys ih =>
    have hreg : y.reg ≠ n := hxs y List.mem_cons_self
    rw [List.foldl_cons, ih (fun z hz => hxs z (List.mem_cons_of_mem y hz))]
    simp [Group.land, List.getD_eq_getElem?_getD, hreg]

/-- Putting an element in its place adds it alone. -/
theorem mem_placeBy {α : Type} {le : α → α → Bool} {x y : α} {l : List α} : y ∈ placeBy le x l ↔ y = x ∨ y ∈ l := by
  induction l with
  | nil => simp [placeBy]
  | cons z l ih =>
    rw [placeBy]
    split
    · rw [List.mem_cons, ih, List.mem_cons, or_left_comm]
    · rw [List.mem_cons]

/-- Sorting keeps the elements. -/
theorem mem_sortBy {α : Type} {le : α → α → Bool} {y : α} {l : List α} : y ∈ sortBy le l ↔ y ∈ l := by
  have hfold : ∀ r, y ∈ l.foldl (fun r x => placeBy le x r) r ↔ y ∈ l ∨ y ∈ r := by
    induction l with
    | nil => simp
    | cons x l ih =>
      intro r
      rw [List.foldl_cons, ih, mem_placeBy, List.mem_cons, or_left_comm, or_assoc]
  rw [sortBy, hfold]
  simp

/-- Landing some registers at once leaves every other. -/
theorem Group.getD_regs_landRegs (g : Group) {p : Nat → Bool} {n : Nat} (hn : p n = false) :
    (Group.landRegs g p).regs.getD n [] = g.regs.getD n [] := by
  refine Group.getD_regs_foldl_land (fun y hy hreg => ?_) _
  have hp := (List.mem_filter.1 (mem_sortBy.1 hy)).2
  rw [hreg, hn] at hp
  cases hp

/-- Landings keep the number of registers. -/
theorem Group.length_regs_landRegs (g : Group) (p : Nat → Bool) : (Group.landRegs g p).regs.length = g.regs.length := by
  have hfold : ∀ (xs : List Landing) (h : Group), (xs.foldl Group.land h).regs.length = h.regs.length := by
    intro xs
    induction xs with
    | nil => exact fun _ => rfl
    | cons y ys ih => exact fun h => (ih _).trans (Group.land_regs_length h y)
  exact hfold _ _

/-- A bank that stands in place of v1 to v7: v8 on are the registers' own. -/
theorem getElem?_banked_above {α : Type} {rs bank : List α} {n : Nat} (hbank : bank.length = 7) (hn : 8 ≤ n) :
    (rs.take 1 ++ bank ++ rs.drop 8)[n]? = rs[n]? := by
  by_cases hrs : rs.length = 0
  · rw [List.getElem?_eq_none (by simp; omega), List.getElem?_eq_none (by omega)]
  · have hlen : (rs.take 1 ++ bank).length = 8 := by simp; omega
    rw [List.getElem?_append_right (by omega), hlen, List.getElem?_drop, Nat.add_sub_cancel' hn]

/-- v1 to v7 are the bank's. -/
theorem getElem?_banked_below {α : Type} {rs bank : List α} {n : Nat} (hrs : 0 < rs.length) (hlow : 1 ≤ n) (hhigh : n < 8)
    (hbank : bank.length = 7) : (rs.take 1 ++ bank ++ rs.drop 8)[n]? = bank[n - 1]? := by
  have hone : (rs.take 1).length = 1 := by simp; omega
  rw [List.append_assoc, List.getElem?_append_right (by omega), hone, List.getElem?_append_left (by omega)]

section
variable (g : Group) (c : Cause) (m : Mask) (x : DWord) (pc : Word) (resume : Mask)

theorem Group.enterTrap_regs : (Group.enterTrap g c m x pc resume).regs =
    (Group.landRegs g (fun n => decide (1 ≤ n) && decide (n < 8))).regs.take 1 ++
      List.replicate 7 (List.replicate 32 RegCell.zero) ++
      (Group.landRegs g (fun n => decide (1 ≤ n) && decide (n < 8))).regs.drop 8 := rfl

/-- The handler finds v1 to v7 cleared. -/
theorem Group.enterTrap_bank {n : Nat} (hlow : 1 ≤ n) (hhigh : n < 8) (hlen : n < g.regs.length) :
    (Group.enterTrap g c m x pc resume).regs.getD n [] = List.replicate 32 RegCell.zero := by
  have hregs : 0 < (Group.landRegs g (fun n => decide (1 ≤ n) && decide (n < 8))).regs.length := by
    rw [Group.length_regs_landRegs]
    omega
  rw [Group.enterTrap_regs, List.getD_eq_getElem?_getD, getElem?_banked_below hregs hlow hhigh List.length_replicate,
    List.getElem?_replicate, if_pos (by omega)]
  rfl

/-- Trap entry leaves the registers from v8 on. -/
theorem Group.enterTrap_above {n : Nat} (hn : 8 ≤ n) :
    (Group.enterTrap g c m x pc resume).regs.getD n [] = g.regs.getD n [] := by
  rw [Group.enterTrap_regs, List.getD_eq_getElem?_getD, getElem?_banked_above List.length_replicate hn,
    ← List.getD_eq_getElem?_getD, Group.getD_regs_landRegs g (by simp; omega)]

end

/-- Settles O54: the three ways a trap is taken, and for the third the handler's entry field by field. -/
theorem trapEntryAsStated : Obligations.TrapEntryAsStated := by
  intro s c m x pc hwait hfresh
  refine ⟨State.takeTrap_of_trapMode c m x pc hwait hfresh, State.takeTrap_of_no_handler c m x pc hwait hfresh,
    fun hmode hbase hclosed => ?_⟩
  rw [State.takeTrap_of_handler c m x pc hwait hfresh hmode hbase hclosed]
  refine ⟨fun hquiet => ?_, fun hbusy => ?_⟩
  · rw [if_pos ((Group.landed_iff s.g).2 hquiet)]
    obtain ⟨hscnt, hsbuf, hlanes⟩ : (Group.landRegs s.g (fun n => decide (1 ≤ n) && decide (n < 8))).scnt = s.g.scnt ∧
        (Group.landRegs s.g (fun n => decide (1 ≤ n) && decide (n < 8))).sbuf = s.g.sbuf ∧
        (Group.landRegs s.g (fun n => decide (1 ≤ n) && decide (n < 8))).lanes = s.g.lanes := by
      obtain ⟨rs, hland⟩ := Group.landRegs_eq s.g (fun n => decide (1 ≤ n) && decide (n < 8))
      rw [hland]
      exact ⟨rfl, rfl, rfl⟩
    refine ⟨_, rfl, rfl, rfl, rfl, rfl, rfl, hsbuf, rfl, ?_, fun r hr => ?_, nofun, fun y hy => ?_,
      fun n => Group.enterTrap_bank s.g c m x pc s.cur.mask, fun n => Group.enterTrap_above s.g c m x pc s.cur.mask⟩
    · show _ - _ = _
      rw [hscnt, hsbuf]
    · cases hr
      exact ⟨rfl, rfl, congrArg (List.map _) hlanes, rfl⟩
    · obtain ⟨z, -, rfl⟩ := List.mem_map.1 hy
      exact ⟨rfl, rfl⟩
  · rw [if_neg (mt (Group.landed_iff s.g).1 hbusy)]

/-! ## TRAP and BRK (R314, R323, R364) -/

/-- Settles O16: each word's effect is a trap after the chain, or with the debug right a halt. -/
theorem trapWordsComplete : Obligations.TrapWordsComplete := by
  intro s imm hclosed
  have hafter : ∀ c x, State.finish s (.after s c x) =
      State.takeTrap (State.settleStart (State.advance s)) c s.cur.mask x (nextWord s.cur.wordPc) := by
    intro c x
    have hcur : (State.settleStart (State.advance s)).cur = s.cur := by
      obtain ⟨hs, rs, hsettle⟩ := State.settleStart_eq (State.advance s)
      rw [hsettle]
      rfl
    show State.takeTrap _ c (State.settleStart (State.advance s)).cur.mask x _ = _
    rw [hcur]
  refine ⟨fun hready => ?_, fun hready hright => ?_, fun hready hright => ?_⟩
  · rw [← hafter]
    exact show execTrap imm s = _ from issue_of_entry hclosed hready rfl
  · rw [← hafter]
    exact show execBrk imm s = _ from issue_of_entry hclosed hready (if_neg (by simp [hright]))
  · exact show execBrk imm s = _ from issue_of_entry (e := .jump _) hclosed hready (if_pos hright)

/-! ## TRET, TABN and TKILL (R318) -/

section
variable {s : State} {r : TrapRec} {i : Instr} (body : State → TrapRec → Eff)

/-- The handler's last word takes effect once the counters are zero. -/
theorem State.handlerEnd_of_zero (hwait : s.g.wait = none) (hmode : s.g.trapMode = true) (hrec : s.g.trapRec = some r)
    (hzero : s.g.lcnt = 0 ∧ s.g.scnt = 0 ∧ s.g.acnt = 0) : State.handlerEnd s i body = body (regionEnds s) r := by
  rw [State.handlerEnd, hrec]
  dsimp only
  simp only [hmode, hwait, Bool.true_eq_false, if_false, Option.isSome_none, Bool.false_eq_true, State.endRegion_eq_regionEnds]
  rw [State.unpark_of_none (s := regionEnds s) hwait]
  exact if_pos hzero

/-- It waits for the counters. -/
theorem State.handlerEnd_of_busy (hwait : s.g.wait = none) (hmode : s.g.trapMode = true) (hrec : s.g.trapRec = some r)
    (hbusy : ¬ (s.g.lcnt = 0 ∧ s.g.scnt = 0 ∧ s.g.acnt = 0)) :
    State.handlerEnd s i body = .park (State.park (regionEnds s) i 1 0 .cntwait) .cntwait := by
  rw [State.handlerEnd, hrec]
  dsimp only
  simp only [hmode, hwait, Bool.true_eq_false, if_false, Option.isSome_none, Bool.false_eq_true, State.endRegion_eq_regionEnds]
  exact if_neg hbusy

/-- Outside the handler it is ILLEGAL. -/
theorem State.handlerEnd_of_not_trapMode (hmode : s.g.trapMode = false) :
    State.handlerEnd s i body = .trap s .illegal s.cur.mask 0 := by
  rw [State.handlerEnd]
  split
  · rfl
  · exact if_pos hmode

end

/-- The entries of the handler's last words. -/
def handlerBody : Instr → State → TrapRec → Eff
  | .tret, s, r => if validLpc s.g.trappc then .jump (State.leave s (Group.returnTrap s.g r)) else .trap s .bounds s.cur.mask 0
  | .tabn, s, r => .jump (State.leave s (Group.abandonTrap s.g r))
  | _, s, _ => .jump (State.failTask (leaving s) s.g.ctx s.g.seq s.g.trapc.toNat)

theorem exec_handlerWord {s : State} {i : Instr} (hi : i = .tret ∨ i = .tabn ∨ i = .tkill) (hclosed : Closed s)
    (hready : Ready s i) : exec i s = .next (State.finish s (State.handlerEnd s i (handlerBody i))) := by
  obtain rfl | rfl | rfl := hi
  · exact show execTret s = _ from issue_of_entry hclosed hready rfl
  · exact show execTabn s = _ from issue_of_entry hclosed hready rfl
  · exact show execTkill s = _ from issue_of_entry hclosed hready rfl

/-- Settles O15: the three words share their wait, and differ in what they do after it. -/
theorem handlerWordsComplete : Obligations.HandlerWordsComplete := by
  intro s r i hi hclosed hready
  have hwait := hready.wait_eq_none
  rw [exec_handlerWord hi hclosed hready]
  refine ⟨fun hmode hrec hl hs ha => ?_, fun hmode hrec hbusy => ?_, fun hmode => ?_⟩
  · rw [State.handlerEnd_of_zero (handlerBody i) hwait hmode hrec ⟨hl, hs, ha⟩]
    refine ⟨?_, ?_, ?_⟩
    · rintro rfl hvalid
      rw [show handlerBody .tret (regionEnds s) r = _ from if_pos hvalid]
      rfl
    · rintro rfl
      rfl
    · rintro rfl
      rfl
  · rw [State.handlerEnd_of_busy (handlerBody i) hwait hmode hrec hbusy]
    rfl
  · rw [State.handlerEnd_of_not_trapMode (handlerBody i) hmode, State.finish_trap s s .illegal s.cur.mask 0 hwait]

end Sys2Proof.Machine

/-! # Atomic regions: the words that open, abort, commit and read them, the words they forbid, the abort of a lane
(R194, R244, R250, R285 to R288, R291, R293 to R295) -/

namespace Sys2Proof.Machine

open Rules

/-! ## RBEG, RABT, RCMT and RSTAT (R285, R286, R291, R294, R295) -/

/-- No active lane is without an open region. -/
theorem any_not_inRegion_of_allOpen {s : State} (h : AllOpen s) :
    ((Mask.lanes s.cur.mask).any fun l => !State.inRegion s l) = false :=
  List.any_eq_false.2 fun l hl => by simp [State.inRegion, h l hl]

/-- Outside every region some active lane is. -/
theorem any_not_inRegion_of_closed {s : State} (hclosed : Closed s) (hmask : s.cur.mask ≠ 0) :
    ((Mask.lanes s.cur.mask).any fun l => !State.inRegion s l) = true := by
  obtain ⟨l, hl⟩ := List.exists_mem_of_ne_nil _ (Mask.lanes_ne_nil hmask)
  exact List.any_eq_true.2 ⟨l, hl, by simp [State.inRegion_closed s l hclosed (Mask.mem_lanes hl)]⟩

/-- RBEG outside every region nests nowhere. -/
theorem exec_rbeg_of_closed {s : State} {p : RegNo} {off : BitVec 15} {slot : BitVec 2} (hclosed : Closed s)
    (hready : Ready s (.rbeg p off slot)) :
    let t := State.markVolatile s s.g.ctx s.g.seq
    exec (.rbeg p off slot) s = .next (done (withG t ((Mask.lanes t.cur.mask).foldl (fun g l =>
      Group.openRegion g l p (branchTarget t.cur.wordPc off slot) t.cur.wordPc) t.g))) := by
  have hnested : maskOf (fun l => s.cur.mask.getLsbD l && State.inRegion s l) = 0 :=
    maskOf_eq_zero_iff.2 fun l hl => by simp [State.inRegion_closed s l hclosed (mem_lanesOf.2 hl)]
  exact show execRbeg p off slot s = _ from issue_of_entry (e := .ok _) hclosed hready (if_neg (not_not.2 hnested))

/-- RSTAT as a lane-by-lane word with no source: each lane's status word. -/
def statusRead (s : State) (d : RegNo) : LaneWord :=
  { srcs := [], lat := 6, dst := d, n := 1, out := one (fun l => (Group.lane s.g l).region.status) }

theorem exec_rstat_of_closed {s : State} {d : RegNo} (hclosed : Closed s) (hready : Ready s (.rstat d)) (hsound : Sound s []) :
    exec (.rstat d) s = .next (done (writes s (statusRead s d))) :=
  show execRstat d s = _ from
    (issue_of_laneOp (w := statusRead s d) hclosed hready rfl rfl).trans (finish_laneEffect (w := statusRead s d) hsound)

/-- Settles O17: where every active lane has a region RABT and RCMT take effect, where none has they are ILLEGAL. -/
theorem atomicRegionWordsComplete : Obligations.AtomicRegionWordsComplete := by
  refine ⟨fun s p off slot => exec_rbeg_of_closed, fun s d => exec_rstat_of_closed, fun s hready hopen => ?_,
    fun s hready hwait hopen => ?_, fun s i hi hclosed hready => ?_⟩
  · show execRabt s = _
    rw [execRabt, issue_of_readyInside _ hready, if_neg (Bool.eq_false_iff.1 (any_not_inRegion_of_allOpen hopen))]
    rfl
  · show execRcmt s = _
    rw [execRcmt, issue_of_readyInside _ hready, hwait]
    dsimp only
    rw [if_neg (Bool.eq_false_iff.1 (any_not_inRegion_of_allOpen hopen)), State.endRegion_eq_regionEnds]
    rfl
  · have hwait := hready.wait_eq_none
    have hout := any_not_inRegion_of_closed hclosed hready.mask_ne_zero
    rw [← State.finish_trap s s .illegal s.cur.mask 0 hwait]
    obtain rfl | rfl := hi
    · exact show execRabt s = _ from issue_of_entry hclosed hready (if_pos hout)
    · refine show execRcmt s = _ from issue_of_entry hclosed hready ?_
      rw [hwait]
      exact if_pos hout

/-! ## The abort of a lane (R288, R293) -/

/-- A counter that saturates takes the lesser of its value and its limit. -/
theorem satTo_eq_min (limit n : Nat) : satTo limit n = min limit n := by
  rw [satTo]
  split <;> omega

/-- The fields of a status word. -/
theorem statusWord_fields {retries detail status : Nat} (hretries : retries ≤ 65535) (hdetail : detail < 256)
    (hstatus : status < 256) :
    bits (statusWord retries detail status).toNat 0 8 = status ∧ bits (statusWord retries detail status).toNat 8 8 = detail ∧
      bits (statusWord retries detail status).toNat 16 16 = retries := by
  simp only [statusWord, bits, BitVec.toNat_ofNat]
  omega

/-- The RETRIES of the status word that an abort leaves. -/
def LaneRegion.retriesAfter (r : LaneRegion) : Nat := if r.committed then 1 else satTo 65535 (retriesOf r.status + 1)

theorem LaneRegion.retriesAfter_le (r : LaneRegion) : LaneRegion.retriesAfter r ≤ 65535 := by
  rw [LaneRegion.retriesAfter, satTo_eq_min]
  split <;> omega

/-- Changing a lane changes it alone. -/
theorem Group.lane_updLane_same {g : Group} {l : Nat} (f : Lane → Lane) (hl : l < g.lanes.length) :
    Group.lane (Group.updLane g l f) l = f (Group.lane g l) := by
  simp [Group.lane, Group.updLane, List.getD_eq_getElem?_getD, hl]

theorem Group.lane_updLane_of_ne {g : Group} {l k : Nat} (f : Lane → Lane) (hk : k ≠ l) :
    Group.lane (Group.updLane g l f) k = Group.lane g k := by
  simp [Group.lane, Group.updLane, List.getD_eq_getElem?_getD, Ne.symm hk]

/-- Clearing a lane's symbolic tags leaves every other lane's registers. -/
theorem Group.cell_clearSym_of_ne {g : Group} {l k : Nat} (n : Nat) (hk : k ≠ l) :
    Group.cell (Group.clearSym g l) k n = Group.cell g k n := by
  simp only [Group.cell, Group.clearSym, List.getD_eq_getElem?_getD, List.getElem?_map]
  cases g.regs[n]? with
  | none => rfl
  | some r => simp [Ne.symm hk]

/-- And every value and tag. -/
theorem Group.cell_clearSym (g : Group) (l k n : Nat) :
    (Group.cell (Group.clearSym g l) k n).val = (Group.cell g k n).val ∧
      (Group.cell (Group.clearSym g l) k n).tag = (Group.cell g k n).tag := by
  by_cases hk : k = l
  · subst hk
    by_cases hn : n = 0
    · subst hn
      exact ⟨rfl, rfl⟩
    · simp only [Group.cell, Group.clearSym, if_neg hn, List.getD_eq_getElem?_getD, List.getElem?_map]
      cases g.regs[n]? with
      | none => exact ⟨rfl, rfl⟩
      | some r => by_cases hlen : k < r.length <;> simp [hlen]
  · rw [Group.cell_clearSym_of_ne n hk]
    exact ⟨rfl, rfl⟩

/-- Clearing symbolic tags keeps the shape of the registers. -/
theorem Group.length_row_clearSym (g : Group) (l n : Nat) :
    ((Group.clearSym g l).regs.getD n []).length = (g.regs.getD n []).length := by
  simp only [Group.clearSym, List.getD_eq_getElem?_getD, List.getElem?_map]
  cases g.regs[n]? with
  | none => rfl
  | some r => exact List.length_set

/-- Setting a register of a lane leaves the others. -/
theorem Group.cell_setCell_of_ne {g : Group} {l m k n : Nat} (c : RegCell) (h : k ≠ l ∨ n ≠ m) :
    Group.cell (Group.setCell g l m c) k n = Group.cell g k n := by
  by_cases hm : m = 0
  · rw [Group.setCell, if_pos hm]
  · rw [Group.setCell, if_neg hm]
    by_cases hn : n = m
    · subst hn
      have hk : k ≠ l := h.resolve_right (not_not.2 rfl)
      by_cases hlen : n < g.regs.length <;> simp [Group.cell, List.getD_eq_getElem?_getD, hlen, Ne.symm hk]
    · simp [Group.cell, List.getD_eq_getElem?_getD, Ne.symm hn]

/-- A register of a lane that is set reads what it is set to. -/
theorem Group.cell_setCell_same {g : Group} {l m : Nat} (c : RegCell) (hm : m ≠ 0) (hlen : m < g.regs.length)
    (hl : l < (g.regs.getD m []).length) : Group.cell (Group.setCell g l m c) l m = c := by
  have hrow : (g.regs.set m ((g.regs.getD m []).set l c)).getD m [] = (g.regs.getD m []).set l c := by
    rw [List.getD_eq_getElem _ _ (by rwa [List.length_set]), List.getElem_set_self]
  rw [Group.setCell, if_neg hm, Group.cell, if_neg hm, hrow, List.getD_eq_getElem _ _ (by rwa [List.length_set]),
    List.getElem_set_self]

/-- What an abort makes of its lane. -/
def Lane.aborted (x : Lane) (r : LaneRegion) (w : Word) : Lane :=
  { x with lpc := r.fallback, region := { LaneRegion.close r with status := w, committed := false } }

/-- The status word of an abort. -/
def LaneRegion.abortStatus (r : LaneRegion) (status detail : Nat) : Word :=
  statusWord (LaneRegion.retriesAfter r) detail status

/-- An abort clears the lane's symbolic tags, writes its status word to vp, and changes the lane; the landings into vp are gone. -/
theorem Group.abortLane_eq (g : Group) (l status detail : Nat) : ∃ ls, Group.abortLane g l status detail =
    Group.updLane { Group.setCell (Group.clearSym g l) l (Group.lane g l).region.vp.toNat
        (RegCell.of (LaneRegion.abortStatus (Group.lane g l).region status detail) .i32) with landings := ls } l
      (fun x => Lane.aborted x (Group.lane g l).region (LaneRegion.abortStatus (Group.lane g l).region status detail)) := by
  unfold Group.abortLane
  dsimp only
  split
  · exact ⟨_, rfl⟩
  · exact ⟨_, rfl⟩

/-- An abort changes registers, landings and lanes alone. -/
theorem Group.abortLane_frame (g : Group) (l status detail : Nat) : ∃ rs ls xs,
    Group.abortLane g l status detail = { g with regs := rs, landings := ls, lanes := xs } := by
  obtain ⟨ls, habort⟩ := Group.abortLane_eq g l status detail
  rw [habort, Group.setCell]
  split <;> exact ⟨_, _, _, rfl⟩

section
variable (g : Group) (l status detail : Nat)

/-- An abort keeps the number of lanes, and the lanes but its own. -/
theorem Group.lane_abortLane_of_ne {k : Nat} (hk : k ≠ l) :
    Group.lane (Group.abortLane g l status detail) k = Group.lane g k := by
  obtain ⟨ls, habort⟩ := Group.abortLane_eq g l status detail
  rw [habort, Group.lane_updLane_of_ne _ hk, Group.setCell]
  split <;> rfl

/-- The lane is aborted. -/
theorem Group.lane_abortLane_same (hl : l < g.lanes.length) : Group.lane (Group.abortLane g l status detail) l =
    Lane.aborted (Group.lane g l) (Group.lane g l).region (LaneRegion.abortStatus (Group.lane g l).region status detail) := by
  obtain ⟨ls, habort⟩ := Group.abortLane_eq g l status detail
  rw [habort, Group.setCell]
  split
  · exact Group.lane_updLane_same _ hl
  · exact Group.lane_updLane_same _ hl

/-- The cells are those of the write of vp. -/
theorem Group.cell_abortLane (k n : Nat) : Group.cell (Group.abortLane g l status detail) k n =
    Group.cell (Group.setCell (Group.clearSym g l) l (Group.lane g l).region.vp.toNat
      (RegCell.of (LaneRegion.abortStatus (Group.lane g l).region status detail) .i32)) k n := by
  obtain ⟨ls, habort⟩ := Group.abortLane_eq g l status detail
  rw [habort]
  rfl

end

/-- Settles O55: the abort's lane, the other lanes, and the registers, each by the write that reaches it. -/
theorem abortOfALane : Obligations.AbortOfALane := by
  rintro g h l status detail r hl hlen rfl hstatus hdetail rfl
  obtain ⟨hcode, hpart, hretries⟩ := statusWord_fields (LaneRegion.retriesAfter_le (Group.lane g l).region) hdetail hstatus
  refine ⟨?_, fun k hk => Group.lane_abortLane_of_ne g l status detail hk, fun k n hother => ?_⟩
  · rw [Group.lane_abortLane_same g l status detail hlen]
    refine ⟨rfl, rfl, rfl, rfl, rfl, hcode, hpart, ?_, rfl, fun hvp hreg hfull => ?_⟩
    · refine hretries.trans ?_
      rw [LaneRegion.retriesAfter, satTo_eq_min]
      rfl
    · have hne : (Group.lane g l).region.vp.toNat ≠ 0 := fun h => hvp (BitVec.eq_of_toNat_eq h)
      have hrow : (g.regs.getD (Group.lane g l).region.vp.toNat []).length = 32 := by
        rw [List.getD_eq_getElem _ _ hreg]
        exact hfull _ (List.getElem_mem hreg)
      rw [Group.cell_abortLane]
      exact Group.cell_setCell_same _ hne (by rwa [Group.clearSym, List.length_map])
        (by rw [Group.length_row_clearSym, hrow]; exact hl)
  · rw [Group.cell_abortLane, Group.cell_setCell_of_ne _ hother]
    obtain ⟨hval, htag⟩ := Group.cell_clearSym g l k n
    exact ⟨hval, htag, Group.cell_clearSym_of_ne n⟩

/-! ## The words that regions forbid (R194, R244, R250, R286) -/

/-- The word's entry ends ILLEGAL in a state in which an active lane has an open region, once what comes before the region check
has passed. -/
def IllegalInside (i : Instr) : Prop :=
  ∃ body : State → Eff, (∀ s, exec i s = issue i body s) ∧
    ∀ u, State.anyRegion u = true → BeforeRegion u i → body u = .trap u .illegal u.cur.mask 0

/-- A word whose entry begins with the region check. -/
theorem illegalInside_of_outside {i : Instr} (k : State → Eff) (h : ∀ s, exec i s = issue i (fun s => State.outside s k) s) :
    IllegalInside i :=
  ⟨_, h, fun _ hopen _ => if_pos hopen⟩

/-- An MQ word but MMRD makes the region check once no SHADOW is deferred. -/
theorem illegalInside_of_mqWord {i : Instr} {n : Nat} (k : State → List Nat → Eff) 
    (h : ∀ s, exec i s = issue i (fun s => State.mqWord s n false k) s)
    (hbefore : ∀ u, BeforeRegion u i → Group.shadowFor u.g n = false) : IllegalInside i :=
  ⟨_, h, fun u hopen hb => (if_neg (Bool.eq_false_iff.1 (hbefore u hb))).trans (if_pos (by simp [hopen]))⟩

/-- A ring word makes it once its reserved bits have passed. -/
theorem illegalInside_of_ring {i : Instr} {a b : RegNo} (bad : State → Prop) [∀ u, Decidable (bad u)] (k : State → State → Eff)
    (h : ∀ s, exec i s = issue i (fun s => State.withSources s (ringSources a b) (fun s =>
      if bad s then State.ringBad s else State.outside s (k s))) s)
    (hbefore : ∀ u, BeforeRegion u i → Sound u (ringSources a b) ∧ ¬ bad u) : IllegalInside i :=
  ⟨_, h, fun u hopen hb => by
    obtain ⟨hsound, hgood⟩ := hbefore u hb
    exact (withSources_of_sound _ hsound).trans ((if_neg hgood).trans (if_pos hopen))⟩

/-- An atomic. -/
theorem illegalInside_of_atomicOf {i : Instr} {op : AtomicOp} {n k : Nat} {t a : RegNo} {scope : BitVec 3} {ord : BitVec 2}
    (h : atomicOf i = some (op, n, t, a, k, scope, ord)) : IllegalInside i :=
  ⟨_, exec_of_atomicOf h, fun _ hopen _ => if_pos hopen⟩

/-- The words that R286 forbids, by where their entries make the region check. -/
theorem illegalInside_of_forbidden {i : Instr} (h : forbidden i = true) : IllegalInside i := by
  cases i with
  | tkt | depadd | spawn | spawnw | modw | ldl | stl | cpy | cpyt | cpyg | cpyw | disc | pref | pub | smap | sflush | sdrop
  | tilev | tilec | tileclr | coll | idem | regclm | regrel | exit | waitc | phreg | phmode | phdrop | phsig | phwait
  | phnext =>
    exact illegalInside_of_outside _ fun _ => rfl
  | aadd | amin | amax | aand | aor | axor | axch | acas | acasQ | afadd => exact illegalInside_of_atomicOf rfl
  | mmqBf16 | mmqF16 | mmqE4m3 | mmqE5m2 | mmqI8 | mmqCb4 | mmqCbbf | mmqE2m1 | mmz | mmwr | mmst | mmld =>
    exact illegalInside_of_mqWord _ (fun _ => rfl) fun _ hbefore => hbefore rfl
  | ldo sz t a scope ord last =>
    obtain rfl : last = true := h
    exact ⟨fun s => State.globalLoad s sz t a 0 scope ord true, fun _ => rfl, fun _ hopen _ => if_pos hopen⟩
  | ldcb t a off =>
    refine ⟨_, fun s => show execLdcb t a off s = _ from rfl, fun u hopen hbefore => ?_⟩
    obtain ⟨hslot, hcb⟩ := hbefore
    refine (if_neg (Bool.eq_false_iff.1 hslot)).trans ?_
    exact (if_neg (Nat.not_le.2 hcb)).trans (if_pos hopen)
  | rngi a b =>
    refine illegalInside_of_ring (fun u => ringNo u a ≥ 16) _ (fun _ => rfl) fun u hbefore => ?_
    obtain ⟨hsound, hring⟩ := hbefore
    exact ⟨hsound, Nat.not_le.2 hring⟩
  | rngw a b | rngs a b =>
    refine illegalInside_of_ring (fun u => ringNo u a ≥ 16 ∨ ringNo u b ≥ 64) _ (fun _ => rfl) fun u hbefore => ?_
    obtain ⟨hsound, hring, hside⟩ := hbefore
    exact ⟨hsound, not_or.2 ⟨Nat.not_le.2 hring, Nat.not_le.2 hside⟩⟩
  | nop | iadd | isub | imul | imulhS | imulhZ | imad | imin | imax | iabs | and | or | xor | andn | shl | shr | sha | popc
  | clz | brev | bfx | bfi | icmp | sel | a64 | a64s | shfl | vany | vall | vbal | radd | rmin | rmax | idp4 | iaddi | andi
  | ori | xori | shli | shri | shai | icmpi | a64i | li | lih | cbsel | fadd | fsub | fmul | ffma | ffms | fmin | fmax | fneg
  | fabs | fcpsgn | fcmp | fsqrt | frcp | frsq | fexp2 | flog2 | ftanh | hadd2 | hmul2 | hfma2 | hmax2 | cvtf | cvti | cvtfi
  | pk2 | pk4 | unpk2 | unpk4 | dqcb | dqe2 | qcb | qe2 | tagrd | tagset | ld | st | sto | br | brz | jmp | call | rbeg | jr
  | ret | yield | tret | tabn | tkill | rcmt | rabt | rds | wrs | rstat | cstat | trap | brk | prop | trctl | tkey | mmrd
  | loadReturn | storePerformed | atomicPerformed | cstatAnswer | propAnswer | collAccept | mmqRetire | regionRestart
  | commitOutcome | commitTimeout | cpygRowGather | copyCommandRetire | pubInstant | pubRetire | stashCommandDone
  | blockRetire | taskRetire | replayRelease | post | hostAccess | scoreDecay | queueDeadlockSample | sampleFire | gangKill
  | tagVerdict | packetFetchFill | tlbWalkComplete | coreDump | preemptionComplete | propagationComplete | staleTaskRestart
  | collectiveComplete | collectiveFail | attestationReportReady | powerStateExitComplete | pageResident | migrationStart
  | migrationComplete | shootdownComplete | sliceRehomingDone | queueVisit | bindRecordWrite | restore | chunkAck
  | partialValueReceive | chunkBroadcastReceive | contextKill | enterP1 | thermalSet | thermalClear | thermalShutdown
  | qcfgWrite | qovfbaseWrite | qovfszWrite | qrbaseWrite | registerWrite | attestationGo | readHealthSummary | readPower
  | readTemperature | requestReport | readReport | setPowerStateP0 | setPowerStateP1 | setPowerStateP2 | setPowerStateOff
  | setdasa | packageReset | bootLoadFirstStage | bootLoadNewelFirmware | bootLoadCollectiveMicrocode | bootRelease
  | firmwareReload | contextCreate | setTrapBase | setWayQuota | defineCollectiveSet | setGranuleTags | shootdownRequest
  | relabel | linkDownDeclare | linkTableUpdate | treeSetRecompute | lockstepIntervalCompare | lockstepDecisionApply
  | errorCorrected | unitTestComplete | uncorrectableError | lockstepDivergeClear | debugRightWrite | haltGroup | resumeGroup
  | stepGroup | haltContext | resumeContext | traceGroupOn | traceGroupOff | selectGroup | traceAllOn | traceAllOff | dump
  | groupViewEdit | smpcfgWrite | rpctlWrite | unlistedI3cCommand | setPowerStateOtherByte | linkUp | lockstepBridgeTrained
  | lockstepBridgeLost | contextDestroy => cases h

/-! ## Counting a packet (R290) -/

/-- An abort leaves what the group waits for. -/
@[simp] theorem Group.abortLane_wait (g : Group) (l status detail : Nat) :
    (Group.abortLane g l status detail).wait = g.wait := by
  obtain ⟨rs, ls, xs, habort⟩ := Group.abortLane_frame g l status detail
  rw [habort]

/-- So does a lane's count. -/
theorem Group.countPacket_wait (g : Group) (l : Nat) (pc : Word) : (Group.countPacket g l pc).1.wait = g.wait := by
  unfold Group.countPacket
  dsimp only
  split
  · rfl
  split
  · rfl
  split
  · rfl
  · exact Group.abortLane_wait g l 5 4

/-- Counting a packet leaves what the group waits for. -/
theorem State.countPackets_wait (s : State) : (State.countPackets s).g.wait = s.g.wait := by
  unfold State.countPackets
  split
  · rfl
  · dsimp only
    refine List.foldlRecOn (motive := fun x : Group × List Nat => x.1.wait = s.g.wait) _ _ rfl ?_
    intro x hx l _
    exact (Group.countPacket_wait x.1 l s.cur.wordPc).trans hx

/-- Settles O52: the region check of each forbidden word, and RBEG's. -/
theorem forbiddenWordsTrapInsideRegions : Obligations.ForbiddenWordsTrapInsideRegions := by
  rintro s u i rfl hready ⟨l, hactive, hl, hopen⟩
  have hwait : (State.countPackets s).g.wait = none := (State.countPackets_wait s).trans hready.1.wait_eq_none
  have hany : State.anyRegion (State.countPackets s) = true :=
    List.any_eq_true.2 ⟨l, Mask.mem_lanes_iff.2 ⟨hl, hactive⟩, hopen⟩
  refine ⟨fun hforbidden hbefore => ?_, ?_⟩
  · obtain ⟨body, hexec, hbody⟩ := illegalInside_of_forbidden hforbidden
    rw [hexec, issue_of_readyInside body hready, hbody _ hany hbefore, State.finish_trap _ _ _ _ _ hwait]
  · rintro p off slot rfl
    have hnested : maskOf (fun l => (State.countPackets s).cur.mask.getLsbD l && State.inRegion (State.countPackets s) l) ≠ 0 :=
      fun h => by simpa [hactive, State.inRegion, hopen] using maskOf_eq_zero_iff.1 h l hl
    show execRbeg p off slot s = _
    rw [execRbeg, issue_of_readyInside _ hready, if_pos hnested, State.finish_trap _ _ _ _ _ hwait]
    rfl

end Sys2Proof.Machine

/-! # Matrix words (R235 to R249) -/

namespace Sys2Proof.Machine

open Rules

/-! ## Whole quarters (R236) -/

/-- The lanes of quarter q are those whose eighth is q. -/
theorem getLsbD_quarter {q l : Nat} (hq : q < 4) (hl : l < 32) : (0xFF#32 <<< (8 * q)).getLsbD l = decide (l / 8 = q) :=
  (by decide : ∀ q < 4, ∀ l < 32, (0xFF#32 <<< (8 * q)).getLsbD l = decide (l / 8 = q)) q hq l hl

theorem getLsbD_quarterMask (m : Mask) {q l : Nat} (hq : q < 4) (hl : l < 32) :
    (quarterMask m q).getLsbD l = (m.getLsbD l && decide (l / 8 = q)) := by
  rw [quarterMask, BitVec.getLsbD_and, getLsbD_quarter hq hl]

/-- A quarter is full where each of its lanes is active. -/
theorem quarterMask_eq_full_iff {m : Mask} {q : Nat} (hq : q < 4) :
    quarterMask m q = 0xFF#32 <<< (8 * q) ↔ ∀ l < 32, l / 8 = q → m.getLsbD l = true := by
  constructor
  · intro h l hl hlq
    have hbit := congrArg (·.getLsbD l) h
    simpa [getLsbD_quarterMask m hq hl, getLsbD_quarter hq hl, hlq] using hbit
  · intro h
    refine BitVec.eq_of_getLsbD_eq fun l hl => ?_
    rw [getLsbD_quarterMask m hq hl, getLsbD_quarter hq hl]
    by_cases hlq : l / 8 = q
    · simp [h l hl hlq, hlq]
    · simp [hlq]

/-- The active lanes of the quarters that are not full. -/
theorem getLsbD_partQuarters (m : Mask) {l : Nat} (hl : l < 32) :
    (partQuarters m).getLsbD l = (m.getLsbD l && decide (quarterMask m (l / 8) ≠ 0xFF#32 <<< (8 * (l / 8)))) := by
  have hfold : ∀ (qs : List Nat) (r : Mask), (∀ q ∈ qs, q < 4) →
      (qs.foldl (fun r q => if quarterMask m q == 0xFF#32 <<< (8 * q) then r else r ||| quarterMask m q) r).getLsbD l =
        (r.getLsbD l || (decide (l / 8 ∈ qs) && (m.getLsbD l && decide (quarterMask m (l / 8) ≠ 0xFF#32 <<< (8 * (l / 8)))))) := by
    intro qs
    induction qs with
    | nil => simp
    | cons q qs ih =>
      intro r hqs
      rw [List.foldl_cons, ih _ (fun k hk => hqs k (List.mem_cons_of_mem q hk))]
      have hq := getLsbD_quarterMask m (hqs q List.mem_cons_self) hl
      by_cases hlq : l / 8 = q
      · subst hlq
        by_cases hfull : quarterMask m (l / 8) = 0xFF#32 <<< (8 * (l / 8))
        · simp [hfull]
        · simp only [beq_iff_eq, hfull, if_false, BitVec.getLsbD_or, hq]
          cases m.getLsbD l <;> simp [hfull]
      · split <;> simp [hq, hlq]
  have hmem : l / 8 ∈ [0, 1, 2, 3] := (by decide : ∀ q < 4, q ∈ [0, 1, 2, 3]) _ (by omega)
  rw [partQuarters, hfold _ _ (by decide)]
  simp [hmem]

/-- All eight lanes of a quarter are active where none is missing. -/
theorem length_activeOf_eq_iff (s : State) {q : Nat} (hq : q < 4) :
    (activeOf s q).length = 8 ↔ quarterMask s.cur.mask q = 0xFF#32 <<< (8 * q) := by
  have hlen : (activeOf s q).length = 8 ↔ ∀ k ∈ List.range 8, s.cur.mask.getLsbD (8 * q + k) = true :=
    List.length_filter_eq_length_iff
  rw [hlen, quarterMask_eq_full_iff hq]
  constructor
  · rintro h l hl rfl
    have hbit := h (l % 8) (List.mem_range.2 (by omega))
    rwa [Nat.div_add_mod] at hbit
  · intro h k hk
    have hk8 := List.mem_range.1 hk
    exact h _ (by omega) (by omega)

/-- A quarter with an active lane is broken where it is not full. -/
theorem broken_iff_of_active {s : State} {l : Nat} (hl : l < 32) (hactive : s.cur.mask.getLsbD l = true) :
    Broken s (l / 8) ↔ quarterMask s.cur.mask (l / 8) ≠ 0xFF#32 <<< (8 * (l / 8)) := by
  have hsome : 0 < (activeOf s (l / 8)).length :=
    List.length_pos_of_mem (List.mem_filter.2 ⟨List.mem_range.2 (Nat.mod_lt l (by omega)), by rwa [Nat.div_add_mod]⟩)
  have hmost : (activeOf s (l / 8)).length ≤ 8 := List.length_filter_le _ (List.range 8)
  rw [Ne, ← length_activeOf_eq_iff s (by omega : l / 8 < 4), Broken]
  omega

/-- TRAPM of QUARTER: the active lanes of the broken quarters. -/
theorem getLsbD_partQuarters_iff (s : State) {l : Nat} (hl : l < 32) :
    (partQuarters s.cur.mask).getLsbD l = true ↔ s.cur.mask.getLsbD l = true ∧ Broken s (l / 8) := by
  rw [getLsbD_partQuarters _ hl, Bool.and_eq_true, decide_eq_true_eq]
  exact and_congr_right fun hactive => (broken_iff_of_active hl hactive).symm

/-- Some quarter is broken, so TRAPM is not empty. -/
theorem partQuarters_ne_zero {s : State} {q : Nat} (hq : q < 4) (hbroken : Broken s q) : partQuarters s.cur.mask ≠ 0 := by
  obtain ⟨k, hk⟩ := List.exists_mem_of_length_pos hbroken.1
  obtain ⟨hrange, hactive⟩ := List.mem_filter.1 hk
  have hk8 := List.mem_range.1 hrange
  have hdiv : (8 * q + k) / 8 = q := by omega
  intro hzero
  have hbit := (getLsbD_partQuarters_iff s (by omega : 8 * q + k < 32)).2 ⟨hactive, by rwa [hdiv]⟩
  simp [hzero] at hbit

/-! ## What every MQ word begins with (R236, R243, R244) -/

/-- The entry of every MQ word makes its checks first. -/
theorem exec_of_mqWordOf {i : Instr} (h : mqWordOf i = true) :
    ∃ inside body, ∀ s, exec i s = issue i (fun s => State.mqWord s (mqTile i) inside body) s := by
  cases i with
  | mmqBf16 | mmqF16 | mmqE4m3 | mmqE5m2 | mmqI8 | mmqCb4 | mmqCbbf | mmqE2m1 | mmz | mmrd | mmwr | mmst | mmld =>
    exact ⟨_, _, fun _ => rfl⟩
  | nop | iadd | isub | imul | imulhS | imulhZ | imad | imin | imax | iabs | and | or | xor | andn | shl | shr | sha | popc
  | clz | brev | bfx | bfi | icmp | sel | a64 | a64s | shfl | vany | vall | vbal | radd | rmin | rmax | idp4 | iaddi | andi
  | ori | xori | shli | shri | shai | icmpi | a64i | li | lih | cbsel | fadd | fsub | fmul | ffma | ffms | fmin | fmax | fneg
  | fabs | fcpsgn | fcmp | fsqrt | frcp | frsq | fexp2 | flog2 | ftanh | hadd2 | hmul2 | hfma2 | hmax2 | cvtf | cvti | cvtfi
  | pk2 | pk4 | unpk2 | unpk4 | dqcb | dqe2 | qcb | qe2 | tagrd | tagset | ld | st | ldo | sto | ldl | stl | ldcb | modw
  | aadd | amin | amax | aand | aor | axor | axch | acas | acasQ | afadd | tkt | depadd | cpy | cpyt | cpyg | cpyw | pub
  | disc | pref | smap | sflush | sdrop | tilev | tilec | tileclr | coll | br | brz | jmp | call | rbeg | jr | ret | exit
  | yield | idem | tret | tabn | tkill | rcmt | rabt | rds | wrs | regclm | regrel | spawn | spawnw | waitc | phreg | phmode
  | phdrop | phsig | phwait | phnext | rngi | rngw | rngs | rstat | cstat | trap | brk | prop | trctl | tkey | loadReturn
  | storePerformed | atomicPerformed | cstatAnswer | propAnswer | collAccept | mmqRetire | regionRestart | commitOutcome
  | commitTimeout | cpygRowGather | copyCommandRetire | pubInstant | pubRetire | stashCommandDone | blockRetire | taskRetire
  | replayRelease | post | hostAccess | scoreDecay | queueDeadlockSample | sampleFire | gangKill | tagVerdict
  | packetFetchFill | tlbWalkComplete | coreDump | preemptionComplete | propagationComplete | staleTaskRestart
  | collectiveComplete | collectiveFail | attestationReportReady | powerStateExitComplete | pageResident | migrationStart
  | migrationComplete | shootdownComplete | sliceRehomingDone | queueVisit | bindRecordWrite | restore | chunkAck
  | partialValueReceive | chunkBroadcastReceive | contextKill | enterP1 | thermalSet | thermalClear | thermalShutdown
  | qcfgWrite | qovfbaseWrite | qovfszWrite | qrbaseWrite | registerWrite | attestationGo | readHealthSummary | readPower
  | readTemperature | requestReport | readReport | setPowerStateP0 | setPowerStateP1 | setPowerStateP2 | setPowerStateOff
  | setdasa | packageReset | bootLoadFirstStage | bootLoadNewelFirmware | bootLoadCollectiveMicrocode | bootRelease
  | firmwareReload | contextCreate | setTrapBase | setWayQuota | defineCollectiveSet | setGranuleTags | shootdownRequest
  | relabel | linkDownDeclare | linkTableUpdate | treeSetRecompute | lockstepIntervalCompare | lockstepDecisionApply
  | errorCorrected | unitTestComplete | uncorrectableError | lockstepDivergeClear | debugRightWrite | haltGroup | resumeGroup
  | stepGroup | haltContext | resumeContext | traceGroupOn | traceGroupOff | selectGroup | traceAllOn | traceAllOff | dump
  | groupViewEdit | smpcfgWrite | rpctlWrite | unlistedI3cCommand | setPowerStateOtherByte | linkUp | lockstepBridgeTrained
  | lockstepBridgeLost | contextDestroy => cases h

/-- Outside every region, with no SHADOW deferred, they are the quarters alone. -/
theorem State.mqWord_of_calm {s : State} {k : Nat} (inside : Bool) (body : State → List Nat → Eff) (hclosed : Closed s)
    (hshadow : Group.shadowFor s.g k = false) : State.mqWord s k inside body =
      if partQuarters s.cur.mask ≠ 0 then .trap s .quarter (partQuarters s.cur.mask) 0 else body s (quarters s) := by
  simp only [State.mqWord, hshadow, State.anyRegion_closed s hclosed, Bool.and_false, Bool.false_eq_true, if_false]
  rfl

/-- Settles O53: no SHADOW and no region stops an MQ word before its quarters are looked at. -/
theorem matrixQuartersWhole : Obligations.MatrixQuartersWhole := by
  rintro s i hmq hclosed hready hshadow ⟨q, hq, hbroken⟩
  obtain ⟨inside, body, hexec⟩ := exec_of_mqWordOf hmq
  refine ⟨partQuarters s.cur.mask, ?_, fun l hl => getLsbD_partQuarters_iff s hl⟩
  rw [hexec, ← State.finish_trap s s .quarter _ 0 hready.wait_eq_none]
  exact issue_of_entry hclosed hready
    ((State.mqWord_of_calm inside body hclosed hshadow).trans (if_pos (partQuarters_ne_zero hq hbroken)))

/-- With whole quarters the entry goes on with them. -/
theorem State.mqWord_of_whole {s : State} {tile : BitVec 4} (inside : Bool) (body : State → List Nat → Eff) (hclosed : Closed s)
    (hwhole : QuartersWhole s tile) : State.mqWord s tile.toNat inside body = body s (quarters s) := by
  obtain ⟨hpart, hshadow⟩ := hwhole
  exact (State.mqWord_of_calm inside body hclosed hshadow).trans (if_neg (not_not.2 hpart))

/-! ## The MMQ words (R237, R240 to R244, R247) -/

/-- The entry of an MMQ word. -/
theorem exec_of_mmqOf {i : Instr} {f : MmaForm} {tile : BitVec 4} {a b : RegNo} {sb ol : Bool}
    (h : mmqOf i = some (f, tile, a, b, sb, ol)) (s : State) :
    exec i s = issue i (fun s => State.mmq s f tile a b sb ol) s := by
  unfold mmqOf at h
  split at h <;> cases h <;> rfl

/-- The state in which an MMQ leaves a group: the region ended, the arrays reserved, an operation for each active quarter. -/
def mmqIssued (s : State) (f : MmaForm) (tile : BitVec 4) (a b : RegNo) (sb ol : Bool) : State :=
  let t := State.updHall (regionEnds s) s.g.hall (fun x => { x with arrays := x.arrays ++ arrayShare s sb })
  withG t { t.g with mma := t.g.mma ++ (arrayCycles s sb).map (fun p =>
    Group.quarterOp s.g f tile.toNat a.toNat b.toNat sb ol (quarters s) p.1 (p.2 + figureScale s * 12)) }

/-- With nothing against it an MMQ joins its operations. -/
theorem State.mmq_of_sound {s : State} {f : MmaForm} {tile : BitVec 4} {a b : RegNo} {sb ol : Bool} (hclosed : Closed s)
    (hwhole : QuartersWhole s tile) (hslots : ∀ n ∈ MmaForm.slots f s.g.cbs, State.slotPending s n = false ∧ n < s.g.lr.cb)
    (hloading : Group.loading s.g tile.toNat = false) (hfree : State.arraysFree s s.g.hall (arrayShare s sb) = true)
    (hsources : MatrixSources s f a b sb ol) : State.mmq s f tile a b sb ol = .ok (mmqIssued s f tile a b sb ol) := by
  obtain ⟨htagsA, hscales, htagsB, houtliers, hrows, hcols⟩ := hsources
  have hslot : (MmaForm.slots f s.g.cbs).any (fun n => State.slotPending s n) = false :=
    List.any_eq_false.2 fun n hn => by simp [(hslots n hn).1]
  have hbook : (MmaForm.slots f s.g.cbs).any (fun n => decide (n ≥ s.g.lr.cb)) = false :=
    List.any_eq_false.2 fun n hn => by simp [(hslots n hn).2]
  have hlist : (if ol then (quarters s).find? (fun q => Group.outlierBad s.g a.toNat q) else none) = none := by
    split
    case isTrue hol => exact List.find?_eq_none.2 fun q hq => by simp [houtliers hol q hq]
    case isFalse => rfl
  have hrow : (rowLanes s).any (fun l => Group.residuesBad s.g [l] (MmaForm.rowRegs f a.toNat ol l)) = false :=
    List.any_eq_false.2 fun l hl => by simp [hrows l hl]
  have hneed : (!State.arraysFree s s.g.hall (arrayShare s sb)) = false := by simp [hfree]
  have hresidues : ¬ ((rowLanes s).any (fun l => Group.residuesBad s.g [l] (MmaForm.rowRegs f a.toNat ol l)) ||
      Group.residuesBad s.g (colLanes s sb) (MmaForm.colRegs f a.toNat b.toNat)) = true := by simp [hrow, hcols]
  refine (State.mqWord_of_whole false _ hclosed hwhole).trans ?_
  refine (if_neg (Bool.eq_false_iff.1 hslot)).trans ?_
  refine (if_neg (Bool.eq_false_iff.1 hloading)).trans ?_
  refine (if_neg (Bool.eq_false_iff.1 hneed)).trans ?_
  refine (if_neg (Bool.eq_false_iff.1 htagsA)).trans ?_
  refine (if_neg (fun h => Bool.eq_false_iff.1 (hscales h.1) h.2)).trans ?_
  refine (if_neg (Bool.eq_false_iff.1 htagsB)).trans ?_
  refine (if_neg (Bool.eq_false_iff.1 hbook)).trans ?_
  rw [hlist]
  refine (if_neg hresidues).trans ?_
  rw [mmqIssued, ← State.endRegion_eq_regionEnds]
  rfl

/-- Settles O26: each of the eight words is one matrix multiply, of its form. -/
theorem matrixMultiplyWordsComplete : Obligations.MatrixMultiplyWordsComplete := by
  intro s i f tile a b sb ol hword hclosed hready hwhole hslots hloading hfree hsources t
  rw [exec_of_mmqOf hword]
  exact issue_of_entry (e := .ok _) hclosed hready
    (State.mmq_of_sound hclosed hwhole hslots hloading hfree hsources)

/-! ## The words that move tiles (R236, R242, R245, R248, R249) -/

/-- A result that lands changes neither the chain in issue nor the package. -/
theorem State.landing_cur_pkg (s : State) (lat reg : Nat) (cells : List (Option RegCell)) (pend : Bool) :
    (State.landing s lat reg cells pend).cur = s.cur ∧ (State.landing s lat reg cells pend).pkg = s.pkg := by
  unfold State.landing
  split <;> exact ⟨rfl, rfl⟩

/-- The columns of a row that MMRD reads keep the mask and the figure of its issue. -/
theorem foldl_landing_tile {s t : State} (x : Tile) (n : Nat) (cs : List Nat) (hcur : t.cur = s.cur) (hpkg : t.pkg = s.pkg) :
    cs.foldl (fun u c => State.landing u (State.mqFigure u 5) (n + c) (lanesOf.map (fun l =>
        if u.cur.mask.getLsbD l then some (Tile.cell x l c) else none)) true) t =
      cs.foldl (fun u c => State.landing u (State.mqFigure s 5) (n + c) (lanesOf.map (fun l =>
        if s.cur.mask.getLsbD l then some (Tile.cell x l c) else none)) true) t := by
  induction cs generalizing t with
  | nil => rfl
  | cons c cs ih =>
    have hfigure : State.mqFigure t 5 = State.mqFigure s 5 := by simp only [State.mqFigure, State.slow, hpkg]
    rw [List.foldl_cons, List.foldl_cons, hcur, hfigure]
    obtain ⟨hc, hp⟩ := State.landing_cur_pkg t (State.mqFigure s 5) (n + c)
      (lanesOf.map (fun l => if s.cur.mask.getLsbD l then some (Tile.cell x l c) else none)) true
    exact ih (hc.trans hcur) (hp.trans hpkg)

section
variable {s : State} {tile : BitVec 4} {a : RegNo} (hclosed : Closed s) (hwhole : QuartersWhole s tile)
include hclosed hwhole

/-- MMZ zeroes the rows of the active quarters. -/
theorem exec_mmz_of_whole (hready : Ready s (.mmz tile)) (hbusy : Group.tileBusy s.g tile.toNat = false) :
    exec (.mmz tile) s = .next (done (withG (regionEnds s) (Group.updTile (regionEnds s).g tile.toNat (fun t =>
      (quarters s).foldl (fun t q =>
        Tile.setInt ((List.range 8).foldl (fun t i => Tile.setRow t (8 * q + i) (List.replicate 8 0) []) t) q false) t)))) := by
  refine show execMmz tile s = _ from issue_of_entry (e := .ok _) hclosed hready ?_
  refine (State.mqWord_of_whole false _ hclosed hwhole).trans ((if_neg (Bool.eq_false_iff.1 hbusy)).trans ?_)
  rw [State.endRegion_eq_regionEnds]
  rfl

/-- MMRD reads each active lane's row. -/
theorem exec_mmrd_of_whole (hready : Ready s (.mmrd tile a)) (hbusy : Group.tileBusy s.g tile.toNat = false) :
    exec (.mmrd tile a) s = .next (done ((List.range 8).foldl (fun t c =>
      State.landing t (State.mqFigure s 5) (a.toNat + c) (lanesOf.map (fun l =>
        if s.cur.mask.getLsbD l then some (Tile.cell (Group.tile s.g tile.toNat) l c) else none)) true) s)) := by
  refine show execMmrd tile a s = _ from issue_of_entry (e := .ok _) hclosed hready ?_
  refine (State.mqWord_of_whole true _ hclosed hwhole).trans ((if_neg (Bool.eq_false_iff.1 hbusy)).trans ?_)
  exact congrArg Eff.ok (foldl_landing_tile _ _ _ rfl rfl)

/-- MMWR writes the rows of the active quarters, each of one type. -/
theorem exec_mmwr_of_whole (hready : Ready s (.mmwr tile a)) (hbusy : Group.tileBusy s.g tile.toNat = false)
    (htypes : ∀ q ∈ quarters s, OneType s a q) (hresidues : Group.residuesBad s.g (rowLanes s) (regRun a.toNat 8) = false) :
    exec (.mmwr tile a) s = .next (done (withG (regionEnds s) (Group.updTile (regionEnds s).g tile.toNat (fun t =>
      (quarters s).foldl (fun t q =>
        Tile.setInt ((quarterLanes [q]).foldl (rowFrom s a) t) q (Group.quarterTags s.g a.toNat q == [.i32])) t)))) := by
  have hmixed : (quarters s).filter (fun q => !(Group.quarterTags s.g a.toNat q == [] ||
      Group.quarterTags s.g a.toNat q == [.i32] || Group.quarterTags s.g a.toNat q == [.f32])) = [] :=
    List.filter_eq_nil_iff.2 fun q hq => by
      have htype := htypes q hq
      rw [OneType] at htype
      simpa [or_iff_not_imp_left] using htype
  refine show execMmwr tile a s = _ from issue_of_entry (e := .ok _) hclosed hready ?_
  refine (State.mqWord_of_whole false _ hclosed hwhole).trans ((if_neg (Bool.eq_false_iff.1 hbusy)).trans ?_)
  have hpure : ¬ (!((quarters s).filter (fun q => !(Group.quarterTags s.g a.toNat q == [] ||
      Group.quarterTags s.g a.toNat q == [.i32] || Group.quarterTags s.g a.toNat q == [.f32]))).isEmpty) = true := by
    simp only [hmixed, List.isEmpty_nil, Bool.not_true, Bool.false_eq_true, not_false_eq_true]
  refine (if_neg hpure).trans ((if_neg (Bool.eq_false_iff.1 hresidues)).trans ?_)
  rw [State.endRegion_eq_regionEnds]
  rfl

/-- What MMST and MMLD share: with nothing against it the move is outstanding once the region has ended. -/
theorem State.tileMove_of_rowsMove {wait : BitVec 5 → Bool} {consume : Bool} (op : State → List Access → OutOp)
    (parts : List Access → List LanePart) (hsound : Sound s [consumed a false [.i32]])
    (hmove : RowsMove s tile (scratchLanes s a 0 32) wait)
    (hpoison : consume = true → ∀ l ∈ Mask.lanes s.cur.mask, ∀ c < 8,
      (Group.tile s.g tile.toNat).poison.getLsbD (8 * l + c) = false) :
    State.tileMove s tile.toNat a wait consume op parts = .ok (withG (regionEnds s)
      (outstanding (regionEnds s).g (op (regionEnds s) (scratchLanes s a 0 32)) s.cur.mask (parts (scratchLanes s a 0 32)))) := by
  obtain ⟨halign, hplace, htags, hrange, hbusy⟩ := hmove
  have hbad : (consume && (Mask.lanes s.cur.mask).any (fun l =>
      (List.range 8).any (fun c => (Group.tile s.g tile.toNat).poison.getLsbD (8 * l + c)))) = false := by
    cases consume with
    | false => rfl
    | true => exact List.any_eq_false.2 fun l hl => by simpa using hpoison rfl l hl
  refine (State.mqWord_of_whole false _ hclosed hwhole).trans ((withSources_of_sound _ hsound).trans ?_)
  refine (State.aligned_ok s _ 32 _ halign).trans ((State.inScratch_ok s _ _ hplace).trans ?_)
  refine (if_neg (Bool.eq_false_iff.1 htags)).trans ((if_neg (Bool.eq_false_iff.1 hrange)).trans ?_)
  refine (if_neg (Bool.eq_false_iff.1 hbusy)).trans ((if_neg (Bool.eq_false_iff.1 hbad)).trans ?_)
  rw [State.endRegion_eq_regionEnds]
  rfl

end

/-- Settles O27: each word once its checks have passed. -/
theorem matrixTileWordsComplete : Obligations.MatrixTileWordsComplete := by
  refine ⟨?mmz, ?mmrd, ?mmwr, ?mmst, ?mmld⟩
  case mmz => exact fun s tile hclosed hready hwhole hbusy => exec_mmz_of_whole hclosed hwhole hready hbusy
  case mmrd => exact fun s tile a hclosed hready hwhole hbusy => exec_mmrd_of_whole hclosed hwhole hready hbusy
  case mmwr =>
    exact fun s tile a hclosed hready hwhole hbusy htypes hresidues =>
      exec_mmwr_of_whole hclosed hwhole hready hbusy htypes hresidues
  case mmst =>
    intro s tile a hclosed hready hwhole hsound accs hmove hpoison
    exact show execMmst tile a s = _ from issue_of_entry (e := .ok _) hclosed hready
      (State.tileMove_of_rowsMove hclosed hwhole _ _ hsound hmove fun _ => hpoison)
  case mmld =>
    intro s tile a hclosed hready hwhole hsound accs hmove
    exact show execMmld tile a s = _ from issue_of_entry (e := .ok _) hclosed hready
      (State.tileMove_of_rowsMove hclosed hwhole _ _ hsound hmove Bool.noConfusion)

end Sys2Proof.Machine

/-! # Atomics, and the stores of lanes with open regions (R274 to R279, R286, R287) -/

namespace Sys2Proof.Machine

open Rules

/-! ## The atomics (R274 to R279) -/

/-- The state in which an atomic leaves a group: outstanding once the region has ended, one part for each active lane. -/
def atomicIssued (u : State) (op : AtomicOp) (n : Nat) (t : RegNo) (k : Nat) (scope : BitVec 3) (ord : BitVec 2)
    (accs : List Access) (ps : List Piece) : State :=
  withG (regionEnds u)
    { outstanding (regionEnds u).g (.atomic op n t.toNat scope ord) u.cur.mask
        (accs.map (fun x =>
          { lane := x.lane, addr := x.addr, len := x.len,
            leaf := (match ps.find? (fun p => p.lane == x.lane) with | some p => p.leaf | none => 0),
            x := (regRun t.toNat k).map (fun r => reg u x.lane r), priv := false })) with
      acnt := u.g.acnt + 1 }

/-- With its checks passed an atomic is outstanding. -/
theorem State.atomicWord_of_accepted {s : State} {op : AtomicOp} {n k : Nat} {t a : RegNo} {scope : BitVec 3} {ord : BitVec 2}
    {accs : List Access} {ps : List Piece} (haccs : laneAccesses s a 0 n = accs) (hclosed : Closed s)
    (hsound : Sound s (addrSrcs a ++ dataSrcs t k (atomicTags op))) (halign : Aligned accs n)
    (hwindow : ∀ x ∈ inHallWindow accs, (State.scratchPlace s x).isSome = true) (haccepted : Accepted s (outsideWindow accs) s.g.acnt)
    (hrange : State.scratchRangeHit (lookedUp s (outsideWindow accs)) (inHallWindow accs) = false)
    (hclass : Classified s .atomic (outsideWindow accs) ps) (hleaf : ∀ p ∈ ps, Leaf.s p.leaf = false) :
    State.atomicWord s op n t a k scope ord = .ok (atomicIssued
      (State.markVolatile (touched s (outsideWindow accs) true ps) s.g.ctx s.g.seq) op n t k scope ord accs ps) := by
  obtain ⟨hstash, hhit, hbusy⟩ := haccepted
  rw [← atomicOp_accepts_eq] at hsound
  subst haccs
  refine (State.outside_withSources _ hclosed hsound).trans ?_
  rw [State.accesses_eq_laneAccesses]
  refine (State.aligned_ok s _ n _ halign).trans ((State.inScratch_ok s _ _ hwindow).trans ?_)
  refine (if_neg (by simp [hstash])).trans ((State.classified_of_classified _ hclass).trans ?_)
  rw [State.leafProt_ok _ ps _ _ hleaf, if_neg (show ¬ State.scratchRangeHit _ (windowAccs _) = true from
    Bool.eq_false_iff.1 hrange)]
  simp only [lookedUp_g, touch_lookedUp, State.endRegion_eq_regionEnds]
  rw [State.accepted_ok _ (otherAccs _) _ _ hhit hbusy, Eff.wanting_ok]
  rfl

/-- Settles O21: the ten words are one atomic, of its operation, size and operands. -/
theorem atomicWordsComplete : Obligations.AtomicWordsComplete := by
  intro s i op n t a k scope ord ps hword hclosed hready hsound accs halign hwindow haccepted hrange hclass hleaf u
  rw [exec_of_atomicOf hword]
  exact issue_of_entry (e := .ok _) hclosed hready
    (State.atomicWord_of_accepted rfl hclosed hsound halign hwindow haccepted hrange hclass hleaf)

/-! ## Stores of lanes with open regions (R286, R287, R290) -/

/-- From `s` to `t` no store has left the lanes' regions, and the lanes that are left active have theirs open. -/
structure StaysPrivate (s t : State) : Prop where
  mem : t.mem = s.mem
  sbuf : t.g.sbuf = s.g.sbuf
  scnt : t.g.scnt = s.g.scnt
  outst : t.g.outst = s.g.outst
  allOpen : AllOpen t

namespace StaysPrivate

theorem refl {s : State} (hopen : AllOpen s) : StaysPrivate s s := ⟨rfl, rfl, rfl, rfl, hopen⟩

theorem trans {s t u : State} (hst : StaysPrivate s t) (htu : StaysPrivate t u) : StaysPrivate s u :=
  ⟨htu.mem.trans hst.mem, htu.sbuf.trans hst.sbuf, htu.scnt.trans hst.scnt, htu.outst.trans hst.outst, htu.allOpen⟩

/-- Steps of which each leaves memory and the buffer do so together. -/
theorem foldl {α : Type} (f : State → α → State) (hf : ∀ s x, AllOpen s → StaysPrivate s (f s x)) (xs : List α) {s : State}
    (hopen : AllOpen s) : StaysPrivate s (xs.foldl f s) := by
  induction xs generalizing s with
  | nil => exact refl hopen
  | cons x xs ih =>
    have hx := hf s x hopen
    exact hx.trans (ih hx.allOpen)

end StaysPrivate

/-- A change of the group that touches neither its accesses nor whether regions are open. -/
structure KeepsRegions (g h : Group) : Prop where
  sbuf : h.sbuf = g.sbuf
  scnt : h.scnt = g.scnt
  outst : h.outst = g.outst
  isOpen : ∀ l, (Group.lane h l).region.isOpen = (Group.lane g l).region.isOpen

namespace KeepsRegions

theorem refl (g : Group) : KeepsRegions g g := ⟨rfl, rfl, rfl, fun _ => rfl⟩

theorem trans {g h k : Group} (hgh : KeepsRegions g h) (hhk : KeepsRegions h k) : KeepsRegions g k :=
  ⟨hhk.sbuf.trans hgh.sbuf, hhk.scnt.trans hgh.scnt, hhk.outst.trans hgh.outst, fun l => (hhk.isOpen l).trans (hgh.isOpen l)⟩

theorem foldl {α : Type} (f : Group → α → Group) (hf : ∀ g x, KeepsRegions g (f g x)) (xs : List α) (g : Group) :
    KeepsRegions g (xs.foldl f g) :=
  List.foldlRecOn xs f (refl g) fun h hkeeps x _ => hkeeps.trans (hf h x)

/-- A change of a lane's region that leaves it open or closed as it was. -/
theorem updRegion (g : Group) (l : Nat) (f : LaneRegion → LaneRegion) (hf : ∀ r, (f r).isOpen = r.isOpen) :
    KeepsRegions g (Group.updRegion g l f) := by
  refine ⟨rfl, rfl, rfl, fun k => ?_⟩
  by_cases hk : k = l
  · subst hk
    by_cases hlen : k < g.lanes.length
    · rw [Group.updRegion, Group.lane_updLane_same _ hlen]
      exact hf _
    · simp [Group.updRegion, Group.updLane, Group.lane, List.set_eq_of_length_le (Nat.not_lt.1 hlen)]
  · rw [Group.updRegion, Group.lane_updLane_of_ne _ hk]

/-- An input that becomes exact leaves its region open. -/
theorem exactAt (g : Group) (l n : Nat) : KeepsRegions g (Group.exactAt g l n) := by
  unfold Group.exactAt
  dsimp only
  split
  · exact updRegion g l _ fun _ => rfl
  · exact refl g

/-- Such a change of the group at the issue port lets no store out. -/
theorem staysPrivate {s : State} {h : Group} (hkeeps : KeepsRegions s.g h) (hopen : AllOpen s) : StaysPrivate s (withG s h) :=
  ⟨rfl, hkeeps.sbuf, hkeeps.scnt, hkeeps.outst, fun l hl => (hkeeps.isOpen l).trans (hopen l hl)⟩

end KeepsRegions

/-- Sources that become exact let no store out. -/
theorem State.exactSources_staysPrivate (s : State) (xs : List Src) (p : Nat → Bool) (hopen : AllOpen s) :
    StaysPrivate s (State.exactSources s xs p) := by
  unfold State.exactSources
  split
  · exact .refl hopen
  · refine KeepsRegions.staysPrivate (KeepsRegions.foldl _ (fun g x => ?_) xs s.g) hopen
    refine KeepsRegions.foldl _ (fun g l => ?_) _ g
    split
    · exact KeepsRegions.exactAt g l.2 x.reg
    · exact .refl g

/-- A lane that a limit aborts leaves the active mask. -/
theorem State.capacity_staysPrivate (s : State) (l detail : Nat) (hopen : AllOpen s) :
    StaysPrivate s (State.capacity s l detail) := by
  obtain ⟨rs, ls, xs, habort⟩ := Group.abortLane_frame s.g l 5 detail
  have hg : (State.capacity s l detail).g = { s.g with regs := rs, landings := ls, lanes := xs } := habort
  refine ⟨rfl, by rw [hg], by rw [hg], by rw [hg], fun k hk => ?_⟩
  obtain ⟨hk32, hactive⟩ := Mask.mem_lanes_iff.1 hk
  obtain ⟨hold, hother⟩ : s.cur.mask.getLsbD k = true ∧ (1#32 <<< l).getLsbD k = false := by
    have hbits : (s.cur.mask &&& ~~~(1#32 <<< l)).getLsbD k = true := hactive
    rw [BitVec.getLsbD_and, BitVec.getLsbD_not, Bool.and_eq_true, Bool.and_eq_true, Bool.not_eq_true'] at hbits
    exact hbits.imp_right And.right
  have hne : k ≠ l := by
    rintro rfl
    simp [hk32] at hother
  have hlane : Group.lane (State.capacity s l detail).g k = Group.lane s.g k := Group.lane_abortLane_of_ne s.g l 5 detail hne
  rw [hlane]
  exact hopen k (Mask.mem_lanes_iff.2 ⟨hk32, hold⟩)

/-- A store that a lane's region records does not leave it. -/
theorem State.regionStore_staysPrivate (s : State) (t sz : Nat) (scope : BitVec 3) (ps : List Piece) (acc : Access)
    (data : List Byte) (hopen : AllOpen s) : StaysPrivate s (State.regionStore s t sz scope ps acc data) := by
  unfold State.regionStore
  dsimp only
  split
  · exact .refl hopen
  split
  · exact State.capacity_staysPrivate s acc.lane 5 hopen
  split
  · exact State.capacity_staysPrivate s acc.lane 2 hopen
  · refine KeepsRegions.staysPrivate (KeepsRegions.trans ?_ (KeepsRegions.updRegion _ _ _ fun _ => rfl)) hopen
    split
    · exact .refl s.g
    · exact KeepsRegions.foldl _ (fun g n => KeepsRegions.exactAt g acc.lane n) _ s.g

/-- A store all of whose lanes have their regions open goes no further than the regions. -/
theorem storeNoted_of_allOpen {s : State} (accs : List Access) (sz : BitVec 3) (t : RegNo) (ps : List Piece) (scope : BitVec 3)
    (ord : BitVec 2) (modw : Bool) (hopen : AllOpen s) : storeNoted s accs t sz ps scope ord modw =
      if s.cur.mask = 0 then .jump s else .ok (State.updG s (fun g => { g with nextNo := g.nextNo + 1 })) := by
  have hout : maskOf (fun l => s.cur.mask.getLsbD l && !State.inRegion s l) = 0 :=
    maskOf_eq_zero_iff.2 fun l hl => by
      cases hactive : s.cur.mask.getLsbD l with
      | false => rfl
      | true => simp [State.inRegion, hopen l (Mask.mem_lanes_iff.2 ⟨hl, hactive⟩)]
  exact if_pos hout

/-- Memory, and the accesses of the group at the issue port, are those of another state. -/
def SameAccesses (s v : State) : Prop := v.mem = s.mem ∧ v.g.sbuf = s.g.sbuf ∧ v.g.scnt = s.g.scnt ∧ v.g.outst = s.g.outst

/-- The record of a region's start leaves memory and the group's accesses. -/
theorem SameAccesses.ended {s t : State} (h : SameAccesses s t) (r : Status) :
    SameAccesses s (State.note (State.settleStart t) r) := by
  obtain ⟨hs, rs, hsettle⟩ := State.settleStart_eq t
  rw [hsettle]
  exact h

section
variable {u : State} {sz : BitVec 3} {t a : RegNo} {off : DWord} {scope : BitVec 3} {ord : BitVec 2} {accs : List Access}
  {ps : List Piece}

/-- With its checks passed such a store leaves memory as the page lookups do, and the group's accesses as they are. -/
theorem State.finish_globalStore_of_allOpen (s : State) (haccs : laneAccesses u a off (bytesOf sz) = accs) (hopen : AllOpen u)
    (hsound : Sound u (addrSrcs a ++ dataSrcs t (sizeRegs sz.toNat) [])) (halign : ord ≠ 0 → Aligned accs (bytesOf sz))
    (haccepted : Accepted u accs u.g.scnt) (hclass : Classified u .store accs ps) (hleaf : ∀ p ∈ ps, Leaf.s p.leaf = false) :
    SameAccesses (touched u accs true ps) (State.finish s (State.globalStore u sz t a off scope ord false)) := by
  obtain ⟨hstash, hrange, hbusy⟩ := haccepted
  have hordered : Aligned (if ord = 0 && !false then [] else accs) (bytesOf sz) := by
    split
    case isTrue => exact fun x hx => absurd hx List.not_mem_nil
    case isFalse hord => exact halign (by simpa using hord)
  have htested : ∀ p ∈ ps, (Leaf.s p.leaf || (false && !Leaf.m p.leaf)) = false := fun p hp => by simp [hleaf p hp]
  have htouched : AllOpen (touched u accs true ps) := by
    rw [AllOpen, touched_g, touched_cur]
    exact hopen
  have hexact := State.exactSources_staysPrivate (touched u accs true ps) (addrSrcs a) (State.inRegion (lookedUp u accs)) htouched
  have hnoted := hexact.trans (StaysPrivate.foldl (fun v x =>
    State.regionStore v t.toNat sz.toNat scope ps x (Group.storeData v.g x.lane t.toNat sz.toNat))
    (fun v x => State.regionStore_staysPrivate v t.toNat sz.toNat scope ps x _) accs hexact.allOpen)
  have hbefore := State.globalStore_eq_before_storeNoted (t := t) (scope := scope) (ord := ord) (modw := false) haccs hsound
  subst haccs
  rw [hbefore, GlobalChecks.before_of_classified (w := storeChecks u sz a off ord false) hordered hstash hclass htested]
  simp only [storeChecks, lookedUp_g, touch_lookedUp]
  rw [State.accepted_ok _ _ _ _ hrange hbusy, storeNoted_of_allOpen _ _ _ _ _ _ _ hnoted.allOpen]
  have hsame : SameAccesses (touched u (laneAccesses u a off (bytesOf sz)) true ps) _ :=
    ⟨hnoted.mem, hnoted.sbuf, hnoted.scnt, hnoted.outst⟩
  split
  · exact hsame.ended .done
  · exact SameAccesses.ended (t := State.advance (State.updG _ _)) hsame .done

end

/-- Settles O60: ST and STO are one store, which the regions of its lanes record or a limit aborts. -/
theorem regionStoresStayPrivate : Obligations.RegionStoresStayPrivate := by
  rintro s u i sz t a off scope ord accs ps rfl hready hopen hsound hword haccepted hclass hleaf
  obtain ⟨rfl, haccs⟩ | ⟨rfl, haccs, halign⟩ := hword
  · obtain ⟨hmem, hgroup⟩ := State.finish_globalStore_of_allOpen (scope := 6) (ord := 0) s haccs.symm hopen hsound
      (absurd rfl) haccepted hclass hleaf
    rw [touched_g] at hgroup
    exact ⟨_, show execSt sz t a off s = _ from issue_of_readyInside _ hready, hmem, hgroup⟩
  · obtain ⟨hmem, hgroup⟩ := State.finish_globalStore_of_allOpen (scope := scope) s haccs.symm hopen hsound halign haccepted
      hclass hleaf
    rw [touched_g] at hgroup
    exact ⟨_, show execSto sz t a scope ord s = _ from issue_of_readyInside _ hready, hmem, hgroup⟩

end Sys2Proof.Machine

/-! # Phaser words (R280 to R284) -/

namespace Sys2Proof.Machine

open Rules

/-! ## The phaser units leave the waiting word of the group at the issue port -/

@[simp] theorem State.putPhaser_g (s : State) (g : Group) (h : DWord) (p : Phaser) : (State.putPhaser s g h p).g = s.g := by
  unfold State.putPhaser
  split
  · rfl
  · exact ((State.writeVirt_side ..).trans (State.writeVirt_side ..)).g

@[simp] theorem State.putPhaser_cur (s : State) (g : Group) (h : DWord) (p : Phaser) :
    (State.putPhaser s g h p).cur = s.cur := by
  unfold State.putPhaser
  split
  · rfl
  · exact ((State.writeVirt_side ..).trans (State.writeVirt_side ..)).cur

/-- A change of groups that keeps each one's waiting word keeps that of the group at the issue port. -/
theorem State.mapGroups_g_wait (s : State) (p : Group → Bool) {f : Group → Group} (hf : ∀ g, (f g).wait = g.wait) :
    (State.mapGroups s p f).g.wait = s.g.wait := by
  unfold State.mapGroups
  dsimp only
  split
  · exact hf s.g
  · rfl

theorem State.updMember_g_wait (s : State) (c seq blk grp : Nat) {f : Group → Group} (hf : ∀ g, (f g).wait = g.wait) :
    (State.updMember s c seq blk grp f).g.wait = s.g.wait := by
  unfold State.updMember
  dsimp only
  exact State.mapGroups_g_wait s _ hf

theorem State.completePhase_g_wait (s : State) (g : Group) (h : DWord) : (State.completePhase s g h).g.wait = s.g.wait := by
  unfold State.completePhase
  dsimp only
  refine (State.mapGroups_g_wait _ _ ?_).trans (congrArg Group.wait (State.putPhaser_g s g h _))
  exact fun _ => rfl

theorem State.testPhase_g_wait (s : State) (g : Group) (h : DWord) : (State.testPhase s g h).g.wait = s.g.wait := by
  unfold State.testPhase
  dsimp only
  split
  · exact State.completePhase_g_wait s g h
  · rfl

theorem State.dropPhaser_g_wait (s : State) (g : Group) (r : PhReg) : (State.dropPhaser s g r).g.wait = s.g.wait := by
  unfold State.dropPhaser
  dsimp only
  rw [State.testPhase_g_wait]
  refine (State.updMember_g_wait _ _ _ _ _ ?_).trans (congrArg Group.wait (State.putPhaser_g s g r.handle _))
  exact fun _ => rfl

theorem arrived_g_wait (s : State) (h : DWord) : (arrived s h).g.wait = s.g.wait := by
  unfold arrived
  split
  · exact State.completePhase_g_wait s s.g h
  · rfl

theorem signalled_g_wait (s : State) (h : DWord) : (signalled s h).g.wait = s.g.wait := by
  unfold signalled
  dsimp only
  rw [State.testPhase_g_wait]
  simp only [withG, Group.updRecord, State.putPhaser_g]

/-- The state once the descriptor's page is looked up has the group and the chain of the state before. -/
@[simp] theorem reached_g (s : State) (h : DWord) (ps : List Piece) : (reached s h ps).g = s.g := by
  unfold reached
  split
  · rfl
  · exact touched_g ..

@[simp] theorem reached_cur (s : State) (h : DWord) (ps : List Piece) : (reached s h ps).cur = s.cur := by
  unfold reached
  split
  · rfl
  · exact touched_cur ..

/-! ## The parts of a phaser word -/

section
variable {s u : State} {d a b : RegNo} {h : DWord}

/-- A group that waits for nothing is at no phase of a word. -/
theorem State.phase_of_none {i : Instr} (hwait : s.g.wait = none) : State.phase s i = 0 := by rw [State.phase, hwait]

/-- The answer of a group that waits for nothing. -/
theorem State.phaseAnswer_of_none (hwait : s.g.wait = none) (v : Word) :
    State.phaseAnswer s d v = .ok (State.answer s d (fun _ => v) .i32) := by
  rw [State.phaseAnswer, State.unpark_of_none hwait]

/-- With a legal handle the word does what it does to the phaser, the descriptor's page in the TLB. -/
theorem State.phaserWord_of_legal {extra : List Src} {ps : List Piece} (body : State → DWord → Eff) {v : State} (hclosed : Closed s)
    (hwait : s.g.wait = none) (hsound : Sound s (srcPair a.toNat false [] .lowest ++ extra))
    (hhandle : h = State.src64 s (first s) a.toNat false) (hlegal : HandleLegal s h ps)
    (hbody : body (reached s h ps) h = .ok v) : State.phaserWord s a extra body = .ok v := by
  refine (State.outside_withSources _ hclosed hsound).trans ?_
  dsimp only
  rw [show State.src64 s (Mask.lowest s.cur.mask) a.toNat false = h from hhandle.symm]
  unfold HandleLegal at hlegal
  unfold reached at hbody
  split at hlegal
  case isTrue hwindow =>
    rw [if_pos hwindow] at hbody
    rw [if_pos hwindow, if_neg (Nat.not_lt.2 hlegal), hbody]
  case isFalse hwindow =>
    rw [if_neg hwindow] at hbody
    obtain ⟨halign, hclass, hleaf, hformed⟩ := hlegal
    refine (if_neg hwindow).trans ((if_neg (not_not.2 halign)).trans ?_)
    refine (State.classifiedOnce_of_classified _ hwait hclass).trans ?_
    rw [State.leafProt_ok _ ps _ _ hleaf, lookedUp_g, touch_lookedUp,
      hformed]
    simp only [Bool.not_true, Bool.and_false, Bool.false_eq_true, if_false]
    exact congrArg _ hbody

/-- A phaser word whose part of its own ends in a state is done there. -/
theorem issue_phaserWord {i : Instr} {extra : List Src} {ps : List Piece} (body : State → DWord → Eff) {v : State}
    (hclosed : Closed s) (hready : Ready s i) (hsound : Sound s (srcPair a.toNat false [] .lowest ++ extra))
    (hhandle : h = State.src64 s (first s) a.toNat false) (hlegal : HandleLegal s h ps)
    (hbody : body (reached s h ps) h = .ok v) : issue i (fun s => State.phaserWord s a extra body) s = .next (done v) :=
  issue_of_entry (e := .ok v) hclosed hready
    (State.phaserWord_of_legal body hclosed hready.wait_eq_none hsound hhandle hlegal hbody)

/-- The mode that the word asks for is the one that the model reads. -/
theorem State.phaserMode_of_asked {m : BitVec 2} (hg : u.g = s.g) (hcur : u.cur = s.cur) (hmode : ModeAsked s b m) :
    State.phaserMode u b = some m := by
  obtain ⟨hne, hle, rfl⟩ := hmode
  have hsrc : State.src u (Mask.lowest u.cur.mask) b.toNat false = src s (first s) b.toNat false := by
    simp only [State.src, State.srcCell, hg, hcur]
    rfl
  rw [State.phaserMode, hsrc]
  exact if_neg (not_or.2 ⟨hne, Nat.not_lt.2 hle⟩)

/-- An answer's tag depends on the registers and on the active mask alone. -/
theorem State.answerTag_eq_dependent (hregs : u.g.regs = s.g.regs) (hmask : u.cur.mask = s.cur.mask) :
    State.answerTag u b = dependent s b := by
  rw [State.answerTag, State.srcCell, Group.cell, hregs, hmask]
  rfl

/-- The signal, with nothing to wait for. -/
theorem State.signal_of_ready {i : Instr} {r : PhReg} (k : State → Word → Eff) (hwait : s.g.wait = none)
    (hrecord : Group.record? s.g h = some r) (haccesses : AccessesDone s)
    (hphase : r.sp = (State.phaser (regionEnds s) (regionEnds s).g h).ph) :
    State.signal s i h k = k (signalled (regionEnds s) h) r.sp := by
  obtain ⟨hloads, hstores, hatomics⟩ := haccesses
  have hnone : ¬ (s.g.wait.isSome = true) := by simp [hwait]
  have hrec : Group.record? (regionEnds s).g h = some r := hrecord
  unfold State.signal
  rw [State.phase_of_none hwait, if_neg (by decide)]
  simp only [State.endRegion_eq_regionEnds, if_neg hnone]
  rw [if_neg (show ¬ ((regionEnds s).g.lcnt ≠ 0 ∨ (regionEnds s).g.scnt ≠ 0 ∨ (regionEnds s).g.acnt ≠ 0) from
    not_or.2 ⟨not_not.2 hloads, not_or.2 ⟨not_not.2 hstores, not_not.2 hatomics⟩⟩), hrec]
  exact if_neg (not_not.2 hphase)

/-- The wait, where it is over. -/
theorem State.await_of_over {i : Instr} {q : PhReg} (hwait : s.g.wait = none)
    (hrecord : Group.record? (arrived s h).g h = some q) (hover : WaitOver (arrived s h) h q) :
    State.await s i d h = .ok (waited (arrived s h) d h q) := by
  have harrived : (if State.phase s i ≠ 3 ∧ (State.phaser s s.g h).arr.toNat ≥ (State.phaser s s.g h).nsig.toNat then
      State.completePhase s s.g h else s) = arrived s h := by
    rw [State.phase_of_none hwait, arrived]
    simp
  have hnone : (withG (arrived s h) (Group.updRecord (arrived s h).g h fun r => { r with wp := r.wp + 1 })).g.wait = none :=
    (arrived_g_wait s h).trans hwait
  unfold State.await
  dsimp only
  rw [harrived, hrecord]
  exact (if_pos hover).trans (State.phaseAnswer_of_none hnone q.wp)

end

/-! ## The words -/

section
variable {s : State} {d a b : RegNo} {h : DWord} {ps : List Piece}

/-- PHREG, where its entry is to be had. -/
theorem exec_phreg {m : BitVec 2} (hclosed : Closed s) (hready : Ready s (.phreg d a b))
    (hsound : Sound s (srcPair a.toNat false [] .lowest ++ [peeked b false []]))
    (hhandle : h = State.src64 s (first s) a.toNat false) (hlegal : HandleLegal s h ps) (hmode : ModeAsked s b m)
    (hrecord : Group.record? s.g h = none) (hroom : s.g.phregs.length < 8)
    (hentry : State.needsEntry (reached s h ps) h = true → State.phaserEntries (reached s h ps) s.g.hall < 64) :
    let u := reached s h ps
    let p := State.phaser u u.g h
    let n : Word := if m.getLsbD 0 then 1 else 0
    let v := State.putPhaser u u.g h { p with nsig := p.nsig + n, nnext := p.nnext + n, npart := p.npart + 1 }
    let v := withG v { v.g with phregs := v.g.phregs ++ [{ handle := h, mode := m, pending := 0, sp := p.ph, wp := p.ph }] }
    exec (.phreg d a b) s = .next (done (State.answer (State.testPhase v v.g h) d (fun _ => p.ph) (dependent s b))) := by
  intro u p n v w
  refine issue_phaserWord _ hclosed hready hsound hhandle hlegal ?_
  have hfree : ¬ ((Group.record? u.g h).isSome = true ∨ u.g.phregs.length ≥ 8) := by
    rw [reached_g, hrecord]
    exact not_or.2 ⟨by simp, Nat.not_le.2 hroom⟩
  have hhad : ¬ ((State.needsEntry u h && decide (State.phaserEntries u u.g.hall ≥ Config.phaserEntries)) = true) := by
    rw [Bool.and_eq_true, decide_eq_true_eq, reached_g]
    exact fun hneeds => absurd (hentry hneeds.1) (Nat.not_lt.2 hneeds.2)
  have htag : State.answerTag w b = dependent s b :=
    State.answerTag_eq_dependent (by simp [w, v, u, withG]) (by simp [w, v, u, withG])
  rw [← htag, State.phaserMode_of_asked (reached_g s h ps) (reached_cur s h ps) hmode]
  exact (if_neg hfree).trans (if_neg hhad)

/-- PHMODE of a group that is registered. -/
theorem exec_phmode {m : BitVec 2} (hclosed : Closed s) (hready : Ready s (.phmode d a b))
    (hsound : Sound s (srcPair a.toNat false [] .lowest ++ [peeked b false []]))
    (hhandle : h = State.src64 s (first s) a.toNat false) (hlegal : HandleLegal s h ps) (hmode : ModeAsked s b m)
    (hrecord : Group.record? s.g h ≠ none) :
    let u := reached s h ps
    let v := withG u (Group.updRecord u.g h (fun r => { r with pending := m }))
    exec (.phmode d a b) s = .next (done (State.answer v d (fun _ => (State.phaser v v.g h).ph + 1) (dependent s b))) := by
  intro u v
  refine issue_phaserWord _ hclosed hready hsound hhandle hlegal ?_
  have hregistered : ¬ ((Group.record? u.g h).isNone = true) := by
    rw [reached_g, Option.isNone_iff_eq_none]
    exact hrecord
  have htag : State.answerTag v b = dependent s b :=
    State.answerTag_eq_dependent (by simp [v, u, withG, Group.updRecord]) (by simp [v, u, withG])
  rw [← htag, State.phaserMode_of_asked (reached_g s h ps) (reached_cur s h ps) hmode]
  exact if_neg hregistered

section
variable {r : PhReg} (hclosed : Closed s) (hsound : Sound s (srcPair a.toNat false [] .lowest))
  (hhandle : h = State.src64 s (first s) a.toNat false) (hlegal : HandleLegal s h ps) (hrecord : Group.record? s.g h = some r)
include hclosed hsound hhandle hlegal hrecord

/-- PHDROP: the region ends and the accesses are waited for only where the record signals. -/
theorem exec_phdrop (hready : Ready s (.phdrop d a)) (haccesses : r.mode.getLsbD 0 = true → AccessesDone s) :
    let u := reached s h ps
    let v := if r.mode.getLsbD 0 then regionEnds u else u
    exec (.phdrop d a) s = .next (done (State.answer (State.dropPhaser v v.g r) d (fun _ => (State.phaser v v.g h).ph) .i32)) := by
  intro u v
  refine issue_phaserWord (extra := []) _ hclosed hready (by rwa [List.append_nil]) hhandle hlegal ?_
  have hwait : u.g.wait = none := by rw [reached_g, hready.wait_eq_none]
  have hvwait : v.g.wait = none := by
    rw [show v.g.wait = u.g.wait by dsimp only [v]; split <;> rfl, hwait]
  have hended : (if (r.mode.getLsbD 0 && s.g.wait.isNone) = true then State.endRegion u else u) = v := by
    rw [hready.wait_eq_none, State.endRegion_eq_regionEnds, Option.isNone_none, Bool.and_true]
  have hdone : ¬ ((r.mode.getLsbD 0 && (v.g.lcnt != 0 || v.g.scnt != 0 || v.g.acnt != 0)) = true) := by
    intro hbusy
    rw [Bool.and_eq_true] at hbusy
    obtain ⟨hsignals, hbusy⟩ := hbusy
    obtain ⟨hloads, hstores, hatomics⟩ := haccesses hsignals
    have hv : v = regionEnds u := if_pos hsignals
    have hcounters : v.g.lcnt = s.g.lcnt ∧ v.g.scnt = s.g.scnt ∧ v.g.acnt = s.g.acnt := by
      rw [hv]
      exact ⟨(congrArg Group.lcnt (reached_g s h ps) :), (congrArg Group.scnt (reached_g s h ps) :),
        (congrArg Group.acnt (reached_g s h ps) :)⟩
    obtain ⟨hl, hs, ha⟩ := hcounters
    simp [hl, hs, ha, hloads, hstores, hatomics] at hbusy
  rw [reached_g, hrecord]
  dsimp only
  simp only [u] at hended
  rw [hended, if_neg hdone, State.unpark_of_none hvwait]
  exact State.phaseAnswer_of_none ((State.dropPhaser_g_wait v v.g r).trans hvwait) _

/-- PHSIG of a record that signals. -/
theorem exec_phsig (hready : Ready s (.phsig d a)) (hmode : r.mode.getLsbD 0 = true) (haccesses : AccessesDone s)
    (hphase : r.sp = (State.phaser (regionEnds (reached s h ps)) (regionEnds (reached s h ps)).g h).ph) :
    exec (.phsig d a) s =
      .next (done (State.answer (signalled (regionEnds (reached s h ps)) h) d (fun _ => r.sp) .i32)) := by
  refine issue_phaserWord (extra := []) _ hclosed hready (by rwa [List.append_nil]) hhandle hlegal ?_
  have hwait : (reached s h ps).g.wait = none := by rw [reached_g, hready.wait_eq_none]
  have hrecord' : Group.record? (reached s h ps).g h = some r := by rw [reached_g, hrecord]
  have haccesses' : AccessesDone (reached s h ps) := by rwa [AccessesDone, reached_g]
  rw [hrecord']
  refine (if_neg (by simp [hmode])).trans ((State.signal_of_ready _ hwait hrecord' haccesses' hphase).trans ?_)
  exact State.phaseAnswer_of_none ((signalled_g_wait (regionEnds (reached s h ps)) h).trans hwait) r.sp

/-- PHWAIT of a record that waits. -/
theorem exec_phwait {q : PhReg} (hready : Ready s (.phwait d a)) (hmode : r.mode.getLsbD 1 = true)
    (hfound : Group.record? (arrived (reached s h ps) h).g h = some q) (hover : WaitOver (arrived (reached s h ps) h) h q) :
    exec (.phwait d a) s = .next (done (waited (arrived (reached s h ps) h) d h q)) := by
  refine issue_phaserWord (extra := []) _ hclosed hready (by rwa [List.append_nil]) hhandle hlegal ?_
  have hwait : (reached s h ps).g.wait = none := by rw [reached_g, hready.wait_eq_none]
  rw [reached_g, hrecord]
  exact (if_neg (by simp [hmode])).trans (State.await_of_over hwait hfound hover)

/-- PHNEXT of a record that only waits. -/
theorem exec_phnext_of_waits {q : PhReg} (hready : Ready s (.phnext d a)) (hmode : r.mode.getLsbD 0 = false)
    (hfound : Group.record? (arrived (reached s h ps) h).g h = some q) (hover : WaitOver (arrived (reached s h ps) h) h q) :
    exec (.phnext d a) s = .next (done (waited (arrived (reached s h ps) h) d h q)) := by
  refine issue_phaserWord (extra := []) _ hclosed hready (by rwa [List.append_nil]) hhandle hlegal ?_
  have hwait : (reached s h ps).g.wait = none := by rw [reached_g, hready.wait_eq_none]
  rw [reached_g, hrecord]
  dsimp only
  rw [State.phase_of_none hwait, if_neg (by decide), if_neg (Bool.eq_false_iff.1 hmode)]
  exact State.await_of_over hwait hfound hover

/-- PHNEXT of a record that signals: the signal first, then the wait if the record waits. -/
theorem exec_phnext_of_signals {v : State} (hready : Ready s (.phnext d a)) (hmode : r.mode.getLsbD 0 = true)
    (haccesses : AccessesDone s)
    (hphase : r.sp = (State.phaser (regionEnds (reached s h ps)) (regionEnds (reached s h ps)).g h).ph)
    (hthen : (if r.mode.getLsbD 1 then State.await (signalled (regionEnds (reached s h ps)) h) (.phnext d a) d h
      else State.phaseAnswer (signalled (regionEnds (reached s h ps)) h) d r.sp) = .ok v) :
    exec (.phnext d a) s = .next (done v) := by
  refine issue_phaserWord (extra := []) _ hclosed hready (by rwa [List.append_nil]) hhandle hlegal ?_
  have hwait : (reached s h ps).g.wait = none := by rw [reached_g, hready.wait_eq_none]
  have hrecord' : Group.record? (reached s h ps).g h = some r := by rw [reached_g, hrecord]
  have haccesses' : AccessesDone (reached s h ps) := by rwa [AccessesDone, reached_g]
  rw [hrecord']
  dsimp only
  rw [State.phase_of_none hwait, if_neg (by decide), if_pos hmode, State.signal_of_ready _ hwait hrecord' haccesses' hphase]
  exact hthen

end

end

/-- Settles O29: each word's own part, behind the checks of the handle that all share. That the handle may carry any tag is log
entry 29, the model's choice. -/
theorem phaserWordsComplete : Obligations.PhaserWordsComplete := by
  rintro s u e d a b h srcs ps hclosed hhandle rfl hlegal rfl rfl
  refine ⟨fun m hready hsound hmode hrecord hroom hentry =>
      exec_phreg hclosed hready hsound hhandle hlegal hmode hrecord hroom hentry,
    fun m hready hsound hmode hrecord => exec_phmode hclosed hready hsound hhandle hlegal hmode hrecord,
    fun r hready hsound hrecord haccesses => exec_phdrop hclosed hsound hhandle hlegal hrecord hready haccesses,
    fun r hready hsound hrecord hmode haccesses hphase =>
      exec_phsig hclosed hsound hhandle hlegal hrecord hready hmode haccesses hphase,
    fun r q hready hsound hrecord hmode hfound hover =>
      exec_phwait hclosed hsound hhandle hlegal hrecord hready hmode hfound hover,
    fun r hready hsound hrecord => ⟨fun q hmode hfound hover =>
      exec_phnext_of_waits hclosed hsound hhandle hlegal hrecord hready hmode hfound hover, fun hmode haccesses hphase => ?_⟩⟩
  have hwait : (signalled (regionEnds (reached s h ps)) h).g.wait = none := by
    rw [signalled_g_wait, show (regionEnds (reached s h ps)).g.wait = (reached s h ps).g.wait from rfl, reached_g,
      hready.wait_eq_none]
  refine ⟨fun hsignals => ?_, fun q hwaits hfound hover => ?_⟩
  · refine exec_phnext_of_signals hclosed hsound hhandle hlegal hrecord hready hmode haccesses hphase ?_
    rw [if_neg (Bool.eq_false_iff.1 hsignals), State.phaseAnswer_of_none hwait]
  · refine exec_phnext_of_signals hclosed hsound hhandle hlegal hrecord hready hmode haccesses hphase ?_
    rw [if_pos hwaits, State.await_of_over hwait hfound hover]

end Sys2Proof.Machine

/-! # PROP, TRCTL, TKEY, COLL and CSTAT (R306, R307, R310, R347, R352, R357, R358) -/

namespace Sys2Proof.Machine

open Rules

/-! ## The words on an arena (R347, R352, R357) -/

section
variable {s : State} {d a b : RegNo}

/-- PROP and TRCTL, on an aligned arena outside traced launches, go on to their own parts. -/
theorem State.arenaWord_of_aligned {more : List Src} (k : State → Nat → DWord → Eff) (hclosed : Closed s)
    (htraced : State.inTracedLaunch s s.g.ctx s.g.seq = false)
    (hsound : Sound s (srcPair a.toNat false [.addr, .i32] .lowest ++ more)) (halign : (arenaOf s a).toNat % 65536 = 0) :
    State.arenaWord s a more k = k s (first s) (arenaOf s a) := by
  refine (State.outside_closed s _ hclosed).trans ((if_neg (Bool.eq_false_iff.1 htraced)).trans ?_)
  exact (withSources_of_sound _ hsound).trans (if_neg (not_not.2 halign))

/-- PROP of a registered trace, its earlier stores performed. -/
theorem exec_prop_of_room (hclosed : Closed s) (hready : Ready s (.prop d a))
    (htraced : State.inTracedLaunch s s.g.ctx s.g.seq = false)
    (hsound : Sound s (srcPair a.toNat false [.addr, .i32] .lowest)) (halign : (arenaOf s a).toNat % 65536 = 0)
    (htrace : (State.trace? s s.g.ctx (arenaOf s a)).isSome = true) (hroom : EngineRoom s) (hstores : s.g.scnt = 0) :
    exec (.prop d a) s = .next (done (withG (regionEnds s) (outstanding (regionEnds s).g (.prop d.toNat) s.cur.mask
      [{ lane := first s, addr := arenaOf s a, len := 0, leaf := 0, x := [], priv := false }]))) := by
  refine show execProp d a s = _ from issue_of_entry (e := .ok _) hclosed hready ?_
  refine (State.arenaWord_of_aligned (more := []) _ hclosed htraced (by rwa [List.append_nil]) halign).trans ?_
  have hwait : s.g.wait = none := hready.wait_eq_none
  have hregistered : ¬ ((s.g.wait.isNone && (State.trace? s s.g.ctx (arenaOf s a)).isNone) = true) := by
    simp [Option.isSome_iff_ne_none.1 htrace]
  have hfits : ¬ ((s.g.wait.isNone && decide (Group.engines s.g ≥ Config.maxCounter)) = true) := by
    have hnot : ¬ Group.engines s.g ≥ Config.maxCounter := Nat.not_le.2 hroom
    simp [hnot]
  have hended : (if s.g.wait.isSome then s else State.endRegion s) = regionEnds s := by
    rw [hwait, State.endRegion_eq_regionEnds]
    rfl
  have hendedWait : (regionEnds s).g.wait = none := hwait
  refine (if_neg hregistered).trans ((if_neg hfits).trans ?_)
  rw [hended]
  refine (if_pos hstores).trans ?_
  rw [State.unpark_of_none hendedWait]
  rfl

end

/-! ## TRCTL (R357) -/

/-- A header is written on the context's behalf. -/
theorem State.renderHeader_side (s : State) (c : Nat) (t : Trace) : SameSide s (State.renderHeader s c t) := State.writeVirt_side ..

/-- ENABLE changes contexts and memory alone. -/
theorem State.enableTrace_side (s : State) (c : Nat) (arena : DWord) : SameSide s (State.enableTrace s c arena).2 := by
  unfold State.enableTrace
  split_ifs
  · exact SameSide.refl s
  · exact SameSide.refl s
  · exact SameSide.refl s
  · exact (State.updCtx_side ..).trans (State.renderHeader_side ..)

/-- FREE changes contexts alone. -/
theorem State.freeTrace_side (s : State) (c : Nat) (arena : DWord) : SameSide s (State.freeTrace s c arena).2 := by
  unfold State.freeTrace
  split
  · split
    · exact SameSide.refl s
    · exact State.updCtx_side ..
  · exact SameSide.refl s

/-- What TRCTL does to the state and answers, of its operation: 0 enables, 1 frees, 2 reads STATE at offset 0x20. -/
def trctlAnswer (u : State) (op : Nat) (arena : DWord) : Word × State :=
  if op = 0 then State.enableTrace u u.g.ctx arena
  else if op = 1 then State.freeTrace u u.g.ctx arena
  else (BitVec.ofNat 32 (State.numVirt u u.g.ctx (vaOf arena + 0x20) 4 % 4096), u)

/-- No operation changes the group or its chain. -/
theorem trctlAnswer_side (u : State) (op : Nat) (arena : DWord) : SameSide u (trctlAnswer u op arena).2 := by
  unfold trctlAnswer
  split
  · exact State.enableTrace_side u u.g.ctx arena
  split
  · exact State.freeTrace_side u u.g.ctx arena
  · exact SameSide.refl u

section
variable {s : State} {d a b : RegNo}

/-- TRCTL with its arena's header accessible: an operation other than ENABLE is of a registered trace. -/
theorem exec_trctl_of_classified {op : Nat} {ps : List Piece} (hclosed : Closed s) (hready : Ready s (.trctl d a b))
    (htraced : State.inTracedLaunch s s.g.ctx s.g.seq = false)
    (hsound : Sound s (srcPair a.toNat false [.addr, .i32] .lowest ++ [peeked b false []]))
    (halign : (arenaOf s a).toNat % 65536 = 0) (hclass : Classified s .atomic (arenaAccess s a) ps)
    (hop : (src s (first s) b.toNat false).toNat = op) (hmost : op < 3)
    (htrace : op ≠ 0 → (State.trace? (lookedUp s (arenaAccess s a)) s.g.ctx (arenaOf s a)).isSome = true) {r : Word × State}
    (hr : trctlAnswer (regionEnds (touched s (arenaAccess s a) true ps)) op (arenaOf s a) = r) :
    exec (.trctl d a b) s = .next (done (State.answer r.2 d (fun _ => r.1) (dependent s b))) := by
  subst hr
  refine show execTrctl d a b s = _ from issue_of_entry (e := .ok _) hclosed hready ?_
  refine (State.arenaWord_of_aligned _ hclosed htraced hsound halign).trans ?_
  have hread : (State.src s (first s) b.toNat false).toNat = op := hop
  have hregistered : ¬ (op ≠ 0 ∧ (State.trace? (lookedUp s (arenaAccess s a)) s.g.ctx (arenaOf s a)).isNone = true) := by
    rintro ⟨hne, hnone⟩
    rw [Option.isNone_iff_eq_none] at hnone
    have hsome := htrace hne
    rw [hnone] at hsome
    exact Bool.false_ne_true hsome
  dsimp only
  rw [hread]
  refine (if_neg (Nat.not_le.2 hmost)).trans ((State.classified_of_classified _ hclass).trans ?_)
  have hside := trctlAnswer_side (regionEnds (touched s (arenaAccess s a) true ps)) op (arenaOf s a)
  have htag : State.answerTag (trctlAnswer (regionEnds (touched s (arenaAccess s a) true ps)) op (arenaOf s a)).2 b = dependent s b := by
    refine State.answerTag_eq_dependent ?_ ?_
    · rw [hside.g]
      exact (congrArg Group.regs (touched_g s (arenaAccess s a) true ps) :)
    · rw [hside.cur]
      exact (congrArg Cur.mask (touched_cur s (arenaAccess s a) true ps) :)
  rw [← htag]
  simp only [lookedUp_g, touch_lookedUp, if_neg hregistered, State.endRegion_eq_regionEnds]
  rfl

/-- TKEY. -/
theorem exec_tkey (hclosed : Closed s) (hready : Ready s (.tkey d)) (hsound : Sound s []) :
    exec (.tkey d) s = .next (done (writes s { srcs := [], lat := 6, dst := d, n := 4, out := fun _ => keyWords s })) := by
  refine (show execTkey d s = _ from issue_of_laneOp hclosed hready rfl (funext fun l => ?_)).trans
    (finish_laneEffect hsound)
  unfold keyWords
  cases State.task? s s.g.ctx s.g.seq with
  | none => rfl
  | some k =>
    dsimp only
    rw [← lo32_eq, ← hi32_eq, ← lo32_eq, ← hi32_eq]
    split <;> rfl

end

/-- Settles O31: PROP and TRCTL share the checks of their arena; TRCTL's three operations are one answer. -/
theorem traceWordsComplete : Obligations.TraceWordsComplete := by
  refine ⟨fun s d a hclosed hready htraced hsound halign htrace hroom hstores =>
      exec_prop_of_room hclosed hready htraced hsound halign htrace hroom hstores, ?_,
    fun s d hclosed hready hsound => exec_tkey hclosed hready hsound⟩
  rintro s u d a b op ps hclosed hready htraced hsound halign hclass rfl rfl
  have hctx : (regionEnds (touched s (arenaAccess s a) true ps)).g.ctx = s.g.ctx :=
    (congrArg Group.ctx (touched_g s (arenaAccess s a) true ps) :)
  rw [← hctx]
  refine ⟨fun hop => ?_, fun htrace => ⟨fun hop => ?_, fun hop => ?_⟩⟩
  · exact exec_trctl_of_classified hclosed hready htraced hsound halign hclass (congrArg BitVec.toNat hop) (by decide)
      (absurd rfl) (if_pos rfl)
  · exact exec_trctl_of_classified hclosed hready htraced hsound halign hclass (congrArg BitVec.toNat hop) (by decide)
      (fun _ => hctx ▸ htrace) ((if_neg (by decide)).trans (if_pos rfl))
  · exact exec_trctl_of_classified hclosed hready htraced hsound halign hclass (congrArg BitVec.toNat hop) (by decide)
      (fun _ => hctx ▸ htrace) ((if_neg (by decide)).trans (if_neg (by decide)))

/-! ## COLL (R306, R307) -/

/-- The pages of an engine word's runs leave the chain. -/
theorem State.touchAll_cur (s : State) (ps : List Piece) (dst : List (Place × Nat)) : (State.touchAll s ps dst).cur = s.cur := by
  rw [State.touchAll, State.touch_cur, State.touch_cur]

section
variable {s : State} {status : DWord} {x : CollDesc} {members : List Nat} {ps : List Piece}

/-- The checks of R307 passed, the word goes on with its pages looked up. -/
theorem State.collChecks_of_accepted (k : State → List Piece → Eff) (haccepted : CollAccepted s status x members ps) :
    State.collChecks s (first s) status x k =
      Eff.wanting (State.fills s s.g.hall s.g.ctx (collAccesses s status x members)) (k (collLooked s status x members) ps) := by
  obtain ⟨hset, halign, hbounds, hclass, hdest⟩ := haccepted
  unfold State.collChecks State.classifiedAll
  rw [hset]
  dsimp only
  rw [if_neg (not_not.2 halign), if_neg (Bool.eq_false_iff.1 hbounds)]
  simp only [collLooked, collAccesses] at hclass
  rw [hclass]
  refine congrArg (Eff.wanting _) ?_
  split at hdest
  case isTrue hpub =>
    rw [if_pos hpub]
    refine if_pos ?_
    obtain hempty | ⟨e, hbuffer, hholds⟩ := hdest
    · simp [hempty]
    · rw [Bool.or_eq_true]
      right
      rw [show State.buffer (State.lookUp s s.g.hall s.g.ctx _) (State.lookUp s s.g.hall s.g.ctx _).g.ctx _ = some e from
        (by rw [State.lookUp_g]; exact hbuffer)]
      exact hholds
  case isFalse hpub =>
    rw [if_neg hpub, plainDest_eq_none hdest]
    rfl

end

/-- COLL with its checks passed and room for it. -/
theorem exec_coll_of_accepted {s : State} {d a b : RegNo} {ua ub : Bool} {w : List Word} {status : DWord} {members : List Nat}
    {ps : List Piece} (hclosed : Closed s) (hready : Ready s (.coll d a b ua ub)) (hsound : Sound s (collSrcs a b ua ub))
    (hw : words s b 8 ub = w) (hstatus : State.src64 s (first s) a.toNat ua = status) (hroom : EngineRoom s)
    (haccepted : CollAccepted s status (collDescOf w) members ps) (hheld : State.collsHeld s s.g.ctx < 256) :
    let u := State.markVolatile (regionEnds (State.touchAll (collLooked s status (collDescOf w) members) ps
      [(CollDesc.runs (collDescOf w) members status).2.1])) s.g.ctx s.g.seq
    exec (.coll d a b ua ub) s = .next (done (withG u
      { outstanding u.g (.coll d.toNat u.g.commands w (collTag s a b ua ub)) s.cur.mask
          [{ lane := first s, addr := status, len := 0, leaf := 0, x := [], priv := false }] with
        ecnt := u.g.ecnt + 1, commands := u.g.commands + 1 })) := by
  intro u
  refine show execColl d a b ua ub s = _ from issue_of_entry (e := .ok _) hclosed hready ?_
  refine (State.outside_closed s _ hclosed).trans ((withSources_of_sound _ hsound).trans ?_)
  dsimp only
  rw [(State.ecntFull_eq_false_iff s).2 hroom, if_neg Bool.false_ne_true]
  have hwords : (regRun b.toNat 8).map (fun n => State.src s (Mask.lowest s.cur.mask) n ub) = w := hw
  have hstatus' : State.src64 s (Mask.lowest s.cur.mask) a.toNat ua = status := hstatus
  have ⟨hset, _⟩ := haccepted
  have hmask : u.cur.mask = s.cur.mask := by
    rw [(State.markVolatile_side _ _ _).cur, regionEnds, State.touchAll_cur, collLooked, State.lookUp_cur]
  rw [hwords, hstatus']
  refine (State.collChecks_of_accepted _ haccepted).trans ?_
  rw [hset, if_neg (Nat.not_le.2 hheld)]
  simp only [State.endRegion_eq_regionEnds, Option.getD_some, Eff.wanting_ok]
  simp only [u] at hmask ⊢
  rw [hmask]
  generalize State.markVolatile _ _ _ = v
  rfl

/-! ## CSTAT (R310) -/

/-- CSTAT of a set number that exists. -/
theorem exec_cstat_of_set {s : State} {d a b : RegNo} {ua ub : Bool} (hclosed : Closed s) (hready : Ready s (.cstat d a b ua ub))
    (hsound : Sound s (cstatSrcs a b ua ub)) (hset : (src s (first s) b.toNat ub).toNat ≤ 15) :
    exec (.cstat d a b ua ub) s = .next (done (withG s
      (outstanding s.g (.cstat (src s (first s) b.toNat ub).toNat (src s (first s) a.toNat ua).toNat d.toNat (cstatTag s a b ua ub))
        s.cur.mask
        ((Mask.lanes s.cur.mask).map (fun l => { lane := l, addr := 0, len := 0, leaf := 0, x := [], priv := false }))))) := by
  refine show execCstat d a b ua ub s = _ from issue_of_entry (e := .ok _) hclosed hready ?_
  refine (withSources_of_sound _ hsound).trans ((if_neg (Nat.not_lt.2 hset)).trans ?_)
  have hparts : (Mask.lanes s.cur.mask).map (fun l =>
      ({ lane := l, addr := 0, len := 0, leaf := 0, x := [], priv := State.defaultSym s (cstatSrcs a b ua ub) l != 0 } : LanePart)) =
      (Mask.lanes s.cur.mask).map (fun l => { lane := l, addr := 0, len := 0, leaf := 0, x := [], priv := false }) := by
    refine List.map_congr_left fun l hl => ?_
    rw [State.defaultSym, State.inRegion_closed s l hclosed (Mask.mem_lanes hl)]
    rfl
  rw [State.exactSources_closed s _ _ hclosed]
  exact congrArg (fun parts => Eff.ok (withG s (outstanding s.g (.cstat (src s (first s) b.toNat ub).toNat
    (src s (first s) a.toNat ua).toNat d.toNat (cstatTag s a b ua ub)) s.cur.mask parts))) hparts

/-- Settles O32: COLL behind the checks of R307; CSTAT with one part for each active lane. -/
theorem collectiveWordsComplete : Obligations.CollectiveWordsComplete := by
  refine ⟨?_, fun s d a b ua ub hclosed hready hsound hset => exec_cstat_of_set hclosed hready hsound hset⟩
  rintro s t u d a b ua ub w status members ps hclosed hready hsound hw hstatus hroom haccepted hheld rfl rfl
  exact exec_coll_of_accepted hclosed hready hsound hw.symm hstatus.symm hroom haccepted hheld

end Sys2Proof.Machine

/-! # Propagation, stale tasks and relabelling (R347, R350 to R353) -/

namespace Sys2Proof.Machine

open Rules

section
variable {s : State} {c : Nat}

/-- PROP is answered by the first condition of R352 that holds. -/
theorem execPropAnswer_of_prop {h t n d : Nat} {g : Group} {o : Outst} (hgroup : State.groupAt? s h t = some g)
    (hfind : g.outst.findIdx? (fun o => match o.op with | .prop _ => true | _ => false) = some n) (hoption : g.outst[n]? = some o)
    (hop : o.op = .prop d) : execPropAnswer h t s = .next (propAnswered s h t n d g o) := by
  unfold execPropAnswer
  rw [hgroup]
  dsimp only
  split
  case h_1 hnone => exact absurd (hnone.symm.trans hfind) (by simp)
  case h_2 n' hsome =>
    obtain rfl : n' = n := Option.some.inj (hsome.symm.trans hfind)
    rw [hoption]
    dsimp only
    rw [hop]
    dsimp only
    unfold propAnswered
    dsimp only
    rw [apply_ite Host.Outcome.next]
    refine if_congr Iff.rfl rfl ?_
    cases State.trace? s g.ctx (match o.parts with | p :: _ => p.addr | [] => 0) with
    | none => rfl
    | some x => simp only [apply_ite Host.Outcome.next]; rfl

/-- `State.propDone` decides that a propagation is complete. -/
theorem State.propDone_iff (t : Trace) : State.propDone s c t = true ↔
    t.st = 3 ∧ (∀ x ∈ t.tasks, State.started s c x = false) ∧ (t.failed = true ∨ ∀ x ∈ t.tasks, x.stale = false) := by
  simp [State.propDone, and_assoc]

/-- A propagation completes once it is done. -/
theorem execPropagationComplete_of_trace {arena : DWord} {t : Trace} (ht : State.trace? s c arena = some t) :
    execPropagationComplete c arena s = .next (
      if t.st = 3 ∧ (∀ x ∈ t.tasks, State.started s c x = false) ∧ (t.failed = true ∨ ∀ x ∈ t.tasks, x.stale = false) then
        t.props.foldl (fun s p => State.updMember s c p.1 p.2.1 p.2.2 (fun g => { g with ecnt := dec g.ecnt }))
          (State.updTrace s c arena (fun t => { t with st := 2, nprop := t.nprop + 1, props := [] }))
      else s) := by
  rw [execPropagationComplete, ht]
  refine next_ite_of_iff_not ?_
  rw [← State.propDone_iff, Bool.not_eq_true]

/-- A stale task runs again where it may and finds an entry. -/
theorem execStaleTaskRestart_of_task {seq : Nat} {t : Trace} {x : TraceTask} {k : Task}
    (htraced : State.tracedTask s c seq = some (t, x)) (htask : State.task? s c seq = some k) :
    execStaleTaskRestart c seq s = .next (
      if State.mayRerun s c t x = true then rerun s c seq t k (State.takeEntry s c k.queue (dieOfQueue k.queue) none) else s) := by
  rw [execStaleTaskRestart, htraced, htask]
  by_cases hmay : State.mayRerun s c t x = true
  · rw [if_pos hmay]
    refine (if_neg (by simp [hmay])).trans ?_
    cases State.takeEntry s c k.queue (dieOfQueue k.queue) none <;> rfl
  · rw [if_neg hmay]
    exact if_pos (Bool.not_eq_true _ ▸ hmay)

/-- Rewritten intervals take effect where they keep the launch's order. -/
theorem execRelabel_eq (arena : DWord) (keys : List KeyInterval) :
    execRelabel c arena keys s = .next (if State.relabelOk s c arena keys = true then keys.foldl (rekeyed c) s else s) :=
  next_ite_of_iff_not (by rw [Bool.not_eq_true])

end

/-- Settles O42: each event by its own equation. That PROP's answer waits while ecnt is 255 is log entry 30, and that an event that
is not due changes nothing log entry 38: both are the model's choice. -/
theorem traceEventsComplete : Obligations.TraceEventsComplete := by
  intro s c
  exact ⟨fun h t g n o d => execPropAnswer_of_prop, fun arena t => execPropagationComplete_of_trace,
    fun seq t x k => execStaleTaskRestart_of_task, execRelabel_eq⟩

end Sys2Proof.Machine

/-! # Collectives and links (R21, R296 to R310, R336) -/

namespace Sys2Proof.Machine

open Rules

/-! ## Links and trees (R21, R297, R298, R302, R336) -/

/-- Each event of the links and the trees has the effect stated. -/
theorem exec_of_linkEvent {s t : State} {i : Instr} (h : linkEvent s i = some t) : exec i s = .next t := by
  unfold linkEvent at h
  split at h <;> cases h
  case h_1 p q =>
    show execLinkDownDeclare p q s = _
    unfold execLinkDownDeclare
    cases s.pkg.links.find? (fun l => l.pkg == p && l.port == q) <;> rfl
  case h_2 e =>
    refine next_ite_of_iff_not ?_
    rw [← Bool.not_eq_true, ← Bool.not_eq_true, gt_iff_lt, ← not_le]
    tauto
  case h_3 e =>
    refine next_ite_of_iff_not ?_
    rw [← Bool.not_eq_true, ← Bool.not_eq_true]
    tauto
  case h_4 trees =>
    refine next_ite_of_iff_not ?_
    rw [Bool.not_eq_true]

/-! ## COLL accepted, CSTAT answered (R296, R307, R310) -/

section
variable {s : State} {h k n d : Nat} {g : Group} {o : Outst}

/-- An outstanding COLL is accepted once no acquire of the group stands before it and its engine may act. -/
theorem execCollAccept_of_waits {num : Nat} {w : List Word} {tag : Tag} {members : List Nat}
    (hwaits : CollWaits s h k g n o d num w tag) (hset : State.setOf s g.ctx (collDescOf w).set = some members) :
    execCollAccept h k s = .next (
      if Group.acqBefore g o.no = false ∧ State.enginesStopped s g.ctx = false ∧ g.draining = false then
        collAccepted s h k g n o d num tag (collDescOf w) members else s) := by
  obtain ⟨hgroup, hfind, hoption, hop⟩ := hwaits
  unfold execCollAccept
  rw [hgroup]
  dsimp only
  split
  case h_1 hnone => exact absurd (hnone.symm.trans hfind) (by simp)
  case h_2 n' hsome =>
    obtain rfl : n' = n := Option.some.inj (hsome.symm.trans hfind)
    rw [hoption]
    dsimp only
    rw [hop]
    dsimp only
    rw [hset]
    refine next_ite_of_iff_not ?_
    rw [← Bool.not_eq_true, ← Bool.not_eq_true, ← Bool.not_eq_true, Bool.or_eq_true, Bool.or_eq_true]
    tauto

/-- An outstanding CSTAT is answered in every lane that issued it. -/
theorem execCstatAnswer_of_cstat {set cid : Nat} {tag : Tag} (hgroup : State.groupAt? s h k = some g)
    (hoption : g.outst[n]? = some o) (hop : o.op = .cstat set cid d tag) :
    execCstatAnswer h k n s = .next (if g.draining = true then s else State.updGroup s h k (fun y => Group.done (o.parts.foldl (fun y p =>
      Group.putWords y p.lane d [((State.collAnswer s g.ctx set cid).1, if p.priv then 15 else 0),
        ((State.collAnswer s g.ctx set cid).2, if p.priv then 15 else 0)] tag) y) n)) := by
  rw [execCstatAnswer, hgroup]
  dsimp only
  rw [hoption]
  dsimp only
  rw [hop]
  exact next_ite_of_iff Iff.rfl

end

/-! ## What arrives over the links (R300 to R302) -/

section
variable {s : State} {c set cid : Nat}

/-- The test that the model makes for a value that is already there is the statement's. -/
theorem anySame_iff (ps : List Partial) (chunk tsid child : Nat) :
    ps.any (fun p => p.ctx == c && p.set == set && p.cid == cid && p.chunk == chunk && p.tsid == tsid && p.child == child) = true ↔
      ∃ p ∈ ps, Same p c set cid chunk tsid child := by
  simp [Same, and_assoc]

/-- A partial value of the current tree set that is not there yet is kept. -/
theorem execPartialValueReceive_of_new {chunk tsid child : Nat} {data : List Byte} {flags : BitVec 5} {head : CollHead}
    (hcurrent : tsid = s.pkg.tsid) (hnew : ∀ p ∈ s.pkg.partials, ¬ Same p c set cid chunk tsid child) :
    execPartialValueReceive c set cid chunk tsid child data flags head s =
      .next (State.stepRelay (State.runCollectives (State.updPkg s (fun p =>
        { p with partials := p.partials ++ [⟨c, set, cid, chunk, tsid, child, data, flags, head⟩] }))) head c set cid chunk) :=
  (if_neg (not_not.2 hcurrent)).trans (if_neg fun hseen =>
    let ⟨p, hp, hsame⟩ := (anySame_iff s.pkg.partials chunk tsid child).1 hseen
    hnew p hp hsame)

/-- One of another tree set, or one that is there already, is dropped. -/
theorem execPartialValueReceive_of_old {chunk tsid child : Nat} {data : List Byte} {flags : BitVec 5} {head : CollHead}
    (hold : tsid ≠ s.pkg.tsid ∨ ∃ p ∈ s.pkg.partials, Same p c set cid chunk tsid child) :
    execPartialValueReceive c set cid chunk tsid child data flags head s = .next s := by
  by_cases hcurrent : tsid = s.pkg.tsid
  · exact (if_neg (not_not.2 hcurrent)).trans
      (if_pos ((anySame_iff s.pkg.partials chunk tsid child).2 (hold.resolve_left (not_not.2 hcurrent))))
  · exact if_pos hcurrent

section
variable {x : Collective} {y : Chunk} {chunk tsid : Nat}

/-- A broadcast chunk lands where it is due. -/
theorem execChunkBroadcastReceive_of_chunk {data : List Byte} {flags : BitVec 5} (hcoll : State.coll? s c set cid = some x)
    (hchunk : x.chunks[chunk]? = some y) : execChunkBroadcastReceive c set cid chunk tsid data flags s = .next (
      if TakesChunk s x y chunk tsid data.length then State.landChunk s x chunk data flags false else s) := by
  rw [execChunkBroadcastReceive, hcoll]
  dsimp only
  rw [hchunk]
  refine next_ite_of_iff_not ?_
  rw [TakesChunk, ← Bool.not_eq_true y.on, ← Bool.not_eq_true (isRoot _ _), ← Bool.not_eq_true (State.collMigrating s x),
    ← Option.not_isSome, Bool.not_eq_true']
  simp only [ne_eq, ← Bool.not_eq_true, not_and_or, not_not]

/-- An acknowledgement counts at the root of the chunk's tree, and the root's word at any other member. -/
theorem execChunkAck_of_chunk {rank : Nat} (hcoll : State.coll? s c set cid = some x) (hchunk : x.chunks[chunk]? = some y) :
    execChunkAck c set cid chunk tsid rank s = .next (
      if TakesAck s x y chunk tsid rank then State.putColl s (Collective.settleAcks
        (Collective.setChunk x chunk (fun z => { z with acks := (z.acks ++ [rank]).eraseDups })) chunk)
      else if TakesWord s x y chunk tsid then State.declared s x chunk else s) := by
  rw [execChunkAck, hcoll]
  dsimp only
  rw [hchunk]
  dsimp only
  by_cases hruns : x.st = 0 ∧ tsid = s.pkg.tsid ∧ y.on = true
  · obtain ⟨hst, htsid, hon⟩ := hruns
    rw [if_neg (by simp [hst, htsid, hon])]
    by_cases hroot : isRoot (s.pkg.trees.getD y.tree []) me = false
    · rw [if_pos hroot, if_neg (show ¬ TakesAck s x y chunk tsid rank from fun ⟨_, _, _, _, htop, _⟩ =>
        Bool.false_ne_true (hroot.symm.trans htop))]
      refine congrArg _ (if_congr ?_ rfl rfl)
      rw [TakesWord, ← List.contains_iff_mem, Bool.not_eq_true]
      tauto
    · rw [if_neg hroot, if_neg (show ¬ TakesWord s x y chunk tsid from fun ⟨_, _, _, hbelow, _⟩ => hroot hbelow)]
      rw [Bool.not_eq_false] at hroot
      refine next_ite_of_iff_not ?_
      rw [TakesAck, ← List.contains_iff_mem, ← Bool.not_eq_true]
      tauto
  · rw [if_pos (by simp only [← Bool.not_eq_true]; tauto),
      if_neg (show ¬ TakesAck s x y chunk tsid rank from fun ⟨hst, htsid, hon, _⟩ => hruns ⟨hst, htsid, hon⟩),
      if_neg (show ¬ TakesWord s x y chunk tsid from fun ⟨hst, htsid, hon, _⟩ => hruns ⟨hst, htsid, hon⟩)]

/-! ## The end of a collective (R303, R307) -/

/-- A collective whose every chunk is broadcast-done ends as DONE. -/
theorem execCollectiveComplete_of_coll (hcoll : State.coll? s c set cid = some x) :
    execCollectiveComplete c set cid s = .next (
      if x.st = 0 ∧ Collective.ready x = true then State.endColl s { x with st := 1 } else s) := by
  rw [execCollectiveComplete, hcoll]
  refine next_ite_of_iff_not ?_
  rw [← Bool.not_eq_true]
  tauto

/-- A running collective fails with a cause that there is; with PARTITION only where a member is not connected. -/
theorem execCollectiveFail_of_coll (hcoll : State.coll? s c set cid = some x) (cause : BitVec 8) :
    execCollectiveFail c set cid cause s = .next (
      if x.st = 0 ∧ 1 ≤ cause.toNat ∧ cause.toNat ≤ 3 ∧ (cause.toNat = 1 → State.partitioned s x = true) then
        State.failColl s x cause.toNat else s) := by
  rw [execCollectiveFail, hcoll]
  refine next_ite_of_iff_not ?_
  rw [← Bool.not_eq_true, Nat.one_le_iff_ne_zero, ← not_lt (a := 3)]
  tauto

end

end

/-- Settles O40: each event by its own equation. That the first tree set keeps TSID, and that a package that is no member relays, is
log entry 31, and that an event that is not due changes nothing log entry 38: both are the model's choice. -/
theorem collectiveEventsComplete : Obligations.CollectiveEventsComplete := by
  intro s t i h k g
  refine ⟨exec_of_linkEvent, fun n o d num w tag members => execCollAccept_of_waits, fun n o set cid d tag => execCstatAnswer_of_cstat,
    fun c set cid chunk tsid child data flags head => ⟨execPartialValueReceive_of_new, execPartialValueReceive_of_old⟩,
    fun c set cid chunk tsid hnone => ⟨fun data flags => ?_, fun rank => ?_⟩, fun c set cid x hcoll => ⟨?_, ?_, ?_, ?_⟩⟩
  · show execChunkBroadcastReceive c set cid chunk tsid data flags s = _
    rw [execChunkBroadcastReceive, hnone]
  · show execChunkAck c set cid chunk tsid rank s = _
    rw [execChunkAck, hnone]
  · exact fun chunk tsid data flags y => execChunkBroadcastReceive_of_chunk hcoll
  · exact fun chunk tsid rank y => execChunkAck_of_chunk hcoll
  · exact execCollectiveComplete_of_coll hcoll
  · exact execCollectiveFail_of_coll hcoll

end Sys2Proof.Machine

/-! # Errors, tests, poison and lockstep (R333 to R341) -/

namespace Sys2Proof.Machine

open Rules

/-! ## Charges, tests and poison (R335 to R337, R339, R340) -/

/-- What each kind of event charges. -/
theorem chargeOf_eq_points : ∀ k : BitVec 2, chargeOf k = points k := by decide

/-- A fenced unit that is one of the package's passes its test or is retired. -/
theorem execUnitTestComplete_eq (s : State) (u : Nat) (pass : Bool) : execUnitTestComplete u pass s = .next (tested s u pass) := by
  have hother : (u ≥ unitCount ∨ (State.unit s u).st ≠ 1) ↔ ¬ (u < 9296 ∧ (State.unit s u).st = 1) := by
    rw [unitCount, ge_iff_le, ← not_lt]
    tauto
  unfold tested
  by_cases hfenced : u < 9296 ∧ (State.unit s u).st = 1
  · rw [if_pos hfenced, execUnitTestComplete]
    exact (if_neg (fun h => hother.1 h hfenced)).trans (next_ite_of_iff Iff.rfl)
  · rw [if_neg hfenced, execUnitTestComplete]
    exact if_pos (hother.2 hfenced)

/-- Each kind of place is marked. -/
theorem execUncorrectableError_eq (s : State) (place : ErrPlace) : execUncorrectableError place s = .next (struck s place) := by
  cases place with
  | granule pa => rfl
  | scratch c seq blk off => rfl
  | reg h t lane n => rfl
  | tile h t k row col =>
    refine congrArg (fun f => Host.Outcome.next (State.updGroup s h t f)) (funext fun g => ?_)
    unfold Group.poisonTile
    cases g.tiles[k]? with
    | none => exact ite_self g
    | some x => exact (ite_and _ _ _ _).symm

/-! ## The first package's decisions, and the flag (R334, R341) -/

/-- The partition runs in lockstep and the packages are paired. -/
theorem paired_iff (s : State) (c : Nat) :
    (State.lockMask s c != 0 && s.pkg.paired) = true ↔ State.lockMask s c ≠ 0 ∧ s.pkg.paired = true := by simp

/-- A write of the first word clears the flag, or is a fault. -/
theorem execLockstepDivergeClear_eq (s : State) (v : Word) : execLockstepDivergeClear v s = .next (
    if ¬ LinkUp s then s
    else if v.toNat / 2 ^ 12 ≠ 0 ∨ bits v.toNat 4 4 ≠ 0 then State.updPkg s (fun p => { p with fwFault := satInc p.fwFault })
    else if v.getLsbD 2 = true then State.updPkg s (fun p => { p with diverged := false }) else s) := by
  have hhigh : bits v.toNat 12 20 = v.toNat / 2 ^ 12 := Nat.mod_eq_of_lt (by omega)
  rw [execLockstepDivergeClear, hhigh, if_congr (State.linkUp_eq_false_iff s) rfl rfl]
  simp only [apply_ite Host.Outcome.next]

/-- Each event of reliability has the effect stated. -/
theorem exec_of_reliabilityEvent {s t : State} {i : Instr} (h : reliabilityEvent s i = some t) : exec i s = .next t := by
  unfold reliabilityEvent at h
  split at h <;> cases h
  case h_1 u k =>
    refine Eq.trans ?_ (next_ite_of_iff Iff.rfl)
    rw [← chargeOf_eq_points, ← State.chargeUnit_eq_charged]
    rfl
  case h_2 => rfl
  case h_3 u pass => exact execUnitTestComplete_eq s u pass
  case h_4 place => exact execUncorrectableError_eq s place
  case h_5 r => exact congrArg _ (if_congr (paired_iff s r.ctx) rfl rfl)
  case h_6 c va => exact congrArg _ (if_congr (paired_iff s c) rfl rfl)
  case h_7 v => exact execLockstepDivergeClear_eq s v

/-! ## The comparison (R341, R371) -/

/-- The partition diverges as stated. -/
theorem State.diverge_partitionStops (s : State) (m : BitVec 4) : partitionStops s m (State.diverge s m) := by
  refine ⟨rfl, rfl, rfl, rfl, rfl, rfl, rfl, ?_, fun c x hx hmask hdue => ?_⟩
  · exact List.map_congr_left fun c _ => if_congr beq_iff_eq rfl rfl
  · refine List.mem_append_right _ (List.mem_map.2 ⟨(c, x), List.mem_filter.2 ⟨hx, ?_⟩, rfl⟩)
    rw [Bool.and_eq_true]
    exact ⟨beq_iff_eq.2 hmask, hdue⟩

section
variable {s : State} {c : Nat} {digest : DWord} {x : Ctx}

/-- A running lockstep partition of paired packages is compared. -/
theorem execLockstepIntervalCompare_of_runs (hctx : State.ctx? s c = some x) (hmask : x.lockMask ≠ 0) (hruns : x.lockHalted = false)
    (hpaired : s.pkg.paired = true) : execLockstepIntervalCompare c digest s = .next (
      if crc64 s.pkg.traffic = digest then trafficLeaves s x.lockMask else State.diverge s x.lockMask) := by
  rw [execLockstepIntervalCompare, hctx]
  refine (if_neg ?_).trans (next_ite_of_iff Iff.rfl)
  exact not_or.2 ⟨hmask, not_or.2 ⟨Bool.eq_false_iff.1 hruns, Bool.not_eq_false _ ▸ hpaired⟩⟩

/-- With no such partition nothing is compared. -/
theorem execLockstepIntervalCompare_of_not_runs
    (hnone : ∀ x, State.ctx? s c = some x → x.lockMask = 0 ∨ x.lockHalted = true ∨ s.pkg.paired = false) :
    execLockstepIntervalCompare c digest s = .next s := by
  unfold execLockstepIntervalCompare
  split
  case h_1 => rfl
  case h_2 x hctx => exact if_pos (hnone x hctx)

end

/-- Settles O37: each event by its own equation, and the comparison by its two ends. That the digest is crc64 over the model's bytes of
the traffic is log entry 33, that a decision is applied only while the packages are paired log entry 13, and that an event that is not
due changes nothing log entry 38: all three are the model's choice. -/
theorem reliabilityEventsComplete : Obligations.ReliabilityEventsComplete := by
  intro s t i c digest
  refine ⟨exec_of_reliabilityEvent, fun x hctx hmask hruns hpaired => ?_, execLockstepIntervalCompare_of_not_runs⟩
  have hcompare := execLockstepIntervalCompare_of_runs (digest := digest) hctx hmask hruns hpaired
  refine ⟨fun hagree => hcompare.trans ?_, fun hdiffer => ⟨_, hcompare.trans ?_, State.diverge_partitionStops s x.lockMask⟩⟩
  · rw [if_pos hagree]
  · rw [if_neg hdiffer]

end Sys2Proof.Machine

/-! # The debug mailbox (R362 to R374) -/

namespace Sys2Proof.Machine

open Rules

/-! ## Commands (R363, R365, R368, R374) -/

/-- The test that the model makes of a command is the statements'. -/
theorem State.takes_iff (s : State) (c : Nat) (v : DWord) (op : Nat) (right : Bool) :
    State.takes s c v op right = true ↔ Command s c v op right := by
  have hcontext : (match State.ctx? s c with | some x => x.dbg.right || !right | none => false) = true ↔
      ∃ x, State.ctx? s c = some x ∧ (right = true → x.dbg.right = true) := by
    cases State.ctx? s c with
    | none => simp
    | some x => cases right <;> simp
  rw [Command, ← hcontext, ← State.linkUp_iff]
  simp only [State.takes, Bool.and_eq_true, beq_iff_eq, decide_eq_true_eq, and_assoc]
  rfl

/-- A group with no halt left is the same in the model. -/
theorem Group.letGo_eq_unhalted (g : Group) : Group.letGo g = unhalted g :=
  if_congr (by rw [Bool.or_eq_true, Bool.or_eq_true, or_assoc]) rfl rfl

section
variable {s : State} {c op : Nat} {v : DWord} {right : Bool} {f : Group → State} {g : Group}

/-- A command that is taken acts on the context's group in the slot that it names. -/
theorem State.onGroup_of_command (hcommand : Command s c v op right)
    (hgroup : State.groupAt? s (bits v.toNat 23 9) (bits v.toNat 18 5) = some g) (hctx : g.ctx = c) :
    State.onGroup s c v op right f = .next (f g) := by
  rw [State.onGroup, if_pos ((State.takes_iff s c v op right).2 hcommand), cmdHall, cmdSlot, hgroup]
  exact if_pos hctx

/-- One that is not taken, or that names no group of the context, changes nothing. -/
theorem State.onGroup_of_not_command (hnone : ¬ Command s c v op right ∨
      ∀ x, State.groupAt? s (bits v.toNat 23 9) (bits v.toNat 18 5) = some x → x.ctx ≠ c) :
    State.onGroup s c v op right f = .next s := by
  unfold State.onGroup
  by_cases hcommand : Command s c v op right
  · rw [if_pos ((State.takes_iff s c v op right).2 hcommand)]
    split
    case h_1 x hgroup => exact if_neg (hnone.resolve_left (not_not.2 hcommand) x hgroup)
    case h_2 => rfl
  · exact if_neg (mt (State.takes_iff s c v op right).1 hcommand)

/-- A command that names a group is one act on the group in its slot. -/
theorem exec_of_groupCommand {i : Instr} {t : State} (h : groupCommand s g i = some (c, v, op, right, t)) :
    ∃ f, exec i s = State.onGroup s c v op right f ∧ f g = t := by
  have hunhalted : Group.letGo = unhalted := funext Group.letGo_eq_unhalted
  unfold groupCommand at h
  split at h <;> cases h
  case h_1 => exact ⟨_, rfl, rfl⟩
  case h_2 => exact ⟨fun g => State.updGroup s g.hall g.slot unhalted, hunhalted ▸ rfl, rfl⟩
  case h_3 => exact ⟨_, rfl, rfl⟩
  case h_4 => exact ⟨_, rfl, rfl⟩
  case h_5 => exact ⟨_, rfl, rfl⟩
  case h_6 => exact ⟨_, rfl, rfl⟩

/-- DUMP, of a context with a dump area. -/
theorem execDump_eq (s : State) (c : Nat) (v : DWord) : execDump c v s = if State.takes s c v 11 true then .next (
    if ∃ x, State.ctx? s c = some x ∧ x.dbg.dumpBase ≠ 0 then
      { State.updDebug s c (fun d => { d with dumpDue := true }) with events := s.events ++ [.coreDump c] } else s) else .next s := by
  unfold execDump
  split
  case h_1 x hctx =>
    simp only [hctx, Option.some.injEq, exists_eq_left', Bool.and_eq_true, bne_iff_ne, ite_and, apply_ite Host.Outcome.next]
  case h_2 hnone =>
    have hrefused : ¬ State.takes s c v 11 true = true := fun htakes => by
      obtain ⟨-, -, -, -, -, x, hctx, -⟩ := (State.takes_iff s c v 11 true).1 htakes
      exact Option.some_ne_none x (hctx.symm.trans hnone)
    exact (if_neg hrefused).symm

/-- A command about a context takes effect where it is taken. -/
theorem exec_of_contextCommand {i : Instr} {t : State} (h : contextCommand s i = some (c, v, op, right, t)) :
    exec i s = if State.takes s c v op right then .next t else .next s := by
  have hunhalted : Group.letGo = unhalted := funext Group.letGo_eq_unhalted
  unfold contextCommand at h
  split at h <;> cases h
  case h_1 => rfl
  case h_2 => rw [← hunhalted]; rfl
  case h_3 => rfl
  case h_4 => rfl
  case h_5 => exact execDump_eq s c v

end

/-! ## The registers of the mailbox (R364, R366, R370) -/

section
variable {s : State} {c : Nat}

/-- A group that is let go, its replay hold gone too, is the same in the model. -/
theorem State.revoke_eq_revoked (s : State) (c : Nat) : State.revoke s c = revoked s c := by
  have hunhalted : Group.letGo = unhalted := funext Group.letGo_eq_unhalted
  rw [revoked, ← hunhalted]
  rfl

/-- The reserved bits of a register from bit `n` on. -/
theorem bits_to_top (v : DWord) {n m : Nat} (h : n + m = 64) : bits v.toNat n m = v.toNat / 2 ^ n := by
  refine Nat.mod_eq_of_lt (Nat.div_lt_of_lt_mul ?_)
  rw [← pow_add, h]
  exact v.isLt

/-- DBGCTL gives or revokes the right. -/
theorem execDebugRightWrite_eq (s : State) (c : Nat) (sup : Bool) (v : DWord) : execDebugRightWrite c sup v s = .next (
    if LinkUp s ∧ sup = true ∧ v.toNat < 4 then
      (if v.getLsbD 0 then State.updDebug s c (fun d => { d with right := true }) else revoked s c) else s) := by
  have hrefused : (State.linkUp s = false ∨ sup = false ∨ bits v.toNat 2 62 ≠ 0) ↔ ¬ (LinkUp s ∧ sup = true ∧ v.toNat < 4) := by
    have hclear : bits v.toNat 2 62 = 0 ↔ v.toNat < 4 := by
      rw [bits_to_top v rfl]
      omega
    rw [State.linkUp_eq_false_iff, ← Bool.not_eq_true, ne_eq, hclear]
    tauto
  rw [execDebugRightWrite, ← State.revoke_eq_revoked, ← apply_ite Host.Outcome.next]
  exact next_ite_of_iff_not hrefused

/-- SMPCFG. -/
theorem execSmpcfgWrite_eq (s : State) (c : Nat) (v : DWord) : execSmpcfgWrite c v s = .next (
    if LinkUp s ∧ v.toNat / 2 ^ 17 = 0 ∧ (v.getLsbD 16 = true → 16 ≤ bits v.toNat 0 16) then
      let u := State.updDebug s c (fun d => { d with smpEn := v.getLsbD 16, smpN := bits v.toNat 0 16, smpSince := s.clk })
      if v.getLsbD 16 then { u with halls := u.halls.map (fun h =>
        (h.1, { h.2 with samples := h.2.samples.map (fun x => if x.1 = c then (x.1, 0, x.2.2) else x) })) } else u
    else s) := by
  have hrefused : (State.linkUp s = false ∨ bits v.toNat 17 47 ≠ 0 ∨ (v.getLsbD 16 = true ∧ bits v.toNat 0 16 < 16)) ↔
      ¬ (LinkUp s ∧ v.toNat / 2 ^ 17 = 0 ∧ (v.getLsbD 16 = true → 16 ≤ bits v.toNat 0 16)) := by
    rw [State.linkUp_eq_false_iff, bits_to_top v rfl, ← not_le]
    tauto
  unfold execSmpcfgWrite
  dsimp only
  rw [← apply_ite Host.Outcome.next]
  exact next_ite_of_iff_not hrefused

/-- `Busy` is decided by the model's two searches. -/
theorem busy_iff (s : State) (c : Nat) :
    (s.blocks.any (fun b => b.ctx == c) || s.saved.any (fun i => i.gang.ctx == c)) = true ↔ Busy s c := by
  simp [Busy]

/-- RPCTL of a context. -/
theorem execRpctlWrite_of_ctx {x : Ctx} (hctx : State.ctx? s c = some x) (v : DWord) : execRpctlWrite c v s = .next (
    if LinkUp s ∧ x.dbg.right = true ∧ v.toNat / 8 = 0 ∧ bits v.toNat 0 2 ≠ 3 ∧ ¬ Busy s c then
      State.updDebug s c (fun d => if bits v.toNat 0 2 = 1 then
        { d with rpMode := 1, rpFull := false, rpHead := 0, rpGroups := 0, rpLast := [], rpEdges := [] }
        else { d with rpMode := bits v.toNat 0 2 })
    else s) := by
  have hrefused : (State.linkUp s = false ∨ x.dbg.right = false ∨ bits v.toNat 3 61 ≠ 0 ∨ bits v.toNat 0 2 = 3 ∨
      (s.blocks.any (fun b => b.ctx == c) || s.saved.any (fun i => i.gang.ctx == c)) = true) ↔
      ¬ (LinkUp s ∧ x.dbg.right = true ∧ v.toNat / 8 = 0 ∧ bits v.toNat 0 2 ≠ 3 ∧ ¬ Busy s c) := by
    rw [busy_iff, State.linkUp_eq_false_iff, bits_to_top v rfl, ← Bool.not_eq_true, show 2 ^ 3 = 8 from rfl]
    simp only [ne_eq, not_and_or, not_not]
  unfold execRpctlWrite
  rw [hctx]
  dsimp only
  by_cases hmode : bits v.toNat 0 2 = 1
  · rw [if_pos hmode]
    refine (next_ite_of_iff_not hrefused).trans ?_
    simp only [if_pos hmode]
  · rw [if_neg hmode]
    refine (next_ite_of_iff_not hrefused).trans ?_
    simp only [if_neg hmode]

/-! ## Dumps, edits and samples (R366, R371, R374) -/

/-- CORE_DUMP of a context. -/
theorem execCoreDump_of_ctx {x : Ctx} (hctx : State.ctx? s c = some x) : execCoreDump c s = .next (if x.dbg.dumpDue = true then
    State.updDebug (State.writeDump s c 0 0 x.lockHalted) c (fun d => { d with dumpDue := false }) else s) := by
  rw [execCoreDump, hctx]
  exact next_ite_of_iff Iff.rfl

/-- The view shows a group of the context that is halted. -/
theorem State.viewStat_eq_one_iff {d : Debug} {g : Group} (hview : State.viewed s d = some g) :
    State.viewStat s c d = 1 ↔ g.ctx = c ∧ g.halted = true := by
  unfold State.viewStat
  split
  case h_1 hnone => simp [State.viewed, hnone] at hview
  case h_2 =>
    rw [hview]
    dsimp only
    split <;> simp_all

/-- An edit through the view. -/
theorem execGroupViewEdit_of_ctx {x : Ctx} (hctx : State.ctx? s c = some x) (e : ViewEdit) : execGroupViewEdit c e s = .next (
    match State.viewed s x.dbg with
    | none => s
    | some g =>
      if LinkUp s ∧ x.dbg.right = true ∧ g.ctx = c ∧ g.halted = true then
        match State.edit s g x.dbg e with
        | none => s
        | some u => State.updGroup (State.updDebug u c (fun d => { d with edited := true })) g.hall g.slot
            (fun y => { y with syncOwed := some 9 })
      else s) := by
  rw [execGroupViewEdit, hctx]
  dsimp only
  cases hview : State.viewed s x.dbg with
  | none => rfl
  | some g =>
    have hrefused : (State.linkUp s = false ∨ x.dbg.right = false ∨ State.viewStat s c x.dbg ≠ 1) ↔
        ¬ (LinkUp s ∧ x.dbg.right = true ∧ g.ctx = c ∧ g.halted = true) := by
      rw [ne_eq, State.viewStat_eq_one_iff hview, State.linkUp_eq_false_iff, ← Bool.not_eq_true]
      tauto
    dsimp only
    cases State.edit s g x.dbg e with
    | none => exact next_ite_of_iff_not hrefused
    | some u => exact next_ite_of_iff_not hrefused

/-- The sample of a context's group in a hall. -/
def sampleTaken (s : State) (h c : Nat) (d : Debug) (g : Group) : State :=
  State.putSample (State.updHall s h (fun y => { y with
      samples := y.samples.filter (fun p => p.1 != c) ++ [(c, (g.slot + 1) % 32, (samplePlace s h c).2 + 1)] })) c d
    (sampleRecord g (State.queueOf s g.ctx g.seq) (State.sampled s g) ((samplePlace s h c).2 + 1))

/-- A sample that is due is of the group that `sampledGroup` finds. -/
theorem execSampleFire_of_due {x : Ctx} {h : Nat} (hctx : State.ctx? s c = some x) (hdue : State.sampleDue s x.dbg = true) :
    execSampleFire h c s = match sampledGroup s h c (samplePlace s h c).1 with
      | none => .next s
      | some g => .next (sampleTaken s h c x.dbg g) := by
  rw [execSampleFire, hctx]
  refine (if_neg (Bool.eq_false_iff.not.2 (not_not.2 hdue))).trans ?_
  unfold sampleTaken samplePlace
  cases (State.hall s h).samples.find? (fun p => p.1 == c) <;> rfl

/-- A sample that is due records the group that `sampledGroup` finds. -/
theorem execSampleFire_of_ctx {x : Ctx} (hctx : State.ctx? s c = some x) (h : Nat) : execSampleFire h c s = .next (
    if State.sampleDue s x.dbg = true then
      match sampledGroup s h c (samplePlace s h c).1 with
      | none => s
      | some g => State.putSample (State.updHall s h (fun y => { y with
            samples := y.samples.filter (fun p => p.1 != c) ++ [(c, (g.slot + 1) % 32, (samplePlace s h c).2 + 1)] })) c x.dbg
          (sampleRecord g (State.queueOf s g.ctx g.seq) (State.sampled s g) ((samplePlace s h c).2 + 1))
    else s) := by
  by_cases hdue : State.sampleDue s x.dbg = true
  · rw [execSampleFire_of_due hctx hdue, if_pos hdue]
    cases sampledGroup s h c (samplePlace s h c).1 <;> rfl
  · rw [if_neg hdue, execSampleFire, hctx]
    exact if_pos (Bool.eq_false_iff.2 hdue)

/-- A context that does not exist has no mailbox. -/
theorem exec_mailbox_of_none (hctx : State.ctx? s c = none) (v : DWord) (h : Nat) (e : ViewEdit) :
    exec (.rpctlWrite c v) s = .next s ∧ exec (.coreDump c) s = .next s ∧ exec (.groupViewEdit c e) s = .next s ∧
      exec (.sampleFire h c) s = .next s := by
  refine ⟨show execRpctlWrite c v s = _ from ?_, show execCoreDump c s = _ from ?_, show execGroupViewEdit c e s = _ from ?_,
    show execSampleFire h c s = _ from ?_⟩
  · rw [execRpctlWrite, hctx]
  · rw [execCoreDump, hctx]
  · rw [execGroupViewEdit, hctx]
  · rw [execSampleFire, hctx]

/-- A group whose replay edges are satisfied is held no longer. -/
theorem execReplayRelease_eq (s : State) (h n : Nat) : execReplayRelease h n s = .next (
    match State.groupAt? s h n with
    | none => s
    | some g => if g.replayHold = true ∧ State.replayWaits s g = false then
        State.updGroup s h n (fun x => { x with replayHold := false }) else s) := by
  unfold execReplayRelease
  cases State.groupAt? s h n with
  | none => rfl
  | some g => exact next_ite_of_iff (by rw [Bool.and_eq_true, Bool.not_eq_true'])

end

/-- Settles O36: a command by the one test that all share, every other event by its own equation. That a dump, a sample or a release
that is not due changes nothing is log entry 38, the model's choice. -/
theorem debugMailboxComplete : Obligations.DebugMailboxComplete := by
  intro s i c v op right t
  refine ⟨fun g hcommand => ?_, fun hcommand => ?_, fun sup => execDebugRightWrite_eq s c sup v, execSmpcfgWrite_eq s c v,
    fun x hctx => execRpctlWrite_of_ctx hctx v,
    fun x hctx => ⟨execCoreDump_of_ctx hctx, execGroupViewEdit_of_ctx hctx, execSampleFire_of_ctx hctx⟩,
    fun hnone h e => exec_mailbox_of_none hnone v h e, execReplayRelease_eq s⟩
  · obtain ⟨f, hexec, rfl⟩ := exec_of_groupCommand hcommand
    rw [hexec]
    exact ⟨State.onGroup_of_command, State.onGroup_of_not_command⟩
  · rw [exec_of_contextCommand hcommand]
    exact ⟨fun htaken => if_pos ((State.takes_iff s c v op right).2 htaken),
      fun hrefused => if_neg (mt (State.takes_iff s c v op right).1 hrefused)⟩

end Sys2Proof.Machine
